-- ==== Sys2Proof/Word.lean ====
section
/-! DEFINITION. The word types of the device: bytes, 16-bit cubit words, 32-bit register words, 64-bit double words,
32-byte halves and 64-byte lines (R9, R10, R60, R293, R412). -/

namespace Sys2Proof

abbrev Byte := BitVec 8
abbrev Half := BitVec 16
abbrev Word := BitVec 32
abbrev DWord := BitVec 64
/-- One 32-byte half of a memory line, byte 0 in the least significant bits (R9). -/
abbrev HalfLine := BitVec 256
/-- A 64-byte memory line, byte 0 in the least significant bits (R9, R412). -/
abbrev Line := BitVec 512

end Sys2Proof
end

