-- ==== Sys2Proof/Syntax.lean ====
section
/-! DEFINITION. The commands of the block: one constructor for each row of spec/opcode_table.json, with the operands the
outside supplies, and the types of those operands. -/

namespace Sys2Proof

/-! ### Ring packets (chapter 05) -/

/-- The three traffic classes (R290, R315). -/
inductive TClass where
  | g | p | b
  deriving DecidableEq, Repr

/-- Completion status of a request (R300). -/
inductive Status where
  | ok | poison | errTarget | errTimeout | errFenced | errDenied
  deriving DecidableEq, Repr

/-- Poison reason (R300). -/
inductive PoisonRsn where
  | none | memUe | integLost | source | fabric
  deriving DecidableEq, Repr

/-- A DATA flit: 32 payload bytes and their poison bit (R293, R297). -/
structure DataFlit where
  payload : HalfLine
  poison  : Bool
  deriving DecidableEq, Repr

/-- A request packet: the CMD flit's header and payload fields (R290, R295) and its DATA flits. `complete` is false for
a packet whose LAST flit has not arrived (R307). `poison` is the CMD flit's own poison bit, which marks inline data
(R289, R293, R296). -/
structure ReqPkt where
  dst      : BitVec 9
  src      : BitVec 9
  lane     : Fin 4
  cls      : TClass
  gfid     : BitVec 8
  addr     : BitVec 48
  mid      : BitVec 12
  tag      : BitVec 13
  opc      : BitVec 3
  lenm1    : BitVec 8
  dbg      : Bool
  sync     : Bool
  late     : Bool
  seq      : BitVec 16
  crc      : Word
  imm      : DWord
  poison   : Bool
  data     : List DataFlit
  complete : Bool
  deriving DecidableEq, Repr

/-- A completion packet: the CPL flit's header and payload fields (R290, R299) and its DATA flits. -/
structure CplPkt where
  dst      : BitVec 9
  src      : BitVec 9
  lane     : Fin 4
  cls      : TClass
  gfid     : BitVec 8
  tag      : BitVec 13
  status   : Status
  late     : Bool
  peek     : Bool
  lenm1    : BitVec 8
  rsn      : PoisonRsn
  seq      : BitVec 16
  crc      : Word
  imm      : DWord
  data     : List DataFlit
  complete : Bool
  deriving DecidableEq, Repr

/-- What a requester at a stop asks for: the fields it chooses itself (R287, R295, R309, R315) and the tag it allocates. -/
structure IssueReq where
  stop  : BitVec 9
  tag   : BitVec 13
  mid   : BitVec 12
  cls   : TClass
  opc   : BitVec 3
  addr  : BitVec 48
  lenm1 : BitVec 8
  dbg   : Bool
  imm   : DWord
  poison : Bool
  data  : List DataFlit
  deriving DecidableEq, Repr

/-- What a code word shows when a stop or a memory checks it: no error, one wrong bit, or more than the code corrects. -/
inductive CodeErr where
  | clean | single | uncorrectable
  deriving DecidableEq, Repr

/-- A slot that passes a stop (R284, R291, R316): ring, lane, slot number and slot position; what the codes of R289 find wrong in
the flit's header and payload beyond what State knows; and whether the destinations of the first P flit and of the first B flit that
wait there have buffer space reserved. -/
structure SlotPass where
  ring  : Fin 60
  lane  : Fin 4
  slot  : Fin 128
  pos   : Fin 128
  hdr   : CodeErr
  pay   : List CodeErr
  roomP : Bool
  roomB : Bool
  deriving DecidableEq, Repr

/-- What the fabric answers on TRSP (R334): the status it gives, the HTAG and the data words, each with its POISON
sideband bit (R978). -/
structure TrspMsg where
  status : BitVec 3
  htag   : BitVec 6
  rsn    : BitVec 4
  data   : List (DWord × Bool)
  deriving DecidableEq, Repr

/-- A request the fabric issues on IREQ (R334), with its data words and their POISON sideband bits (R978). -/
structure IreqMsg where
  addr  : BitVec 48
  opc   : BitVec 3
  cls   : TClass
  lenm1 : BitVec 8
  htag  : BitVec 6
  data  : List (DWord × Bool)
  deriving DecidableEq, Repr

/-! ### Fabric commands (chapters 02 to 04) -/

/-- One access of a bushel port at an edge with EN = 1 (R191, R192). -/
structure BshAccess where
  addr     : BitVec 13
  din      : BitVec 96
  we       : BitVec 12
  poisonIn : Bool
  deriving DecidableEq, Repr

/-- What falls at one edge of a bushel: the accesses of ports A and B and CLEAR (R191, R206). `same` says that the edge is of the same
instant as the fabric edge commanded before it. Where the ports run on different clocks, `choice` says which check groups of a read
see the new contents and `aLast` whether port A's event is the later one (R207). -/
structure BshEdge where
  same   : Bool
  a      : Option BshAccess
  b      : Option BshAccess
  clear  : Bool
  choice : BitVec 12
  aLast  : Bool
  deriving DecidableEq, Repr

/-- A frame record as it leaves decompression (R693): its own address, its data and its CRC. -/
structure FrameRec where
  address : Word
  data    : BitVec 4096
  crc     : Word
  deriving DecidableEq, Repr

/-- Which stream of a MAC tile a word moves on (R243). -/
inductive TileStream where
  | is0 | is1 | os
  deriving DecidableEq, Repr

/-! ### Die links and firewall (chapter 06) -/

/-- What a link end offers in MAP (R371, R383, R384): widths (bit 0 W16, 1 W32, 2 W64), rates (bit 0 8, 1 12, 2 16 Gb/s),
repair lanes, features (capability bits 3 to 0), interface revision and the number of stops a third-party die declares. -/
structure LinkOffer where
  widths : BitVec 3
  rates  : BitVec 3
  repair : Bool
  feats  : BitVec 4
  major  : Nat
  minor  : Nat
  stops  : Nat
  deriving DecidableEq, Repr

/-- The lane marks of one end: the lanes it transmits and the lanes it receives, 1 for good (R370). -/
structure LaneMarks where
  tx : BitVec 68
  rx : BitVec 68
  deriving DecidableEq, Repr

/-- A request packet as the third-party die sends it, from its stop `j` (R388, R389). -/
structure XReq where
  j      : BitVec 4
  type   : BitVec 2
  cls    : BitVec 2
  addr   : BitVec 48
  mid    : BitVec 8
  tag    : BitVec 13
  opc    : BitVec 3
  lenm1  : BitVec 8
  dbg    : Bool
  imm    : DWord
  poison : Bool
  data   : List DataFlit
  deriving DecidableEq, Repr

/-- A completion as the third-party die returns it, with its STATUS and POISON_RSN codes (R394). -/
structure XCpl where
  j      : BitVec 4
  tag    : BitVec 13
  status : BitVec 3
  rsn    : BitVec 4
  late   : Bool
  bytes  : List (Byte × Bool)
  deriving DecidableEq, Repr


/-! ### Memory (chapters 07, 08) -/

/-- A write the MPE presents to the controllers (R412): hub-local offset of the line, byte mask, data, MAC, poison flag of
each half (bit 0 the lower), and whether the light code is selected. -/
structure LineWrite where
  addr   : BitVec 48
  mask   : DWord
  data   : Line
  mac    : DWord
  poison : BitVec 2
  light  : Bool
  deriving DecidableEq, Repr

/-- The command that met a CA parity error (R450): the next one to the rank, or one given whole. -/
inductive CaCommand where
  | next
  | read (addr : BitVec 48) (light : Bool)
  | write (w : LineWrite)
  deriving DecidableEq, Repr

/-- What training a CXL port and enumerating its device finds (R466, R472, R485): no device or no training where `up` is
false; lanes, speed code, device capacity in GiB, IDE active. -/
structure CxlTrain where
  up    : Bool
  width : Fin 9
  speed : Fin 4
  gib   : Nat
  ide   : Bool
  deriving DecidableEq, Repr


/-! ### Port dies (chapter 10) -/

/-- A request that a PCIe host sends to the endpoint (R625, R626): BAR0 or BAR2, offset, length minus 1, data and EP bit.
`id` tells requests apart. -/
structure PcieReq where
  id    : Nat
  bar2  : Bool
  off   : BitVec 36
  write : Bool
  lenm1 : BitVec 12
  data  : List Byte
  ep    : Bool
  deriving DecidableEq, Repr

/-- How a PCIe completion ends: Successful Completion, Unsupported Request or Completer Abort (R632). -/
inductive PcieStatus where
  | sc | ur | ca
  deriving DecidableEq, Repr

/-- What happens at an outbound entry (R631, R632): a ring request arrives; the PCIe completion of a TLP tag arrives; or none has
come within the transaction timeout. -/
inductive PcieOutEv where
  | access (p : ReqPkt)
  | answer (tag : Nat) (status : PcieStatus) (ep : Bool) (data : List Byte)
  | expire (tag : Nat)
  deriving DecidableEq, Repr

/-- A CSI-2 packet header as the receiver finds it (R653): what its ECC shows, and a start-of-transmission error. -/
structure CsiHdr where
  ecc : CodeErr
  sot : Bool
  deriving DecidableEq, Repr

/-- A CRC unit (R679): unit `u` of a hub or of a port die. -/
inductive CrcUnit where
  | hub (h : Fin 2) (u : Fin 4)
  | port (p : Fin 4) (u : Fin 2)
  deriving DecidableEq, Repr

/-- A command mailbox (R633, R761): the PCIe mailbox of a port die, or the fabric mailbox of an acre's master. -/
inductive MbxKind where
  | pcie (p : Fin 4)
  | fabric
  deriving DecidableEq, Repr


/-! ### Configuration (chapter 11) -/

/-- A step of a configuration operation: a write of CFG_CMD, the result of a host's BIST (R724), the stored segment read from flash, none
when it cannot be read (R725 step 1), the source die that does not answer its capture (R730), or a further step of what is under way. -/
inductive CfgStep where
  | go (mid : BitVec 12) (value : Word)
  | bist (pass : Bool)
  | fetched (data : Option (List Byte))
  | silent
  | on
  deriving DecidableEq, Repr


/-! ### Commands (chapter 12) -/

/-! ### Processors (chapter 13) and power states (chapter 15) -/

/-- What an application core does with memory (R803, R804, R828): an AMO other than AMOSWAP and AMOADD is `amo`. -/
inductive CoreOp where
  | load | fetch | store | amoSwap | amoAdd | amo | lr | sc
  deriving DecidableEq, Repr

/-- What becomes of a ring access of an application core: it goes out, in machine mode or not, with the fields of its request; its
completion arrives; an L1 line or, with `l2`, an L2 line holds an uncorrectable or, with `ce`, a correctable error (R980): a dirty
line is written back poisoned under a tag. -/
inductive CoreAcc where
  | issue (op : CoreOp) (machine : Bool) (tag : BitVec 13) (addr : BitVec 48) (lenm1 : BitVec 8) (imm : DWord)
      (poison : Bool) (data : List DataFlit)
  | finish (tag : BitVec 13)
  | clean (l2 : Bool) (ce : Bool) (addr : BitVec 48)
  | dirty (l2 : Bool) (tag : BitVec 13) (addr : BitVec 48) (data : HalfLine × HalfLine)
  deriving DecidableEq, Repr

/-- What a trigger module sees (R818-R821): an access with its kind (execute, load, store), mode (0 U, 1 S, 3 M), virtual address and
value, or a trigger of type 3, 4 or 5 whose event has come. -/
inductive TrigEv where
  | access (exec load store : Bool) (mode : BitVec 2) (vaddr value : DWord)
  | event (trigger : Fin 8)
  deriving DecidableEq, Repr

/-- What the power controller finds at a WFI of the MC of H0 (R899, R900): the MC of H1 is in WFI, application cores in WFI by
4 * hub + core, an interrupt other than that of the error collector is pending, and whether the commit point has passed when the
checks end. -/
structure WfiFind where
  h1     : Bool
  cores  : BitVec 8
  irq    : Bool
  commit : Bool
  deriving DecidableEq, Repr


/-! ### Start-up and resets (chapters 01, 16) -/

/-- What the clocks and rails show when phase SP1 ends or 10 ms have passed (R854, R855, R889): REFCLK and IOSC READY by hub, the
loss detector has tripped, the last monitor window was out of range, the PLLs of both hubs are locked, every rail monitor reports good,
AO_XTAL is READY. -/
structure Sp1Find where
  refReady : BitVec 2
  iosc     : BitVec 2
  tripped  : Bool
  badFreq  : Bool
  plls     : Bool
  rails    : Bool
  xtal     : Bool
  deriving DecidableEq, Repr

/-- What phase SP2 finds (R942, R947, R992, R1010): the CFG_MODE straps, hubs that fail LBIST, hub MBIST and SRAM MBIST, physical
sectors of the lifetime store whose CRC does not check (copy * 64 + sector), and firmware slots that fail their check
(2 * unit + slot). -/
structure Sp2Find where
  mode    : BitVec 3
  lbist   : BitVec 2
  mbist   : BitVec 2
  sram    : BitVec 2
  sectors : List Nat
  slots   : List Nat
  deriving DecidableEq, Repr

/-- What phase SP3 finds (R20, R29, R948): dies whose identity register reads a TYPE other than their own, TYPE of the
third-party dies (0 where there is none), port dies that fail their BIST, transit islands that fail
link training or their self-test, and rows whose ring cannot close. -/
structure Sp3Find where
  types   : List (Fin 64 × Byte)
  x0      : Byte
  x1      : Byte
  ports   : BitVec 4
  islands : DWord
  cut     : BitVec 4
  deriving DecidableEq, Repr

/-- What training a channel at SP5 finds (R416): the rate reached, coded as DMC_STAT.RATE, the physical ranks that trained at it, and
the seed the security engine gives the LFSR (R447). -/
structure ChanTrain where
  rate    : Nat
  trained : BitVec 4
  seed    : BitVec 31
  deriving DecidableEq, Repr


/-- The commands the block takes, one for each row of the table; each docstring names the row's rule. -/
inductive Instr where
  /-- REGISTER_WRITE (R1022). A write to a CSR that has no row of its own takes effect under its access codes, with RWS, RWL and W1C handling. -/
  | registerWrite (mid : BitVec 12) (key : BitVec 32) (value : Word)
  /-- LOW_WORD_READ (R12). A 32-bit read of the low word of a 64-bit register latches the high word, and any further shown value, for that master. -/
  | lowWordRead (mid : BitVec 12) (key : BitVec 32) (dbg : Bool)
  /-- PORST (R928). PORST_N held low, or a wake from PARK, starts a power-on reset of every domain except the AO domain. -/
  | porst (parkWake : Bool)
  /-- AO_POR (R928). VDD_AO rising into its range starts a power-on reset that includes the AO domain. -/
  | aoPor (dly : BitVec 3)
  /-- SP0 (R942). With AO power-good and PORST_N high, AO_RC becomes ready and start-up passes from SP0 to SP1. -/
  | sp0 (us : BitVec 24)
  /-- SP1 (R854). When the start-up delay has passed, REFCLK and IOSC are ready, the hub PLLs are locked and the rails are good, start-up leaves SP1, or stops in SAFE after 10 ms. -/
  | sp1 (find : Sp1Find) (us : BitVec 24)
  /-- SP2 (R942). Hub ROM boot, firmware authentication, BISTs and the reading of the BCR and the repair map end with the hub ready. -/
  | sp2 (find : Sp2Find) (us : BitVec 24)
  /-- SP3 (R942). Die discovery, identity checks, port-die BIST, transit-island self-test, link training, application of the repair map and forming of the capability set. -/
  | sp3 (find : Sp3Find) (us : BitVec 24)
  /-- SP4 (R942). Logic-die BIST runs on every logic site, spares included. -/
  | sp4 (fails : DWord) (us : BitVec 24)
  /-- SP5 (R942). DDR5 and CXL training, self-refresh exit, integrity roots initialized or resumed, and the rekey resumed. -/
  | sp5 (chans : Vector ChanTrain 4) (ports : Vector CxlTrain 4) (us : BitVec 24)
  /-- SP6 (R703). The configuration master takes the image from the source the straps select and loads segments. -/
  | sp6 (us : BitVec 24)
  /-- SP7 (R712). Stage 1 of every LOADED acre begins within 1 µs across the device. -/
  | sp7 (us : BitVec 24)
  /-- IMAGE_STAGING (R1027). The configuration master fetches stored segments into the stacked SRAM staging area in ascending offset order. -/
  | imageStaging (sfdp : Option Bool) (data : Option (List Byte))
  /-- EARLY_ACRE_LOAD (R710). The early acre is loaded as soon as the header is accepted and its die has passed SP4, and is released when its load ends. -/
  | earlyAcreLoad
  /-- ACRE_LOAD_BEGIN (R697). An LDC starts the load of an acre once its segment is staged, zeroing its frames and driver counts and asserting GSR. -/
  | acreLoadBegin (acre : Fin 192)
  /-- FRAME_RECORD (R695). A decompressed frame record is checked for CRC and address and written to its acre. -/
  | frameRecord (acre : Fin 192)
  /-- STAGE1 (R717). Release stage 1 opens the gates, drives outbound wires, exchanges group clocks, centres deskew FIFOs, ends clamps and drives pins. -/
  | stage1 (acre : Fin 192)
  /-- STAGE2 (R717). After GAP12 release-clock cycles, bushel and data-memory writes and host-port access open. -/
  | stage2 (acre : Fin 192)
  /-- STAGE3 (R717). After GAP23 release-clock cycles GSR is released and auto-start tiles start. -/
  | stage3 (acre : Fin 192)
  /-- NO_CLOCK (R718). If the release clock has not run for 1 ms, the acre goes to FAILED with reason NO_CLOCK. -/
  | noClock (acre : Fin 192)
  /-- PASS (R69). Word-mode operation PASS: RES = A. -/
  | pass (site : Fin 64) (x : Fin 128) (y : Fin 128) (same : Bool)
  /-- LDK (R69). Word-mode operation LDK: RES = K. -/
  | ldk (site : Fin 64) (x : Fin 128) (y : Fin 128) (same : Bool)
  /-- ADD (R70). Word-mode operation ADD: RES = A + B with carry and overflow flags. -/
  | add (site : Fin 64) (x : Fin 128) (y : Fin 128) (same : Bool)
  /-- ADC (R70). Word-mode operation ADC: RES = A + B + cin. -/
  | adc (site : Fin 64) (x : Fin 128) (y : Fin 128) (same : Bool)
  /-- SUB (R70). Word-mode operation SUB: RES = A + ~B + 1. -/
  | sub (site : Fin 64) (x : Fin 128) (y : Fin 128) (same : Bool)
  /-- SBC (R70). Word-mode operation SBC: RES = A + ~B + cin. -/
  | sbc (site : Fin 64) (x : Fin 128) (y : Fin 128) (same : Bool)
  /-- CMP (R70). Word-mode operation CMP: RES = A with flags as SBC. -/
  | cmp (site : Fin 64) (x : Fin 128) (y : Fin 128) (same : Bool)
  /-- MINU (R69). Word-mode operation MINU: unsigned minimum of A and B. -/
  | minu (site : Fin 64) (x : Fin 128) (y : Fin 128) (same : Bool)
  /-- MAXU (R69). Word-mode operation MAXU: unsigned maximum of A and B. -/
  | maxu (site : Fin 64) (x : Fin 128) (y : Fin 128) (same : Bool)
  /-- MINS (R69). Word-mode operation MINS: signed minimum of A and B. -/
  | mins (site : Fin 64) (x : Fin 128) (y : Fin 128) (same : Bool)
  /-- MAXS (R69). Word-mode operation MAXS: signed maximum of A and B. -/
  | maxs (site : Fin 64) (x : Fin 128) (y : Fin 128) (same : Bool)
  /-- AND (R69). Word-mode operation AND: RES = A & B. -/
  | and (site : Fin 64) (x : Fin 128) (y : Fin 128) (same : Bool)
  /-- OR (R69). Word-mode operation OR: RES = A | B. -/
  | or (site : Fin 64) (x : Fin 128) (y : Fin 128) (same : Bool)
  /-- XOR (R69). Word-mode operation XOR: RES = A ^ B. -/
  | xor (site : Fin 64) (x : Fin 128) (y : Fin 128) (same : Bool)
  /-- ANDN (R69). Word-mode operation ANDN: RES = A & ~B. -/
  | andn (site : Fin 64) (x : Fin 128) (y : Fin 128) (same : Bool)
  /-- SHL (R71). Word-mode operation SHL: A shifted left by B[3:0]. -/
  | shl (site : Fin 64) (x : Fin 128) (y : Fin 128) (same : Bool)
  /-- SHR (R71). Word-mode operation SHR: A shifted right by B[3:0] with zero fill. -/
  | shr (site : Fin 64) (x : Fin 128) (y : Fin 128) (same : Bool)
  /-- SAR (R71). Word-mode operation SAR: A shifted right by B[3:0] with sign fill. -/
  | sar (site : Fin 64) (x : Fin 128) (y : Fin 128) (same : Bool)
  /-- ROL (R71). Word-mode operation ROL: A rotated left by B[3:0]. -/
  | rol (site : Fin 64) (x : Fin 128) (y : Fin 128) (same : Bool)
  /-- ROR (R71). Word-mode operation ROR: A rotated right by B[3:0]. -/
  | ror (site : Fin 64) (x : Fin 128) (y : Fin 128) (same : Bool)
  /-- SEL (R69). Word-mode operation SEL: A if the condition is true, else B. -/
  | sel (site : Fin 64) (x : Fin 128) (y : Fin 128) (same : Bool)
  /-- PACK (R69). Word-mode operation PACK: {B[7:0], A[7:0]}. -/
  | pack (site : Fin 64) (x : Fin 128) (y : Fin 128) (same : Bool)
  /-- UNPKL (R69). Word-mode operation UNPKL: the low byte of A, zero-extended. -/
  | unpkl (site : Fin 64) (x : Fin 128) (y : Fin 128) (same : Bool)
  /-- UNPKH (R69). Word-mode operation UNPKH: the high byte of A, zero-extended. -/
  | unpkh (site : Fin 64) (x : Fin 128) (y : Fin 128) (same : Bool)
  /-- RESERVED_OPC (R74). A context word with a reserved opcode gives RES 0 and writes no state or flags. -/
  | reservedOpc (site : Fin 64) (x : Fin 128) (y : Fin 128) (same : Bool)
  /-- SYNCHRONOUS_CLEAR (R85). With CLR_EN = 1 and CTL1 = 1 at an edge, the cubit takes its GSR values. -/
  | synchronousClear (site : Fin 64) (x : Fin 128) (y : Fin 128) (same : Bool)
  /-- GRAIN_EDGE (R93). At a bit-mode clock edge each grain flip-flop loads GSR, set/reset, hold or its LUT or sum output. -/
  | grainEdge (site : Fin 64) (x : Fin 128) (y : Fin 128) (same : Bool)
  /-- CUBIT_SNAP_REQ (R107). A write of 1 to REQ clears DONE and STALE and arms a snapshot of the addressed cubit, unless the acre is loading or isolated. -/
  | cubitSnapReq (site : Fin 64)
  /-- CUBIT_SNAPSHOT (R107). At the next edge of the addressed cubit's clock the LDC captures its state and sets DONE. -/
  | cubitSnapshot (site : Fin 64) (same : Bool)
  /-- STALE (R108). If no clock edge occurs within 10 µs, the LDC captures the current state and sets STALE and DONE. -/
  | stale (site : Fin 64)
  /-- CHAN_SLIP (R143). A deskew FIFO near overrun or underrun re-centres, repeating or dropping one cycle, and counts the slip. -/
  | chanSlip (site : Fin 64) (edge : Fin 4) (line : Fin 32) (drop : Bool)
  /-- PCLK_UNLOCK (R149). A fabric PLL losing lock stops its clock without a partial pulse and sets PCLK_UNLOCK. -/
  | pclkUnlock (site : Fin 64) (n : Fin 8)
  /-- PCLK_RELOCK (R149). A fabric PLL regaining lock restarts its clock and re-centres the deskew FIFOs. -/
  | pclkRelock (site : Fin 64) (n : Fin 8)
  /-- LCLK_EN_WRITE (R153). A change of a local user clock's EN stops or starts it at its low phase. -/
  | lclkEnWrite (site : Fin 64) (m : Fin 16) (value : Word)
  /-- PROBE_SEL_WRITE (R160). A write to LDC_PROBE_SEL sets a pending lane change, replacing any earlier pending value, and sets SEL_PENDING. -/
  | probeSelWrite (site : Fin 64) (lane : Fin 64) (value : Word)
  /-- PROBE_LANE_CHANGE (R160). Within 8 probe-clock cycles the lane switches to its newest source at one edge. -/
  | probeLaneChange (site : Fin 64) (lane : Fin 64) (same : Bool)
  /-- PROBE_CTL_WRITE (R162). A write of LDC_PROBE_CTL changes destination, probe clock and pin request, and the row's pin owner is decided again. -/
  | probeCtlWrite (site : Fin 64) (value : Word)
  /-- TRACE_ARM (R170). Writing ARM = 1 clears WPTR, WRAPPED, TRIGGERED, STOPPED and TRIG_PTR and starts capture. -/
  | traceArm (site : Fin 64) (value : Word)
  /-- TRACE_ENTRY_WRITE (R165). While armed, the trace buffer writes one entry per probe-clock edge and advances WPTR. -/
  | traceEntryWrite (site : Fin 64) (same : Bool)
  /-- SW_TRIG (R166). A write of 1 to SW_TRIG triggers the trace at the next probe-clock edge. -/
  | swTrig (site : Fin 64)
  /-- FABRIC_TRIGGER (R166). A rising edge of the die's fabric trigger triggers the trace and, with TRIG_OUT_EN, drives the trigger network. -/
  | fabricTrigger (site : Fin 64)
  /-- NETWORK_TRIGGER (R168). A trigger-network signal is taken at the first or second probe-clock edge after it arrives. -/
  | networkTrigger (site : Fin 64) (second : Bool)
  /-- STOPPED (R167). After POST further entries the LDC sets STOPPED and clears ARM. -/
  | stopped (site : Fin 64)
  /-- BUSHEL_READ (R193). A port access with EN = 1 and no write enable reads and decodes a word and reports its flags. -/
  | bushelRead (site : Fin 64) (bushel : Fin 768) (e : BshEdge)
  /-- BUSHEL_WRITE (R194). A port access with write enables stores its check groups, handles poison and drives DOUT by WMODE. -/
  | bushelWrite (site : Fin 64) (bushel : Fin 768) (e : BshEdge)
  /-- CLEAR (R198). CLEAR = 1 at a port A edge clears every valid bit of the bushel. -/
  | clear (site : Fin 64) (bushel : Fin 768) (e : BshEdge)
  /-- SCRUB_ROW (R208). After the row spacing expires, the bushel scrubs one row in an idle port B cycle. -/
  | scrubRow (site : Fin 64) (bushel : Fin 768) (same : Bool)
  /-- SCRUB_WRITE_BACK (R209). A corrected strong-mode row is written back in the next idle port B cycle unless overwritten first. -/
  | scrubWriteBack (site : Fin 64) (bushel : Fin 768) (same : Bool)
  /-- DIAG_GO (R214). A write of 1 to GO starts a diagnostic row access and sets BUSY, or is refused with DIAG_BAD. -/
  | diagGo (mid : BitVec 12) (site : Fin 64) (value : Word)
  /-- DIAG_ACCESS (R214). The diagnostic access reads or writes one raw row in an idle port B cycle and clears BUSY. -/
  | diagAccess (site : Fin 64) (same : Bool)
  /-- DIAG_TIMEOUT (R215). With no idle port B cycle within 10 µs, the diagnostic access is abandoned. -/
  | diagTimeout (site : Fin 64)
  /-- GO (R246). GO written or FGO rising starts a halted tile at START_PC with an empty loop stack. -/
  | go (site : Fin 64) (tile : Fin 128) (fgo : Bool)
  /-- STOP (R247). A write of STOP requests that the tile halt at the next instruction boundary. -/
  | stop (site : Fin 64) (tile : Fin 128)
  /-- TILE_STOP_HALT (R247). At the next instruction boundary the tile enters STOPPED after issued instructions complete. -/
  | tileStopHalt (site : Fin 64) (tile : Fin 128)
  /-- RESUME (R248). RESUME in state STOPPED continues at the stopped PC. -/
  | resume (site : Fin 64) (tile : Fin 128)
  /-- MT_NOP (R229). Tile instruction NOP. -/
  | mtNop (site : Fin 64) (tile : Fin 128)
  /-- MUL (R232). Tile instruction MUL: ACC takes the shifted, rounded and saturated product value. -/
  | mul (site : Fin 64) (tile : Fin 128)
  /-- MAC (R232). Tile instruction MAC: ACC = ACC + product value. -/
  | mac (site : Fin 64) (tile : Fin 128)
  /-- MSU (R232). Tile instruction MSU: ACC = ACC − product value. -/
  | msu (site : Fin 64) (tile : Fin 128)
  /-- CLRA (R229). Tile instruction CLRA: ACC = 0 with poison cleared. -/
  | clra (site : Fin 64) (tile : Fin 128)
  /-- LDA (R229). Tile instruction LDA: ACC takes the X operand. -/
  | lda (site : Fin 64) (tile : Fin 128)
  /-- MOVA (R232). Tile instruction MOVA: DST takes the processed accumulator. -/
  | mova (site : Fin 64) (tile : Fin 128)
  /-- MOVAC (R229). Tile instruction MOVAC: as MOVA, then clears the accumulator. -/
  | movac (site : Fin 64) (tile : Fin 128)
  /-- MOVX (R229). Tile instruction MOVX: DST takes the X operand unchanged. -/
  | movx (site : Fin 64) (tile : Fin 128)
  /-- NORM (R229). Tile instruction NORM: E = rsb(ACC) and ACC is shifted left by E. -/
  | norm (site : Fin 64) (tile : Fin 128)
  /-- EXP (R229). Tile instruction EXP: E = rsb(ACC) and DST = E. -/
  | exp (site : Fin 64) (tile : Fin 128)
  /-- BEXP (R229). Tile instruction BEXP: BE takes the minimum of BE and rsb(ACC). -/
  | bexp (site : Fin 64) (tile : Fin 128)
  /-- SETBE (R229). Tile instruction SETBE: BE = IMM[5:0]. -/
  | setbe (site : Fin 64) (tile : Fin 128)
  /-- MOVBE (R229). Tile instruction MOVBE: DST = BE. -/
  | movbe (site : Fin 64) (tile : Fin 128)
  /-- REP (R239). Tile instruction REP pushes a loop with a count and an end address. -/
  | rep (site : Fin 64) (tile : Fin 128)
  /-- SETAG (R237). Tile instruction SETAG writes one parameter of an address generator. -/
  | setag (site : Fin 64) (tile : Fin 128)
  /-- HALT (R229). Tile instruction HALT stops the tile in DONE. -/
  | halt (site : Fin 64) (tile : Fin 128)
  /-- STREAM_WORD (R243). A stream word moves at a TPCLK edge with VALID and READY both 1. -/
  | streamWord (site : Fin 64) (tile : Fin 128) (stream : TileStream) (data : BitVec 48) (poison : Bool)
  /-- MT_HOST_ACCESS (R259). A host packet to a tile's memories or registers is checked as a whole and served, fenced or refused. -/
  | mtHostAccess (stop : Fin 512) (p : ReqPkt)
  /-- READ (R296). A ring READ request arrives at its target stop and is served. -/
  | read (stop : Fin 512) (p : ReqPkt)
  /-- WRITE (R296). A ring WRITE request arrives at its target stop and is served. -/
  | write (stop : Fin 512) (p : ReqPkt)
  /-- SWAP (R296). A ring SWAP atomic arrives at its target stop and is served. -/
  | swap (stop : Fin 512) (p : ReqPkt)
  /-- FADD (R296). A ring FADD atomic arrives at its target stop and is served. -/
  | fadd (stop : Fin 512) (p : ReqPkt)
  /-- CAS (R296). A ring CAS atomic arrives at its target stop and is served. -/
  | cas (stop : Fin 512) (p : ReqPkt)
  /-- MSG (R296). A ring MSG arrives and its bytes are delivered to the target stop's message queue. -/
  | msg (stop : Fin 512) (p : ReqPkt)
  /-- INCOMPLETE_TIMEOUT (R307). An incomplete packet held longer than the transaction timeout is discarded. -/
  | incompleteTimeout (stop : Fin 512) (src : Fin 512) (lane : Fin 4) (cls : TClass)
  /-- REQUEST_ISSUE (R287). A requesting stop allocates a tag, resolves the destination and inserts the request, or completes it with ERR_TARGET. -/
  | requestIssue (r : IssueReq)
  /-- FLIT_AT_STOP (R291). A flit passing a stop is checked, corrected or removed for an uncorrectable error. -/
  | flitAtStop (p : SlotPass)
  /-- COMPLETION (R306). A completion arrives at its requester and is matched to its outstanding request or discarded. -/
  | completion (stop : Fin 512) (p : CplPkt)
  /-- TRANSACTION_TIMEOUT (R312). When a requester's timer expires, it withdraws or completes the request with ERR_TIMEOUT. -/
  | transactionTimeout (stop : Fin 512) (tag : Fin 8192)
  /-- TAG_RELEASE (R312). At twice the timeout a tag held after ERR_TIMEOUT is released. -/
  | tagRelease (stop : Fin 512) (tag : Fin 8192)
  /-- RATE_WINDOW (R275). At the end of each 1 µs window the home stop reports the ring rate and updates SLOW and RING_SLOW. -/
  | rateWindow (ring : Fin 60) (advances : Nat)
  /-- RING_SLOW_CLEAR (R277). A write of 1 to RING_SLOW clears it only after 8 clean windows. -/
  | ringSlowClear (mid : BitVec 12) (ring : Fin 60)
  /-- PLAN_ENTRY_WRITE (R344). A write of RNG_PLAN_ENTRY stores the shadow entry at the pointer and advances SLOT. -/
  | planEntryWrite (mid : BitVec 12) (entry : Word)
  /-- COMMIT (R325). A COMMIT makes a ring's shadow plan active at the next slot 0 and sets flow statuses. -/
  | commit (mid : BitVec 12) (ring : Fin 64) (copyFirst : Bool)
  /-- COPY (R1025). A COPY copies a ring's active plan into its shadow plan. -/
  | copy (mid : BitVec 12) (ring : Fin 64)
  /-- PLAN_ACTIVE (R326). At the next slot 0 of each lane the committed plan takes effect and flows become READY or NO_PATH. -/
  | planActive
  /-- TRANSIT_ISLAND_FAIL (R338). A transit island failing at run time is bypassed over its skip link and its die is retired. -/
  | transitIslandFail (site : Fin 64)
  /-- TRSP (R334). The fabric answers a gate request with a TRSP header and data. -/
  | trsp (ld : Fin 48) (gate : Fin 16) (m : TrspMsg)
  /-- GATE_TREQ_TIMEOUT (R336). An unanswered TREQ completes with ERR_TIMEOUT and the fabric's later answer is dropped. -/
  | gateTreqTimeout (ld : Fin 48) (gate : Fin 16) (htag : Fin 64)
  /-- IREQ (R334). The fabric issues a request through a gate; the signature check applies and the gate sends it. -/
  | ireq (ld : Fin 48) (gate : Fin 16) (tag : BitVec 13) (m : IreqMsg)
  /-- DATA_GROUP (R364). A received data flit group is accepted in order or answered with a NAK. -/
  | dataGroup (link : Fin 131) (at1 : Bool) (group : BitVec 352)
  /-- ACK (R362). A received ACK frees the acknowledged groups from the retry buffer. -/
  | ack (link : Fin 131) (at1 : Bool) (seq : Fin 128)
  /-- NAK (R365). A received NAK makes the sender replay every unacknowledged group after SEQ. -/
  | nak (link : Fin 131) (at1 : Bool) (seq : Fin 128)
  /-- REPLAY (R380). A received REPLAY restarts acceptance, with PEER_RESET discards at a reset end. -/
  | replay (link : Fin 131) (at1 : Bool) (seq : Fin 128) (count : Fin 65) (peerReset : Bool)
  /-- ACK_TIMER (R363). The receiver sends an ACK after 16 data groups or 100 ns. -/
  | ackTimer (link : Fin 131) (at1 : Bool)
  /-- ACK_TIMEOUT (R367). With no ACK or NAK for 2 µs, the link end enters CALIBRATE. -/
  | ackTimeout (link : Fin 131) (at1 : Bool)
  /-- STROBE_LOSS (R368). With neither peer strobe for 100 ns, the link end enters DETECT. -/
  | strobeLoss (link : Fin 131) (at1 : Bool)
  /-- STROBES_SEEN (R369). In DETECT, toggling peer strobes start CALIBRATE. -/
  | strobesSeen (link : Fin 131)
  /-- CALIBRATE (R370). CALIBRATE completes with per-lane good and bad marks and the link enters MAP. -/
  | calibrate (link : Fin 131) (end0 : LaneMarks) (end1 : LaneMarks) (silent : BitVec 4)
  /-- MAP (R371). MAP completes after exchanging lane maps and offers, leading to CONFIRM or DOWN. -/
  | map (link : Fin 131) (at0 : LaneMarks) (at1 : LaneMarks) (offer : LinkOffer)
  /-- CONFIRM (R372). CONFIRM compares hashes and enters ACTIVE, DEGRADED or DOWN. -/
  | confirm (link : Fin 131)
  /-- PEER_ABSENT (R369). A peer absent for 100 ms in DETECT sends the link to DOWN. -/
  | peerAbsent (link : Fin 131)
  /-- RETRAIN_ATTEMPT (R376). At 1, 10 and 100 ms after entering DEGRADED, a link makes a scheduled retrain attempt. -/
  | retrainAttempt (link : Fin 131)
  /-- RETRAIN (R376). A RETRAIN write retrains an ACTIVE link, adds an attempt for a DEGRADED one, or is refused. -/
  | retrain (mid : BitVec 12) (link : Fin 131)
  /-- FWL_INBOUND_REQUEST (R389). The firewall stamps and checks an inbound request from the X die and forwards, holds or refuses it. -/
  | fwlInboundRequest (hub : Fin 2) (tag : BitVec 13) (x : XReq)
  /-- FWL_RATE_TICK (R391). At each 1 µs tick each window's rate bucket refills and held requests leave in order. -/
  | fwlRateTick (hub : Fin 2)
  /-- FWL_INBOUND_COMPLETION (R394). An inbound completion is matched to an outbound request or discarded as forged. -/
  | fwlInboundCompletion (hub : Fin 2) (x : XCpl)
  /-- FWL_OUTBOUND_REQUEST (R398). A request to the third-party window is sent to the X die, or completes with ERR_DENIED, ERR_FENCED or ERR_TARGET. -/
  | fwlOutboundRequest (hub : Fin 2) (xtag : BitVec 13) (p : ReqPkt)
  /-- FENCE (R393). Setting FENCE completes outstanding outbound requests with ERR_FENCED; clearing it takes effect only with the link up. -/
  | fence (mid : BitVec 12) (hub : Fin 2) (value : Word)
  /-- BAD_WINDOW (R399). A window enable that overlaps CSR space or is misaligned is refused with BAD_WINDOW. -/
  | badWindow (mid : BitVec 12) (hub : Fin 2) (window : Fin 64) (value : Word)
  /-- DMC_LINE_READ (R433). A line read is decoded and completes clean, corrected, poisoned or uncorrectable with its actions. -/
  | dmcLineRead (hub : Fin 2) (addr : BitVec 48) (light : Bool) (flips : BitVec 640) (cls : TClass) (now slots : Nat)
  /-- DMC_LINE_WRITE (R434). A full-line write stores the line in the selected code, or the SOURCE poison pattern. -/
  | dmcLineWrite (hub : Fin 2) (w : LineWrite) (now slots : Nat)
  /-- READ_MODIFY_WRITE (R435). A partial-mask write reads, merges and writes the line, or refuses on poison. -/
  | readModifyWrite (hub : Fin 2) (w : LineWrite) (now slots : Nat)
  /-- DRFMSB (R448). The DMC issues a directed refresh for a sampled row before the next ACT to that bank index. -/
  | drfmsb (ch : Fin 4) (sc : Fin 2) (rank : Fin 4) (ba : Fin 4)
  /-- REFRESH_INTERVAL (R445). Each tREFI a same-bank refresh falls due per bank index, rank and sub-channel. -/
  | refreshInterval (ch : Fin 4)
  /-- REFSB (R446). A due REFsb is issued once its bank index is idle, or takes priority at 4 postponements. -/
  | refsb (ch : Fin 4) (sc : Fin 2) (rank : Fin 4) (ba : Fin 4)
  /-- MR4_READ (R445). Every 1 ms the DMC reads MR4 and sets the refresh rate. -/
  | mr4Read (ch : Fin 4) (double : Bool)
  /-- ROW_IDLE_CLOSE (R444). A row left open 1 µs with no access is closed. -/
  | rowIdleClose (ch : Fin 4) (sc : Fin 2) (rank : Fin 4) (bank : Fin 32)
  /-- CA_RETRY (R450). A CA parity error stops the sub-channel and reissues the failed command after recovery. -/
  | caRetry (ch : Fin 4) (rank : Fin 4) (persist : Bool) (cmd : CaCommand)
  /-- START (R452). A write of START in DMC_MIG triggers migration of START_RANK. -/
  | start (mid : BitVec 12) (ch : Fin 4) (value : Word)
  /-- MIGRATION_LINE_COPY (R455). The migration copies one line from source to target rank within its SHARE of slots. -/
  | migrationLineCopy (ch : Fin 4) (flips : BitVec 640)
  /-- CXL_REQUEST (R468). The root port sends a MemRd, MemWr or MemWrPtl, or completes the request with ERR_TARGET. -/
  | cxlRequest (hub : Fin 2) (tag : BitVec 16) (read : Bool) (w : LineWrite)
  /-- DRS (R469). A DRS or NDR response completes its request, with POISON if its Poison bit is set. -/
  | drs (port : Fin 4) (tag : BitVec 16) (poison : Bool) (data : Line)
  /-- CXL_LINK_DOWN (R473). A link going down or an IDE failure fences the port and completes outstanding requests. -/
  | cxlLinkDown (port : Fin 4) (ide : Bool)
  /-- CXL_EN (R486). A write of EN from 0 to 1 retrains the port and re-enumerates its device. -/
  | cxlEn (mid : BitVec 12) (port : Fin 4) (value : Option Word) (t : CxlTrain)
  /-- CXL_FENCE_CLEAR (R473). A write of FENCE = 0 with the link up and IDE as required unfences the port. -/
  | cxlFenceClear (mid : BitVec 12) (port : Fin 4) (value : Word)
  /-- WCB_HOLD_EXPIRY (R543). After WCB_HOLD ns an entry is written back. -/
  | wcbHoldExpiry (hub : Fin 2)
  /-- TREE_SCRUB (R523). Every scrub interval the MPE checks the NMAC of one SRAM node. -/
  | treeScrub (hub : Fin 2) (upsets : List Nat)
  /-- MPE_KEY_LOAD (R507). A key command with OP LOAD unwraps MPE_KWRAP into a slot and clears MPE_KWRAP. -/
  | mpeKeyLoad (mid : BitVec 12) (hub : Fin 2) (value : Word)
  /-- MPE_KEY_ERASE (R509). A key command with OP ERASE clears a slot unless a region uses it. -/
  | mpeKeyErase (mid : BitVec 12) (hub : Fin 2) (value : Word)
  /-- REGION_ENABLE (R501). A write of EN = 1 checks the region and starts its initialization, or is refused. -/
  | regionEnable (mid : BitVec 12) (hub : Fin 2) (region : Fin 16) (value : Word)
  /-- INIT_BUSY (R502). When the region's SRAM area and root are zeroed, EN is set and INIT_BUSY cleared. -/
  | initBusy (hub : Fin 2) (region : Fin 16)
  /-- DISABLING (R504). A write of EN = 0 starts the drain of the region's requests, entries and nodes. -/
  | disabling (mid : BitVec 12) (hub : Fin 2) (region : Fin 16) (value : Word)
  /-- REGION_DISABLED (R504). When the drain is done, EN and DISABLING clear. -/
  | regionDisabled (hub : Fin 2) (region : Fin 16)
  /-- RESEAL_GO (R530). GO in MPE_RESEAL_CTL starts a reseal of a range, or refuses it. -/
  | resealGo (mid : BitVec 12) (hub : Fin 2) (value : Word)
  /-- RESEAL_DONE (R531). The reseal zeroes entries and nodes over the range, raises MAJ_FLOOR and sets RESEAL_DONE. -/
  | resealDone (hub : Fin 2)
  /-- REKEY_START (R546). START in MPE_RKEY_CTL begins a rekey of a region, or refuses it. -/
  | rekeyStart (mid : BitVec 12) (hub : Fin 2) (value : Word)
  /-- REKEY_GRANULE (R548). The rekey engine moves one 4 KiB granule to the next key and journals the boundary. -/
  | rekeyGranule (hub : Fin 2) (upto : Fin 65)
  /-- MPE_FENCE_GO (R559). GO in MPE_FENCE clears DONE. -/
  | mpeFenceGo (mid : BitVec 12) (hub : Fin 2) (value : Word)
  /-- MPE_FENCE_DONE (R559). When every request admitted before the fence has completed, DONE is set. -/
  | mpeFenceDone (hub : Fin 2)
  /-- DOORBELL (R570). A write of QE_Q_PI posts descriptors or is refused with BAD_DB or DENIED_DB. -/
  | doorbell (mid : BitVec 12) (hub : Fin 2) (q : Fin 4096) (value : Word)
  /-- CQH_WRITE (R574). A write of CH consumes completion records and lets a stalled queue write held records. -/
  | cqhWrite (mid : BitVec 12) (hub : Fin 2) (q : Fin 4096) (value : Word)
  /-- DESCRIPTOR_FETCH (R573). The QE fetches the next posted descriptor, accepts it and increments CI. -/
  | descriptorFetch (hub : Fin 2) (q : Fin 4096) (tag : Fin 8192)
  /-- QE_TRANSACTION_ISSUE (R577). The QE issues the next transaction of an active descriptor in the scheduling order. -/
  | qeTransactionIssue (hub : Fin 2) (tag : Fin 8192) (pick : Nat)
  /-- QE_TRANSACTION_DONE (R579). A queue transaction's completion is applied to its descriptor's outcome. -/
  | qeTransactionDone (hub : Fin 2) (tag : Fin 8192)
  /-- COMPLETION_RECORD_WRITE (R585). A finished descriptor's completion record is written in index order, or held if the ring is full. -/
  | completionRecordWrite (hub : Fin 2) (q : Fin 4096) (tag : Fin 8192)
  /-- QE_CQ_ERR (R590). A record write that fails puts the queue in ERROR and holds the record. -/
  | qeCqErr (hub : Fin 2) (q : Fin 4096)
  /-- QUEUE_ENABLE (R589). EN written 1 starts a DISABLED queue, writing held records first, or sets BAD_CFG. -/
  | queueEnable (mid : BitVec 12) (hub : Fin 2) (q : Fin 4096) (cfg : Word)
  /-- QUEUE_DISABLE (R591). EN written 0 drains the queue and completes unaccepted descriptors as ABORTED. -/
  | queueDisable (mid : BitVec 12) (hub : Fin 2) (q : Fin 4096) (cfg : Word)
  /-- QUEUE_RESUME (R592). RESUME written 1 restarts a STOPPED queue at CI. -/
  | queueResume (mid : BitVec 12) (hub : Fin 2) (q : Fin 4096) (cfg : Word)
  /-- RETRY (R589). RETRY written 1 rewrites the held record from ERROR. -/
  | retry (mid : BitVec 12) (hub : Fin 2) (q : Fin 4096) (cfg : Word)
  /-- QE_EVT_FIFO_POP (R588). A read of QE_EVT_FIFO pops one queue number. -/
  | qeEvtFifoPop (hub : Fin 2) (dbg : Bool)
  /-- TB_TICK (R599). At each 10 ns tick the time base master adds TB_INCR plus any slew. -/
  | tbTick
  /-- TB_INCR_WRITE (R601). A write of TB_INCR sets the increment, clamped with INCR_CLAMP. -/
  | tbIncrWrite (mid : BitVec 12) (value : DWord)
  /-- STEP (R603). GO with MODE STEP adds the offset at the next tick, or is refused. -/
  | step (mid : BitVec 12) (value : Word)
  /-- SLEW (R603). GO with MODE SLEW starts applying the offset over successive ticks. -/
  | slew (mid : BitVec 12) (value : Word)
  /-- SYNC_PULSE (R606). Once per microsecond each follower loads the time the master sent. -/
  | syncPulse (missed : List (Fin 72))
  /-- FOLLOWER_TICK (R606). Each follower advances by the increment and slew at each 10 ns tick of its clock. -/
  | followerTick (die : Fin 72)
  /-- PCIE_INBOUND (R626). A BAR2 request is mapped through an inbound window into ring transactions, and its outcome is returned. -/
  | pcieInbound (port : Fin 4) (r : PcieReq)
  /-- PCIE_OUTBOUND (R631). A device access to an outbound entry sends a TLP or configuration request. -/
  | pcieOutbound (port : Fin 4) (ev : PcieOutEv)
  /-- PCIE_CONFIG_RETRY (R624). Configuration requests get Retry Status until SP3 ends. -/
  | pcieConfigRetry (port : Fin 4)
  /-- MBX_DOORBELL (R633). A host doorbell write hands the mailbox packet to the MC, or sets OVERRUN while busy. -/
  | mbxDoorbell (port : Fin 4) (value : Word)
  /-- MBX_REPLY (R635). The MC writes a reply packet and sets RDY. -/
  | mbxReply (mbx : MbxKind)
  /-- RDY_CLEAR (R761). The writer clearing RDY frees BUSY after a final reply and releases a waiting completion. -/
  | rdyClear (transport : MbxKind)
  /-- ETH_RX_FRAME (R639). A received Ethernet frame is FCS-checked, deduplicated, steered and placed in a buffer. -/
  | ethRxFrame (port : Fin 4) (mac : Fin 4) (frame : List Byte) (fcsOk : Bool) (ago : Nat)
  /-- FRER_RESET (R651). After RESET_MS with no frame, a stream's recovery state resets. -/
  | frerReset (port : Fin 4) (stream : Fin 32)
  /-- ETH_COMMIT (R641). A commit queues a TX slot's frame for transmission, or is refused. -/
  | ethCommit (mid : BitVec 12) (port : Fin 4) (mac : Fin 4) (value : Word)
  /-- ETH_TX_FRAME (R644). A head frame starts transmission when its class wins and its gate allows. -/
  | ethTxFrame (port : Fin 4) (mac : Fin 4)
  /-- ETH_TX_DONE (R643). When every copy of a frame finishes, one status entry is produced. -/
  | ethTxDone (port : Fin 4) (mac : Fin 4)
  /-- ETH_TXST_POP (R643). A read of PRT_ETH_TXST pops one status and frees its slot. -/
  | ethTxstPop (port : Fin 4) (mac : Fin 4) (dbg : Bool)
  /-- GCL_CHANGE (R650). A CHANGE write schedules a bank switch, or sets GCL_REFUSED. -/
  | gclChange (mid : BitVec 12) (port : Fin 4) (mac : Fin 4) (value : Word)
  /-- GCL_SWITCH (R650). At BASE + n × CYCLE_NS the non-operating bank becomes operating. -/
  | gclSwitch (port : Fin 4) (mac : Fin 4)
  /-- FS (R662). A CSI-2 frame start takes the armed buffer of its queue, or drops the frame with NO_BUF. -/
  | fs (port : Fin 4) (k : Fin 8) (vc : Fin 16) (hdr : CsiHdr) (num : Half)
  /-- LINE (R654). A CSI-2 long packet within the data-type range is written as one line and timestamped. -/
  | line (port : Fin 4) (k : Fin 8) (vc : Fin 16) (hdr : CsiHdr) (dt : BitVec 6) (data : List Byte) (crcOk : Bool) (kept : Nat)
  /-- FE (R662). A CSI-2 frame end closes the frame, writes its descriptor and completes its buffer. -/
  | fe (port : Fin 4) (k : Fin 8) (vc : Fin 16) (hdr : CsiHdr)
  /-- FRAME_TO (R662). FRAME_TO ms after FS, the frame ends with FE_MISSING. -/
  | frameTo (port : Fin 4) (k : Fin 8) (vc : Fin 16)
  /-- CTX_STREAM_WORD (R669). A transmit-port stream word opens or fills a packet, or is discarded. -/
  | ctxStreamWord (port : Fin 4) (t : Fin 2) (same : Bool)
  /-- CTX_PACKET_SEND (R670). A whole buffered packet is sent on the D-PHY lanes with ECC, CRC and skew calibration. -/
  | ctxPacketSend (port : Fin 4) (t : Fin 2)
  /-- CRC_START (R674). START makes the writer OWNER and begins a new computation, or is denied. -/
  | crcStart (mid : BitVec 12) (unit : CrcUnit) (value : Word)
  /-- CRC_DATA_WRITE (R676). A data-window write by OWNER is fed to the CRC in address order. -/
  | crcDataWrite (mid : BitVec 12) (unit : CrcUnit) (data : List (Byte × Bool)) (rsn : PoisonRsn)
  /-- RELEASE (R678). RELEASE by OWNER or Level S frees the CRC unit. -/
  | release (mid : BitVec 12) (unit : CrcUnit) (value : Word)
  /-- CFG_OP_LOAD (R719). GO with OP LOAD reloads the acres of a partial image and releases them together. -/
  | cfgOpLoad (step : CfgStep)
  /-- QUIESCENCE_END (R720). When no transaction is outstanding at its gates, the quiescing acre is isolated. -/
  | quiescenceEnd (acre : Fin 192)
  /-- CFG_OP_UNLOAD (R722). GO with OP UNLOAD quiesces, isolates and empties an acre. -/
  | cfgOpUnload (step : CfgStep)
  /-- CFG_OP_RELOCATE (R725). GO with OP RELOCATE moves a relocatable acre with its state to a host acre. -/
  | cfgOpRelocate (step : CfgStep)
  /-- CFG_OP_READBACK (R737). GO with OP READBACK writes an acre's frame records to CFG_BUF. -/
  | cfgOpReadback (step : CfgStep)
  /-- CFG_OP_HOST_PREP (R724). GO with OP HOST_PREP powers a spare die, runs its BIST and loads its package clocks. -/
  | cfgOpHostPrep (step : CfgStep)
  /-- CFG_OP_RETIRE (R735). GO with OP RETIRE relocates a die's movable acres, marks the rest LOST and power-gates it. -/
  | cfgOpRetire (step : CfgStep)
  /-- CFG_CHECK (R738). Every 2^INTERVAL ms the LDC recomputes each running acre's frame CRC and flags upsets. -/
  | cfgCheck (acre : Fin 192)
  /-- WRITE_FRAME (R753). A CMD-SPI WRITE frame delivers one command packet, or is discarded with OVERRUN. -/
  | writeFrame (bytes : List Byte) (early : Bool)
  /-- READ_FRAME (R755). A CMD-SPI READ frame returns the status byte and the oldest reply, which leaves the queue at frame end. -/
  | readFrame (full early : Bool)
  /-- FRAME_ERR (R753). A CMD-SPI frame with an unknown first byte is ignored and counted. -/
  | frameErr (first : Byte)
  /-- CMDPKT_UPDATE_DR (R758). At Update-DR the CMDPKT register appends a word, ending the packet when bit 32 is 1. -/
  | cmdpktUpdateDr (word : Word) (last : Bool)
  /-- CMDPKT_CAPTURE_DR (R758). At Capture-DR the CMDPKT register loads the next reply word. -/
  | cmdpktCaptureDr
  /-- FAB_DOORBELL (R760). A write of CMD_FAB_DB by the permitted master hands a packet to the MC. -/
  | fabDoorbell (mid : BitVec 12) (value : Word)
  /-- COMMAND_COMPLETION (R775). When an ACCEPTED command's operation ends, one completion packet is sent. -/
  | commandCompletion (transport : Fin 7) (tag : BitVec 16)
  /-- NOP (R788). Command NOP. -/
  | nop
  /-- GET_ID (R788). Command GET_ID returns capabilities, variant, serial and image ID. -/
  | getId
  /-- GET_VERSION (R788). Command GET_VERSION returns versions, epochs and firmware slots. -/
  | getVersion
  /-- GET_STATE (R788). Command GET_STATE returns state, phase and reason. -/
  | getState
  /-- GET_ERRLOG (R976). Command GET_ERRLOG returns one error record. -/
  | getErrlog
  /-- CLR_ERRLOG (R976). Command CLR_ERRLOG removes the oldest records. -/
  | clrErrlog
  /-- CFG_LOAD (R788). Command CFG_LOAD runs a LOAD operation and completes with its status. -/
  | cfgLoad
  /-- CFG_DATA (R706). Command CFG_DATA writes an image chunk to staging, and its last chunk starts the load. -/
  | cfgData
  /-- CFG_UNLOAD (R788). Command CFG_UNLOAD runs UNLOAD on an acre. -/
  | cfgUnload
  /-- CFG_RELOCATE (R788). Command CFG_RELOCATE runs RELOCATE. -/
  | cfgRelocate
  /-- CFG_READBACK (R788). Command CFG_READBACK runs READBACK. -/
  | cfgReadback
  /-- HOST_PREP (R788). Command HOST_PREP prepares a spare site as a host. -/
  | hostPrep
  /-- RETIRE_DIE (R791). Command RETIRE_DIE stores the retirement and runs RETIRE. -/
  | retireDie
  /-- CFG_STATUS (R788). Command CFG_STATUS returns the loader registers. -/
  | cfgStatus
  /-- MEM_READ (R777). Command MEM_READ reads memory under the transport's master ID. -/
  | memRead
  /-- MEM_WRITE (R777). Command MEM_WRITE writes memory under the transport's master ID. -/
  | memWrite
  /-- RANK_MIGRATE (R788). Command RANK_MIGRATE writes START for a rank. -/
  | rankMigrate
  /-- RESEAL_RANGE (R788). Command RESEAL_RANGE runs a reseal and completes at RESEAL_DONE. -/
  | resealRange
  /-- KEY_LOAD (R788). Command KEY_LOAD loads a wrapped key into a slot. -/
  | keyLoad
  /-- KEY_ERASE (R788). Command KEY_ERASE erases a key slot. -/
  | keyErase
  /-- KEY_GENERATE (R788). Command KEY_GENERATE loads a fresh key pair and returns its wrapped form. -/
  | keyGenerate (random : BitVec 512)
  /-- RIGHTS_SET (R788). Command RIGHTS_SET writes MPE_RIGHTS of a master in the named hubs. -/
  | rightsSet
  /-- FWL_WINDOW (R788). Command FWL_WINDOW writes a firewall window. -/
  | fwlWindow
  /-- FENCE_RIGHTS (R788). Command FENCE_RIGHTS completes when both MPE fences and the firewall condition hold. -/
  | fenceRights
  /-- DBG_CHALLENGE (R786). Command DBG_CHALLENGE issues a nonce for the transport. -/
  | dbgChallenge (nonce : BitVec 384)
  /-- DBG_RESPONSE (R815). Command DBG_RESPONSE checks a signature and grants a debug level. -/
  | dbgResponse (late : Bool)
  /-- DBG_LOCK (R788). Command DBG_LOCK sets the transport's debug level to NONE. -/
  | dbgLock
  /-- IMGKEY_PROGRAM (R788). Command IMGKEY_PROGRAM fuses an image key hash. -/
  | imgkeyProgram
  /-- IMGKEY_REVOKE (R788). Command IMGKEY_REVOKE revokes an image key. -/
  | imgkeyRevoke
  /-- KEK_SET (R788). Command KEK_SET installs a key-encryption key. -/
  | kekSet
  /-- PWR_MODE (R898). Command PWR_MODE writes MODE and has the MC execute WFI, completing after the wake. -/
  | pwrMode
  /-- PWR_STATUS (R788). Command PWR_STATUS returns power state and readings. -/
  | pwrStatus
  /-- PWR_CAP (R788). Command PWR_CAP writes CAP_W. -/
  | pwrCap
  /-- RESET (R930). Command RESET starts a reset of the named scope after replying, or is refused. -/
  | reset
  /-- LT_READ (R999). Command LT_READ returns a lifetime-store record. -/
  | ltRead
  /-- LT_STATUS (R788). Command LT_STATUS returns spare sectors and exhaustion. -/
  | ltStatus
  /-- REPAIR_CLEAR (R34). Command REPAIR_CLEAR clears a field-retirement bit in both copies. -/
  | repairClear
  /-- CAL_GET (R788). Command CAL_GET returns the calendar. -/
  | calGet
  /-- CAL_SET (R1001). Command CAL_SET loads the calendar at the next AO tick. -/
  | calSet
  /-- FW_WRITE (R1006). Command FW_WRITE writes a unit's inactive slot and makes it STAGED. -/
  | fwWrite
  /-- FW_ACTIVATE (R1007). Command FW_ACTIVATE checks the staged image and restarts the unit on it. -/
  | fwActivate
  /-- NO_START (R1009). A unit not running its new slot within 1 s returns to its committed slot and becomes FAILED. -/
  | noStart (unit : Fin 10)
  /-- EPOCH_COMMIT (R1013). Command EPOCH_COMMIT makes every unit speak epoch N only and commits them. -/
  | epochCommit
  /-- EPOCH_ROLLBACK (R1014). Command EPOCH_ROLLBACK returns provisional units to their committed slots. -/
  | epochRollback
  /-- MIN_EPOCH_SET (R788). Command MIN_EPOCH_SET raises MIN_EPOCH. -/
  | minEpochSet
  /-- UPD_STATUS (R788). Command UPD_STATUS returns the unit slot states. -/
  | updStatus
  /-- INJECT (R984). Command INJECT plants an error of a given kind at a location. -/
  | inject
  /-- SELFTEST (R788). Command SELFTEST runs the BIST of a spare die and retires it on failure. -/
  | selftest (result : Word)
  /-- LOOPBACK (R788). Command LOOPBACK returns its parameters. -/
  | loopback
  /-- MC_LOCKSTEP (R797). An MC comparator mismatch stops the pair and enters SAFE. -/
  | mcLockstep (hub : Fin 2)
  /-- CORE_RING_ACCESS (R804). An application core's ring request completes and is handled by status. -/
  | coreRingAccess (core : Fin 8) (acc : CoreAcc)
  /-- RUN (R805). Setting RUN starts a core at its reset vector, and clearing it resets the core. -/
  | run (mid : BitVec 12) (hub : Fin 2) (value : Word)
  /-- DELEG (R808). A DELEG write changes the master ID of a core's later machine-mode requests. -/
  | deleg (mid : BitVec 12) (hub : Fin 2) (value : Word)
  /-- MC_WFI (R899). A WFI by the MC of H0 with MODE not RUN checks blocks and enters or refuses the power state. -/
  | mcWfi (find : WfiFind)
  /-- DMI_ACCESS (R812). A DMI access acts on a debug module under the JTAG transport's debug level. -/
  | dmiAccess (write : Bool) (addr : BitVec 12) (data : Word)
  /-- SBA_ACCESS (R836). A system bus access goes out through the DAP and its status maps to sberror. -/
  | sbaAccess (hub : Fin 2)
  /-- TRIGGER_FIRE (R820). A matching trigger chain fires with its action. -/
  | triggerFire (hart : Fin 8) (ev : TrigEv)
  /-- HART_HALT (R827). A hart halts at the next boundary and its halt group halts. -/
  | hartHalt (hart : Fin 8)
  /-- HART_RESUME (R824). A resume of a hart resumes its resume group. -/
  | hartResume (hart : Fin 8)
  /-- HUB_SEM_READ (R831). A read of a semaphore acquires it if free, or reports its owner. -/
  | hubSemRead (mid : BitVec 12) (hub : Fin 2) (sem : Fin 64) (dbg : Bool)
  /-- HUB_SEM_WRITE (R833). A write releases a semaphore for its owner or Level S, or is denied. -/
  | hubSemWrite (mid : BitVec 12) (hub : Fin 2) (sem : Fin 64)
  /-- SEM_LEASE (R834). A semaphore whose owner stays halted for LEASE_US is released. -/
  | semLease (hub : Fin 2) (sem : Fin 64)
  /-- WDT_CORE_SVC (R838). A write of WDT_CORE_SVC reloads the core watchdog or counts as an expiry. -/
  | wdtCoreSvc (mid : BitVec 12) (core : Fin 8) (value : Word)
  /-- CORE_WDT_EXPIRED (R839). A core watchdog reaching zero sets EXPIRED, asserts FAULT_N and interrupts the MC. -/
  | coreWdtExpired (core : Fin 8)
  /-- WDT_SAFE_SVC (R843). A service word to the safety watchdog reloads it, or counts as an expiry. -/
  | wdtSafeSvc (mid : BitVec 12) (value : Word) (late : Bool) (closed : Bool)
  /-- SAFE_WDT (R844). A safety watchdog expiry enters SAFE. -/
  | safeWdt
  /-- REF_LOSS (R865). The clockless loss detector trips when REFCLK stops, entering SAFE. -/
  | refLoss (hub : Fin 2)
  /-- REF_FREQ (R866). At the end of each monitor window the REFCLK count is judged against LO and HI. -/
  | refFreq (hub : Fin 2) (edges : BitVec 16)
  /-- IOSC_READY (R851). IOSC becomes READY after 1,024 counted cycles. -/
  | ioscReady (hub : Fin 2)
  /-- REFRESH_LOST (R871). With no self-refresh 16 ms after the fault, REFRESH_LOST is set. -/
  | refreshLost (hub : Fin 2)
  /-- NO_CLOCK_TIMEOUT (R874). IOSC not READY 2 ms after a REFCLK fault changes the reason to NO_CLOCK. -/
  | noClockTimeout (hub : Fin 2)
  /-- IOSC_CHECK (R876). Every 32 AO periods H0 counts each IOSC and faults one out of range. -/
  | ioscCheck (hub : Fin 2) (count : BitVec 32)
  /-- XTAL_LOSS (R877). Loss of AO_XTAL switches the AO domain to AO_RC. -/
  | xtalLoss
  /-- XTAL_RETURN (R877). After AO_XTAL has been READY for 1 s, the AO domain returns to it. -/
  | xtalReturn
  /-- CLK_DOM_WRITE (R860). A CLK_DOM write switches domain sources without partial pulses, or refuses them. -/
  | clkDomWrite (mid : BitVec 12) (hub : Fin 2) (value : Word)
  /-- CMULT_WRITE (R862). A CMULT change relocks CPLL, or is refused while a domain uses it. -/
  | cmultWrite (mid : BitVec 12) (hub : Fin 2) (value : Word)
  /-- CPLL_LOCK (R862). CPLL locks again after a CMULT change. -/
  | cpllLock (hub : Fin 2)
  /-- DIV_WRITE (R863). A divider change takes effect within 16 cycles without a partial pulse. -/
  | divWrite (mid : BitVec 12) (hub : Fin 2) (value : Word)
  /-- POWER_SAMPLE (R893). Every 10 µs the package power is summed and the throttle level adjusted. -/
  | powerSample (mw : BitVec 20)
  /-- SUPPLY_UV (R890). A rail below its range enters SAFE and records the rail. -/
  | supplyUv (rail : Fin 10)
  /-- THERMAL_SAMPLE (R919). A sensor sample updates Tj, the hot hold and the SRAM throttle, and enters SAFE on overtemperature. -/
  | thermalSample (die : Fin 72) (sensor : Fin 4) (temp : Half)
  /-- POWER_STATE_REACHED (R911). The device reaches IDLE, STANDBY or PARK. -/
  | powerStateReached
  /-- WAKE_EVENT (R905). An enabled wake event aborts an entry before commit, or is latched and starts the wake. -/
  | wakeEvent (event : Fin 8) (committed : Bool)
  /-- PWR_WTMR (R905). The wake timer expires and raises the TIMER wake event. -/
  | pwrWtmr (committed : Bool)
  /-- WAKE_DONE (R912). The wake ends with clocks restarted together and the MC running after its WFI. -/
  | wakeDone
  /-- AO_BOR (R914). An AO brown-out resets the AO domain as at power-on and sets AO_BOR. -/
  | aoBor (dly : BitVec 3)
  /-- PWR_DIE_GATE_WRITE (R916). A PWR_DIE_GATE write gates or ungates logic dies, or is refused. -/
  | pwrDieGateWrite (mid : BitVec 12) (high : Bool) (value : Word)
  /-- UNGATING (R917). An ungated die becomes powered, reset and ready within 1 ms. -/
  | ungating (die : Fin 48)
  /-- WRST (R928). WRST_N low starts a warm device reset. -/
  | wrst
  /-- WARM_DEVICE_RESET (R933). A warm device reset quiesces QE, MPE and DMC in each hub, then resets every die and runs start-up. -/
  | warmDeviceReset (hub : Option (Fin 2))
  /-- HUB_RESET (R936). A hub reset quiesces and resets one hub. -/
  | hubReset (hub : Fin 2)
  /-- HUB_RESET_DONE (R936). The reset hub completes boot, link and memory retraining and starts its firmware. -/
  | hubResetDone (hub : Fin 2) (mbist : Bool) (chans : Vector ChanTrain 2) (ports : Vector CxlTrain 2)
  /-- DIE_RESET (R939). A die reset quiesces and resets a logic die and runs its BIST. -/
  | dieReset (die : Fin 48)
  /-- DIE_READY (R939). The reset logic die becomes ready with package clocks locked, or is retired. -/
  | dieReady (die : Fin 48) (pass : Bool)
  /-- PORT_DIE_RESET (R940). A port-die reset resets the die and its link ends, runs BIST and reloads its configuration. -/
  | portDieReset (port : Fin 4) (pass : Bool)
  /-- ACRE_RESET (R941). An acre reset quiesces, isolates and holds GSR, then releases the acre. -/
  | acreReset (acre : Fin 192)
  /-- RST_CTL_GO (R962). GO in RST_CTL starts the reset of SCOPE and TARGET. -/
  | rstCtlGo (mid : BitVec 12) (value : Word)
  /-- ERROR_REPORT (R969). An error report message reaches the collector and is appended or coalesced. -/
  | errorReport (block : Byte) (unit : BitVec 12) (code : Half) (ok : Bool)
  /-- ERROR_REPORT_RESEND (R968). A pending undelivered report is resent every 100 µs. -/
  | errorReportResend (block : Byte) (unit : BitVec 12) (code : Half)
  /-- OPERATING_MINUTE (R997). Each operating minute adds to the counters and each die's temperature histogram. -/
  | operatingMinute
  /-- LTS_PERIODIC_WRITE (R989). Every 60 operating minutes, and at PARK entry, the counter sectors are written. -/
  | ltsPeriodicWrite
  /-- AGING_READING (R998). At first power-on and every 1,000 hours a die's ring oscillators are measured and stored. -/
  | agingReading (site : Fin 64) (ratio : Half) (temp : Half)
  /-- CAL_TICK (R1000). At each AO tick the calendar adds its increment. -/
  | calTick
  /-- CAL_LOAD (R1001). LOAD in CAL_CTL loads CAL_SEC and CAL_FRAC at the next AO tick. -/
  | calLoad (mid : BitVec 12) (value : Word)
  /-- LDC_SIG_ERR_CLEAR (R1021). Writing 1 to VALID clears PEER, GATE and VALID while CNT keeps its count. -/
  | ldcSigErrClear (mid : BitVec 12) (site : Fin 64) (value : Word)
  /-- XTAL_READY (R851). AO_XTAL becomes READY again once 64 consecutive periods measure within ±25 % of AO_RC. -/
  | xtalReady
  /-- PCIE_LINK_DOWN (R632). A PCIe link leaves or regains L0/L1, setting LINK_DOWN in PRT_PCIE_ERR and deciding whether outbound accesses on it complete with ERR_TARGET. -/
  | pcieLinkDown (port : Fin 4) (link : Fin 4) (up : Bool) (speed : Fin 8) (ltssm : BitVec 6)
  /-- PCIE_PERST_N (R624). Release of PCIE_PERST_N starts the endpoint's Configuration Request Retry Status period, which lasts until SP3 ends. -/
  | pciePerstN (port : Fin 4)
  /-- ETH_LINK_DOWN (R647). An Ethernet MAC's link goes down or comes up, setting LINK_UP or LINK_DOWN and making pending frames finish with RESULT LINK_DOWN. -/
  | ethLinkDown (port : Fin 4) (mac : Fin 4) (up : Bool)
  /-- PEER_SIDE_RESET (R369). A reset of the third-party die on an X link moves a link end in DOWN back to DETECT. -/
  | peerSideReset (hub : Fin 2)
  deriving DecidableEq, Repr

end Sys2Proof
end

