-- ==== Sys2Proof/Decode.lean ====
section
/-! DEFINITION. Commands that a word spells. -/

namespace Sys2Proof

/-- The command that a word of `nbits` bits spells by the table's bits. No row of spec/opcode_table.json gives bits, so no word spells
one: the commands come from outside with their operands (log entry 1). -/
def decodeTableWord (_nbits _w : Nat) : Option Instr := none

end Sys2Proof
end

