-- ==== Sys2Proof/Config.lean ====
section
/-! DEFINITION. Free values: what the spec leaves open. Each is an opaque constant without a body, so that a statement holds
whatever it is (log entry 3). -/

namespace Sys2Proof

/-- What a multiplexer of a perch selects (R115, chapter 04): an output wire of a cubit of the perch, a chain wire that ends there (56 per
direction it travels in: east, west, up, down), a league tap, the trigger-in tap, an output of a bushel of the acre (DOUT, then POISON_OUT,
ERR_OUT, CE_OUT), an output of a MAC tile of the acre (HALTED, the READYs of IS0 and IS1, VALID and POISON of OS, DATA of OS), or a
constant. -/
inductive SpanSrc where
  | cubit (cubit : Fin 16) (wire : Fin 32)
  | chain (wire : Fin 224)
  | tap (track : Fin 128)
  | trigIn
  | bushel (b : Fin 192) (portB : Bool) (bit : Fin 99)
  | tile (t : Fin 32) (sig : Fin 53)
  | zero
  | one
  deriving DecidableEq, Repr

/-- The standard of a user I/O pin (R681). -/
inductive PinStd where
  | cmos33 | cmos25 | cmos18 | lvds
  deriving DecidableEq, Repr, Inhabited

/-- What the image sets of a user I/O pin (R681): standard, drive in mA, slew, pull (none, up, down or keeper). -/
structure PinSetup where
  std   : PinStd
  drive : BitVec 2
  slew  : Bool
  pull  : BitVec 2
  deriving DecidableEq, Repr, Inhabited

end Sys2Proof

namespace Sys2Proof.Config

/-- The source an input wire of a cubit selects, if any (R115, R116), from the routing frames of its perch, the cubit in the perch and
the wire: 0-63 ports P0 to P3, 64-67 CTL0 to CTL3. The layout of the multiplexer selects is in the device database (R700). -/
opaque inputSelect : List (BitVec 4096) → Nat → Nat → Option SpanSrc

/-- The span source a drive point takes, if any (R120), from the routing frames of its perch and the track (R700). -/
opaque driveSelect : List (BitVec 4096) → Nat → Option SpanSrc

/-- What the multiplexer of a chain wire selects, if anything (R117), from the routing frames of its source perch and the wire: below 512
output `i mod 32` of cubit `i div 32` of the perch, from 512 on a league tap. -/
opaque chainSelect : List (BitVec 4096) → Nat → Option (Fin 640)

/-- The span source a trigger-out tap takes, if any, from the routing frames of its perch. -/
opaque trigOutSelect : List (BitVec 4096) → Option SpanSrc

/-- The perch of an acre at which fabric clock `m` is tapped, and the cubit output it takes there, if any, from that perch's routing
frames (R150). -/
opaque clockPerch : Nat → Fin 256
opaque clockSelect : List (BitVec 4096) → Nat → Option (Fin 16 × Fin 32)

/-- The bit of frames 0x2009 and 0x200A, taken together, that clamps a chain wire: its source perch in the acre and its number (R701). -/
opaque chainClamp : Nat → Nat → Fin 8192

/-- The bit of frame 0x200B that clamps a junction at the acre boundary: 0 horizontal or 1 vertical, line, track (R701). -/
opaque junctionClamp : Nat → Nat → Nat → Fin 4096

/-- The value of a wire of a combinational loop: the spec gives none. -/
opaque loopWire : Nat → Nat → Bool

/-- What the image, by the frames of the acre of R680, sets of a user I/O pin (R681): no frame of R699 and R701 is named for it. -/
opaque pinSetup : List (Nat × BitVec 4096) → Nat → PinSetup

/-- The VCCIO supply the board gives a bank of a port die, in tenths of a volt (R681, R887). -/
opaque vccio : Nat → Nat → Nat

/-- The level the board gives a pin that the device does not drive, for each reading of the state's counter. -/
opaque pinLevel : Nat → Nat → Bool

/-- A fresh free value for each reading of the state's counter: a value the spec does not fix (log entry 3). -/
opaque freeLine : Nat → BitVec 512

/-- The 8 check bits that the Cafen Die Interface Specification's SEC-DED(72,64) code gives a payload group (R289); the
equations are outside this spec. -/
opaque groupCheck : DWord → BitVec 8

/-- The 7 check bits that the Cafen Die Interface Specification's SEC-DED(39,32) code gives a header (R289). -/
opaque headerCheck : Word → BitVec 7

/-- The header ECC of MIPI CSI-2 (R670) over a header's DT, VC and WC; the equations are outside this spec. -/
opaque csiEcc : BitVec 26 → Byte

/-- The payload CRC-16 of MIPI CSI-2 (R670); its conventions are outside this spec. -/
opaque csiCrc : List Byte → Half

/-- SHA-384 (FIPS 180-4), byte `i` of the digest at bits [8i + 7:8i]; the standard is outside this spec. -/
opaque sha384 : List Byte → BitVec 384

/-- Whether an ECDSA P-384 signature (r then s) over a SHA-384 digest verifies under a public key (X then Y), each a string of bytes
as the packet or header holds it; the standard is outside this spec. -/
opaque ecdsaP384 : List Byte → BitVec 384 → List Byte → Bool

/-- What Zstandard (RFC 8878) decompresses a string of frames to, up to the first fault, and whether there is no fault under the
limits of R692; the standard is outside this spec. -/
opaque unzstd : List Byte → List Byte × Bool

/-- The 512 bytes that hold a captured MAC tile (R729), from its parts in the order R729 names them; R729 does not give their places. -/
opaque tileImage : List Nat → List Byte

/-- What those bytes restore when software has changed them. -/
opaque tileParts : List Byte → List Nat

/-- The 32 bytes that hold the output registers of a captured bushel (R729), whose places R729 does not give. -/
opaque portImage : List Nat → List Byte

/-- What those bytes restore when software has changed them. -/
opaque portParts : List Byte → List Nat

/-- IFACE_REV and stepping of the *x*_ID that hub `h` read from its third-party die (R39, R411): bits [23:8]. -/
opaque xId : Nat → BitVec 16

/-- The security engine's own device key, derived from its PUF, under which KEK_SET's keys are wrapped (R788). -/
opaque deviceKey : BitVec 256

end Sys2Proof.Config
end

