-- ==== Sys2Proof/Machine/RegTable.lean ====
section
/-! DEFINITION. The register table of the device: every CSR of the spec's register tables with its place, its
reset value and the access code of each of its bits (R10, R13; each row names the rule whose table gives it).
A register whose reset column says fuse, strap, image, kept or board record has the value log entry 4 names. -/

namespace Sys2Proof.Machine

/-- Where a register stands: in the CSR space of both hubs, of hub 0 only, of a port die, of a logic die's LDC (by
physical site), or in a debug module's DMI space. -/
inductive RegKind where
  | hub | hubZero | port | ldc | dbg
  deriving DecidableEq, Repr

/-- One row of a register table. `base` is the byte offset in its CSR space (word number for a debug module) and `dims`
the counts and strides of its indexes, outermost first. The masks say which bits carry which access code of R13; a bit
in none of them is read-only. `levelS` marks a register of a block that only Level S writes (R15). -/
structure RegRow where
  name   : String
  kind   : RegKind
  base   : Nat
  dims   : List (Nat × Nat)
  wide   : Bool
  reset  : Nat
  rw     : Nat
  rws    : Nat
  rwl    : Nat
  w1c    : Nat
  w1s    : Nat
  wo     : Nat
  rs     : Bool
  levelS : Bool
  deriving DecidableEq, Repr

/-- Registers of the tables of R38, R47, R405, R411. -/
def regsHub1 : List RegRow := [
  ⟨"HUB_ID", .hub, 0x0, [], false, 0x210002, 0x0, 0x0, 0x0, 0x0, 0x0, 0x0, false, false⟩,
  ⟨"HUB_CAP", .hub, 0x4, [], false, 0x703F, 0x0, 0x0, 0x0, 0x0, 0x0, 0x0, false, false⟩,
  ⟨"HUB_CAP_EFF", .hub, 0x8, [], false, 0x0, 0x0, 0x0, 0x0, 0x0, 0x0, 0x0, false, false⟩,
  ⟨"HUB_SITE", .hub, 0xC, [], false, 0x0, 0x0, 0x0, 0x0, 0x0, 0x0, 0x0, false, false⟩,
  ⟨"HUB_SERIAL", .hub, 0x10, [], true, 0x0, 0x0, 0x0, 0x0, 0x0, 0x0, 0x0, false, false⟩,
  ⟨"HUB_PKG_CAP", .hub, 0x40, [], false, 0x0, 0x0, 0x0, 0x0, 0x0, 0x0, 0x0, false, false⟩,
  ⟨"HUB_REPAIR", .hub, 0x80, [(8, 0x4)], false, 0x60000, 0x0, 0x0, 0x0, 0x0, 0x0, 0x0, false, false⟩,
  ⟨"HUB_SITE_STAT", .hub, 0x100, [(64, 0x4)], false, 0x0, 0x0, 0x0, 0x0, 0x0, 0x0, 0x0, false, false⟩,
  ⟨"FWL_CTL", .hub, 0x120000, [], false, 0x0, 0x0, 0x7, 0x0, 0x0, 0x0, 0x0, false, true⟩,
  ⟨"FWL_STAT", .hub, 0x120004, [], false, 0x0, 0x0, 0x0, 0x0, 0x0, 0x0, 0x0, false, true⟩,
  ⟨"FWL_ERR", .hub, 0x120008, [], false, 0x0, 0x0, 0x0, 0x0, 0x3F, 0x0, 0x0, false, true⟩,
  ⟨"FWL_ERR_ADDR", .hub, 0x120010, [], true, 0x0, 0x0, 0x0, 0x0, 0x0, 0x0, 0x0, false, true⟩,
  ⟨"FWL_ERR_INFO", .hub, 0x120018, [], false, 0x0, 0x0, 0x0, 0x0, 0x0, 0x0, 0x0, false, true⟩,
  ⟨"FWL_CNT", .hub, 0x12001C, [], false, 0x0, 0x0, 0x0, 0x0, 0x0, 0x0, 0x0, false, true⟩,
  ⟨"FWL_WIN_BASE", .hub, 0x120100, [(64, 0x10)], true, 0x0, 0x0, 0xFFFFFFFFF000, 0x0, 0x0, 0x0, 0x0, false, true⟩,
  ⟨"FWL_WIN_CFG", .hub, 0x120108, [(64, 0x10)], false, 0x0, 0x0, 0xFFF0FFF, 0x0, 0x0, 0x0, 0x0, false, true⟩,
  ⟨"FWL_WIN_USE", .hub, 0x12010C, [(64, 0x10)], false, 0x0, 0x0, 0x0, 0x0, 0x0, 0x0, 0x0, false, true⟩,
  ⟨"FWL_X_ID", .hub, 0x130000, [], false, 0x0, 0x0, 0x0, 0x0, 0x0, 0x0, 0x0, false, false⟩,
  ⟨"FWL_X_PKG_CAP", .hub, 0x130004, [], false, 0x0, 0x0, 0x0, 0x0, 0x0, 0x0, 0x0, false, false⟩,
  ⟨"FWL_X_LINK", .hub, 0x130008, [], false, 0x0, 0x0, 0x0, 0x0, 0x0, 0x0, 0x0, false, false⟩]

/-- Registers of the tables of R411, R475, R484, R560. -/
def regsHub2 : List RegRow := [
  ⟨"FWL_X_MBOX", .hub, 0x130100, [(16, 0x4)], false, 0x0, 0xFFFFFFFF, 0x0, 0x0, 0x0, 0x0, 0x0, false, false⟩,
  ⟨"DMC_GEOM", .hub, 0x200000, [(2, 0x10000)], false, 0x0, 0x0, 0x0, 0x37F, 0x0, 0x80000000, 0x0, false, true⟩,
  ⟨"DMC_STAT", .hub, 0x200004, [(2, 0x10000)], false, 0x0, 0x0, 0x0, 0x0, 0x0, 0x0, 0x0, false, true⟩,
  ⟨"DMC_POLICY", .hub, 0x200008, [(2, 0x10000)], false, 0xD5, 0x0, 0xFF, 0x0, 0x0, 0x0, 0x0, false, true⟩,
  ⟨"DMC_ERR", .hub, 0x20000C, [(2, 0x10000)], false, 0x0, 0x0, 0x0, 0x0, 0x7FF, 0x0, 0x0, false, true⟩,
  ⟨"DMC_CNT", .hub, 0x200010, [(2, 0x10000)], false, 0x0, 0x0, 0x0, 0x0, 0x0, 0x0, 0x0, false, true⟩,
  ⟨"DMC_CA_CNT", .hub, 0x200014, [(2, 0x10000)], false, 0x0, 0x0, 0x0, 0x0, 0x0, 0x0, 0x0, false, true⟩,
  ⟨"DMC_ERR_LOC", .hub, 0x200018, [(2, 0x10000)], true, 0x0, 0x0, 0x0, 0x0, 0x2000000000, 0x0, 0x0, false, true⟩,
  ⟨"DMC_RANK", .hub, 0x200020, [(2, 0x10000), (4, 0x4)], false, 0x0, 0x0, 0x0, 0x0, 0x0, 0x0, 0x0, false, true⟩,
  ⟨"DMC_MIG", .hub, 0x200030, [(2, 0x10000)], false, 0x200, 0x0, 0x3700, 0x0, 0x0, 0x800, 0x0, false, true⟩,
  ⟨"DMC_MIG_POS", .hub, 0x200034, [(2, 0x10000)], false, 0x0, 0x0, 0x0, 0x0, 0x0, 0x0, 0x0, false, true⟩,
  ⟨"DMC_MIG_UE", .hub, 0x200038, [(2, 0x10000)], false, 0x0, 0x0, 0x0, 0x0, 0x0, 0x0, 0x0, false, true⟩,
  ⟨"CXL_STAT", .hub, 0x240000, [(2, 0x10000)], false, 0x0, 0x0, 0x0, 0x0, 0x0, 0x0, 0x0, false, true⟩,
  ⟨"CXL_CTL", .hub, 0x240004, [(2, 0x10000)], false, 0x0, 0x0, 0x7, 0x0, 0x0, 0x0, 0x0, false, true⟩,
  ⟨"CXL_ERR", .hub, 0x240008, [(2, 0x10000)], false, 0x0, 0x0, 0x0, 0x0, 0xF, 0x0, 0x0, false, true⟩,
  ⟨"CXL_CNT", .hub, 0x24000C, [(2, 0x10000)], false, 0x0, 0x0, 0x0, 0x0, 0x0, 0x0, 0x0, false, true⟩,
  ⟨"MPE_CTL", .hub, 0x300000, [], false, 0x1F4, 0x0, 0x7FFF, 0x0, 0x0, 0x0, 0x0, false, true⟩,
  ⟨"MPE_STAT", .hub, 0x300004, [], false, 0x0, 0x0, 0x0, 0x0, 0x0, 0x0, 0x0, false, true⟩,
  ⟨"MPE_ERR", .hub, 0x300008, [], false, 0x0, 0x0, 0x0, 0x0, 0x3FFFF, 0x0, 0x0, false, true⟩,
  ⟨"MPE_ERR_LOC", .hub, 0x300010, [], true, 0x0, 0x0, 0x0, 0x0, 0x8000000000000000, 0x0, 0x0, false, true⟩]

/-- Registers of the tables of R560. -/
def regsHub3 : List RegRow := [
  ⟨"MPE_CNT", .hub, 0x300018, [], false, 0x0, 0x0, 0x0, 0x0, 0x0, 0x0, 0x0, false, true⟩,
  ⟨"MPE_SRAM_CFG", .hub, 0x30001C, [], false, 0x8, 0x0, 0x0, 0x7F, 0x0, 0x80000000, 0x0, false, true⟩,
  ⟨"MPE_KEY_CMD", .hub, 0x300020, [], false, 0x0, 0x0, 0x7F, 0x0, 0x0, 0x80, 0x0, false, true⟩,
  ⟨"MPE_KEY_VALID", .hub, 0x300024, [], false, 0x0, 0x0, 0x0, 0x0, 0x0, 0x0, 0x0, false, true⟩,
  ⟨"MPE_KWRAP", .hub, 0x300040, [(18, 0x4)], false, 0x0, 0x0, 0x0, 0x0, 0x0, 0x0, 0xFFFFFFFF, false, true⟩,
  ⟨"MPE_FENCE", .hub, 0x3000A0, [], false, 0x2, 0x0, 0x0, 0x0, 0x0, 0x1, 0x0, false, true⟩,
  ⟨"MPE_RKEY_CTL", .hub, 0x3000C0, [], false, 0x320000, 0x0, 0x3FF000F, 0x0, 0x0, 0x10, 0x0, false, true⟩,
  ⟨"MPE_RKEY_STAT", .hub, 0x3000C4, [], false, 0x0, 0x0, 0x0, 0x0, 0x0, 0x0, 0x0, false, true⟩,
  ⟨"MPE_RKEY_POS", .hub, 0x3000C8, [], true, 0x0, 0x0, 0x0, 0x0, 0x0, 0x0, 0x0, false, true⟩,
  ⟨"MPE_RESEAL_CTL", .hub, 0x3000D0, [], false, 0x0, 0x0, 0x3FF, 0x0, 0x0, 0x400, 0x0, false, true⟩,
  ⟨"MPE_RESEAL_BASE", .hub, 0x3000D8, [], true, 0x0, 0x0, 0xFFFFFFFFF800, 0x0, 0x0, 0x0, 0x0, false, true⟩,
  ⟨"MPE_RGN_BASE", .hub, 0x300100, [(16, 0x40)], true, 0x0, 0x0, 0xFFFFFFE00000, 0x0, 0x0, 0x0, 0x0, false, true⟩,
  ⟨"MPE_RGN_CFG", .hub, 0x300108, [(16, 0x40)], false, 0x0, 0x0, 0x3FF, 0x0, 0x0, 0x0, 0x0, false, true⟩,
  ⟨"MPE_RGN_KEYS", .hub, 0x30010C, [(16, 0x40)], false, 0x0, 0x0, 0x7FF, 0x0, 0x0, 0x0, 0x0, false, true⟩,
  ⟨"MPE_RGN_META", .hub, 0x300110, [(16, 0x40)], true, 0x0, 0x0, 0xFFFFFFFFFE3F, 0x0, 0x0, 0x0, 0x0, false, true⟩,
  ⟨"MPE_RGN_MACB", .hub, 0x300118, [(16, 0x40)], true, 0x0, 0x0, 0xFFFFFFFFFFC0, 0x0, 0x0, 0x0, 0x0, false, true⟩,
  ⟨"MPE_RGN_SRAM", .hub, 0x300120, [(16, 0x40)], false, 0x0, 0x0, 0xFFFF000, 0x0, 0x0, 0x0, 0x0, false, true⟩,
  ⟨"MPE_RGN_MAJ", .hub, 0x300124, [(16, 0x40)], false, 0x0, 0x0, 0x0, 0x0, 0x0, 0x0, 0x0, false, true⟩,
  ⟨"MPE_RGN_FLOOR", .hub, 0x300128, [(16, 0x40)], false, 0x0, 0x0, 0x0, 0x0, 0x0, 0x0, 0x0, false, true⟩,
  ⟨"MPE_RGN_STAT", .hub, 0x30012C, [(16, 0x40)], false, 0x0, 0x0, 0x0, 0x0, 0x0, 0x0, 0x0, false, true⟩]

/-- Registers of the tables of R560, R612, R845. -/
def regsHub4 : List RegRow := [
  ⟨"MPE_RIGHTS", .hub, 0x310000, [(4096, 0x8)], true, 0x0, 0x0, 0x3FFFFFFFF, 0x0, 0x0, 0x0, 0x0, false, true⟩,
  ⟨"QE_STAT", .hub, 0x400000, [], false, 0x0, 0x0, 0x0, 0x0, 0x0, 0x0, 0x0, false, false⟩,
  ⟨"QE_ERR", .hub, 0x400004, [], false, 0x0, 0x0, 0x0, 0x0, 0x3F, 0x0, 0x0, false, false⟩,
  ⟨"QE_ERR_Q", .hub, 0x400008, [], false, 0x0, 0x0, 0x0, 0x0, 0x0, 0x0, 0x0, false, false⟩,
  ⟨"QE_EVT_FIFO", .hub, 0x40000C, [], false, 0x0, 0x0, 0x0, 0x0, 0x0, 0x0, 0x0, true, false⟩,
  ⟨"QE_Q_DBASE", .hub, 0x440000, [(4096, 0x40)], true, 0x0, 0x0, 0xFFFFFFFFFFE0, 0x0, 0x0, 0x0, 0x0, false, false⟩,
  ⟨"QE_Q_CBASE", .hub, 0x440008, [(4096, 0x40)], true, 0x0, 0x0, 0xFFFFFFFFFFF0, 0x0, 0x0, 0x0, 0x0, false, false⟩,
  ⟨"QE_Q_CFG", .hub, 0x440010, [(4096, 0x40)], false, 0x80, 0x0, 0x3FFFF, 0x0, 0x0, 0xC0000, 0x0, false, false⟩,
  ⟨"QE_Q_MID", .hub, 0x440014, [(4096, 0x40)], false, 0x0, 0x0, 0xFFF0FFF, 0x0, 0x0, 0x0, 0x0, false, false⟩,
  ⟨"QE_Q_PI", .hub, 0x440018, [(4096, 0x40)], false, 0x0, 0xFFFF, 0x0, 0x0, 0x0, 0x0, 0x0, false, false⟩,
  ⟨"QE_Q_CQH", .hub, 0x44001C, [(4096, 0x40)], false, 0x0, 0xFFFF, 0x0, 0x0, 0x0, 0x0, 0x0, false, false⟩,
  ⟨"QE_Q_IDX", .hub, 0x440020, [(4096, 0x40)], false, 0x0, 0x0, 0x0, 0x0, 0x0, 0x0, 0x0, false, false⟩,
  ⟨"QE_Q_STAT", .hub, 0x440024, [(4096, 0x40)], false, 0x0, 0x0, 0x0, 0x0, 0x0, 0x0, 0x0, false, false⟩,
  ⟨"QE_Q_HELD", .hub, 0x440030, [(4096, 0x40), (4, 0x4)], false, 0x0, 0x0, 0x0, 0x0, 0x0, 0x0, 0x0, false, false⟩,
  ⟨"HUB_CPU_CTL", .hub, 0x780000, [], false, 0x0, 0x0, 0xF0F, 0x0, 0x0, 0x0, 0x0, false, true⟩,
  ⟨"HUB_CPU_STAT", .hub, 0x780004, [], false, 0x0, 0x0, 0x0, 0x0, 0x0, 0x0, 0x0, false, true⟩,
  ⟨"HUB_CPU_ERR", .hub, 0x780008, [], false, 0x0, 0x0, 0x0, 0x0, 0xF, 0x0, 0x0, false, true⟩,
  ⟨"HUB_CPU_BERR_ADDR", .hub, 0x780010, [], true, 0x0, 0x0, 0x0, 0x0, 0x0, 0x0, 0x0, false, true⟩,
  ⟨"HUB_CPU_RVEC", .hub, 0x780020, [(4, 0x8)], true, 0x0, 0x0, 0xFFFFFFFFFFFFFFFF, 0x0, 0x0, 0x0, 0x0, false, true⟩,
  ⟨"HUB_SEM_LEASE", .hub, 0x780040, [], false, 0x0, 0x0, 0xFFFFF, 0x0, 0x0, 0x0, 0x0, false, true⟩]

/-- Registers of the tables of R483, R488, R679, R845, R847, R881, R924. -/
def regsHub5 : List RegRow := [
  ⟨"HUB_SEM_LOG", .hub, 0x780044, [], false, 0x0, 0x0, 0x0, 0x0, 0x0, 0x0, 0x0, false, true⟩,
  ⟨"HUB_SEM", .hub, 0x780100, [(64, 0x4)], false, 0x0, 0x0, 0x0, 0x0, 0x0, 0x0, 0x0, true, false⟩,
  ⟨"WDT_CORE_CTL", .hub, 0x760000, [(4, 0x10)], false, 0x0, 0x0, 0x1FFFFFF, 0x0, 0x0, 0x0, 0x0, false, false⟩,
  ⟨"WDT_CORE_SVC", .hub, 0x760004, [(4, 0x10)], false, 0x0, 0x0, 0x0, 0x0, 0x0, 0x0, 0xFFFFFFFF, false, false⟩,
  ⟨"WDT_CORE_STAT", .hub, 0x760008, [(4, 0x10)], false, 0x0, 0x0, 0x0, 0x0, 0x0, 0x0, 0x0, false, false⟩,
  ⟨"CLK_STAT", .hub, 0x740000, [], false, 0x0, 0x0, 0x0, 0x0, 0x0, 0x0, 0x0, false, true⟩,
  ⟨"CLK_ERR", .hub, 0x740004, [], false, 0x0, 0x0, 0x0, 0x0, 0xFF, 0x0, 0x0, false, true⟩,
  ⟨"CLK_CPLL", .hub, 0x740008, [], false, 0x22224, 0x0, 0x37F7F, 0x0, 0x0, 0x0, 0x0, false, true⟩,
  ⟨"CLK_DOM", .hub, 0x74000C, [], false, 0x0, 0x0, 0xF, 0x0, 0x0, 0x0, 0x0, false, true⟩,
  ⟨"CLK_MON", .hub, 0x740010, [], false, 0x44C0384, 0x0, 0x7FF07FF, 0x0, 0x0, 0x0, 0x0, false, true⟩,
  ⟨"CLK_PEN", .hub, 0x740014, [], false, 0x0, 0x0, 0x7F, 0x0, 0x0, 0x0, 0x0, false, true⟩,
  ⟨"PWR_TEMP", .hub, 0x7A0040, [(4, 0x4)], false, 0x4E2, 0x0, 0x0, 0x0, 0x0, 0x0, 0x0, false, true⟩,
  ⟨"PWR_SRAM", .hub, 0x7A0050, [], false, 0x3, 0x0, 0x0, 0x0, 0x0, 0x0, 0x0, false, true⟩,
  ⟨"DMC_HUB_CFG", .hub, 0x220000, [], false, 0x0, 0x0, 0x0, 0x3, 0x0, 0x80000000, 0x0, false, false⟩,
  ⟨"CXL_INTLV", .hub, 0x260000, [], false, 0x0, 0x0, 0x0, 0x3, 0x0, 0x80000000, 0x0, false, false⟩,
  ⟨"HUB_CRC_CTL", .hub, 0x600000, [(4, 0x100)], false, 0x0, 0x3, 0x0, 0x0, 0x0, 0xC, 0x0, false, false⟩,
  ⟨"HUB_CRC_FOLD", .hub, 0x600008, [(4, 0x100)], true, 0x0, 0xFFFFFFFFFFFFFFFF, 0x0, 0x0, 0x0, 0x0, 0x0, false, false⟩,
  ⟨"HUB_CRC_RESULT", .hub, 0x600010, [(4, 0x100)], true, 0x0, 0x0, 0x0, 0x0, 0x0, 0x0, 0x0, false, false⟩,
  ⟨"HUB_CRC_COUNT", .hub, 0x600018, [(4, 0x100)], true, 0x0, 0x0, 0x0, 0x0, 0x0, 0x0, 0x0, false, false⟩]

/-- Registers of the tables of R340, R401, R616. -/
def regsHubZero1 : List RegRow := [
  ⟨"RNG_TIMEOUT", .hubZero, 0x100000, [], false, 0x7D0, 0x0, 0xFFFFF, 0x0, 0x0, 0x0, 0x0, false, true⟩,
  ⟨"RNG_STAT", .hubZero, 0x100004, [], false, 0x8, 0x0, 0x0, 0x0, 0x0, 0x0, 0x0, false, true⟩,
  ⟨"RNG_PLAN_ADDR", .hubZero, 0x100010, [], false, 0x0, 0x0, 0x3F037F, 0x0, 0x0, 0x0, 0x0, false, true⟩,
  ⟨"RNG_PLAN_ENTRY", .hubZero, 0x100014, [], false, 0x0, 0x0, 0x3FF, 0x0, 0x0, 0x0, 0x0, false, true⟩,
  ⟨"RNG_PLAN_CMD", .hubZero, 0x100018, [], false, 0x0, 0x0, 0x3F0000, 0x0, 0x0, 0x3, 0x0, false, true⟩,
  ⟨"RNG_E2E_CNT", .hubZero, 0x100020, [], false, 0x0, 0x0, 0x0, 0x0, 0x0, 0x0, 0x0, false, true⟩,
  ⟨"RNG_E2E_LAST", .hubZero, 0x100024, [], false, 0x0, 0x0, 0x0, 0x0, 0x0, 0x0, 0x0, false, true⟩,
  ⟨"RNG_LATE_CPL_CNT", .hubZero, 0x100028, [], false, 0x0, 0x0, 0x0, 0x0, 0x0, 0x0, 0x0, false, true⟩,
  ⟨"RNG_RATE", .hubZero, 0x100100, [(60, 0x4)], false, 0xFFF000, 0x0, 0x0, 0x0, 0x2000000, 0x0, 0x0, false, true⟩,
  ⟨"RNG_ERR", .hubZero, 0x100200, [(60, 0x4)], false, 0x0, 0x0, 0x0, 0x0, 0x1F, 0x0, 0x0, false, true⟩,
  ⟨"RNG_ECNT", .hubZero, 0x100300, [(60, 0x4)], false, 0x0, 0x0, 0x0, 0x0, 0x0, 0x0, 0x0, false, true⟩,
  ⟨"RNG_GFLOW", .hubZero, 0x100800, [(256, 0x4)], false, 0x0, 0x0, 0x7FFFF, 0x0, 0x0, 0x0, 0x0, false, true⟩,
  ⟨"LNK_STAT", .hubZero, 0x110000, [(131, 0x4)], false, 0x0, 0x0, 0x0, 0x0, 0x0, 0x0, 0x0, false, true⟩,
  ⟨"LNK_CTL", .hubZero, 0x110400, [(131, 0x4)], false, 0x0, 0x0, 0x0, 0x0, 0x0, 0x1, 0x0, false, true⟩,
  ⟨"LNK_ERR", .hubZero, 0x110800, [(131, 0x4)], false, 0x0, 0x0, 0x0, 0x0, 0x7F, 0x0, 0x0, false, true⟩,
  ⟨"LNK_CNT", .hubZero, 0x110C00, [(131, 0x4)], false, 0x0, 0x0, 0x0, 0x0, 0x0, 0x0, 0x0, false, true⟩,
  ⟨"LNK_MAP", .hubZero, 0x111000, [(131, 0x20), (6, 0x4)], false, 0x0, 0x0, 0x0, 0x0, 0x0, 0x0, 0x0, false, true⟩,
  ⟨"TB_NS", .hubZero, 0x500000, [], true, 0x0, 0x0, 0x0, 0x0, 0x0, 0x0, 0x0, false, true⟩,
  ⟨"TB_FRAC", .hubZero, 0x500008, [], false, 0x0, 0x0, 0x0, 0x0, 0x0, 0x0, 0x0, false, true⟩,
  ⟨"TB_INCR", .hubZero, 0x500010, [], true, 0xA00000000, 0x0, 0xFFFFFFFFFF, 0x0, 0x0, 0x0, 0x0, false, true⟩]

/-- Registers of the tables of R616, R742, R793. -/
def regsHubZero2 : List RegRow := [
  ⟨"TB_ADJ_NS", .hubZero, 0x500018, [], true, 0x0, 0x0, 0xFFFFFFFFFFFF, 0x0, 0x0, 0x0, 0x0, false, true⟩,
  ⟨"TB_ADJ_CTL", .hubZero, 0x500020, [], false, 0x0, 0x0, 0x1E, 0x0, 0x0, 0x1, 0x0, false, true⟩,
  ⟨"TB_STAT", .hubZero, 0x500024, [], false, 0x1, 0x0, 0x0, 0x0, 0x0, 0x0, 0x0, false, true⟩,
  ⟨"TB_ERR", .hubZero, 0x500028, [], false, 0x0, 0x0, 0x0, 0x0, 0xF, 0x0, 0x0, false, true⟩,
  ⟨"TB_ERR_STOP", .hubZero, 0x50002C, [], false, 0x0, 0x0, 0x0, 0x0, 0x0, 0x0, 0x0, false, true⟩,
  ⟨"TB_PTP", .hubZero, 0x500030, [], false, 0x0, 0x0, 0xFFF001F, 0x0, 0x0, 0x0, 0x0, false, true⟩,
  ⟨"CFG_STAT", .hubZero, 0x700000, [], false, 0x0, 0x0, 0x0, 0x0, 0x0, 0x0, 0x0, false, true⟩,
  ⟨"CFG_CMD", .hubZero, 0x700004, [], false, 0x0, 0x0, 0xF, 0x0, 0x0, 0x10, 0x0, false, true⟩,
  ⟨"CFG_ARG", .hubZero, 0x700008, [], false, 0x0, 0x0, 0x3FFFF, 0x0, 0x0, 0x0, 0x0, false, true⟩,
  ⟨"CFG_SRC", .hubZero, 0x700010, [], true, 0x0, 0x0, 0xFFFFFFFFFFFFFFFF, 0x0, 0x0, 0x0, 0x0, false, true⟩,
  ⟨"CFG_BUF", .hubZero, 0x700018, [], true, 0x0, 0x0, 0xFFFFFFFFFFFFFFFF, 0x0, 0x0, 0x0, 0x0, false, true⟩,
  ⟨"CFG_ERR", .hubZero, 0x700020, [], false, 0x0, 0x0, 0x0, 0x0, 0x1FF, 0x0, 0x0, false, true⟩,
  ⟨"CFG_ERR_INFO", .hubZero, 0x700024, [], false, 0x0, 0x0, 0x0, 0x0, 0x0, 0x0, 0x0, false, true⟩,
  ⟨"CFG_PAUSE", .hubZero, 0x700028, [], false, 0x0, 0x0, 0x0, 0x0, 0x0, 0x0, 0x0, false, true⟩,
  ⟨"CFG_IMG_ID", .hubZero, 0x700030, [], true, 0x0, 0x0, 0x0, 0x0, 0x0, 0x0, 0x0, false, true⟩,
  ⟨"CFG_EPOCH", .hubZero, 0x700038, [], true, 0x0, 0x0, 0x0, 0x0, 0x0, 0x0, 0x0, false, true⟩,
  ⟨"CFG_CHECK", .hubZero, 0x700040, [], false, 0x9, 0x0, 0x1F, 0x0, 0x0, 0x0, 0x0, false, true⟩,
  ⟨"CFG_ACRE", .hubZero, 0x700100, [(192, 0x4)], false, 0x0, 0x0, 0x0, 0x0, 0x0, 0x0, 0x0, false, true⟩,
  ⟨"CFG_RELOC_MAP", .hubZero, 0x700400, [(32, 0x4)], false, 0x0, 0x0, 0x0, 0x0, 0x0, 0x0, 0x0, false, true⟩,
  ⟨"CMD_STAT", .hubZero, 0x720000, [], false, 0x800, 0x0, 0x0, 0x0, 0x0, 0x0, 0x0, false, false⟩]

/-- Registers of the tables of R793, R847, R881, R924. -/
def regsHubZero3 : List RegRow := [
  ⟨"CMD_ERR", .hubZero, 0x720004, [], false, 0x0, 0x0, 0x0, 0x0, 0x1F, 0x0, 0x0, false, false⟩,
  ⟨"CMD_CNT", .hubZero, 0x720008, [], false, 0x0, 0x0, 0x0, 0x0, 0x0, 0x0, 0x0, false, false⟩,
  ⟨"CMD_FRAME_ERR", .hubZero, 0x72000C, [], false, 0x0, 0x0, 0x0, 0x0, 0x0, 0x0, 0x0, false, false⟩,
  ⟨"CMD_GRP_EN", .hubZero, 0x720010, [(7, 0x4)], false, 0x1FF, 0x0, 0x1FF, 0x0, 0x0, 0x0, 0x0, false, false⟩,
  ⟨"CMD_SEQ", .hubZero, 0x720040, [(7, 0x4)], false, 0x0, 0x0, 0x0, 0x0, 0x0, 0x0, 0x0, false, false⟩,
  ⟨"CMD_AUTH", .hubZero, 0x720060, [(7, 0x4)], false, 0x0, 0x0, 0x0, 0x0, 0x0, 0x0, 0x0, false, false⟩,
  ⟨"CMD_FAB_CTL", .hubZero, 0x720080, [], false, 0x0, 0x0, 0xFFF0001, 0x0, 0x0, 0x0, 0x0, false, false⟩,
  ⟨"CMD_FAB_DB", .hubZero, 0x720084, [], false, 0x0, 0x0, 0x0, 0x0, 0x0, 0x0, 0x1FF, false, false⟩,
  ⟨"CMD_FAB_STAT", .hubZero, 0x720088, [], false, 0x0, 0x0, 0x0, 0x0, 0x6, 0x0, 0x0, false, false⟩,
  ⟨"CMD_FAB_REQ", .hubZero, 0x721000, [(256, 0x4)], false, 0x0, 0xFFFFFFFF, 0x0, 0x0, 0x0, 0x0, 0x0, false, false⟩,
  ⟨"CMD_FAB_RSP", .hubZero, 0x721400, [(256, 0x4)], false, 0x0, 0x0, 0x0, 0x0, 0x0, 0x0, 0x0, false, false⟩,
  ⟨"WDT_SAFE_CTL", .hubZero, 0x760100, [], false, 0x7D0, 0x0, 0x1FFFF, 0x0, 0x0, 0x0, 0x0, false, false⟩,
  ⟨"WDT_SAFE_SVC", .hubZero, 0x760104, [], false, 0x0, 0x0, 0xFFFFFFFF, 0x0, 0x0, 0x0, 0x0, false, false⟩,
  ⟨"WDT_SAFE_STAT", .hubZero, 0x760108, [], false, 0x0, 0x0, 0x0, 0x0, 0x0, 0x0, 0x0, false, false⟩,
  ⟨"CLK_PRT_PEN", .hubZero, 0x740020, [(4, 0x4)], false, 0x0, 0x0, 0xFFFF, 0x0, 0x0, 0x0, 0x0, false, true⟩,
  ⟨"PWR_MODE", .hubZero, 0x7A0000, [], false, 0x0, 0x0, 0x3, 0x0, 0x0, 0x0, 0x0, false, true⟩,
  ⟨"PWR_STAT", .hubZero, 0x7A0004, [], false, 0x0, 0x0, 0x0, 0x0, 0x0, 0x0, 0x0, false, true⟩,
  ⟨"PWR_ERR", .hubZero, 0x7A0008, [], false, 0x0, 0x0, 0x0, 0x0, 0xF, 0x0, 0x0, false, true⟩,
  ⟨"PWR_REFUSE_CNT", .hubZero, 0x7A000C, [], false, 0x0, 0x0, 0x0, 0x0, 0x0, 0x0, 0x0, false, true⟩,
  ⟨"PWR_REFUSER", .hubZero, 0x7A0010, [], false, 0x0, 0x0, 0x0, 0x0, 0x0, 0x0, 0x0, false, true⟩]

/-- Registers of the tables of R924, R961, R986. -/
def regsHubZero4 : List RegRow := [
  ⟨"PWR_WAKE_EN", .hubZero, 0x7A0014, [], false, 0x1, 0x0, 0xFF, 0x0, 0x0, 0x0, 0x0, false, true⟩,
  ⟨"PWR_WAKE_CAUSE", .hubZero, 0x7A0018, [], false, 0x0, 0x0, 0x0, 0x0, 0xFF, 0x0, 0x0, false, true⟩,
  ⟨"PWR_WTMR", .hubZero, 0x7A001C, [], false, 0x0, 0x0, 0xFFFFFF, 0x0, 0x0, 0x0, 0x0, false, true⟩,
  ⟨"PWR_CAP", .hubZero, 0x7A0020, [], false, 0xBE, 0x0, 0xFF, 0x0, 0x0, 0x0, 0x0, false, true⟩,
  ⟨"PWR_PKG", .hubZero, 0x7A0024, [], false, 0x0, 0x0, 0x0, 0x0, 0x0, 0x0, 0x0, false, true⟩,
  ⟨"PWR_THR", .hubZero, 0x7A0028, [], false, 0xF, 0x0, 0xF, 0x0, 0x0, 0x0, 0x0, false, true⟩,
  ⟨"PWR_TLIM", .hubZero, 0x7A002C, [], false, 0x78, 0x0, 0xFF, 0x0, 0x0, 0x0, 0x0, false, true⟩,
  ⟨"PWR_DIE_GATE", .hubZero, 0x7A0030, [], true, 0x0, 0x0, 0xFFFFFFFFFFFF, 0x0, 0x0, 0x0, 0x0, false, true⟩,
  ⟨"RST_STAT", .hubZero, 0x7C0000, [], false, 0x0, 0x0, 0x0, 0x0, 0x0, 0x0, 0x0, false, true⟩,
  ⟨"RST_CAUSE", .hubZero, 0x7C0004, [], false, 0x0, 0x0, 0x0, 0x0, 0x0, 0x0, 0x0, false, true⟩,
  ⟨"RST_LAST_SAFE", .hubZero, 0x7C0008, [], false, 0x0, 0x0, 0x0, 0x0, 0x0, 0x0, 0x0, false, true⟩,
  ⟨"RST_CTL", .hubZero, 0x7C000C, [], false, 0x0, 0x0, 0x1FF7, 0x0, 0x0, 0x80000000, 0x0, false, true⟩,
  ⟨"RST_ERR", .hubZero, 0x7C0010, [], false, 0x0, 0x0, 0x0, 0x0, 0x7, 0x0, 0x0, false, true⟩,
  ⟨"RST_BIST_SITES", .hubZero, 0x7C0018, [], true, 0x0, 0x0, 0x0, 0x0, 0x0, 0x0, 0x0, false, true⟩,
  ⟨"RST_PTIME", .hubZero, 0x7C0020, [(8, 0x4)], false, 0x0, 0x0, 0x0, 0x0, 0x0, 0x0, 0x0, false, true⟩,
  ⟨"HUB_ERR_PEND", .hubZero, 0x7E0000, [], false, 0x0, 0x0, 0x0, 0x0, 0x1F, 0x0, 0x0, false, true⟩,
  ⟨"HUB_ERR_IEN", .hubZero, 0x7E0004, [], false, 0x1E, 0x0, 0x1F, 0x0, 0x0, 0x0, 0x0, false, true⟩,
  ⟨"HUB_ERR_FMASK", .hubZero, 0x7E0008, [], false, 0xC, 0x0, 0x1F, 0x0, 0x0, 0x0, 0x0, false, true⟩,
  ⟨"HUB_ERR_STAT", .hubZero, 0x7E000C, [], false, 0x0, 0x0, 0x0, 0x0, 0x0, 0x0, 0x0, false, true⟩,
  ⟨"HUB_ERR_NEXT_SEQ", .hubZero, 0x7E0010, [], false, 0x0, 0x0, 0x0, 0x0, 0x0, 0x0, 0x0, false, true⟩]

/-- Registers of the tables of R986, R1019, R1020. -/
def regsHubZero5 : List RegRow := [
  ⟨"HUB_ERR_CMASK", .hubZero, 0x7E0018, [], true, 0x0, 0x0, 0xFFFFFFFFFFFFFFFF, 0x0, 0x0, 0x0, 0x0, false, true⟩,
  ⟨"HUB_ERR_IDX", .hubZero, 0x7E0020, [], false, 0x0, 0x0, 0x3FF, 0x0, 0x0, 0x0, 0x0, false, true⟩,
  ⟨"HUB_ERR_REC", .hubZero, 0x7E0040, [(8, 0x4)], false, 0x0, 0x0, 0x0, 0x0, 0x0, 0x0, 0x0, false, true⟩,
  ⟨"LTS_STAT", .hubZero, 0x7F0000, [], false, 0x88, 0x0, 0x0, 0x0, 0x0, 0x0, 0x0, false, true⟩,
  ⟨"LTS_ERR", .hubZero, 0x7F0004, [], false, 0x0, 0x0, 0x0, 0x0, 0xF, 0x0, 0x0, false, true⟩,
  ⟨"LTS_ERR_SECT", .hubZero, 0x7F0008, [], false, 0x0, 0x0, 0x0, 0x0, 0x0, 0x0, 0x0, false, true⟩,
  ⟨"CAL_SEC", .hubZero, 0x7F1000, [], true, 0x0, 0x0, 0xFFFFFFFFFFFFFFFF, 0x0, 0x0, 0x0, 0x0, false, true⟩,
  ⟨"CAL_FRAC", .hubZero, 0x7F1008, [], false, 0x0, 0x0, 0xFFFFFFFF, 0x0, 0x0, 0x0, 0x0, false, true⟩,
  ⟨"CAL_CTL", .hubZero, 0x7F100C, [], false, 0x0, 0x0, 0x0, 0x0, 0x0, 0x1, 0x0, false, true⟩,
  ⟨"CAL_STAT", .hubZero, 0x7F1010, [], false, 0x0, 0x0, 0x0, 0x0, 0x0, 0x0, 0x0, false, true⟩,
  ⟨"CFG_SIG", .hubZero, 0x701000, [(192, 0x20)], false, 0x0, 0x0, 0x0, 0x0, 0x0, 0x0, 0x0, false, true⟩,
  ⟨"CFG_COMPAT", .hubZero, 0x701004, [(192, 0x20), (4, 0x4)], false, 0x0, 0x0, 0x0, 0x0, 0x0, 0x0, 0x0, false, true⟩]

/-- Registers of the tables of R38, R625, R637. -/
def regsPort1 : List RegRow := [
  ⟨"PRT_ID", .port, 0x0, [], false, 0x210003, 0x0, 0x0, 0x0, 0x0, 0x0, 0x0, false, false⟩,
  ⟨"PRT_CAP", .port, 0x4, [], false, 0x3903F, 0x0, 0x0, 0x0, 0x0, 0x0, 0x0, false, false⟩,
  ⟨"PRT_CAP_EFF", .port, 0x8, [], false, 0x0, 0x0, 0x0, 0x0, 0x0, 0x0, 0x0, false, false⟩,
  ⟨"PRT_SITE", .port, 0xC, [], false, 0x0, 0x0, 0x0, 0x0, 0x0, 0x0, 0x0, false, false⟩,
  ⟨"PRT_SERIAL", .port, 0x10, [], true, 0x0, 0x0, 0x0, 0x0, 0x0, 0x0, 0x0, false, false⟩,
  ⟨"PRT_MSIX_TABLE", .port, 0x40000, [(256, 0x4)], false, 0x0, 0xFFFFFFFF, 0x0, 0x0, 0x0, 0x0, 0x0, false, true⟩,
  ⟨"PRT_MSIX_PBA", .port, 0x40800, [(2, 0x4)], false, 0x0, 0x0, 0x0, 0x0, 0x0, 0x0, 0x0, false, true⟩,
  ⟨"PRT_MBX_REQ", .port, 0x41000, [(256, 0x4)], false, 0x0, 0xFFFFFFFF, 0x0, 0x0, 0x0, 0x0, 0x0, false, true⟩,
  ⟨"PRT_MBX_RSP", .port, 0x41400, [(256, 0x4)], false, 0x0, 0xFFFFFFFF, 0x0, 0x0, 0x0, 0x0, 0x0, false, true⟩,
  ⟨"PRT_MBX_DB", .port, 0x41800, [], false, 0x0, 0x0, 0x0, 0x0, 0x0, 0x0, 0x1FF, false, true⟩,
  ⟨"PRT_MBX_STAT", .port, 0x41804, [], false, 0x0, 0x0, 0x0, 0x0, 0x6, 0x0, 0x0, false, true⟩,
  ⟨"PRT_MSIX_SRC", .port, 0x42000, [(64, 0x4)], false, 0x0, 0x0, 0xFF, 0x0, 0x0, 0x0, 0x0, false, true⟩,
  ⟨"PRT_PCIE_CFG", .port, 0x20000, [], false, 0x0, 0x0, 0x7FFFFF, 0x0, 0x0, 0x0, 0x0, false, true⟩,
  ⟨"PRT_PCIE_STAT", .port, 0x20004, [], false, 0x0, 0x0, 0x0, 0x0, 0x0, 0x0, 0x0, false, true⟩,
  ⟨"PRT_PCIE_ERR", .port, 0x20008, [], false, 0x0, 0x0, 0x0, 0x0, 0x7, 0x0, 0x0, false, true⟩,
  ⟨"PRT_PCIE_CNT", .port, 0x2000C, [], false, 0x0, 0x0, 0x0, 0x0, 0x0, 0x0, 0x0, false, true⟩,
  ⟨"PRT_PCIE_ERR_ADDR", .port, 0x20010, [], true, 0x0, 0x0, 0x0, 0x0, 0x0, 0x0, 0x0, false, true⟩,
  ⟨"PRT_PCIE_BAR", .port, 0x20018, [], false, 0x14, 0x0, 0x3F, 0x0, 0x0, 0x0, 0x0, false, true⟩,
  ⟨"PRT_PCIE_IB_OFF", .port, 0x20100, [(8, 0x20)], true, 0x0, 0x0, 0xFFFFFFFFFFFFFFFF, 0x0, 0x0, 0x0, 0x0, false, true⟩,
  ⟨"PRT_PCIE_IB_TGT", .port, 0x20108, [(8, 0x20)], true, 0x0, 0x0, 0xFFFFFFFFF000, 0x0, 0x0, 0x0, 0x0, false, true⟩]

/-- Registers of the tables of R637, R652, R667. -/
def regsPort2 : List RegRow := [
  ⟨"PRT_PCIE_IB_CFG", .port, 0x20110, [(8, 0x20)], false, 0x0, 0x0, 0x1FF, 0x0, 0x0, 0x0, 0x0, false, true⟩,
  ⟨"PRT_PCIE_OB_TGT", .port, 0x20200, [(8, 0x10)], true, 0x0, 0x0, 0xFFFFFFFFFFFF0000, 0x0, 0x0, 0x0, 0x0, false, true⟩,
  ⟨"PRT_PCIE_OB_CFG", .port, 0x20208, [(8, 0x10)], false, 0x0, 0x0, 0xF, 0x0, 0x0, 0x0, 0x0, false, true⟩,
  ⟨"PRT_ETH_CFG", .port, 0x80000, [(4, 0x1000)], false, 0x0, 0x0, 0xFFFF007F, 0x0, 0x0, 0x0, 0x0, false, true⟩,
  ⟨"PRT_ETH_STAT", .port, 0x80004, [(4, 0x1000)], false, 0x0, 0x0, 0x0, 0x0, 0x0, 0x0, 0x0, false, true⟩,
  ⟨"PRT_ETH_ERR", .port, 0x80008, [(4, 0x1000)], false, 0x0, 0x0, 0x0, 0x0, 0x3F, 0x0, 0x0, false, true⟩,
  ⟨"PRT_ETH_COMMIT", .port, 0x8000C, [(4, 0x1000)], false, 0x0, 0x0, 0x0, 0x0, 0x0, 0x0, 0xFFFFFFFF, false, true⟩,
  ⟨"PRT_ETH_TXST", .port, 0x80010, [(4, 0x1000)], true, 0x0, 0x0, 0x0, 0x0, 0x0, 0x0, 0x0, true, true⟩,
  ⟨"PRT_ETH_CNT", .port, 0x80018, [(4, 0x1000)], false, 0x0, 0x0, 0x0, 0x0, 0x0, 0x0, 0x0, false, true⟩,
  ⟨"PRT_ETH_GCL_CTL", .port, 0x80020, [(4, 0x1000)], false, 0x0, 0x0, 0x7F, 0x0, 0x0, 0x80000000, 0x0, false, true⟩,
  ⟨"PRT_ETH_CYCLE", .port, 0x80024, [(4, 0x1000)], false, 0x0, 0x0, 0x3FFFFFFF, 0x0, 0x0, 0x0, 0x0, false, true⟩,
  ⟨"PRT_ETH_BASE", .port, 0x80028, [(4, 0x1000)], true, 0x0, 0x0, 0xFFFFFFFFFFFFFFFF, 0x0, 0x0, 0x0, 0x0, false, true⟩,
  ⟨"PRT_ETH_STEER", .port, 0x80040, [(4, 0x1000), (16, 0x4)], false, 0x0, 0x0, 0xFFFF7FFF, 0x0, 0x0, 0x0, 0x0, false, true⟩,
  ⟨"PRT_ETH_GCL", .port, 0x80400, [(4, 0x1000), (2, 0x100), (64, 0x4)], false, 0x0, 0x0, 0xFFFFFFFF, 0x0, 0x0, 0x0, 0x0, false, true⟩,
  ⟨"PRT_INT_CTL", .port, 0xA0000, [(8, 0x1000)], false, 0x0, 0x0, 0xFF07FF, 0x0, 0x0, 0x0, 0x0, false, true⟩,
  ⟨"PRT_INT_STAT", .port, 0xA0004, [(8, 0x1000)], false, 0x0, 0x0, 0x0, 0x0, 0x0, 0x0, 0x0, false, true⟩,
  ⟨"PRT_INT_ERR", .port, 0xA0008, [(8, 0x1000)], false, 0x0, 0x0, 0x0, 0x0, 0xFF, 0x0, 0x0, false, true⟩,
  ⟨"PRT_INT_CNT", .port, 0xA000C, [(8, 0x1000)], false, 0x0, 0x0, 0x0, 0x0, 0x0, 0x0, 0x0, false, true⟩,
  ⟨"PRT_INT_VC", .port, 0xA0100, [(8, 0x1000), (16, 0x8)], true, 0x0, 0x0, 0x3FFF07FFFFFF, 0x0, 0x0, 0x0, 0x0, false, true⟩,
  ⟨"PRT_INT_VCDROP", .port, 0xA0200, [(8, 0x1000), (16, 0x4)], false, 0x0, 0x0, 0x0, 0x0, 0x0, 0x0, 0x0, false, true⟩]

/-- Registers of the tables of R622, R651, R672, R679, R686, R927. -/
def regsPort3 : List RegRow := [
  ⟨"PRT_LANE_POL", .port, 0x10000, [], false, 0x0, 0x0, 0xFFFFFFFF, 0x0, 0x0, 0x0, 0x0, false, true⟩,
  ⟨"PRT_LANE_STAT", .port, 0x10004, [], false, 0x0, 0x0, 0x0, 0x0, 0x1, 0x0, 0x0, false, true⟩,
  ⟨"PRT_FRER", .port, 0x90000, [(32, 0x4)], false, 0x0, 0x0, 0xFFFFFFFF, 0x0, 0x0, 0x0, 0x0, false, true⟩,
  ⟨"PRT_CTX_CFG", .port, 0xC0000, [(2, 0x100)], false, 0x0, 0x0, 0xFFFF, 0x0, 0x0, 0x0, 0x0, false, true⟩,
  ⟨"PRT_CTX_ERR", .port, 0xC0004, [(2, 0x100)], false, 0x0, 0x0, 0x0, 0x0, 0x3, 0x0, 0x0, false, true⟩,
  ⟨"PRT_UIO_STAT", .port, 0xE0000, [], false, 0x0, 0x0, 0x0, 0x0, 0xF, 0x0, 0x0, false, true⟩,
  ⟨"PRT_UIO_PRB", .port, 0xE0004, [], false, 0x0, 0x0, 0x0, 0x0, 0x0, 0x0, 0x0, false, true⟩,
  ⟨"PRT_TEMP", .port, 0xF0000, [(2, 0x4)], false, 0x4E2, 0x0, 0x0, 0x0, 0x0, 0x0, 0x0, false, true⟩,
  ⟨"PRT_CRC_CTL", .port, 0xD0000, [(2, 0x100)], false, 0x0, 0x3, 0x0, 0x0, 0x0, 0xC, 0x0, false, false⟩,
  ⟨"PRT_CRC_FOLD", .port, 0xD0008, [(2, 0x100)], true, 0x0, 0xFFFFFFFFFFFFFFFF, 0x0, 0x0, 0x0, 0x0, 0x0, false, false⟩,
  ⟨"PRT_CRC_RESULT", .port, 0xD0010, [(2, 0x100)], true, 0x0, 0x0, 0x0, 0x0, 0x0, 0x0, 0x0, false, false⟩,
  ⟨"PRT_CRC_COUNT", .port, 0xD0018, [(2, 0x100)], true, 0x0, 0x0, 0x0, 0x0, 0x0, 0x0, 0x0, false, false⟩]

/-- Registers of the tables of R38, R103, R172. -/
def regsLdc1 : List RegRow := [
  ⟨"LDC_ID", .ldc, 0x0, [], false, 0x210001, 0x0, 0x0, 0x0, 0x0, 0x0, 0x0, false, false⟩,
  ⟨"LDC_CAP", .ldc, 0x4, [], false, 0x1FFF, 0x0, 0x0, 0x0, 0x0, 0x0, 0x0, false, false⟩,
  ⟨"LDC_CAP_EFF", .ldc, 0x8, [], false, 0x0, 0x0, 0x0, 0x0, 0x0, 0x0, 0x0, false, false⟩,
  ⟨"LDC_SITE", .ldc, 0xC, [], false, 0x0, 0x0, 0x0, 0x0, 0x0, 0x0, 0x0, false, false⟩,
  ⟨"LDC_SERIAL", .ldc, 0x10, [], true, 0x0, 0x0, 0x0, 0x0, 0x0, 0x0, 0x0, false, false⟩,
  ⟨"LDC_CUBIT_ADDR", .ldc, 0x400, [], false, 0x0, 0x77F7F, 0x0, 0x0, 0x0, 0x0, 0x0, false, false⟩,
  ⟨"LDC_CUBIT_SNAP", .ldc, 0x404, [], false, 0x0, 0x0, 0x0, 0x0, 0x0, 0x1, 0x0, false, false⟩,
  ⟨"LDC_CUBIT_Q", .ldc, 0x408, [], false, 0x0, 0x0, 0x0, 0x0, 0x0, 0x0, 0x0, false, false⟩,
  ⟨"LDC_CUBIT_ST", .ldc, 0x40C, [], false, 0x0, 0x0, 0x0, 0x0, 0x0, 0x0, 0x0, false, false⟩,
  ⟨"LDC_CUBIT_STAT", .ldc, 0x410, [], false, 0x0, 0x0, 0x0, 0x0, 0x0, 0x0, 0x0, false, false⟩,
  ⟨"LDC_PCLK_CFG", .ldc, 0x200, [(8, 0x4)], false, 0x0, 0x0, 0x0, 0x0, 0x0, 0x0, 0x0, false, false⟩,
  ⟨"LDC_LCLK_CFG", .ldc, 0x240, [(16, 0x4)], false, 0x0, 0x1000, 0x0, 0x0, 0x0, 0x0, 0x0, false, false⟩,
  ⟨"LDC_CHAN_SEL", .ldc, 0x300, [], false, 0x0, 0x0, 0x0, 0x0, 0x0, 0x0, 0x0, false, false⟩,
  ⟨"LDC_FAB_ERR", .ldc, 0x304, [], false, 0x0, 0x0, 0x0, 0x0, 0xFF, 0x0, 0x0, false, false⟩,
  ⟨"LDC_CHAN_SLIP_CNT", .ldc, 0x308, [], false, 0x0, 0x0, 0x0, 0x0, 0x0, 0x0, 0x0, false, false⟩,
  ⟨"LDC_CONT_FRAME", .ldc, 0x310, [], false, 0x0, 0x0, 0x0, 0x0, 0x0, 0x0, 0x0, false, false⟩,
  ⟨"LDC_CONT_SEG", .ldc, 0x314, [], false, 0x0, 0x0, 0x0, 0x0, 0x0, 0x0, 0x0, false, false⟩,
  ⟨"LDC_CONT_CNT", .ldc, 0x318, [], false, 0x0, 0x0, 0x0, 0x0, 0x0, 0x0, 0x0, false, false⟩,
  ⟨"LDC_PROBE_CTL", .ldc, 0x500, [], false, 0x0, 0x7F, 0x0, 0x0, 0x0, 0x0, 0x0, false, false⟩,
  ⟨"LDC_PROBE_STAT", .ldc, 0x504, [], false, 0x0, 0x0, 0x0, 0x0, 0x0, 0x0, 0x0, false, false⟩]

/-- Registers of the tables of R172, R268, R927, R1021. -/
def regsLdc2 : List RegRow := [
  ⟨"LDC_TRACE_CTL", .ldc, 0x508, [], false, 0x0, 0x3FF0017, 0x0, 0x0, 0x0, 0x8, 0x0, false, false⟩,
  ⟨"LDC_TRACE_STAT", .ldc, 0x50C, [], false, 0x0, 0x0, 0x0, 0x0, 0x0, 0x0, 0x0, false, false⟩,
  ⟨"LDC_PROBE_SEL", .ldc, 0x600, [(64, 0x4)], false, 0x0, 0x8007FFFF, 0x0, 0x0, 0x0, 0x0, 0x0, false, false⟩,
  ⟨"LDC_TRACE_MEM", .ldc, 0x8000, [(1024, 0x8)], true, 0x0, 0x0, 0x0, 0x0, 0x0, 0x0, 0x0, false, false⟩,
  ⟨"LDC_BSH_SCRUB", .ldc, 0x700, [(4, 0x4)], false, 0x0, 0x1F, 0x0, 0x0, 0x0, 0x0, 0x0, false, false⟩,
  ⟨"LDC_BSH_ERR", .ldc, 0x710, [], false, 0x0, 0x0, 0x0, 0x0, 0x1F, 0x0, 0x0, false, false⟩,
  ⟨"LDC_BSH_CNT", .ldc, 0x720, [(4, 0x4)], false, 0x0, 0x0, 0x0, 0x0, 0x0, 0x0, 0x0, false, false⟩,
  ⟨"LDC_BSH_ERR_LOC", .ldc, 0x740, [], false, 0x0, 0x0, 0x0, 0x0, 0x0, 0x0, 0x0, false, false⟩,
  ⟨"LDC_BSH_DIAG_CTL", .ldc, 0x780, [], false, 0x0, 0x0, 0x3FFFFF, 0x0, 0x0, 0x0, 0x0, false, false⟩,
  ⟨"LDC_BSH_DIAG_DATA", .ldc, 0x784, [(3, 0x4)], false, 0x0, 0x0, 0xFFFFFFFF, 0x0, 0x0, 0x0, 0x0, false, false⟩,
  ⟨"LDC_BSH_DIAG_DATA3", .ldc, 0x790, [], false, 0x0, 0x0, 0x10FFF, 0x0, 0x0, 0x0, 0x0, false, false⟩,
  ⟨"LDC_MT_HALTMAP", .ldc, 0x7A0, [(4, 0x4)], false, 0x0, 0x0, 0x0, 0x0, 0x0, 0x0, 0x0, false, false⟩,
  ⟨"LDC_TEMP", .ldc, 0x900, [(2, 0x4)], false, 0x4E2, 0x0, 0x0, 0x0, 0x0, 0x0, 0x0, false, false⟩,
  ⟨"LDC_PWR_THR", .ldc, 0x908, [], false, 0xF, 0x0, 0xF, 0x0, 0x0, 0x0, 0x0, false, false⟩,
  ⟨"LDC_PWR", .ldc, 0x90C, [], false, 0x0, 0x0, 0x0, 0x0, 0x0, 0x0, 0x0, false, false⟩,
  ⟨"LDC_SIG_ERR", .ldc, 0xA00, [], false, 0x0, 0x0, 0x0, 0x0, 0x80000000, 0x0, 0x0, false, false⟩]

/-- Registers of the tables of R849. -/
def regsDbg1 : List RegRow := [
  ⟨"DBG_HOLD", .dbg, 0x70, [], false, 0x0, 0xF, 0x0, 0x0, 0x0, 0x0, 0x0, false, false⟩,
  ⟨"DBG_SBA_STAT", .dbg, 0x71, [], false, 0x0, 0x0, 0x0, 0x0, 0x0, 0x0, 0x0, false, false⟩,
  ⟨"DBG_LEVEL", .dbg, 0x72, [], false, 0x0, 0x0, 0x0, 0x0, 0x0, 0x0, 0x0, false, false⟩]

/-- The registers both hubs have. -/
def hubRegs : List RegRow := regsHub1 ++ regsHub2 ++ regsHub3 ++ regsHub4 ++ regsHub5

/-- The registers only hub 0 has. -/
def hubZeroRegs : List RegRow := regsHubZero1 ++ regsHubZero2 ++ regsHubZero3 ++ regsHubZero4 ++ regsHubZero5

/-- The registers of a port die. -/
def portRegs : List RegRow := regsPort1 ++ regsPort2 ++ regsPort3

/-- The registers of a logic die controller. -/
def ldcRegs : List RegRow := regsLdc1 ++ regsLdc2

/-- The custom registers of a debug module. -/
def dbgRegs : List RegRow := regsDbg1

end Sys2Proof.Machine
end

