-- ==== Sys2Proof/Machine/Fields.lean ====
section
/-! DEFINITION. Keys of the registers and places of their fields, one name for each register and field of the spec's
register tables (the rules RegTable.lean names). A key is `space * 2^24 + offset`: spaces 0 and 1 are the hubs, 2 to 5 the port dies,
8 to 71 the logic die controllers by physical site, 80 and 81 the debug modules. -/

namespace Sys2Proof.Machine

/-- A field of a register: the key of the 32-bit word it lies in, its lowest bit and its width. -/
structure Fld where
  key : Nat
  lo  : Nat
  w   : Nat
  deriving DecidableEq, Repr

/-- The first key of hub `h`'s CSR space. -/
def hubSpace (h : Nat) : Nat := 0x1000000 * h
/-- The first key of port die `p`'s CSR space. -/
def portSpace (p : Nat) : Nat := 0x1000000 * (2 + p)
/-- The first key of the CSR space of the LDC on site `s`. -/
def ldcSpace (s : Nat) : Nat := 0x1000000 * (8 + s)
/-- The first key of the debug module of hub `h`. -/
def dbgSpace (h : Nat) : Nat := 0x1000000 * (80 + h)

/-- R38. -/
def HUB_ID (h : Nat) : Nat := 0x0 + hubSpace h
def HUB_ID_TYPE (h : Nat) : Fld := ⟨HUB_ID h, 0, 8⟩
def HUB_ID_STEP_MIN (h : Nat) : Fld := ⟨HUB_ID h, 8, 4⟩
def HUB_ID_STEP_MAJ (h : Nat) : Fld := ⟨HUB_ID h, 12, 4⟩
def HUB_ID_IFACE_REV (h : Nat) : Fld := ⟨HUB_ID h, 16, 8⟩
/-- R38. -/
def HUB_CAP (h : Nat) : Nat := 0x4 + hubSpace h
/-- R38. -/
def HUB_CAP_EFF (h : Nat) : Nat := 0x8 + hubSpace h
/-- R38. -/
def HUB_SITE (h : Nat) : Nat := 0xC + hubSpace h
/-- R38. -/
def HUB_SERIAL (h : Nat) : Nat := 0x10 + hubSpace h
/-- R38. -/
def PRT_ID (p : Nat) : Nat := 0x0 + portSpace p
def PRT_ID_TYPE (p : Nat) : Fld := ⟨PRT_ID p, 0, 8⟩
def PRT_ID_STEP_MIN (p : Nat) : Fld := ⟨PRT_ID p, 8, 4⟩
def PRT_ID_STEP_MAJ (p : Nat) : Fld := ⟨PRT_ID p, 12, 4⟩
def PRT_ID_IFACE_REV (p : Nat) : Fld := ⟨PRT_ID p, 16, 8⟩
/-- R38. -/
def PRT_CAP (p : Nat) : Nat := 0x4 + portSpace p
/-- R38. -/
def PRT_CAP_EFF (p : Nat) : Nat := 0x8 + portSpace p
/-- R38. -/
def PRT_SITE (p : Nat) : Nat := 0xC + portSpace p
/-- R38. -/
def PRT_SERIAL (p : Nat) : Nat := 0x10 + portSpace p
/-- R38. -/
def LDC_ID (site : Nat) : Nat := 0x0 + ldcSpace site
def LDC_ID_TYPE (site : Nat) : Fld := ⟨LDC_ID site, 0, 8⟩
def LDC_ID_STEP_MIN (site : Nat) : Fld := ⟨LDC_ID site, 8, 4⟩
def LDC_ID_STEP_MAJ (site : Nat) : Fld := ⟨LDC_ID site, 12, 4⟩
def LDC_ID_IFACE_REV (site : Nat) : Fld := ⟨LDC_ID site, 16, 8⟩
/-- R38. -/
def LDC_CAP (site : Nat) : Nat := 0x4 + ldcSpace site
/-- R38. -/
def LDC_CAP_EFF (site : Nat) : Nat := 0x8 + ldcSpace site
/-- R38. -/
def LDC_SITE (site : Nat) : Nat := 0xC + ldcSpace site
/-- R38. -/
def LDC_SERIAL (site : Nat) : Nat := 0x10 + ldcSpace site
/-- R47. -/
def HUB_PKG_CAP (h : Nat) : Nat := 0x40 + hubSpace h
/-- R47. -/
def HUB_REPAIR (h i : Nat) : Nat := 0x80 + 4 * i + hubSpace h
def HUB_REPAIR_FUSED_BAD (h i : Nat) : Fld := ⟨HUB_REPAIR h i, 0, 7⟩
def HUB_REPAIR_FIELD_RET (h i : Nat) : Fld := ⟨HUB_REPAIR h i, 8, 7⟩
def HUB_REPAIR_SHIFT_POS (h i : Nat) : Fld := ⟨HUB_REPAIR h i, 16, 3⟩
def HUB_REPAIR_EXHAUSTED (h i : Nat) : Fld := ⟨HUB_REPAIR h i, 19, 1⟩
def HUB_REPAIR_VACANT_K (h i : Nat) : Fld := ⟨HUB_REPAIR h i, 20, 3⟩
def HUB_REPAIR_VACANT_MASK (h i : Nat) : Fld := ⟨HUB_REPAIR h i, 23, 6⟩
/-- R47. -/
def HUB_SITE_STAT (h i : Nat) : Nat := 0x100 + 4 * i + hubSpace h
def HUB_SITE_STAT_STATE (h i : Nat) : Fld := ⟨HUB_SITE_STAT h i, 0, 4⟩
def HUB_SITE_STAT_LD (h i : Nat) : Fld := ⟨HUB_SITE_STAT h i, 4, 6⟩
def HUB_SITE_STAT_LD_VALID (h i : Nat) : Fld := ⟨HUB_SITE_STAT h i, 10, 1⟩
def HUB_SITE_STAT_TI_FAIL (h i : Nat) : Fld := ⟨HUB_SITE_STAT h i, 11, 1⟩
def HUB_SITE_STAT_TYPE (h i : Nat) : Fld := ⟨HUB_SITE_STAT h i, 16, 8⟩
def HUB_SITE_STAT_STEPPING (h i : Nat) : Fld := ⟨HUB_SITE_STAT h i, 24, 8⟩
/-- R103. -/
def LDC_CUBIT_ADDR (site : Nat) : Nat := 0x400 + ldcSpace site
def LDC_CUBIT_ADDR_X (site : Nat) : Fld := ⟨LDC_CUBIT_ADDR site, 0, 7⟩
def LDC_CUBIT_ADDR_Y (site : Nat) : Fld := ⟨LDC_CUBIT_ADDR site, 8, 7⟩
def LDC_CUBIT_ADDR_CTX (site : Nat) : Fld := ⟨LDC_CUBIT_ADDR site, 16, 3⟩
/-- R103. -/
def LDC_CUBIT_SNAP (site : Nat) : Nat := 0x404 + ldcSpace site
def LDC_CUBIT_SNAP_REQ (site : Nat) : Fld := ⟨LDC_CUBIT_SNAP site, 0, 1⟩
def LDC_CUBIT_SNAP_DONE (site : Nat) : Fld := ⟨LDC_CUBIT_SNAP site, 1, 1⟩
def LDC_CUBIT_SNAP_STALE (site : Nat) : Fld := ⟨LDC_CUBIT_SNAP site, 2, 1⟩
/-- R103. -/
def LDC_CUBIT_Q (site : Nat) : Nat := 0x408 + ldcSpace site
def LDC_CUBIT_Q_Q (site : Nat) : Fld := ⟨LDC_CUBIT_Q site, 0, 16⟩
/-- R103. -/
def LDC_CUBIT_ST (site : Nat) : Nat := 0x40C + ldcSpace site
def LDC_CUBIT_ST_ST (site : Nat) : Fld := ⟨LDC_CUBIT_ST site, 0, 16⟩
/-- R103. -/
def LDC_CUBIT_STAT (site : Nat) : Nat := 0x410 + ldcSpace site
def LDC_CUBIT_STAT_FLAGS (site : Nat) : Fld := ⟨LDC_CUBIT_STAT site, 0, 4⟩
def LDC_CUBIT_STAT_CUR_CTX (site : Nat) : Fld := ⟨LDC_CUBIT_STAT site, 4, 3⟩
def LDC_CUBIT_STAT_MODE (site : Nat) : Fld := ⟨LDC_CUBIT_STAT site, 7, 1⟩
def LDC_CUBIT_STAT_GSR (site : Nat) : Fld := ⟨LDC_CUBIT_STAT site, 8, 1⟩
def LDC_CUBIT_STAT_CTL (site : Nat) : Fld := ⟨LDC_CUBIT_STAT site, 9, 4⟩
/-- R172. -/
def LDC_PCLK_CFG (site i : Nat) : Nat := 0x200 + 4 * i + ldcSpace site
def LDC_PCLK_CFG_MULT (site i : Nat) : Fld := ⟨LDC_PCLK_CFG site i, 0, 8⟩
def LDC_PCLK_CFG_ODIV (site i : Nat) : Fld := ⟨LDC_PCLK_CFG site i, 8, 8⟩
def LDC_PCLK_CFG_EN (site i : Nat) : Fld := ⟨LDC_PCLK_CFG site i, 16, 1⟩
def LDC_PCLK_CFG_LOCK (site i : Nat) : Fld := ⟨LDC_PCLK_CFG site i, 30, 1⟩
/-- R172. -/
def LDC_LCLK_CFG (site i : Nat) : Nat := 0x240 + 4 * i + ldcSpace site
def LDC_LCLK_CFG_PSRC (site i : Nat) : Fld := ⟨LDC_LCLK_CFG site i, 0, 3⟩
def LDC_LCLK_CFG_DIV (site i : Nat) : Fld := ⟨LDC_LCLK_CFG site i, 3, 8⟩
def LDC_LCLK_CFG_FAB (site i : Nat) : Fld := ⟨LDC_LCLK_CFG site i, 11, 1⟩
def LDC_LCLK_CFG_EN (site i : Nat) : Fld := ⟨LDC_LCLK_CFG site i, 12, 1⟩
/-- R172. -/
def LDC_CHAN_SEL (site : Nat) : Nat := 0x300 + ldcSpace site
def LDC_CHAN_SEL_WEST (site : Nat) : Fld := ⟨LDC_CHAN_SEL site, 0, 2⟩
def LDC_CHAN_SEL_EAST (site : Nat) : Fld := ⟨LDC_CHAN_SEL site, 2, 2⟩
def LDC_CHAN_SEL_UP (site : Nat) : Fld := ⟨LDC_CHAN_SEL site, 4, 2⟩
def LDC_CHAN_SEL_DOWN (site : Nat) : Fld := ⟨LDC_CHAN_SEL site, 6, 2⟩
def LDC_CHAN_SEL_WEST_PORT (site : Nat) : Fld := ⟨LDC_CHAN_SEL site, 8, 1⟩
/-- R172. -/
def LDC_FAB_ERR (site : Nat) : Nat := 0x304 + ldcSpace site
def LDC_FAB_ERR_CHAN_SLIP (site : Nat) : Fld := ⟨LDC_FAB_ERR site, 0, 1⟩
def LDC_FAB_ERR_CHAN_CLK_MISMATCH (site : Nat) : Fld := ⟨LDC_FAB_ERR site, 1, 1⟩
def LDC_FAB_ERR_PCLK_UNLOCK (site : Nat) : Fld := ⟨LDC_FAB_ERR site, 2, 1⟩
def LDC_FAB_ERR_CONTENTION (site : Nat) : Fld := ⟨LDC_FAB_ERR site, 3, 1⟩
def LDC_FAB_ERR_SLIP_EDGE (site : Nat) : Fld := ⟨LDC_FAB_ERR site, 4, 4⟩
/-- R172. -/
def LDC_CHAN_SLIP_CNT (site : Nat) : Nat := 0x308 + ldcSpace site
def LDC_CHAN_SLIP_CNT_CNT (site : Nat) : Fld := ⟨LDC_CHAN_SLIP_CNT site, 0, 16⟩
/-- R172. -/
def LDC_CONT_FRAME (site : Nat) : Nat := 0x310 + ldcSpace site
/-- R172. -/
def LDC_CONT_SEG (site : Nat) : Nat := 0x314 + ldcSpace site
def LDC_CONT_SEG_ORIENT (site : Nat) : Fld := ⟨LDC_CONT_SEG site, 0, 1⟩
def LDC_CONT_SEG_LINE (site : Nat) : Fld := ⟨LDC_CONT_SEG site, 1, 5⟩
def LDC_CONT_SEG_TRACK (site : Nat) : Fld := ⟨LDC_CONT_SEG site, 6, 6⟩
def LDC_CONT_SEG_SEG (site : Nat) : Fld := ⟨LDC_CONT_SEG site, 12, 2⟩
def LDC_CONT_SEG_VALID (site : Nat) : Fld := ⟨LDC_CONT_SEG site, 14, 1⟩
/-- R172. -/
def LDC_CONT_CNT (site : Nat) : Nat := 0x318 + ldcSpace site
def LDC_CONT_CNT_CNT (site : Nat) : Fld := ⟨LDC_CONT_CNT site, 0, 16⟩
/-- R172. -/
def LDC_PROBE_CTL (site : Nat) : Nat := 0x500 + ldcSpace site
def LDC_PROBE_CTL_PCLK (site : Nat) : Fld := ⟨LDC_PROBE_CTL site, 0, 3⟩
def LDC_PROBE_CTL_DEST (site : Nat) : Fld := ⟨LDC_PROBE_CTL site, 3, 1⟩
def LDC_PROBE_CTL_PIN_GRP (site : Nat) : Fld := ⟨LDC_PROBE_CTL site, 4, 2⟩
def LDC_PROBE_CTL_PIN_EN (site : Nat) : Fld := ⟨LDC_PROBE_CTL site, 6, 1⟩
/-- R172. -/
def LDC_PROBE_STAT (site : Nat) : Nat := 0x504 + ldcSpace site
def LDC_PROBE_STAT_PIN_OWNER (site : Nat) : Fld := ⟨LDC_PROBE_STAT site, 0, 1⟩
def LDC_PROBE_STAT_PIN_LOST (site : Nat) : Fld := ⟨LDC_PROBE_STAT site, 1, 1⟩
def LDC_PROBE_STAT_SEL_PENDING (site : Nat) : Fld := ⟨LDC_PROBE_STAT site, 2, 1⟩
/-- R172. -/
def LDC_TRACE_CTL (site : Nat) : Nat := 0x508 + ldcSpace site
def LDC_TRACE_CTL_ARM (site : Nat) : Fld := ⟨LDC_TRACE_CTL site, 0, 1⟩
def LDC_TRACE_CTL_TEN_NET (site : Nat) : Fld := ⟨LDC_TRACE_CTL site, 1, 1⟩
def LDC_TRACE_CTL_TEN_FAB (site : Nat) : Fld := ⟨LDC_TRACE_CTL site, 2, 1⟩
def LDC_TRACE_CTL_SW_TRIG (site : Nat) : Fld := ⟨LDC_TRACE_CTL site, 3, 1⟩
def LDC_TRACE_CTL_TRIG_OUT_EN (site : Nat) : Fld := ⟨LDC_TRACE_CTL site, 4, 1⟩
def LDC_TRACE_CTL_POST (site : Nat) : Fld := ⟨LDC_TRACE_CTL site, 16, 10⟩
/-- R172. -/
def LDC_TRACE_STAT (site : Nat) : Nat := 0x50C + ldcSpace site
def LDC_TRACE_STAT_WPTR (site : Nat) : Fld := ⟨LDC_TRACE_STAT site, 0, 10⟩
def LDC_TRACE_STAT_WRAPPED (site : Nat) : Fld := ⟨LDC_TRACE_STAT site, 10, 1⟩
def LDC_TRACE_STAT_TRIGGERED (site : Nat) : Fld := ⟨LDC_TRACE_STAT site, 11, 1⟩
def LDC_TRACE_STAT_STOPPED (site : Nat) : Fld := ⟨LDC_TRACE_STAT site, 12, 1⟩
def LDC_TRACE_STAT_TRIG_PTR (site : Nat) : Fld := ⟨LDC_TRACE_STAT site, 16, 10⟩
/-- R172. -/
def LDC_PROBE_SEL (site i : Nat) : Nat := 0x600 + 4 * i + ldcSpace site
def LDC_PROBE_SEL_WIRE (site i : Nat) : Fld := ⟨LDC_PROBE_SEL site i, 0, 5⟩
def LDC_PROBE_SEL_CUBIT (site i : Nat) : Fld := ⟨LDC_PROBE_SEL site i, 5, 4⟩
def LDC_PROBE_SEL_PX (site i : Nat) : Fld := ⟨LDC_PROBE_SEL site i, 9, 5⟩
def LDC_PROBE_SEL_PY (site i : Nat) : Fld := ⟨LDC_PROBE_SEL site i, 14, 5⟩
def LDC_PROBE_SEL_EN (site i : Nat) : Fld := ⟨LDC_PROBE_SEL site i, 31, 1⟩
/-- R172. -/
def LDC_TRACE_MEM (site i : Nat) : Nat := 0x8000 + 8 * i + ldcSpace site
/-- R268. -/
def LDC_BSH_SCRUB (site i : Nat) : Nat := 0x700 + 4 * i + ldcSpace site
def LDC_BSH_SCRUB_EN (site i : Nat) : Fld := ⟨LDC_BSH_SCRUB site i, 0, 1⟩
def LDC_BSH_SCRUB_INTERVAL (site i : Nat) : Fld := ⟨LDC_BSH_SCRUB site i, 1, 4⟩
def LDC_BSH_SCRUB_PASSES (site i : Nat) : Fld := ⟨LDC_BSH_SCRUB site i, 16, 16⟩
/-- R268. -/
def LDC_BSH_ERR (site : Nat) : Nat := 0x710 + ldcSpace site
def LDC_BSH_ERR_CE (site : Nat) : Fld := ⟨LDC_BSH_ERR site, 0, 1⟩
def LDC_BSH_ERR_UE (site : Nat) : Fld := ⟨LDC_BSH_ERR site, 1, 1⟩
def LDC_BSH_ERR_COLLIDE (site : Nat) : Fld := ⟨LDC_BSH_ERR site, 2, 1⟩
def LDC_BSH_ERR_DIAG_TIMEOUT (site : Nat) : Fld := ⟨LDC_BSH_ERR site, 3, 1⟩
def LDC_BSH_ERR_DIAG_BAD (site : Nat) : Fld := ⟨LDC_BSH_ERR site, 4, 1⟩
/-- R268. -/
def LDC_BSH_CNT (site i : Nat) : Nat := 0x720 + 4 * i + ldcSpace site
def LDC_BSH_CNT_CE_CNT (site i : Nat) : Fld := ⟨LDC_BSH_CNT site i, 0, 16⟩
def LDC_BSH_CNT_UE_CNT (site i : Nat) : Fld := ⟨LDC_BSH_CNT site i, 16, 16⟩
/-- R268. -/
def LDC_BSH_ERR_LOC (site : Nat) : Nat := 0x740 + ldcSpace site
def LDC_BSH_ERR_LOC_BUSHEL (site : Nat) : Fld := ⟨LDC_BSH_ERR_LOC site, 0, 10⟩
def LDC_BSH_ERR_LOC_ROW (site : Nat) : Fld := ⟨LDC_BSH_ERR_LOC site, 10, 10⟩
def LDC_BSH_ERR_LOC_SRC (site : Nat) : Fld := ⟨LDC_BSH_ERR_LOC site, 20, 2⟩
def LDC_BSH_ERR_LOC_VALID (site : Nat) : Fld := ⟨LDC_BSH_ERR_LOC site, 22, 1⟩
/-- R268. -/
def LDC_BSH_DIAG_CTL (site : Nat) : Nat := 0x780 + ldcSpace site
def LDC_BSH_DIAG_CTL_BUSHEL (site : Nat) : Fld := ⟨LDC_BSH_DIAG_CTL site, 0, 10⟩
def LDC_BSH_DIAG_CTL_ROW (site : Nat) : Fld := ⟨LDC_BSH_DIAG_CTL site, 10, 10⟩
def LDC_BSH_DIAG_CTL_WRITE (site : Nat) : Fld := ⟨LDC_BSH_DIAG_CTL site, 20, 1⟩
def LDC_BSH_DIAG_CTL_GO (site : Nat) : Fld := ⟨LDC_BSH_DIAG_CTL site, 21, 1⟩
def LDC_BSH_DIAG_CTL_BUSY (site : Nat) : Fld := ⟨LDC_BSH_DIAG_CTL site, 22, 1⟩
/-- R268. -/
def LDC_BSH_DIAG_DATA (site i : Nat) : Nat := 0x784 + 4 * i + ldcSpace site
/-- R268. -/
def LDC_BSH_DIAG_DATA3 (site : Nat) : Nat := 0x790 + ldcSpace site
def LDC_BSH_DIAG_DATA3_ROW (site : Nat) : Fld := ⟨LDC_BSH_DIAG_DATA3 site, 0, 12⟩
def LDC_BSH_DIAG_DATA3_VBIT (site : Nat) : Fld := ⟨LDC_BSH_DIAG_DATA3 site, 16, 1⟩
/-- R268. -/
def LDC_MT_HALTMAP (site i : Nat) : Nat := 0x7A0 + 4 * i + ldcSpace site
def LDC_MT_HALTMAP_BITS (site i : Nat) : Fld := ⟨LDC_MT_HALTMAP site i, 0, 32⟩
/-- R340. -/
def RNG_TIMEOUT : Nat := 0x100000
def RNG_TIMEOUT_TIMEOUT_NS : Fld := ⟨RNG_TIMEOUT, 0, 20⟩
/-- R340. -/
def RNG_STAT : Nat := 0x100004
def RNG_STAT_PLAN_BUSY : Fld := ⟨RNG_STAT, 0, 1⟩
def RNG_STAT_SLOW_ANY : Fld := ⟨RNG_STAT, 1, 1⟩
def RNG_STAT_DOWN_ANY : Fld := ⟨RNG_STAT, 2, 1⟩
def RNG_STAT_PLAN_EMPTY : Fld := ⟨RNG_STAT, 3, 1⟩
/-- R340. -/
def RNG_PLAN_ADDR : Nat := 0x100010
def RNG_PLAN_ADDR_SLOT : Fld := ⟨RNG_PLAN_ADDR, 0, 7⟩
def RNG_PLAN_ADDR_LANE : Fld := ⟨RNG_PLAN_ADDR, 8, 2⟩
def RNG_PLAN_ADDR_RING : Fld := ⟨RNG_PLAN_ADDR, 16, 6⟩
/-- R340. -/
def RNG_PLAN_ENTRY : Nat := 0x100014
def RNG_PLAN_ENTRY_GFID : Fld := ⟨RNG_PLAN_ENTRY, 0, 8⟩
def RNG_PLAN_ENTRY_DIR : Fld := ⟨RNG_PLAN_ENTRY, 8, 1⟩
def RNG_PLAN_ENTRY_VALID : Fld := ⟨RNG_PLAN_ENTRY, 9, 1⟩
/-- R340. -/
def RNG_PLAN_CMD : Nat := 0x100018
def RNG_PLAN_CMD_COMMIT : Fld := ⟨RNG_PLAN_CMD, 0, 1⟩
def RNG_PLAN_CMD_COPY : Fld := ⟨RNG_PLAN_CMD, 1, 1⟩
def RNG_PLAN_CMD_RING : Fld := ⟨RNG_PLAN_CMD, 16, 6⟩
def RNG_PLAN_CMD_REFUSED : Fld := ⟨RNG_PLAN_CMD, 30, 1⟩
def RNG_PLAN_CMD_BUSY : Fld := ⟨RNG_PLAN_CMD, 31, 1⟩
/-- R340. -/
def RNG_E2E_CNT : Nat := 0x100020
def RNG_E2E_CNT_CRC_FAIL : Fld := ⟨RNG_E2E_CNT, 0, 16⟩
def RNG_E2E_CNT_SEQ_REPLAY : Fld := ⟨RNG_E2E_CNT, 16, 16⟩
/-- R340. -/
def RNG_E2E_LAST : Nat := 0x100024
def RNG_E2E_LAST_STOP : Fld := ⟨RNG_E2E_LAST, 0, 9⟩
def RNG_E2E_LAST_SRC : Fld := ⟨RNG_E2E_LAST, 9, 9⟩
def RNG_E2E_LAST_KIND : Fld := ⟨RNG_E2E_LAST, 18, 2⟩
def RNG_E2E_LAST_VALID : Fld := ⟨RNG_E2E_LAST, 20, 1⟩
/-- R340. -/
def RNG_LATE_CPL_CNT : Nat := 0x100028
def RNG_LATE_CPL_CNT_CNT : Fld := ⟨RNG_LATE_CPL_CNT, 0, 16⟩
/-- R340. -/
def RNG_RATE (i : Nat) : Nat := 0x100100 + 4 * i
def RNG_RATE_RATE (i : Nat) : Fld := ⟨RNG_RATE i, 0, 12⟩
def RNG_RATE_MIN_RATE (i : Nat) : Fld := ⟨RNG_RATE i, 12, 12⟩
def RNG_RATE_SLOW (i : Nat) : Fld := ⟨RNG_RATE i, 24, 1⟩
def RNG_RATE_RING_SLOW (i : Nat) : Fld := ⟨RNG_RATE i, 25, 1⟩
def RNG_RATE_NARROW (i : Nat) : Fld := ⟨RNG_RATE i, 26, 1⟩
def RNG_RATE_DOWN (i : Nat) : Fld := ⟨RNG_RATE i, 27, 1⟩
/-- R340. -/
def RNG_ERR (i : Nat) : Nat := 0x100200 + 4 * i
def RNG_ERR_HDR_CE (i : Nat) : Fld := ⟨RNG_ERR i, 0, 1⟩
def RNG_ERR_HDR_UE (i : Nat) : Fld := ⟨RNG_ERR i, 1, 1⟩
def RNG_ERR_PAY_CE (i : Nat) : Fld := ⟨RNG_ERR i, 2, 1⟩
def RNG_ERR_PAY_UE (i : Nat) : Fld := ⟨RNG_ERR i, 3, 1⟩
def RNG_ERR_INCOMPLETE (i : Nat) : Fld := ⟨RNG_ERR i, 4, 1⟩
/-- R340. -/
def RNG_ECNT (i : Nat) : Nat := 0x100300 + 4 * i
def RNG_ECNT_CE (i : Nat) : Fld := ⟨RNG_ECNT i, 0, 16⟩
def RNG_ECNT_UE (i : Nat) : Fld := ⟨RNG_ECNT i, 16, 16⟩
/-- R340. -/
def RNG_GFLOW (i : Nat) : Nat := 0x100800 + 4 * i
def RNG_GFLOW_SRC (i : Nat) : Fld := ⟨RNG_GFLOW i, 0, 9⟩
def RNG_GFLOW_DST (i : Nat) : Fld := ⟨RNG_GFLOW i, 9, 9⟩
def RNG_GFLOW_VALID (i : Nat) : Fld := ⟨RNG_GFLOW i, 18, 1⟩
def RNG_GFLOW_STATUS (i : Nat) : Fld := ⟨RNG_GFLOW i, 19, 2⟩
def RNG_GFLOW_BUSY (i : Nat) : Fld := ⟨RNG_GFLOW i, 21, 1⟩
/-- R401. -/
def LNK_STAT (i : Nat) : Nat := 0x110000 + 4 * i
def LNK_STAT_STATE (i : Nat) : Fld := ⟨LNK_STAT i, 0, 3⟩
def LNK_STAT_WIDTH (i : Nat) : Fld := ⟨LNK_STAT i, 3, 2⟩
def LNK_STAT_RSN (i : Nat) : Fld := ⟨LNK_STAT i, 5, 3⟩
def LNK_STAT_ATTEMPTS (i : Nat) : Fld := ⟨LNK_STAT i, 8, 2⟩
def LNK_STAT_SPARES_USED (i : Nat) : Fld := ⟨LNK_STAT i, 10, 3⟩
def LNK_STAT_RATE (i : Nat) : Fld := ⟨LNK_STAT i, 13, 2⟩
def LNK_STAT_IN_RING (i : Nat) : Fld := ⟨LNK_STAT i, 15, 1⟩
def LNK_STAT_IFACE_REV (i : Nat) : Fld := ⟨LNK_STAT i, 16, 8⟩
/-- R401. -/
def LNK_CTL (i : Nat) : Nat := 0x110400 + 4 * i
def LNK_CTL_RETRAIN (i : Nat) : Fld := ⟨LNK_CTL i, 0, 1⟩
/-- R401. -/
def LNK_ERR (i : Nat) : Nat := 0x110800 + 4 * i
def LNK_ERR_CRC_ERR (i : Nat) : Fld := ⟨LNK_ERR i, 0, 1⟩
def LNK_ERR_REPLAY (i : Nat) : Fld := ⟨LNK_ERR i, 1, 1⟩
def LNK_ERR_RETRAIN (i : Nat) : Fld := ⟨LNK_ERR i, 2, 1⟩
def LNK_ERR_LINK_DEGRADED (i : Nat) : Fld := ⟨LNK_ERR i, 3, 1⟩
def LNK_ERR_LINK_DOWN (i : Nat) : Fld := ⟨LNK_ERR i, 4, 1⟩
def LNK_ERR_PEER_RESET (i : Nat) : Fld := ⟨LNK_ERR i, 5, 1⟩
def LNK_ERR_RETRAIN_REFUSED (i : Nat) : Fld := ⟨LNK_ERR i, 6, 1⟩
/-- R401. -/
def LNK_CNT (i : Nat) : Nat := 0x110C00 + 4 * i
def LNK_CNT_LCRC (i : Nat) : Fld := ⟨LNK_CNT i, 0, 16⟩
def LNK_CNT_REPLAYS (i : Nat) : Fld := ⟨LNK_CNT i, 16, 16⟩
/-- R401. -/
def LNK_MAP (i j : Nat) : Nat := 0x111000 + 32 * i + 4 * j
/-- R405. -/
def FWL_CTL (h : Nat) : Nat := 0x120000 + hubSpace h
def FWL_CTL_OUT_EN (h : Nat) : Fld := ⟨FWL_CTL h, 0, 1⟩
def FWL_CTL_FENCE (h : Nat) : Fld := ⟨FWL_CTL h, 1, 1⟩
def FWL_CTL_AUTO_FENCE (h : Nat) : Fld := ⟨FWL_CTL h, 2, 1⟩
/-- R405. -/
def FWL_STAT (h : Nat) : Nat := 0x120004 + hubSpace h
def FWL_STAT_FENCED (h : Nat) : Fld := ⟨FWL_STAT h, 0, 1⟩
def FWL_STAT_LINK_UP (h : Nat) : Fld := ⟨FWL_STAT h, 1, 1⟩
def FWL_STAT_OUT_PEND (h : Nat) : Fld := ⟨FWL_STAT h, 2, 13⟩
def FWL_STAT_IN_PEND (h : Nat) : Fld := ⟨FWL_STAT h, 15, 13⟩
/-- R405. -/
def FWL_ERR (h : Nat) : Nat := 0x120008 + hubSpace h
def FWL_ERR_DENIED (h : Nat) : Fld := ⟨FWL_ERR h, 0, 1⟩
def FWL_ERR_RATE_HELD (h : Nat) : Fld := ⟨FWL_ERR h, 1, 1⟩
def FWL_ERR_BAD_PKT (h : Nat) : Fld := ⟨FWL_ERR h, 2, 1⟩
def FWL_ERR_FORGED_CPL (h : Nat) : Fld := ⟨FWL_ERR h, 3, 1⟩
def FWL_ERR_BAD_WINDOW (h : Nat) : Fld := ⟨FWL_ERR h, 4, 1⟩
def FWL_ERR_AUTO_FENCED (h : Nat) : Fld := ⟨FWL_ERR h, 5, 1⟩
/-- R405. -/
def FWL_ERR_ADDR (h : Nat) : Nat := 0x120010 + hubSpace h
/-- R405. -/
def FWL_ERR_INFO (h : Nat) : Nat := 0x120018 + hubSpace h
def FWL_ERR_INFO_WINDOW (h : Nat) : Fld := ⟨FWL_ERR_INFO h, 0, 6⟩
def FWL_ERR_INFO_CHECK (h : Nat) : Fld := ⟨FWL_ERR_INFO h, 6, 3⟩
def FWL_ERR_INFO_OPC (h : Nat) : Fld := ⟨FWL_ERR_INFO h, 9, 3⟩
def FWL_ERR_INFO_CLASS (h : Nat) : Fld := ⟨FWL_ERR_INFO h, 12, 2⟩
def FWL_ERR_INFO_MID_LOW (h : Nat) : Fld := ⟨FWL_ERR_INFO h, 14, 8⟩
def FWL_ERR_INFO_STOP_J (h : Nat) : Fld := ⟨FWL_ERR_INFO h, 22, 4⟩
def FWL_ERR_INFO_VALID (h : Nat) : Fld := ⟨FWL_ERR_INFO h, 26, 1⟩
/-- R405. -/
def FWL_CNT (h : Nat) : Nat := 0x12001C + hubSpace h
def FWL_CNT_DENY (h : Nat) : Fld := ⟨FWL_CNT h, 0, 16⟩
def FWL_CNT_DROP (h : Nat) : Fld := ⟨FWL_CNT h, 16, 16⟩
/-- R405. -/
def FWL_WIN_BASE (h i : Nat) : Nat := 0x120100 + 16 * i + hubSpace h
/-- R405. -/
def FWL_WIN_CFG (h i : Nat) : Nat := 0x120108 + 16 * i + hubSpace h
def FWL_WIN_CFG_SIZE_LOG2 (h i : Nat) : Fld := ⟨FWL_WIN_CFG h i, 0, 6⟩
def FWL_WIN_CFG_RIGHTS (h i : Nat) : Fld := ⟨FWL_WIN_CFG h i, 6, 2⟩
def FWL_WIN_CFG_CLASSES (h i : Nat) : Fld := ⟨FWL_WIN_CFG h i, 8, 3⟩
def FWL_WIN_CFG_EN (h i : Nat) : Fld := ⟨FWL_WIN_CFG h i, 11, 1⟩
def FWL_WIN_CFG_RATE (h i : Nat) : Fld := ⟨FWL_WIN_CFG h i, 16, 12⟩
/-- R405. -/
def FWL_WIN_USE (h i : Nat) : Nat := 0x12010C + 16 * i + hubSpace h
/-- R411. -/
def FWL_X_ID (h : Nat) : Nat := 0x130000 + hubSpace h
/-- R411. -/
def FWL_X_PKG_CAP (h : Nat) : Nat := 0x130004 + hubSpace h
/-- R411. -/
def FWL_X_LINK (h : Nat) : Nat := 0x130008 + hubSpace h
/-- R411. -/
def FWL_X_MBOX (h i : Nat) : Nat := 0x130100 + 4 * i + hubSpace h
/-- R475. -/
def DMC_GEOM (h i : Nat) : Nat := 0x200000 + 65536 * i + hubSpace h
def DMC_GEOM_DEV_WIDTH (h i : Nat) : Fld := ⟨DMC_GEOM h i, 0, 1⟩
def DMC_GEOM_DENSITY (h i : Nat) : Fld := ⟨DMC_GEOM h i, 1, 1⟩
def DMC_GEOM_ACTIVE_RANKS (h i : Nat) : Fld := ⟨DMC_GEOM h i, 2, 2⟩
def DMC_GEOM_POP_RANKS (h i : Nat) : Fld := ⟨DMC_GEOM h i, 4, 3⟩
def DMC_GEOM_ORDER (h i : Nat) : Fld := ⟨DMC_GEOM h i, 8, 2⟩
def DMC_GEOM_LOCK (h i : Nat) : Fld := ⟨DMC_GEOM h i, 31, 1⟩
/-- R475. -/
def DMC_STAT (h i : Nat) : Nat := 0x200004 + 65536 * i + hubSpace h
def DMC_STAT_STATE (h i : Nat) : Fld := ⟨DMC_STAT h i, 0, 3⟩
def DMC_STAT_RATE (h i : Nat) : Fld := ⟨DMC_STAT h i, 3, 3⟩
def DMC_STAT_REF_URGENT (h i : Nat) : Fld := ⟨DMC_STAT h i, 6, 1⟩
def DMC_STAT_MIG_ACTIVE (h i : Nat) : Fld := ⟨DMC_STAT h i, 7, 1⟩
def DMC_STAT_CAP_GIB (h i : Nat) : Fld := ⟨DMC_STAT h i, 8, 5⟩
/-- R475. -/
def DMC_POLICY (h i : Nat) : Nat := 0x200008 + 65536 * i + hubSpace h
def DMC_POLICY_RFM_EN (h i : Nat) : Fld := ⟨DMC_POLICY h i, 0, 1⟩
def DMC_POLICY_RFM_K (h i : Nat) : Fld := ⟨DMC_POLICY h i, 1, 4⟩
def DMC_POLICY_RFM_MODE (h i : Nat) : Fld := ⟨DMC_POLICY h i, 5, 1⟩
def DMC_POLICY_CE_WB (h i : Nat) : Fld := ⟨DMC_POLICY h i, 6, 1⟩
def DMC_POLICY_PRED_EN (h i : Nat) : Fld := ⟨DMC_POLICY h i, 7, 1⟩
/-- R475. -/
def DMC_ERR (h i : Nat) : Nat := 0x20000C + 65536 * i + hubSpace h
def DMC_ERR_CE (h i : Nat) : Fld := ⟨DMC_ERR h i, 0, 1⟩
def DMC_ERR_UE (h i : Nat) : Fld := ⟨DMC_ERR h i, 1, 1⟩
def DMC_ERR_POISON_RD (h i : Nat) : Fld := ⟨DMC_ERR h i, 2, 1⟩
def DMC_ERR_CA_RETRY (h i : Nat) : Fld := ⟨DMC_ERR h i, 3, 1⟩
def DMC_ERR_CA_PERSIST (h i : Nat) : Fld := ⟨DMC_ERR h i, 4, 1⟩
def DMC_ERR_MIG_START (h i : Nat) : Fld := ⟨DMC_ERR h i, 5, 1⟩
def DMC_ERR_MIG_DONE (h i : Nat) : Fld := ⟨DMC_ERR h i, 6, 1⟩
def DMC_ERR_NO_SPARE (h i : Nat) : Fld := ⟨DMC_ERR h i, 7, 1⟩
def DMC_ERR_MIG_ABORT (h i : Nat) : Fld := ⟨DMC_ERR h i, 8, 1⟩
def DMC_ERR_MAP_UNSAVED (h i : Nat) : Fld := ⟨DMC_ERR h i, 9, 1⟩
def DMC_ERR_TRAIN_FAIL (h i : Nat) : Fld := ⟨DMC_ERR h i, 10, 1⟩
/-- R475. -/
def DMC_CNT (h i : Nat) : Nat := 0x200010 + 65536 * i + hubSpace h
def DMC_CNT_CE (h i : Nat) : Fld := ⟨DMC_CNT h i, 0, 16⟩
def DMC_CNT_UE (h i : Nat) : Fld := ⟨DMC_CNT h i, 16, 16⟩
/-- R475. -/
def DMC_CA_CNT (h i : Nat) : Nat := 0x200014 + 65536 * i + hubSpace h
def DMC_CA_CNT_RETRY (h i : Nat) : Fld := ⟨DMC_CA_CNT h i, 0, 16⟩
def DMC_CA_CNT_PERSIST (h i : Nat) : Fld := ⟨DMC_CA_CNT h i, 16, 16⟩
/-- R475. -/
def DMC_ERR_LOC (h i : Nat) : Nat := 0x200018 + 65536 * i + hubSpace h
def DMC_ERR_LOC_LINE (h i : Nat) : Fld := ⟨DMC_ERR_LOC h i, 0, 28⟩
def DMC_ERR_LOC_PRANK (h i : Nat) : Fld := ⟨DMC_ERR_LOC h i, 28, 2⟩
def DMC_ERR_LOC_SC (h i : Nat) : Fld := ⟨DMC_ERR_LOC h i, 30, 1⟩
def DMC_ERR_LOC_DEVICE (h i : Nat) : Fld := ⟨DMC_ERR_LOC h i + 4, 1, 4⟩
def DMC_ERR_LOC_VALID (h i : Nat) : Fld := ⟨DMC_ERR_LOC h i + 4, 5, 1⟩
/-- R475. -/
def DMC_RANK (h i j : Nat) : Nat := 0x200020 + 65536 * i + 4 * j + hubSpace h
def DMC_RANK_STATE (h i j : Nat) : Fld := ⟨DMC_RANK h i j, 0, 3⟩
def DMC_RANK_LRANK (h i j : Nat) : Fld := ⟨DMC_RANK h i j, 3, 1⟩
def DMC_RANK_UE_CNT (h i j : Nat) : Fld := ⟨DMC_RANK h i j, 16, 8⟩
def DMC_RANK_CA_CNT (h i j : Nat) : Fld := ⟨DMC_RANK h i j, 24, 8⟩
/-- R475. -/
def DMC_MIG (h i : Nat) : Nat := 0x200030 + 65536 * i + hubSpace h
def DMC_MIG_SRC (h i : Nat) : Fld := ⟨DMC_MIG h i, 0, 2⟩
def DMC_MIG_TGT (h i : Nat) : Fld := ⟨DMC_MIG h i, 2, 2⟩
def DMC_MIG_STATE (h i : Nat) : Fld := ⟨DMC_MIG h i, 4, 3⟩
def DMC_MIG_RESTARTED (h i : Nat) : Fld := ⟨DMC_MIG h i, 7, 1⟩
def DMC_MIG_SHARE (h i : Nat) : Fld := ⟨DMC_MIG h i, 8, 3⟩
def DMC_MIG_START (h i : Nat) : Fld := ⟨DMC_MIG h i, 11, 1⟩
def DMC_MIG_START_RANK (h i : Nat) : Fld := ⟨DMC_MIG h i, 12, 2⟩
/-- R475. -/
def DMC_MIG_POS (h i : Nat) : Nat := 0x200034 + 65536 * i + hubSpace h
def DMC_MIG_POS_MIG_POS (h i : Nat) : Fld := ⟨DMC_MIG_POS h i, 0, 28⟩
/-- R475. -/
def DMC_MIG_UE (h i : Nat) : Nat := 0x200038 + 65536 * i + hubSpace h
/-- R484. -/
def CXL_STAT (h i : Nat) : Nat := 0x240000 + 65536 * i + hubSpace h
def CXL_STAT_LINK (h i : Nat) : Fld := ⟨CXL_STAT h i, 0, 2⟩
def CXL_STAT_WIDTH (h i : Nat) : Fld := ⟨CXL_STAT h i, 2, 4⟩
def CXL_STAT_SPEED (h i : Nat) : Fld := ⟨CXL_STAT h i, 6, 2⟩
def CXL_STAT_IDE (h i : Nat) : Fld := ⟨CXL_STAT h i, 8, 2⟩
def CXL_STAT_CAP_GIB (h i : Nat) : Fld := ⟨CXL_STAT h i, 16, 7⟩
def CXL_STAT_TRUNC (h i : Nat) : Fld := ⟨CXL_STAT h i, 23, 1⟩
/-- R484. -/
def CXL_CTL (h i : Nat) : Nat := 0x240004 + 65536 * i + hubSpace h
def CXL_CTL_EN (h i : Nat) : Fld := ⟨CXL_CTL h i, 0, 1⟩
def CXL_CTL_IDE_REQ (h i : Nat) : Fld := ⟨CXL_CTL h i, 1, 1⟩
def CXL_CTL_FENCE (h i : Nat) : Fld := ⟨CXL_CTL h i, 2, 1⟩
/-- R484. -/
def CXL_ERR (h i : Nat) : Nat := 0x240008 + 65536 * i + hubSpace h
def CXL_ERR_LINK_DOWN (h i : Nat) : Fld := ⟨CXL_ERR h i, 0, 1⟩
def CXL_ERR_IDE_FAIL (h i : Nat) : Fld := ⟨CXL_ERR h i, 1, 1⟩
def CXL_ERR_POISON_RX (h i : Nat) : Fld := ⟨CXL_ERR h i, 2, 1⟩
def CXL_ERR_LATE_RSP (h i : Nat) : Fld := ⟨CXL_ERR h i, 3, 1⟩
/-- R484. -/
def CXL_CNT (h i : Nat) : Nat := 0x24000C + 65536 * i + hubSpace h
def CXL_CNT_POISON (h i : Nat) : Fld := ⟨CXL_CNT h i, 0, 16⟩
def CXL_CNT_LATE (h i : Nat) : Fld := ⟨CXL_CNT h i, 16, 16⟩
/-- R560. -/
def MPE_CTL (h : Nat) : Nat := 0x300000 + hubSpace h
def MPE_CTL_WCB_HOLD (h : Nat) : Fld := ⟨MPE_CTL h, 0, 10⟩
def MPE_CTL_TSCRUB_EN (h : Nat) : Fld := ⟨MPE_CTL h, 10, 1⟩
def MPE_CTL_TSCRUB_INT (h : Nat) : Fld := ⟨MPE_CTL h, 11, 4⟩
/-- R560. -/
def MPE_STAT (h : Nat) : Nat := 0x300004 + hubSpace h
def MPE_STAT_OUTSTANDING (h : Nat) : Fld := ⟨MPE_STAT h, 0, 13⟩
def MPE_STAT_WCB_USED (h : Nat) : Fld := ⟨MPE_STAT h, 13, 7⟩
def MPE_STAT_QUIESCED (h : Nat) : Fld := ⟨MPE_STAT h, 20, 1⟩
/-- R560. -/
def MPE_ERR (h : Nat) : Nat := 0x300008 + hubSpace h
def MPE_ERR_CFG_REFUSED (h : Nat) : Fld := ⟨MPE_ERR h, 0, 1⟩
def MPE_ERR_BAD_REGION (h : Nat) : Fld := ⟨MPE_ERR h, 1, 1⟩
def MPE_ERR_BAD_META (h : Nat) : Fld := ⟨MPE_ERR h, 2, 1⟩
def MPE_ERR_KEY_BAD (h : Nat) : Fld := ⟨MPE_ERR h, 3, 1⟩
def MPE_ERR_KEY_BUSY (h : Nat) : Fld := ⟨MPE_ERR h, 4, 1⟩
def MPE_ERR_MAC_FAIL (h : Nat) : Fld := ⟨MPE_ERR h, 5, 1⟩
def MPE_ERR_NODE_REPAIR (h : Nat) : Fld := ⟨MPE_ERR h, 6, 1⟩
def MPE_ERR_NODE_REBUILT (h : Nat) : Fld := ⟨MPE_ERR h, 7, 1⟩
def MPE_ERR_INTEG_LOST (h : Nat) : Fld := ⟨MPE_ERR h, 8, 1⟩
def MPE_ERR_BITMAP_UE (h : Nat) : Fld := ⟨MPE_ERR h, 9, 1⟩
def MPE_ERR_REKEY_DUE (h : Nat) : Fld := ⟨MPE_ERR h, 10, 1⟩
def MPE_ERR_CTR_EXH (h : Nat) : Fld := ⟨MPE_ERR h, 11, 1⟩
def MPE_ERR_REKEY_DONE (h : Nat) : Fld := ⟨MPE_ERR h, 12, 1⟩
def MPE_ERR_REKEY_REFUSED (h : Nat) : Fld := ⟨MPE_ERR h, 13, 1⟩
def MPE_ERR_RESEAL_DONE (h : Nat) : Fld := ⟨MPE_ERR h, 14, 1⟩
def MPE_ERR_RESEAL_REFUSED (h : Nat) : Fld := ⟨MPE_ERR h, 15, 1⟩
def MPE_ERR_SRAM_CE (h : Nat) : Fld := ⟨MPE_ERR h, 16, 1⟩
def MPE_ERR_SRAM_UE (h : Nat) : Fld := ⟨MPE_ERR h, 17, 1⟩
/-- R560. -/
def MPE_ERR_LOC (h : Nat) : Nat := 0x300010 + hubSpace h
def MPE_ERR_LOC_REGION (h : Nat) : Fld := ⟨MPE_ERR_LOC h + 4, 10, 4⟩
def MPE_ERR_LOC_KIND (h : Nat) : Fld := ⟨MPE_ERR_LOC h + 4, 14, 4⟩
def MPE_ERR_LOC_LEVEL (h : Nat) : Fld := ⟨MPE_ERR_LOC h + 4, 18, 3⟩
def MPE_ERR_LOC_VALID (h : Nat) : Fld := ⟨MPE_ERR_LOC h + 4, 31, 1⟩
/-- R560. -/
def MPE_CNT (h : Nat) : Nat := 0x300018 + hubSpace h
def MPE_CNT_MAC_FAIL (h : Nat) : Fld := ⟨MPE_CNT h, 0, 16⟩
def MPE_CNT_NODE (h : Nat) : Fld := ⟨MPE_CNT h, 16, 16⟩
/-- R560. -/
def MPE_SRAM_CFG (h : Nat) : Nat := 0x30001C + hubSpace h
def MPE_SRAM_CFG_RSV_MIB (h : Nat) : Fld := ⟨MPE_SRAM_CFG h, 0, 7⟩
def MPE_SRAM_CFG_LOCK (h : Nat) : Fld := ⟨MPE_SRAM_CFG h, 31, 1⟩
/-- R560. -/
def MPE_KEY_CMD (h : Nat) : Nat := 0x300020 + hubSpace h
def MPE_KEY_CMD_SLOT (h : Nat) : Fld := ⟨MPE_KEY_CMD h, 0, 5⟩
def MPE_KEY_CMD_OP (h : Nat) : Fld := ⟨MPE_KEY_CMD h, 5, 2⟩
def MPE_KEY_CMD_GO (h : Nat) : Fld := ⟨MPE_KEY_CMD h, 7, 1⟩
def MPE_KEY_CMD_BUSY (h : Nat) : Fld := ⟨MPE_KEY_CMD h, 8, 1⟩
/-- R560. -/
def MPE_KEY_VALID (h : Nat) : Nat := 0x300024 + hubSpace h
/-- R560. -/
def MPE_KWRAP (h i : Nat) : Nat := 0x300040 + 4 * i + hubSpace h
/-- R560. -/
def MPE_FENCE (h : Nat) : Nat := 0x3000A0 + hubSpace h
def MPE_FENCE_GO (h : Nat) : Fld := ⟨MPE_FENCE h, 0, 1⟩
def MPE_FENCE_DONE (h : Nat) : Fld := ⟨MPE_FENCE h, 1, 1⟩
/-- R560. -/
def MPE_RKEY_CTL (h : Nat) : Nat := 0x3000C0 + hubSpace h
def MPE_RKEY_CTL_REGION (h : Nat) : Fld := ⟨MPE_RKEY_CTL h, 0, 4⟩
def MPE_RKEY_CTL_START (h : Nat) : Fld := ⟨MPE_RKEY_CTL h, 4, 1⟩
def MPE_RKEY_CTL_SHARE (h : Nat) : Fld := ⟨MPE_RKEY_CTL h, 16, 10⟩
/-- R560. -/
def MPE_RKEY_STAT (h : Nat) : Nat := 0x3000C4 + hubSpace h
def MPE_RKEY_STAT_STATE (h : Nat) : Fld := ⟨MPE_RKEY_STAT h, 0, 2⟩
def MPE_RKEY_STAT_REGION (h : Nat) : Fld := ⟨MPE_RKEY_STAT h, 2, 4⟩
def MPE_RKEY_STAT_RESUMED (h : Nat) : Fld := ⟨MPE_RKEY_STAT h, 6, 1⟩
/-- R560. -/
def MPE_RKEY_POS (h : Nat) : Nat := 0x3000C8 + hubSpace h
/-- R560. -/
def MPE_RESEAL_CTL (h : Nat) : Nat := 0x3000D0 + hubSpace h
def MPE_RESEAL_CTL_REGION (h : Nat) : Fld := ⟨MPE_RESEAL_CTL h, 0, 4⟩
def MPE_RESEAL_CTL_SIZE_LOG2 (h : Nat) : Fld := ⟨MPE_RESEAL_CTL h, 4, 6⟩
def MPE_RESEAL_CTL_GO (h : Nat) : Fld := ⟨MPE_RESEAL_CTL h, 10, 1⟩
def MPE_RESEAL_CTL_BUSY (h : Nat) : Fld := ⟨MPE_RESEAL_CTL h, 11, 1⟩
/-- R560. -/
def MPE_RESEAL_BASE (h : Nat) : Nat := 0x3000D8 + hubSpace h
/-- R560. -/
def MPE_RGN_BASE (h i : Nat) : Nat := 0x300100 + 64 * i + hubSpace h
/-- R560. -/
def MPE_RGN_CFG (h i : Nat) : Nat := 0x300108 + 64 * i + hubSpace h
def MPE_RGN_CFG_SIZE_LOG2 (h i : Nat) : Fld := ⟨MPE_RGN_CFG h i, 0, 6⟩
def MPE_RGN_CFG_MODE (h i : Nat) : Fld := ⟨MPE_RGN_CFG h i, 6, 2⟩
def MPE_RGN_CFG_CODE (h i : Nat) : Fld := ⟨MPE_RGN_CFG h i, 8, 1⟩
def MPE_RGN_CFG_EN (h i : Nat) : Fld := ⟨MPE_RGN_CFG h i, 9, 1⟩
def MPE_RGN_CFG_INIT_BUSY (h i : Nat) : Fld := ⟨MPE_RGN_CFG h i, 10, 1⟩
def MPE_RGN_CFG_DISABLING (h i : Nat) : Fld := ⟨MPE_RGN_CFG h i, 11, 1⟩
/-- R560. -/
def MPE_RGN_KEYS (h i : Nat) : Nat := 0x30010C + 64 * i + hubSpace h
def MPE_RGN_KEYS_KEY_CUR (h i : Nat) : Fld := ⟨MPE_RGN_KEYS h i, 0, 5⟩
def MPE_RGN_KEYS_KEY_NEXT (h i : Nat) : Fld := ⟨MPE_RGN_KEYS h i, 5, 5⟩
def MPE_RGN_KEYS_NEXT_VALID (h i : Nat) : Fld := ⟨MPE_RGN_KEYS h i, 10, 1⟩
def MPE_RGN_KEYS_EPOCH (h i : Nat) : Fld := ⟨MPE_RGN_KEYS h i, 11, 1⟩
/-- R560. -/
def MPE_RGN_META (h i : Nat) : Nat := 0x300110 + 64 * i + hubSpace h
def MPE_RGN_META_MIR_BIT (h i : Nat) : Fld := ⟨MPE_RGN_META h i, 0, 6⟩
/-- R560. -/
def MPE_RGN_MACB (h i : Nat) : Nat := 0x300118 + 64 * i + hubSpace h
/-- R560. -/
def MPE_RGN_SRAM (h i : Nat) : Nat := 0x300120 + 64 * i + hubSpace h
def MPE_RGN_SRAM_SRAM_OFF (h i : Nat) : Fld := ⟨MPE_RGN_SRAM h i, 12, 16⟩
/-- R560. -/
def MPE_RGN_MAJ (h i : Nat) : Nat := 0x300124 + 64 * i + hubSpace h
/-- R560. -/
def MPE_RGN_FLOOR (h i : Nat) : Nat := 0x300128 + 64 * i + hubSpace h
/-- R560. -/
def MPE_RGN_STAT (h i : Nat) : Nat := 0x30012C + 64 * i + hubSpace h
def MPE_RGN_STAT_LOST_CNT (h i : Nat) : Fld := ⟨MPE_RGN_STAT h i, 0, 16⟩
def MPE_RGN_STAT_REKEY_DUE (h i : Nat) : Fld := ⟨MPE_RGN_STAT h i, 16, 1⟩
def MPE_RGN_STAT_CTR_EXH (h i : Nat) : Fld := ⟨MPE_RGN_STAT h i, 17, 1⟩
/-- R560. -/
def MPE_RIGHTS (h i : Nat) : Nat := 0x310000 + 8 * i + hubSpace h
/-- R612. -/
def QE_STAT (h : Nat) : Nat := 0x400000 + hubSpace h
def QE_STAT_ACTIVE (h : Nat) : Fld := ⟨QE_STAT h, 0, 9⟩
def QE_STAT_OUTSTANDING (h : Nat) : Fld := ⟨QE_STAT h, 9, 11⟩
/-- R612. -/
def QE_ERR (h : Nat) : Nat := 0x400004 + hubSpace h
def QE_ERR_QE_CQ_FULL (h : Nat) : Fld := ⟨QE_ERR h, 0, 1⟩
def QE_ERR_QE_CQ_ERR (h : Nat) : Fld := ⟨QE_ERR h, 1, 1⟩
def QE_ERR_BAD_DB (h : Nat) : Fld := ⟨QE_ERR h, 2, 1⟩
def QE_ERR_DENIED_DB (h : Nat) : Fld := ⟨QE_ERR h, 3, 1⟩
def QE_ERR_BAD_CFG (h : Nat) : Fld := ⟨QE_ERR h, 4, 1⟩
def QE_ERR_CFG_REFUSED (h : Nat) : Fld := ⟨QE_ERR h, 5, 1⟩
/-- R612. -/
def QE_ERR_Q (h : Nat) : Nat := 0x400008 + hubSpace h
def QE_ERR_Q_QUEUE (h : Nat) : Fld := ⟨QE_ERR_Q h, 0, 12⟩
def QE_ERR_Q_VALID (h : Nat) : Fld := ⟨QE_ERR_Q h, 31, 1⟩
/-- R612. -/
def QE_EVT_FIFO (h : Nat) : Nat := 0x40000C + hubSpace h
def QE_EVT_FIFO_QUEUE (h : Nat) : Fld := ⟨QE_EVT_FIFO h, 0, 12⟩
def QE_EVT_FIFO_VALID (h : Nat) : Fld := ⟨QE_EVT_FIFO h, 31, 1⟩
/-- R612. -/
def QE_Q_DBASE (h i : Nat) : Nat := 0x440000 + 64 * i + hubSpace h
/-- R612. -/
def QE_Q_CBASE (h i : Nat) : Nat := 0x440008 + 64 * i + hubSpace h
/-- R612. -/
def QE_Q_CFG (h i : Nat) : Nat := 0x440010 + 64 * i + hubSpace h
def QE_Q_CFG_EN (h i : Nat) : Fld := ⟨QE_Q_CFG h i, 0, 1⟩
def QE_Q_CFG_TYPE (h i : Nat) : Fld := ⟨QE_Q_CFG h i, 1, 2⟩
def QE_Q_CFG_CLASS (h i : Nat) : Fld := ⟨QE_Q_CFG h i, 3, 2⟩
def QE_Q_CFG_SIZE_LOG2 (h i : Nat) : Fld := ⟨QE_Q_CFG h i, 5, 4⟩
def QE_Q_CFG_STOP_ON_ERR (h i : Nat) : Fld := ⟨QE_Q_CFG h i, 9, 1⟩
def QE_Q_CFG_EVT_EN (h i : Nat) : Fld := ⟨QE_Q_CFG h i, 10, 1⟩
def QE_Q_CFG_MAXACT (h i : Nat) : Fld := ⟨QE_Q_CFG h i, 11, 3⟩
def QE_Q_CFG_WEIGHT (h i : Nat) : Fld := ⟨QE_Q_CFG h i, 14, 4⟩
def QE_Q_CFG_RESUME (h i : Nat) : Fld := ⟨QE_Q_CFG h i, 18, 1⟩
def QE_Q_CFG_RETRY (h i : Nat) : Fld := ⟨QE_Q_CFG h i, 19, 1⟩
/-- R612. -/
def QE_Q_MID (h i : Nat) : Nat := 0x440014 + 64 * i + hubSpace h
def QE_Q_MID_MID (h i : Nat) : Fld := ⟨QE_Q_MID h i, 0, 12⟩
def QE_Q_MID_OWNER (h i : Nat) : Fld := ⟨QE_Q_MID h i, 16, 12⟩
/-- R612. -/
def QE_Q_PI (h i : Nat) : Nat := 0x440018 + 64 * i + hubSpace h
def QE_Q_PI_PI (h i : Nat) : Fld := ⟨QE_Q_PI h i, 0, 16⟩
/-- R612. -/
def QE_Q_CQH (h i : Nat) : Nat := 0x44001C + 64 * i + hubSpace h
def QE_Q_CQH_CH (h i : Nat) : Fld := ⟨QE_Q_CQH h i, 0, 16⟩
/-- R612. -/
def QE_Q_IDX (h i : Nat) : Nat := 0x440020 + 64 * i + hubSpace h
def QE_Q_IDX_CI (h i : Nat) : Fld := ⟨QE_Q_IDX h i, 0, 16⟩
def QE_Q_IDX_CT (h i : Nat) : Fld := ⟨QE_Q_IDX h i, 16, 16⟩
/-- R612. -/
def QE_Q_STAT (h i : Nat) : Nat := 0x440024 + 64 * i + hubSpace h
def QE_Q_STAT_STATE (h i : Nat) : Fld := ⟨QE_Q_STAT h i, 0, 3⟩
def QE_Q_STAT_CQ_FULL (h i : Nat) : Fld := ⟨QE_Q_STAT h i, 3, 1⟩
def QE_Q_STAT_ACTIVE (h i : Nat) : Fld := ⟨QE_Q_STAT h i, 4, 4⟩
def QE_Q_STAT_HELD (h i : Nat) : Fld := ⟨QE_Q_STAT h i, 8, 4⟩
/-- R612. -/
def QE_Q_HELD (h i j : Nat) : Nat := 0x440030 + 64 * i + 4 * j + hubSpace h
/-- R616. -/
def TB_NS : Nat := 0x500000
/-- R616. -/
def TB_FRAC : Nat := 0x500008
/-- R616. -/
def TB_INCR : Nat := 0x500010
/-- R616. -/
def TB_ADJ_NS : Nat := 0x500018
/-- R616. -/
def TB_ADJ_CTL : Nat := 0x500020
def TB_ADJ_CTL_GO : Fld := ⟨TB_ADJ_CTL, 0, 1⟩
def TB_ADJ_CTL_MODE : Fld := ⟨TB_ADJ_CTL, 1, 1⟩
def TB_ADJ_CTL_SLEW_RATE : Fld := ⟨TB_ADJ_CTL, 2, 2⟩
def TB_ADJ_CTL_BACK_OK : Fld := ⟨TB_ADJ_CTL, 4, 1⟩
def TB_ADJ_CTL_BUSY : Fld := ⟨TB_ADJ_CTL, 5, 1⟩
/-- R616. -/
def TB_STAT : Nat := 0x500024
def TB_STAT_VALID : Fld := ⟨TB_STAT, 0, 1⟩
def TB_STAT_HOLDOVER : Fld := ⟨TB_STAT, 1, 1⟩
def TB_STAT_SLEWING : Fld := ⟨TB_STAT, 2, 1⟩
/-- R616. -/
def TB_ERR : Nat := 0x500028
def TB_ERR_INCR_CLAMP : Fld := ⟨TB_ERR, 0, 1⟩
def TB_ERR_ADJ_REFUSED : Fld := ⟨TB_ERR, 1, 1⟩
def TB_ERR_STEP_BACK : Fld := ⟨TB_ERR, 2, 1⟩
def TB_ERR_SYNC_LOST : Fld := ⟨TB_ERR, 3, 1⟩
/-- R616. -/
def TB_ERR_STOP : Nat := 0x50002C
def TB_ERR_STOP_STOP : Fld := ⟨TB_ERR_STOP, 0, 9⟩
def TB_ERR_STOP_VALID : Fld := ⟨TB_ERR_STOP, 31, 1⟩
/-- R616. -/
def TB_PTP : Nat := 0x500030
def TB_PTP_PTP_EN : Fld := ⟨TB_PTP, 0, 1⟩
def TB_PTP_PTP_PORT : Fld := ⟨TB_PTP, 1, 2⟩
def TB_PTP_PTP_MAC : Fld := ⟨TB_PTP, 3, 2⟩
def TB_PTP_PTP_MID : Fld := ⟨TB_PTP, 16, 12⟩
/-- R625. -/
def PRT_MSIX_TABLE (p i : Nat) : Nat := 0x40000 + 4 * i + portSpace p
/-- R625. -/
def PRT_MSIX_PBA (p i : Nat) : Nat := 0x40800 + 4 * i + portSpace p
/-- R625. -/
def PRT_MBX_REQ (p i : Nat) : Nat := 0x41000 + 4 * i + portSpace p
/-- R625. -/
def PRT_MBX_RSP (p i : Nat) : Nat := 0x41400 + 4 * i + portSpace p
/-- R625. -/
def PRT_MBX_DB (p : Nat) : Nat := 0x41800 + portSpace p
def PRT_MBX_DB_LEN (p : Nat) : Fld := ⟨PRT_MBX_DB p, 0, 9⟩
/-- R625. -/
def PRT_MBX_STAT (p : Nat) : Nat := 0x41804 + portSpace p
def PRT_MBX_STAT_BUSY (p : Nat) : Fld := ⟨PRT_MBX_STAT p, 0, 1⟩
def PRT_MBX_STAT_RDY (p : Nat) : Fld := ⟨PRT_MBX_STAT p, 1, 1⟩
def PRT_MBX_STAT_OVERRUN (p : Nat) : Fld := ⟨PRT_MBX_STAT p, 2, 1⟩
def PRT_MBX_STAT_RSP_LEN (p : Nat) : Fld := ⟨PRT_MBX_STAT p, 8, 9⟩
/-- R625. -/
def PRT_MSIX_SRC (p i : Nat) : Nat := 0x42000 + 4 * i + portSpace p
/-- R637. -/
def PRT_PCIE_CFG (p : Nat) : Nat := 0x20000 + portSpace p
def PRT_PCIE_CFG_EN (p : Nat) : Fld := ⟨PRT_PCIE_CFG p, 0, 1⟩
def PRT_PCIE_CFG_ROLE (p : Nat) : Fld := ⟨PRT_PCIE_CFG p, 1, 1⟩
def PRT_PCIE_CFG_BIF (p : Nat) : Fld := ⟨PRT_PCIE_CFG p, 2, 2⟩
def PRT_PCIE_CFG_LINK_EN (p : Nat) : Fld := ⟨PRT_PCIE_CFG p, 4, 4⟩
def PRT_PCIE_CFG_WIDTH (p : Nat) : Fld := ⟨PRT_PCIE_CFG p, 8, 12⟩
def PRT_PCIE_CFG_MAX_GEN (p : Nat) : Fld := ⟨PRT_PCIE_CFG p, 20, 3⟩
/-- R637. -/
def PRT_PCIE_STAT (p : Nat) : Nat := 0x20004 + portSpace p
def PRT_PCIE_STAT_LTSSM (p : Nat) : Fld := ⟨PRT_PCIE_STAT p, 0, 6⟩
def PRT_PCIE_STAT_UP (p : Nat) : Fld := ⟨PRT_PCIE_STAT p, 8, 4⟩
def PRT_PCIE_STAT_SPEED (p : Nat) : Fld := ⟨PRT_PCIE_STAT p, 12, 12⟩
/-- R637. -/
def PRT_PCIE_ERR (p : Nat) : Nat := 0x20008 + portSpace p
def PRT_PCIE_ERR_WR_FAIL (p : Nat) : Fld := ⟨PRT_PCIE_ERR p, 0, 1⟩
def PRT_PCIE_ERR_LINK_DOWN (p : Nat) : Fld := ⟨PRT_PCIE_ERR p, 1, 1⟩
def PRT_PCIE_ERR_AER_UNCORR (p : Nat) : Fld := ⟨PRT_PCIE_ERR p, 2, 1⟩
/-- R637. -/
def PRT_PCIE_CNT (p : Nat) : Nat := 0x2000C + portSpace p
def PRT_PCIE_CNT_WR_FAIL_CNT (p : Nat) : Fld := ⟨PRT_PCIE_CNT p, 0, 16⟩
/-- R637. -/
def PRT_PCIE_ERR_ADDR (p : Nat) : Nat := 0x20010 + portSpace p
/-- R637. -/
def PRT_PCIE_BAR (p : Nat) : Nat := 0x20018 + portSpace p
def PRT_PCIE_BAR_BAR2_LOG2 (p : Nat) : Fld := ⟨PRT_PCIE_BAR p, 0, 6⟩
/-- R637. -/
def PRT_PCIE_IB_OFF (p i : Nat) : Nat := 0x20100 + 32 * i + portSpace p
/-- R637. -/
def PRT_PCIE_IB_TGT (p i : Nat) : Nat := 0x20108 + 32 * i + portSpace p
/-- R637. -/
def PRT_PCIE_IB_CFG (p i : Nat) : Nat := 0x20110 + 32 * i + portSpace p
def PRT_PCIE_IB_CFG_SIZE_LOG2 (p i : Nat) : Fld := ⟨PRT_PCIE_IB_CFG p i, 0, 6⟩
def PRT_PCIE_IB_CFG_EN (p i : Nat) : Fld := ⟨PRT_PCIE_IB_CFG p i, 6, 1⟩
def PRT_PCIE_IB_CFG_CLASS (p i : Nat) : Fld := ⟨PRT_PCIE_IB_CFG p i, 7, 1⟩
def PRT_PCIE_IB_CFG_RO (p i : Nat) : Fld := ⟨PRT_PCIE_IB_CFG p i, 8, 1⟩
/-- R637. -/
def PRT_PCIE_OB_TGT (p i : Nat) : Nat := 0x20200 + 16 * i + portSpace p
/-- R637. -/
def PRT_PCIE_OB_CFG (p i : Nat) : Nat := 0x20208 + 16 * i + portSpace p
def PRT_PCIE_OB_CFG_EN (p i : Nat) : Fld := ⟨PRT_PCIE_OB_CFG p i, 0, 1⟩
def PRT_PCIE_OB_CFG_TYPE (p i : Nat) : Fld := ⟨PRT_PCIE_OB_CFG p i, 1, 1⟩
def PRT_PCIE_OB_CFG_OB_LINK (p i : Nat) : Fld := ⟨PRT_PCIE_OB_CFG p i, 2, 2⟩
/-- R652. -/
def PRT_ETH_CFG (p i : Nat) : Nat := 0x80000 + 4096 * i + portSpace p
def PRT_ETH_CFG_EN (p i : Nat) : Fld := ⟨PRT_ETH_CFG p i, 0, 1⟩
def PRT_ETH_CFG_MODE (p i : Nat) : Fld := ⟨PRT_ETH_CFG p i, 1, 2⟩
def PRT_ETH_CFG_USX_RATE (p i : Nat) : Fld := ⟨PRT_ETH_CFG p i, 3, 2⟩
def PRT_ETH_CFG_KEEP_BAD (p i : Nat) : Fld := ⟨PRT_ETH_CFG p i, 5, 1⟩
def PRT_ETH_CFG_QBV_EN (p i : Nat) : Fld := ⟨PRT_ETH_CFG p i, 6, 1⟩
def PRT_ETH_CFG_ING_OFF (p i : Nat) : Fld := ⟨PRT_ETH_CFG p i, 16, 8⟩
def PRT_ETH_CFG_EGR_OFF (p i : Nat) : Fld := ⟨PRT_ETH_CFG p i, 24, 8⟩
/-- R652. -/
def PRT_ETH_STAT (p i : Nat) : Nat := 0x80004 + 4096 * i + portSpace p
def PRT_ETH_STAT_LINK_UP (p i : Nat) : Fld := ⟨PRT_ETH_STAT p i, 0, 1⟩
def PRT_ETH_STAT_OPER_BANK (p i : Nat) : Fld := ⟨PRT_ETH_STAT p i, 1, 1⟩
def PRT_ETH_STAT_CHANGE_PEND (p i : Nat) : Fld := ⟨PRT_ETH_STAT p i, 2, 1⟩
/-- R652. -/
def PRT_ETH_ERR (p i : Nat) : Nat := 0x80008 + 4096 * i + portSpace p
def PRT_ETH_ERR_FCS (p i : Nat) : Fld := ⟨PRT_ETH_ERR p i, 0, 1⟩
def PRT_ETH_ERR_NO_MATCH (p i : Nat) : Fld := ⟨PRT_ETH_ERR p i, 1, 1⟩
def PRT_ETH_ERR_NO_BUF (p i : Nat) : Fld := ⟨PRT_ETH_ERR p i, 2, 1⟩
def PRT_ETH_ERR_FRER_DISCARD (p i : Nat) : Fld := ⟨PRT_ETH_ERR p i, 3, 1⟩
def PRT_ETH_ERR_GCL_REFUSED (p i : Nat) : Fld := ⟨PRT_ETH_ERR p i, 4, 1⟩
def PRT_ETH_ERR_LINK_DOWN (p i : Nat) : Fld := ⟨PRT_ETH_ERR p i, 5, 1⟩
/-- R652. -/
def PRT_ETH_COMMIT (p i : Nat) : Nat := 0x8000C + 4096 * i + portSpace p
/-- R652. -/
def PRT_ETH_TXST (p i : Nat) : Nat := 0x80010 + 4096 * i + portSpace p
/-- R652. -/
def PRT_ETH_CNT (p i : Nat) : Nat := 0x80018 + 4096 * i + portSpace p
def PRT_ETH_CNT_COMMIT_REJ (p i : Nat) : Fld := ⟨PRT_ETH_CNT p i, 0, 16⟩
def PRT_ETH_CNT_DISCARD (p i : Nat) : Fld := ⟨PRT_ETH_CNT p i, 16, 16⟩
/-- R652. -/
def PRT_ETH_GCL_CTL (p i : Nat) : Nat := 0x80020 + 4096 * i + portSpace p
def PRT_ETH_GCL_CTL_LEN (p i : Nat) : Fld := ⟨PRT_ETH_GCL_CTL p i, 0, 7⟩
def PRT_ETH_GCL_CTL_CHANGE (p i : Nat) : Fld := ⟨PRT_ETH_GCL_CTL p i, 31, 1⟩
/-- R652. -/
def PRT_ETH_CYCLE (p i : Nat) : Nat := 0x80024 + 4096 * i + portSpace p
def PRT_ETH_CYCLE_CYCLE_NS (p i : Nat) : Fld := ⟨PRT_ETH_CYCLE p i, 0, 30⟩
/-- R652. -/
def PRT_ETH_BASE (p i : Nat) : Nat := 0x80028 + 4096 * i + portSpace p
/-- R652. -/
def PRT_ETH_STEER (p i j : Nat) : Nat := 0x80040 + 4096 * i + 4 * j + portSpace p
def PRT_ETH_STEER_KIND (p i j : Nat) : Fld := ⟨PRT_ETH_STEER p i j, 0, 2⟩
def PRT_ETH_STEER_HUB (p i j : Nat) : Fld := ⟨PRT_ETH_STEER p i j, 2, 1⟩
def PRT_ETH_STEER_QUEUE (p i j : Nat) : Fld := ⟨PRT_ETH_STEER p i j, 3, 12⟩
def PRT_ETH_STEER_VALUE (p i j : Nat) : Fld := ⟨PRT_ETH_STEER p i j, 16, 16⟩
/-- R652. -/
def PRT_ETH_GCL (p i j k : Nat) : Nat := 0x80400 + 4096 * i + 256 * j + 4 * k + portSpace p
/-- R667. -/
def PRT_INT_CTL (p i : Nat) : Nat := 0xA0000 + 4096 * i + portSpace p
def PRT_INT_CTL_EN (p i : Nat) : Fld := ⟨PRT_INT_CTL p i, 0, 1⟩
def PRT_INT_CTL_LANES (p i : Nat) : Fld := ⟨PRT_INT_CTL p i, 1, 2⟩
def PRT_INT_CTL_LANE_MAP (p i : Nat) : Fld := ⟨PRT_INT_CTL p i, 3, 8⟩
def PRT_INT_CTL_FRAME_TO (p i : Nat) : Fld := ⟨PRT_INT_CTL p i, 16, 8⟩
/-- R667. -/
def PRT_INT_STAT (p i : Nat) : Nat := 0xA0004 + 4096 * i + portSpace p
def PRT_INT_STAT_HS_ACTIVE (p i : Nat) : Fld := ⟨PRT_INT_STAT p i, 0, 1⟩
def PRT_INT_STAT_SKEW_DONE (p i : Nat) : Fld := ⟨PRT_INT_STAT p i, 1, 1⟩
def PRT_INT_STAT_ULPS (p i : Nat) : Fld := ⟨PRT_INT_STAT p i, 2, 1⟩
def PRT_INT_STAT_OPEN_VC (p i : Nat) : Fld := ⟨PRT_INT_STAT p i, 16, 16⟩
/-- R667. -/
def PRT_INT_ERR (p i : Nat) : Nat := 0xA0008 + 4096 * i + portSpace p
def PRT_INT_ERR_ECC_CORR (p i : Nat) : Fld := ⟨PRT_INT_ERR p i, 0, 1⟩
def PRT_INT_ERR_ECC_UNCORR (p i : Nat) : Fld := ⟨PRT_INT_ERR p i, 1, 1⟩
def PRT_INT_ERR_CRC_ERR (p i : Nat) : Fld := ⟨PRT_INT_ERR p i, 2, 1⟩
def PRT_INT_ERR_OVERFLOW (p i : Nat) : Fld := ⟨PRT_INT_ERR p i, 3, 1⟩
def PRT_INT_ERR_NO_BUF (p i : Nat) : Fld := ⟨PRT_INT_ERR p i, 4, 1⟩
def PRT_INT_ERR_FE_MISSING (p i : Nat) : Fld := ⟨PRT_INT_ERR p i, 5, 1⟩
def PRT_INT_ERR_NO_FS (p i : Nat) : Fld := ⟨PRT_INT_ERR p i, 6, 1⟩
def PRT_INT_ERR_SOT_ERR (p i : Nat) : Fld := ⟨PRT_INT_ERR p i, 7, 1⟩
/-- R667. -/
def PRT_INT_CNT (p i : Nat) : Nat := 0xA000C + 4096 * i + portSpace p
def PRT_INT_CNT_NO_FS (p i : Nat) : Fld := ⟨PRT_INT_CNT p i, 0, 16⟩
def PRT_INT_CNT_DT_FILTERED (p i : Nat) : Fld := ⟨PRT_INT_CNT p i, 16, 16⟩
/-- R667. -/
def PRT_INT_VC (p i j : Nat) : Nat := 0xA0100 + 4096 * i + 8 * j + portSpace p
def PRT_INT_VC_EN (p i j : Nat) : Fld := ⟨PRT_INT_VC p i j, 0, 1⟩
def PRT_INT_VC_HUB (p i j : Nat) : Fld := ⟨PRT_INT_VC p i j, 1, 1⟩
def PRT_INT_VC_QUEUE (p i j : Nat) : Fld := ⟨PRT_INT_VC p i j, 2, 12⟩
def PRT_INT_VC_LINE_TS_EN (p i j : Nat) : Fld := ⟨PRT_INT_VC p i j, 14, 1⟩
def PRT_INT_VC_DT_LO (p i j : Nat) : Fld := ⟨PRT_INT_VC p i j, 15, 6⟩
def PRT_INT_VC_DT_HI (p i j : Nat) : Fld := ⟨PRT_INT_VC p i j, 21, 6⟩
def PRT_INT_VC_MAX_LINES (p i j : Nat) : Fld := ⟨PRT_INT_VC p i j + 4, 0, 14⟩
/-- R667. -/
def PRT_INT_VCDROP (p i j : Nat) : Nat := 0xA0200 + 4096 * i + 4 * j + portSpace p
def PRT_INT_VCDROP_CNT (p i j : Nat) : Fld := ⟨PRT_INT_VCDROP p i j, 0, 32⟩
/-- R742. -/
def CFG_STAT : Nat := 0x700000
def CFG_STAT_CFG_MODE : Fld := ⟨CFG_STAT, 0, 3⟩
def CFG_STAT_FALLBACK : Fld := ⟨CFG_STAT, 3, 1⟩
def CFG_STAT_RUNNING : Fld := ⟨CFG_STAT, 8, 8⟩
def CFG_STAT_FAILED : Fld := ⟨CFG_STAT, 16, 8⟩
/-- R742. -/
def CFG_CMD : Nat := 0x700004
def CFG_CMD_OP : Fld := ⟨CFG_CMD, 0, 4⟩
def CFG_CMD_GO : Fld := ⟨CFG_CMD, 4, 1⟩
def CFG_CMD_BUSY : Fld := ⟨CFG_CMD, 5, 1⟩
def CFG_CMD_REFUSED : Fld := ⟨CFG_CMD, 6, 1⟩
def CFG_CMD_STATUS : Fld := ⟨CFG_CMD, 8, 4⟩
/-- R742. -/
def CFG_ARG : Nat := 0x700008
def CFG_ARG_ACRE : Fld := ⟨CFG_ARG, 0, 8⟩
def CFG_ARG_SITE : Fld := ⟨CFG_ARG, 8, 6⟩
def CFG_ARG_TACRE : Fld := ⟨CFG_ARG, 14, 2⟩
def CFG_ARG_BUSHELS : Fld := ⟨CFG_ARG, 16, 1⟩
def CFG_ARG_AUTO : Fld := ⟨CFG_ARG, 17, 1⟩
/-- R742. -/
def CFG_SRC : Nat := 0x700010
/-- R742. -/
def CFG_BUF : Nat := 0x700018
/-- R742. -/
def CFG_ERR : Nat := 0x700020
def CFG_ERR_CFG_CONTENTION : Fld := ⟨CFG_ERR, 0, 1⟩
def CFG_ERR_FRAME_CRC : Fld := ⟨CFG_ERR, 1, 1⟩
def CFG_ERR_SEG_FAIL : Fld := ⟨CFG_ERR, 2, 1⟩
def CFG_ERR_IMG_REFUSED : Fld := ⟨CFG_ERR, 3, 1⟩
def CFG_ERR_RELOC_FAIL : Fld := ⟨CFG_ERR, 4, 1⟩
def CFG_ERR_STATE_LOST : Fld := ⟨CFG_ERR, 5, 1⟩
def CFG_ERR_CFG_UPSET : Fld := ⟨CFG_ERR, 6, 1⟩
def CFG_ERR_ACRE_LOST : Fld := ⟨CFG_ERR, 7, 1⟩
def CFG_ERR_RELEASE_FAIL : Fld := ⟨CFG_ERR, 8, 1⟩
/-- R742. -/
def CFG_ERR_INFO : Nat := 0x700024
def CFG_ERR_INFO_FRAME : Fld := ⟨CFG_ERR_INFO, 0, 22⟩
def CFG_ERR_INFO_REASON : Fld := ⟨CFG_ERR_INFO, 22, 4⟩
def CFG_ERR_INFO_VALID : Fld := ⟨CFG_ERR_INFO, 26, 1⟩
/-- R742. -/
def CFG_PAUSE : Nat := 0x700028
def CFG_PAUSE_US : Fld := ⟨CFG_PAUSE, 0, 24⟩
/-- R742. -/
def CFG_IMG_ID : Nat := 0x700030
/-- R742. -/
def CFG_EPOCH : Nat := 0x700038
def CFG_EPOCH_IMG_EPOCH : Fld := ⟨CFG_EPOCH, 0, 32⟩
def CFG_EPOCH_MIN_EPOCH : Fld := ⟨CFG_EPOCH + 4, 0, 32⟩
/-- R742. -/
def CFG_CHECK : Nat := 0x700040
def CFG_CHECK_EN : Fld := ⟨CFG_CHECK, 0, 1⟩
def CFG_CHECK_INTERVAL : Fld := ⟨CFG_CHECK, 1, 4⟩
/-- R742. -/
def CFG_ACRE (i : Nat) : Nat := 0x700100 + 4 * i
def CFG_ACRE_STATE (i : Nat) : Fld := ⟨CFG_ACRE i, 0, 4⟩
def CFG_ACRE_REASON (i : Nat) : Fld := ⟨CFG_ACRE i, 4, 4⟩
def CFG_ACRE_RELOC (i : Nat) : Fld := ⟨CFG_ACRE i, 8, 1⟩
def CFG_ACRE_HOSTED (i : Nat) : Fld := ⟨CFG_ACRE i, 9, 1⟩
def CFG_ACRE_UPSET (i : Nat) : Fld := ⟨CFG_ACRE i, 10, 1⟩
/-- R742. -/
def CFG_RELOC_MAP (i : Nat) : Nat := 0x700400 + 4 * i
def CFG_RELOC_MAP_STOP (i : Nat) : Fld := ⟨CFG_RELOC_MAP i, 0, 9⟩
def CFG_RELOC_MAP_SITE (i : Nat) : Fld := ⟨CFG_RELOC_MAP i, 9, 6⟩
def CFG_RELOC_MAP_PACRE (i : Nat) : Fld := ⟨CFG_RELOC_MAP i, 15, 2⟩
def CFG_RELOC_MAP_VALID (i : Nat) : Fld := ⟨CFG_RELOC_MAP i, 31, 1⟩
/-- R793. -/
def CMD_STAT : Nat := 0x720000
def CMD_STAT_OUTSTANDING : Fld := ⟨CMD_STAT, 0, 5⟩
def CMD_STAT_AO_RESP : Fld := ⟨CMD_STAT, 5, 1⟩
def CMD_STAT_VERSIONS : Fld := ⟨CMD_STAT, 8, 8⟩
/-- R793. -/
def CMD_ERR : Nat := 0x720004
def CMD_ERR_BAD_CRC : Fld := ⟨CMD_ERR, 0, 1⟩
def CMD_ERR_BAD_LENGTH : Fld := ⟨CMD_ERR, 1, 1⟩
def CMD_ERR_OVERRUN : Fld := ⟨CMD_ERR, 2, 1⟩
def CMD_ERR_DENIED : Fld := ⟨CMD_ERR, 3, 1⟩
def CMD_ERR_DUP : Fld := ⟨CMD_ERR, 4, 1⟩
/-- R793. -/
def CMD_CNT : Nat := 0x720008
def CMD_CNT_EXECUTED : Fld := ⟨CMD_CNT, 0, 16⟩
def CMD_CNT_REJECTED : Fld := ⟨CMD_CNT, 16, 16⟩
/-- R793. -/
def CMD_FRAME_ERR : Nat := 0x72000C
def CMD_FRAME_ERR_FRAME_ERR : Fld := ⟨CMD_FRAME_ERR, 0, 16⟩
/-- R793. -/
def CMD_GRP_EN (i : Nat) : Nat := 0x720010 + 4 * i
/-- R793. -/
def CMD_SEQ (i : Nat) : Nat := 0x720040 + 4 * i
def CMD_SEQ_SEQ_EXP (i : Nat) : Fld := ⟨CMD_SEQ i, 0, 16⟩
def CMD_SEQ_TAG (i : Nat) : Fld := ⟨CMD_SEQ i, 16, 16⟩
/-- R793. -/
def CMD_AUTH (i : Nat) : Nat := 0x720060 + 4 * i
def CMD_AUTH_LEVEL (i : Nat) : Fld := ⟨CMD_AUTH i, 0, 2⟩
/-- R793. -/
def CMD_FAB_CTL : Nat := 0x720080
def CMD_FAB_CTL_EN : Fld := ⟨CMD_FAB_CTL, 0, 1⟩
def CMD_FAB_CTL_MID : Fld := ⟨CMD_FAB_CTL, 16, 12⟩
/-- R793. -/
def CMD_FAB_DB : Nat := 0x720084
def CMD_FAB_DB_LEN : Fld := ⟨CMD_FAB_DB, 0, 9⟩
/-- R793. -/
def CMD_FAB_STAT : Nat := 0x720088
def CMD_FAB_STAT_BUSY : Fld := ⟨CMD_FAB_STAT, 0, 1⟩
def CMD_FAB_STAT_RDY : Fld := ⟨CMD_FAB_STAT, 1, 1⟩
def CMD_FAB_STAT_OVERRUN : Fld := ⟨CMD_FAB_STAT, 2, 1⟩
def CMD_FAB_STAT_RSP_LEN : Fld := ⟨CMD_FAB_STAT, 8, 9⟩
/-- R793. -/
def CMD_FAB_REQ (i : Nat) : Nat := 0x721000 + 4 * i
/-- R793. -/
def CMD_FAB_RSP (i : Nat) : Nat := 0x721400 + 4 * i
/-- R845. -/
def HUB_CPU_CTL (h : Nat) : Nat := 0x780000 + hubSpace h
def HUB_CPU_CTL_RUN (h : Nat) : Fld := ⟨HUB_CPU_CTL h, 0, 4⟩
def HUB_CPU_CTL_DELEG (h : Nat) : Fld := ⟨HUB_CPU_CTL h, 8, 4⟩
/-- R845. -/
def HUB_CPU_STAT (h : Nat) : Nat := 0x780004 + hubSpace h
def HUB_CPU_STAT_HALTED (h : Nat) : Fld := ⟨HUB_CPU_STAT h, 0, 4⟩
def HUB_CPU_STAT_IN_RESET (h : Nat) : Fld := ⟨HUB_CPU_STAT h, 8, 4⟩
/-- R845. -/
def HUB_CPU_ERR (h : Nat) : Nat := 0x780008 + hubSpace h
def HUB_CPU_ERR_LOCKSTEP (h : Nat) : Fld := ⟨HUB_CPU_ERR h, 0, 1⟩
def HUB_CPU_ERR_BUSERR (h : Nat) : Fld := ⟨HUB_CPU_ERR h, 1, 1⟩
def HUB_CPU_ERR_SEM_LEASE (h : Nat) : Fld := ⟨HUB_CPU_ERR h, 2, 1⟩
def HUB_CPU_ERR_SEM_BAD_REL (h : Nat) : Fld := ⟨HUB_CPU_ERR h, 3, 1⟩
/-- R845. -/
def HUB_CPU_BERR_ADDR (h : Nat) : Nat := 0x780010 + hubSpace h
def HUB_CPU_BERR_ADDR_CORE (h : Nat) : Fld := ⟨HUB_CPU_BERR_ADDR h + 4, 16, 2⟩
/-- R845. -/
def HUB_CPU_RVEC (h i : Nat) : Nat := 0x780020 + 8 * i + hubSpace h
/-- R845. -/
def HUB_SEM_LEASE (h : Nat) : Nat := 0x780040 + hubSpace h
def HUB_SEM_LEASE_LEASE_US (h : Nat) : Fld := ⟨HUB_SEM_LEASE h, 0, 20⟩
/-- R845. -/
def HUB_SEM_LOG (h : Nat) : Nat := 0x780044 + hubSpace h
def HUB_SEM_LOG_SEM (h : Nat) : Fld := ⟨HUB_SEM_LOG h, 0, 6⟩
def HUB_SEM_LOG_LEASE (h : Nat) : Fld := ⟨HUB_SEM_LOG h, 6, 1⟩
def HUB_SEM_LOG_OWNER (h : Nat) : Fld := ⟨HUB_SEM_LOG h, 16, 12⟩
def HUB_SEM_LOG_VALID (h : Nat) : Fld := ⟨HUB_SEM_LOG h, 31, 1⟩
/-- R845. -/
def HUB_SEM (h i : Nat) : Nat := 0x780100 + 4 * i + hubSpace h
def HUB_SEM_GOT (h i : Nat) : Fld := ⟨HUB_SEM h i, 0, 1⟩
def HUB_SEM_HELD (h i : Nat) : Fld := ⟨HUB_SEM h i, 1, 1⟩
def HUB_SEM_HELD_BY_HALTED (h i : Nat) : Fld := ⟨HUB_SEM h i, 2, 1⟩
def HUB_SEM_OWNER (h i : Nat) : Fld := ⟨HUB_SEM h i, 16, 12⟩
/-- R847. -/
def WDT_CORE_CTL (h i : Nat) : Nat := 0x760000 + 16 * i + hubSpace h
def WDT_CORE_CTL_EN (h i : Nat) : Fld := ⟨WDT_CORE_CTL h i, 0, 1⟩
def WDT_CORE_CTL_TIMEOUT_US (h i : Nat) : Fld := ⟨WDT_CORE_CTL h i, 1, 24⟩
/-- R847. -/
def WDT_CORE_SVC (h i : Nat) : Nat := 0x760004 + 16 * i + hubSpace h
/-- R847. -/
def WDT_CORE_STAT (h i : Nat) : Nat := 0x760008 + 16 * i + hubSpace h
def WDT_CORE_STAT_REMAIN_US (h i : Nat) : Fld := ⟨WDT_CORE_STAT h i, 0, 24⟩
def WDT_CORE_STAT_EXPIRED (h i : Nat) : Fld := ⟨WDT_CORE_STAT h i, 24, 1⟩
def WDT_CORE_STAT_HELD (h i : Nat) : Fld := ⟨WDT_CORE_STAT h i, 25, 1⟩
/-- R847. -/
def WDT_SAFE_CTL : Nat := 0x760100
def WDT_SAFE_CTL_EN : Fld := ⟨WDT_SAFE_CTL, 0, 1⟩
def WDT_SAFE_CTL_TIMEOUT_MS : Fld := ⟨WDT_SAFE_CTL, 1, 14⟩
def WDT_SAFE_CTL_WINDOW : Fld := ⟨WDT_SAFE_CTL, 15, 2⟩
/-- R847. -/
def WDT_SAFE_SVC : Nat := 0x760104
/-- R847. -/
def WDT_SAFE_STAT : Nat := 0x760108
def WDT_SAFE_STAT_REMAIN_MS : Fld := ⟨WDT_SAFE_STAT, 0, 14⟩
def WDT_SAFE_STAT_OPEN : Fld := ⟨WDT_SAFE_STAT, 14, 1⟩
/-- R849. -/
def DBG_HOLD (h : Nat) : Nat := 0x70 + dbgSpace h
def DBG_HOLD_HOLD (h : Nat) : Fld := ⟨DBG_HOLD h, 0, 4⟩
/-- R849. -/
def DBG_SBA_STAT (h : Nat) : Nat := 0x71 + dbgSpace h
def DBG_SBA_STAT_STATUS (h : Nat) : Fld := ⟨DBG_SBA_STAT h, 0, 3⟩
def DBG_SBA_STAT_POISON_RSN (h : Nat) : Fld := ⟨DBG_SBA_STAT h, 3, 4⟩
def DBG_SBA_STAT_LATE (h : Nat) : Fld := ⟨DBG_SBA_STAT h, 7, 1⟩
def DBG_SBA_STAT_PEEK (h : Nat) : Fld := ⟨DBG_SBA_STAT h, 8, 1⟩
/-- R849. -/
def DBG_LEVEL (h : Nat) : Nat := 0x72 + dbgSpace h
def DBG_LEVEL_LEVEL (h : Nat) : Fld := ⟨DBG_LEVEL h, 0, 2⟩
/-- R881. -/
def CLK_STAT (h : Nat) : Nat := 0x740000 + hubSpace h
def CLK_STAT_REF_READY (h : Nat) : Fld := ⟨CLK_STAT h, 0, 1⟩
def CLK_STAT_IOSC_READY (h : Nat) : Fld := ⟨CLK_STAT h, 1, 1⟩
def CLK_STAT_XTAL_READY (h : Nat) : Fld := ⟨CLK_STAT h, 2, 1⟩
def CLK_STAT_RC_READY (h : Nat) : Fld := ⟨CLK_STAT h, 3, 1⟩
def CLK_STAT_HPLL_LOCK (h : Nat) : Fld := ⟨CLK_STAT h, 4, 1⟩
def CLK_STAT_CPLL_LOCK (h : Nat) : Fld := ⟨CLK_STAT h, 5, 1⟩
def CLK_STAT_AO_ON_RC (h : Nat) : Fld := ⟨CLK_STAT h, 6, 1⟩
def CLK_STAT_STARTUP_DLY (h : Nat) : Fld := ⟨CLK_STAT h, 8, 3⟩
def CLK_STAT_REF_FAULT (h : Nat) : Fld := ⟨CLK_STAT h, 11, 1⟩
/-- R881. -/
def CLK_ERR (h : Nat) : Nat := 0x740004 + hubSpace h
def CLK_ERR_REF_LOSS (h : Nat) : Fld := ⟨CLK_ERR h, 0, 1⟩
def CLK_ERR_REF_FREQ (h : Nat) : Fld := ⟨CLK_ERR h, 1, 1⟩
def CLK_ERR_IOSC_FAULT (h : Nat) : Fld := ⟨CLK_ERR h, 2, 1⟩
def CLK_ERR_XTAL_FAULT (h : Nat) : Fld := ⟨CLK_ERR h, 3, 1⟩
def CLK_ERR_SW_REFUSED (h : Nat) : Fld := ⟨CLK_ERR h, 4, 1⟩
def CLK_ERR_CFG_REFUSED (h : Nat) : Fld := ⟨CLK_ERR h, 5, 1⟩
def CLK_ERR_GATE_REFUSED (h : Nat) : Fld := ⟨CLK_ERR h, 6, 1⟩
def CLK_ERR_REFRESH_LOST (h : Nat) : Fld := ⟨CLK_ERR h, 7, 1⟩
/-- R881. -/
def CLK_CPLL (h : Nat) : Nat := 0x740008 + hubSpace h
def CLK_CPLL_CMULT (h : Nat) : Fld := ⟨CLK_CPLL h, 0, 7⟩
def CLK_CPLL_CPU_DIV (h : Nat) : Fld := ⟨CLK_CPLL h, 8, 3⟩
def CLK_CPLL_SBUS_DIV (h : Nat) : Fld := ⟨CLK_CPLL h, 11, 4⟩
def CLK_CPLL_PBUS_DIV (h : Nat) : Fld := ⟨CLK_CPLL h, 16, 2⟩
/-- R881. -/
def CLK_DOM (h : Nat) : Nat := 0x74000C + hubSpace h
def CLK_DOM_CPU_SEL (h : Nat) : Fld := ⟨CLK_DOM h, 0, 1⟩
def CLK_DOM_SBUS_SEL (h : Nat) : Fld := ⟨CLK_DOM h, 1, 1⟩
def CLK_DOM_MC_SEL (h : Nat) : Fld := ⟨CLK_DOM h, 2, 1⟩
def CLK_DOM_MPE_SEL (h : Nat) : Fld := ⟨CLK_DOM h, 3, 1⟩
def CLK_DOM_ACT (h : Nat) : Fld := ⟨CLK_DOM h, 8, 4⟩
/-- R881. -/
def CLK_MON (h : Nat) : Nat := 0x740010 + hubSpace h
def CLK_MON_LO (h : Nat) : Fld := ⟨CLK_MON h, 0, 11⟩
def CLK_MON_HI (h : Nat) : Fld := ⟨CLK_MON h, 16, 11⟩
/-- R881. -/
def CLK_PEN (h : Nat) : Nat := 0x740014 + hubSpace h
def CLK_PEN_QE (h : Nat) : Fld := ⟨CLK_PEN h, 0, 1⟩
def CLK_PEN_CRC (h : Nat) : Fld := ⟨CLK_PEN h, 1, 4⟩
def CLK_PEN_CXL (h : Nat) : Fld := ⟨CLK_PEN h, 5, 2⟩
/-- R881. -/
def CLK_PRT_PEN (i : Nat) : Nat := 0x740020 + 4 * i
def CLK_PRT_PEN_MAC (i : Nat) : Fld := ⟨CLK_PRT_PEN i, 0, 4⟩
def CLK_PRT_PEN_INT (i : Nat) : Fld := ⟨CLK_PRT_PEN i, 4, 8⟩
def CLK_PRT_PEN_CTX (i : Nat) : Fld := ⟨CLK_PRT_PEN i, 12, 2⟩
def CLK_PRT_PEN_CRC (i : Nat) : Fld := ⟨CLK_PRT_PEN i, 14, 2⟩
/-- R924. -/
def PWR_MODE : Nat := 0x7A0000
def PWR_MODE_MODE : Fld := ⟨PWR_MODE, 0, 2⟩
/-- R924. -/
def PWR_STAT : Nat := 0x7A0004
def PWR_STAT_STATE : Fld := ⟨PWR_STAT, 0, 3⟩
def PWR_STAT_THR_LEVEL : Fld := ⟨PWR_STAT, 4, 3⟩
def PWR_STAT_HOT : Fld := ⟨PWR_STAT, 7, 1⟩
def PWR_STAT_RAIL : Fld := ⟨PWR_STAT, 8, 4⟩
/-- R924. -/
def PWR_ERR : Nat := 0x7A0008
def PWR_ERR_CAP_EXCEEDED : Fld := ⟨PWR_ERR, 0, 1⟩
def PWR_ERR_THERM_HOT : Fld := ⟨PWR_ERR, 1, 1⟩
def PWR_ERR_SUPPLY_UV : Fld := ⟨PWR_ERR, 2, 1⟩
def PWR_ERR_GATE_REFUSED : Fld := ⟨PWR_ERR, 3, 1⟩
/-- R924. -/
def PWR_REFUSE_CNT : Nat := 0x7A000C
def PWR_REFUSE_CNT_REFUSED : Fld := ⟨PWR_REFUSE_CNT, 0, 16⟩
def PWR_REFUSE_CNT_ABORTED : Fld := ⟨PWR_REFUSE_CNT, 16, 16⟩
/-- R924. -/
def PWR_REFUSER : Nat := 0x7A0010
def PWR_REFUSER_BLOCK : Fld := ⟨PWR_REFUSER, 0, 8⟩
def PWR_REFUSER_UNIT : Fld := ⟨PWR_REFUSER, 8, 12⟩
def PWR_REFUSER_HUB : Fld := ⟨PWR_REFUSER, 20, 1⟩
def PWR_REFUSER_ABORT : Fld := ⟨PWR_REFUSER, 21, 1⟩
def PWR_REFUSER_VALID : Fld := ⟨PWR_REFUSER, 31, 1⟩
/-- R924. -/
def PWR_WAKE_EN : Nat := 0x7A0014
def PWR_WAKE_EN_BITS : Fld := ⟨PWR_WAKE_EN, 0, 8⟩
/-- R924. -/
def PWR_WAKE_CAUSE : Nat := 0x7A0018
def PWR_WAKE_CAUSE_BITS : Fld := ⟨PWR_WAKE_CAUSE, 0, 8⟩
def PWR_WAKE_CAUSE_AO_BOR : Fld := ⟨PWR_WAKE_CAUSE, 5, 1⟩
/-- R924. -/
def PWR_WTMR : Nat := 0x7A001C
def PWR_WTMR_MS : Fld := ⟨PWR_WTMR, 0, 24⟩
/-- R924. -/
def PWR_CAP : Nat := 0x7A0020
def PWR_CAP_CAP_W : Fld := ⟨PWR_CAP, 0, 8⟩
/-- R924. -/
def PWR_PKG : Nat := 0x7A0024
def PWR_PKG_MW : Fld := ⟨PWR_PKG, 0, 20⟩
/-- R924. -/
def PWR_THR : Nat := 0x7A0028
def PWR_THR_QE_B : Fld := ⟨PWR_THR, 0, 1⟩
def PWR_THR_CPU : Fld := ⟨PWR_THR, 1, 1⟩
def PWR_THR_QE_P : Fld := ⟨PWR_THR, 2, 1⟩
def PWR_THR_RKEY : Fld := ⟨PWR_THR, 3, 1⟩
/-- R924. -/
def PWR_TLIM : Nat := 0x7A002C
def PWR_TLIM_HOT_C : Fld := ⟨PWR_TLIM, 0, 8⟩
/-- R924. -/
def PWR_DIE_GATE : Nat := 0x7A0030
/-- R924. -/
def PWR_TEMP (h i : Nat) : Nat := 0x7A0040 + 4 * i + hubSpace h
def PWR_TEMP_TEMP (h i : Nat) : Fld := ⟨PWR_TEMP h i, 0, 16⟩
def PWR_TEMP_VALID (h i : Nat) : Fld := ⟨PWR_TEMP h i, 16, 1⟩
/-- R924. -/
def PWR_SRAM (h : Nat) : Nat := 0x7A0050 + hubSpace h
def PWR_SRAM_LEVEL (h : Nat) : Fld := ⟨PWR_SRAM h, 0, 2⟩
/-- R927. -/
def LDC_TEMP (site i : Nat) : Nat := 0x900 + 4 * i + ldcSpace site
def LDC_TEMP_TEMP (site i : Nat) : Fld := ⟨LDC_TEMP site i, 0, 16⟩
def LDC_TEMP_VALID (site i : Nat) : Fld := ⟨LDC_TEMP site i, 16, 1⟩
/-- R927. -/
def LDC_PWR_THR (site : Nat) : Nat := 0x908 + ldcSpace site
def LDC_PWR_THR_MT_OK (site : Nat) : Fld := ⟨LDC_PWR_THR site, 0, 4⟩
/-- R927. -/
def LDC_PWR (site : Nat) : Nat := 0x90C + ldcSpace site
def LDC_PWR_UNGATING (site : Nat) : Fld := ⟨LDC_PWR site, 0, 1⟩
def LDC_PWR_MT_THROTTLED (site : Nat) : Fld := ⟨LDC_PWR site, 1, 1⟩
/-- R961. -/
def RST_STAT : Nat := 0x7C0000
def RST_STAT_STATE : Fld := ⟨RST_STAT, 0, 4⟩
def RST_STAT_PHASE : Fld := ⟨RST_STAT, 4, 4⟩
def RST_STAT_REASON : Fld := ⟨RST_STAT, 8, 16⟩
/-- R961. -/
def RST_CAUSE : Nat := 0x7C0004
def RST_CAUSE_CAUSE : Fld := ⟨RST_CAUSE, 0, 4⟩
def RST_CAUSE_SAFE_EXIT : Fld := ⟨RST_CAUSE, 4, 1⟩
/-- R961. -/
def RST_LAST_SAFE : Nat := 0x7C0008
def RST_LAST_SAFE_REASON : Fld := ⟨RST_LAST_SAFE, 0, 16⟩
def RST_LAST_SAFE_PHASE : Fld := ⟨RST_LAST_SAFE, 16, 4⟩
def RST_LAST_SAFE_VALID : Fld := ⟨RST_LAST_SAFE, 31, 1⟩
/-- R961. -/
def RST_CTL : Nat := 0x7C000C
def RST_CTL_SCOPE : Fld := ⟨RST_CTL, 0, 3⟩
def RST_CTL_TARGET : Fld := ⟨RST_CTL, 4, 9⟩
def RST_CTL_GO : Fld := ⟨RST_CTL, 31, 1⟩
/-- R961. -/
def RST_ERR : Nat := 0x7C0010
def RST_ERR_BCR_FALLBACK : Fld := ⟨RST_ERR, 0, 1⟩
def RST_ERR_SP4_REPEAT : Fld := ⟨RST_ERR, 1, 1⟩
def RST_ERR_RST_REFUSED : Fld := ⟨RST_ERR, 2, 1⟩
/-- R961. -/
def RST_BIST_SITES : Nat := 0x7C0018
/-- R961. -/
def RST_PTIME (i : Nat) : Nat := 0x7C0020 + 4 * i
def RST_PTIME_US (i : Nat) : Fld := ⟨RST_PTIME i, 0, 24⟩
/-- R986. -/
def HUB_ERR_PEND : Nat := 0x7E0000
def HUB_ERR_PEND_CORR : Fld := ⟨HUB_ERR_PEND, 0, 1⟩
def HUB_ERR_PEND_DEFER : Fld := ⟨HUB_ERR_PEND, 1, 1⟩
def HUB_ERR_PEND_UNCORR : Fld := ⟨HUB_ERR_PEND, 2, 1⟩
def HUB_ERR_PEND_FATAL : Fld := ⟨HUB_ERR_PEND, 3, 1⟩
def HUB_ERR_PEND_LOST : Fld := ⟨HUB_ERR_PEND, 4, 1⟩
/-- R986. -/
def HUB_ERR_IEN : Nat := 0x7E0004
def HUB_ERR_IEN_BITS : Fld := ⟨HUB_ERR_IEN, 0, 5⟩
/-- R986. -/
def HUB_ERR_FMASK : Nat := 0x7E0008
def HUB_ERR_FMASK_BITS : Fld := ⟨HUB_ERR_FMASK, 0, 5⟩
/-- R986. -/
def HUB_ERR_STAT : Nat := 0x7E000C
def HUB_ERR_STAT_COUNT : Fld := ⟨HUB_ERR_STAT, 0, 10⟩
def HUB_ERR_STAT_LOST_CNT : Fld := ⟨HUB_ERR_STAT, 16, 16⟩
/-- R986. -/
def HUB_ERR_NEXT_SEQ : Nat := 0x7E0010
/-- R986. -/
def HUB_ERR_CMASK : Nat := 0x7E0018
/-- R986. -/
def HUB_ERR_IDX : Nat := 0x7E0020
def HUB_ERR_IDX_IDX : Fld := ⟨HUB_ERR_IDX, 0, 10⟩
/-- R986. -/
def HUB_ERR_REC (i : Nat) : Nat := 0x7E0040 + 4 * i
/-- R1019. -/
def LTS_STAT : Nat := 0x7F0000
def LTS_STAT_SPARE_H0 : Fld := ⟨LTS_STAT, 0, 4⟩
def LTS_STAT_SPARE_H1 : Fld := ⟨LTS_STAT, 4, 4⟩
def LTS_STAT_READ_ONLY : Fld := ⟨LTS_STAT, 8, 1⟩
def LTS_STAT_WAITING : Fld := ⟨LTS_STAT, 9, 1⟩
/-- R1019. -/
def LTS_ERR : Nat := 0x7F0004
def LTS_ERR_SECT_RETIRED : Fld := ⟨LTS_ERR, 0, 1⟩
def LTS_ERR_LTS_EXHAUSTED : Fld := ⟨LTS_ERR, 1, 1⟩
def LTS_ERR_COPY_REPAIR : Fld := ⟨LTS_ERR, 2, 1⟩
def LTS_ERR_SECT_LOST : Fld := ⟨LTS_ERR, 3, 1⟩
/-- R1019. -/
def LTS_ERR_SECT : Nat := 0x7F0008
def LTS_ERR_SECT_SECT : Fld := ⟨LTS_ERR_SECT, 0, 6⟩
def LTS_ERR_SECT_COPY : Fld := ⟨LTS_ERR_SECT, 6, 1⟩
def LTS_ERR_SECT_VALID : Fld := ⟨LTS_ERR_SECT, 31, 1⟩
/-- R1019. -/
def CAL_SEC : Nat := 0x7F1000
/-- R1019. -/
def CAL_FRAC : Nat := 0x7F1008
/-- R1019. -/
def CAL_CTL : Nat := 0x7F100C
def CAL_CTL_LOAD : Fld := ⟨CAL_CTL, 0, 1⟩
/-- R1019. -/
def CAL_STAT : Nat := 0x7F1010
def CAL_STAT_VALID : Fld := ⟨CAL_STAT, 0, 1⟩
def CAL_STAT_COARSE : Fld := ⟨CAL_STAT, 1, 1⟩
/-- R622. -/
def PRT_LANE_POL (p : Nat) : Nat := 0x10000 + portSpace p
def PRT_LANE_POL_TX_INV (p : Nat) : Fld := ⟨PRT_LANE_POL p, 0, 16⟩
def PRT_LANE_POL_RX_INV (p : Nat) : Fld := ⟨PRT_LANE_POL p, 16, 16⟩
/-- R622. -/
def PRT_LANE_STAT (p : Nat) : Nat := 0x10004 + portSpace p
def PRT_LANE_STAT_LANE_CONFLICT (p : Nat) : Fld := ⟨PRT_LANE_STAT p, 0, 1⟩
def PRT_LANE_STAT_CLAIM (p : Nat) : Fld := ⟨PRT_LANE_STAT p, 16, 16⟩
/-- R651. -/
def PRT_FRER (p i : Nat) : Nat := 0x90000 + 4 * i + portSpace p
def PRT_FRER_EN (p i : Nat) : Fld := ⟨PRT_FRER p i, 0, 1⟩
def PRT_FRER_STRIP (p i : Nat) : Fld := ⟨PRT_FRER p i, 1, 1⟩
def PRT_FRER_MACS (p i : Nat) : Fld := ⟨PRT_FRER p i, 2, 4⟩
def PRT_FRER_HIST (p i : Nat) : Fld := ⟨PRT_FRER p i, 6, 6⟩
def PRT_FRER_VID (p i : Nat) : Fld := ⟨PRT_FRER p i, 12, 12⟩
def PRT_FRER_RESET_MS (p i : Nat) : Fld := ⟨PRT_FRER p i, 24, 8⟩
/-- R672. -/
def PRT_CTX_CFG (p i : Nat) : Nat := 0xC0000 + 256 * i + portSpace p
def PRT_CTX_CFG_EN (p i : Nat) : Fld := ⟨PRT_CTX_CFG p i, 0, 1⟩
def PRT_CTX_CFG_LANES (p i : Nat) : Fld := ⟨PRT_CTX_CFG p i, 1, 2⟩
def PRT_CTX_CFG_CONT_CLK (p i : Nat) : Fld := ⟨PRT_CTX_CFG p i, 3, 1⟩
def PRT_CTX_CFG_RATE_MBPS (p i : Nat) : Fld := ⟨PRT_CTX_CFG p i, 4, 12⟩
/-- R672. -/
def PRT_CTX_ERR (p i : Nat) : Nat := 0xC0004 + 256 * i + portSpace p
def PRT_CTX_ERR_BAD_WC (p i : Nat) : Fld := ⟨PRT_CTX_ERR p i, 0, 1⟩
def PRT_CTX_ERR_BAD_SEQ (p i : Nat) : Fld := ⟨PRT_CTX_ERR p i, 1, 1⟩
/-- R686. -/
def PRT_UIO_STAT (p : Nat) : Nat := 0xE0000 + portSpace p
def PRT_UIO_STAT_BANK_FAULT (p : Nat) : Fld := ⟨PRT_UIO_STAT p, 0, 4⟩
/-- R686. -/
def PRT_UIO_PRB (p : Nat) : Nat := 0xE0004 + portSpace p
def PRT_UIO_PRB_OWNER_VALID (p : Nat) : Fld := ⟨PRT_UIO_PRB p, 0, 1⟩
def PRT_UIO_PRB_OWNER (p : Nat) : Fld := ⟨PRT_UIO_PRB p, 1, 6⟩
/-- R927. -/
def PRT_TEMP (p i : Nat) : Nat := 0xF0000 + 4 * i + portSpace p
def PRT_TEMP_TEMP (p i : Nat) : Fld := ⟨PRT_TEMP p i, 0, 16⟩
def PRT_TEMP_VALID (p i : Nat) : Fld := ⟨PRT_TEMP p i, 16, 1⟩
/-- R483. -/
def DMC_HUB_CFG (h : Nat) : Nat := 0x220000 + hubSpace h
def DMC_HUB_CFG_CH_INTLV (h : Nat) : Fld := ⟨DMC_HUB_CFG h, 0, 2⟩
def DMC_HUB_CFG_LOCK (h : Nat) : Fld := ⟨DMC_HUB_CFG h, 31, 1⟩
/-- R488. -/
def CXL_INTLV (h : Nat) : Nat := 0x260000 + hubSpace h
def CXL_INTLV_MODE (h : Nat) : Fld := ⟨CXL_INTLV h, 0, 2⟩
def CXL_INTLV_LOCK (h : Nat) : Fld := ⟨CXL_INTLV h, 31, 1⟩
/-- R1020. -/
def CFG_SIG (i : Nat) : Nat := 0x701000 + 32 * i
/-- R1020. -/
def CFG_COMPAT (i j : Nat) : Nat := 0x701004 + 32 * i + 4 * j
/-- R679. -/
def HUB_CRC_CTL (h i : Nat) : Nat := 0x600000 + 256 * i + hubSpace h
def HUB_CRC_CTL_POLY (h i : Nat) : Fld := ⟨HUB_CRC_CTL h i, 0, 2⟩
def HUB_CRC_CTL_START (h i : Nat) : Fld := ⟨HUB_CRC_CTL h i, 2, 1⟩
def HUB_CRC_CTL_RELEASE (h i : Nat) : Fld := ⟨HUB_CRC_CTL h i, 3, 1⟩
def HUB_CRC_CTL_BUSY (h i : Nat) : Fld := ⟨HUB_CRC_CTL h i, 4, 1⟩
def HUB_CRC_CTL_OWNED (h i : Nat) : Fld := ⟨HUB_CRC_CTL h i, 5, 1⟩
def HUB_CRC_CTL_OWNER (h i : Nat) : Fld := ⟨HUB_CRC_CTL h i, 16, 12⟩
/-- R679. -/
def HUB_CRC_FOLD (h i : Nat) : Nat := 0x600008 + 256 * i + hubSpace h
/-- R679. -/
def HUB_CRC_RESULT (h i : Nat) : Nat := 0x600010 + 256 * i + hubSpace h
/-- R679. -/
def HUB_CRC_COUNT (h i : Nat) : Nat := 0x600018 + 256 * i + hubSpace h
/-- R679. -/
def PRT_CRC_CTL (p i : Nat) : Nat := 0xD0000 + 256 * i + portSpace p
def PRT_CRC_CTL_POLY (p i : Nat) : Fld := ⟨PRT_CRC_CTL p i, 0, 2⟩
def PRT_CRC_CTL_START (p i : Nat) : Fld := ⟨PRT_CRC_CTL p i, 2, 1⟩
def PRT_CRC_CTL_RELEASE (p i : Nat) : Fld := ⟨PRT_CRC_CTL p i, 3, 1⟩
def PRT_CRC_CTL_BUSY (p i : Nat) : Fld := ⟨PRT_CRC_CTL p i, 4, 1⟩
def PRT_CRC_CTL_OWNED (p i : Nat) : Fld := ⟨PRT_CRC_CTL p i, 5, 1⟩
def PRT_CRC_CTL_OWNER (p i : Nat) : Fld := ⟨PRT_CRC_CTL p i, 16, 12⟩
/-- R679. -/
def PRT_CRC_FOLD (p i : Nat) : Nat := 0xD0008 + 256 * i + portSpace p
/-- R679. -/
def PRT_CRC_RESULT (p i : Nat) : Nat := 0xD0010 + 256 * i + portSpace p
/-- R679. -/
def PRT_CRC_COUNT (p i : Nat) : Nat := 0xD0018 + 256 * i + portSpace p
/-- R1021. -/
def LDC_SIG_ERR (site : Nat) : Nat := 0xA00 + ldcSpace site
def LDC_SIG_ERR_CNT (site : Nat) : Fld := ⟨LDC_SIG_ERR site, 0, 16⟩
def LDC_SIG_ERR_PEER (site : Nat) : Fld := ⟨LDC_SIG_ERR site, 16, 8⟩
def LDC_SIG_ERR_GATE (site : Nat) : Fld := ⟨LDC_SIG_ERR site, 24, 4⟩
def LDC_SIG_ERR_VALID (site : Nat) : Fld := ⟨LDC_SIG_ERR site, 31, 1⟩

end Sys2Proof.Machine
end

