-- ==== Sys2Proof/Machine/Store.lean ====
section
/-! DEFINITION. Sparse stores: a list of (key, value) pairs in one canonical form. Keys rise strictly and no entry equals what
an unlisted key reads as, so equal stores are equal lists. Every sparse piece of the device (registers, memory lines,
fabric bits, tables) is one of these. -/

namespace Sys2Proof.Machine

/-- A sparse store from keys to values. -/
abbrev Map (α : Type) := List (Nat × α)

/-- The entry listed at `k`, if any. -/
def mapFind {α : Type} : Map α → Nat → Option α
  | [], _ => none
  | (k', v) :: m, k => if k' = k then some v else mapFind m k

/-- What the store holds at `k`, where unlisted keys read as `d`. -/
def mapGet {α : Type} (m : Map α) (d : α) (k : Nat) : α := (mapFind m k).getD d

/-- Remove what is listed at `k`. -/
def mapDel {α : Type} : Map α → Nat → Map α
  | [], _ => []
  | (k', v) :: m, k => if k' = k then mapDel m k else (k', v) :: mapDel m k

/-- List `v` at `k`, in key order. -/
def mapPut {α : Type} : Map α → Nat → α → Map α
  | [], k, v => [(k, v)]
  | (k', v') :: m, k, v =>
    if k' = k then (k, v) :: m else if k < k' then (k, v) :: (k', v') :: m else (k', v') :: mapPut m k v

/-- Write `v` at `k`: writing what an unlisted key reads as removes the entry. -/
def mapSet {α : Type} [DecidableEq α] (m : Map α) (d : α) (k : Nat) (v : α) : Map α :=
  if v = d then mapDel m k else mapPut m k v

/-- Every key of the store is above `b`, keys rise strictly, and no entry equals its default. -/
def mapWfFrom {α : Type} [DecidableEq α] (d : Nat → α) : Option Nat → Map α → Bool
  | _, [] => true
  | b, (k, v) :: m =>
    (match b with
      | none => true
      | some b => decide (b < k)) && decide (v ≠ d k) && mapWfFrom d (some k) m

/-- The canonical form: keys rise strictly and no entry equals what its key reads as unlisted. -/
def mapWf {α : Type} [DecidableEq α] (d : Nat → α) (m : Map α) : Bool := mapWfFrom d none m

/-- Forget every entry whose key `p` names: those keys read as unlisted again. -/
def mapDrop {α : Type} (p : Nat → Bool) (m : Map α) : Map α := m.filter (fun kv => !p kv.1)

/-- Apply `f` to every listed entry whose key `p` names, removing entries that come to equal the default. -/
def mapAdjust {α : Type} [DecidableEq α] (d : α) (p : Nat → Bool) (f : α → α) : Map α → Map α
  | [] => []
  | (k, v) :: m =>
    if p k then (if f v = d then mapDel (mapAdjust d p f m) k else (k, f v) :: mapAdjust d p f m) else (k, v) :: mapAdjust d p f m

/-- Change every listed entry by its key, removing entries that come to equal the default. -/
def mapWith {α : Type} [DecidableEq α] (d : α) (f : Nat → α → α) : Map α → Map α
  | [] => []
  | (k, v) :: m => if f k v = d then mapDel (mapWith d f m) k else (k, f k v) :: mapWith d f m

/-- Copy the entries of keys `[src, src + n)` to `[dst, dst + n)`, each key moved by the same distance, in place of what stood
there. -/
def mapMove {α : Type} (m : Map α) (src dst n : Nat) : Map α :=
  ((m.filter (fun kv => decide (src ≤ kv.1 ∧ kv.1 < src + n))).foldl (fun acc kv => mapPut acc (kv.1 - src + dst) kv.2)
    (mapDrop (fun k => decide (dst ≤ k ∧ k < dst + n)) m))

end Sys2Proof.Machine
end

