-- ==== Sys2Proof/Machine/StateBase.lean ====
section
/-! DEFINITION. The parts of the state that several blocks share: register latches, the error log, device time and the ring
network. -/

namespace Sys2Proof.Machine

open Sys2Proof

/-- A latched word of a register, held for one master until its next read of the word that shows it (R12). -/
structure Latch where
  mid   : Nat
  key   : Nat
  value : Word
  deriving DecidableEq, Repr

/-- An error record (R966). -/
structure ErrRec where
  time    : DWord
  seq     : Nat
  block   : Nat
  unit    : Nat
  code    : Nat
  sev     : Nat
  tsValid : Bool
  inj     : Bool
  repeats : Nat
  phase   : Nat
  addr    : DWord
  info    : Word
  deriving DecidableEq, Repr

/-- A report a block keeps until it is delivered (R967, R968). -/
structure Report where
  entry    : ErrRec
  inFlight : Bool
  deriving DecidableEq, Repr

/-- What INJECT planted and tracks until it is detected or overwritten (R985). `key` names the location. -/
structure Injected where
  target : Nat
  kind   : Nat
  key    : Nat
  deriving DecidableEq, Repr

/-- The error collector and the reports on their way to it (R966-R976), and the injections tracked (R983-R985). -/
structure ErrState where
  /-- records held, oldest first -/
  log      : List ErrRec
  /-- device time in ns of the latest append, for the 1 ms of R969; none before the first one since device time began -/
  lastAppend : Option Nat
  /-- reports not yet delivered -/
  reports  : List Report
  /-- FATAL records held in the AO domain (R972) -/
  fatals   : List ErrRec
  injected : List Injected
  /-- flit and group errors still to apply: ring or link number, kind and count (R984) -/
  wire     : List (Nat × Nat × Nat)
  deriving DecidableEq, Repr

/-- A time follower (R606, R608): its 96-bit time, VALID, and the sync pulses missed in a row. -/
structure Follower where
  time   : BitVec 96
  valid  : Bool
  missed : Nat
  deriving DecidableEq, Repr

/-- The time base (R599-R608). -/
structure TbState where
  /-- TB_NS and TB_FRAC of the master -/
  time      : BitVec 96
  /-- a STEP waiting for the next tick, in 2^-32 ns -/
  step      : Option Int
  /-- what a SLEW has still to apply, in 2^-32 ns -/
  slew      : Int
  /-- followers by CSR space: hub h is h, port die p is 2 + p, the logic die on site s is 8 + s -/
  followers : Map Follower
  deriving DecidableEq, Repr

/-- A transaction a requesting stop has outstanding (R308-R312). -/
structure Txn where
  pkt    : ReqPkt
  /-- the CMD flit has been inserted -/
  sent   : Bool
  /-- completed with ERR_TIMEOUT, the tag still held (R312) -/
  gaveUp : Bool
  /-- the G flow that carries it (R318) -/
  flow   : Option Nat
  deriving DecidableEq, Repr

/-- A flit (R289) without its check bits. -/
structure RingFlit where
  header  : Word
  payload : HalfLine
  poison  : Bool
  deriving DecidableEq, Repr

/-- A slot of a ring (R274, R290): its flit; what the codes of R289 will find in the header and in the payload groups at the next stop;
the leg of the packet's path and the direction that the flit travels (0 requests, 1 completions); the position of the last stop passed,
none before the first; and the link, end and LSEQ of the group that carries it over a link (R356). -/
structure RingSlot where
  flit   : RingFlit
  hdrErr : CodeErr
  payErr : CodeErr
  leg    : Nat
  dir    : Nat
  pos    : Option Nat
  onLink : Option (Nat × Bool × Nat)
  deriving DecidableEq, Repr

/-- An empty slot that has passed no stop yet. -/
def RingSlot.empty : RingSlot := ⟨⟨0, 0, false⟩, .clean, .clean, 0, 0, none, none⟩

/-- A flit that waits at a stop for a slot of a lane (R288, R316, R317, R327): with its leg and direction; `ready` says that the hub switch
holds the whole packet (R281), `fresh` that its source has yet to reserve buffer space at its destination (R316). -/
structure WaitFlit where
  ring  : Nat
  stop  : Nat
  lane  : Nat
  leg   : Nat
  dir   : Nat
  flit  : RingFlit
  ready : Bool
  fresh : Bool
  deriving DecidableEq, Repr

/-- What RNG_PLAN_CMD has under way (R1025): a commit, a copy, or a copy and then a commit. -/
inductive PlanOp where
  | commit | copy | both
  deriving DecidableEq, Repr

/-- An incomplete packet a destination holds (R307). -/
structure Incomplete where
  dst  : Nat
  src  : Nat
  lane : Nat
  cls  : TClass
  deriving DecidableEq, Repr

/-- A request a gate has presented to its acre on TREQ (R334, R335), with the request packet it came in. -/
structure TreqOut where
  ld   : Nat
  gate : Nat
  htag : Nat
  pkt  : ReqPkt
  /-- completed with ERR_TIMEOUT: the HTAG is held until the fabric's answer, which is dropped (R336) -/
  late : Bool
  deriving DecidableEq, Repr

/-- A request the fabric has issued through a gate (R334, R335): its HTAG and the tag the gate allocated. -/
structure IreqOut where
  ld   : Nat
  gate : Nat
  htag : Nat
  tag  : Nat
  deriving DecidableEq, Repr

/-- A completion that has reached a requester inside the device which has not used it yet (R308). -/
structure Delivered where
  stop   : Nat
  tag    : Nat
  status : Status
  rsn    : PoisonRsn
  late   : Bool
  peek   : Bool
  bytes  : List (Byte × Bool)
  deriving DecidableEq, Repr

/-- The ring network (chapter 05). -/
structure RingState where
  txns       : List Txn
  /-- next SEQ of each source stop, destination stop and class (R304); none before the first packet -/
  seqOut     : Map (Option (BitVec 16))
  /-- last SEQ accepted by each destination from each source and class (R305) -/
  seqIn      : Map (Option (BitVec 16))
  incomplete : List Incomplete
  /-- shadow and active plan entries, by ring, lane and slot (R321, R325): bits 7:0 GFID, 8 DIR, 9 VALID -/
  shadow     : Map (BitVec 10)
  active     : Map (BitVec 10)
  /-- RNG_GFLOW as it stood at the last COMMIT (R325) -/
  flows      : Map Word
  /-- the ring whose plan command runs (R1025) -/
  committing : Option (Nat × PlanOp)
  /-- the slots of every lane, by ring, lane and number (R274) -/
  slots      : Map RingSlot
  /-- flits that wait for a slot, oldest first -/
  waits      : List WaitFlit
  /-- consecutive empty unreserved slots that went to P flits while a B flit waited (R317), by ring * 512 + stop -/
  pRun       : Map Nat
  /-- tags released at twice the timeout, by stop and tag, with the SEQ their completion would carry (R312) -/
  released   : List (Nat × Nat × BitVec 16)
  /-- rings whose last rate window was below the floor (R276) -/
  slowWin    : List Nat
  /-- complete windows with SLOW = 0 in a row, per ring (R277), up to 8 -/
  clean      : Map Nat
  /-- rows whose ring is open at two adjacent failed transit islands (R339) -/
  openRows   : List Nat
  treq       : List TreqOut
  /-- requests that have reached a gate whose 64 HTAGs are in use, by stop (R316, R335) -/
  gateWait   : List (Nat × ReqPkt)
  ireq       : List IreqOut
  /-- the message queues of all stops, oldest message first: target stop, source stop, bytes with the poison of their half
  (R296) -/
  msgs       : List (Nat × Nat × List (Byte × Bool))
  /-- completions that engines of hubs and port dies have still to use -/
  inbox      : List Delivered
  deriving DecidableEq, Repr

end Sys2Proof.Machine
end

