-- ==== Sys2Proof/Machine/StateLink.lean ====
section
/-! DEFINITION. The state of the die links and of the hub firewalls (chapter 06). -/

namespace Sys2Proof.Machine

open Sys2Proof

/-- One end of a Cafen link (R362-R368, R379-R381). -/
structure LinkEnd where
  /-- LSEQ of the next data group sent -/
  next      : Nat
  /-- data groups not yet acknowledged, oldest first: LSEQ and BODY -/
  buf       : List (Nat × BitVec 328)
  /-- LSEQ of the next data group expected; none after a reset of this end, until the first group -/
  expect    : Option Nat
  /-- data groups are discarded until a REPLAY arrives -/
  waiting   : Bool
  /-- data groups received since the last ACK -/
  unacked   : Nat
  /-- SEQ of the latest NAK received, and how many in a row named it -/
  naks      : Nat × Nat
  /-- the peer has been reset since the last training -/
  peerReset : Bool
  /-- how many of the oldest unacknowledged groups were first sent before the peer's reset (R361) -/
  old       : Nat
  /-- groups left of a replay with PEER_RESET = 1 -/
  toDrop    : Nat
  deriving DecidableEq, Repr

/-- A link end after reset. -/
def LinkEnd.zero : LinkEnd := ⟨0, [], none, false, 0, (0, 0), false, 0, 0⟩

/-- What a link holds besides LNK_STAT: the marks of CALIBRATE and MAP, and what was negotiated (R370-R373, R384). -/
structure LinkMap where
  end0     : LaneMarks
  end1     : LaneMarks
  /-- the marks of end 1 as end 0 received them, and of end 0 as end 1 did -/
  seen0    : LaneMarks
  seen1    : LaneMarks
  /-- strobes found silent: 0 and 1 of the direction from end 0, 0 and 1 of the direction from end 1 (R355, R370) -/
  silent   : BitVec 4
  /-- negotiated width (1 W16, 2 W32, 3 W64) and rate -/
  width    : Nat
  rate     : Nat
  repair   : Bool
  feats    : BitVec 4
  rev      : Nat
  stops    : Nat
  /-- the link has carried groups since its last reset -/
  trained  : Bool
  /-- the training that runs began in DEGRADED -/
  wasDegraded : Bool
  deriving DecidableEq, Repr

/-- A link before training. -/
def LinkMap.zero : LinkMap := ⟨⟨0, 0⟩, ⟨0, 0⟩, ⟨0, 0⟩, ⟨0, 0⟩, 0, 0, 0, false, 0, 0, 0, false, false⟩

/-- The die links: ends by `2 * link + end`, and links by number. -/
structure LinkState where
  ends : Map LinkEnd
  maps : Map LinkMap
  deriving DecidableEq, Repr

/-- An outbound request to the third-party die: its tag towards the die and the packet (R393, R394). -/
structure FwlOut where
  xtag : Nat
  pkt  : ReqPkt
  deriving DecidableEq, Repr

/-- An inbound request the firewall has taken: the tag it allocated, the packet, and whether it waits for its window's rate
bucket (R389, R392). -/
structure FwlIn where
  tag  : Nat
  x    : XReq
  held : Bool
  deriving DecidableEq, Repr

/-- A hub firewall: outstanding requests and the rate bucket of each window (R389-R394). -/
structure FwlSt where
  outs    : List FwlOut
  /-- outbound requests that have reached the firewall port while no tag towards the die is free (R316) -/
  queue   : List ReqPkt
  ins     : List FwlIn
  buckets : Map Nat
  deriving DecidableEq, Repr

/-- A firewall after reset. -/
def FwlSt.zero : FwlSt := ⟨[], [], [], []⟩

end Sys2Proof.Machine
end

