-- ==== Sys2Proof/Machine/StateCmd.lean ====
section
/-! DEFINITION. The state of the command transports (chapter 12), of debug authorization (chapter 13), and of the transfers
that the management controller and the configuration master carry out over the ring. Transport index `k` is that of R750. -/

namespace Sys2Proof.Machine

open Sys2Proof

/-- A transfer of a range as a sequence of ring transactions, one outstanding at a time (R298, R777, R729): the stop and master
ID it uses, the address of the next transaction, the bytes still to read, the bytes still to write, what has been read, the tag
and length in flight, the first transaction that did not complete with OK, and whether one that completed with neither OK nor POISON has
stopped it. -/
structure Xfer where
  stop     : Nat
  mid      : Nat
  write    : Bool
  dbg      : Bool
  addr     : Nat
  left     : Nat
  data     : List Byte
  got      : List (Byte × Bool)
  inflight : Option (Nat × Nat)
  fail     : Option (Status × PoisonRsn × Bool)
  stopped  : Bool
  late     : Bool
  peek     : Bool
  deriving DecidableEq, Repr

/-- A command that passed the checks of R769 and waits for the MC to carry it out (R783): transport, TAG, sequence number, VERSION,
opcode, DBG and parameters. -/
structure Waiting where
  tr   : Nat
  tag  : Nat
  seq  : Nat
  ver  : Nat
  op   : Nat
  dbg  : Bool
  args : List Word
  deriving DecidableEq, Repr

/-- A command answered ACCEPTED (R775, R778): once its operation has ended, the final status and the results of its completion;
`cut` when a reset of H0 has interrupted it. -/
structure Acc where
  cmd    : Waiting
  result : Option (Nat × List Word)
  cut    : Bool
  deriving DecidableEq, Repr

/-- What kind of reply a packet is (R774, R775). -/
inductive ReplyKind where
  | final | accepted | completion
  deriving DecidableEq, Repr

/-- A reply packet on its way to a transport. -/
structure ReplyPkt where
  words : List Word
  kind  : ReplyKind
  deriving DecidableEq, Repr

/-- A challenge of a transport (R786): the level requested and the nonce. -/
structure Challenge where
  level : Nat
  nonce : BitVec 384
  deriving DecidableEq, Repr

/-- A command transport (R750-R768). -/
structure Transport where
  /-- the last packet whose CRC checked, and its sequence number (R767) -/
  last    : List Word
  lastSeq : Nat
  /-- its final or ACCEPTED reply -/
  reply   : Option ReplyPkt
  /-- replies that wait, oldest first (R755, R758, R779) -/
  replies : List ReplyPkt
  /-- words of the oldest reply that JTAG has loaded (R758) -/
  taken   : Nat
  /-- the JTAG command buffer (R758) -/
  inbuf   : List Word
  /-- BUSY and OVERRUN of the CMD-SPI status byte (R754, R756) -/
  busy    : Bool
  overrun : Bool
  /-- the reply a mailbox shows (R761) -/
  shown   : ReplyKind
  chal    : Option Challenge
  deriving DecidableEq, Repr

/-- A transport that has carried nothing. -/
def Transport.zero : Transport := ⟨[], 0, none, [], 0, [], false, false, .final, none⟩

/-- A debug key (R814): the public key X then Y, 0 when blank, its maximum level, its revoke bit. -/
structure DebugKey where
  pub     : BitVec 768
  level   : Nat
  revoked : Bool
  deriving DecidableEq, Repr

/-- A blank debug key. -/
def DebugKey.blank : DebugKey := ⟨0, 0, false⟩

/-- Commands and debug authorization. -/
structure CmdState where
  trs     : Map Transport
  /-- packets that wait for the MC to run (R812) -/
  parked  : List (Nat × List Word)
  waiting : List Waiting
  accs    : List Acc
  /-- a MEM_READ or MEM_WRITE that runs (R777) -/
  xfer    : Option (Waiting × Xfer)
  /-- failed responses since power-on (R816) -/
  fails   : Nat
  /-- fuses: debug keys 0-3 (R814) -/
  keys    : Map DebugKey
  /-- version 2 is accepted (R780) -/
  v2      : Bool
  /-- inbound requests that a FENCE_RIGHTS waits for, by hub (R400) -/
  fenceIns : List (Nat × FwlIn)
  /-- fuse: speed grade 2 (R1) -/
  grade2  : Bool
  /-- an EPOCH_COMMIT (true) or EPOCH_ROLLBACK that waits for a hub, or that a reset has interrupted (R991, R1015) -/
  epochOp : Option Bool
  deriving DecidableEq, Repr

/-- No command has arrived. -/
def CmdState.init : CmdState := ⟨[], [], [], [], none, 0, [], false, [], false, none⟩

end Sys2Proof.Machine
end

