-- ==== Sys2Proof/Machine/StateFab.lean ====
section
/-! DEFINITION. The state of the fabric, keyed by physical place: cubits, probes and trace, bushels, MAC tiles, frames and
acres (chapters 02 to 04 and 11). A place is `site * 4 + acre`; a cubit is `site * 16384 + 128 * y + x`, a bushel `site * 768 + b`,
a tile `site * 128 + t`. -/

namespace Sys2Proof.Machine

open Sys2Proof

/-- The state of a cubit (R100): Q, ST0-ST7, F0-F7 (C in bit 0, then Z, N, V) and the context counter. -/
structure CubitSt where
  q     : Half
  st    : Vector Half 8
  flags : Vector (BitVec 4) 8
  ctr   : Fin 8
  deriving DecidableEq, Repr

/-- What an unlisted cubit holds: zeros. -/
def CubitSt.zero : CubitSt := ⟨0, Vector.replicate 8 0, Vector.replicate 8 0, 0⟩

/-- A snapshot an LDC has captured (R107, R108). -/
structure CubitSnap where
  cubit : CubitSt
  mode  : Bool
  gsr   : Bool
  ctl   : BitVec 4
  deriving DecidableEq, Repr

/-- The snapshot registers' contents before the first capture. -/
def CubitSnap.zero : CubitSnap := ⟨CubitSt.zero, false, false, 0⟩

/-- The probe and trace path of a die (R158-R170). `src` is the source in effect per lane; a lane in `pend` waits to
change to its register; `pipe` holds the samples on their way, newest first: three stages to the trace buffer, four more to the
pins (R159); `left` counts the entries still to write after a trigger; `trigs` holds, for each trigger that has come, how many
probe-clock edges pass before the one at which it is taken (R166, R168). -/
structure ProbeSt where
  src   : Map Word
  pend  : List Nat
  pipe  : Vector DWord 7
  left  : Option Nat
  trigs : List Nat
  deriving DecidableEq, Repr

/-- The probe path after a die reset. -/
def ProbeSt.zero : ProbeSt := ⟨[], [], Vector.replicate 7 0, none, []⟩

/-- The output side of a bushel port (R193, R217): DOUT with its three flags, and the stage before the output register. -/
structure BshPort where
  dout    : BitVec 96
  poison  : Bool
  err     : Bool
  ce      : Bool
  sDout   : BitVec 96
  sPoison : Bool
  sErr    : Bool
  sCe     : Bool
  deriving DecidableEq, Repr

/-- A port under GSR (R217). -/
def BshPort.zero : BshPort := ⟨0, false, false, false, 0, false, false, false⟩

/-- A bushel apart from its rows: its ports, the scrub row and passes, and a corrected row waiting for write-back (R208-R212). -/
structure BshSt where
  a      : BshPort
  b      : BshPort
  row    : Nat
  passes : Nat
  back   : Option (Nat × BitVec 108)
  deriving DecidableEq, Repr

/-- A bushel as configuration leaves it. -/
def BshSt.zero : BshSt := ⟨BshPort.zero, BshPort.zero, 0, 0, none⟩

/-- State of a MAC tile (R265). -/
inductive TileMode where
  | idle | run | wait | done | stopped | error
  deriving DecidableEq, Repr

/-- An address generator (R235). -/
structure AddrGen where
  base   : BitVec 8
  stride : BitVec 8
  modM1  : BitVec 8
  mode   : BitVec 2
  offset : BitVec 8
  deriving DecidableEq, Repr

/-- A loop on the stack (R239). -/
structure TileLoop where
  first : Nat
  last  : Nat
  count : Nat
  deriving DecidableEq, Repr

/-- A MAC tile apart from its memories (R257), with its control and error registers (R264-R266). -/
structure TileSt where
  acc0    : DWord
  acc1    : DWord
  pois0   : Bool
  pois1   : Bool
  e       : BitVec 6
  be      : BitVec 6
  poisBe  : Bool
  ags     : Vector AddrGen 4
  loops   : List TileLoop
  pc      : Nat
  mode    : TileMode
  waitOn  : Nat
  is0     : List (BitVec 48 × Bool)
  is1     : List (BitVec 48 × Bool)
  os      : List (BitVec 48 × Bool)
  stopReq : Bool
  /-- START_PC, TPCLK, RATIO and AUTO_START, in the layout of LDC_MT_CTL -/
  ctl     : Word
  err     : BitVec 6
  ceCnt   : Nat
  ueCnt   : Nat
  deriving DecidableEq, Repr

/-- A tile whose frames are all 0, under GSR (R249, R255). -/
def TileSt.zero : TileSt :=
  ⟨0, 0, false, false, 0, 63, false, Vector.replicate 4 ⟨0, 0, 0, 0, 0⟩, [], 0, .idle, 0, [], [], [], false, 0, 0, 0, 0⟩

/-- A physical acre: whether its load runs, its isolation clamps hold, its GSR is released, and how many stages of its
release have come (R155, R337, R717, R721). The synchronizers of its clock domains (R157): clocks (CLK_SEL, R57) that have had no
edge since the release of GSR, and those whose first edge since then is at the present instant. -/
structure PlaceSt where
  loading : Bool
  clamped : Bool
  gsrOff  : Bool
  stage   : Nat
  unseen  : BitVec 24
  fresh   : BitVec 24
  deriving DecidableEq, Repr

/-- An acre as a die reset leaves it: no load, GSR asserted (R716). -/
def PlaceSt.zero : PlaceSt := ⟨false, false, false, 0, 0, 0⟩

/-- One group of a boundary-channel crossing, of up to 64 wires in one direction (R132, R134, R142): the launch register, on a bridge
the retiming register, the four entries of the deskew FIFO with its write and read pointers, the capture register, and whether the two
sides selected different clocks at stage 1 (R136). -/
structure ChanSt where
  launch   : DWord
  retime   : DWord
  fifo     : Vector DWord 4
  wr       : Fin 4
  rd       : Fin 4
  capture  : DWord
  mismatch : Bool
  deriving DecidableEq, Repr

/-- A crossing without data: the pointers are centered (R142). -/
def ChanSt.zero : ChanSt := ⟨0, 0, Vector.replicate 4 0, 2, 0, 0, false⟩

/-- What drives the wires of the fabric, as it stood before a clock edge: cubits, bushels, tiles and crossings. -/
structure FabPast where
  cubits  : Map (Option CubitSt)
  bushels : Map BshSt
  tiles   : Map TileSt
  chans   : Map ChanSt
  deriving DecidableEq, Repr

/-- The fabric. -/
structure FabState where
  /-- configuration frames, by `place * 2^14 + FIDX` (R699) -/
  frames  : Map (BitVec 4096)
  /-- clamp values and pin hold states latched at isolation, keyed as frames (R721) -/
  latched : Map (BitVec 4096)
  /-- enabled drivers per league segment (R125), by `site * 2^15 + segment` -/
  drivers : Map Nat
  places  : Map PlaceSt
  /-- none for a cubit that holds its GSR values (R98) -/
  cubits  : Map (Option CubitSt)
  /-- boundary-channel groups by where they end: `place * 32 + i`, with `i` the perch row of the acre (0-15) or, from 16 on, its
  perch column; those that end in port die `p` at `8192 + 32 * p + row` (R134, R701) -/
  chans   : Map ChanSt
  /-- dividers of the local user clocks that run, by `site * 16 + m`: source edges since the last edge of the clock, plus 1 (R150) -/
  divs    : Map Nat
  /-- the wires before the present instant, and before the instant before it -/
  past    : FabPast
  past2   : FabPast
  /-- clocks that have an edge at the present instant: package clock `n` is `n`, fabric clock `m` of a place `8 + 16 * place + m` -/
  nowEdge : List Nat
  /-- sites at which the trigger network signals a trigger (R166) -/
  trigIn  : List Nat
  /-- user I/O settings of port die `p` and pin `n` from the image, by `96 * p + n` (R681), and the last OE and O of a pin held by
  HOLD: bits 96 + n and n (R702) -/
  pinSet  : Map (Option PinSetup)
  pinHeld : Map (BitVec 192)
  snaps   : Map CubitSnap
  probes  : Map ProbeSt
  /-- bushel rows, by `bushel * 1024 + row`: the 108 raw bits and the valid bit in bit 108 -/
  rows    : Map (BitVec 109)
  bushels : Map BshSt
  /-- the LDC_BSH_DIAG_CTL word of the diagnostic access that runs, by site (R214, R272) -/
  diags   : Map Word
  tiles   : Map TileSt
  /-- data-memory words, by `tile * 512 + bank * 256 + word`: eight 13-bit coded bytes and the poison bit in bit 104 -/
  tmem    : Map (BitVec 105)
  /-- instruction words, by `tile * 32 + n`: eight 13-bit coded bytes -/
  imem    : Map (BitVec 104)
  deriving DecidableEq, Repr

end Sys2Proof.Machine
end

