-- ==== Sys2Proof/Machine/StateCfg.lean ====
section
/-! DEFINITION. The state of the configuration master (chapter 11): images, loads, operations and the hosts of relocated acres. -/

namespace Sys2Proof.Machine

open Sys2Proof

/-- Where an image comes from (R703, R719). -/
inductive ImgSrc where
  | flash (base : Nat) | memory (addr : Nat) | pushed
  deriving DecidableEq, Repr

/-- A segment-table entry (R689); `aad` holds its bytes 0-23. -/
structure Seg where
  acre   : Nat
  reloc  : Bool
  gap12  : Nat
  gap23  : Nat
  rclk   : Nat
  off    : Nat
  len    : Nat
  frames : Nat
  crc    : Word
  aad    : BitVec 192
  iv     : BitVec 96
  tag    : BitVec 128
  sig    : Word
  compat : List Word
  digest : BitVec 384
  deriving DecidableEq, Repr

/-- An accepted image (R688, R690): its source, IMAGE_ID, IMG_EPOCH, flags, early acre, package clocks, image key and segments. -/
structure Image where
  src      : ImgSrc
  id       : DWord
  epoch    : Word
  partialImage : Bool
  strict   : Bool
  early    : Nat
  pclk     : List Word
  key      : BitVec 256
  segs     : List Seg
  deriving DecidableEq, Repr

/-- The retained image of an acre (R713). -/
structure Retained where
  src : ImgSrc
  key : BitVec 256
  seg : Seg
  deriving DecidableEq, Repr

/-- A load of an acre that runs (R692-R698): the acre, the place it is loaded into, the plaintext not yet processed, whether
decompression ends without a fault after it, the last FIDX, the reason of the last refusal (0 none), and whether the bushel rows and
data memories are skipped (R728). -/
structure LoadSt where
  acre   : Nat
  place  : Nat
  data   : List Byte
  good   : Bool
  last   : Option Nat
  reason : Nat
  skip   : Bool
  deriving DecidableEq, Repr

/-- Where an operation stands. -/
inductive OpPhase where
  /-- the header is being fetched from memory (R719) -/
  | header
  /-- segments are fetched, acres quiesce and load (R719) -/
  | loads
  /-- a host waits for the result of its BIST (R724) -/
  | bist
  /-- its BIST has failed; the retirement waits to be stored (R33, R991) -/
  | store
  /-- the retained segment of the acre is read (R725 step 1) -/
  | segment
  /-- the acre quiesces (R720) -/
  | quiesce
  /-- its state is captured (R725 step 4) -/
  | capture
  /-- the target is loaded (R725 step 5) -/
  | load
  /-- its state is restored (R725 step 6) -/
  | restore
  /-- the stop map is updated and the target released (R725 steps 7 and 8) -/
  | release
  /-- frames are written to CFG_BUF (R737) -/
  | readback
  deriving DecidableEq, Repr

/-- The configuration operation that runs (R739). `op` is CFG_CMD.OP and `arg` CFG_ARG as at its GO; `acres` are those still to
load or to move; `acre` and `target` (a place) are those of the move that runs; `data` is what has been read or captured, `began` when
the pause began, in ns, `tiles` and `ports` the tiles and bushel output registers captured; `lost` says that the state of
the present move has been lost, `anyLost` that of some move, `failed` that an acre failed or became LOST. -/
structure OpSt where
  op     : Nat
  arg    : Word
  buf    : Nat
  phase  : OpPhase
  image  : Option Image
  acres  : List Nat
  acre   : Nat
  target : Nat
  data   : List (Byte × Bool)
  began  : Nat
  tiles  : List TileSt
  ports  : List (BshPort × BshPort)
  lost   : Bool
  anyLost : Bool
  failed : Bool
  deriving DecidableEq, Repr

/-- The configuration master. -/
structure CfgState where
  /-- bytes of a pushed image, by offset, and whether its last chunk has arrived (R706) -/
  pushed  : Map Byte
  pushEnd : Bool
  /-- the accepted start-up image -/
  image   : Option Image
  /-- the reason for which the start-up image of the present source is refused (0 none, 16 NO_IMAGE), until SP6 acts on it (R943) -/
  refusal : Nat
  /-- the source in use: 0 the primary area, 1 the fallback area, 2 the pushed image (R703, R708) -/
  tried   : Nat
  /-- stored segments in the staging area, by acre (R707, R1027) -/
  staged  : List (Nat × List Byte)
  /-- lines of S0 and S1 that staging has used (R707) -/
  stagedLines : Map Nat
  loads   : List LoadSt
  retained : Map (Option Retained)
  op      : Option OpSt
  /-- the transfer of the operation that runs -/
  xfer    : Option Xfer
  /-- sites prepared as hosts (R724) -/
  hosts   : List Nat
  /-- package clock values are in effect (R147), and what they are -/
  pclk    : Option (List Word)
  /-- acres whose stage 1 is due (R712, R717-R719, R941) -/
  due     : List Nat
  /-- fused hashes of image keys 0-3, 0 when blank, and those revoked (R690) -/
  imgKeys : Map (BitVec 384)
  revoked : BitVec 4
  /-- the mode of the xSPI port of H0, once the loader has read the SFDP table in 1S-1S-1S mode at 25 MHz (R705): true for 8D-8D-8D at
  200 MHz, false for 1S-1S-1S; none before, or where the flash cannot be read or holds no table -/
  xspi    : Option Bool
  deriving DecidableEq, Repr

/-- No image, no load, no operation; blank fuses (log entry 4). -/
def CfgState.init : CfgState where
  pushed := []
  pushEnd := false
  image := none
  refusal := 0
  tried := 0
  staged := []
  stagedLines := []
  loads := []
  retained := []
  op := none
  xfer := none
  hosts := []
  pclk := none
  due := []
  imgKeys := []
  revoked := 0
  xspi := none

end Sys2Proof.Machine
end

