-- ==== Sys2Proof/Machine/StateCpu.lean ====
section
/-! DEFINITION. The state of the hub processors, debug modules, semaphores and watchdogs (chapter 13). Hart `c` of hub `h` has
number `4 * h + c`. -/

namespace Sys2Proof.Machine

open Sys2Proof

/-- An application core (R805-R841). -/
structure HartSt where
  halted    : Bool
  /-- mip.BUSERR (R804) -/
  buserr    : Bool
  /-- the line on which the LR reservation is held (R828) -/
  reserved  : Option Nat
  /-- a halt on reset is requested (R811) -/
  resetHalt : Bool
  haltreq   : Bool
  /-- a resume is requested (R824) -/
  resumereq : Bool
  /-- the hart has resumed since it was last asked to (R811) -/
  resumeack : Bool
  /-- the hart has been reset since the debugger last acknowledged it -/
  havereset : Bool
  stoptime  : Bool
  haltGroup : Nat
  resGroup  : Nat
  /-- what abstract commands have read or written since the hart halted, by register number (R811) -/
  regs      : Map DWord
  /-- triggers 0-7: tdata1 at 2i, tdata2 at 2i + 1 (R818) -/
  trigs     : Map DWord
  /-- time the hart's timer has been held (R830) -/
  heldTime  : DWord
  /-- device time at the halt -/
  haltedAt  : Nat
  /-- the core watchdog is paused by a halt (R841) -/
  wdtHeld   : Bool
  deriving DecidableEq, Repr

/-- A core in reset. -/
def HartSt.zero : HartSt := ⟨false, false, none, false, false, false, false, false, false, 0, 0, [], [], 0, 0, false⟩

/-- A debug module (R810-R812): dmactive, the hart selected, abstract data and the program buffer, cmderr, the bits hgselect and
grouptype last written to dmcs2, the halt and resume groups of external trigger 0; sbcs: access size, readonaddr,
autoincrement, readondata, busyerror and sberror; system bus address and data; and the system bus access that is to go out (true for
a write) or is in flight under a tag. -/
structure DmSt where
  active    : Bool
  hart      : Nat
  data      : Map Word
  progbuf   : Map Word
  cmderr    : Nat
  groupSel  : Word
  extHalt   : Nat
  extResume : Nat
  sbaccess  : Nat
  sbonaddr  : Bool
  sbauto    : Bool
  sbondata  : Bool
  sbbusyerr : Bool
  sberror   : Nat
  sbaddr    : BitVec 48
  sbdata    : DWord
  sbgo      : Option Bool
  sbtag     : Option (Nat × Bool)
  deriving DecidableEq, Repr

/-- A debug module after reset. -/
def DmSt.zero : DmSt := ⟨false, 0, [], [], 0, 0, 0, 0, 2, false, false, false, false, 0, 0, 0, none, none⟩

/-- A ring request of an application core or of its L2 (R804): hart, tag, whether it stores, address. -/
structure CoreOut where
  hart  : Nat
  tag   : Nat
  store : Bool
  addr  : BitVec 48
  deriving DecidableEq, Repr

/-- Processors. -/
structure CpuState where
  /-- ring requests of application cores that have not ended -/
  outs    : List CoreOut
  harts   : Map HartSt
  dms     : Map DmSt
  /-- owners of held semaphores: hub * 64 + n (R831) -/
  sems    : Map (Option (BitVec 12))
  /-- hubs whose MC pair a comparator has stopped (R797) -/
  mcStop  : BitVec 2
  /-- CLK_NMI raised at an MC and not yet part of another fault (R869) -/
  nmi     : BitVec 2
  /-- the first service word of the safety watchdog has come (R843) -/
  svc     : Bool
  /-- core watchdogs whose interrupt has been raised to the MC, by hart (R839) -/
  wdtIrq  : List Nat
  /-- the caches that hold a line, by hub * 2^42 + address / 64 (R801, R802): bit c the L1 caches of core c, bit 4 the L2 -/
  lines   : Map (BitVec 5)
  deriving DecidableEq, Repr

/-- Every core in reset, every semaphore free. -/
def CpuState.init : CpuState := ⟨[], [], [], [], 0, 0, false, [], []⟩

end Sys2Proof.Machine
end

