-- ==== Sys2Proof/Machine/StateLts.lean ====
section
/-! DEFINITION. The lifetime store, the firmware slots and the flash firmware area (chapter 18). -/

namespace Sys2Proof.Machine

open Sys2Proof

/-- The trailer of a physical sector (R988): logical sector, generation and write count. -/
structure Sect where
  lsn    : Nat
  gen    : Word
  wcount : Nat
  deriving DecidableEq, Repr

/-- The state of a firmware unit (R1005). -/
inductive FwState where
  | committed | staged | provisional | failed
  deriving DecidableEq, Repr

/-- What the store records of a firmware unit (R1005, R1006): its state, its committed slot and the slot it runs, each
0 for A and 1 for B. -/
structure FwUnit where
  state     : FwState
  committed : Nat
  active    : Nat
  deriving DecidableEq, Repr

/-- The data of the logical sectors (R989, R999). -/
structure LtsData where
  minutes : Word
  power   : Word
  warm    : Word
  safe    : Word
  /-- field-retirement masks by half-row -/
  masks   : Map (BitVec 7)
  /-- rank maps by hub * 2 + local channel, as LT_READ kind RANKMAP gives them -/
  ranks   : Map Word
  /-- retired physical ranks by hub * 2 + local channel (log entry 25) -/
  retired : Map (BitVec 4)
  /-- migration records by hub * 2 + local channel, as LT_READ kind RANKMAP gives them -/
  migs    : Map Word
  /-- firmware units 0-15 -/
  units   : Map FwUnit
  /-- committed protocol epoch -/
  epoch   : Byte
  /-- board configuration records: slot * 512 + byte -/
  bcr     : Map Byte
  /-- error counts: BLOCK * 4 + severity -/
  errcnt  : Map Word
  /-- temperature bins: site * 32 + bin -/
  hist    : Map Word
  /-- aging entries: site * 128 + entry -/
  aging   : Map Word
  /-- aging entries stored, by site -/
  agingN  : Map Nat
  deriving DecidableEq, Repr

/-- What an unwritten rank map reads as: no logical rank (R999). -/
def noRanks : Word := 0xFF#32

/-- What an unwritten unit reads as: COMMITTED on slot A. -/
def FwUnit.init : FwUnit := ⟨.committed, 0, 0⟩

/-- Data that reads as zero (R992). -/
def LtsData.zero : LtsData := ⟨0, 0, 0, 0, [], [], [], [], [], 0, [], [], [], [], []⟩

/-- The lifetime store and the firmware it governs. -/
structure LtsState where
  /-- physical sectors, by copy * 64 + physical sector (R988) -/
  sects  : Map Sect
  /-- what the sectors of the copy in H0, and of the copy in H1, hold (R988) -/
  copy0  : LtsData
  copy1  : LtsData
  /-- what volatile memory holds (R989, R999) -/
  live   : LtsData
  /-- logical sectors whose writes wait for a hub reset to end (R991) -/
  waits  : List Nat
  /-- the flash firmware area (R1003), by flash offset -/
  flash  : Map Byte
  deriving DecidableEq, Repr

/-- A physical sector that nothing has written: logical sector n on physical sector n, then spares (R988, R1019). -/
def sectInit (k : Nat) : Sect := ⟨if k % 64 < 0x38 then k % 64 else 0xFE, 0, 0⟩

/-- A store that nothing has written. -/
def LtsState.init : LtsState := ⟨[], LtsData.zero, LtsData.zero, LtsData.zero, [], []⟩

end Sys2Proof.Machine
end

