-- ==== Sys2Proof/Machine/StateMem.lean ====
section
/-! DEFINITION. Memory behind the hubs: DDR5 lines and channels, CXL ports, stacked SRAM, and the memory protection engine
(chapters 07, 08). -/

namespace Sys2Proof.Machine

open Sys2Proof

/-- A DRAM bank as the page policy sees it (R441, R442): predictor, open row, and the previous decision with its row (true for
left open). -/
structure BankSt where
  pred : BitVec 2
  row  : Option Nat
  last : Option (Bool × Nat)
  deriving DecidableEq, Repr

/-- Predictors start at WEAK_CLOSE (R443). -/
def BankSt.init : BankSt := ⟨1, none, none⟩

/-- A line request that waits in a sub-channel (R437): its hub-local offset, what a write carries, the code of a read, its class
and when it reached the controller, in ns. -/
structure DmcReq where
  addr  : BitVec 48
  write : Option LineWrite
  light : Bool
  cls   : TClass
  since : Nat
  deriving DecidableEq, Repr

/-- A DDR5 channel (R437-R461). -/
structure DmcSt where
  /-- by sub-channel: the requests of its read queue and its write queue in one list, in the order in which they reached the
  controller (R436, R437); a request without `write` stands in the read queue -/
  queue   : Map (List DmcReq)
  /-- by sub-channel: its write queue reached 48 entries and has not fallen to 16 since (R438) -/
  drain   : BitVec 2
  /-- the latest time at which a request reached the channel, in ns (R437) -/
  now     : Nat
  /-- by ((sub-channel * 4 + physical rank) * 8 + bank group) * 4 + bank -/
  banks   : Map BankSt
  lfsr    : BitVec 31
  /-- rows sampled and not yet serviced (R447), by (sub-channel * 4 + physical rank) * 4 + bank index: bank group * 2^16 + row -/
  sampled : Map (Option Nat)
  /-- same-bank refreshes due and not issued (R445, R446), by the same key -/
  due     : Map Nat
  /-- MR4 calls for double rate (R445) -/
  double  : Bool
  /-- ranks whose migration waits (R454) -/
  waiting : List Nat
  /-- CA parity errors on the next command to a rank: the rank, whether they persist, whether injected (R450, R451, R983) -/
  ca      : List (Nat × Bool × Bool)
  deriving DecidableEq, Repr

/-- A channel nothing has used; the LFSR is seeded at SP5 (log entry 4). -/
def DmcSt.init : DmcSt :=
  { queue := [], drain := 0, now := 0, banks := [], lfsr := 0, sampled := [], due := [], double := false, waiting := [], ca := [] }

/-- A request outstanding at a CXL port, with its hub-local offset (R468, R473). -/
structure CxlOut where
  tag  : Nat
  addr : Nat
  deriving DecidableEq, Repr

/-- A line of a CXL device: its data and whether it is poisoned (R469). -/
structure CxlLine where
  data   : Line
  poison : Bool
  deriving DecidableEq, Repr

/-- A node or MAC-table line of the node cache (R520): region; level 0 or 1 with the node's index, or level 7 with the index
of a MAC-table line. `bad` is a node that has come to hold an uncorrectable error in the cache (R528). -/
structure CacheEnt where
  region : Nat
  level  : Nat
  index  : Nat
  line   : Line
  dirty  : Bool
  bad    : Bool
  deriving DecidableEq, Repr

/-- A write-combining entry (R542, R545): region, line address, bytes held, and whether a poisoned half was merged. -/
structure WcbEnt where
  region : Nat
  addr   : Nat
  mask   : DWord
  data   : Line
  poison : Bool
  deriving DecidableEq, Repr

/-- A write whose completion waits for write-combining entries (R544): the worst status so far and the lines it waits for. -/
structure MpePend where
  id     : Nat
  stop   : Nat
  pkt    : ReqPkt
  status : Status
  lines  : List Nat
  deriving DecidableEq, Repr

/-- A request that waits for the granule in progress (R549): its number, its stop, the packet. -/
structure MpeWait where
  id   : Nat
  stop : Nat
  pkt  : ReqPkt
  deriving DecidableEq, Repr

/-- The memory protection engine of a hub (chapter 08). -/
structure MpeSt where
  /-- key pairs by slot: K1 in bits [255:0], K2 in [511:256] (R506) -/
  keys    : Map (BitVec 512)
  /-- root nodes by region (R516) -/
  roots   : Map Line
  /-- node cache, oldest fill first (R520) -/
  cache   : List CacheEnt
  /-- write-combining buffer, oldest entry first (R542) -/
  wcb     : List WcbEnt
  pend    : List MpePend
  nextId  : Nat
  /-- outstanding requests a rights fence waits for (R559) -/
  fence   : List Nat
  /-- lines of the granule in progress that hold the next key: bit per line (R547) -/
  granule : BitVec 64
  /-- work on the granule at the boundary has begun and has not ended (R549) -/
  inGranule : Bool
  /-- requests that passed the checks and wait for the granule in progress, oldest first (R549) -/
  waits   : List MpeWait
  /-- the rekey journal of the AO domain: region and boundary (R552) -/
  journal : Option (Nat × Nat)
  /-- highest major stored under the next key (R551) -/
  newHigh : Word
  /-- the reseal in progress: region, base, size exponent (R530) -/
  reseal  : Option (Nat × Nat × Nat)
  /-- where tree scrub goes on: region * 2^24 + node (R523) -/
  scrub   : Nat
  deriving DecidableEq, Repr

/-- An engine with no key, no region and nothing held. -/
def MpeSt.init : MpeSt :=
  { keys := [], roots := [], cache := [], wcb := [], pend := [], nextId := 0, fence := [], granule := 0, inGranule := false, waits := [],
    journal := none, newHigh := 0, reseal := none, scrub := 0 }

/-- Memory and its controllers. -/
structure MemState where
  /-- DDR5 bursts (R423), by channel, physical rank, row, bank, column and sub-channel -/
  dram : Map (BitVec 640)
  /-- DDR5 channels 0-3 -/
  dmc  : Map DmcSt
  /-- lines of the CXL devices: port * 2^30 + line -/
  cxl  : Map CxlLine
  /-- requests outstanding at CXL ports 0-3 -/
  cxlOut : Map (List CxlOut)
  /-- the links of CXL ports 0-3 behind the fence (R473): 0 down, 1 training, 2 up -/
  cxlPhys : Map Nat
  /-- stacked SRAM lines in the strong code (R494): hub * 2^22 + line -/
  sram : Map (BitVec 640)
  /-- memory protection engines by hub -/
  mpe  : Map MpeSt
  /-- key-encryption keys of the security engine, 32 bytes each: 0 image, 1 memory of H0, 2 memory of H1 (R507, R690) -/
  keks : Map (BitVec 256)
  /-- the class of the request that a memory protection engine serves now, class P between requests: its reads of a DDR5 line are
  of that class (R437) -/
  serving : TClass
  /-- by hub: requests held at the stop of its stacked SRAM while that is SUSPENDED, oldest first, each with its stop (R923) -/
  sramWait : Map (List (Nat × ReqPkt))
  deriving DecidableEq, Repr

/-- Nothing listed. -/
def MemState.init : MemState := ⟨[], [], [], [], [], [], [], [], .p, []⟩

end Sys2Proof.Machine
end

