-- ==== Sys2Proof/Machine/StateOut.lean ====
section
/-! DEFINITION. What the device sends: one constructor for each kind of thing that leaves a block towards another or towards
the outside (log entry 2). -/

namespace Sys2Proof.Machine

open Sys2Proof

/-- The refresh commands a DDR5 controller issues (R446, R448). -/
inductive RefreshCmd where
  | refsb | drfmsb | rfmsb
  deriving DecidableEq, Repr

/-- How an inbound PCIe request completes (R628). -/
inductive PcieOutcome where
  | successful | unsupported | abort
  deriving DecidableEq, Repr

/-- One thing the device has sent. -/
inductive Out where
  /-- a request packet inserted into a ring (R287) -/
  | request (p : ReqPkt)
  /-- a completion packet a target sends (R299) -/
  | completion (p : CplPkt)
  /-- a completion status delivered to its requester, with the data (R308) -/
  | delivered (stop tag : Nat) (status : Status) (rsn : PoisonRsn) (late peek : Bool) (imm : DWord) (data : List DataFlit)
  /-- a flit that the stop of its destination takes off a ring (R324) -/
  | flit (stop ring : Nat) (header : Word) (payload : HalfLine) (poison : Bool)
  /-- words presented to the fabric on TREQ, header first (R334, R978) -/
  | treq (ld gate : Nat) (words : List (DWord × Bool))
  /-- words presented to the fabric on IRSP, header first (R334, R978) -/
  | irsp (ld gate : Nat) (words : List (DWord × Bool))
  /-- the combinational output Y of a cubit in a cycle (R59, R87) -/
  | cubitY (cubit : Nat) (y : Half)
  /-- a word leaving a MAC tile on OS (R243) -/
  | tileWord (tile : Nat) (data : BitVec 48) (poison : Bool)
  /-- the status with which a commanded register write completes (R13, R15), or a commanded read that does not reach its register -/
  | wrote (key : Nat) (status : Status)
  /-- the 16 lane values on a row's probe pins (R159, R162) -/
  | probe (site : Nat) (lanes : Half)
  /-- the trigger network driven by a die (R169) -/
  | trigger (source : Nat)
  /-- a group sent by an end of a die link (R356, R361), with its physical lanes in each unit interval (R358, R373) -/
  | group (link : Nat) (from1 : Bool) (g : BitVec 352) (lanes : List (BitVec 68))
  /-- the time base as a hub sends it to its third-party die at a sync pulse (R386) -/
  | xTime (hub : Nat) (time : BitVec 96)
  /-- a flit that an end of a die link has received and hands to its ring or die (R364, R380) -/
  | linkFlit (link : Nat) (at1 : Bool) (body : BitVec 328)
  /-- a request sent to the third-party die (R398) -/
  | xRequest (hub xtag : Nat) (p : ReqPkt)
  /-- a completion returned to the third-party die's stop `j` for its tag (R390, R397) -/
  | xCompletion (hub : Nat) (j : BitVec 4) (tag : BitVec 13) (status : Status) (rsn : PoisonRsn) (late : Bool) (imm : DWord)
      (data : List DataFlit)
  /-- a line access completed by a DDR5 controller or CXL port towards its MPE (R433-R435, R469): hub, offset, status, reason, data,
  stored MAC -/
  | line (hub addr : Nat) (status : Status) (rsn : PoisonRsn) (data : Line) (mac : DWord)
  /-- a refresh, directed-refresh or refresh-management command to a bank index of a rank (R446, R448) -/
  | refresh (ch sc rank ba : Nat) (cmd : RefreshCmd)
  /-- a CXL.mem request: MemRd, MemWr or MemWrPtl (R469, R470) -/
  | cxl (port tag : Nat) (read : Bool) (addr : Nat) (mask : DWord) (data : Line) (poison : Bool)
  /-- the value a commanded register read returns, and whether it was only peeked at (R16) -/
  | readback (key : Nat) (value : DWord) (peek : Bool)
  /-- an MSI-X message of a port die: its vector, address and data (R636) -/
  | msix (port vector : Nat) (addr : DWord) (data : Word)
  /-- a completion of an inbound PCIe request: its number, offset, outcome, EP bit and data (R627, R628) -/
  | pcieCpl (port id off : Nat) (outcome : PcieOutcome) (ep : Bool) (data : List Byte)
  /-- a memory or configuration request TLP sent on a link (R631): Type 0 or 1 where it is a configuration request -/
  | tlp (port link tag : Nat) (cfg : Option Bool) (write : Bool) (addr : DWord) (len : Nat) (ep : Bool) (data : List Byte)
  /-- a configuration request answered with Configuration Request Retry Status (R624) -/
  | configRetry (port : Nat)
  /-- an Ethernet frame with its FCS on the wire of a MAC (R639, R644) -/
  | ethFrame (port mac : Nat) (bytes : List Byte)
  /-- a CSI-2 packet sent by a transmit port (R670, R672): whether a skew calibration sequence precedes it, its header, ECC, payload
  and CRC-16 -/
  | csiPacket (port t : Nat) (skew : Bool) (vc dt wc : Nat) (ecc : Byte) (payload : List Byte) (crc : Option Half)
  /-- what a CMD-SPI READ frame returns: the status byte and the words of a reply (R753, R754) -/
  | spi (status : Byte) (reply : List Word)
  /-- the word that Capture-DR loads into CMDPKT, with bit 32 (R758) -/
  | jtag (valid : Bool) (word : Word)
  /-- the result of a DMI access: its op field and data (R812) -/
  | dmi (op : Nat) (data : Word)
  /-- the end of a ring request of an application core: hart and status, an access fault where the status gives one (R804) -/
  | core (hart : Nat) (accessFault : Bool) (status : Status)
  /-- an access fault of an application core without a ring request (R803) -/
  | coreFault (hart : Nat)
  /-- an SC of an application core has stored or failed (R828) -/
  | coreSc (hart : Nat) (stored : Bool)
  /-- a trigger fires at a hart: a breakpoint exception, Debug Mode, or external trigger output 0 (R818, R822) -/
  | hartTrigger (hart action : Nat)
  /-- an application core starts in machine mode at its reset vector (R805) -/
  | hartStart (hart : Nat) (vector : DWord)
  /-- a hart halts or resumes (R824) -/
  | hart (hart : Nat) (halted : Bool)
  /-- CLK_NMI to the MC of a hub (R869) -/
  | clkNmi (hub : Nat)
  /-- the interrupt of a core watchdog to the MC of its hub (R839) -/
  | wdtIrq (hart : Nat)
  deriving DecidableEq, Repr

end Sys2Proof.Machine
end

