-- ==== Sys2Proof/Machine/StatePort.lean ====
section
/-! DEFINITION. The state of the port dies and of the CRC units that is in no register (chapter 10). MAC `m` of port die `p` has
key `4 * p + m`; a slot of it `((4 * p + m) * 8 + class) * 4 + slot`; a CRC unit is `4 * h + u` in a hub and `8 + 2 * p + u` in a
port die. -/

namespace Sys2Proof.Machine

open Sys2Proof

/-- A ring transaction of an inbound PCIe request (R627): offset within the request, length, tag (none without a transaction), and
its outcome. -/
structure PciePiece where
  off    : Nat
  len    : Nat
  addr   : Nat
  tag    : Option Nat
  result : Option Delivered
  deriving DecidableEq, Repr

/-- An inbound PCIe request in progress (R626-R630). -/
structure PcieIn where
  id     : Nat
  write  : Bool
  pieces : List PciePiece
  deriving DecidableEq, Repr

/-- An outbound PCIe request that waits for its completion: TLP tag, link, and the ring request (R631, R632). -/
structure PcieOut where
  tlpTag : Nat
  link   : Nat
  pkt    : ReqPkt
  deriving DecidableEq, Repr

/-- Where a copy of a frame stands (R644-R647). -/
inductive CopySt where
  | waiting | sending | sent | noWindow | linkDown
  deriving DecidableEq, Repr

/-- A committed Ethernet frame (R641-R647): the MAC and the slot it was committed on, and one entry for each copy. `seq` is the
R-TAG sequence number where one is inserted; `egress` the timestamp of the copy on that MAC. -/
structure EthFrame where
  mac    : Nat
  cls    : Nat
  slot   : Nat
  len    : Nat
  tag    : Nat
  seq    : Option (BitVec 16)
  copies : List (Nat × CopySt)
  egress : Option (Word × Bool)
  deriving DecidableEq, Repr

/-- A gate control list in operation (R649, R650): LEN, CYCLE_NS and BASE as they were at the switch. -/
structure GclRun where
  len   : Nat
  cycle : Nat
  base  : Nat
  deriving DecidableEq, Repr

/-- The recovery state of a stream (R651): take any sequence number, the last one recovered, and the history, newest first. -/
structure FrerSt where
  takeAny : Bool
  seq     : BitVec 16
  hist    : List Bool
  deriving DecidableEq, Repr

/-- The recovery state after a reset. -/
def FrerSt.zero : FrerSt := ⟨true, 0, []⟩

/-- How a frame ended (R662). -/
inductive FrameEnd where
  | running | complete | missing
  deriving DecidableEq, Repr

/-- A frame in an intake buffer (R655-R666). `src` is 0-7 for a CSI-2 port, 8-11 for a MAC. -/
structure Frame where
  src      : Nat
  vc       : Nat
  hub      : Nat
  queue    : Nat
  index    : BitVec 16
  base     : Nat
  size     : Nat
  table    : Bool
  maxLines : Nat
  fsTime   : DWord
  feTime   : DWord
  valid    : Bool
  num      : Nat
  dt       : Option Nat
  lines    : Nat
  payload  : Nat
  crcErrs  : Nat
  eccCorr  : Nat
  eccUnc   : Nat
  dropped  : Nat
  firstBad : Option Nat
  trunc    : Bool
  overflow : Bool
  tsLost   : Bool
  fcsErr   : Bool
  late     : Bool
  /-- writes in flight, by tag with their addresses -/
  writes   : List (Nat × Nat)
  /-- the lowest-addressed write that failed, and its status -/
  fail     : Option (Nat × Status)
  /-- its queue or entry has gone away (R666) -/
  fenced   : Bool
  ended    : FrameEnd
  /-- the frame descriptor has been issued -/
  closing  : Bool
  deriving DecidableEq, Repr

/-- A CSI-2 transmit port (R669-R672): the packet being filled (header, payload words still to come, words so far), whether words
are skipped, the packets buffered, and whether a packet has been sent. -/
structure CtxSt where
  filling : Option (DWord × Nat × List DWord)
  skip    : Bool
  buf     : List (DWord × List DWord)
  started : Bool
  deriving DecidableEq, Repr

/-- A transmit port after reset. -/
def CtxSt.zero : CtxSt := ⟨none, false, [], false⟩

/-- A running CRC computation (R673-R679, R979): polynomial, register and count, and the reason of a poisoned write. -/
structure CrcSt where
  poly   : Nat
  reg    : DWord
  count  : DWord
  poison : Option PoisonRsn
  deriving DecidableEq, Repr

/-- A CRC unit with nothing computed. -/
def CrcSt.zero : CrcSt := ⟨0, 0, 0, none⟩

/-- The port dies and the CRC units. -/
structure PortState where
  pcieIn   : Map (List PcieIn)
  pcieOut  : Map (List PcieOut)
  /-- the endpoint answers configuration requests with Retry Status (R624), by port die -/
  retry    : Map Bool
  /-- bytes of Ethernet transmit slots: slot * 16384 + offset (R641) -/
  txmem    : Map Byte
  /-- committed frames in commit order, by port die -/
  tx       : Map (List EthFrame)
  /-- status entries not yet popped, by MAC (R643, R648) -/
  txst     : Map (List DWord)
  /-- next sequence number of a stream: 32 * p + stream (R646) -/
  txSeq    : Map (BitVec 16)
  gcl      : Map GclRun
  /-- when a scheduled gate list becomes operating; none where no instant qualifies (R650) -/
  gclAt    : Map (Option Nat)
  /-- recovery state of a stream: 32 * p + stream (R651) -/
  frer     : Map FrerSt
  /-- frames in intake buffers, by port die -/
  frames   : Map (List Frame)
  /-- frames being discarded for want of a buffer: CSI-2 port and VC, by port die (R657) -/
  dropping : Map (List (Nat × Nat))
  /-- frames dropped since a source's previous descriptor (R661): (p * 12 + source) * 16 + VC -/
  dropCnt  : Map Nat
  ctx      : Map CtxSt
  crc      : Map CrcSt
  deriving DecidableEq, Repr

/-- Nothing received, nothing sent. -/
def PortState.init : PortState := ⟨[], [], [], [], [], [], [], [], [], [], [], [], [], [], []⟩

end Sys2Proof.Machine
end

