-- ==== Sys2Proof/Machine/StateQe.lean ====
section
/-! DEFINITION. The state of the queue engines (chapter 09) that is in no register. Queue `q` of hub `h` has key
`h * 4096 + q`; its indices and its state stand in QE_Q_PI, QE_Q_CQH, QE_Q_IDX and QE_Q_STAT. -/

namespace Sys2Proof.Machine

open Sys2Proof

/-- A completion record before PHASE and QSTOP are known (R582), and whether its descriptor asks for the queue event. -/
structure QRec where
  cookie : Word
  index  : BitVec 16
  status : Status
  late   : Bool
  rsn    : PoisonRsn
  detail : Nat
  xfer   : Nat
  tstamp : Word
  evt    : Bool
  deriving DecidableEq, Repr

/-- Where a transaction pair of a descriptor stands (R577, R579): being read, read and not yet written, being written, or over. -/
inductive QPhase where
  | reading (tag : Nat)
  | held (data : List (Byte × Bool))
  | writing (tag : Nat)
  /-- over: the write completed with OK or not -/
  | over (ok : Bool)
  deriving DecidableEq, Repr

/-- A started chunk of a descriptor: at most 256 bytes at an offset (R577); the poison its read returned (R578); and the status
that failed it, with the side it came from (R579, R584). -/
structure QChunk where
  off   : Nat
  len   : Nat
  phase : QPhase
  rsn   : Option PoisonRsn
  fail  : Option (Status × Nat)
  deriving DecidableEq, Repr

/-- An accepted descriptor (R573, R575). `fetch` is the tag of the fetch in flight, `next` the offset of the next chunk, `taken`
says that an intake frame has taken the buffer (R656), `fin` holds the record that is due. -/
structure QDesc where
  index    : BitVec 16
  fetch    : Option Nat
  src      : Nat
  dst      : Nat
  len      : Nat
  evt      : Bool
  fence    : Bool
  fixedSrc : Bool
  fixedDst : Bool
  cookie   : Word
  next     : Nat
  chunks   : List QChunk
  late     : Bool
  taken    : Bool
  fin      : Option QRec
  deriving DecidableEq, Repr

/-- A queue: active descriptors in index order; records held for the ring (R587, R590, R598), oldest first; the record whose write
is in flight, with its tag and its bits; the state before ERROR; whether the queue stops after the active descriptors; whether
RETRY has been written. -/
structure QSt where
  active    : List QDesc
  held      : List QRec
  writing   : Option (Nat × BitVec 128)
  before    : Nat
  stopAfter : Bool
  retry     : Bool
  deriving DecidableEq, Repr

/-- A queue that does nothing. -/
def QSt.zero : QSt := ⟨[], [], none, 0, false, false⟩

/-- The scheduler of a hub (R595): the queue whose turn runs and the transactions left of it, the last queue served of each class,
and the turns in a row given to class P while a B queue was ready. -/
structure QSched where
  turn  : Option (Nat × Nat)
  last  : Vector Nat 3
  pRun  : Nat
  deriving DecidableEq, Repr

/-- A scheduler that has served nothing. -/
def QSched.zero : QSched := ⟨none, Vector.replicate 3 0, 0⟩

/-- The queue engines: queues, event FIFOs by hub (R588), schedulers by hub. -/
structure QeState where
  queues : Map QSt
  evts   : Map (List Nat)
  scheds : Map QSched
  deriving DecidableEq, Repr

/-- Every queue idle. -/
def QeState.init : QeState := ⟨[], [], []⟩

end Sys2Proof.Machine
end

