-- ==== Sys2Proof/Machine/StateRst.lean ====
section
/-! DEFINITION. Resets, start-up, the safe-state controller, clocks and power (chapters 14, 15 and 16): what is in no register. -/

namespace Sys2Proof.Machine

open Sys2Proof

/-- A reset of a narrower scope that waits for its end (R936-R941). -/
inductive ResetRun where
  | hub (h : Nat)
  | die (ld : Nat)
  | port (p : Nat)
  | acre (a : Nat)
  /-- the BIST of a logic die after its reset (R939) -/
  | bist (ld : Nat)
  deriving DecidableEq, Repr

/-- An entry into a power state (R898-R902): the state, whether the commit point has passed, whether the PWR_MODE command runs it. -/
structure Entry where
  mode      : Nat
  committed : Bool
  deriving DecidableEq, Repr

/-- Resets, start-up, clocks and power. -/
structure RstState where
  /-- hubs whose hub reset runs (R936) -/
  hubs     : BitVec 2
  /-- resets of dies and acres that run (R930) -/
  running  : List ResetRun
  /-- a warm device reset runs its quiescing steps (R933) -/
  warm     : Bool
  /-- WRST_N asked for it, not a command (R962) -/
  warmPin  : Bool
  /-- hubs that have finished steps 1 to 3 of R933 -/
  warmDone : BitVec 2
  /-- the start-up that runs or ran last followed a power-on reset (R944, R947) -/
  powerOn  : Bool
  /-- hubs whose DRAM has been lost since it was last trained (R464, R871) -/
  lost     : BitVec 2
  /-- firmware units that could not boot (R1010) -/
  noFw     : List Nat
  /-- fuse: the safety watchdog is enabled (R842) -/
  wdtFuse  : Bool
  /-- PARK is being held: everything but the AO domain is off (R897) -/
  parked   : Bool
  /-- SAFE_N is low for a start-up that has not reached its first stage 1 (R958) -/
  safeLow  : Bool
  /-- causes recorded in the present SAFE period (R954) -/
  causes   : Nat
  /-- third-party dies found at sites 0.8 and 3.8 (R44, R51): TYPE, 0 when absent -/
  xdies    : Map Byte
  entry    : Option Entry
  /-- the device has reached IDLE, STANDBY or PARK -/
  asleep   : Bool
  /-- wake events latched since the WFI (R900, R901) -/
  wakes    : BitVec 8
  /-- the wake timer runs (R905) -/
  timer    : Bool
  /-- samples in a row: below 95 % of CAP_W; above CAP_W at level 4; above 200 W (R893, R895, R896) -/
  below    : Nat
  capped   : Nat
  above    : Nat
  /-- valid readings taken by each sensor since its die was powered, up to 2, and whether the last one was at or above 130.0 C: by
  CSR space * 4 + sensor (R919, R920) -/
  readings : Map Nat
  hotOnce  : Map Bool
  /-- logic dies being ungated, by site (R917) -/
  ungating : List Nat
  /-- monitor windows in range in a row, up to 2, by hub (R851) -/
  windows  : Map Nat
  /-- a CPLL of a hub relocks (R862) -/
  relock   : BitVec 2
  /-- a REFCLK fault waits for IOSC READY at a hub (R868, R873) -/
  faulted  : BitVec 2
  /-- DDR5 of a hub has not been put into self-refresh since the fault (R871) -/
  noRefresh : BitVec 2
  /-- a load of the calendar waits for the next AO tick (R1001) -/
  calLoad  : Option (DWord × Word)
  /-- the calendar: seconds and fraction (R1000) -/
  calSec   : DWord
  calFrac  : Word
  /-- operating minutes since the last periodic write (R989) -/
  minutes  : Nat
  /-- AO_RC serves the AO domain (R877) -/
  onRc     : Bool
  /-- the firmware unit that restarts (R1008) -/
  restart  : Option Nat
  deriving DecidableEq, Repr

/-- A power-on reset of the AO domain has just run (R928). SAFE_N is low (R958). -/
def RstState.init : RstState where
  hubs := 0
  running := []
  warm := false
  warmPin := false
  warmDone := 0
  powerOn := true
  lost := 3
  noFw := []
  wdtFuse := false
  parked := false
  safeLow := true
  causes := 0
  xdies := []
  entry := none
  asleep := false
  wakes := 0
  timer := false
  below := 0
  capped := 0
  above := 0
  readings := []
  hotOnce := []
  ungating := []
  windows := []
  relock := 0
  faulted := 0
  noRefresh := 0
  calLoad := none
  calSec := 0
  calFrac := 0
  minutes := 0
  onRc := false
  restart := none

end Sys2Proof.Machine
end

