-- ==== Sys2Proof/Machine/State.lean ====
section
/-! DEFINITION. The state of the device: every register, memory, queue and mode the spec names, as plain data; what makes a
step stop; and the state after reset. -/

namespace Sys2Proof.Machine

open Sys2Proof

/-- Why a step stops with a fault. The spec gives every command of this block an effect, so there is no reason: the type is
empty (safe: nothing stops here). -/
inductive Fault where
  deriving DecidableEq, Repr

/-- Why a command is refused. -/
inductive Refusal where
  /-- Raised by the dispatch alone, for a command whose meaning is not written; `mnemonic` is its row's. Safe: nothing is
  claimed of that command. -/
  | notModelled (mnemonic : String)
  deriving DecidableEq, Repr

/-- The whole state of the block. -/
structure State where
  /-- every register whose value differs from its reset value, by key (Fields.lean) -/
  regs : Map Word
  /-- high words and shown values latched for a master (R12) -/
  latches : List Latch
  /-- what the device has sent, oldest first (log entry 2) -/
  out : List Out
  /-- the model's own: how many free values have been taken (log entry 3) -/
  freeCtr : Nat
  /-- error collector, reports on their way, injections (chapter 17) -/
  errs : ErrState
  /-- device time (chapter 09) -/
  tb : TbState
  /-- the ring network (chapter 05) -/
  ring : RingState
  /-- the fabric of every logic die (chapters 02, 03, 04) -/
  fab : FabState
  /-- the die links (chapter 06) -/
  links : LinkState
  /-- the hub firewalls, by hub (chapter 06) -/
  fwl : Map FwlSt
  /-- gate, memory and SRAM user windows are fenced: from the commit of a STANDBY or PARK entry to the end of the wake (R903) -/
  fenced : Bool
  /-- memory, its controllers and its protection (chapters 07, 08) -/
  mem : MemState
  /-- the queue engines (chapter 09) -/
  qe : QeState
  /-- the port dies and the CRC units (chapter 10) -/
  port : PortState
  /-- the lifetime store and the flash firmware area (chapter 18) -/
  lts : LtsState
  /-- command transports and debug authorization (chapters 12, 13) -/
  cmd : CmdState
  /-- the configuration master (chapter 11) -/
  cfg : CfgState
  /-- processors, debug modules, semaphores, watchdogs (chapter 13) -/
  cpu : CpuState
  /-- resets, start-up, clocks and power (chapters 14, 15, 16) -/
  rst : RstState
  /-- commands that are waiting, first in, first out -/
  pending : List Instr
  deriving DecidableEq, Repr

/-- No record, no report, no injection. -/
def ErrState.init : ErrState :=
  ⟨[], none, [], [], [], []⟩

/-- Device time 0, followers not valid (R600, R608). -/
def TbState.init : TbState :=
  ⟨0, none, 0, []⟩

/-- No transaction, no plan, no flow (R304, R328). -/
def RingState.init : RingState :=
  { txns := [], seqOut := [], seqIn := [], incomplete := [], shadow := [], active := [], flows := [], committing := none, slots := [],
    waits := [], pRun := [], released := [], slowWin := [], clean := [], openRows := [], treq := [], gateWait := [], ireq := [], msgs := [],
    inbox := [] }

/-- Every acre EMPTY (R716). -/
def FabState.init : FabState where
  frames := []
  latched := []
  drivers := []
  places := []
  cubits := []
  chans := []
  divs := []
  past := ⟨[], [], [], []⟩
  past2 := ⟨[], [], [], []⟩
  nowEdge := []
  trigIn := []
  pinSet := []
  pinHeld := []
  snaps := []
  probes := []
  rows := []
  bushels := []
  diags := []
  tiles := []
  tmem := []
  imem := []

/-- Every link untrained: DETECT, no marks, nothing in any retry buffer (R369). -/
def LinkState.init : LinkState :=
  ⟨[], []⟩

/-- The machine right after a power-on reset of the AO domain (R928, R932): start-up waits in SP0, every register reads its
reset value, every memory is unlisted, the queue is empty. Values the spec does not give are named in log entries 3 to 6. -/
def State.reset : State where
  regs := []
  latches := []
  out := []
  freeCtr := 0
  errs := ErrState.init
  tb := TbState.init
  ring := RingState.init
  fab := FabState.init
  links := LinkState.init
  fwl := []
  fenced := false
  mem := MemState.init
  qe := QeState.init
  port := PortState.init
  lts := LtsState.init
  cmd := CmdState.init
  cfg := CfgState.init
  cpu := CpuState.init
  rst := RstState.init
  pending := []

end Sys2Proof.Machine
end

