-- ==== Sys2Proof/Machine/Ops.lean ====
section
/-! DEFINITION. The operations every block shares: reading and writing registers and their fields, saturating counters,
outputs, free values, Level S, the placement of logical dies, CRC-32C, error reports and the error log. -/

namespace Sys2Proof.Machine

open Sys2Proof

/-! ### Registers -/

/-- What is left of byte offset `d` within the indexes `dims`, if every index is in range. -/
def dimsHit : List (Nat × Nat) → Nat → Option Nat
  | [], d => some d
  | (n, st) :: ds, d => if d / st < n then dimsHit ds (d % st) else none

/-- Which word of row `r` byte offset `off` names: 0 the low word, 1 the high word of a 64-bit register (R10). -/
def RegRow.word? (r : RegRow) (off : Nat) : Option Nat :=
  if off < r.base then none else
  match dimsHit r.dims (off - r.base) with
  | some 0 => some 0
  | some 4 => if r.wide then some 1 else none
  | _ => none

/-- The register at offset `off` among `rows`, with the word named. -/
def findReg (rows : List RegRow) (off : Nat) : Option (RegRow × Nat) :=
  match rows with
  | [] => none
  | r :: rs => match r.word? off with
    | some w => some (r, w)
    | none => findReg rs off

/-- The register tables of a CSR space (Fields.lean numbers the spaces). -/
def spaceRegs (sp : Nat) : List RegRow :=
  if sp = 0 then hubRegs ++ hubZeroRegs else if sp = 1 then hubRegs else if sp < 6 then portRegs
  else if 8 ≤ sp ∧ sp < 72 then ldcRegs else if 80 ≤ sp ∧ sp < 82 then dbgRegs else []

/-- The register a key names. -/
def regAt (key : Nat) : Option (RegRow × Nat) := findReg (spaceRegs (key / 0x1000000)) (key % 0x1000000)

/-- The SITE register's strap value: row in [5:4], column in [3:0] (R42). -/
def siteStrap (sp : Nat) : Nat := if sp < 2 then 0x18 + 0x10 * sp else if sp < 6 then (sp - 2) * 16 else sp - 8

/-- What a register word reads as until something changes it: its reset value (log entry 4 for fuses and straps). -/
def csrDefault (key : Nat) : Word :=
  if key % 0x1000000 = 0xC ∧ key / 0x1000000 < 72 then BitVec.ofNat 32 (siteStrap (key / 0x1000000)) else
  match regAt key with
  | some (r, w) => BitVec.ofNat 32 (r.reset / 2 ^ (32 * w))
  | none => 0

/-- The word a register holds. -/
def State.csr (s : State) (key : Nat) : Word := mapGet s.regs (csrDefault key) key

/-- Put a word into a register. -/
def State.setCsr (s : State) (key : Nat) (v : Word) : State :=
  { s with regs := mapSet s.regs (csrDefault key) key v }

/-- The value of a 64-bit register (R10). -/
def State.csr64 (s : State) (key : Nat) : DWord := s.csr (key + 4) ++ s.csr key

/-- Put a value into a 64-bit register. -/
def State.setCsr64 (s : State) (key : Nat) (v : DWord) : State :=
  (s.setCsr key (v.setWidth 32)).setCsr (key + 4) ((v >>> 32).setWidth 32)

/-- The value of a field. -/
def State.fld (s : State) (f : Fld) : Nat := (s.csr f.key).toNat / 2 ^ f.lo % 2 ^ f.w

/-- A word with bits [lo + w - 1 : lo] replaced by `n` modulo 2^w. -/
def putBits (old : Word) (lo w n : Nat) : Word :=
  let m := BitVec.ofNat 32 ((2 ^ w - 1) * 2 ^ lo)
  (old &&& ~~~m) ||| (BitVec.ofNat 32 (n % 2 ^ w * 2 ^ lo) &&& m)

/-- Put a value into a field. -/
def State.setFld (s : State) (f : Fld) (n : Nat) : State := s.setCsr f.key (putBits (s.csr f.key) f.lo f.w n)

/-- A one-bit field as a Bool. -/
def State.bit (s : State) (f : Fld) : Bool := s.fld f ≠ 0

/-- Put a Bool into a one-bit field. -/
def State.setBit (s : State) (f : Fld) (b : Bool) : State := s.setFld f b.toNat

/-- Add to a saturating counter field. -/
def State.satAdd (s : State) (f : Fld) (n : Nat) : State := s.setFld f (min (s.fld f + n) (2 ^ f.w - 1))

/-- Increment a saturating counter field. -/
def State.satInc (s : State) (f : Fld) : State := s.satAdd f 1

/-- Return the registers `p` names to their reset values. -/
def State.resetRegs (s : State) (p : Nat → Bool) : State := { s with regs := mapDrop p s.regs }

/-- Append to what the device has sent. -/
def State.send (s : State) (o : Out) : State := { s with out := s.out ++ [o] }

/-- The next free value (log entry 3), and the state that has taken it. -/
def State.free (s : State) : BitVec 512 × State := (Config.freeLine s.freeCtr, { s with freeCtr := s.freeCtr + 1 })

/-! ### Bits and bytes -/

/-- The low `w` bits of `v` from bit `lo`. -/
def bitsOf {n : Nat} (v : BitVec n) (lo w : Nat) : Nat := v.toNat / 2 ^ lo % 2 ^ w

/-- Byte `i` of a value, byte 0 least significant (R9). -/
def byteOf {n : Nat} (v : BitVec n) (i : Nat) : Byte := v.extractLsb' (8 * i) 8

/-- The first `n` bytes of a value, byte 0 first (R9). -/
def bytesOf {m : Nat} (v : BitVec m) (n : Nat) : List Byte := (List.range n).map (byteOf v)

/-- The number little-endian bytes spell (R9). -/
def leNat : List Byte → Nat
  | [] => 0
  | b :: bs => b.toNat + 256 * leNat bs

/-- The 32-bit word little-endian bytes spell. -/
def leWord (bs : List Byte) : Word := BitVec.ofNat 32 (leNat bs)

/-- The exclusive or of all bits of a value. -/
def parity {n : Nat} (v : BitVec n) : Bool := (List.range n).foldl (fun p i => p ^^ v.getLsbD i) false

/-- A value as a signed number of `w` bits. -/
def signedOf (w n : Nat) : Int := if n < 2 ^ (w - 1) then n else (n : Int) - 2 ^ w

/-! ### CRC-32C (R301) -/

/-- One bit of the reflected CRC-32C register. -/
def crcBit (r : Word) : Word := if r.getLsbD 0 then (r >>> 1) ^^^ 0x82F63B78#32 else r >>> 1

/-- One byte into the reflected CRC-32C register. -/
def crcByte (r : Word) (b : Byte) : Word :=
  crcBit (crcBit (crcBit (crcBit (crcBit (crcBit (crcBit (crcBit (r ^^^ b.setWidth 32))))))))

/-- CRC-32C over bytes with the register loaded as `init`, final XOR applied (R301). -/
def crc32c (init : Word) (bs : List Byte) : Word := bs.foldl crcByte init ^^^ 0xFFFFFFFF#32

/-! ### Masters -/

/-- Level S (R807): the MC's secure partitions and the application cores delegated to. -/
def State.levelS (s : State) (mid : Nat) : Bool :=
  mid = 0x010 || mid = 0x011 ||
    (List.range 2).any fun h => (List.range 4).any fun c =>
      mid = 0x041 + 16 * h + 2 * c && (s.fld (HUB_CPU_CTL_DELEG h)).testBit c

/-! ### Placement -/

/-- Whether a site is a logic site (R18). -/
def isLogicSite (site : Nat) : Bool := site % 16 ≠ 0 && site % 16 ≠ 8

/-- The logical die a site holds, if any (R49). -/
def State.ldOf (s : State) (site : Nat) : Option Nat :=
  if s.bit (HUB_SITE_STAT_LD_VALID 0 site) then some (s.fld (HUB_SITE_STAT_LD 0 site)) else none

/-- The site that holds a logical die, if any (R49). -/
def State.siteOf (s : State) (ld : Nat) : Option Nat := (List.range 64).find? (fun site => s.ldOf site = some ld)

/-- The number a site's blocks report as their UNIT: the logical die (R987); a site without one reports its number + 64
(log entry 12). -/
def State.unitOf (s : State) (site : Nat) : Nat := (s.ldOf site).getD (64 + site)

/-! ### Device time -/

/-- Device time in ns and VALID, from the follower of the die of CSR space `sp` (R606, R610). -/
def State.dieTime (s : State) (sp : Nat) : DWord × Bool :=
  let f := mapGet s.tb.followers ⟨0, false, 0⟩ sp
  (f.time.extractLsb' 32 64, f.valid)

/-- Device time of the master in ns (R599). -/
def State.now (s : State) : Nat := s.tb.time.toNat / 2 ^ 32

/-! ### Modes -/

/-- The device is in SAFE (R961, GET_STATE in R788). -/
def State.safe (s : State) : Bool := s.fld RST_STAT_STATE = 2

/-! ### Error reports (chapter 17) -/

/-- Severities (R963). -/
def sevCorrected : Nat := 0
def sevDeferred : Nat := 1
def sevUncorrected : Nat := 2
def sevFatal : Nat := 3

/-- Add a report to those a block holds: at most one per CODE, further events adding to REPEAT (R968). -/
def addReport : List Report → ErrRec → List Report
  | [], e => [⟨e, true⟩]
  | r :: rs, e =>
    if r.entry.block = e.block ∧ r.entry.unit = e.unit ∧ r.entry.code = e.code then
      { r with entry := { r.entry with repeats := min (r.entry.repeats + e.repeats + 1) 255 } } :: rs
    else r :: addReport rs e

/-- A block of CSR space `sp` reports an event to the collector (R966, R967). -/
def State.report (s : State) (sp block unit code sev : Nat) (addr : DWord) (info : Word) (inj : Bool := false) : State :=
  let t := s.dieTime sp
  let e : ErrRec := ⟨t.1, 0, block, unit, code, sev, t.2, inj, 0, s.fld RST_STAT_PHASE, addr, info⟩
  { s with errs := { s.errs with reports := addReport s.errs.reports e } }

/-- Set an error flag and report it: CODE is the register's index in the source table and the flag's bit (R966, R987). -/
def State.raise (s : State) (f : Fld) (sp block unit regIdx sev : Nat) (addr : DWord) (info : Word) (inj : Bool := false) :
    State :=
  (s.setFld f 1).report sp block unit (regIdx * 256 + f.lo) sev addr info inj

/-- The first record whose severity is below `sev`, taken out (R971). -/
def dropBelow (sev : Nat) : List ErrRec → Option (List ErrRec)
  | [] => none
  | e :: es => if e.sev < sev then some es else (dropBelow sev es).map (e :: ·)

/-- PEND bit of a severity (R973, R986). -/
def State.setPend (s : State) (sev : Nat) : State := s.setCsr HUB_ERR_PEND (putBits (s.csr HUB_ERR_PEND) sev 1 1)

/-- Put a new record at the end of the log, with the next SEQ, and show the count (R969, R971). -/
def State.putRecord (s : State) (e : ErrRec) (log : List ErrRec) : State :=
  let n := (s.csr HUB_ERR_NEXT_SEQ)
  let s1 := { s with errs := { s.errs with log := log ++ [{ e with seq := n.toNat }], lastAppend := some s.now } }
  ((s1.setCsr HUB_ERR_NEXT_SEQ (n + 1)).setFld HUB_ERR_STAT_COUNT (log.length + 1)).setPend e.sev

/-- A report reaches the collector: it is coalesced with the newest record, appended, put in place of a less severe one, or
dropped (R969-R971, R973). -/
def State.collect (s : State) (e : ErrRec) : State :=
  if e.sev = sevCorrected ∧ (s.csr64 HUB_ERR_CMASK).getLsbD e.block then s else
  match s.errs.log.getLast? with
  | some n =>
    if n.block = e.block ∧ n.unit = e.unit ∧ n.code = e.code ∧ n.addr = e.addr ∧ s.errs.lastAppend.any (fun l => decide (s.now < l + 1000000)) then
      let n' := { n with repeats := min (n.repeats + e.repeats + 1) 255 }
      { s with errs := { s.errs with log := s.errs.log.dropLast ++ [n'] } }.setPend e.sev
    else if s.errs.log.length < 512 then s.putRecord e s.errs.log
    else match dropBelow e.sev s.errs.log with
      | some log => s.putRecord e log
      | none => (s.satInc HUB_ERR_STAT_LOST_CNT).setFld HUB_ERR_PEND_LOST 1
  | none => s.putRecord e []

/-- The error interrupt to the MC of H0 (R974). -/
def State.errIrq (s : State) : Bool := (s.csr HUB_ERR_PEND &&& s.csr HUB_ERR_IEN) ≠ 0

/-- The level of an injection's record at a location, if one is tracked there (R985). -/
def State.injectedAt (s : State) (target key : Nat) : Bool :=
  s.errs.injected.any (fun i => i.target = target && i.key = key)

/-- A location is detected or overwritten: its injection is no longer tracked (R985). -/
def State.dropInjected (s : State) (target key : Nat) : State :=
  { s with errs := { s.errs with injected := s.errs.injected.filter (fun i => !(i.target = target && i.key = key)) } }

/-- The lowest of the numbers below `n` that is free, where at most `used` of them are not (so the search may stop there). -/
def lowestFree (n used : Nat) (free : Nat → Bool) : Option Nat := (List.range (min n (used + 1))).find? free

end Sys2Proof.Machine
end

