-- ==== Sys2Proof/Machine/Codes.lean ====
section
/-! DEFINITION. The codes the spec gives in full: SEC-DED(13,8) of R186 and R187, for bushels and MAC tiles. -/

namespace Sys2Proof.Machine

open Sys2Proof

/-- The check bits c[4:0] of a byte (R186). -/
def secCheck (d : Byte) : BitVec 5 :=
  let b (i : Nat) := d.getLsbD i
  let c0 := b 0 ^^ b 1 ^^ b 3 ^^ b 4 ^^ b 6
  let c1 := b 0 ^^ b 2 ^^ b 3 ^^ b 5 ^^ b 6
  let c2 := b 1 ^^ b 2 ^^ b 3 ^^ b 7
  let c3 := b 4 ^^ b 5 ^^ b 6 ^^ b 7
  let c4 := (parity d ^^ c0) ^^ (c1 ^^ c2 ^^ c3)
  BitVec.ofNat 5 (c0.toNat + 2 * c1.toNat + 4 * c2.toNat + 8 * c3.toNat + 16 * c4.toNat)

/-- A byte with its check bits, as R185 lays a strong group out: data in [7:0], check in [12:8]. -/
def secEncode (d : Byte) : BitVec 13 := secCheck d ++ d

/-- What decoding a coded byte gives (R187). -/
structure SecOut where
  data : Byte
  ce   : Bool
  ue   : Bool
  deriving DecidableEq, Repr

/-- The data bit at a Hamming position, if the position is a data bit's (R187). -/
def secPosition : Nat → Option Nat
  | 3 => some 0 | 5 => some 1 | 6 => some 2 | 7 => some 3
  | 9 => some 4 | 10 => some 5 | 11 => some 6 | 12 => some 7
  | _ => none

/-- Decode a coded byte (R187). -/
def secDecode (w : BitVec 13) : SecOut :=
  let d : Byte := w.extractLsb' 0 8
  let s := ((secCheck d ^^^ w.extractLsb' 8 5).toNat) % 16
  if parity w then
    if s = 0 then ⟨d, true, false⟩
    else if s ≤ 12 then
      match secPosition s with
      | some i => ⟨d ^^^ BitVec.twoPow 8 i, true, false⟩
      | none => ⟨d, true, false⟩
    else ⟨d, false, true⟩
  else if s = 0 then ⟨d, false, false⟩ else ⟨d, false, true⟩

/-- Eight bytes with their codes, byte 0 lowest (R222). -/
def secEncode8 (v : DWord) : BitVec 104 :=
  (List.range 8).foldl (fun r j => r ||| ((secEncode (byteOf v j)).setWidth 104 <<< (13 * j))) 0

/-- The decoded double word, and whether any byte was corrected or uncorrectable (R187, R254). -/
structure SecWord where
  data : DWord
  ce   : Bool
  ue   : Bool
  deriving DecidableEq, Repr

/-- Decode eight coded bytes. -/
def secDecode8 (w : BitVec 104) : SecWord :=
  (List.range 8).foldl (fun r j =>
    let o := secDecode (w.extractLsb' (13 * j) 13)
    ⟨r.data ||| (o.data.setWidth 64 <<< (8 * j)), r.ce || o.ce, r.ue || o.ue⟩) ⟨0, false, false⟩

end Sys2Proof.Machine
end

