-- ==== Sys2Proof/Machine/Access.lean ====
section
/-! DEFINITION. Which blocks answer, and how an access to a register ends before it reaches the register: dies without a clock or
in reset, offsets without a register, peripherals without a clock, gated dies (R6, R11, R397, R618, R733, R868, R878, R915, R937,
R940). -/

namespace Sys2Proof.Machine

open Sys2Proof

/-! ### Sites, places and half-rows -/

/-- The half-row and position of a logic site (R21). -/
def siteHalf (site : Nat) : Nat × Nat :=
  (2 * (site / 16) + (if 8 < site % 16 then 1 else 0), if 8 < site % 16 then site % 16 - 9 else site % 16 - 1)

/-- The place of an acre of a site. -/
def placeKey (site acre : Nat) : Nat := site * 4 + acre

/-- The physical place of an acre of a logical die: where its packets go (R731). -/
def State.acrePlace (s : State) (ld a : Nat) : Option Nat :=
  match (List.range 32).find? (fun k => s.bit (CFG_RELOC_MAP_VALID k) && s.fld (CFG_RELOC_MAP_STOP k) = 8 * ld + a) with
  | some k => some (placeKey (s.fld (CFG_RELOC_MAP_SITE k)) (s.fld (CFG_RELOC_MAP_PACRE k)))
  | none => (s.siteOf ld).map (fun site => placeKey site a)

/-- CFG_ACRE.STATE of a logical acre. -/
def State.acreState (s : State) (la : Nat) : Nat := s.fld (CFG_ACRE_STATE la)

/-- Change it. -/
def State.setAcre (s : State) (la st : Nat) : State := s.setFld (CFG_ACRE_STATE la) st

/-- States of R748. -/
def acEmpty : Nat := 0
def acLoading : Nat := 1
def acLoaded : Nat := 2
def acReleasing : Nat := 3
def acRunning : Nat := 4
def acQuiescing : Nat := 5
def acIsolated : Nat := 6
def acCapturing : Nat := 7
def acRestoring : Nat := 8
def acFailed : Nat := 9
def acLost : Nat := 10

/-- A logic die is power-gated but for its transit island (R915). A die retired in service stays powered until its acres have left it. -/
def State.siteGated (s : State) (site : Nat) : Bool :=
  let st := s.fld (HUB_SITE_STAT_STATE 0 site)
  let ld := s.fld (HUB_SITE_STAT_LD 0 site)
  if st = 2 then !s.cfg.hosts.contains site
  else if st = 3 ∨ st = 4 then true
  else if st = 5 then (List.range 4).all fun a =>
    s.acrePlace ld a ≠ some (placeKey site a) || s.acreState (4 * ld + a) = acEmpty || 9 ≤ s.acreState (4 * ld + a)
  else st = 1 && (s.csr64 PWR_DIE_GATE).getLsbD ld

/-- A valid entry of CFG_RELOC_MAP names the site as a host. -/
def State.relocHost (s : State) (site : Nat) : Bool :=
  (List.range 32).any fun k => s.bit (CFG_RELOC_MAP_VALID k) && s.fld (CFG_RELOC_MAP_SITE k) = site

/-- The register of a logic die's LDC that an offset in hub 0's host windows names (R733). -/
def State.hostKey (s : State) (off : Nat) : Option Nat :=
  let half := (off - 0x800000) / 0x100000
  if off < 0x800000 ∨ 8 ≤ half then none else
  ((List.range 32).find? fun k => s.bit (CFG_RELOC_MAP_VALID k) && (siteHalf (s.fld (CFG_RELOC_MAP_SITE k))).1 = half).map
    fun k => (8 + s.fld (CFG_RELOC_MAP_SITE k)) * 0x1000000 + off % 0x100000

/-- A link number names a link (R351). -/
def linkExists (n : Nat) : Bool :=
  if n < 128 then (n % 32 < 15 || (17 ≤ n % 32 && n % 32 ≤ 23) || (25 ≤ n % 32 && n % 32 ≤ 30)) else n ≤ 130

/-! ### Blocks that answer -/

/-- A hub has a running clock: start-up has left SP1, the package is powered and no REFCLK fault waits for IOSC (R868, R897). -/
def State.hubClocked (s : State) (h : Nat) : Bool :=
  2 ≤ s.fld RST_STAT_PHASE && !s.rst.parked && !s.rst.faulted.getLsbD h

/-- A hub answers: it has a clock and is not in reset. -/
def State.hubAnswers (s : State) (h : Nat) : Bool := s.hubClocked h && !s.rst.hubs.getLsbD h

/-- A port or logic die, by its site, has its clock: REFCLK runs in its half of the package. -/
def State.dieClocked (s : State) (site : Nat) : Bool :=
  2 ≤ s.fld RST_STAT_PHASE && !s.rst.parked && !s.bit (CLK_STAT_REF_FAULT (site / 32))

/-- The registers of a CSR space answer: a die without a clock, in reset, or with a failed BIST does not (log entry 60). -/
def State.spaceAnswers (s : State) (sp : Nat) : Bool :=
  if sp < 2 then s.hubAnswers sp
  else if sp < 6 then
    s.dieClocked (16 * (sp - 2)) && !s.rst.running.contains (.port (sp - 2)) && s.fld (HUB_SITE_STAT_STATE 0 (16 * (sp - 2))) ≠ 0
  else if 8 ≤ sp ∧ sp < 72 then
    s.dieClocked (sp - 8) && (match s.ldOf (sp - 8) with
      | some ld => !s.rst.running.contains (.die ld) && !s.rst.running.contains (.bist ld)
      | none => true)
  else false

/-- An offset lies in one of `n` blocks of `size` bytes from `base` on, whose clock enable is clear in field `f`. -/
def State.clockOff (s : State) (f : Fld) (base size n off : Nat) : Bool :=
  decide (base ≤ off ∧ off < base + n * size) && !(s.fld f).testBit ((off - base) / size)

/-- The peripheral an access reaches has its clock enable clear (R878, R879). -/
def State.penOff (s : State) (key : Nat) : Bool :=
  let sp := key / 0x1000000
  let off := key % 0x1000000
  if sp < 2 then
    s.clockOff (CLK_PEN_QE sp) 0x400000 0x80000 1 off || s.clockOff (CLK_PEN_CRC sp) 0x600000 0x100 4 off ||
      s.clockOff (CLK_PEN_CRC sp) 0x610000 0x1000 4 off || s.clockOff (CLK_PEN_CXL sp) 0x240000 0x10000 2 off
  else if sp < 6 then
    s.clockOff (CLK_PRT_PEN_MAC (sp - 2)) 0x80000 0x1000 4 off || s.clockOff (CLK_PRT_PEN_INT (sp - 2)) 0xA0000 0x1000 8 off ||
      s.clockOff (CLK_PRT_PEN_CTX (sp - 2)) 0xC0000 0x100 2 off || s.clockOff (CLK_PRT_PEN_CRC (sp - 2)) 0xD0000 0x100 2 off ||
      s.clockOff (CLK_PRT_PEN_CRC (sp - 2)) 0x600000 0x1000 2 off
  else false

/-- How an access to a logic die's LDC ends that does not reach it: a site that holds neither a logical die nor a relocated acre has
no address, a gated die is fenced (R6, R915). -/
def State.siteCheck (s : State) (site : Nat) : Status :=
  if !isLogicSite site || ((s.ldOf site).isNone && !s.relocHost site) then .errTarget
  else if s.siteGated site then .errFenced else .ok

/-- How an access to a register ends that does not reach it; OK if it reaches it (R6, R11, R351, R618, R733, R878, R915). -/
def State.keyCheck (s : State) (key : Nat) : Status :=
  let sp := key / 0x1000000
  let off := key % 0x1000000
  let lnk := sp = 0 ∧ ((0x110000 ≤ off ∧ off < 0x111000 ∧ !linkExists (off % 0x400 / 4)) ∨
    (0x111000 ≤ off ∧ off < 0x112060 ∧ !linkExists ((off - 0x111000) / 0x20)))
  if (regAt key).isNone || lnk || s.penOff key then .errTarget
  else if 8 ≤ sp then s.siteCheck (sp - 8) else .ok

/-! ### Writes as commands -/

/-- Latches of a master are dropped (R12). -/
def State.dropLatches (s : State) (mid : Nat) (keys : List Nat) : State :=
  { s with latches := s.latches.filter fun l => !(l.mid = mid && keys.contains l.key) }

/-- A write that has ended: what it did and the status of its completion. -/
def answerWrite (key : Nat) (r : State × Status) : State := r.1.send (.wrote key r.2)

/-- A commanded access reaches the register. -/
def State.regReached (s : State) (key : Nat) : Bool := s.spaceAnswers (key / 0x1000000) && s.keyCheck key = .ok

/-- A commanded read of a register whose effect, the value sent included, is `f`. -/
def State.regRead (s : State) (key : Nat) (f : State → State) : State :=
  if !s.spaceAnswers (key / 0x1000000) then s
  else match s.keyCheck key with
    | .ok => f s
    | st => answerWrite key (s, st)

/-- A commanded write of a register whose effect is `f`: nothing happens where no die answers, nothing but the status where the access
does not reach the register. -/
def State.regWrite (s : State) (key : Nat) (f : State → State × Status) : State :=
  if !s.spaceAnswers (key / 0x1000000) then s
  else match s.keyCheck key with
    | .ok => answerWrite key (f s)
    | st => answerWrite key (s, st)

/-- A commanded write of a register that only Level S writes (R15). -/
def levelSWrite (s : State) (mid : BitVec 12) (key : Nat) (f : State → State) : State :=
  s.regWrite key fun s => if s.levelS mid.toNat then (f s, .ok) else (s, .errDenied)

end Sys2Proof.Machine
end

