-- ==== Sys2Proof/Machine/Cubit.lean ====
section
/-! DEFINITION. Cubits: configuration, word mode, bit mode, contexts, and what a cubit forms in a cycle (chapter 02). -/

namespace Sys2Proof.Machine

open Sys2Proof

/-! ### Places and clocks -/

/-- The inputs of a cubit in a cycle of its clock (R59, R60): its four ports and CTL3 to CTL0, CTL0 in bit 0. -/
structure CubitIn where
  p0  : Half
  p1  : Half
  p2  : Half
  p3  : Half
  ctl : BitVec 4
  deriving DecidableEq, Repr

/-- The acre of a cubit (R54). -/
def cubitAcre (x y : Nat) : Nat := 2 * (y / 64) + x / 64

/-- The key of a cubit. -/
def cubitKey (site x y : Nat) : Nat := site * 16384 + 128 * y + x

/-- A physical acre's state. -/
def State.place (s : State) (pl : Nat) : PlaceSt := mapGet s.fab.places PlaceSt.zero pl

/-- Change a physical acre's state. -/
def State.setPlace (s : State) (pl : Nat) (p : PlaceSt) : State :=
  { s with fab := { s.fab with places := mapSet s.fab.places PlaceSt.zero pl p } }

/-- The clocks of an acre act on it: GSR is released, and no relocation holds them at their low phase (R155, R725 steps 3 to 8). -/
def State.acreClocked (s : State) (pl : Nat) : Bool := (s.place pl).gsrOff && (s.place pl).stage = 3

/-- A configuration frame of a place (R699). -/
def State.frame (s : State) (pl fidx : Nat) : BitVec 4096 := mapGet s.fab.frames 0 (pl * 16384 + fidx)

/-- A package clock of a die runs: it is locked, and STANDBY has not stopped it (R147, R149, R897). -/
def State.packageClock (s : State) (site n : Nat) : Bool := s.bit (LDC_PCLK_CFG_LOCK site n) && !s.fenced

/-- Whether a clock of a die runs: package clocks 0-7, local user clocks 0-15 as 8-23, no clock above (R57, R58, R147-R153). -/
def State.clockRuns (s : State) (site sel : Nat) : Bool :=
  if sel < 8 then s.packageClock site sel
  else if sel < 24 then
    s.bit (LDC_LCLK_CFG_EN site (sel - 8)) &&
      (s.bit (LDC_LCLK_CFG_FAB site (sel - 8)) || s.packageClock site (s.fld (LDC_LCLK_CFG_PSRC site (sel - 8))))
  else false

/-! ### Configuration of a cubit -/

/-- The 512 configuration bits of a cubit (R55, R699). -/
def State.cubitCfg (s : State) (site x y : Nat) : BitVec 512 :=
  let i := 64 * (y % 64) + x % 64
  (s.frame (placeKey site (cubitAcre x y)) (i / 8)).extractLsb' (512 * (i % 8)) 512

/-- A field of the control block, bit numbers relative to bit 448 (R57). -/
def cubitCtl (cfg : BitVec 512) (lo w : Nat) : Nat := bitsOf cfg (448 + lo) w

/-- MODE: true for bit mode (R57). -/
def cubitBitMode (cfg : BitVec 512) : Bool := cubitCtl cfg 0 1 ≠ 0
/-- CTX_MODE (R57). -/
def cubitCtxMode (cfg : BitVec 512) : Nat := cubitCtl cfg 1 2
/-- CTX_LAST (R57). -/
def cubitCtxLast (cfg : BitVec 512) : Nat := cubitCtl cfg 3 3
/-- CTX_BASE (R57). -/
def cubitCtxBase (cfg : BitVec 512) : Nat := cubitCtl cfg 6 3
/-- CLK_SEL (R57). -/
def cubitClkSel (cfg : BitVec 512) : Nat := cubitCtl cfg 9 5
/-- WCE_EN (R57). -/
def cubitWceEn (cfg : BitVec 512) : Bool := cubitCtl cfg 14 1 ≠ 0
/-- CLR_EN (R57). -/
def cubitClrEn (cfg : BitVec 512) : Bool := cubitCtl cfg 15 1 ≠ 0
/-- BCIN (R57). -/
def cubitBcin (cfg : BitVec 512) : Nat := cubitCtl cfg 16 2
/-- Q_INIT (R57). -/
def cubitQInit (cfg : BitVec 512) : Half := cfg.extractLsb' 480 16
/-- ST_INIT of context `c` (R55). -/
def cubitStInit (cfg : BitVec 512) (c : Nat) : Half := cfg.extractLsb' (320 + 16 * c) 16
/-- The context word of context `c` (R56). -/
def cubitWord (cfg : BitVec 512) (c : Nat) : BitVec 40 := cfg.extractLsb' (40 * c) 40

/-- The start context (R75). -/
def cubitStart (cfg : BitVec 512) : Nat :=
  match cubitCtxMode cfg with
  | 0 => cubitCtxBase cfg
  | 2 => 4 * (cubitCtxBase cfg / 4)
  | _ => 0

/-- The values of priority 1 of R85. -/
def wordInit (cfg : BitVec 512) : CubitSt :=
  ⟨cubitQInit cfg, Vector.ofFn (fun c : Fin 8 => cubitStInit cfg c.val), Vector.replicate 8 0, Fin.ofNat 8 (cubitStart cfg)⟩

/-- The values GSR gives a cubit that held `c` (R98): in bit mode only Q = Q_INIT applies. -/
def cubitInit (cfg : BitVec 512) (c : CubitSt) : CubitSt := if cubitBitMode cfg then { c with q := cubitQInit cfg } else wordInit cfg

/-- A clock domain of a place is held by GSR: GSR is asserted, or its synchronizer has not seen the release edge (R155, R157). -/
def State.gsrHolds (s : State) (pl sel : Nat) : Bool :=
  !(s.place pl).gsrOff || (s.place pl).unseen.getLsbD sel || (s.place pl).fresh.getLsbD sel

/-- The state of a cubit: its GSR values while GSR holds its clock domain and until its first write after (R98, R99, R156, R157). -/
def State.cubit (s : State) (site x y : Nat) : CubitSt :=
  let cfg := s.cubitCfg site x y
  let held := s.gsrHolds (placeKey site (cubitAcre x y)) (cubitClkSel cfg)
  match mapGet s.fab.cubits none (cubitKey site x y) with
  | some c => if held then cubitInit cfg c else c
  | none => cubitInit cfg CubitSt.zero

/-! ### Word mode -/

/-- The context before context `c` (R62). -/
def prevCtx (cfg : BitVec 512) (c : Fin 8) : Fin 8 :=
  if cubitCtxMode cfg = 0 then c else if c.val ≥ 1 then c - 1 else Fin.ofNat 8 (cubitCtxLast cfg)

/-- The condition a COND code tests on a flag set (C bit 0, Z bit 1, N bit 2, V bit 3) (R66). -/
def condTrue (cond : Nat) (f : BitVec 4) : Bool :=
  match cond with
  | 0 => f.getLsbD 0
  | 1 => !f.getLsbD 0
  | 2 => f.getLsbD 1
  | 3 => !f.getLsbD 1
  | 4 => f.getLsbD 2
  | 5 => f.getLsbD 3
  | 6 => f.getLsbD 2 != f.getLsbD 3
  | _ => f.getLsbD 2 == f.getLsbD 3

/-- What an operation gives: the result, the flags it computes, which of them it produces, and its adder's carry out. -/
structure WordOut where
  res   : Half
  flags : BitVec 4
  prod  : BitVec 4
  carry : Bool
  deriving DecidableEq, Repr

/-- A flag set from its four flags (R67). -/
def mkFlags (c z n v : Bool) : BitVec 4 := BitVec.ofNat 4 (c.toNat + 2 * z.toNat + 4 * n.toNat + 8 * v.toNat)

/-- An operation that produces Z and N of its result (R72). -/
def znOut (r : Half) : WordOut := ⟨r, mkFlags false (r == 0) r.msb false, 6, false⟩

/-- The 16-bit adder: sum and flags (R70). -/
def addOut (a b : Half) (cin : Bool) : WordOut :=
  let t := a.toNat + b.toNat + cin.toNat
  let r := BitVec.ofNat 16 t
  ⟨r, mkFlags (decide (2 ^ 16 ≤ t)) (r == 0) r.msb (a.msb == b.msb && r.msb != a.msb), 15, decide (2 ^ 16 ≤ t)⟩

/-- A shift or rotation by `n`: the result and, for `n > 0`, the carry `c` (R71). -/
def shiftOut (a r : Half) (n : Nat) (c : Bool) : WordOut :=
  if n = 0 then ⟨a, mkFlags false (a == 0) a.msb false, 6, false⟩ else ⟨r, mkFlags c (r == 0) r.msb false, 7, false⟩

/-- The word-mode operations (R69-R74). -/
def wordOp (opc : Nat) (a b k : Half) (cin cond : Bool) : WordOut :=
  let n := b.toNat % 16
  match opc with
  | 0x00 => znOut a
  | 0x01 => znOut k
  | 0x02 => addOut a b false
  | 0x03 => addOut a b cin
  | 0x04 => addOut a (~~~b) true
  | 0x05 => addOut a (~~~b) cin
  | 0x06 => { addOut a (~~~b) cin with res := a }
  | 0x07 => znOut (if a.ult b then a else b)
  | 0x08 => znOut (if a.ult b then b else a)
  | 0x09 => znOut (if a.slt b then a else b)
  | 0x0A => znOut (if a.slt b then b else a)
  | 0x0B => znOut (a &&& b)
  | 0x0C => znOut (a ||| b)
  | 0x0D => znOut (a ^^^ b)
  | 0x0E => znOut (a &&& ~~~b)
  | 0x0F => shiftOut a (a <<< n) n (a.getLsbD (16 - n))
  | 0x10 => shiftOut a (a >>> n) n (a.getLsbD (n - 1))
  | 0x11 => shiftOut a (a.sshiftRight n) n (a.getLsbD (n - 1))
  | 0x12 => shiftOut a (a.rotateLeft n) n ((a.rotateLeft n).getLsbD 0)
  | 0x13 => shiftOut a (a.rotateRight n) n (a.rotateRight n).msb
  | 0x14 => znOut (if cond then a else b)
  | 0x15 => znOut (b.extractLsb' 0 8 ++ a.extractLsb' 0 8)
  | 0x16 => znOut ((a.extractLsb' 0 8).setWidth 16)
  | 0x17 => znOut ((a.extractLsb' 8 8).setWidth 16)
  | _ => ⟨0, 0, 0, false⟩

/-- What a word-mode cubit forms in a cycle: operand A, the operation's output, the flag set after it, the condition, and
the carry and zero it passes up (R62-R74, R79, R80). -/
structure WordCycle where
  a     : Half
  out   : WordOut
  flags : BitVec 4
  cond  : Bool
  carry : Bool
  zero  : Bool
  deriving DecidableEq, Repr

/-- The operand a source code selects (R64). -/
def cubitOperand (sel : Nat) (inp : CubitIn) (st stp k : Half) : Half :=
  match sel with
  | 0 => inp.p0
  | 1 => inp.p1
  | 2 => inp.p2
  | 3 => inp.p3
  | 4 => st
  | 5 => stp
  | 6 => k
  | _ => 0

/-- One cycle of a word-mode cubit with carry and zero `below` (R63-R74, R79, R80, R86). -/
def wordCycle (cfg : BitVec 512) (c : CubitSt) (inp : CubitIn) (below : Bool × Bool) : WordCycle :=
  let w := cubitWord cfg c.ctr.val
  let p := prevCtx cfg c.ctr
  let k : Half := w.extractLsb' 11 16
  let a := cubitOperand (bitsOf w 5 3) inp c.st[c.ctr] c.st[p] k
  let b := cubitOperand (bitsOf w 8 3) inp c.st[c.ctr] c.st[p] k
  let src := if w.getLsbD 38 then c.flags[p] else c.flags[c.ctr]
  let cond := condTrue (bitsOf w 35 3) src
  let cinSel := bitsOf w 27 2
  let cin := match cinSel with
    | 0 => false
    | 1 => true
    | 2 => src.getLsbD 0
    | _ => below.1
  let opc := bitsOf w 0 5
  let o := wordOp opc a b k cin cond
  let chained := cinSel == 3 && (opc == 3 || opc == 5 || opc == 6)
  let own := if 0x18 ≤ opc then true else o.flags.getLsbD 1
  let z := if chained then own && below.2 else own
  let f' : BitVec 4 := if z then o.flags ||| 2 else o.flags &&& 13
  let new : BitVec 4 := (c.flags[c.ctr] &&& ~~~o.prod) ||| (f' &&& o.prod)
  ⟨a, o, new, cond, o.carry, z⟩

/-- Y of a word-mode cycle (R68). -/
def wordY (w : BitVec 40) (r : WordCycle) : Half :=
  match bitsOf w 33 2 with
  | 0 => r.out.res
  | 1 => r.a
  | 2 => if r.cond then 0xFFFF else 0
  | _ => 0

/-- What a context loads into Q (R67). -/
def wordQ (w : BitVec 40) (c : CubitSt) (r : WordCycle) : Half :=
  match bitsOf w 31 2 with
  | 0 => r.out.res
  | 1 => c.st[c.ctr]
  | 2 => c.q
  | _ => r.flags.setWidth 16

/-- The next context (R75, R76, R77); SEL0 and SEL1 are CTL2 and CTL3. -/
def nextCtx (cfg : BitVec 512) (c : Nat) (ctl : BitVec 4) : Nat :=
  let last := cubitCtxLast cfg
  match cubitCtxMode cfg with
  | 0 => cubitCtxBase cfg
  | 1 => if last ≤ c then 0 else c + 1
  | 2 => 4 * (cubitCtxBase cfg / 4) + 2 * (ctl.getLsbD 3).toNat + (ctl.getLsbD 2).toNat
  | _ => if last < c then 0 else if ctl.getLsbD 3 then 0 else if ctl.getLsbD 2 then (if c = last then 0 else c + 1) else c

/-- The writes of the active context at an edge (priority 4 of R85). -/
def wordCommit (cfg : BitVec 512) (c : CubitSt) (ctl : BitVec 4) (r : WordCycle) : CubitSt :=
  let w := cubitWord cfg c.ctr.val
  let legal := bitsOf w 0 5 < 0x18
  { q := wordQ w c r
    st := if legal && w.getLsbD 30 then c.st.set c.ctr.val r.out.res c.ctr.isLt else c.st
    flags := if legal && w.getLsbD 29 then c.flags.set c.ctr.val r.flags c.ctr.isLt else c.flags
    ctr := Fin.ofNat 8 (nextCtx cfg c.ctr.val ctl) }

/-- The first case of R85 that holds, below GSR. -/
def wordEdge (cfg : BitVec 512) (c : CubitSt) (inp : CubitIn) (r : WordCycle) : CubitSt :=
  if cubitClrEn cfg && inp.ctl.getLsbD 1 then wordInit cfg
  else if cubitWceEn cfg && !inp.ctl.getLsbD 0 then c
  else wordCommit cfg c inp.ctl r

/-! ### Bit mode -/

/-- The 64 input wires, P0[15:0] lowest (R59). -/
def cubitWires (inp : CubitIn) : BitVec 64 := inp.p3 ++ inp.p2 ++ inp.p1 ++ inp.p0

/-- One grain's combinational output and carry out, given its carry in (R88-R95). -/
def grainOut (cfg : BitVec 512) (inp : CubitIn) (i : Nat) (cin : Bool) : Bool × Bool :=
  let n := bitsOf (cubitWires inp) (4 * i) 4
  let mask := cfg.extractLsb' (16 * i) 16
  if cfg.getLsbD (256 + 4 * i + 3) then
    let x := mask.getLsbD (n % 8)
    let w := mask.getLsbD (8 + n % 8)
    ((x ^^ w) ^^ cin, (x && w) || (x && cin) || (w && cin))
  else (mask.getLsbD n, false)

/-- The outputs of grains 0 to `n - 1` and the carry out of the last (R94-R96). -/
def grainsRun (cfg : BitVec 512) (inp : CubitIn) (cin : Bool) : Nat → Half × Bool
  | 0 => (0, cin)
  | n + 1 =>
    let r := grainsRun cfg inp cin n
    let g := grainOut cfg inp n r.2
    (if g.1 then r.1 ||| BitVec.twoPow 16 n else r.1, g.2)

/-- The carry into grain 0 (R96). -/
def grainCin (cfg : BitVec 512) (below : Bool) : Bool :=
  match cubitBcin cfg with
  | 1 => true
  | 2 => below
  | _ => false

/-- What grain `i`'s flip-flop loads at an edge, below GSR (R92, R93). -/
def grainLoad (cfg : BitVec 512) (ctl : BitVec 4) (q y : Half) (i : Nat) : Bool :=
  let ff := 256 + 4 * i
  let en := ctl.getLsbD (if i < 8 then 0 else 1)
  let sr := ctl.getLsbD (if i < 8 then 2 else 3)
  if cfg.getLsbD (ff + 1) && sr then cfg.getLsbD (ff + 2)
  else if cfg.getLsbD ff && !en then q.getLsbD i
  else y.getLsbD i

/-- The sixteen flip-flops after an edge (R93). -/
def grainsLoad (cfg : BitVec 512) (ctl : BitVec 4) (q y : Half) : Half :=
  (List.range 16).foldl (fun r i => if grainLoad cfg ctl q y i then r ||| BitVec.twoPow 16 i else r) 0

/-! ### Outputs -/

/-- The carry and zero a cubit passes up in a cycle with inputs `inp` and carry and zero `below` from the cubit below (R79, R80, R96,
R97). -/
def State.cubitUp (s : State) (site x y : Nat) (inp : CubitIn) (below : Bool × Bool) : Bool × Bool :=
  let cfg := s.cubitCfg site x y
  if cubitBitMode cfg then ((grainsRun cfg inp (grainCin cfg below.1) 16).2, true)
  else
    let r := wordCycle cfg (s.cubit site x y) inp below
    (r.carry, r.zero)

/-- The output Y in a cycle (R68, R87, R89). -/
def State.cubitY (s : State) (site x y : Nat) (inp : CubitIn) (below : Bool × Bool) : Half :=
  let cfg := s.cubitCfg site x y
  let c := s.cubit site x y
  if cubitBitMode cfg then (grainsRun cfg inp (grainCin cfg below.1) 16).1
  else wordY (cubitWord cfg c.ctr.val) (wordCycle cfg c inp below)

/-- The state after an edge that GSR does not hold (R85, R93). -/
def State.cubitNext (s : State) (site x y : Nat) (inp : CubitIn) (below : Bool × Bool) : CubitSt :=
  let cfg := s.cubitCfg site x y
  let c := s.cubit site x y
  if cubitBitMode cfg then { c with q := grainsLoad cfg inp.ctl c.q (grainsRun cfg inp (grainCin cfg below.1) 16).1 }
  else wordEdge cfg c inp (wordCycle cfg c inp below)

/-- The operation of the cubit's active context (R63). -/
def State.cubitOpc (s : State) (site x y : Nat) : Nat :=
  bitsOf (cubitWord (s.cubitCfg site x y) (s.cubit site x y).ctr.val) 0 5

end Sys2Proof.Machine
end

