-- ==== Sys2Proof/Machine/Route.lean ====
section
/-! DEFINITION. Routing: the value of every span input, chain wire and league segment of a die (R114-R124, R144), and the boundary
channels between dies (R129-R143, R145). -/

namespace Sys2Proof.Machine

open Sys2Proof

/-! ### Wires -/

/-- A league segment of a die: 0 horizontal or 1 vertical, perch row or column, track, segment (R119, R177). -/
structure LeagueSeg where
  orient : Nat
  line   : Nat
  track  : Nat
  seg    : Nat
  deriving DecidableEq, Repr

/-- The number of a segment within its die. -/
def LeagueSeg.index (g : LeagueSeg) : Nat := ((g.orient * 32 + g.line) * 64 + g.track) * 4 + g.seg

/-- The acre of its die in which a segment lies (R119). -/
def LeagueSeg.acre (g : LeagueSeg) : Nat :=
  if g.orient = 0 then 2 * (g.line / 16) + g.seg / 2 else 2 * (g.seg / 2) + g.line / 16

/-- A wire of a die: input wire `n` of a cubit (64-67 are CTL0 to CTL3), output wire `n` of a cubit (R59), the carry or zero a cubit passes
up, chain wire `k` of a perch, a league segment. -/
inductive Wire where
  | inp (x y n : Nat)
  | out (x y n : Nat)
  | up (zero : Bool) (x y : Nat)
  | chain (px py k : Nat)
  | seg (g : LeagueSeg)
  deriving DecidableEq, Repr

/-- A number for each wire of a die. -/
def Wire.number : Wire → Nat
  | .inp x y n => 5 * (128 * (128 * x + y) + n)
  | .out x y n => 5 * (128 * (128 * x + y) + n) + 1
  | .up z x y => 5 * (2 * (128 * x + y) + z.toNat) + 2
  | .chain px py k => 5 * (224 * (32 * px + py) + k) + 3
  | .seg g => 5 * g.index + 4

/-- The reach of chain wire `k` of the 56 in one direction (R117). -/
def chainReach (k : Nat) : Nat := if k < 32 then 1 else if k < 48 then 2 else 4

/-- The coordinates `n` perches on in a direction: east, west, up, down; none outside the die (R114, R118). -/
def perchStep (px py dir n : Nat) : Option (Nat × Nat) :=
  match dir with
  | 0 => if px + n < 32 then some (px + n, py) else none
  | 1 => if n ≤ px then some (px - n, py) else none
  | 2 => if py + n < 32 then some (px, py + n) else none
  | _ => if n ≤ py then some (px, py - n) else none

/-- The perch in which chain wire `k` of a perch ends; none where the wire does not exist (R117, R118). -/
def chainEnd (px py k : Nat) : Option (Nat × Nat) := perchStep px py (k / 56) (chainReach (k % 56))

/-- The perch that drives the chain wire `k` ending in a perch, if it exists (R117, R118). -/
def chainStart (px py k : Nat) : Option (Nat × Nat) :=
  perchStep px py (if k / 56 % 2 = 0 then k / 56 + 1 else k / 56 - 1) (chainReach (k % 56))

/-- The acre of a perch (R54). -/
def perchAcre (px py : Nat) : Nat := 2 * (py / 16) + px / 16

/-- The number of a perch in its acre (R699). -/
def perchIndex (px py : Nat) : Nat := 16 * (py % 16) + px % 16

/-- The segment that tap `t` of a perch taps: horizontal tracks first (R119, R700). -/
def tapSeg (px py t : Nat) : LeagueSeg := if t < 64 then ⟨0, py, t, px / 8⟩ else ⟨1, px, t - 64, py / 8⟩

/-- The perch at position `pos` along a track. -/
def trackPerch (orient line pos : Nat) : Nat × Nat := if orient = 0 then (pos, line) else (line, pos)

/-! ### Configuration of the routing -/

/-- Routing frame `j` of a perch (R699). -/
def State.perchFrame (s : State) (site px py j : Nat) : BitVec 4096 :=
  s.frame (placeKey site (perchAcre px py)) (0x200 + 4 * perchIndex px py + j)

/-- The routing frames of a perch. -/
def State.perchFrames (s : State) (site px py : Nat) : List (BitVec 4096) := (List.range 4).map (s.perchFrame site px py)

/-- The junction field of a perch for a track (R700). -/
def State.junctionOf (s : State) (site orient px py t : Nat) : Nat := bitsOf (s.perchFrame site px py 0) (128 + 128 * orient + 2 * t) 2

/-- A value latched at the isolation of a place (R721). -/
def State.latchedFrame (s : State) (pl fidx : Nat) : BitVec 4096 := mapGet s.fab.latched 0 (pl * 16384 + fidx)

/-- A place whose wires into other acres and dies deliver what is latched: before stage 1 of its release, 0 where nothing is latched
(R144, R145, R716). -/
def State.wiresHeld (s : State) (pl : Nat) : Bool := (s.place pl).stage = 0

/-- What drives a segment (R120): the drive point of a perch, a neighbouring segment through a junction buffer, the inbound driver. -/
inductive SegDriver where
  | point (px py : Nat)
  | junction (g : LeagueSeg)
  | inbound
  deriving DecidableEq, Repr

/-- The enabled driver of a segment, if any (R120-R123, R700, R701). -/
def State.segDriver (s : State) (site : Nat) (g : LeagueSeg) : Option SegDriver :=
  let at_ (pos : Nat) : Nat × Nat := trackPerch g.orient g.line pos
  let field (pos : Nat) : Nat := s.junctionOf site g.orient (at_ pos).1 (at_ pos).2 g.track
  let pl := placeKey site g.acre
  match (List.range 8).find? fun i =>
    (s.perchFrame site (at_ (8 * g.seg + i)).1 (at_ (8 * g.seg + i)).2 0).getLsbD (64 * g.orient + g.track) with
  | some i => some (.point (at_ (8 * g.seg + i)).1 (at_ (8 * g.seg + i)).2)
  | none =>
    if g.seg ≠ 0 ∧ field (if g.seg = 2 then 16 else 8 * g.seg - 1) = 1 then some (.junction { g with seg := g.seg - 1 })
    else if g.seg ≠ 3 ∧ field (8 * g.seg + 7) = 2 then some (.junction { g with seg := g.seg + 1 })
    else if (g.seg = 0 ∨ g.seg = 3) ∧ (if g.orient = 0 then (s.frame pl 0x2002).getLsbD (64 * (g.line % 16) + g.track)
        else g.track < 32 && (s.frame pl 0x2003).getLsbD (32 * (g.line % 16) + g.track)) then some .inbound
    else none

/-! ### Crossings (R129, R130, R137-R139) -/

/-- Tracks per perch row or column of the crossing at an edge of a logical die: 0 where there is none (R129, R130, R138). -/
def crossTracks (ld : Nat) (acre : Nat) (vert : Bool) : Nat :=
  let row := ld / 12
  let col := ld % 12
  if vert then (if acre < 2 then (if row = 0 then 0 else 32) else if row = 3 then 0 else 32)
  else if acre % 2 = 0 then (if col = 0 then 16 else if col = 6 then 32 else 64)
  else if col = 11 then 0 else if col = 5 then 32 else 64

/-- The acre on the other side of an acre's horizontal or vertical edge, if a logic die lies there (R129). -/
def crossPeer (la : Nat) (vert : Bool) : Option Nat :=
  let ld := la / 4
  let a := la % 4
  if crossTracks ld a vert = 0 then none
  else if vert then (if a < 2 then some (la - 48 + 2) else some (la + 48 - 2))
  else if a % 2 = 0 then (if ld % 12 = 0 then none else some (la - 4 + 1))
  else some (la + 4 - 1)

/-- A horizontal crossing is the bridge (R129). -/
def crossBridge (ld acre : Nat) (vert : Bool) : Bool := !vert && crossTracks ld acre vert == 32

/-- The edge of its die that an acre's crossing is at: 0 west, 1 east, 2 up, 3 down (R175, R176). -/
def crossEdge (acre : Nat) (vert : Bool) : Nat := if vert then (if acre < 2 then 3 else 2) else acre % 2

/-- The selection of the crossing at an edge of a die, 0 for none (R139, R175). -/
def State.crossSel (s : State) (site edge : Nat) : Nat :=
  match edge with
  | 0 => s.fld (LDC_CHAN_SEL_WEST site)
  | 1 => s.fld (LDC_CHAN_SEL_EAST site)
  | 2 => s.fld (LDC_CHAN_SEL_UP site)
  | _ => s.fld (LDC_CHAN_SEL_DOWN site)

/-- Where the wires into an acre's edge come from: an acre of the neighbouring die, or a port die. -/
inductive CrossSrc where
  | acre (pl : Nat)
  | port (p : Nat)
  deriving DecidableEq, Repr

/-- The source of the crossing at an acre's edge; none where there is no crossing, none is selected, or no die holds the neighbouring
logical die (R129, R137-R139). -/
def State.crossSrc (s : State) (pl : Nat) (vert : Bool) : Option CrossSrc :=
  match s.ldOf (pl / 4) with
  | none => none
  | some ld =>
    if s.crossSel (pl / 4) (crossEdge (pl % 4) vert) = 0 then none else
    match crossPeer (4 * ld + pl % 4) vert with
    | some lb => (s.siteOf (lb / 4)).map fun site => .acre (placeKey site (lb % 4))
    | none => if crossTracks ld (pl % 4) vert = 16 then some (.port (ld / 12)) else none

/-- The source die of a crossing is in service: not in die reset, not retired (R137). -/
def State.crossUp (s : State) : CrossSrc → Bool
  | .acre pl => s.fld (HUB_SITE_STAT_STATE 0 (pl / 4)) = 1 && s.spaceAnswers (8 + pl / 4) && !s.siteGated (pl / 4)
  | .port p => s.spaceAnswers (2 + p)

/-- The key of the group `i` of an acre's inbound wires: perch rows first, then perch columns (R134, R701). -/
def chanKey (pl i : Nat) : Nat := 32 * pl + i

/-- The key of the group of a perch row of the wires into port die `p`. -/
def portChanKey (p row : Nat) : Nat := 8192 + 32 * p + row

/-- A group of boundary-channel wires. -/
def State.chan (s : State) (key : Nat) : ChanSt := mapGet s.fab.chans ChanSt.zero key

/-- Change a group of boundary-channel wires. -/
def State.setChan (s : State) (key : Nat) (c : ChanSt) : State :=
  { s with fab := { s.fab with chans := mapSet s.fab.chans ChanSt.zero key c } }

/-- The value an inbound wire delivers (R132, R136, R137, R139): its capture register, or 0. -/
def State.inbound (s : State) (pl : Nat) (vert : Bool) (i t : Nat) : Bool :=
  let c := s.chan (chanKey pl (if vert then 16 + i else i))
  !c.mismatch && (s.crossSrc pl vert).any s.crossUp && c.capture.getLsbD t

/-! ### Outputs of bushels and tiles -/

/-- The key of a bushel. -/
def bushelKey (site b : Nat) : Nat := site * 768 + b

/-- The place of a bushel's key. -/
def bushelPlace (k : Nat) : Nat := placeKey (k / 768) (k % 768 / 192)

/-- The configuration of a bushel (R196, R699). -/
def State.bshCfg (s : State) (site b : Nat) : BitVec 64 :=
  (s.frame (placeKey site (b / 192)) (0x800 + 32 * (b % 192) + 27)).setWidth 64

/-- An output of a bushel port (R191). -/
def BshPort.output (p : BshPort) (bit : Nat) : Bool :=
  if bit < 96 then p.dout.getLsbD bit else if bit = 96 then p.poison else if bit = 97 then p.err else p.ce

/-- Whether a state halts the tile (R246, R249). -/
def TileMode.halted : TileMode → Bool
  | .run | .wait => false
  | .idle | .done | .stopped | .error => true

/-- An output of a tile (R243, R249, R255): HALTED, READY of IS0 and IS1, VALID, POISON and DATA of OS; `gsr` says that GSR is asserted. -/
def TileSt.output (x : TileSt) (gsr : Bool) (sig : Nat) : Bool :=
  match sig with
  | 0 => x.mode.halted
  | 1 => !gsr && x.is0.length < 4
  | 2 => !gsr && x.is1.length < 4
  | 3 => !gsr && !x.os.isEmpty
  | 4 => x.os.head?.any (·.2)
  | n => x.os.head?.any (·.1.getLsbD (n - 5))

/-! ### Values -/

/-- The value of a span source for a perch, given the values of the wires (R115, R116). -/
def State.srcValue (s : State) (site px py : Nat) (v : Wire → Bool) : Option SpanSrc → Bool
  | none => false
  | some (.cubit c w) => v (.out (4 * px + c % 4) (4 * py + c / 4) w)
  | some (.chain k) => match chainStart px py k with
    | some p => v (.chain p.1 p.2 k)
    | none => false
  | some (.tap t) => v (.seg (tapSeg px py t))
  | some .trigIn => px % 16 = 0 && py % 16 = 0 && s.fab.trigIn.contains site
  | some (.bushel b portB bit) =>
    let x := mapGet s.fab.bushels BshSt.zero (bushelKey site (192 * perchAcre px py + b))
    (if portB then x.b else x.a).output bit
  | some (.tile t sig) =>
    (mapGet s.fab.tiles TileSt.zero (site * 128 + 32 * perchAcre px py + t)).output
      (!(s.place (placeKey site (perchAcre px py))).gsrOff) sig
  | some .zero => false
  | some .one => true

/-- The inputs of a cubit, given the values of its input wires (R59). -/
def cubitInOf (v : Nat → Bool) : CubitIn :=
  let half (k : Nat) : Half := (List.range 16).foldl (fun h i => if v (16 * k + i) then h ||| BitVec.twoPow 16 i else h) 0
  ⟨half 0, half 1, half 2, half 3, BitVec.ofNat 4 ((v 64).toNat + 2 * (v 65).toNat + 4 * (v 66).toNat + 8 * (v 67).toNat)⟩

/-- The carry and zero from below a cubit, given those that the cubits pass up: none comes over an acre boundary (R81, R82). -/
def belowOf (x y : Nat) (v : Wire → Bool) : Bool × Bool :=
  if y % 64 = 0 then (false, true) else (v (.up false x (y - 1)), v (.up true x (y - 1)))

/-- The value of a wire, given the values of the wires it depends on (R115-R124, R144). -/
def State.wireStep (s : State) (site : Nat) (v : Wire → Bool) : Wire → Bool
  | .inp x y n => s.srcValue site (x / 4) (y / 4) v
      (Config.inputSelect (s.perchFrames site (x / 4) (y / 4)) (4 * (y % 4) + x % 4) n)
  | .out x y n =>
    if 16 ≤ n then (s.cubit site x y).q.getLsbD (n - 16)
    else (s.cubitY site x y (cubitInOf fun i => v (.inp x y i)) (belowOf x y v)).getLsbD n
  | .up z x y =>
    let r := s.cubitUp site x y (cubitInOf fun i => v (.inp x y i)) (belowOf x y v)
    if z then r.2 else r.1
  | .chain px py k =>
    let pl := placeKey site (perchAcre px py)
    if s.wiresHeld pl && (chainEnd px py k).any fun p => perchAcre p.1 p.2 ≠ perchAcre px py then
      (s.latchedFrame pl 0x200A ++ s.latchedFrame pl 0x2009).getLsbD (Config.chainClamp (perchIndex px py) k)
    else match Config.chainSelect (s.perchFrames site px py) k with
      | some i => if i.val < 512 then v (.out (4 * px + i.val / 32 % 4) (4 * py + i.val / 128) (i.val % 32))
        else v (.seg (tapSeg px py (i.val - 512)))
      | none => false
  | .seg g => match s.segDriver site g with
    | some (.point px py) =>
      s.srcValue site px py v (Config.driveSelect (s.perchFrames site px py) (64 * g.orient + g.track))
    | some (.junction h) =>
      if h.acre ≠ g.acre && s.wiresHeld (placeKey site h.acre) then
        (s.latchedFrame (placeKey site h.acre) 0x200B).getLsbD (Config.junctionClamp g.orient g.line g.track)
      else v (.seg h)
    | some .inbound => s.inbound (placeKey site g.acre) (g.orient = 1) (g.line % 16) g.track
    | none => false

/-- The value of a wire, found along at most `n` wires: a longer way goes round a loop, whose value the spec does not give. -/
def State.wireWithin (s : State) (site : Nat) : Nat → Wire → Bool
  | 0, w => Config.loopWire s.freeCtr (64 * w.number + site)
  | n + 1, w => s.wireStep site (s.wireWithin site n) w

/-- No way without a loop passes more wires than a die has: fewer than 2^21. -/
def dieWires : Nat := 2 ^ 21

/-- The value of a wire of a die. -/
def State.wire (s : State) (site : Nat) (w : Wire) : Bool := s.wireWithin site dieWires w

/-- The inputs of a cubit (R59, R115, R116). -/
def State.cubitIn (s : State) (site x y : Nat) : CubitIn := cubitInOf fun n => s.wire site (.inp x y n)

/-- The carry and zero from the cubit below (R81, R82). -/
def State.fromBelow (s : State) (site x y : Nat) : Bool × Bool := belowOf x y (s.wire site)

/-- The fabric trigger of a die: the OR of its four trigger-out taps; an acre before stage 1 of its release drives none. -/
def State.fabricTrigger (s : State) (site : Nat) : Bool :=
  (List.range 4).any fun a =>
    let px := 16 * (a % 2)
    let py := 16 * (a / 2)
    !s.wiresHeld (placeKey site a) && s.srcValue site px py (s.wire site) (Config.trigOutSelect (s.perchFrames site px py))

/-- The level of fabric clock `m` as an acre taps it (R150). -/
def State.fabricClock (s : State) (pl m : Nat) : Bool :=
  let k := (Config.clockPerch m).val
  let px := 16 * (pl % 2) + k % 16
  let py := 16 * (pl % 4 / 2) + k / 16
  match Config.clockSelect (s.perchFrames (pl / 4) px py) m with
  | some (c, w) => s.wire (pl / 4) (.out (4 * px + c.val % 4) (4 * py + c.val / 4) w.val)
  | none => false

/-! ### Outbound wires -/

/-- The edge segment of a track at an acre's edge (R130). -/
def edgeSeg (acre : Nat) (vert : Bool) (i t : Nat) : LeagueSeg :=
  if vert then ⟨1, 16 * (acre % 2) + i, t, if acre < 2 then 0 else 3⟩ else ⟨0, 16 * (acre / 2) + i, t, if acre % 2 = 0 then 0 else 3⟩

/-- The value an outbound wire of an acre carries: its edge segment, or the clamp value (R130, R144, R145, R701). -/
def State.outbound (s : State) (pl : Nat) (vert : Bool) (i t : Nat) : Bool :=
  if s.wiresHeld pl then (s.latchedFrame pl 0x2008).getLsbD (if vert then 2048 + 32 * i + t else 64 * i + t)
  else s.wire (pl / 4) (.seg (edgeSeg (pl % 4) vert i t))

/-- The values of a group of outbound wires. -/
def State.outboundWord (s : State) (pl : Nat) (vert : Bool) (i tracks : Nat) : DWord :=
  (List.range tracks).foldl (fun w t => if s.outbound pl vert i t then w ||| BitVec.twoPow 64 t else w) 0

end Sys2Proof.Machine
end

