-- ==== Sys2Proof/Machine/Net.lean ====
section
/-! DEFINITION. Clock edges: the instants at which the clocks of the fabric have rising edges, what moves at them besides what a command
names (channel groups, dividers, GSR synchronizers, output registers), and the user I/O pins (R132-R136, R142-R153, R157, R193,
R680-R685, R702). -/

namespace Sys2Proof.Machine

open Sys2Proof

/-! ### Instants -/

/-- What drives the wires, as it stands. -/
def FabState.present (f : FabState) : FabPast := ⟨f.cubits, f.bushels, f.tiles, f.chans⟩

/-- The state as the wires showed it at a moment `p`. -/
def State.withPast (s : State) (p : FabPast) : State :=
  { s with fab := { s.fab with cubits := p.cubits, bushels := p.bushels, tiles := p.tiles, chans := p.chans } }

/-- The state before the clock edges of the present instant: what every edge of the instant reads (R82, R86). -/
def State.before (s : State) : State := s.withPast s.fab.past

/-- A new instant begins: no clock has had an edge at it. A signal of the trigger network may end (how long it lasts is open). -/
def State.newInstant (s : State) : State :=
  let f := s.free
  let s1 := f.2
  { s1 with fab := { s1.fab with
      past2 := s1.fab.past, past := s1.fab.present, nowEdge := []
      trigIn := if f.1.getLsbD 0 then s1.fab.trigIn else [] } }

/-! ### Clocks (R146-R153) -/

/-- A local user clock of a die is a package clock, divided (R150). -/
def State.localDivided (s : State) (site m : Nat) : Bool :=
  s.bit (LDC_LCLK_CFG_EN site m) && !s.bit (LDC_LCLK_CFG_FAB site m)

/-- The clock `sel` of a place has a rising edge at the present instant (R57, R58, R149-R153): a divided clock only at edges of its source. -/
def State.clockEdge (s : State) (pl sel : Nat) : Bool :=
  let site := pl / 4
  s.clockRuns site sel &&
    (if sel < 8 then s.fab.nowEdge.contains sel
    else if s.bit (LDC_LCLK_CFG_FAB site (sel - 8)) then s.fab.nowEdge.contains (8 + 16 * pl + (sel - 8))
    else s.fab.nowEdge.contains (s.fld (LDC_LCLK_CFG_PSRC site (sel - 8))) && mapGet s.fab.divs 0 (16 * site + (sel - 8)) = 1)

/-- A local user clock starts or stops (R150, R153): where in its period a divided clock starts is open. -/
def State.localStart (s : State) (site m : Nat) : State :=
  let k := 16 * site + m
  if s.localDivided site m then
    let f := s.free
    { f.2 with fab := { f.2.fab with
        divs := mapSet f.2.fab.divs 0 k (1 + f.1.toNat % (f.2.fld (LDC_LCLK_CFG_DIV site m) + 1)) } }
  else { s with fab := { s.fab with divs := mapSet s.fab.divs 0 k 0 } }

/-- The dividers count an edge of package clock `n` (R150, R151). -/
def State.countDividers (s : State) (n : Nat) : State :=
  { s with fab := { s.fab with divs := mapWith 0 (fun k c =>
      if s.localDivided (k / 16) (k % 16) && s.fld (LDC_LCLK_CFG_PSRC (k / 16) (k % 16)) = n && s.packageClock (k / 16) n then
        (if s.fld (LDC_LCLK_CFG_DIV (k / 16) (k % 16)) < c then 1 else c + 1) else c) s.fab.divs } }

/-- A bushel port's output register loads what waits before it (R193). -/
def BshPort.advance (p : BshPort) : BshPort := { p with dout := p.sDout, poison := p.sPoison, err := p.sErr, ce := p.sCe }

/-- The output registers of a bushel's ports take the edges that `hit` names by CLK_SEL (R193, R196). -/
def BshSt.advance (x : BshSt) (cfg : BitVec 64) (hit : Nat → Bool) : BshSt :=
  { x with
    a := if cfg.getLsbD 15 && hit (bitsOf cfg 5 5) then x.a.advance else x.a
    b := if cfg.getLsbD 16 && hit (bitsOf cfg 10 5) then x.b.advance else x.b }

/-- The synchronizers of the clocks of a mask take an edge (R157). -/
def PlaceSt.takeEdges (x : PlaceSt) (m : BitVec 24) : PlaceSt :=
  { x with unseen := x.unseen &&& ~~~m, fresh := (x.unseen &&& m) ||| (x.fresh &&& ~~~m) }

/-- The synchronizers and output registers of the places take an edge of the clocks that `hit` names by place and CLK_SEL (R157, R193,
R217): only where the acre's clocks act. -/
def State.domainEdges (s : State) (hit : Nat → Nat → Bool) : State :=
  let mask (pl : Nat) : BitVec 24 :=
    (List.range 24).foldl (fun m i => if hit pl i then m ||| BitVec.twoPow 24 i else m) 0
  let places := mapWith PlaceSt.zero (fun pl x => if x.gsrOff && x.stage = 3 then x.takeEdges (mask pl) else x) s.fab.places
  let bushels := mapWith BshSt.zero (fun k x => if s.acreClocked (bushelPlace k) then
    x.advance (s.bshCfg (k / 768) (k % 768)) (hit (bushelPlace k)) else x) s.fab.bushels
  { s with fab := { s.fab with places := places, bushels := bushels } }

/-! ### User I/O pins (R681-R684, R702) -/

/-- The acre whose image sets the pins of a port die and whose wires drive them: acre 0 of logical die 12p (R680). -/
def State.portPlace (s : State) (p : Nat) : Option Nat := (s.siteOf (12 * p)).map fun site => placeKey site 0

/-- The settings of a pin, once an image has set them. -/
def State.pinSetup (s : State) (p n : Nat) : Option PinSetup := mapGet s.fab.pinSet none (96 * p + n)

/-- The VCCIO a standard needs, in tenths of a volt (R681). -/
def pinSupply : PinStd → Nat
  | .cmos33 => 33
  | .cmos25 => 25
  | .cmos18 => 18
  | .lvds => 25

/-- A pin's bank does not supply what its standard needs (R683). -/
def pinFault (p n : Nat) (x : PinSetup) : Bool := pinSupply x.std ≠ Config.vccio p (n / 24)

/-- The pin whose wires and hold entry a pin uses: the even pin of an LVDS pair (R681, R702). -/
def pinWire (n : Nat) (x : PinSetup) : Nat := if x.std = .lvds then n - n % 2 else n

/-- Wire `w` of the crossing into a port die, as its capture register holds it (R137, R680). -/
def State.portWire (s : State) (p w : Nat) : Bool :=
  (s.siteOf (12 * p)).any (fun site => s.crossUp (.acre (placeKey site 0)) && s.bit (LDC_CHAN_SEL_WEST_PORT site)) &&
    (s.chan (portChanKey p (w / 16))).capture.getLsbD (w % 16)

/-- What a user I/O pin drives, none for high impedance (R682-R684, R702). The second pin of an LVDS pair drives the inverse. -/
def State.pinDrive (s : State) (p n : Nat) : Option Bool :=
  match s.portPlace p, s.pinSetup p n with
  | some pl, some x =>
    let w := pinWire n x
    let inv := x.std = .lvds && n % 2 = 1
    if s.safe || !s.spaceAnswers (2 + p) || pinFault p n x then none
    else if !s.wiresHeld pl then (if s.portWire p (96 + w) then some (s.portWire p w ^^ inv) else none)
    else if (s.place pl).clamped then
      let h := mapGet s.fab.pinHeld 0 p
      match bitsOf (s.latchedFrame pl 0x200C) (2 * w) 2 with
      | 0 => none
      | 1 => if h.getLsbD (96 + w) then some (h.getLsbD w ^^ inv) else none
      | 2 => some (false ^^ inv)
      | _ => some (true ^^ inv)
    else none
  | _, _ => none

/-- The level of a pin (R682): what it drives, or what the board gives it. -/
def State.pinLevel (s : State) (p n : Nat) : Bool := (s.pinDrive p n).getD (Config.pinLevel s.freeCtr (96 * p + n))

/-- O and OE of the pins of a port die as they stand: what HOLD keeps (R702). -/
def State.holdPins (s : State) (p : Nat) : State :=
  let v : BitVec 192 := (List.range 192).foldl (fun v w => if s.portWire p w then v ||| BitVec.twoPow 192 w else v) 0
  { s with fab := { s.fab with pinHeld := mapSet s.fab.pinHeld 0 p v } }

/-- The image of an acre sets the pins of its port die (R681, R683): a bank that does not supply a pin's standard is a fault. -/
def State.setPins (s : State) (p pl : Nat) : State :=
  let cfg := (s.fab.frames.filter fun kv => kv.1 / 16384 = pl).map fun kv => (kv.1 % 16384, kv.2)
  let s1 := { s with fab := { s.fab with
      pinSet := (List.range 96).foldl (fun m n => mapSet m none (96 * p + n) (some (Config.pinSetup cfg n))) s.fab.pinSet } }
  (List.range 4).foldl (fun t b =>
    if (List.range 24).any fun n => pinFault p (24 * b + n) (Config.pinSetup cfg (24 * b + n)) then
      t.raise ⟨PRT_UIO_STAT p, b, 1⟩ (2 + p) 0x17 p 0 sevUncorrected 0 0
    else t) s1

/-! ### Transmit streams over the port crossing (R669, R680) -/

/-- A transmit port. -/
def State.ctx (s : State) (p t : Nat) : CtxSt := mapGet s.port.ctx CtxSt.zero (2 * p + t)

/-- Bytes that a port's buffer holds (R670). -/
def CtxSt.used (c : CtxSt) : Nat :=
  c.buf.foldl (fun n x => n + 4 + 8 * x.2.length) (match c.filling with | some (_, _, ws) => 4 + 8 * ws.length | none => 0)

/-- READY of a transmit port (R680): it is enabled and its buffer has room for a word. -/
def State.ctxReady (s : State) (p t : Nat) : Bool :=
  s.bit (PRT_CTX_CFG_EN p t) && decide ((s.ctx p t).used + 8 ≤ 16384)

/-- The value of wire `w` of the crossing from a port die to the fabric (R680): I, or READY of a transmit port. -/
def State.portSource (s : State) (p w : Nat) : Bool :=
  if w < 96 then (match s.pinSetup p w with
    | some x => (x.std ≠ .lvds || w % 2 = 0) && s.pinLevel p w
    | none => s.pinLevel p w)
  else if w = 256 then s.ctxReady p 0 else if w = 384 then s.ctxReady p 1 else false

/-! ### Boundary channels (R132-R136, R142, R143) -/

/-- The group clock field `i` of an acre's frame 0x2001: 0-15 of the horizontal edge, 16-31 of the vertical one (R701). -/
def State.groupOf (s : State) (pl i : Nat) : Nat := bitsOf (s.frame pl 0x2001) (4 * i) 4

/-- A place's group `i` is used and clocked by package clock `n`, which runs in its die (R134, R701). -/
def State.groupClocked (s : State) (pl i n : Nat) : Bool := s.groupOf pl i = 8 + n && s.packageClock (pl / 4) n

/-- The launch register takes a value; the FIFO takes it too, on a bridge one edge later through the retiming register (R132). -/
def ChanSt.put (c : ChanSt) (bridge : Bool) (v : DWord) : ChanSt :=
  { c with
    launch := v, retime := if bridge then c.launch else 0, fifo := c.fifo.set c.wr (if bridge then c.launch else v)
    wr := c.wr + 1 }

/-- The capture register takes the value that entered the FIFO at the edge before (R132, R133). -/
def ChanSt.get (c : ChanSt) : ChanSt := { c with capture := c.fifo[c.rd + 1], rd := c.rd + 1 }

/-- The pointers are centered (R142). -/
def ChanSt.center (c : ChanSt) : ChanSt := { c with rd := c.wr - 2 }

/-- The pointers have come within one entry of overrun or underrun (R143). -/
def ChanSt.slips (c : ChanSt) : Bool := c.rd ≠ c.wr - 2

/-- A slip is flagged and counted by the receiving die at its edge (R143). -/
def State.flagSlip (s : State) (site edge : Nat) : State :=
  let s1 := s.setFld ⟨LDC_FAB_ERR site, 4 + edge, 1⟩ 1
  let s2 := s1.satInc (LDC_CHAN_SLIP_CNT_CNT site)
  s2.raise (LDC_FAB_ERR_CHAN_SLIP site) (8 + site) 0x10 (s2.unitOf site) 0 sevUncorrected ((s2.csr (LDC_CONT_FRAME site)).setWidth 64)
    (s2.csr (LDC_CONT_SEG site))

/-- A group of wires into an acre takes an edge at which the sending side launches `v`, if it has an edge, and the receiving side captures,
if it has one (R132, R133, R143). -/
def State.chanEdge (s : State) (pl i : Nat) (bridge : Bool) (v : Option DWord) (capture : Bool) : State :=
  let c := s.chan (chanKey pl i)
  let c1 := if capture then c.get else c
  let c2 := match v with
    | some v => c1.put bridge v
    | none => c1
  let s1 := s.setChan (chanKey pl i) c2.center
  if c2.slips then s1.flagSlip (pl / 4) (crossEdge (pl % 4) (decide (16 ≤ i))) else s1

/-- What the sending side of group `i` into an acre has on its wires. -/
def State.sourceWord (s : State) (pl i : Nat) : CrossSrc → DWord
  | .acre q => s.outboundWord q (decide (16 ≤ i)) (i % 16) (crossTracks ((s.ldOf (pl / 4)).getD 0) (pl % 4) (decide (16 ≤ i)))
  | .port p => (List.range 16).foldl (fun w t =>
      if s.portSource p (16 * (16 * (pl % 4 / 2) + i) + t) then w ||| BitVec.twoPow 64 t else w) 0

/-- What that side launches at an edge of package clock `n`, if it has that edge: from the wires before the edge. A port die follows the
selection of the acre. -/
def State.launched (s : State) (pl i n : Nat) (src : CrossSrc) : Option DWord :=
  let has := match src with
    | .acre q => s.groupClocked q i n
    | .port _ => true
  if has then some (s.before.sourceWord pl i src) else none

/-- The pointers of the groups that `p` names by place and group are centered (R142). -/
def State.centerGroups (s : State) (p : Nat → Nat → Bool) : State :=
  let chans := mapWith ChanSt.zero (fun k c => if k < 8192 && p (k / 32) (k % 32) then c.center else c) s.fab.chans
  { s with fab := { s.fab with chans := chans } }

/-- The groups of an acre that are clocked by package clock `n` take its edge, those out to a port die with them. -/
def State.groupEdges (s : State) (n pl : Nat) : State :=
  (List.range 32).foldl (fun t i =>
    let vert := decide (16 ≤ i)
    if !s.groupClocked pl i n then t else
    match s.crossSrc pl vert with
    | none => t
    | some src =>
      let bridge := crossBridge ((s.ldOf (pl / 4)).getD 0) (pl % 4) vert
      let t1 := if s.crossUp src then t.chanEdge pl i bridge (s.launched pl i n src) true else t
      match src with
      | .acre _ => t1
      | .port p =>
        let k := portChanKey p (16 * (pl % 4 / 2) + i)
        t1.setChan k (((t1.chan k).get).put false (s.before.outboundWord pl false i 16))) s

/-- The places with boundary-channel groups. -/
def State.groupPlaces (s : State) : List Nat := (s.fab.frames.filter fun kv => kv.1 % 16384 = 0x2001).map (·.1 / 16384)

/-! ### Edges -/

/-- Package clock `n` has its edge of the present instant, in every die where it runs (R146). -/
def State.packageEdge (s : State) (n : Nat) : State :=
  if s.fab.nowEdge.contains n then s else
  let s0 := { s with fab := { s.fab with nowEdge := s.fab.nowEdge ++ [n] } }
  let s1 := s0.countDividers n
  let s2 := s1.groupPlaces.foldl (fun t pl => t.groupEdges n pl) s1
  s2.domainEdges fun pl sel =>
    (if sel < 8 then sel = n
      else s1.localDivided (pl / 4) (sel - 8) && s1.fld (LDC_LCLK_CFG_PSRC (pl / 4) (sel - 8)) = n) && s1.clockEdge pl sel

/-- Fabric clock `m` of a place has an edge if its source rose at the instant before (R150). -/
def State.fabricEdge (s : State) (pl m : Nat) : State :=
  let k := 8 + 16 * pl + m
  if s.fab.nowEdge.contains k || (s.withPast s.fab.past2).fabricClock pl m || !s.before.fabricClock pl m then s else
  { s with fab := { s.fab with nowEdge := s.fab.nowEdge ++ [k] } }.domainEdges fun q sel => q = pl && sel = 8 + m

/-- A command names an edge of clock `sel` of a place: at the present instant if it says `same`, at a new one if not. -/
def State.edgeAt (s : State) (pl sel : Nat) (same : Bool) : State :=
  let s1 := if same then s else s.newInstant
  if sel < 8 then s1.packageEdge sel
  else if 24 ≤ sel then s1
  else if s.bit (LDC_LCLK_CFG_FAB (pl / 4) (sel - 8)) then s1.fabricEdge pl (sel - 8)
  else s1.packageEdge (s.fld (LDC_LCLK_CFG_PSRC (pl / 4) (sel - 8)))

end Sys2Proof.Machine
end

