-- ==== Sys2Proof/Machine/Fabric.lean ====
section
/-! DEFINITION. Fabric-wide nets (chapter 03) and cubit inspection (R103-R113): clocks, channels, probes and trace, snapshots,
and the meanings of their commands. -/

namespace Sys2Proof.Machine

open Sys2Proof

/-- An acre is under load or held by its isolation clamps (R110, R158, R216, R263). -/
def State.acreHeld (s : State) (site acre : Nat) : Bool :=
  (s.place (placeKey site acre)).loading || (s.place (placeKey site acre)).clamped

/-- A die's fabric error, reported with the location registers of R987. -/
def State.raiseFab (s : State) (f : Fld) (site : Nat) : State :=
  s.raise f (8 + site) 0x10 (s.unitOf site) 0 sevUncorrected ((s.csr (LDC_CONT_FRAME site)).setWidth 64)
    (s.csr (LDC_CONT_SEG site))

/-! ### Snapshots (R103-R113) -/

/-- The captured snapshot of a die. -/
def State.snap (s : State) (site : Nat) : CubitSnap := mapGet s.fab.snaps CubitSnap.zero site

/-- A write of 1 to REQ (R107, R109, R110). While a request is pending the write completes with OK, as R109 has it, even if the acre has since
come under load or isolation (log entry 98). -/
def State.snapReq (s : State) (site : Nat) : State × Status :=
  let x := s.fld (LDC_CUBIT_ADDR_X site)
  let y := s.fld (LDC_CUBIT_ADDR_Y site)
  if s.bit (LDC_CUBIT_SNAP_REQ site) then (s, .ok)
  else if s.acreHeld site (cubitAcre x y) then (s, .errFenced)
  else (((s.setFld (LDC_CUBIT_SNAP_DONE site) 0).setFld (LDC_CUBIT_SNAP_STALE site) 0).setFld (LDC_CUBIT_SNAP_REQ site) 1, .ok)

/-- Capture the addressed cubit's present state with CTL3-CTL0 as given (R107, R108, R112). -/
def State.snapTake (s : State) (site : Nat) (ctl : BitVec 4) (stale : Bool) : State :=
  let x := s.fld (LDC_CUBIT_ADDR_X site)
  let y := s.fld (LDC_CUBIT_ADDR_Y site)
  let n : CubitSnap := ⟨s.cubit site x y, cubitBitMode (s.cubitCfg site x y),
    !(s.place (placeKey site (cubitAcre x y))).gsrOff, ctl⟩
  let s1 := { s with fab := { s.fab with snaps := mapSet s.fab.snaps CubitSnap.zero site n } }
  ((s1.setBit (LDC_CUBIT_SNAP_STALE site) stale).setFld (LDC_CUBIT_SNAP_DONE site) 1).setFld (LDC_CUBIT_SNAP_REQ site) 0

/-- LDC_CUBIT_Q (R107). -/
def State.snapQ (s : State) (site : Nat) : Word := ((s.snap site).cubit.q).setWidth 32

/-- The context of a snapshot that LDC_CUBIT_ADDR.CTX names now (R111). -/
def State.snapCtx (s : State) (site : Nat) : Fin 8 := Fin.ofNat 8 (s.fld (LDC_CUBIT_ADDR_CTX site))

/-- LDC_CUBIT_ST (R106, R111, R113). -/
def State.snapSt (s : State) (site : Nat) : Word :=
  if (s.snap site).mode then 0 else ((s.snap site).cubit.st[s.snapCtx site]).setWidth 32

/-- LDC_CUBIT_STAT (R106, R111, R113). -/
def State.snapStat (s : State) (site : Nat) : Word :=
  let n := s.snap site
  BitVec.ofNat 32 ((if n.mode then 0 else (n.cubit.flags[s.snapCtx site]).toNat + 16 * n.cubit.ctr.val) +
    128 * n.mode.toNat + 256 * n.gsr.toNat + 512 * n.ctl.toNat)

/-- CUBIT_SNAP_REQ (R107): a write of 1 to REQ. -/
def execCubitSnapReq (site : Fin 64) (s : State) : Host.Outcome State Fault Refusal :=
  .next (s.regWrite (LDC_CUBIT_SNAP site) fun s => s.snapReq site)

/-- STALE (R108): 10 µs have passed without an edge while a request is pending. -/
def execStale (site : Fin 64) (s : State) : Host.Outcome State Fault Refusal :=
  .next (if s.bit (LDC_CUBIT_SNAP_REQ site) then
    s.snapTake site (s.cubitIn site (s.fld (LDC_CUBIT_ADDR_X site)) (s.fld (LDC_CUBIT_ADDR_Y site))).ctl true else s)

/-! ### Edges of cubits (R85, R93, R107, R157) -/

/-- Store a cubit's state. -/
def State.putCubit (s : State) (site x y : Nat) (c : CubitSt) : State :=
  { s with fab := { s.fab with cubits := mapSet s.fab.cubits none (cubitKey site x y) (some c) } }

/-- A snapshot of this cubit is pending (R107). -/
def State.snapWaits (s : State) (site x y : Nat) : Bool :=
  s.bit (LDC_CUBIT_SNAP_REQ site) && s.fld (LDC_CUBIT_ADDR_X site) = x && s.fld (LDC_CUBIT_ADDR_Y site) = y

/-- What an edge of its clock does to a cubit: from the wires before the edge it forms Y and its next state, which it takes unless GSR
holds it, and a pending snapshot captures the state after the edge. -/
def State.cubitEdge (s : State) (site x y : Nat) : State :=
  let pl := placeKey site (cubitAcre x y)
  let o := s.before
  let inp := o.cubitIn site x y
  let below := o.fromBelow site x y
  let s1 := s.send (.cubitY (cubitKey site x y) (o.cubitY site x y inp below))
  let s2 := if s.acreClocked pl && !s.gsrHolds pl (cubitClkSel (s.cubitCfg site x y)) then
    s1.putCubit site x y (o.cubitNext site x y inp below) else s1
  if s2.snapWaits site x y then s2.snapTake site inp.ctl false else s2

/-- A commanded edge of a cubit's clock (R58, R149, R153): none comes while the clock stands, a divided clock may have none at an edge of
its source, and where `p` does not hold of the state before the edge the edge is not of the command's kind (log entry 1). -/
def State.cubitAt (s : State) (site x y : Nat) (same : Bool) (p : State → Bool) : State :=
  let pl := placeKey site (cubitAcre x y)
  let sel := cubitClkSel (s.cubitCfg site x y)
  if !isLogicSite site || !s.clockRuns site sel then s else
  let t := s.edgeAt pl sel same
  if !t.clockEdge pl sel then t else if p t.before then t.cubitEdge site x y else s

/-- CUBIT_SNAPSHOT (R107): the next edge of the addressed cubit's clock comes while a request is pending. -/
def execCubitSnapshot (site : Fin 64) (same : Bool) (s : State) : Host.Outcome State Fault Refusal :=
  .next (s.cubitAt site (s.fld (LDC_CUBIT_ADDR_X site)) (s.fld (LDC_CUBIT_ADDR_Y site)) same fun o =>
    o.bit (LDC_CUBIT_SNAP_REQ site))

/-! ### Channels and clocks (R142-R153) -/

/-- The place and group of perch row or column `line` at an edge of a die (0 west, 1 east, 2 up, 3 down) (R701). -/
def edgeGroup (site edge line : Nat) : Nat × Nat :=
  (placeKey site (if edge < 2 then 2 * (line / 16) + edge else (if edge = 2 then 2 else 0) + line / 16),
    (if edge < 2 then 0 else 16) + line % 16)

/-- CHAN_SLIP (R143): the clocks of the two sides of a group have slipped by a cycle. With `drop` the sending side has had an edge more, else
the receiving side: re-centering drops or repeats a cycle of the group's data. -/
def execChanSlip (site : Fin 64) (edge : Fin 4) (line : Fin 32) (drop : Bool) (s : State) : Host.Outcome State Fault Refusal :=
  let g := edgeGroup site edge line
  let vert := decide (2 ≤ edge.val)
  .next (match s.crossSrc g.1 vert with
    | none => s
    | some src =>
      let bridge := crossBridge ((s.ldOf site).getD 0) (g.1 % 4) vert
      if drop then s.chanEdge g.1 g.2 bridge (some (s.sourceWord g.1 g.2 src)) false
      else s.chanEdge g.1 g.2 bridge none true)

/-- PCLK_UNLOCK (R149): a fabric PLL loses lock; its clock stops. -/
def execPclkUnlock (site : Fin 64) (n : Fin 8) (s : State) : Host.Outcome State Fault Refusal :=
  .next (if s.bit (LDC_PCLK_CFG_LOCK site n) then
    (s.setFld (LDC_PCLK_CFG_LOCK site n) 0).raiseFab (LDC_FAB_ERR_PCLK_UNLOCK site) site else s)

/-- PCLK_RELOCK (R142, R149): the PLL of an enabled package clock regains lock; its clock restarts and the pointers of its groups are
centered. -/
def execPclkRelock (site : Fin 64) (n : Fin 8) (s : State) : Host.Outcome State Fault Refusal :=
  .next (if s.bit (LDC_PCLK_CFG_EN site n) && s.fld (LDC_PCLK_CFG_ODIV site n) ≠ 0 then
    (s.setFld (LDC_PCLK_CFG_LOCK site n) 1).centerGroups fun pl i => pl / 4 = site && s.groupOf pl i = 8 + n.val else s)

/-- EN of a local user clock is written: the clock stops or starts where EN changes (R153, R174). -/
def State.localEnable (s : State) (site m : Nat) (en : Bool) : State :=
  if s.bit (LDC_LCLK_CFG_EN site m) = en then s else (s.setBit (LDC_LCLK_CFG_EN site m) en).localStart site m

/-- LCLK_EN_WRITE (R153): a write of LDC_LCLK_CFG; EN alone is writable (R174). -/
def execLclkEnWrite (site : Fin 64) (m : Fin 16) (value : Word) (s : State) : Host.Outcome State Fault Refusal :=
  .next (s.regWrite (LDC_LCLK_CFG site m) fun s => (s.localEnable site m (value.getLsbD 12), .ok))

/-! ### Probes (R158-R164) -/

/-- The probe path of a die. -/
def State.probe (s : State) (site : Nat) : ProbeSt := mapGet s.fab.probes ProbeSt.zero site

/-- Change the probe path of a die. -/
def State.setProbe (s : State) (site : Nat) (p : ProbeSt) : State :=
  { s with fab := { s.fab with probes := mapSet s.fab.probes ProbeSt.zero site p } }

/-- A write of LDC_PROBE_SEL (R160): the lane's change is pending until its edge. -/
def State.probeSelWrite (s : State) (site lane : Nat) (value : Word) : State :=
  let s1 := s.setCsr (LDC_PROBE_SEL site lane) (value &&& 0x8007FFFF#32)
  let p := s1.probe site
  (s1.setProbe site { p with pend := if p.pend.contains lane then p.pend else p.pend ++ [lane] }).setFld
    (LDC_PROBE_STAT_SEL_PENDING site) 1

/-- A lane with a pending change switches to its register's source (R160). -/
def State.probeLaneChange (s : State) (site lane : Nat) : State :=
  let p := s.probe site
  if p.pend.contains lane then
    let rest := p.pend.filter (· ≠ lane)
    (s.setProbe site { p with pend := rest, src := mapSet p.src 0 lane (s.csr (LDC_PROBE_SEL site lane)) }).setBit
      (LDC_PROBE_STAT_SEL_PENDING site) (!rest.isEmpty)
  else s

/-- A die asks for the probe pins (R162, R163). -/
def State.probeAsks (s : State) (site : Nat) : Bool := s.bit (LDC_PROBE_CTL_DEST site) && s.bit (LDC_PROBE_CTL_PIN_EN site)

/-- The logical dies of a row that ask for the probe pins, as (logical die, site) (R162). -/
def State.probeAskers (s : State) (row : Nat) : List (Nat × Nat) :=
  (List.range 16).filterMap fun col =>
    match s.ldOf (16 * row + col) with
    | some d => if s.probeAsks (16 * row + col) then some (d, 16 * row + col) else none
    | none => none

/-- The lowest-numbered logical die that asks (R162). -/
def lowestAsker : List (Nat × Nat) → Option (Nat × Nat)
  | [] => none
  | a :: as => match lowestAsker as with
    | none => some a
    | some b => if a.1 ≤ b.1 then some a else some b

/-- Decide the owner of a row's probe pins again (R162, R163, R686). A die that asks and does not own them has lost them, whether or not it
holds a logical die. -/
def State.probeOwner (s : State) (row : Nat) : State :=
  let own := lowestAsker (s.probeAskers row)
  let s1 := (List.range 16).foldl (fun t col =>
    let site := 16 * row + col
    let owns := own.any (·.2 = site)
    (t.setBit (LDC_PROBE_STAT_PIN_OWNER site) owns).setBit (LDC_PROBE_STAT_PIN_LOST site)
      (s.probeAsks site && !owns)) s
  match own with
  | some (d, _) => (s1.setFld (PRT_UIO_PRB_OWNER_VALID row) 1).setFld (PRT_UIO_PRB_OWNER row) d
  | none => (s1.setFld (PRT_UIO_PRB_OWNER_VALID row) 0).setFld (PRT_UIO_PRB_OWNER row) 0

/-- A write of LDC_PROBE_CTL (R159, R161-R163). -/
def State.probeCtlWrite (s : State) (site : Nat) (value : Word) : State :=
  let old := s.fld (LDC_PROBE_CTL_PCLK site)
  let s1 := s.setCsr (LDC_PROBE_CTL site) (value &&& 0x7F#32)
  let s2 := if s1.fld (LDC_PROBE_CTL_PCLK site) = old then s1
    else s1.setProbe site { s1.probe site with pipe := Vector.replicate 7 0 }
  s2.probeOwner (site / 16)

/-- The cubit output wire a lane register names: cubit coordinates and wire (R182). -/
def laneSource (r : Word) : Nat × Nat × Nat :=
  let c := bitsOf r 5 4
  (4 * bitsOf r 9 5 + c % 4, 4 * bitsOf r 14 5 + c / 4, bitsOf r 0 5)

/-- The value of a lane: the cubit output wire of its source (R158). -/
def State.laneValue (s : State) (site lane : Nat) : Bool :=
  let r := mapGet (s.probe site).src 0 lane
  let (x, y, w) := laneSource r
  r.getLsbD 31 && !s.acreHeld site (cubitAcre x y) && s.wire site (.out x y w)

/-- The 64 lanes of a die (R159). -/
def State.lanes (s : State) (site : Nat) : DWord :=
  (List.range 64).foldl (fun v n => if s.laneValue site n then v ||| BitVec.twoPow 64 n else v) 0

/-- PROBE_SEL_WRITE (R160). -/
def execProbeSelWrite (site lane : Fin 64) (value : Word) (s : State) : Host.Outcome State Fault Refusal :=
  .next (s.regWrite (LDC_PROBE_SEL site lane) fun s => (s.probeSelWrite site lane value, .ok))

/-- The probe clock of a die (R159). -/
def State.probeClock (s : State) (site : Nat) : Nat := s.fld (LDC_PROBE_CTL_PCLK site)

/-- PROBE_LANE_CHANGE (R160): the probe-clock edge at which a lane changes. -/
def execProbeLaneChange (site lane : Fin 64) (same : Bool) (s : State) : Host.Outcome State Fault Refusal :=
  .next (if s.clockRuns site (s.probeClock site) then
    (s.edgeAt (placeKey site 0) (s.probeClock site) same).probeLaneChange site lane else s)

/-- PROBE_CTL_WRITE (R162). -/
def execProbeCtlWrite (site : Fin 64) (value : Word) (s : State) : Host.Outcome State Fault Refusal :=
  .next (s.regWrite (LDC_PROBE_CTL site) fun s => (s.probeCtlWrite site value, .ok))

/-- The probe pins of a port die (R159, R162, R685), none for high impedance: in SAFE and until the die completes SP3; 0 while no die owns
them; else the lane group of the owning die as its pipeline shows it. -/
def State.probePins (s : State) (p : Nat) : Option Half :=
  if s.safe || !s.spaceAnswers (2 + p) then none
  else if !s.bit (PRT_UIO_PRB_OWNER_VALID p) then some 0
  else match s.siteOf (s.fld (PRT_UIO_PRB_OWNER p)) with
    | some site => some (((s.probe site).pipe[6]).extractLsb' (16 * s.fld (LDC_PROBE_CTL_PIN_GRP site)) 16)
    | none => some 0

/-! ### Trace (R165-R171) -/

/-- A trigger comes (R166): it is taken at the probe-clock edge that `after` others precede, if capture is armed then. -/
def State.traceTrigger (s : State) (site after : Nat) : State :=
  s.setProbe site { s.probe site with trigs := (s.probe site).trigs ++ [after] }

/-- A write of LDC_TRACE_CTL (R166, R170): ARM = 1 starts a capture afresh, SW_TRIG = 1 triggers at the next edge. -/
def State.traceCtlWrite (s : State) (site : Nat) (value : Word) : State :=
  let s1 := s.setCsr (LDC_TRACE_CTL site) (value &&& 0x03FF0017#32)
  let s2 := if value.getLsbD 0 then
      (s1.setCsr (LDC_TRACE_STAT site) 0).setProbe site { s1.probe site with left := none } else s1
  if value.getLsbD 3 then s2.traceTrigger site 0 else s2

/-- Store the oldest sample at WPTR and advance (R165). -/
def State.traceStore (s : State) (site : Nat) (v : DWord) : State :=
  let i := s.fld (LDC_TRACE_STAT_WPTR site)
  let s1 := (s.setCsr64 (LDC_TRACE_MEM site i) v).setFld (LDC_TRACE_STAT_WPTR site) (i + 1)
  let s2 := if i = 1023 then s1.setFld (LDC_TRACE_STAT_WRAPPED site) 1 else s1
  let p := s2.probe site
  s2.setProbe site { p with left := p.left.map (· - 1) }

/-- A trigger is taken at this edge (R166, R167): TRIG_PTR names the entry written at it, and POST more follow. POST counts as it stands
here (log entry 100). With DEST = 1 no entry is written at it, and TRIG_PTR shows WPTR (log entry 101). -/
def State.traceTaken (s : State) (site : Nat) : State :=
  let p := s.probe site
  let s1 := s.setProbe site { p with trigs := (p.trigs.filter (· ≠ 0)).map (· - 1) }
  if p.trigs.contains 0 && s.bit (LDC_TRACE_CTL_ARM site) && !s.bit (LDC_TRACE_STAT_TRIGGERED site) then
    let s2 := (s1.setFld (LDC_TRACE_STAT_TRIGGERED site) 1).setFld (LDC_TRACE_STAT_TRIG_PTR site) (s.fld (LDC_TRACE_STAT_WPTR site))
    s2.setProbe site { s2.probe site with
      left := some (s.fld (LDC_TRACE_CTL_POST site) + (if s.bit (LDC_PROBE_CTL_DEST site) then 0 else 1)) }
  else s1

/-- An edge of the probe clock (R158-R162, R165-R168), with the lanes as `v`: triggers are taken, the pipeline advances, and the sample that
reaches its end goes to the trace buffer or to the probe pins. -/
def State.probeEdge (s : State) (site : Nat) (v : DWord) : State :=
  let p := s.probe site
  let pipe : Vector DWord 7 := #v[v, p.pipe[0], p.pipe[1], p.pipe[2], p.pipe[3], p.pipe[4], p.pipe[5]]
  let s1 := (s.setProbe site { p with pipe := pipe }).traceTaken site
  if s.bit (LDC_PROBE_CTL_DEST site) then
    if s.bit (LDC_PROBE_STAT_PIN_OWNER site) then
      (match s1.probePins (site / 16) with
        | some w => s1.send (.probe site w)
        | none => s1)
    else s1
  else if s.bit (LDC_TRACE_CTL_ARM site) && (s1.probe site).left ≠ some 0 then s1.traceStore site p.pipe[2] else s1

/-- TRACE_ARM (R170): a write of LDC_TRACE_CTL with ARM = 1. -/
def execTraceArm (site : Fin 64) (value : Word) (s : State) : Host.Outcome State Fault Refusal :=
  .next (s.regWrite (LDC_TRACE_CTL site) fun s => (s.traceCtlWrite site (value ||| 1), .ok))

/-- TRACE_ENTRY_WRITE (R165): an edge of the probe clock, which samples the wires as they stood before it. -/
def execTraceEntryWrite (site : Fin 64) (same : Bool) (s : State) : Host.Outcome State Fault Refusal :=
  .next (if s.clockRuns site (s.probeClock site) then
    let t := s.edgeAt (placeKey site 0) (s.probeClock site) same
    t.probeEdge site (t.before.lanes site) else s)

/-- SW_TRIG (R166): a write of 1 to SW_TRIG. -/
def execSwTrig (site : Fin 64) (s : State) : Host.Outcome State Fault Refusal :=
  .next (s.regWrite (LDC_TRACE_CTL site) fun s => (s.traceTrigger site 0, .ok))

/-- NETWORK_TRIGGER (R166, R168): a trigger-network signal arrives at a die. The trigger-in taps read 1, and with TEN_NET = 1 the trigger is
taken at the first or the second probe-clock edge. -/
def execNetworkTrigger (site : Fin 64) (second : Bool) (s : State) : Host.Outcome State Fault Refusal :=
  let s1 := if s.fab.trigIn.contains site.val then s else { s with fab := { s.fab with trigIn := s.fab.trigIn ++ [site.val] } }
  .next (if s1.bit (LDC_TRACE_CTL_TEN_NET site) then s1.traceTrigger site second.toNat else s1)

/-- STOPPED (R167): POST further entries have been written after the trigger. -/
def execStopped (site : Fin 64) (s : State) : Host.Outcome State Fault Refusal :=
  .next (if s.bit (LDC_TRACE_CTL_ARM site) && (s.probe site).left = some 0 then
    ((s.setFld (LDC_TRACE_STAT_STOPPED site) 1).setFld (LDC_TRACE_CTL_ARM site) 0).setProbe site
      { s.probe site with left := none } else s)

end Sys2Proof.Machine
end

