-- ==== Sys2Proof/Machine/Bushel.lean ====
section
/-! DEFINITION. Bushels: rows, modes and codes, port accesses, scrub and diagnostic access (R183-R220), and the meanings of their
commands. -/

namespace Sys2Proof.Machine

open Sys2Proof

/-! ### Layout (R183-R190) -/

/-- MODE: light (R196). -/
def bshLight (cfg : BitVec 64) : Bool := cfg.getLsbD 0

/-- Data bits per check group (R183, R184). -/
def bshGroup (cfg : BitVec 64) : Nat :=
  if bshLight cfg && (bitsOf cfg 1 2 == 3 || bitsOf cfg 3 2 == 3) then 12 else 8

/-- Check groups per row (R183, R184). -/
def bshGroups (cfg : BitVec 64) : Nat := if bshLight cfg && bshGroup cfg == 8 then 12 else 8

/-- Distance between groups in a raw row (R185). -/
def bshStride (cfg : BitVec 64) : Nat := if bshLight cfg && bshGroup cfg == 8 then 9 else 13

/-- Word width of a port of shape `sh` (R189). -/
def bshWidth (cfg : BitVec 64) (sh : Nat) : Nat := (if bshLight cfg then 96 else 64) / 2 ^ sh

/-- The row a word address names at shape `sh` (R189, R190). -/
def bshRow (sh : Nat) (addr : BitVec 13) : Nat := addr.toNat / 2 ^ sh % 1024

/-- The first check group of the word an address names, and how many it has (R190). -/
def bshWordGroups (cfg : BitVec 64) (sh : Nat) (addr : BitVec 13) : Nat × Nat :=
  let n := bshWidth cfg sh / bshGroup cfg
  (n * (addr.toNat % 2 ^ sh), n)

/-- The stored data of group `j` of a raw row (R185). -/
def rowData (cfg : BitVec 64) (row : BitVec 109) (j : Nat) : Nat := bitsOf row (bshStride cfg * j) (bshGroup cfg)

/-- A raw row with `w` bits from bit `lo` replaced. -/
def rowPut (row : BitVec 109) (lo w v : Nat) : BitVec 109 :=
  let m := BitVec.ofNat 109 ((2 ^ w - 1) * 2 ^ lo)
  (row &&& ~~~m) ||| (BitVec.ofNat 109 (v % 2 ^ w * 2 ^ lo))

/-- Even-parity bit of a light group's data (R184). -/
def lightParity (v : Nat) : Bool := (List.range 12).foldl (fun p i => p ^^ v.testBit i) false

/-- Store a group's data with its check bits, the light-mode parity inverted where `inv` is true (R185, R186, R202). -/
def rowPutGroup (cfg : BitVec 64) (row : BitVec 109) (j v : Nat) (inv : Bool) : BitVec 109 :=
  let at_ := bshStride cfg * j
  if bshLight cfg then
    rowPut (rowPut row at_ (bshGroup cfg) v) (at_ + bshGroup cfg) 1 (lightParity v ^^ inv).toNat
  else rowPut row at_ 13 (secEncode (BitVec.ofNat 8 v)).toNat

/-- The valid bit of a row. -/
def rowValid (row : BitVec 109) : Bool := row.getLsbD 108

/-- Whether group `j` of a light row has wrong parity (R184). -/
def lightBad (cfg : BitVec 64) (row : BitVec 109) (j : Nat) : Bool :=
  row.getLsbD (bshStride cfg * j + bshGroup cfg) != lightParity (rowData cfg row j)

/-- Whether a row is poisoned (R183, R203). -/
def rowPoisoned (cfg : BitVec 64) (row : BitVec 109) : Bool :=
  if bshLight cfg then
    (List.range (bshGroups cfg)).all (lightBad cfg row) && (bshGroup cfg == 8 || bitsOf row 104 4 == 15)
  else row.getLsbD 104

/-! ### Reads (R187, R199, R204, R205) -/

/-- What a port shows of a word: data and the three flags, and what decoding found. -/
structure BshRead where
  dout   : BitVec 96
  poison : Bool
  err    : Bool
  ce     : Bool
  deriving DecidableEq, Repr

/-- Decode the groups of a word of a valid, unpoisoned row (R187, R205). -/
def rowDecode (cfg : BitVec 64) (row : BitVec 109) (base n : Nat) : BshRead :=
  (List.range n).foldl (fun r i =>
    let j := base + i
    if bshLight cfg then
      { r with dout := r.dout ||| BitVec.ofNat 96 (rowData cfg row j * 2 ^ (bshGroup cfg * i)), err := r.err || lightBad cfg row j }
    else
      let o := secDecode (row.extractLsb' (13 * j) 13)
      ⟨r.dout ||| BitVec.ofNat 96 (o.data.toNat * 2 ^ (8 * i)), r.poison || o.ue, r.err || o.ue, r.ce || o.ce⟩)
    ⟨0, false, false, false⟩

/-- A read of a word of a row. -/
def rowRead (cfg : BitVec 64) (row : BitVec 109) (sh : Nat) (addr : BitVec 13) : BshRead :=
  let (base, n) := bshWordGroups cfg sh addr
  if !rowValid row then ⟨0, false, false, false⟩
  else if rowPoisoned cfg row then
    ⟨(List.range n).foldl (fun d i => d ||| BitVec.ofNat 96 (rowData cfg row (base + i) * 2 ^ (bshGroup cfg * i))) 0,
      true, false, false⟩
  else rowDecode cfg row base n

/-! ### Writes (R200-R202) -/

/-- A write enables every group of the row (R201, R202). -/
def bshWhole (cfg : BitVec 64) (sh : Nat) (we : BitVec 12) : Bool :=
  sh == 0 && (List.range (bshGroups cfg)).all fun i => we.getLsbD i

/-- The enables of a word's groups. -/
def bshEnables (cfg : BitVec 64) (sh : Nat) (a : BshAccess) : BitVec 12 :=
  BitVec.ofNat 12 (bitsOf a.we 0 (bshWordGroups cfg sh a.addr).2)

/-- Whether an access writes (R192). -/
def bshWrites (cfg : BitVec 64) (sh : Nat) (a : BshAccess) : Bool := bshEnables cfg sh a != 0

/-- A row after a write that enables the groups of `en` (R200-R202); `a.we` decides whether the write covers the row. -/
def rowWrite (cfg : BitVec 64) (row : BitVec 109) (sh : Nat) (a : BshAccess) (en : BitVec 12) : BitVec 109 :=
  let (base, n) := bshWordGroups cfg sh a.addr
  let row0 := if rowValid row then row else 0
  let row1 := (List.range n).foldl (fun r i =>
    if en.getLsbD i then
      rowPutGroup cfg r (base + i) (bitsOf a.din (bshGroup cfg * i) (bshGroup cfg)) a.poisonIn else r) row0
  let whole := bshWhole cfg sh a.we
  let row2 :=
    if bshLight cfg then
      if whole && bshGroup cfg == 12 then rowPut row1 104 4 (if a.poisonIn then 15 else 0) else row1
    else
      let r := if a.poisonIn then rowPut row1 104 1 1 else if whole then rowPut row1 104 1 0 else row1
      if whole then rowPut r 105 3 0 else r
  rowPut row2 108 1 1

/-! ### The array -/

/-- A row of a bushel. -/
def State.bshRowAt (s : State) (site b r : Nat) : BitVec 109 := mapGet s.fab.rows 0 (bushelKey site b * 1024 + r)

/-- Store a row of a bushel. -/
def State.setBshRow (s : State) (site b r : Nat) (v : BitVec 109) : State :=
  { s with fab := { s.fab with rows := mapSet s.fab.rows 0 (bushelKey site b * 1024 + r) v } }

/-- A bushel's ports and scrub state. -/
def State.bsh (s : State) (site b : Nat) : BshSt := mapGet s.fab.bushels BshSt.zero (bushelKey site b)

/-- Change a bushel's ports and scrub state. -/
def State.setBsh (s : State) (site b : Nat) (x : BshSt) : State :=
  { s with fab := { s.fab with bushels := mapSet s.fab.bushels BshSt.zero (bushelKey site b) x } }

/-- Clear every valid bit of a bushel (R198). -/
def State.bshClear (s : State) (site b : Nat) : State :=
  let k := bushelKey site b
  { s with fab := { s.fab with
      rows := mapAdjust 0 (fun i => decide (k * 1024 ≤ i ∧ i < k * 1024 + 1024)) (fun v => v &&& ~~~(BitVec.twoPow 109 108)) s.fab.rows } }

/-- Count and record what an access found (R213). `src` is 0 for port A, 1 for port B, 2 for scrub. -/
def State.bshCount (s : State) (site b row src : Nat) (ce ue : Bool) : State :=
  let acre := b / 192
  let inj := s.injectedAt 4 (bushelKey site b * 1024 + row)
  let go (t : State) (f : Fld) (sev : Nat) : State :=
    t.raise f (8 + site) 0x11 (t.unitOf site) 0 sev ((t.csr (LDC_BSH_ERR_LOC site)).setWidth 64) (t.csr (LDC_BSH_CNT site acre)) inj
  let s1 := if ce then go (s.satInc (LDC_BSH_CNT_CE_CNT site acre)) (LDC_BSH_ERR_CE site) sevCorrected else s
  let s2 := if ue then
      go ((s1.satInc (LDC_BSH_CNT_UE_CNT site acre)).setCsr (LDC_BSH_ERR_LOC site)
        (BitVec.ofNat 32 (b + row * 2 ^ 10 + src * 2 ^ 20 + 2 ^ 22))) (LDC_BSH_ERR_UE site) sevDeferred
    else s1
  if ce || ue then s2.dropInjected 4 (bushelKey site b * 1024 + row) else s2

/-- A row is overwritten: a waiting scrub write-back and an injection there are dropped (R209, R985). -/
def State.bshOverwritten (s : State) (site b row : Nat) : State :=
  let x := s.bsh site b
  let s1 := s.dropInjected 4 (bushelKey site b * 1024 + row)
  match x.back with
  | some (r, _) => if r = row then s1.setBsh site b { x with back := none } else s1
  | none => s1

/-! ### Port accesses (R192-R207, R217, R218) -/

/-- A port that takes the result of an access (R193): where OREG = 1 it waits for the next edge of the port's clock, at which the output
register loads it (`BshPort.advance`). -/
def portShow (oreg : Bool) (p : BshPort) (r : BshRead) : BshPort :=
  let q := { p with sDout := r.dout, sPoison := r.poison, sErr := r.err, sCe := r.ce }
  if oreg then q else q.advance

/-- The row a reader sees when another clock's event changes it from `old` to `new` (R207): group `j` by bit `j` of `choice`, the
bits [107:104] outside the groups of a row of eight groups by bit 8. -/
def rowMixed (cfg : BitVec 64) (old new : BitVec 109) (choice : BitVec 12) : BitVec 109 :=
  if rowValid old && rowValid new then
    (List.range (bshGroups cfg)).foldl (fun r j =>
      if choice.getLsbD j then
        rowPut r (bshStride cfg * j) (bshStride cfg) (bitsOf new (bshStride cfg * j) (bshStride cfg)) else r)
      (if bshStride cfg = 13 ∧ choice.getLsbD 8 then rowPut old 104 4 (bitsOf new 104 4) else old)
  else if choice.getLsbD 0 then new else old

/-- Apply port accesses' write to the array, with the enables left to it. -/
def State.bshStore (s : State) (site b sh : Nat) (a : BshAccess) (en : BitVec 12) : State :=
  let cfg := s.bshCfg site b
  if en = 0 then s else
  let r := bshRow sh a.addr
  (s.setBshRow site b r (rowWrite cfg (s.bshRowAt site b r) sh a en)).bshOverwritten site b r

/-- The groups of the row that an access enables, as a mask over the whole row (R206). -/
def bshRowMask (cfg : BitVec 64) (sh : Nat) (a : BshAccess) : BitVec 12 :=
  bshEnables cfg sh a <<< (bshWordGroups cfg sh a.addr).1

/-- Whether two accesses write overlapping groups of one row (R206). -/
def bshOverlap (cfg : BitVec 64) (shA shB : Nat) (a b : BshAccess) : Bool :=
  bshRow shA a.addr == bshRow shB b.addr && (bshRowMask cfg shA a &&& bshRowMask cfg shB b) != 0

/-- The ports of a bushel run on one clock (R206). -/
def bshOneClock (cfg : BitVec 64) : Bool := bitsOf cfg 5 5 == bitsOf cfg 10 5

/-- The events of port A at an edge of its clock: CLEAR, then its write (R198, R206). -/
def State.bshEventsA (s : State) (site b : Nat) (e : BshEdge) : State :=
  let cfg := s.bshCfg site b
  let s1 := if e.clear then s.bshClear site b else s
  match e.a with
  | some a => s1.bshStore site b (bitsOf cfg 1 2) a (bshEnables cfg (bitsOf cfg 1 2) a)
  | none => s1

/-- The event of port B at an edge of its clock: its write. -/
def State.bshEventsB (s : State) (site b : Nat) (e : BshEdge) : State :=
  let cfg := s.bshCfg site b
  match e.b with
  | some x => s.bshStore site b (bitsOf cfg 3 2) x (bshEnables cfg (bitsOf cfg 3 2) x)
  | none => s

/-- The array after the events of one edge of one clock (R206): port A's data stand where both ports write. -/
def State.bshTogether (s : State) (site b : Nat) (e : BshEdge) : State :=
  let cfg := s.bshCfg site b
  let shA := bitsOf cfg 1 2
  let shB := bitsOf cfg 3 2
  let clr := if e.clear then s.bshClear site b else s
  match e.a, e.b with
  | some a, some x =>
    if bshOverlap cfg shA shB a x then
      let lost := (bshRowMask cfg shA a) >>> (bshWordGroups cfg shB x.addr).1
      let t := clr.bshStore site b shB x (bshEnables cfg shB x &&& ~~~lost)
      ((t.bshStore site b shA a (bshEnables cfg shA a))).raise (LDC_BSH_ERR_COLLIDE site) (8 + site) 0x11 (s.unitOf site) 0
        sevUncorrected ((s.csr (LDC_BSH_ERR_LOC site)).setWidth 64) (s.csr (LDC_BSH_CNT site (b / 192)))
    else (clr.bshEventsB site b e).bshEventsA site b { e with clear := false }
  | _, _ => (clr.bshEventsB site b e).bshEventsA site b { e with clear := false }

/-- A bushel's array around the events of an edge: before and after those of port A, before and after those of port B, and in the end. -/
structure BshTimes where
  beforeA : State
  afterA  : State
  beforeB : State
  afterB  : State
  last    : State

/-- The events of an edge in their order (R206, R207, R218): writes and CLEAR take effect from stage 2 only. On different clocks those of
one port come wholly before those of the other. -/
def State.bshTimes (s : State) (site b : Nat) (e : BshEdge) : BshTimes :=
  if (s.place (placeKey site (b / 192))).stage < 2 then ⟨s, s, s, s, s⟩
  else if bshOneClock (s.bshCfg site b) then
    let t := s.bshTogether site b e
    ⟨s, t, s, t, t⟩
  else if e.aLast then
    let t := s.bshEventsB site b e
    let u := t.bshEventsA site b e
    ⟨t, u, s, t, u⟩
  else
    let t := s.bshEventsA site b e
    let u := t.bshEventsB site b e
    ⟨s, t, t, u, u⟩

/-- The row that a read of one port sees (R206, R207): as it stood before the edge, where the ports run on one clock; else what the events
of the other port's clock leave, group by group as `choice` says, or whole where a valid bit changes or CLEAR falls at that edge. Between
CLEAR and the write that follows it the row may be seen too, by bit 1 of `choice`. -/
def State.bshSeen (s : State) (site b r : Nat) (e : BshEdge) (portB : Bool) : BitVec 109 :=
  let cfg := s.bshCfg site b
  let old := s.bshRowAt site b r
  if bshOneClock cfg || (s.place (placeKey site (b / 192))).stage < 2 then old
  else if !portB then rowMixed cfg old ((s.bshEventsB site b e).bshRowAt site b r) e.choice
  else if e.clear then
    (if e.choice.getLsbD 0 then (s.bshEventsA site b e).bshRowAt site b r
    else if e.choice.getLsbD 1 then (s.bshClear site b).bshRowAt site b r else old)
  else rowMixed cfg old ((s.bshEventsA site b e).bshRowAt site b r) e.choice

/-- The word a port shows after its access, if it decodes one: a read of `seen`, or a write with WRITE_FIRST or READ_FIRST, which show the
row `after` or `before` the port's own events (R194). At an edge with CLEAR, READ_FIRST shows the word before the CLEAR (log entry 102). -/
def bshShown (cfg : BitVec 64) (sh wmode : Nat) (a : BshAccess) (seen before after : BitVec 109) : Option BshRead :=
  if bshWrites cfg sh a then
    match wmode with
    | 0 => some (rowRead cfg after sh a.addr)
    | 1 => some (rowRead cfg before sh a.addr)
    | _ => none
  else some (rowRead cfg seen sh a.addr)

/-- Show a port's result and count what it found (R193, R194, R213, R217): a port that GSR holds shows zeros and counts nothing. -/
def State.bshPortShow (s : State) (site b src : Nat) (row : Nat) (r : Option BshRead) : State :=
  let x := s.bsh site b
  let cfg := s.bshCfg site b
  let sel := if src = 0 then bitsOf cfg 5 5 else bitsOf cfg 10 5
  match r with
  | none => s
  | some r =>
    if s.gsrHolds (placeKey site (b / 192)) sel then s else
    let s1 := s.setBsh site b (if src = 0 then { x with a := portShow (cfg.getLsbD 15) x.a r }
      else { x with b := portShow (cfg.getLsbD 16) x.b r })
    s1.bshCount site b row src r.ce r.err

/-- All events of an edge of a bushel (R192-R207, R217). -/
def State.bushelEdge (s : State) (site b : Nat) (e : BshEdge) : State :=
  let cfg := s.bshCfg site b
  let shA := bitsOf cfg 1 2
  let shB := bitsOf cfg 3 2
  let t := s.bshTimes site b e
  let s2 := match e.a with
    | some a =>
      let r := bshRow shA a.addr
      t.last.bshPortShow site b 0 r (bshShown cfg shA (bitsOf cfg 17 2) a (s.bshSeen site b r e false)
        (t.beforeA.bshRowAt site b r) (t.afterA.bshRowAt site b r))
    | none => t.last
  match e.b with
  | some x =>
    let r := bshRow shB x.addr
    s2.bshPortShow site b 1 r (bshShown cfg shB (bitsOf cfg 19 2) x (s.bshSeen site b r e true)
      (t.beforeB.bshRowAt site b r) (t.afterB.bshRowAt site b r))
  | none => s2

/-- A relocation holds the clocks of a place at their low phase (R725 steps 3 to 8). -/
def State.clocksHeld (s : State) (pl : Nat) : Bool := (s.place pl).gsrOff && (s.place pl).stage ≠ 3

/-- Port A, port B take part in an edge. -/
def bshUses (e : BshEdge) (portB : Bool) : Bool := if portB then e.b.isSome else e.a.isSome || e.clear

/-- The clock of a port. -/
def State.bshClk (s : State) (site b : Nat) (portB : Bool) : Nat := bitsOf (s.bshCfg site b) (if portB then 10 else 5) 5

/-- The clocks of the ports that take part run (R58, R192). -/
def State.bshClocked (s : State) (site b : Nat) (e : BshEdge) : Bool :=
  isLogicSite site && !s.clocksHeld (placeKey site (b / 192)) &&
    [false, true].all fun p => !bshUses e p || s.clockRuns site (s.bshClk site b p)

/-- The edges of the ports that take part come. -/
def State.bshClocks (s : State) (site b : Nat) (e : BshEdge) : State :=
  let pl := placeKey site (b / 192)
  let s1 := if bshUses e false then s.edgeAt pl (s.bshClk site b false) e.same else s
  if bshUses e true then s1.edgeAt pl (s.bshClk site b true) (e.same || bshUses e false) else s1

/-- An edge without what falls on a port whose divided clock has no edge there. -/
def State.bshTaken (s : State) (site b : Nat) (e : BshEdge) : BshEdge :=
  let has (p : Bool) : Bool := s.clockEdge (placeKey site (b / 192)) (s.bshClk site b p)
  { e with a := if has false then e.a else none, b := if has true then e.b else none, clear := e.clear && has false }

/-- A commanded edge of a bushel: none comes while a clock it names stands; where `p` does not hold of it, it is not of the command's kind
(log entry 1). -/
def State.bushelAt (s : State) (site b : Nat) (e : BshEdge) (p : State → Bool) : State :=
  if !s.bshClocked site b e || !p s then s else
  let t := s.bshClocks site b e
  t.bushelEdge site b (t.bshTaken site b e)

/-- Whether some access of the edge reads, or writes (R192). -/
def State.bshHas (s : State) (site b : Nat) (e : BshEdge) (writes : Bool) : Bool :=
  let cfg := s.bshCfg site b
  e.a.any (fun a => bshWrites cfg (bitsOf cfg 1 2) a == writes) || e.b.any (fun a => bshWrites cfg (bitsOf cfg 3 2) a == writes)

/-- BUSHEL_READ (R193): an edge at which a port reads. -/
def execBushelRead (site : Fin 64) (bushel : Fin 768) (e : BshEdge) (s : State) : Host.Outcome State Fault Refusal :=
  .next (s.bushelAt site bushel e fun s => s.bshHas site bushel e false)

/-- BUSHEL_WRITE (R194): an edge at which a port writes. -/
def execBushelWrite (site : Fin 64) (bushel : Fin 768) (e : BshEdge) (s : State) : Host.Outcome State Fault Refusal :=
  .next (s.bushelAt site bushel e fun s => s.bshHas site bushel e true)

/-- CLEAR (R198): a port A edge with CLEAR = 1. -/
def execClear (site : Fin 64) (bushel : Fin 768) (e : BshEdge) (s : State) : Host.Outcome State Fault Refusal :=
  .next (s.bushelAt site bushel e fun _ => e.clear)

/-! ### Scrub (R208-R212) -/

/-- What scrub finds in a row: errors, and the row with its correctable bytes encoded again. -/
def rowScrub (cfg : BitVec 64) (row : BitVec 109) : BshRead × BitVec 108 :=
  let n := bshGroups cfg
  let r := rowDecode cfg row 0 n
  let fixed := if bshLight cfg then row else (List.range n).foldl (fun t j =>
    let o := secDecode (row.extractLsb' (13 * j) 13)
    if o.ce then rowPut t (13 * j) 13 (secEncode o.data).toNat else t) row
  (r, fixed.setWidth 108)

/-- PASSES counts the passes every bushel of the acre has completed (R212): passes a faster bushel completes ahead count towards later
increments (log entry 107). -/
def State.bshPasses (s : State) (site acre : Nat) : Nat :=
  (List.range 192).foldl (fun m i => min m (s.bsh site (192 * acre + i)).passes) (s.bsh site (192 * acre)).passes

/-- The scrub of a bushel moves to its next row (R208, R212). -/
def State.scrubAdvance (s : State) (site b : Nat) : State :=
  let x := s.bsh site b
  if x.row = 1023 then
    let before := s.bshPasses site (b / 192)
    let s1 := s.setBsh site b { x with row := 0, passes := x.passes + 1 }
    s1.setFld (LDC_BSH_SCRUB_PASSES site (b / 192))
      (s.fld (LDC_BSH_SCRUB_PASSES site (b / 192)) + (s1.bshPasses site (b / 192) - before))
  else s.setBsh site b { x with row := x.row + 1 }

/-- One scrubbed row (R208-R210, R213). -/
def State.scrubRow (s : State) (site b : Nat) : State :=
  let cfg := s.bshCfg site b
  let x := s.bsh site b
  let row := s.bshRowAt site b x.row
  if !rowValid row || rowPoisoned cfg row then s.scrubAdvance site b
  else
    let (r, fixed) := rowScrub cfg row
    let s1 := s.bshCount site b x.row 2 r.ce r.err
    let s2 := if r.ce then s1.setBsh site b { s1.bsh site b with back := some (x.row, fixed) } else s1
    s2.scrubAdvance site b

/-- An idle cycle of port B (R208, R209, R214): an edge of its clock, at which `f` acts. -/
def State.idleB (s : State) (site b : Nat) (same : Bool) (f : State → State) : State :=
  let pl := placeKey site (b / 192)
  let sel := s.bshClk site b true
  if !isLogicSite site || s.clocksHeld pl || !s.clockRuns site sel then s else
  let t := s.edgeAt pl sel same
  if t.clockEdge pl sel then f t else t

/-- SCRUB_ROW (R208, R211): the row spacing has expired and port B has an idle cycle. -/
def execScrubRow (site : Fin 64) (bushel : Fin 768) (same : Bool) (s : State) : Host.Outcome State Fault Refusal :=
  .next (if s.bit (LDC_BSH_SCRUB_EN site (bushel / 192)) then s.idleB site bushel same fun s => s.scrubRow site bushel else s)

/-- A corrected row that waits is written back (R209). -/
def State.scrubWriteBack (s : State) (site b : Nat) : State :=
  match (s.bsh site b).back with
  | some (r, v) =>
    let keep := (s.bshRowAt site b r) &&& BitVec.twoPow 109 108
    (s.setBshRow site b r (keep ||| v.setWidth 109)).setBsh site b { s.bsh site b with back := none }
  | none => s

/-- SCRUB_WRITE_BACK (R209): the next idle port B cycle after a corrected row. -/
def execScrubWriteBack (site : Fin 64) (bushel : Fin 768) (same : Bool) (s : State) : Host.Outcome State Fault Refusal :=
  .next (if (s.bsh site bushel).back.isSome then s.idleB site bushel same fun s => s.scrubWriteBack site bushel else s)

/-! ### Diagnostic access (R214-R216, R1024) -/

/-- Perform a diagnostic access on raw bits and end it (R214). -/
def State.diagPerform (s : State) (site : Nat) (w : Word) : State :=
  let b := bitsOf w 0 10
  let r := bitsOf w 10 10
  let s1 :=
    if w.getLsbD 20 then
      let d3 := s.csr (LDC_BSH_DIAG_DATA3 site)
      let v : Nat := (s.csr (LDC_BSH_DIAG_DATA site 0)).toNat + (s.csr (LDC_BSH_DIAG_DATA site 1)).toNat * 2 ^ 32 +
        (s.csr (LDC_BSH_DIAG_DATA site 2)).toNat * 2 ^ 64 + bitsOf d3 0 12 * 2 ^ 96 + bitsOf d3 16 1 * 2 ^ 108
      (s.setBshRow site b r (BitVec.ofNat 109 v)).bshOverwritten site b r
    else
      let v := s.bshRowAt site b r
      (((s.setCsr (LDC_BSH_DIAG_DATA site 0) (v.extractLsb' 0 32)).setCsr (LDC_BSH_DIAG_DATA site 1) (v.extractLsb' 32 32)).setCsr
        (LDC_BSH_DIAG_DATA site 2) (v.extractLsb' 64 32)).setCsr (LDC_BSH_DIAG_DATA3 site)
          (BitVec.ofNat 32 (bitsOf v 96 12 + 2 ^ 16 * bitsOf v 108 1))
  let s2 := (s1.setFld (LDC_BSH_DIAG_CTL_GO site) 0).setFld (LDC_BSH_DIAG_CTL_BUSY site) 0
  { s2 with fab := { s2.fab with diags := mapSet s2.fab.diags 0 site 0 } }

/-- A write of LDC_BSH_DIAG_CTL by Level S (R214, R216, R272, R1024). -/
def State.diagWrite (s : State) (site : Nat) (value : Word) : State :=
  let s1 := s.setCsr (LDC_BSH_DIAG_CTL site) ((s.csr (LDC_BSH_DIAG_CTL site) &&& 0xFFE00000#32) ||| (value &&& 0x1FFFFF#32))
  if value.getLsbD 21 && !s.bit (LDC_BSH_DIAG_CTL_BUSY site) then
    if 768 ≤ bitsOf value 0 10 then s1.setFld (LDC_BSH_ERR_DIAG_BAD site) 1
    else
      let s2 := (s1.setFld (LDC_BSH_DIAG_CTL_GO site) 1).setFld (LDC_BSH_DIAG_CTL_BUSY site) 1
      let s3 := { s2 with fab := { s2.fab with diags := mapSet s2.fab.diags 0 site value } }
      if (s.place (placeKey site (bitsOf value 0 10 / 192))).loading then s3.diagPerform site value else s3
  else s1

/-- DIAG_GO (R214, R1024): a write of LDC_BSH_DIAG_CTL with GO = 1. -/
def execDiagGo (mid : BitVec 12) (site : Fin 64) (value : Word) (s : State) : Host.Outcome State Fault Refusal :=
  .next (levelSWrite s mid (LDC_BSH_DIAG_CTL site) fun s => s.diagWrite site (value ||| 0x200000#32))

/-- The bushel of the diagnostic access that runs on a die. -/
def State.diagBushel (s : State) (site : Nat) : Nat := bitsOf (mapGet s.fab.diags 0 site) 0 10

/-- DIAG_ACCESS (R214): an idle port B cycle of the addressed bushel. -/
def execDiagAccess (site : Fin 64) (same : Bool) (s : State) : Host.Outcome State Fault Refusal :=
  .next (if s.bit (LDC_BSH_DIAG_CTL_BUSY site) then
    s.idleB site (s.diagBushel site) same fun s => s.diagPerform site (mapGet s.fab.diags 0 site) else s)

/-- A diagnostic access of a place that runs when the place's load begins is completed at once (R216). -/
def State.diagAtLoad (s : State) (pl : Nat) : State :=
  if s.bit (LDC_BSH_DIAG_CTL_BUSY (pl / 4)) && s.diagBushel (pl / 4) / 192 = pl % 4 then
    s.diagPerform (pl / 4) (mapGet s.fab.diags 0 (pl / 4)) else s

/-- DIAG_TIMEOUT (R215): no idle port B cycle within 10 µs of GO. -/
def execDiagTimeout (site : Fin 64) (s : State) : Host.Outcome State Fault Refusal :=
  .next (if s.bit (LDC_BSH_DIAG_CTL_BUSY site) then
    let s1 := ((s.setFld (LDC_BSH_DIAG_CTL_GO site) 0).setFld (LDC_BSH_DIAG_CTL_BUSY site) 0).setFld (LDC_BSH_ERR_DIAG_TIMEOUT site) 1
    { s1 with fab := { s1.fab with diags := mapSet s1.fab.diags 0 site 0 } } else s)

end Sys2Proof.Machine
end

