-- ==== Sys2Proof/Machine/Stops.lean ====
section
/-! DEFINITION. Rings, stops, addresses and paths (R4, R279-R288, R731), and where the acres and their gates are. -/

namespace Sys2Proof.Machine

open Sys2Proof

/-! ### Stops (R282) -/

/-- What a stop ID names. -/
inductive StopKind where
  /-- stop `j` of logical die `ld` -/
  | logic (ld j : Nat)
  /-- stop `k` of hub `h` -/
  | hub (h k : Nat)
  /-- stop `k` of port die `p` -/
  | port (p k : Nat)
  /-- stop `j` of the third-party die `x` -/
  | third (x j : Nat)
  | reserved
  deriving DecidableEq, Repr

/-- What a stop ID names (R282). -/
def stopKind (stop : Nat) : StopKind :=
  if stop < 384 then (if stop % 8 < 7 then .logic (stop / 8) (stop % 8) else .reserved)
  else if stop < 448 then
    let h := (stop - 384) / 32
    let k := stop % 32
    if k < 15 ∨ k = 16 ∨ (k = 15 ∧ h = 0) then .hub h k else .reserved
  else if stop < 480 then (if stop % 8 < 6 then .port ((stop - 448) / 8) (stop % 8) else .reserved)
  else .third ((stop - 480) / 16) (stop % 16)

/-- The stop of a hub block (R282). -/
def hubStop (h k : Nat) : Nat := 384 + 32 * h + k

/-- The stop of a port-die block (R282). -/
def portStop (p k : Nat) : Nat := 448 + 8 * p + k

/-- Slot position of a stop on its die ring (R282). -/
def stopPos (stop : Nat) : Nat :=
  match stopKind stop with
  | .logic _ j => if j < 4 then 4 * j else if j = 4 then 20 else if j = 5 then 24 else 16
  | .hub _ k => if k = 16 then 22 else if 4 ≤ k then 2 * (k - 4) - (if k = 15 then 2 else 0) else 0
  | .port _ k => 4 * k
  | _ => 0

/-- The die ring a stop lies on, if it lies on one; the other stops of a hub sit on its switch (R279, R281). -/
def dieRing (stop : Nat) : Option Nat :=
  match stopKind stop with
  | .logic d _ => some d
  | .hub h k => if 4 ≤ k ∧ k ≠ 14 then some (48 + h) else none
  | .port p _ => some (50 + p)
  | _ => none

/-- A ring on which a stop receives packets, for its RING_SLOW and error flags: its die ring, or the ring of its hub. -/
def ringOf (stop : Nat) : Nat :=
  match dieRing stop with
  | some r => r
  | none => match stopKind stop with
    | .hub h k => if k = 0 then 55 + h else if k = 1 then 54 + 3 * h else if k = 2 then 58 else if k = 3 then 59 else 48 + h
    | .third x _ => 48 + x
    | _ => 48

/-- Lanes of a ring (R279). -/
def ringLanes (r : Nat) : Nat := if 54 ≤ r ∧ r < 58 then 4 else if r < 60 then 2 else 0

/-- Slots per lane of a ring (R279). -/
def ringSlots (r : Nat) : Nat := if 54 ≤ r ∧ r < 58 then 128 else if 58 ≤ r then 64 else 32

/-- Home stop of a ring (R279). -/
def ringHome (r : Nat) : Nat :=
  if r < 48 then 8 * r + 4 else if r < 50 then hubStop (r - 48) 16 else if r < 54 then portStop (r - 50) 5
  else if r < 58 then portStop (r - 54) 0 else hubStop 0 (2 + (r - 58))

/-- The CSR space of the die a stop lies on; a logic die's is that of the site that holds it. -/
def State.stopSpace (s : State) (stop : Nat) : Nat :=
  match stopKind stop with
  | .logic d _ => 8 + (s.siteOf d).getD 0
  | .hub h _ => h
  | .port p _ => 2 + p
  | .third x _ => x
  | .reserved => 0

/-! ### Addresses (R4, R287) -/

/-- The stop an address resolves to (R4, R25, R287, R332). -/
def State.resolve (s : State) (a : Nat) : Option Nat :=
  if a < 0x001000000000 then some (hubStop (a / 0x000800000000) 5)
  else if a < 0x005000000000 then some (hubStop ((a - 0x001000000000) / 0x002000000000) 5)
  else if 0x008000000000 ≤ a ∧ a < 0x008020000000 then some (hubStop ((a - 0x008000000000) / 0x10000000) 6)
  else if 0x00C000000000 ≤ a ∧ a < 0x00CC00000000 then
    let d := (a - 0x00C000000000) / 0x40000000
    let off := a % 0x40000000
    if (s.siteOf d).isNone then none
    else if off < 0x20000000 then some (8 * d + off / 0x08000000)
    else if 0x3F000000 ≤ off ∧ off < 0x3F040000 then some (8 * d + 5) else none
  else if 0x00E000000000 ≤ a ∧ a < 0x00E800000000 then some (hubStop ((a - 0x00E000000000) / 0x000400000000) 14)
  else if 0x00F000000000 ≤ a ∧ a < 0x00F002000000 then some (hubStop ((a - 0x00F000000000) / 0x01000000) 16)
  else if 0x00F100000000 ≤ a ∧ a < 0x00F103000000 then
    let d := (a - 0x00F100000000) / 0x100000
    if (s.siteOf d).isNone then none else some (8 * d + 4)
  else if 0x00F200000000 ≤ a ∧ a < 0x00F204000000 then some (portStop ((a - 0x00F200000000) / 0x01000000) 5)
  else none

/-! ### Paths (R280-R288) -/

/-- One ring of a path: the ring, the stop at which packets enter it, and the lane they use. -/
structure Leg where
  ring  : Nat
  entry : Nat
  lane  : Nat
  deriving DecidableEq, Repr

/-- The lane on a die ring from one stop to another (R283). -/
def dieLane (a b : Nat) : Nat :=
  let f := (stopPos b + 32 - stopPos a) % 32
  let g := (stopPos a + 32 - stopPos b) % 32
  if f ≤ g then 0 else 1

/-- Where a stop hangs in the package: the stop by which its die joins the row ring or the hub switch, its row, its column. -/
structure Anchor where
  /-- its die has a die ring, whose exit is this stop -/
  exit  : Option Nat
  /-- its row, for a logic or port die -/
  row   : Option Nat
  /-- its hub, for a stop of a hub or of the X die beside it -/
  hub   : Nat
  col   : Nat
  deriving DecidableEq, Repr

/-- The site whose die ring delivers a stop's packets: the site of its die, or the host a relocated acre runs on (R731). -/
def State.stopSite (s : State) (stop : Nat) : Option Nat :=
  match (List.range 32).find? (fun k => s.bit (CFG_RELOC_MAP_VALID k) && s.fld (CFG_RELOC_MAP_STOP k) = stop) with
  | some k => some (s.fld (CFG_RELOC_MAP_SITE k))
  | none => s.siteOf (stop / 8)

/-- Where a stop hangs. -/
def State.anchor (s : State) (stop : Nat) : Anchor :=
  match stopKind stop with
  | .logic d _ =>
    let site := (s.stopSite stop).getD 0
    ⟨some (8 * d + 6), some (site / 16), site / 32, site % 16⟩
  | .port p _ => ⟨some (portStop p 0), some p, p / 2, 0⟩
  | .hub h k => ⟨if 4 ≤ k ∧ k ≠ 14 then some (hubStop h 4) else none, none, h, 8⟩
  | .third x _ => ⟨none, none, x, 8⟩
  | .reserved => ⟨none, none, 0, 8⟩

/-- The center stop of a row (R280). -/
def centerStop (row : Nat) : Nat := hubStop (row / 2) (if row = 1 ∨ row = 2 then 0 else 1)

/-- The lane of a row ring from column to column, for a packet inserted by stop `ins` (R285). -/
def rowLane (ins a b : Nat) : Nat := (if a < b then 0 else 2) + ins % 2

/-- The rings a packet crosses from `src` to `dst` (R288), with direction 0 for requests and 1 for completions (R286). -/
def State.path (s : State) (src dst dir : Nat) : List Leg :=
  let a := s.anchor src
  let b := s.anchor dst
  if dieRing src ≠ none ∧ dieRing src = dieRing dst ∧ a.row = b.row ∧ a.col = b.col then
    match dieRing src with
    | some r => [⟨r, src, dieLane src dst⟩]
    | none => []
  else
    let first := match dieRing src, a.exit with
      | some r, some e => if src = e then [] else [⟨r, src, dieLane src e⟩]
      | _, _ => []
    let last := match dieRing dst, b.exit with
      | some r, some e => if dst = e then [] else [⟨r, e, dieLane e dst⟩]
      | _, _ => []
    let mid :=
      match a.row, b.row with
      | some r, some r' =>
        if r = r' then [⟨54 + r, a.exit.getD 0, rowLane (a.exit.getD 0) a.col b.col⟩]
        else
          [⟨54 + r, a.exit.getD 0, rowLane (a.exit.getD 0) a.col 8⟩] ++
          (if a.hub = b.hub then [] else [⟨58 + dir, hubStop a.hub (2 + dir), a.hub⟩]) ++
          [⟨54 + r', centerStop r', rowLane (centerStop r') 8 b.col⟩]
      | some r, none =>
        [⟨54 + r, a.exit.getD 0, rowLane (a.exit.getD 0) a.col 8⟩] ++
        (if a.hub = b.hub then [] else [⟨58 + dir, hubStop a.hub (2 + dir), a.hub⟩])
      | none, some r' =>
        (if a.hub = b.hub then [] else [⟨58 + dir, hubStop a.hub (2 + dir), a.hub⟩]) ++
        [⟨54 + r', centerStop r', rowLane (centerStop r') 8 b.col⟩]
      | none, none => if a.hub = b.hub then [] else [⟨58 + dir, hubStop a.hub (2 + dir), a.hub⟩]
    first ++ mid ++ last

/-! ### Acres and gates (R332-R337, R731, R1026) -/

/-- A gate completes every request to its window with ERR_FENCED (R337, R903, R982). -/
def State.gateFenced (s : State) (ld gate : Nat) : Bool :=
  s.safe || s.fenced ||
  match s.acrePlace ld (gate / 4) with
  | some pl => (s.place pl).loading || (s.place pl).clamped || (s.place pl).stage < 1
  | none => true

/-- A gate takes no new request: it is fenced, or its acre quiesces (R720). -/
def State.gateShut (s : State) (ld gate : Nat) : Bool :=
  s.gateFenced ld gate || s.fld (CFG_ACRE_STATE (4 * ld + gate / 4)) = 5

/-- A gate's enable bit in frame 0x2000 (R701, R1026). -/
def State.gateEnabled (s : State) (ld gate : Nat) : Bool :=
  match s.acrePlace ld (gate / 4) with
  | some pl => (s.frame pl 0x2000).getLsbD (16 * (gate % 4) + 3)
  | none => false

end Sys2Proof.Machine
end

