-- ==== Sys2Proof/Machine/Tile.lean ====
section
/-! DEFINITION. MAC tiles (R221-R257, R267): the instruction fields, the operations, address generators, loops, streams and
poison, and the meanings of the tile commands. -/

namespace Sys2Proof.Machine

open Sys2Proof

/-! ### Places and memories -/

/-- The key of a tile. -/
def tileKey (site t : Nat) : Nat := site * 128 + t

/-- The place of a tile's acre. -/
def tilePlace (site t : Nat) : Nat := placeKey site (t / 32)

/-- A tile. -/
def State.tile (s : State) (site t : Nat) : TileSt := mapGet s.fab.tiles TileSt.zero (tileKey site t)

/-- Change a tile. -/
def State.setTile (s : State) (site t : Nat) (x : TileSt) : State :=
  { s with fab := { s.fab with tiles := mapSet s.fab.tiles TileSt.zero (tileKey site t) x } }

/-- The key of a data word: tile, bank and word. -/
def tmemKey (site t bank n : Nat) : Nat := tileKey site t * 512 + bank * 256 + n

/-- A stored data word. -/
def State.tword (s : State) (key : Nat) : BitVec 105 := mapGet s.fab.tmem 0 key

/-- Store a data word (R222); an injection in it is overwritten (R985). -/
def State.setTword (s : State) (key : Nat) (v : BitVec 105) : State :=
  { s with fab := { s.fab with tmem := mapSet s.fab.tmem 0 key v } }.dropInjected 5 key

/-- A stored instruction word. -/
def State.iword (s : State) (site t n : Nat) : BitVec 104 := mapGet s.fab.imem 0 (tileKey site t * 32 + n)

/-- A data word and its poison bit as they are stored (R222). -/
def tileCoded (v : DWord) (poison : Bool) : BitVec 105 :=
  (secEncode8 v).setWidth 105 ||| (if poison then BitVec.twoPow 105 104 else 0)

/-! ### Errors (R254, R266) -/

/-- LDC_MT_ECNT (R258). -/
def TileSt.ecnt (x : TileSt) : Word := BitVec.ofNat 32 (x.ceCnt + 65536 * x.ueCnt)

/-- Set bit `b` of LDC_MT_ERR of a tile and report it (R266, R987). -/
def State.tileErr (s : State) (site t b sev : Nat) (inj : Bool := false) : State :=
  let x := s.tile site t
  (s.setTile site t { x with err := x.err ||| BitVec.twoPow 6 b }).report (8 + site) 0x12 (s.unitOf site) b sev
    (BitVec.ofNat 64 t) x.ecnt inj

/-- Count what one access found (R254). `memory` is false for an instruction fetch, whose uncorrectable error is IFETCH_UE. -/
def State.tileCount (s : State) (site t : Nat) (ce ue memory : Bool) (inj : Bool) : State :=
  let x := s.tile site t
  let s1 := if ce then
    (s.setTile site t { x with ceCnt := min (x.ceCnt + 1) 65535 }).tileErr site t 5 sevCorrected inj else s
  let y := s1.tile site t
  let s2 := if ue then s1.setTile site t { y with ueCnt := min (y.ueCnt + 1) 65535 } else s1
  if ue && memory then s2.tileErr site t 3 sevDeferred inj else s2

/-- Read a data word: its data, whether it is poisoned or uncorrectable, and the state with the errors counted (R254). -/
def State.tileRead (s : State) (site t bank n : Nat) : DWord × Bool × State :=
  let k := tmemKey site t bank n
  let w := s.tword k
  let o := secDecode8 (w.setWidth 104)
  let s1 := s.tileCount site t o.ce o.ue true (s.injectedAt 5 k)
  (o.data, w.getLsbD 104 || o.ue, if o.ce || o.ue then s1.dropInjected 5 k else s1)

/-! ### Instruction fields (R228) -/

/-- OP. -/
def tiOp (w : DWord) : Nat := bitsOf w 0 6
/-- ACC. -/
def tiAcc (w : DWord) : Bool := w.getLsbD 11
/-- SPLIT. -/
def tiSplit (w : DWord) : Bool := w.getLsbD 10
/-- XSRC. -/
def tiXsrc (w : DWord) : Nat := bitsOf w 12 2
/-- YSRC. -/
def tiYsrc (w : DWord) : Nat := bitsOf w 14 2
/-- XAG. -/
def tiXag (w : DWord) : Nat := bitsOf w 16 2
/-- YAG. -/
def tiYag (w : DWord) : Nat := bitsOf w 18 2
/-- DST. -/
def tiDst (w : DWord) : Nat := bitsOf w 22 2
/-- DAG. -/
def tiDag (w : DWord) : Nat := bitsOf w 24 2
/-- END. -/
def tiEnd (w : DWord) : Nat := bitsOf w 39 5
/-- PSEL. -/
def tiPsel (w : DWord) : Nat := bitsOf w 44 4
/-- IMM. -/
def tiImm (w : DWord) : Nat := bitsOf w 48 16

/-- Reserved encodings (R231). -/
def tiIllegal (w : DWord) : Bool :=
  0x10 < tiOp w || bitsOf w 6 2 == 3 || bitsOf w 30 2 == 3 || (tiOp w == 0x0F && 4 < tiPsel w)

/-- Whether the operation reads its X operand (R229). -/
def tiReadsX (w : DWord) : Bool := [0x01, 0x02, 0x03, 0x05, 0x08].contains (tiOp w)
/-- Whether the operation reads its Y operand (R229). -/
def tiReadsY (w : DWord) : Bool := [0x01, 0x02, 0x03].contains (tiOp w)
/-- Whether the operation writes DST (R244). -/
def tiWritesDst (w : DWord) : Bool := [0x06, 0x07, 0x08, 0x0A, 0x0D].contains (tiOp w)

/-! ### Values (R224-R233) -/

/-- A lane as an integer (R224). -/
def laneOf (v : DWord) (lo w : Nat) (signed : Bool) : Int := if signed then signedOf w (bitsOf v lo w) else (bitsOf v lo w : Int)

/-- The lane products of an instruction (R224). -/
def laneProducts (w : DWord) (x y : DWord) : List Int :=
  let (n, wx, dy, wy) : Nat × Nat × Nat × Nat := match bitsOf w 6 2 with
    | 0 => (2, 24, 24, 18)
    | 1 => (4, 12, 12, 9)
    | _ => (8, 8, 8, 8)
  (List.range n).map fun j => laneOf x (wx * j) wx (w.getLsbD 8) * laneOf y (dy * j) wy (w.getLsbD 9)

/-- Shift and round (R232 step 2): TRUNC, RHU and RHE. -/
def tiShift (rnd sh : Nat) (v : Int) : Int :=
  if sh = 0 then v else
  let p : Int := 2 ^ sh
  match rnd with
  | 0 => v / p
  | 1 => (v + p / 2) / p
  | _ =>
    let q := v / p
    let r := v - q * p
    if r * 2 < p then q else if r * 2 > p then q + 1 else if q % 2 = 0 then q else q + 1

/-- Saturate or wrap (R232 step 4): the 64-bit result, and whether it changed the value (R233). -/
def tiSat (w : DWord) (v : Int) : DWord × Bool :=
  if w.getLsbD 27 then
    let n : Nat := match bitsOf w 28 2 with
      | 0 => 64 | 1 => 48 | 2 => 32 | _ => 16
    let hi : Int := 2 ^ (n - 1) - 1
    let lo : Int := -(2 ^ (n - 1))
    let c := if v < lo then lo else if hi < v then hi else v
    (BitVec.ofInt 64 c, decide (c ≠ v))
  else
    let r := BitVec.ofInt 64 v
    (r, decide (r.toInt ≠ v))

/-- The number of bits below bit 63 that equal bit 63, from bit 62 down (R230). -/
def rsb (v : DWord) : Nat :=
  match (List.range 63).find? (fun i => v.getLsbD (62 - i) != v.getLsbD 63) with
  | some i => i
  | none => 63

/-! ### Address generators (R235-R238) -/

/-- Reverse the low `n` bits of a number, dropping the others (R236). -/
def revBits : Nat → Nat → Nat
  | 0, _ => 0
  | n + 1, v => (v % 2) * 2 ^ n + revBits n (v / 2)

/-- The exponent of MOD where it is a power of two (R236). -/
def powTwo? (m : Nat) : Option Nat := (List.range 9).find? (fun n => 2 ^ n = m)

/-- The address a generator gives (R235); in BITREV mode with a MOD that is no power of two, `open_` (log entry 3). -/
def AddrGen.addr (g : AddrGen) (open_ : Nat) : Nat :=
  if g.mode = 2 then
    match powTwo? (g.modM1.toNat + 1) with
    | some n => (g.base.toNat + revBits n g.offset.toNat) % 256
    | none => open_ % 256
  else (g.base.toNat + g.offset.toNat) % 256

/-- A generator after an advance (R235). -/
def AddrGen.advance (g : AddrGen) : AddrGen :=
  let sum : Int := g.offset.toNat + g.stride.toInt
  if g.mode = 1 ∨ g.mode = 2 then { g with offset := BitVec.ofInt 8 (sum % ((g.modM1.toNat : Int) + 1)) }
  else { g with offset := BitVec.ofInt 8 (sum % 256) }

/-- SETAG (R237). -/
def AddrGen.set (g : AddrGen) (psel imm : Nat) : AddrGen :=
  match psel with
  | 0 => { g with base := BitVec.ofNat 8 imm }
  | 1 => { g with stride := BitVec.ofNat 8 imm }
  | 2 => { g with modM1 := BitVec.ofNat 8 imm }
  | 3 => { g with mode := BitVec.ofNat 2 imm }
  | _ => { g with offset := BitVec.ofNat 8 imm }

/-- Generator `i` of a tile. -/
def TileSt.ag (x : TileSt) (i : Nat) : AddrGen := x.ags[Fin.ofNat 4 i]

/-- Change generator `i` of a tile. -/
def TileSt.setAg (x : TileSt) (i : Nat) (g : AddrGen) : TileSt := { x with ags := x.ags.set (i % 4) g (Nat.mod_lt _ (by decide)) }

/-- The generators an instruction advances: each that one of its memory uses names with its INC bit (R238, R244). -/
def tiAdvances (w : DWord) : List Nat :=
  ((if tiReadsX w && tiXsrc w < 2 && w.getLsbD 20 then [tiXag w] else []) ++
   (if tiReadsY w && tiYsrc w < 2 && w.getLsbD 21 then [tiYag w] else []) ++
   (if tiWritesDst w && 2 ≤ tiDst w && w.getLsbD 26 then [tiDag w] else [])).dedup

/-- A tile after its instruction's advances. -/
def TileSt.advance (x : TileSt) (w : DWord) : TileSt :=
  (tiAdvances w).foldl (fun t i => t.setAg i (t.ag i).advance) x

/-! ### Loops and flow (R239-R242) -/

/-- The PC and the loop stack after the instruction at `pc` completes (R240, R242). -/
def loopNext (pc : Nat) : List TileLoop → Nat × List TileLoop
  | [] => ((pc + 1) % 32, [])
  | l :: ls => if l.last = pc then
      if 1 < l.count then (l.first, { l with count := l.count - 1 } :: ls) else loopNext pc ls
    else ((pc + 1) % 32, l :: ls)

/-- A tile moved on from its instruction (R240, R242). -/
def TileSt.next (x : TileSt) : TileSt :=
  let r := loopNext x.pc x.loops
  { x with pc := r.1, loops := r.2, mode := .run, waitOn := 0 }

/-- Whether REP breaks a loop rule (R241). -/
def repBad (x : TileSt) (w : DWord) : Bool :=
  3 ≤ x.loops.length || tiEnd w ≤ x.pc || tiImm w / 4096 ≠ 0 ||
    (match x.loops with
      | [] => false
      | l :: _ => l.last < tiEnd w)

/-! ### Operands and results -/

/-- What an instruction waits for at issue: 1 IS0, 2 IS1, 3 OS, 0 nothing (R244). -/
def TileSt.waits (x : TileSt) (w : DWord) : Nat :=
  let empty (src : Nat) : Bool := (src = 2 && x.is0.isEmpty) || (src = 3 && x.is1.isEmpty)
  if tiReadsX w && empty (tiXsrc w) then tiXsrc w - 1
  else if tiReadsY w && empty (tiYsrc w) then tiYsrc w - 1
  else if tiWritesDst w && tiDst w = 1 && x.os.length = 4 then 3 else 0

/-- An operand word: a bank's word by its generator, or a stream's oldest word; whether it is poisoned; the state after. The
stream word stays until both operands have read it (R226). -/
def State.tileOperand (s : State) (site t src ag : Nat) (open_ : Nat) : DWord × Bool × State :=
  let x := s.tile site t
  let head (q : List (BitVec 48 × Bool)) : DWord × Bool × State := match q with
    | [] => (0, false, s)
    | (d, p) :: _ => (d.setWidth 64, p, s)
  match src with
  | 2 => head x.is0
  | 3 => head x.is1
  | b => s.tileRead site t b ((x.ag ag).addr (open_ / 256 ^ ag))

/-- Take the stream words an instruction has read (R226). -/
def TileSt.takeStreams (x : TileSt) (w : DWord) : TileSt :=
  let uses (src : Nat) : Bool := (tiReadsX w && tiXsrc w = src) || (tiReadsY w && tiYsrc w = src)
  { x with is0 := if uses 2 then x.is0.drop 1 else x.is0, is1 := if uses 3 then x.is1.drop 1 else x.is1 }

/-- The operands of an instruction, whether either is poisoned, and the state after reading them. -/
structure TileOps where
  x      : DWord
  y      : DWord
  poison : Bool
  open_  : Nat
  state  : State

/-- Whether some generator the instruction uses gives an address the spec leaves open (R236). -/
def TileSt.openAddr (x : TileSt) (w : DWord) : Bool :=
  let bad (i : Nat) : Bool := (x.ag i).mode = 2 && (powTwo? ((x.ag i).modM1.toNat + 1)).isNone
  (tiReadsX w && tiXsrc w < 2 && bad (tiXag w)) || (tiReadsY w && tiYsrc w < 2 && bad (tiYag w)) ||
    (tiWritesDst w && 2 ≤ tiDst w && bad (tiDag w))

/-- Read the operands an instruction reads (R223-R227, R244). -/
def State.tileOperands (s : State) (site t : Nat) (w : DWord) : TileOps :=
  let (o, s0) := if (s.tile site t).openAddr w then ((s.free).1.toNat, (s.free).2) else (0, s)
  let (x, px, s1) := if tiReadsX w then s0.tileOperand site t (tiXsrc w) (tiXag w) o else (0, false, s0)
  let (y, py, s2) := if tiReadsY w then s1.tileOperand site t (tiYsrc w) (tiYag w) o else (0, false, s1)
  ⟨x, y, px || py, o, s2.setTile site t ((s2.tile site t).takeStreams w)⟩

/-- Write DST with its poison (R234, R251). -/
def State.tileDst (s : State) (site t : Nat) (w : DWord) (open_ : Nat) (v : DWord) (poison : Bool) : State :=
  let x := s.tile site t
  match tiDst w with
  | 0 => s
  | 1 => s.setTile site t { x with os := x.os ++ [(v.setWidth 48, poison)] }
  | d => s.setTword (tmemKey site t (d - 2) ((x.ag (tiDag w)).addr (open_ / 256 ^ tiDag w))) (tileCoded v poison)

/-- An accumulator with its poison flag. -/
def TileSt.acc (x : TileSt) (one : Bool) : DWord × Bool := if one then (x.acc1, x.pois1) else (x.acc0, x.pois0)

/-- Write an accumulator with its poison flag. -/
def TileSt.setAcc (x : TileSt) (one : Bool) (v : DWord) (poison : Bool) : TileSt :=
  if one then { x with acc1 := v, pois1 := poison } else { x with acc0 := v, pois0 := poison }

/-- Set OVF if a step clamped or wrapped (R233). -/
def State.tileOvf (s : State) (site t : Nat) (ovf : Bool) : State :=
  if ovf then s.tileErr site t 4 sevUncorrected else s

/-- MUL, MAC and MSU (R224, R225, R232, R250, R252). `sign` is 0 for MUL, 1 for MAC, -1 for MSU. -/
def State.tileProduct (s : State) (site t : Nat) (w : DWord) (o : TileOps) (sign : Int) : State :=
  let p := laneProducts w o.x o.y
  let half := p.length / 2
  let one (s : State) (which : Bool) (v : Int) : State :=
    let x := s.tile site t
    let sh := tiShift (bitsOf w 30 2) (bitsOf w 32 6) v
    let r := tiSat w (if sign = 0 then sh else (x.acc which).1.toInt + sign * sh)
    (s.setTile site t (x.setAcc which r.1 (o.poison || (sign ≠ 0 && (x.acc which).2)))).tileOvf site t r.2
  if tiSplit w then one (one s false (p.take half).sum) true (p.drop half).sum
  else one s (tiAcc w) p.sum

/-- The value MOVA and MOVAC write, and its poison (R232, R251). -/
def tileMove (x : TileSt) (w : DWord) : (DWord × Bool) × Bool :=
  let a := x.acc (tiAcc w)
  let shbe := w.getLsbD 38
  let v : Int := if shbe then a.1.toInt * 2 ^ x.be.toNat else a.1.toInt
  (tiSat w (tiShift (bitsOf w 30 2) (bitsOf w 32 6) v), a.2 || (shbe && x.poisBe))

/-- The effect of a legal, fetched and issued instruction, apart from the PC (R229). -/
def State.tileEffect (s : State) (site t : Nat) (w : DWord) (o : TileOps) : State :=
  let x := s.tile site t
  let a := x.acc (tiAcc w)
  match tiOp w with
  | 0x01 => s.tileProduct site t w o 0
  | 0x02 => s.tileProduct site t w o 1
  | 0x03 => s.tileProduct site t w o (-1)
  | 0x04 => s.setTile site t (x.setAcc (tiAcc w) 0 false)
  | 0x05 =>
    let v : Int := if 2 ≤ tiXsrc w then signedOf 48 (bitsOf o.x 0 48) else o.x.toInt
    let r := tiSat w v
    (s.setTile site t (x.setAcc (tiAcc w) r.1 o.poison)).tileOvf site t r.2
  | 0x06 =>
    let r := tileMove x w
    (s.tileDst site t w o.open_ r.1.1 r.2).tileOvf site t r.1.2
  | 0x07 =>
    let r := tileMove x w
    let s1 := (s.tileDst site t w o.open_ r.1.1 r.2).tileOvf site t r.1.2
    s1.setTile site t ((s1.tile site t).setAcc (tiAcc w) 0 false)
  | 0x08 => s.tileDst site t w o.open_ o.x o.poison
  | 0x09 => s.setTile site t ({ x with e := BitVec.ofNat 6 (rsb a.1) }.setAcc (tiAcc w) (a.1 <<< rsb a.1) a.2)
  | 0x0A => (s.setTile site t { x with e := BitVec.ofNat 6 (rsb a.1) }).tileDst site t w o.open_ (BitVec.ofNat 64 (rsb a.1)) a.2
  | 0x0B => s.setTile site t { x with be := BitVec.ofNat 6 (min x.be.toNat (rsb a.1)), poisBe := x.poisBe || a.2 }
  | 0x0C => s.setTile site t { x with be := BitVec.ofNat 6 (tiImm w), poisBe := false }
  | 0x0D => s.tileDst site t w o.open_ (x.be.setWidth 64) x.poisBe
  | 0x0F => s.setTile site t (x.setAg (tiXag w) ((x.ag (tiXag w)).set (tiPsel w) (tiImm w)))
  | _ => s

/-- The tile halts in ERROR with a bit of LDC_MT_ERR set (R231, R241, R253, R267). -/
def State.tileHalt (s : State) (site t b : Nat) (inj : Bool := false) : State :=
  (s.setTile site t { s.tile site t with mode := .error, waitOn := 0 }).tileErr site t b sevUncorrected inj

/-- A legal instruction at issue: it waits, halts on a loop rule, stops, or takes effect and moves on (R229-R244). -/
def State.tileIssue (s : State) (site t : Nat) (w : DWord) : State :=
  let x := s.tile site t
  if x.waits w ≠ 0 then s.setTile site t { x with mode := .wait, waitOn := x.waits w }
  else if tiOp w = 0x10 then s.setTile site t { x with mode := .done, waitOn := 0 }
  else if tiOp w = 0x0E then
    if repBad x w then s.tileHalt site t 1
    else s.setTile site t { x with loops := ⟨x.pc + 1, tiEnd w, tiImm w % 4096 + 1⟩ :: x.loops, pc := (x.pc + 1) % 32,
                                   mode := .run, waitOn := 0 }
  else
    let o := s.tileOperands site t w
    let s1 := o.state.tileEffect site t w o
    s1.setTile site t (((s1.tile site t).advance w).next)

/-- Fetch the instruction at the PC and issue it (R229-R231, R253, R254). A fetch is counted when the tile first issues it, not
again while it waits. -/
def State.tileFetch (s : State) (site t : Nat) : State :=
  let x := s.tile site t
  let o := secDecode8 (s.iword site t x.pc)
  let s1 := if x.mode = .run then s.tileCount site t o.ce o.ue false false else s
  if o.ue then s1.tileHalt site t 2
  else if tiIllegal o.data then s1.tileHalt site t 0
  else s1.tileIssue site t o.data

/-- Whether the tile may issue: its GSR is released, TCLK runs, it runs or waits, and no STOP holds it (R221, R247, R255). -/
def State.tileRuns (s : State) (site t : Nat) : Bool :=
  let x := s.tile site t
  isLogicSite site && s.acreClocked (tilePlace site t) && s.clockRuns site (bitsOf x.ctl 13 3) && !x.mode.halted &&
    !x.stopReq

/-- The instruction command of a tile operation: it is the operation the tile's PC names, or a fetch or an encoding that names
none (R229, R231, R253); otherwise the command does not occur. -/
def State.tileOp (s : State) (site t op : Nat) : State :=
  let o := secDecode8 (s.iword site t (s.tile site t).pc)
  if s.tileRuns site t && (o.ue || 0x10 < tiOp o.data || tiOp o.data = op) then s.tileFetch site t else s

/-! ### Control (R246-R249) -/

/-- GO or FGO (R246, R249). -/
def State.tileGo (s : State) (site t : Nat) : State :=
  let x := s.tile site t
  if s.acreClocked (tilePlace site t) && x.mode.halted then
    s.setTile site t { x with loops := [], pc := bitsOf x.ctl 8 5, mode := .run, waitOn := 0, stopReq := false }
  else s

/-- A write of 1 to STOP (R247): a tile that does not run has no boundary to halt at. -/
def State.tileStop (s : State) (site t : Nat) : State :=
  let x := s.tile site t
  if x.mode.halted then s else s.setTile site t { x with stopReq := true }

/-- A write of 1 to RESUME (R248). -/
def State.tileResume (s : State) (site t : Nat) : State :=
  let x := s.tile site t
  if x.mode = .stopped then s.setTile site t { x with mode := .run, stopReq := false } else s

/-- The host port of a tile answers: its acre is at stage 2, not loading and not isolated (R263). -/
def State.tileOpen (s : State) (site t : Nat) : Bool :=
  isLogicSite site && 2 ≤ (s.place (tilePlace site t)).stage && !s.acreHeld site (t / 32)

/-- GO (R246): GO written through the host port, or FGO rising. -/
def execGo (site : Fin 64) (tile : Fin 128) (fgo : Bool) (s : State) : Host.Outcome State Fault Refusal :=
  .next (if fgo || s.tileOpen site tile then s.tileGo site tile else s)

/-- STOP (R247). -/
def execStop (site : Fin 64) (tile : Fin 128) (s : State) : Host.Outcome State Fault Refusal :=
  .next (if s.tileOpen site tile then s.tileStop site tile else s)

/-- TILE_STOP_HALT (R247): the next instruction boundary after STOP. -/
def execTileStopHalt (site : Fin 64) (tile : Fin 128) (s : State) : Host.Outcome State Fault Refusal :=
  let x := s.tile site tile
  .next (if x.stopReq && !x.mode.halted then s.setTile site tile { x with mode := .stopped, stopReq := false, waitOn := 0 } else s)

/-- RESUME (R248). -/
def execResume (site : Fin 64) (tile : Fin 128) (s : State) : Host.Outcome State Fault Refusal :=
  .next (if s.tileOpen site tile then s.tileResume site tile else s)

/-! ### Instructions -/

/-- NOP (R229): the tile's PC is at this operation. -/
def execMtNop (site : Fin 64) (tile : Fin 128) (s : State) : Host.Outcome State Fault Refusal := .next (s.tileOp site tile 0x00)

/-- MUL (R229, R232): the tile's PC is at this operation. -/
def execMul (site : Fin 64) (tile : Fin 128) (s : State) : Host.Outcome State Fault Refusal := .next (s.tileOp site tile 0x01)

/-- MAC (R229, R232): the tile's PC is at this operation. -/
def execMac (site : Fin 64) (tile : Fin 128) (s : State) : Host.Outcome State Fault Refusal := .next (s.tileOp site tile 0x02)

/-- MSU (R229, R232): the tile's PC is at this operation. -/
def execMsu (site : Fin 64) (tile : Fin 128) (s : State) : Host.Outcome State Fault Refusal := .next (s.tileOp site tile 0x03)

/-- CLRA (R229): the tile's PC is at this operation. -/
def execClra (site : Fin 64) (tile : Fin 128) (s : State) : Host.Outcome State Fault Refusal := .next (s.tileOp site tile 0x04)

/-- LDA (R229): the tile's PC is at this operation. -/
def execLda (site : Fin 64) (tile : Fin 128) (s : State) : Host.Outcome State Fault Refusal := .next (s.tileOp site tile 0x05)

/-- MOVA (R229, R232): the tile's PC is at this operation. -/
def execMova (site : Fin 64) (tile : Fin 128) (s : State) : Host.Outcome State Fault Refusal := .next (s.tileOp site tile 0x06)

/-- MOVAC (R229, R232): the tile's PC is at this operation. -/
def execMovac (site : Fin 64) (tile : Fin 128) (s : State) : Host.Outcome State Fault Refusal := .next (s.tileOp site tile 0x07)

/-- MOVX (R229): the tile's PC is at this operation. -/
def execMovx (site : Fin 64) (tile : Fin 128) (s : State) : Host.Outcome State Fault Refusal := .next (s.tileOp site tile 0x08)

/-- NORM (R229, R230): the tile's PC is at this operation. -/
def execNorm (site : Fin 64) (tile : Fin 128) (s : State) : Host.Outcome State Fault Refusal := .next (s.tileOp site tile 0x09)

/-- EXP (R229, R230): the tile's PC is at this operation. -/
def execExp (site : Fin 64) (tile : Fin 128) (s : State) : Host.Outcome State Fault Refusal := .next (s.tileOp site tile 0x0a)

/-- BEXP (R229, R250): the tile's PC is at this operation. -/
def execBexp (site : Fin 64) (tile : Fin 128) (s : State) : Host.Outcome State Fault Refusal := .next (s.tileOp site tile 0x0b)

/-- SETBE (R229): the tile's PC is at this operation. -/
def execSetbe (site : Fin 64) (tile : Fin 128) (s : State) : Host.Outcome State Fault Refusal := .next (s.tileOp site tile 0x0c)

/-- MOVBE (R229): the tile's PC is at this operation. -/
def execMovbe (site : Fin 64) (tile : Fin 128) (s : State) : Host.Outcome State Fault Refusal := .next (s.tileOp site tile 0x0d)

/-- REP (R239, R241): the tile's PC is at this operation. -/
def execRep (site : Fin 64) (tile : Fin 128) (s : State) : Host.Outcome State Fault Refusal := .next (s.tileOp site tile 0x0e)

/-- SETAG (R237): the tile's PC is at this operation. -/
def execSetag (site : Fin 64) (tile : Fin 128) (s : State) : Host.Outcome State Fault Refusal := .next (s.tileOp site tile 0x0f)

/-- HALT (R229): the tile's PC is at this operation. -/
def execHalt (site : Fin 64) (tile : Fin 128) (s : State) : Host.Outcome State Fault Refusal := .next (s.tileOp site tile 0x10)

/-! ### Streams (R243, R255) -/

/-- STREAM_WORD (R243): an edge of TPCLK with VALID and READY both 1 on a stream. For OS the word is the buffer's oldest. -/
def execStreamWord (site : Fin 64) (tile : Fin 128) (stream : TileStream) (data : BitVec 48) (poison : Bool) (s : State) :
    Host.Outcome State Fault Refusal :=
  let x := s.tile site tile
  .next (if s.acreClocked (tilePlace site tile) && s.clockRuns site (bitsOf x.ctl 13 3) then
    match stream with
    | .is0 => if x.is0.length < 4 then s.setTile site tile { x with is0 := x.is0 ++ [(data, poison)] } else s
    | .is1 => if x.is1.length < 4 then s.setTile site tile { x with is1 := x.is1 ++ [(data, poison)] } else s
    | .os => match x.os with
      | [] => s
      | (d, p) :: q => (s.setTile site tile { x with os := q }).send (.tileWord (tileKey site tile) d p)
    else s)

end Sys2Proof.Machine
end

