-- ==== Sys2Proof/Machine/Acre.lean ====
section
/-! DEFINITION. Physical acres: GSR, isolation, emptying, the writing of frames with the contention check, and the three stages
of a release (R119-R128, R136, R155-R157, R197, R255, R697-R701, R716, R717, R721). -/

namespace Sys2Proof.Machine

open Sys2Proof

/-! ### What a place holds -/

/-- The place of a cubit's key. -/
def cubitPlace (k : Nat) : Nat := placeKey (k / 16384) (cubitAcre (k % 128) (k % 16384 / 128))

/-- The place of a tile's key. -/
def tileKeyPlace (k : Nat) : Nat := tilePlace (k / 128) (k % 128)

/-- The key of a segment's driver count. -/
def segKey (site : Nat) (g : LeagueSeg) : Nat := site * 32768 + g.index

/-- The place a driver count belongs to (R119, R122). -/
def segPlace (k : Nat) : Nat :=
  let line := k / 256 % 32
  let half := k % 4 / 2
  placeKey (k / 32768) (if k / 8192 % 4 = 0 then 2 * (line / 16) + half else 2 * half + line / 16)

/-- The generator registers of tile `t` of a place as the host last wrote them (R258, R737), kept at an index no frame has. -/
def hostAgIndex (t : Nat) : Nat := 0x3000 + t

/-! ### GSR (R155, R156, R217, R255) -/

/-- Generator `n` as frame bits give it: AGCFG then AGOFF (R258, R699). -/
def agImage (f : BitVec 4096) (n : Nat) : AddrGen :=
  let c := 2048 + 64 * n
  ⟨f.extractLsb' c 8, f.extractLsb' (c + 8) 8, f.extractLsb' (c + 16) 8, f.extractLsb' (c + 24) 2, f.extractLsb' (c + 32) 8⟩

/-- A tile under GSR (R255). -/
def TileSt.held (x : TileSt) (f : BitVec 4096) : TileSt :=
  { x with
    acc0 := 0, acc1 := 0, pois0 := false, pois1 := false, e := 0, be := 63, poisBe := false
    ags := Vector.ofFn (fun n : Fin 4 => agImage f n.val)
    loops := [], pc := bitsOf x.ctl 8 5, mode := .idle, waitOn := 0, is0 := [], is1 := [], os := [], stopReq := false }

/-- Tile `t` of a place, by its site and number. -/
def placeTile (pl t : Nat) : Nat × Nat := (pl / 4, 32 * (pl % 4) + t)

/-- What remains of a cubit's state when GSR is asserted (R98): in word mode nothing, in bit mode all but Q, which reads Q_INIT. -/
def State.cubitGsr (s : State) (k : Nat) (c : Option CubitSt) : Option CubitSt :=
  let cfg := s.cubitCfg (k / 16384) (k % 128) (k % 16384 / 128)
  if cubitBitMode cfg then c.map (cubitInit cfg) else none

/-- GSR of a place is asserted (R155, R156): cubits take their GSR values at once, bushel ports and tiles theirs. -/
def State.gsrAssert (s : State) (pl : Nat) : State :=
  let s1 := s.setPlace pl { s.place pl with gsrOff := false }
  let f := s1.fab
  let s2 := { s1 with fab := { f with
      cubits := mapWith none (fun k c => if cubitPlace k = pl then s1.cubitGsr k c else c) f.cubits
      bushels := mapAdjust BshSt.zero (fun k => bushelPlace k = pl)
        (fun (b : BshSt) => { b with a := BshPort.zero, b := BshPort.zero }) f.bushels } }
  (List.range 32).foldl (fun u t =>
    let st := (placeTile pl t).1
    let n := (placeTile pl t).2
    u.setTile st n ((u.tile st n).held (u.frame pl (0x600 + 16 * t)))) s2

/-! ### Isolation and emptiness (R716, R721) -/

/-- The frames of the clamp values and the pin hold states (R701). -/
def clampFrames : List Nat := [0x2008, 0x2009, 0x200A, 0x200B, 0x200C]

/-- The pins of a port die keep O and OE where the acre of R680 is isolated (R702). -/
def State.pinsAtIsolation (s : State) (pl : Nat) : State :=
  match (List.range 4).find? fun p => s.portPlace p = some pl with
  | some p => s.holdPins p
  | none => s

/-- A place is isolated (R721): clamp values and pin hold states are latched from its frames, its clamps hold and GSR is asserted. -/
def State.isolatePlace (s : State) (pl : Nat) : State :=
  let s1 := clampFrames.foldl (fun t i =>
    { t with fab := { t.fab with latched := mapSet t.fab.latched 0 (pl * 16384 + i) (t.frame pl i) } }) s
  ((s1.setPlace pl { s1.place pl with clamped := true, loading := false, stage := 0 }).pinsAtIsolation pl).gsrAssert pl

/-- Every configuration bit of a place is 0 and its driver counts are zero (R125, R697, R716). What a MAC tile holds of its image goes
with them; bushel rows keep their contents (R219). -/
def State.zeroFrames (s : State) (pl : Nat) : State :=
  let f := s.fab
  let s1 := { s with fab := { f with
      frames := mapDrop (fun k => k / 16384 = pl) f.frames
      drivers := mapDrop (fun k => segPlace k = pl) f.drivers
      imem := mapDrop (fun k => tileKeyPlace (k / 32) = pl) f.imem
      tmem := mapDrop (fun k => tileKeyPlace (k / 512) = pl) f.tmem } }
  let s2 := (List.range 32).foldl (fun u t =>
    let st := (placeTile pl t).1
    let n := (placeTile pl t).2
    u.setTile st n { u.tile st n with ctl := 0 }) s1
  s2.gsrAssert pl

/-- A place is EMPTY (R716): configuration bits 0, GSR asserted, no clamp value latched. -/
def State.emptyPlace (s : State) (pl : Nat) : State :=
  ({ s with fab := { s.fab with latched := mapDrop (fun k => k / 16384 = pl) s.fab.latched } }.zeroFrames pl).setPlace pl
    PlaceSt.zero

/-- The load of a place begins (R155, R197, R697): frames and driver counts are zeroed, valid bits of its bushels are cleared, GSR is
asserted. A place that was isolated keeps its clamps (R721). With `skip` its bushel rows and data memories will be restored (R728). -/
def State.beginPlace (s : State) (pl : Nat) : State :=
  let s1 := { s with fab := { s.fab with
      rows := mapAdjust 0 (fun k => bushelPlace (k / 1024) = pl) (fun v => v &&& ~~~(BitVec.twoPow 109 108)) s.fab.rows } }
  let s2 := s1.zeroFrames pl
  (s2.setPlace pl { s2.place pl with loading := true, gsrOff := false, stage := 0 }).diagAtLoad pl

/-! ### Drivers a frame enables (R121, R122, R125, R700, R701) -/

/-- Positions of the bits of a value below `n` that are 1. -/
def setBits {w : Nat} (v : BitVec w) (lo n : Nat) : List Nat := (List.range n).filter fun i => v.getLsbD (lo + i)

/-- The segment, if any, that the junction field of a perch drives: `line` and `pos` are the perch's coordinates across and along the
track. -/
def junctionSeg (orient line pos t j : Nat) : Option LeagueSeg :=
  if pos % 16 = 7 then
    (if j = 1 then some ⟨orient, line, t, pos / 8 + 1⟩ else if j = 2 then some ⟨orient, line, t, pos / 8⟩ else none)
  else if (pos = 15 ∧ j = 2) ∨ (pos = 16 ∧ j = 1) then some ⟨orient, line, t, pos / 8⟩ else none

/-- The segments the drivers of a frame drive, at a place, for a logical acre. -/
def frameDrivers (pl la fidx : Nat) (v : BitVec 4096) : List LeagueSeg :=
  let a := pl % 4
  if 0x200 ≤ fidx ∧ fidx < 0x600 ∧ (fidx - 0x200) % 4 = 0 then
    let k := (fidx - 0x200) / 4
    let py := 16 * (a / 2) + k / 16
    let px := 16 * (a % 2) + k % 16
    ((setBits v 0 64).map fun t => ⟨0, py, t, px / 8⟩) ++ ((setBits v 64 64).map fun t => ⟨1, px, t, py / 8⟩) ++
      ((List.range 64).filterMap fun t => junctionSeg 0 py px t (bitsOf v (128 + 2 * t) 2)) ++
      ((List.range 64).filterMap fun t => junctionSeg 1 px py t (bitsOf v (256 + 2 * t) 2))
  else if fidx = 0x2002 then
    (List.range 16).flatMap fun i => (setBits v (64 * i) (crossTracks (la / 4) a false)).map fun t =>
      ⟨0, 16 * (a / 2) + i, t, if a % 2 = 0 then 0 else 3⟩
  else if fidx = 0x2003 then
    (List.range 16).flatMap fun i => (setBits v (32 * i) (crossTracks (la / 4) a true)).map fun t =>
      ⟨1, 16 * (a % 2) + i, t, if a < 2 then 0 else 3⟩
  else []

/-- The first driver of a list on a segment that is driven already (R126). -/
def contended (counts : Map Nat) (site : Nat) : List LeagueSeg → Option LeagueSeg
  | [] => none
  | g :: gs => if mapGet counts 0 (segKey site g) = 0 then contended (mapSet counts 0 (segKey site g) 1) site gs else some g

/-- A group on an edge is enabled, or an inbound driver of a crossing is, or a junction half at the acre boundary (R723). -/
def relocBad (pl la fidx : Nat) (v : BitVec 4096) : Bool :=
  let a := pl % 4
  if fidx = 0x2002 ∨ fidx = 0x2003 then !(frameDrivers pl la fidx v).isEmpty
  else if fidx = 0x2001 then
    (List.range 32).any fun i => v.getLsbD (4 * i + 3) && crossTracks (la / 4) a (decide (16 ≤ i)) ≠ 0
  else if 0x200 ≤ fidx ∧ fidx < 0x600 ∧ (fidx - 0x200) % 4 = 0 then
    let k := (fidx - 0x200) / 4
    let py := 16 * (a / 2) + k / 16
    let px := 16 * (a % 2) + k % 16
    let half (pos base : Nat) : Bool :=
      (pos = 15 && (List.range 64).any fun t => bitsOf v (base + 2 * t) 2 = 2) ||
        (pos = 16 && (List.range 64).any fun t => bitsOf v (base + 2 * t) 2 = 1)
    half px 128 || half py 256
  else false

/-! ### Writing a frame -/

/-- Whether the frame map assigns an index (R699, R701). -/
def frameAssigned (fidx : Nat) : Bool :=
  fidx < 0x600 || (0x600 ≤ fidx && fidx < 0x800 && fidx % 16 ≤ 8) || (0x800 ≤ fidx && fidx < 0x2000 && fidx % 32 ≤ 27) ||
    (0x2000 ≤ fidx && fidx ≤ 0x2003) || clampFrames.contains fidx

/-- Whether an index holds bushel rows or MAC-tile data memory (R728). -/
def frameMemory (fidx : Nat) : Bool :=
  (0x600 ≤ fidx && fidx < 0x800 && fidx % 16 ≠ 0) || (0x800 ≤ fidx && fidx < 0x2000 && fidx % 32 < 27)

/-- Put the bits of a frame into a place (R699), without their effect on tiles and bushels. -/
def State.setFrameBits (s : State) (pl fidx : Nat) (v : BitVec 4096) : State :=
  { s with fab := { s.fab with frames := mapSet s.fab.frames 0 (pl * 16384 + fidx) v } }

/-- What a MAC-tile frame gives its tile (R699). -/
def State.loadTile (s : State) (pl t k : Nat) (v : BitVec 4096) : State :=
  let st := (placeTile pl t).1
  let n := (placeTile pl t).2
  if k = 0 then
    let s1 := (List.range 32).foldl (fun u i => { u with fab := { u.fab with
      imem := mapSet u.fab.imem 0 (tileKey st n * 32 + i) (secEncode8 (v.extractLsb' (64 * i) 64)) } }) s
    let s2 := s1.setFrameBits pl (hostAgIndex t) ((v.extractLsb' 2048 256).setWidth 4096)
    s2.setTile st n (({ s2.tile st n with ctl := (v.extractLsb' 2304 10).setWidth 32 <<< 8 }).held v)
  else (List.range 64).foldl (fun u i =>
    let w := 64 * (k - 1) + i
    u.setTword (tmemKey st n (w / 256) (w % 256)) (tileCoded (v.extractLsb' (64 * i) 64) false)) s

/-- Raw row `r` of a bushel as the initial-row frames of its place give it (R699). -/
def State.imageRow (s : State) (pl b r : Nat) : BitVec 108 :=
  let lo := 108 * r
  let a := (s.frame pl (0x800 + 32 * b + lo / 4096)).toNat / 2 ^ (lo % 4096)
  let rest := lo % 4096 + 108 - 4096
  let c := if 4096 < lo % 4096 + 108 then
      (s.frame pl (0x800 + 32 * b + lo / 4096 + 1)).toNat % 2 ^ rest * 2 ^ (108 - rest) else 0
  BitVec.ofNat 108 (a + c)

/-- The configuration frame of a bushel: with INIT_EN its rows are written and become valid (R196, R197). The load of this frame starts the
scrub of the bushel afresh: row, passes and a waiting write-back; a load without it leaves them (log entry 108). -/
def State.loadBushel (s : State) (pl b : Nat) (v : BitVec 4096) (skip : Bool) : State :=
  let n := 192 * (pl % 4) + b
  let s1 := { s with fab := { s.fab with bushels := mapSet s.fab.bushels BshSt.zero (bushelKey (pl / 4) n) BshSt.zero } }
  if v.getLsbD 21 && !skip then
    (List.range 1024).foldl (fun u r => u.setBshRow (pl / 4) n r ((u.imageRow pl b r).setWidth 109 ||| BitVec.twoPow 109 108)) s1
  else s1

/-- A frame is refused under R126: the location registers, the count and the flag (R127). -/
def State.contention (s : State) (site la fidx : Nat) (g : LeagueSeg) : State :=
  let s1 := s.setCsr (LDC_CONT_FRAME site) (BitVec.ofNat 32 (fidx + 16384 * la))
  let s2 := s1.setCsr (LDC_CONT_SEG site) (BitVec.ofNat 32 (g.orient + 2 * g.line + 64 * g.track + 4096 * g.seg + 16384))
  (s2.satInc (LDC_CONT_CNT_CNT site)).raiseFab (LDC_FAB_ERR_CONTENTION site) site

/-- A checked frame is written to a place (R126, R127, R699, R728): false and no bit written when a driver is contended. -/
def State.writeFrame (s : State) (pl la fidx : Nat) (v : BitVec 4096) (skip : Bool) : Bool × State :=
  let gs := frameDrivers pl la fidx v
  match contended s.fab.drivers (pl / 4) gs with
  | some g => (false, s.contention (pl / 4) la fidx g)
  | none =>
    if skip && frameMemory fidx then (true, s) else
    let s1 := { s with fab := { s.fab with drivers := gs.foldl (fun m g => mapSet m 0 (segKey (pl / 4) g) 1) s.fab.drivers } }
    let s2 := s1.setFrameBits pl fidx v
    (true,
      if 0x600 ≤ fidx ∧ fidx < 0x800 then s2.loadTile pl ((fidx - 0x600) / 16) (fidx % 16) v
      else if 0x800 ≤ fidx ∧ fidx < 0x2000 ∧ fidx % 32 = 27 then s2.loadBushel pl ((fidx - 0x800) / 32) v skip
      else s2)

/-! ### Release (R717) -/

/-- Whether the two sides of a group have selected different package clocks (R135, R136). A group that one side does not use carries
nothing; a port die has no selection of its own (log entry 103). -/
def State.groupsDiffer (s : State) (pl q i : Nat) : Bool := 8 ≤ s.groupOf pl i && 8 ≤ s.groupOf q i && s.groupOf pl i ≠ s.groupOf q i

/-- The outcome of an exchange for the wires of group `i` into a place: they deliver 0, and the LDC flags it, where the selections
differ (R136). -/
def State.setMismatch (s : State) (pl i : Nat) (bad : Bool) : State :=
  let s1 := s.setChan (chanKey pl i) { s.chan (chanKey pl i) with mismatch := bad }
  if bad then s1.raiseFab (LDC_FAB_ERR_CHAN_CLK_MISMATCH (pl / 4)) (pl / 4) else s1

/-- Exchange of the group clocks of an acre with the acres across its edges (R136): each side receives. -/
def State.exchangeClocks (s : State) (pl : Nat) : State :=
  (List.range 32).foldl (fun t i =>
    match s.crossSrc pl (decide (16 ≤ i)) with
    | some (.acre q) => (t.setMismatch pl i (s.groupsDiffer pl q i)).setMismatch q i (s.groupsDiffer pl q i)
    | _ => t) s

/-- Stage 1 (R717): gates accept requests, clamps end, group clocks are exchanged, deskew pointers are centered (R142), and the pins of a
port die follow the image of its acre (R681, R684). -/
def State.stage1 (s : State) (la pl : Nat) : State :=
  let s1 := s.setPlace pl { s.place pl with stage := 1, clamped := false, loading := false }
  let s2 := { s1 with fab := { s1.fab with latched := mapDrop (fun k => k / 16384 = pl) s1.fab.latched } }
  let s3 := (s2.exchangeClocks pl).centerGroups fun q _ => q = pl
  if la % 48 = 0 then s3.setPins (la / 48) pl else s3

/-- Stage 2 (R717): write enables and host ports. -/
def State.stage2 (s : State) (pl : Nat) : State := s.setPlace pl { s.place pl with stage := 2 }

/-- Stage 3 (R717): GSR is released; tiles with AUTO_START = 1 start (R255). -/
def State.stage3 (s : State) (pl : Nat) : State :=
  (List.range 32).foldl (fun u t =>
    let st := (placeTile pl t).1
    let n := (placeTile pl t).2
    if (u.tile st n).ctl.getLsbD 17 then u.tileGo st n else u) (s.setPlace pl { s.place pl with gsrOff := true, stage := 3, unseen := 0xFFFFFF, fresh := 0 })

end Sys2Proof.Machine
end

