-- ==== Sys2Proof/Machine/Aes.lean ====
section
/-! DEFINITION. The ciphers the memory protection engine names (R507, R510-R513): AES-256 (FIPS 197), XTS-AES-256
(IEEE 1619), the GHASH of GCM and AES key wrap (SP 800-38F). A block is a list of 16 bytes in the order of those standards
(log entry 26); an integer becomes a block little-endian (R9, R510). -/

namespace Sys2Proof.Machine

open Sys2Proof

/-! ### AES-256 -/

/-- Multiply by x in GF(2^8). -/
def aesX (a : Byte) : Byte := (a <<< 1) ^^^ (if a.getLsbD 7 then 0x1B#8 else 0)

/-- Multiply in GF(2^8). -/
def aesMul (a b : Byte) : Byte :=
  (List.range 8).foldl (fun acc i => aesX acc ^^^ (if b.getLsbD (7 - i) then a else 0)) 0

/-- The inverse in GF(2^8), 0 for 0: the 254th power. -/
def aesInv (a : Byte) : Byte :=
  let a2 := aesMul a a
  let a4 := aesMul a2 a2
  let a8 := aesMul a4 a4
  let a16 := aesMul a8 a8
  let a32 := aesMul a16 a16
  let a64 := aesMul a32 a32
  let a128 := aesMul a64 a64
  aesMul (aesMul (aesMul a2 a4) (aesMul a8 a16)) (aesMul (aesMul a32 a64) a128)

/-- The S-box. -/
def aesSub (a : Byte) : Byte :=
  let b := aesInv a
  b ^^^ b.rotateLeft 1 ^^^ b.rotateLeft 2 ^^^ b.rotateLeft 3 ^^^ b.rotateLeft 4 ^^^ 0x63#8

/-- The inverse S-box. -/
def aesUnsub (a : Byte) : Byte := aesInv (a.rotateLeft 1 ^^^ a.rotateLeft 3 ^^^ a.rotateLeft 6 ^^^ 0x05#8)

/-- Exclusive or of two byte strings. -/
def xorBytes (a b : List Byte) : List Byte := List.zipWith (· ^^^ ·) a b

/-- Eight key words (four bytes each) into the next eight: the words of the key schedule of AES-256. -/
def aesNextKey (rcon : Byte) (ws : List (List Byte)) : List (List Byte) :=
  let w (i : Nat) := ws.getD i []
  let last := w 7
  let rot := (last.drop 1 ++ last.take 1).map aesSub
  let w0 := xorBytes (w 0) (xorBytes rot [rcon, 0, 0, 0])
  let w1 := xorBytes (w 1) w0
  let w2 := xorBytes (w 2) w1
  let w3 := xorBytes (w 3) w2
  let w4 := xorBytes (w 4) (w3.map aesSub)
  let w5 := xorBytes (w 5) w4
  let w6 := xorBytes (w 6) w5
  [w0, w1, w2, w3, w4, w5, w6, xorBytes (w 7) w6]

/-- The words of the key schedule, eight at a time. -/
def aesSchedule : Nat → Byte → List (List Byte) → List (List Byte)
  | 0, _, ws => ws
  | n + 1, rcon, ws => ws ++ aesSchedule n (aesX rcon) (aesNextKey rcon ws)

/-- The 15 round keys of a 32-byte key. -/
def aesKeys (key : List Byte) : List (List Byte) :=
  let ws := (List.range 8).map (fun i => (key.drop (4 * i)).take 4)
  let all := aesSchedule 7 1 ws
  (List.range 15).map (fun r => ((all.drop (4 * r)).take 4).flatten)

/-- The rows of the state rotate: byte 4c + r comes from column c + r. -/
def aesShiftRows (b : List Byte) : List Byte :=
  (List.range 16).map (fun i => b.getD ((i + 4 * (i % 4)) % 16) 0)

/-- The rows of the state rotate back. -/
def aesUnshiftRows (b : List Byte) : List Byte :=
  (List.range 16).map (fun i => b.getD ((i + 16 - 4 * (i % 4)) % 16) 0)

/-- Each column times the circulant matrix whose first row is `m`. -/
def aesMix (m : List Byte) (b : List Byte) : List Byte :=
  (List.range 16).map (fun i =>
    ((List.range 4).map (fun k => aesMul (m.getD ((k + 4 - i % 4) % 4) 0) (b.getD (4 * (i / 4) + k) 0))).foldl (· ^^^ ·) 0)

/-- Encrypt a block with AES-256. -/
def aesEncrypt (key block : List Byte) : List Byte :=
  match aesKeys key with
  | [] => block
  | k0 :: ks =>
    let s := ks.dropLast.foldl (fun s k => xorBytes (aesMix [2, 3, 1, 1] (aesShiftRows (s.map aesSub))) k) (xorBytes block k0)
    xorBytes (aesShiftRows (s.map aesSub)) (ks.getLastD [])

/-- Decrypt a block with AES-256. -/
def aesDecrypt (key block : List Byte) : List Byte :=
  match (aesKeys key).reverse with
  | [] => block
  | k0 :: ks =>
    let s := ks.dropLast.foldl (fun s k => aesMix [0xE, 0xB, 0xD, 0x9] (xorBytes ((aesUnshiftRows s).map aesUnsub) k))
      (xorBytes block k0)
    xorBytes ((aesUnshiftRows s).map aesUnsub) (ks.getLastD [])

/-! ### Lines and blocks -/

/-- A byte string as a line, byte 0 lowest (R9). -/
def bytesLine (bs : List Byte) : Line := BitVec.ofNat 512 (leNat bs)

/-- A 128-bit integer as a block, little-endian (R9, R510). -/
def block128 (n : Nat) : List Byte := bytesOf (BitVec.ofNat 128 n) 16

/-! ### XTS (R510) -/

/-- The next tweak: multiply by α in the little-endian field of XTS. -/
def xtsNext (t : List Byte) : List Byte :=
  let v := BitVec.ofNat 128 (leNat t)
  bytesOf ((v <<< 1) ^^^ (if v.getLsbD 127 then 0x87#128 else 0)) 16

/-- The blocks of a data unit under XTS, each through `f` between two tweak additions. -/
def xtsBlocks (f : List Byte → List Byte) : List Byte → List (List Byte) → List (List Byte)
  | _, [] => []
  | t, b :: bs => xorBytes (f (xorBytes b t)) t :: xtsBlocks f (xtsNext t) bs

/-- The four blocks of a line. -/
def lineBlocks (l : Line) : List (List Byte) :=
  (List.range 4).map (fun j => bytesOf (l.extractLsb' (128 * j) 128) 16)

/-- A line encrypted as one XTS data unit whose tweak is its physical address (R510). -/
def xtsEncrypt (k1 k2 : List Byte) (addr : Nat) (l : Line) : Line :=
  bytesLine (xtsBlocks (aesEncrypt k1) (aesEncrypt k2 (block128 addr)) (lineBlocks l)).flatten

/-- A line decrypted as one XTS data unit. -/
def xtsDecrypt (k1 k2 : List Byte) (addr : Nat) (l : Line) : Line :=
  bytesLine (xtsBlocks (aesDecrypt k1) (aesEncrypt k2 (block128 addr)) (lineBlocks l)).flatten

/-! ### GHASH (R512) -/

/-- A block as a GHASH element: bit 0 of the field is the leftmost bit of byte 0. -/
def ghashElem (b : List Byte) : BitVec 128 := b.foldl (fun a x => (a <<< 8) ||| x.setWidth 128) 0

/-- The block of a GHASH element. -/
def ghashBlock (v : BitVec 128) : List Byte := (List.range 16).map (fun i => v.extractLsb' (120 - 8 * i) 8)

/-- Multiply two GHASH elements. -/
def ghashMul (x y : BitVec 128) : BitVec 128 :=
  ((List.range 128).foldl (fun (zv : BitVec 128 × BitVec 128) i =>
    (if x.getLsbD (127 - i) then zv.1 ^^^ zv.2 else zv.1,
     (zv.2 >>> 1) ^^^ (if zv.2.getLsbD 0 then 0xE1#128 <<< 120 else 0))) (0, y)).1

/-- GHASH of whole blocks. -/
def ghash (h : List Byte) (blocks : List (List Byte)) : List Byte :=
  ghashBlock (blocks.foldl (fun a b => ghashMul (a ^^^ ghashElem b) (ghashElem h)) 0)

/-- The GCM length block for no additional data and 512 bits of ciphertext. -/
def gcmLength : List Byte := List.replicate 14 0 ++ [2, 0]

/-- The MAC of 64 bytes under K2 and a counter block: bits [63:0] of GHASH exclusive-or the encrypted counter block (R512). -/
def lineMac (k2 : List Byte) (cb : Nat) (l : Line) : DWord :=
  let s := ghash (aesEncrypt k2 (List.replicate 16 0)) (lineBlocks l ++ [gcmLength])
  BitVec.ofNat 64 (leNat ((xorBytes s (aesEncrypt k2 (block128 cb))).take 8))

/-- A counter block (R511). -/
def counterBlock (blk minor major line region type : Nat) : Nat :=
  blk + 2 ^ 2 * minor + 2 ^ 14 * major + 2 ^ 46 * line + 2 ^ 88 * region + 2 ^ 92 * type

/-- A line in counter mode: encryption and decryption are the same (R511). -/
def ctrLine (k1 : List Byte) (minor major line region : Nat) (l : Line) : Line :=
  l ^^^ bytesLine ((List.range 4).map (fun j => aesEncrypt k1 (block128 (counterBlock j minor major line region 0)))).flatten

/-! ### Key wrap (R507) -/

/-- One step back of the key-wrap register: A and the semiblocks, with step number `t` on semiblock `i`. -/
def kwStep (kek : List Byte) (t i : Nat) (a : List Byte) (r : List (List Byte)) : List Byte × List (List Byte) :=
  let tb := (bytesOf (BitVec.ofNat 64 t) 8).reverse
  let b := aesDecrypt kek (xorBytes a tb ++ r.getD i [])
  (b.take 8, r.set i (b.drop 8))

/-- Unwrap `n` semiblocks: the steps from number `t` down to 1. -/
def kwSteps (kek : List Byte) (n : Nat) : Nat → List Byte → List (List Byte) → List Byte × List (List Byte)
  | 0, a, r => (a, r)
  | t + 1, a, r =>
    let x := kwStep kek (t + 1) (t % n) a r
    kwSteps kek n t x.1 x.2

/-- AES-256 key unwrap: the key data, if the integrity check holds. -/
def kwUnwrap (kek wrapped : List Byte) : Option (List Byte) :=
  let n := wrapped.length / 8 - 1
  let x := kwSteps kek n (6 * n) (wrapped.take 8) ((List.range n).map (fun i => (wrapped.drop (8 * (i + 1))).take 8))
  if x.1 = List.replicate 8 0xA6#8 then some x.2.flatten else none

/-- AES-256 key wrap, the inverse of `kwUnwrap` (R815). -/
def kwWrap (kek plain : List Byte) : List Byte :=
  let n := plain.length / 8
  let x := (List.range (6 * n)).foldl (fun (x : List Byte × List (List Byte)) t =>
    let b := aesEncrypt kek (x.1 ++ x.2.getD (t % n) [])
    (xorBytes (b.take 8) (bytesOf (BitVec.ofNat 64 (t + 1)) 8).reverse, x.2.set (t % n) (b.drop 8)))
    (List.replicate 8 0xA6#8, (List.range n).map (fun i => (plain.drop (8 * i)).take 8))
  x.1 ++ x.2.flatten

end Sys2Proof.Machine
end

