-- ==== Sys2Proof/Machine/Flit.lean ====
section
/-! DEFINITION. Flits, slots and the places where flits wait for a slot (R274, R279-R290, R294, R320-R324): the geometry of the
rings, the flits of a packet, and where a flit leaves a ring. -/

namespace Sys2Proof.Machine

open Sys2Proof

/-! ### Codes of the fields -/

/-- CLASS of a flit header (R290). -/
def classCode : TClass → Nat
  | .g => 0 | .p => 1 | .b => 2

/-- STATUS of a completion (R300). -/
def statusCode : Status → Nat
  | .ok => 0 | .poison => 1 | .errTarget => 2 | .errTimeout => 3 | .errFenced => 4 | .errDenied => 5

/-- POISON_RSN of a completion (R300). -/
def rsnCode : PoisonRsn → Nat
  | .none => 0 | .memUe => 1 | .integLost => 2 | .source => 3 | .fabric => 4

/-- The poison reason a code names (R300). -/
def rsnOf (n : Nat) : PoisonRsn :=
  match n with
  | 1 => .memUe | 2 => .integLost | 3 => .source | 4 => .fabric | _ => .none

/-! ### The flit header (R290) -/

/-- A header word; BRW is set at insertion. -/
def flitHeader (type : Nat) (cls : TClass) (dst src : BitVec 9) (last : Bool) (gfid : BitVec 8) : Word :=
  BitVec.ofNat 32 (type + 4 * classCode cls + 16 * dst.toNat + 8192 * src.toNat + 4194304 * last.toNat + 16777216 * gfid.toNat)

/-- TYPE: 0 EMPTY, 1 CMD, 2 DATA, 3 CPL. -/
def hdrType (h : Word) : Nat := bitsOf h 0 2
/-- CLASS. -/
def hdrClass (h : Word) : Nat := bitsOf h 2 2
/-- DST. -/
def hdrDst (h : Word) : Nat := bitsOf h 4 9
/-- SRC. -/
def hdrSrc (h : Word) : Nat := bitsOf h 13 9
/-- LAST. -/
def hdrLast (h : Word) : Bool := h.getLsbD 22
/-- GFID. -/
def hdrGfid (h : Word) : Nat := bitsOf h 24 8
/-- BRW, set or cleared when a stop inserts the flit (R323). -/
def hdrBorrow (h : Word) (b : Bool) : Word := putBits h 23 1 b.toNat

/-- The LATE bit set in a CMD or CPL flit's payload (R331). -/
def markLate (h : Word) (p : HalfLine) : HalfLine :=
  match hdrType h with
  | 1 => p ||| BitVec.twoPow 256 86
  | 3 => p ||| BitVec.twoPow 256 16
  | _ => p

/-- RING_SLOW of a ring. -/
def State.ringSlow (s : State) (r : Nat) : Bool := s.bit (RNG_RATE_RING_SLOW r)

/-- A flit as a stop of a ring inserts, forwards or receives it: LATE is set while RING_SLOW is (R331). -/
def State.lateFlit (s : State) (ring : Nat) (f : RingFlit) : RingFlit :=
  if s.ringSlow ring then { f with payload := markLate f.header f.payload } else f

/-! ### Where the stops of a ring are (R279-R286) -/

/-- A place of a ring at which a slot meets a stop: the stop ID, none for the transit island of a site without a logical die; the CSR
space of its die; the column on a row ring. -/
structure RingNode where
  stop  : Option Nat
  space : Nat
  col   : Nat
  deriving DecidableEq, Repr

/-- Slot positions of a lane (R279). -/
def ringLen (r : Nat) : Nat := ringSlots r

/-- The column a lane of a row ring visits at a position (R284): E lanes on the eastbound pass, from position 0, W lanes on the
westbound pass, from position 64; each crossing and each turn takes 4 positions. -/
def rowCol (lane pos : Nat) : Option Nat :=
  if pos % 4 ≠ 0 then none
  else if lane < 2 then (if pos ≤ 60 then some (pos / 4) else none)
  else if 64 ≤ pos ∧ pos ≤ 124 then some (15 - (pos - 64) / 4) else none

/-- The skip link around a column of a row is in the ring (R29, R353), or the turn has moved from column 15 to 14 (R352): the column has no
stop in the ring. -/
def State.colBypassed (s : State) (row col : Nat) : Bool :=
  if col = 15 then !s.bit (LNK_STAT_IN_RING (32 * row + 14)) else
  isLogicSite (16 * row + col) && linkExists (32 * row + 16 + col) && s.bit (LNK_STAT_IN_RING (32 * row + 16 + col))

/-- The stop that the die on a site of a row puts into the row ring (R280, R282). -/
def State.rowNode (s : State) (row col : Nat) : RingNode :=
  if col = 0 then ⟨some (portStop row 0), 2 + row, 0⟩
  else if col = 8 then ⟨some (centerStop row), row / 2, 8⟩
  else ⟨(s.ldOf (16 * row + col)).map (8 * · + 6), 8 + 16 * row + col, col⟩

/-- The place a lane of a ring meets at a slot position, if there is a stop (R282-R286). -/
def State.ringNode (s : State) (ring lane pos : Nat) : Option RingNode :=
  if 54 ≤ ring ∧ ring < 58 then
    match rowCol lane pos with
    | some c => if s.colBypassed (ring - 54) c then none else some (s.rowNode (ring - 54) c)
    | none => none
  else if 58 ≤ ring then
    if pos = 0 then some ⟨some (hubStop 0 (2 + (ring - 58))), 0, 0⟩
    else if pos = 32 then some ⟨some (hubStop 1 (2 + (ring - 58))), 1, 0⟩ else none
  else
    let base := if ring < 48 then 8 * ring else if ring < 50 then hubStop (ring - 48) 0 else portStop (ring - 50) 0
    ((List.range 32).find? fun k => dieRing (base + k) = some ring && stopPos (base + k) = pos).map fun k =>
      ⟨some (base + k), s.stopSpace (base + k), 0⟩

/-- The distance a lane travels from one position to another (R283, R284). -/
def ringDist (ring lane a b : Nat) : Nat :=
  let n := ringLen ring
  if ring < 54 ∧ lane = 1 then (a + n - b) % n else (b + n - a) % n

/-- The next position after `a` at which a lane meets a stop. -/
def State.nextPos (s : State) (ring lane a : Nat) : Option Nat :=
  let n := ringLen ring
  ((List.range n).map fun i => if ring < 54 ∧ lane = 1 then (a + n - (i + 1)) % n else (a + i + 1) % n).find? fun p =>
    (s.ringNode ring lane p).isSome

/-- The position of a stop on a lane. -/
def State.posOf (s : State) (ring lane stop : Nat) : Option Nat :=
  (List.range (ringLen ring)).find? fun p => (s.ringNode ring lane p).any fun n => n.stop = some stop

/-- The link end over which a slot leaves a place, if it crosses a link before the next stop (R284, R286, R351, R353): end 0 of a row link
is the lower column. The pass on which a lane visits no stop carries empty slots and is not followed. -/
def State.crossing (s : State) (ring lane col pos : Nat) : Option (Nat × Bool) :=
  if 54 ≤ ring ∧ ring < 58 then
    let row := ring - 54
    if lane < 2 then
      if col = 15 ∨ (col = 14 ∧ s.colBypassed row 15) then none
      else some (if s.colBypassed row (col + 1) then 32 * row + 16 + col + 1 else 32 * row + col, false)
    else if col = 0 then none
    else some (if s.colBypassed row (col - 1) then 32 * row + 16 + col - 1 else 32 * row + col - 1, true)
  else if 58 ≤ ring then (if lane = 0 ∧ pos = 0 then some (128, false) else if lane = 1 ∧ pos = 32 then some (128, true) else none)
  else none

/-! ### Where a flit leaves a ring (R288) -/

/-- The stop at which a packet to `dst` leaves the ring of leg `i` of its path. -/
def exitStop (legs : List Leg) (i dst : Nat) : Nat :=
  match legs[i]? with
  | none => dst
  | some l =>
    if 58 ≤ l.ring then hubStop (1 - (l.entry - 384) / 32) (l.entry % 32)
    else match legs[i + 1]? with
      | none => if 54 ≤ l.ring ∧ (hubStop 0 0 ≤ dst ∧ dst < portStop 0 0 ∨ 480 ≤ dst) then centerStop (l.ring - 54) else dst
      | some n =>
        if l.ring < 54 then (if l.ring = 48 ∨ l.ring = 49 then hubStop (l.ring - 48) 4 else n.entry)
        else if n.ring < 48 ∨ (50 ≤ n.ring ∧ n.ring < 54) then n.entry else centerStop (l.ring - 54)

/-- A stop belongs to the hub switch, which moves whole packets (R281). -/
def switchStop (stop : Nat) : Bool :=
  match stopKind stop with
  | .hub _ k => k ≤ 4 || k = 14
  | .third _ _ => true
  | _ => false

/-! ### Slots and waiting flits -/

/-- The key of a slot, in a plan and on its ring. -/
def planKey (ring lane slot : Nat) : Nat := (ring * 4 + lane) * 128 + slot

/-- A slot of a lane. -/
def State.slot (s : State) (ring lane i : Nat) : RingSlot := mapGet s.ring.slots RingSlot.empty (planKey ring lane i)

/-- Put a slot. -/
def State.setSlot (s : State) (ring lane i : Nat) (x : RingSlot) : State :=
  { s with ring := { s.ring with slots := mapSet s.ring.slots RingSlot.empty (planKey ring lane i) x } }

/-- The marker that each slot carries beside its flit: it identifies slot 0 of its lane (R274). -/
def slotMark (i : Nat) : Bool := i = 0

/-- The flit of a slot is gone; the slot goes on. -/
def RingSlot.emptied (x : RingSlot) : RingSlot := { RingSlot.empty with pos := x.pos }

/-- Flits of a packet start to wait for slots of a leg of their path (R288): at the hub switch a packet waits until it is whole
(R281). -/
def State.wait (s : State) (legs : List Leg) (leg dir : Nat) (ready fresh : Bool) (fs : List RingFlit) : State :=
  match legs[leg]? with
  | some l => { s with ring := { s.ring with
      waits := s.ring.waits ++ fs.zipIdx.map fun f => ⟨l.ring, l.entry, l.lane, leg, dir, f.1, ready, fresh && f.2 = 0⟩ } }
  | none => s

end Sys2Proof.Machine
end

