-- ==== Sys2Proof/Machine/Packet.lean ====
section
/-! DEFINITION. Ring packets (R290-R306): codes, payloads, bytes, end-to-end CRC, sequence numbers, and the completion a target
sends. -/

namespace Sys2Proof.Machine

open Sys2Proof

/-- A byte with the poison of the half it comes from. -/
abbrev PByte := Byte × Bool

/-- LEN of a request (R295). -/
def reqLen (p : ReqPkt) : Nat := p.lenm1.toNat + 1

/-- The bytes of DATA flits (R297). -/
def flitBytes (d : List DataFlit) : List PByte := d.flatMap fun f => (bytesOf f.payload 32).map fun b => (b, f.poison)

/-- Bytes packed into DATA flits, 32 to a flit (R297). -/
def packFlits (bs : List PByte) : List DataFlit :=
  (List.range ((bs.length + 31) / 32)).map fun i =>
    let c := (bs.drop (32 * i)).take 32
    ⟨BitVec.ofNat 256 (leNat (c.map Prod.fst)), c.any Prod.snd⟩

/-- The bytes a request writes: in IMM up to 8, in DATA flits otherwise (R296, R297). -/
def reqBytes (p : ReqPkt) : List PByte :=
  if reqLen p ≤ 8 then (bytesOf p.imm (reqLen p)).map fun b => (b, p.poison) else (flitBytes p.data).take (reqLen p)

/-- The bytes a completion returns (R299). -/
def cplBytes (p : CplPkt) : List PByte :=
  if p.lenm1.toNat < 8 then (bytesOf p.imm (p.lenm1.toNat + 1)).map fun b => (b, p.status = .poison)
  else (flitBytes p.data).take (p.lenm1.toNat + 1)

/-- Payload of a CMD flit with E2E_CRC and LATE taken as 0 (R295, R301). -/
def reqPayload (p : ReqPkt) : HalfLine :=
  BitVec.ofNat 256 (p.addr.toNat + p.mid.toNat * 2 ^ 48 + p.tag.toNat * 2 ^ 60 + p.opc.toNat * 2 ^ 73 + p.lenm1.toNat * 2 ^ 76 +
    p.dbg.toNat * 2 ^ 84 + p.sync.toNat * 2 ^ 85 + p.seq.toNat * 2 ^ 96 + p.imm.toNat * 2 ^ 192)

/-- Payload of a CPL flit with E2E_CRC and LATE taken as 0 (R299, R301). -/
def cplPayload (p : CplPkt) : HalfLine :=
  BitVec.ofNat 256 (p.tag.toNat + statusCode p.status * 2 ^ 13 + p.peek.toNat * 2 ^ 17 + p.lenm1.toNat * 2 ^ 18 +
    rsnCode p.rsn * 2 ^ 26 + p.seq.toNat * 2 ^ 32 + p.imm.toNat * 2 ^ 192)

/-- Initial value of E2E_CRC (R301, R302). -/
def e2eInit (addr : BitVec 48) (seq : BitVec 16) (src : BitVec 9) : Word :=
  0xFFFFFFFF#32 ^^^ addr.extractLsb' 16 32 ^^^ (seq ++ src.setWidth 16)

/-- E2E_CRC of a request (R301). -/
def reqCrc (p : ReqPkt) : Word :=
  crc32c (e2eInit p.addr p.seq p.src) (bytesOf (reqPayload p) 32 ++ p.data.flatMap fun f => bytesOf f.payload 32)

/-- E2E_CRC of a completion to a request at `addr` (R301, R302). -/
def cplCrc (addr : BitVec 48) (p : CplPkt) : Word :=
  crc32c (e2eInit addr p.seq p.src) (bytesOf (cplPayload p) 32 ++ p.data.flatMap fun f => bytesOf f.payload 32)

/-- The flits of a request packet (R290, R294, R295, R297). -/
def reqFlits (p : ReqPkt) : List RingFlit :=
  let h (t : Nat) (last : Bool) : Word := flitHeader t p.cls p.dst p.src last p.gfid
  ⟨h 1 p.data.isEmpty, reqPayload p ||| (p.crc.setWidth 256 <<< 128) ||| (if p.late then BitVec.twoPow 256 86 else 0), p.poison⟩ ::
    p.data.zipIdx.map fun d => ⟨h 2 (d.2 + 1 = p.data.length), d.1.payload, d.1.poison⟩

/-- The flits of a completion packet (R290, R294, R297, R299). -/
def cplFlits (p : CplPkt) : List RingFlit :=
  let h (t : Nat) (last : Bool) : Word := flitHeader t p.cls p.dst p.src last p.gfid
  ⟨h 3 p.data.isEmpty, cplPayload p ||| (p.crc.setWidth 256 <<< 64) ||| (if p.late then BitVec.twoPow 256 16 else 0),
      p.status = .poison && p.data.isEmpty⟩ ::
    p.data.zipIdx.map fun d => ⟨h 2 (d.2 + 1 = p.data.length), d.1.payload, d.1.poison⟩

/-- A completion that stop `stop` sends for request `p`, with the bytes it returns, none for none (R299-R302). LATE is that of the request;
the stops on the way add theirs (R331). -/
def State.mkCpl (s : State) (stop : Nat) (p : ReqPkt) (st : Status) (rsn : PoisonRsn) (peek : Bool) (bs : List PByte) : CplPkt :=
  let leg := (s.path stop p.src.toNat 1).head?
  let c : CplPkt :=
    { dst := p.src, src := BitVec.ofNat 9 stop, lane := Fin.ofNat 4 ((leg.map (·.lane)).getD 0), cls := p.cls,
      gfid := p.gfid, tag := p.tag, status := st, late := p.late, peek := peek,
      lenm1 := BitVec.ofNat 8 (bs.length - 1), rsn := rsn, seq := p.seq, crc := 0,
      imm := if bs.length ≤ 8 then BitVec.ofNat 64 (leNat (bs.map Prod.fst)) else 0,
      data := if bs.length ≤ 8 then [] else packFlits bs, complete := true }
  { c with crc := cplCrc p.addr c }

/-- A target completes a request: the completion's flits wait for slots (R294, R316). -/
def State.reply (s : State) (stop : Nat) (p : ReqPkt) (st : Status) (rsn : PoisonRsn := .none) (peek : Bool := false)
    (bs : List PByte := []) : State :=
  let c := s.mkCpl stop p st rsn peek bs
  (s.send (.completion c)).wait (s.path stop p.src.toNat 1) 0 1 true true (cplFlits c)

/-! ### Discards (R303, R305, R307) -/

/-- Record an end-to-end discard or gap and report it (R303, R305, R349, R987). -/
def State.e2eRecord (s : State) (stop src kind : Nat) : State :=
  let s1 := s.setCsr RNG_E2E_LAST (BitVec.ofNat 32 (stop + src * 2 ^ 9 + kind * 2 ^ 18 + 2 ^ 20))
  s1.report (s.stopSpace stop) 0x02 (ringOf stop) (2 * 256 + kind) sevUncorrected 0 (s1.csr RNG_E2E_LAST)

/-- Set a flag of RNG_ERR, found on the die of a CSR space, and report it (R348, R987). -/
def State.ringErr (s : State) (space ring : Nat) (f : Fld) (sev : Nat) (inj : Bool := false) : State :=
  s.raise f space 0x02 ring 0 sev 0 (s.csr RNG_E2E_LAST) inj

/-- An incomplete packet is discarded (R307). -/
def State.dropIncomplete (s : State) (stop src lane : Nat) (cls : TClass) : State :=
  let i : Incomplete := ⟨stop, src, lane, cls⟩
  if s.ring.incomplete.contains i then
    { s with ring := { s.ring with incomplete := s.ring.incomplete.filter (· ≠ i) } }.ringErr (s.stopSpace stop)
      (ringOf stop) (RNG_ERR_INCOMPLETE (ringOf stop)) sevUncorrected
  else s

/-- A destination holds the packet that has begun to arrive (R307). -/
def State.holdIncomplete (s : State) (stop src lane : Nat) (cls : TClass) : State :=
  { s with ring := { s.ring with incomplete := ⟨stop, src, lane, cls⟩ :: s.ring.incomplete } }

/-- The key of the last SEQ a destination accepted from a source in a class (R305). -/
def seqKey (a b : Nat) (cls : TClass) : Nat := a * 2048 + b * 4 + classCode cls

/-- The SEQ check of a request (R305): whether it is accepted, and the state. A destination that has accepted nothing from the
source in that class accepts the packet (log entry 20). -/
def State.seqCheck (s : State) (stop : Nat) (p : ReqPkt) : Bool × State :=
  let k := seqKey stop p.src.toNat p.cls
  let take (t : State) : State := { t with ring := { t.ring with seqIn := mapSet t.ring.seqIn none k (some p.seq) } }
  match if p.sync then none else mapGet s.ring.seqIn none k with
  | none => (true, take s)
  | some last =>
    let d := (p.seq - last).toNat
    if 1 ≤ d ∧ d ≤ 2 ^ 15 then (true, take (if 1 < d then s.e2eRecord stop p.src.toNat 2 else s))
    else (false, (s.satInc RNG_E2E_CNT_SEQ_REPLAY).e2eRecord stop p.src.toNat 1)

/-- The ring on which a packet reaches its destination: the last of its path; none where the hub switch alone carries it (R288). -/
def State.lastRing (s : State) (src dst dir : Nat) : Option Nat := (s.path src dst dir).getLast?.map (·.ring)

/-- A packet that would arrive over a ring that is DOWN is lost (R339). -/
def State.lostOnWay (s : State) (src dst dir : Nat) : Bool := (s.lastRing src dst dir).any fun r => s.bit (RNG_RATE_DOWN r)

/-- A packet is received while RING_SLOW is set for the ring it came on (R331). -/
def State.lateHere (s : State) (src dst dir : Nat) : Bool := (s.lastRing src dst dir).any s.ringSlow

/-- A destination discards a packet that is not for it; RNG_E2E_CNT has no field of its own for that, and counts it with the CRC
failures (R303, log entry 90). -/
def State.misdelivered (s : State) (stop src : Nat) : State := (s.satInc RNG_E2E_CNT_CRC_FAIL).e2eRecord stop src 3

/-- A request packet arrives at a stop: the packet as it is to be served, if it is, and the state (R303-R307, R331, R339). -/
def State.arrive (s : State) (stop : Nat) (p : ReqPkt) : Option ReqPkt × State :=
  if s.lostOnWay p.src.toNat stop 0 then (none, s) else
  let s1 := s.dropIncomplete stop p.src.toNat p.lane p.cls
  if !p.complete then (none, s1.holdIncomplete stop p.src.toNat p.lane p.cls)
  else if reqCrc p ≠ p.crc then (none, (s1.satInc RNG_E2E_CNT_CRC_FAIL).e2eRecord stop p.src.toNat 0)
  else if p.dst.toNat ≠ stop ∨ s1.resolve p.addr.toNat ≠ some stop then (none, s1.misdelivered stop p.src.toNat)
  else
    let r := s1.seqCheck stop p
    if r.1 then (some { p with late := p.late || r.2.lateHere p.src.toNat stop 0 }, r.2) else (none, r.2)

end Sys2Proof.Machine
end

