-- ==== Sys2Proof/Machine/Ring.lean ====
section
/-! DEFINITION. The ring network (chapter 05): transactions and their completion, G flows and slot plans, rate windows, flits
at stops and gate streams, and the meanings of their commands. -/

namespace Sys2Proof.Machine

open Sys2Proof

/-! ### Rate, SLOW and DOWN (R275-R278, R339, R342) -/

/-- RNG_STAT's summary bits (R342). -/
def State.ringSummary (s : State) : State :=
  (s.setBit RNG_STAT_SLOW_ANY ((List.range 60).any s.ringSlow)).setBit RNG_STAT_DOWN_ANY
    ((List.range 60).any fun r => s.bit (RNG_RATE_DOWN r))

/-- Report a bit of RNG_RATE (R987). -/
def State.rateReport (s : State) (r b : Nat) : State :=
  s.report (s.stopSpace (ringHome r)) 0x02 r (256 + b) sevUncorrected 0 (s.csr RNG_E2E_LAST)

/-- SLOW of a ring turns true: RING_SLOW is set, reported when it was clear (R276, R277). -/
def State.markSlow (s : State) (r : Nat) : State :=
  let s1 := { s.setFld (RNG_RATE_SLOW r) 1 with ring := { s.ring with clean := mapSet s.ring.clean 0 r 0 } }
  if s.ringSlow r then s1 else ((s1.setFld (RNG_RATE_RING_SLOW r) 1).rateReport r 25).ringSummary

/-- SLOW reads 1 while the last window was below the floor or a link is narrow (R276). -/
def State.slowUpdate (s : State) (r : Nat) : State :=
  if s.ring.slowWin.contains r || s.bit (RNG_RATE_NARROW r) then (if s.bit (RNG_RATE_SLOW r) then s else s.markSlow r)
  else s.setFld (RNG_RATE_SLOW r) 0

/-- Slots lose their flits (R338, R339). -/
def State.clearSlots (s : State) (p : Nat → RingSlot → Bool) : State :=
  { s with ring := { s.ring with slots :=
      (s.ring.slots.filter fun kv => p kv.1 kv.2).foldl (fun m kv => mapSet m RingSlot.empty kv.1 kv.2.emptied) s.ring.slots } }

/-- The ring a slot key belongs to. -/
def slotRing (k : Nat) : Nat := k / 512

/-- A ring becomes DOWN: the packets on it are lost (R339). -/
def State.ringDown (s : State) (r : Nat) : State :=
  if s.bit (RNG_RATE_DOWN r) then s
  else ((((s.clearSlots fun k _ => slotRing k = r).setFld (RNG_RATE_DOWN r) 1)).rateReport r 27).ringSummary

/-- A ring returns to service (R339): a row open at two failed transit islands stays DOWN. -/
def State.ringUp (s : State) (r : Nat) : State :=
  if 54 ≤ r ∧ r < 58 ∧ s.ring.openRows.contains (r - 54) then s else (s.setFld (RNG_RATE_DOWN r) 0).ringSummary

/-- RATE_WINDOW (R275, R276): `advances` slot advances were counted in the 1 µs window, that is M slots/s. -/
def execRateWindow (ring : Fin 60) (advances : Nat) (s : State) : Host.Outcome State Fault Refusal :=
  let rate := min advances 4095
  let s1 := (s.setFld (RNG_RATE_RATE ring) rate).setFld (RNG_RATE_MIN_RATE ring) (min rate (s.fld (RNG_RATE_MIN_RATE ring)))
  let others := s.ring.slowWin.filter (· ≠ ring.val)
  let s2 : State := { s1 with ring := { s1.ring with slowWin := if advances < 1500 then others ++ [ring.val] else others } }
  .next (if advances < 1500 || s.bit (RNG_RATE_NARROW ring) then s2.markSlow ring
    else { s2.setFld (RNG_RATE_SLOW ring) 0 with
      ring := { s2.ring with clean := mapSet s2.ring.clean 0 ring (min 8 (mapGet s2.ring.clean 0 ring + 1)) } })

/-- A write of 1 to RING_SLOW (R277, R347): MIN_RATE starts again when it clears. -/
def State.ringSlowClear (s : State) (r : Nat) : State :=
  if s.ringSlow r && 8 ≤ mapGet s.ring.clean 0 r then
    ((s.setFld (RNG_RATE_RING_SLOW r) 0).setFld (RNG_RATE_MIN_RATE r) 0xFFF).ringSummary
  else s

/-- RING_SLOW_CLEAR (R277, R340): a write of 1 to RING_SLOW. -/
def execRingSlowClear (mid : BitVec 12) (ring : Fin 60) (s : State) : Host.Outcome State Fault Refusal :=
  .next (levelSWrite s mid (RNG_RATE ring) fun s => s.ringSlowClear ring)

/-! ### Slot plans and flows (R318-R328, R344-R346, R1025) -/

/-- The pointer of RNG_PLAN_ADDR names a slot that exists (R345). -/
def State.planHit (s : State) : Bool :=
  s.fld RNG_PLAN_ADDR_LANE < ringLanes (s.fld RNG_PLAN_ADDR_RING) && s.fld RNG_PLAN_ADDR_SLOT < ringSlots (s.fld RNG_PLAN_ADDR_RING)

/-- RNG_PLAN_ENTRY reads the shadow entry at the pointer (R340). -/
def State.planEntry (s : State) : Word :=
  (mapGet s.ring.shadow 0 (planKey (s.fld RNG_PLAN_ADDR_RING) (s.fld RNG_PLAN_ADDR_LANE) (s.fld RNG_PLAN_ADDR_SLOT))).setWidth 32

/-- A write of RNG_PLAN_ENTRY by Level S (R344, R345). -/
def State.planWrite (s : State) (entry : Word) : State × Status :=
  let r := s.fld RNG_PLAN_ADDR_RING
  let slot := s.fld RNG_PLAN_ADDR_SLOT
  if s.planHit then
    let k := planKey r (s.fld RNG_PLAN_ADDR_LANE) slot
    ({ s with ring := { s.ring with shadow := mapSet s.ring.shadow 0 k (entry.setWidth 10) } }.setFld RNG_PLAN_ADDR_SLOT
      ((slot + 1) % ringSlots r), .ok)
  else (s, .errTarget)

/-- PLAN_ENTRY_WRITE (R344, R345). -/
def execPlanEntryWrite (mid : BitVec 12) (entry : Word) (s : State) : Host.Outcome State Fault Refusal :=
  .next (s.regWrite RNG_PLAN_ENTRY fun s => if s.levelS mid.toNat then s.planWrite entry else (s, .errDenied))

/-- The keys of a ring's plan. -/
def inRing (r k : Nat) : Bool := decide (planKey r 0 0 ≤ k ∧ k < planKey (r + 1) 0 0)

/-- Copy a ring's active plan into its shadow, or its shadow plan into the active one. -/
def planCopy (r : Nat) (src dst : Map (BitVec 10)) : Map (BitVec 10) :=
  (src.filter fun kv => inRing r kv.1).foldl (fun m kv => mapPut m kv.1 kv.2) (mapDrop (inRing r) dst)

/-- A write of RNG_PLAN_CMD by Level S (R346, R1025). A COPY fills the shadow at once and holds BUSY until PLAN_ACTIVE ends it (log entry
91). -/
def State.planCmd (s : State) (commit copy : Bool) (r : Nat) : State × Status :=
  if !commit && !copy then (s.setFld RNG_PLAN_CMD_RING r, .ok)
  else if 60 ≤ r then (s, .errTarget)
  else if s.bit RNG_PLAN_CMD_BUSY then ((s.setFld RNG_PLAN_CMD_RING r).setFld RNG_PLAN_CMD_REFUSED 1, .ok)
  else
    let s1 := (s.setFld RNG_PLAN_CMD_RING r).setFld RNG_PLAN_CMD_REFUSED 0
    let s2 := if copy then
      { s1 with ring := { s1.ring with shadow := planCopy r s1.ring.active s1.ring.shadow } } else s1
    let op : PlanOp := if commit && copy then .both else if commit then .commit else .copy
    let s3 := { s2 with ring := { s2.ring with committing := some (r, op) } }.setFld RNG_PLAN_CMD_BUSY 1
    (if commit then s3.setFld RNG_STAT_PLAN_BUSY 1 else s3, .ok)

/-- COMMIT (R325, R346, R1025): a write that sets COMMIT, and COPY with it if `copyFirst`. -/
def execCommit (mid : BitVec 12) (ring : Fin 64) (copyFirst : Bool) (s : State) : Host.Outcome State Fault Refusal :=
  .next (s.regWrite RNG_PLAN_CMD fun s => if s.levelS mid.toNat then s.planCmd true copyFirst ring else (s, .errDenied))

/-- COPY (R1025): a write that sets COPY alone. -/
def execCopy (mid : BitVec 12) (ring : Fin 64) (s : State) : Host.Outcome State Fault Refusal :=
  .next (s.regWrite RNG_PLAN_CMD fun s => if s.levelS mid.toNat then s.planCmd false true ring else (s, .errDenied))

/-- A lane of a ring holds a slot for a flow in a direction (R321). -/
def State.hasSlot (s : State) (leg : Leg) (f dir : Nat) : Bool :=
  (List.range (ringSlots leg.ring)).any fun i =>
    let e := mapGet s.ring.active 0 (planKey leg.ring leg.lane i)
    e.getLsbD 9 && bitsOf e 0 8 == f && bitsOf e 8 1 == dir

/-- SRC, DST and VALID of a flow word (R350). -/
def flowSrc (w : Word) : Nat := bitsOf w 0 9
/-- DST of a flow word. -/
def flowDst (w : Word) : Nat := bitsOf w 9 9
/-- VALID of a flow word. -/
def flowValid (w : Word) : Bool := w.getLsbD 18

/-- The flow as it stood at the last COMMIT (R325). -/
def State.flow (s : State) (f : Nat) : Word := mapGet s.ring.flows 0 f

/-- Every ring of a flow's path holds a slot for each direction at the owner (R320, R326). -/
def State.flowReady (s : State) (f : Nat) : Bool :=
  let w := s.flow f
  ((s.path (flowSrc w) (flowDst w) 0).all fun l => s.hasSlot l f 0) &&
    ((s.path (flowDst w) (flowSrc w) 1).all fun l => s.hasSlot l f 1)

/-- STATUS of every flow (R326). -/
def State.flowStatuses (s : State) : State :=
  (List.range 256).foldl (fun t f =>
    t.setFld (RNG_GFLOW_STATUS f) (if flowValid (t.flow f) then (if t.flowReady f then 1 else 2) else 0)) s

/-! ### Transactions (R287, R304-R315, R318, R319, R327) -/

/-- The outstanding transaction of a stop's tag. -/
def State.txn (s : State) (stop tag : Nat) : Option Txn :=
  s.ring.txns.find? (fun t => t.pkt.src.toNat = stop && t.pkt.tag.toNat = tag)

/-- The list without a tag's transaction. -/
def State.dropTxn (s : State) (stop tag : Nat) : State :=
  { s with ring := { s.ring with txns := s.ring.txns.filter (fun t => !(t.pkt.src.toNat = stop && t.pkt.tag.toNat = tag)) } }

/-- Change a tag's transaction in place. -/
def State.mapTxn (s : State) (stop tag : Nat) (f : Txn → Txn) : State :=
  { s with ring := { s.ring with
      txns := s.ring.txns.map (fun t => if t.pkt.src.toNat = stop ∧ t.pkt.tag.toNat = tag then f t else t) } }

/-- A transaction's packet as it is inserted: SEQ, SYNC, lane and E2E_CRC are set (R301, R304). -/
def State.numbered (s : State) (t : Txn) : ReqPkt :=
  let p := t.pkt
  let n := mapGet s.ring.seqOut none (seqKey p.src.toNat p.dst.toNat p.cls)
  let leg := (s.path p.src.toNat p.dst.toNat 0).head?
  let q := { p with seq := n.getD 0, sync := n.isNone, lane := Fin.ofNat 4 ((leg.map Leg.lane).getD 0),
                    late := p.late || leg.any (fun l : Leg => s.ringSlow l.ring) }
  { q with crc := reqCrc q }

/-- The CMD flit of a transaction is inserted: its packet has its number, and its flow is busy (R304, R311, R319). -/
def State.insertTxn (s : State) (t : Txn) : State :=
  let q := s.numbered t
  let s1 := s.mapTxn q.src.toNat q.tag.toNat (fun _ => { t with pkt := q, sent := true })
  let s2 := { s1 with ring := { s1.ring with seqOut := mapSet s1.ring.seqOut none (seqKey q.src.toNat q.dst.toNat q.cls) (some (q.seq + 1)) } }
  (match t.flow with
    | some f => s2.setFld (RNG_GFLOW_BUSY f) 1
    | none => s2).send (.request q)

/-- A flow's request is no longer in flight (R319). -/
def State.flowFree (s : State) (flow : Option Nat) : State :=
  match flow with
  | some f => s.setFld (RNG_GFLOW_BUSY f) 0
  | none => s

/-- Words of a stream, each with the poison of the half it comes from (R334, R978). -/
def packWords (bs : List PByte) : List (DWord × Bool) :=
  (List.range ((bs.length + 7) / 8)).map fun i =>
    let c := (bs.drop (8 * i)).take 8
    (BitVec.ofNat 64 (leNat (c.map Prod.fst)), c.any Prod.snd)

/-- The completion of a request the fabric issued goes to it on IRSP, unless the gate presents nothing (R334, R1026). -/
def State.irspSend (s : State) (stop tag : Nat) (st : Status) (rsn : PoisonRsn) (late : Bool) (bs : List PByte) : State :=
  match s.ring.ireq.find? (fun q => 8 * q.ld + q.gate / 4 = stop ∧ q.tag = tag) with
  | some q =>
    let s1 := { s with ring := { s.ring with ireq := s.ring.ireq.filter (fun x => x ≠ q) } }
    if s.gateEnabled q.ld q.gate && !s.gateFenced q.ld q.gate then
      s1.send (.irsp q.ld q.gate
        ((BitVec.ofNat 64 (statusCode st + 8 * q.htag + 512 * late.toNat + 1024 * rsnCode rsn), false) :: packWords bs))
    else s1
  | none => s

/-- A hub's firewall. -/
def State.fwall (s : State) (h : Nat) : FwlSt := mapGet s.fwl FwlSt.zero h

/-- Change a hub's firewall. -/
def State.setFwall (s : State) (h : Nat) (f : FwlSt) : State := { s with fwl := mapSet s.fwl FwlSt.zero h f }

/-- The X link of a hub is in ACTIVE or DEGRADED (R393). -/
def State.xLinkUp (s : State) (h : Nat) : Bool :=
  s.fld (LNK_STAT_STATE (129 + h)) = 4 || s.fld (LNK_STAT_STATE (129 + h)) = 5

/-- The completion of a request that the third-party die issued goes back to it, or is dropped (R397). -/
def State.xReturn (s : State) (stop tag : Nat) (st : Status) (rsn : PoisonRsn) (late : Bool) (imm : DWord)
    (data : List DataFlit) : State :=
  if stop < 480 then s else
  let h := (stop - 480) / 16
  match (s.fwall h).ins.find? (fun i => i.tag = tag && i.x.j.toNat = stop % 16) with
  | some i =>
    let s1 := s.setFwall h { s.fwall h with ins := (s.fwall h).ins.filter (fun k => k ≠ i) }
    if s.xLinkUp h then s1.send (.xCompletion h i.x.j i.x.tag st rsn late imm data)
    else s1.satInc (FWL_CNT_DROP h)
  | none => s

/-- A stop whose requests an engine of the device issues and follows: hub blocks and port-die blocks. -/
def engineStop (stop : Nat) : Bool :=
  match stopKind stop with
  | .hub _ k => 5 ≤ k && k ≠ 9 && k ≠ 14
  | .port _ k => 1 ≤ k
  | _ => false

/-- A completion answers a ring request of an application core (R804). -/
def State.coreWaits (s : State) (d : Delivered) : Bool := s.cpu.outs.any fun o => hubStop (o.hart / 4) 9 = d.stop && o.tag = d.tag

/-- A completion waits for the engine or the core that asked for it. -/
def State.toInbox (s : State) (d : Delivered) : State :=
  if engineStop d.stop || s.coreWaits d then
    { s with ring := { s.ring with inbox := s.ring.inbox.filter (fun x => !(x.stop = d.stop && x.tag = d.tag)) ++ [d] } }
  else s

/-- The completion that waits at a stop for a tag. -/
def State.inboxAt (s : State) (stop tag : Nat) : Option Delivered :=
  s.ring.inbox.find? (fun x => x.stop = stop && x.tag = tag)

/-- The engine has used the completion of a tag. -/
def State.dropInbox (s : State) (stop tag : Nat) : State :=
  { s with ring := { s.ring with inbox := s.ring.inbox.filter (fun x => !(x.stop = stop && x.tag = tag)) } }

/-- A tag an engine's stop may allocate: no transaction holds it and no completion waits under it (R309). -/
def State.tagFree (s : State) (stop tag : Nat) : Bool := (s.txn stop tag).isNone && (s.inboxAt stop tag).isNone

/-- Deliver a completion status to the requester (R308, R334, R397). -/
def State.deliver (s : State) (stop tag : Nat) (st : Status) (rsn : PoisonRsn := .none) (late peek : Bool := false)
    (imm : DWord := 0) (data : List DataFlit := []) (bs : List PByte := []) : State :=
  let s1 := s.toInbox ⟨stop, tag, st, rsn, late, peek, bs⟩
  ((s1.send (.delivered stop tag st rsn late peek imm data)).irspSend stop tag st rsn late bs).xReturn stop tag st rsn late imm
    data

/-- The class a requester may set: only gates, queues, intake units for theirs, PCIe windows and
third-party dies choose one (R315, R658). -/
def issueClass (stop : Nat) (c : TClass) : TClass :=
  match stopKind stop with
  | .logic _ j => if j < 4 then c else .p
  | .hub _ k => if k = 7 ∨ k = 14 then c else .p
  | .port _ k => if k = 1 ∨ k = 3 then c else .p
  | _ => c

/-- The flow a class G request uses, among those READY at its source for its destination; one that is free comes first
(R318, R319). -/
def State.flowFor (s : State) (src dst : Nat) : Option Nat :=
  let ok (f : Nat) : Bool :=
    s.fld (RNG_GFLOW_STATUS f) = 1 && flowValid (s.flow f) && flowSrc (s.flow f) = src && flowDst (s.flow f) = dst
  match (List.range 256).find? (fun f => ok f && !s.bit (RNG_GFLOW_BUSY f)) with
  | some f => some f
  | none => (List.range 256).find? ok

/-- The packet a requester asks for, without SEQ and CRC. -/
def issuePacket (r : IssueReq) (dst : Nat) (cls : TClass) (flow : Option Nat) : ReqPkt :=
  { dst := BitVec.ofNat 9 dst, src := r.stop, lane := 0, cls := cls, gfid := BitVec.ofNat 8 (flow.getD 0), addr := r.addr,
    mid := r.mid, tag := r.tag, opc := r.opc, lenm1 := r.lenm1, dbg := r.dbg, sync := false, late := false, seq := 0, crc := 0,
    imm := r.imm, poison := r.poison, data := r.data, complete := true }

/-- A requester allocates a tag and issues a request (R5, R287, R308, R318, R328, R339): it waits at its source for a slot; a request that
only the hub switch carries needs none (R281). -/
def State.issue (s : State) (r : IssueReq) : State :=
  let stop := r.stop.toNat
  let cls := issueClass stop r.cls
  match s.txn stop r.tag.toNat with
  | some _ => s
  | none =>
    match s.resolve r.addr.toNat with
    | none => s.deliver stop r.tag.toNat .errTarget
    | some dst =>
      let path := s.path stop dst 0
      if path.any (fun l => s.bit (RNG_RATE_DOWN l.ring)) then s.deliver stop r.tag.toNat .errTarget
      else
        let flow := if cls = .g then s.flowFor stop dst else none
        if cls = .g ∧ flow.isNone then s.deliver stop r.tag.toNat .errDenied
        else
          let t : Txn := ⟨issuePacket r dst cls flow, false, false, flow⟩
          let s1 := { s with ring := { s.ring with txns := s.ring.txns ++ [t] } }
          if path.isEmpty then s1.insertTxn t else s1

/-- A completion that matches no outstanding request is discarded; one whose tag was released at twice the timeout is counted as late
(R306, R312). -/
def State.lateRelease (s : State) (stop : Nat) (p : CplPkt) : State :=
  let k := (stop, p.tag.toNat, p.seq)
  if s.ring.released.contains k then
    { s with ring := { s.ring with released := s.ring.released.filter (· ≠ k) } }.satInc RNG_LATE_CPL_CNT_CNT
  else s

/-- A completion packet arrives at its requester (R302, R303, R306, R307, R312, R319, R331). -/
def State.complete (s : State) (stop : Nat) (p : CplPkt) : State :=
  if s.lostOnWay p.src.toNat stop 1 then s else
  let s1 := s.dropIncomplete stop p.src.toNat p.lane p.cls
  if !p.complete then s1.holdIncomplete stop p.src.toNat p.lane p.cls
  else if p.dst.toNat ≠ stop then s1.misdelivered stop p.src.toNat
  else
    match s1.txn stop p.tag.toNat with
    | none => s1.lateRelease stop p
    | some t =>
      if !t.sent then s1
      else if cplCrc t.pkt.addr p ≠ p.crc then (s1.satInc RNG_E2E_CNT_CRC_FAIL).e2eRecord stop p.src.toNat 0
      else if p.seq ≠ t.pkt.seq then s1.lateRelease stop p
      else
        let s2 := s1.dropTxn stop p.tag.toNat
        let s3 := if t.gaveUp then s2.satInc RNG_LATE_CPL_CNT_CNT
          else s2.deliver stop p.tag.toNat p.status p.rsn (p.late || s2.lateHere p.src.toNat stop 1) p.peek p.imm p.data
            (if t.pkt.opc = 1 ∨ t.pkt.opc = 5 ∨ 2 ≤ statusCode p.status then [] else cplBytes p)
        s3.flowFree t.flow

/-- A requester's timer expires (R311, R312, R392), at a firewall port also for a request it holds. -/
def State.timedOut (s : State) (stop tag : Nat) : State :=
  match s.txn stop tag with
  | some t =>
    if t.gaveUp then s
    else if t.sent then (s.mapTxn stop tag fun t => { t with gaveUp := true }).deliver stop tag .errTimeout
    else (s.dropTxn stop tag).deliver stop tag .errTimeout
  | none =>
    if 480 ≤ stop ∧ (s.fwall ((stop - 480) / 16)).ins.any (fun i => i.tag = tag && i.x.j.toNat = stop % 16 && i.held)
    then s.deliver stop tag .errTimeout else s

/-- TAG_RELEASE (R312, R319): twice the timeout has passed for a tag held after ERR_TIMEOUT. -/
def execTagRelease (stop : Fin 512) (tag : Fin 8192) (s : State) : Host.Outcome State Fault Refusal :=
  .next (match s.txn stop tag with
    | some t => if t.gaveUp then
        let s1 := (s.dropTxn stop tag).flowFree t.flow
        { s1 with ring := { s1.ring with released := s1.ring.released ++ [(stop.val, tag.val, t.pkt.seq)] } }
      else s
    | none => s)

/-- INCOMPLETE_TIMEOUT (R307): an incomplete packet has been held longer than the transaction timeout. -/
def execIncompleteTimeout (stop src : Fin 512) (lane : Fin 4) (cls : TClass) (s : State) : Host.Outcome State Fault Refusal :=
  .next (s.dropIncomplete stop src lane cls)

/-- A waiting flit becomes class P and its packet is marked late (R327). -/
def RingFlit.demote (f : RingFlit) : RingFlit :=
  let h := putBits (putBits f.header 2 2 1) 24 8 0
  { f with header := h, payload := markLate h f.payload }

/-- What waits for a slot of a ring for a flow that has lost its slots there goes as class P, marked late: requests at their source, and
flits of requests and completions where they enter the ring (R327). -/
def State.flowsLost (s : State) (r : Nat) : State :=
  let gone (f dir : Nat) (l : Leg) : Bool := l.ring = r && !s.hasSlot l f dir
  { s with ring := { s.ring with
      txns := s.ring.txns.map fun t => match t.flow with
        | some f => if !t.sent && (s.path t.pkt.src.toNat t.pkt.dst.toNat 0).head?.any (gone f 0) then
            { t with pkt := { t.pkt with cls := .p, late := true, gfid := 0 }, flow := none } else t
        | none => t
      waits := s.ring.waits.map fun w =>
        if w.ring = r && hdrClass w.flit.header = 0 && gone (hdrGfid w.flit.header) w.dir ⟨w.ring, w.stop, w.lane⟩ then
          { w with flit := w.flit.demote } else w } }

/-- PLAN_ACTIVE (R325-R328, R1025): slot 0 of each lane of the committed ring has come; the plan just copied is the active one. -/
def execPlanActive (s : State) : Host.Outcome State Fault Refusal :=
  .next (match s.ring.committing with
    | some (r, op) =>
      let s0 := { s with ring := { s.ring with committing := none } }.setFld RNG_PLAN_CMD_BUSY 0
      if op = .copy then s0 else
      let flows := (List.range 256).foldl (fun m f => mapSet m 0 f (s.csr (RNG_GFLOW f) &&& 0x7FFFF#32)) s.ring.flows
      let s1 : State := { s0 with ring := { s0.ring with
        active := if op = .both then s.ring.active else planCopy r s.ring.shadow s.ring.active, flows := flows } }
      (((s1.setFld RNG_STAT_PLAN_BUSY 0).setFld RNG_STAT_PLAN_EMPTY 0).flowStatuses).flowsLost r
    | none => s)

/-! ### Errors that INJECT applies at the home stop (R983, R984) -/

/-- The next error that INJECT applies to a flit leaving a ring's home stop: its kind, with one fewer left (R984). -/
def takeWire (ring : Nat) : List (Nat × Nat × Nat) → Option (Nat × List (Nat × Nat × Nat))
  | [] => none
  | (r, k, n) :: ws =>
    if r = ring ∧ 9 ≤ k ∧ k ≤ 13 then some (k, if n ≤ 1 then ws else (r, k, n - 1) :: ws)
    else (takeWire ring ws).map fun q => (q.1, (r, k, n) :: q.2)

/-- The bits of a flit that an error of a kind flips (R983): one or two bits of the header or of payload group 0. -/
def wireFlip (kind : Nat) (f : RingFlit) : RingFlit :=
  match kind with
  | 9 => { f with header := f.header ^^^ 1 }
  | 10 => { f with header := f.header ^^^ 3 }
  | 11 => { f with payload := f.payload ^^^ 1 }
  | 12 => { f with payload := f.payload ^^^ 3 }
  | _ => f

/-- A slot whose flit leaves with an error of a kind (R983): what the codes of the next stop will find, or the E2E_CRC inverted. -/
def RingSlot.hurt (x : RingSlot) (kind : Nat) : RingSlot :=
  match kind with
  | 9 => { x with hdrErr := .single }
  | 10 => { x with hdrErr := .uncorrectable }
  | 11 => { x with payErr := .single }
  | 12 => { x with payErr := .uncorrectable }
  | _ => { x with flit := { x.flit with
      payload := x.flit.payload ^^^ (BitVec.ofNat 256 0xFFFFFFFF <<< (if hdrType x.flit.header = 3 then 64 else 128)) } }

/-- The kind that shows in a slot's error marks. -/
def RingSlot.flips (x : RingSlot) : RingFlit :=
  let f := match x.hdrErr with | .clean => x.flit | .single => wireFlip 9 x.flit | .uncorrectable => wireFlip 10 x.flit
  match x.payErr with | .clean => f | .single => wireFlip 11 f | .uncorrectable => wireFlip 12 f

/-! ### Link groups (R356-R366) -/

/-- One bit into the LCRC register (R357). -/
def lcrcBit (r : BitVec 16) (b : Bool) : BitVec 16 :=
  if r.getLsbD 15 != b then (r <<< 1) ^^^ 0x1021#16 else r <<< 1

/-- LCRC of bits [335:0] of a group (R357). -/
def lcrc (g : BitVec 352) : BitVec 16 := (List.range 336).foldl (fun r i => lcrcBit r (g.getLsbD i)) 0xFFFF#16

/-- A group with its LCRC (R356). -/
def sealGroup (low : BitVec 336) : BitVec 352 := lcrc (low.setWidth 352) ++ low

/-- The BODY of a slot's flit (R289, R356): four payload groups with their check bits, the header with its own, the poison bit; `f` is
the flit the check bits were made for, `g` the bits that travel. The order within the 328 bits is the model's (log entry 22). -/
def flitBody (f g : RingFlit) : BitVec 328 :=
  (List.range 4).foldl (fun b i =>
    let d : DWord := g.payload.extractLsb' (64 * i) 64
    b ||| ((Config.groupCheck (f.payload.extractLsb' (64 * i) 64) ++ d).setWidth 328 <<< (72 * i)))
    (((if g.poison then 1#1 else 0#1) ++ Config.headerCheck f.header ++ g.header).setWidth 328 <<< 288)

/-- The header of the flit a BODY carries. -/
def bodyHeader (b : BitVec 328) : Word := b.extractLsb' 288 32

/-- One end of a link. -/
def State.linkEnd (s : State) (n : Nat) (e : Bool) : LinkEnd := mapGet s.links.ends LinkEnd.zero (2 * n + e.toNat)

/-- Change one end of a link. -/
def State.setLinkEnd (s : State) (n : Nat) (e : Bool) (x : LinkEnd) : State :=
  { s with links := { s.links with ends := mapSet s.links.ends LinkEnd.zero (2 * n + e.toNat) x } }

/-- A link carries groups: it is in ACTIVE or DEGRADED (R369). -/
def State.linkUp (s : State) (n : Nat) : Bool := s.fld (LNK_STAT_STATE n) = 4 || s.fld (LNK_STAT_STATE n) = 5

/-- A data group of a body (R356). -/
def dataGroup (lseq : Nat) (body : BitVec 328) : BitVec 352 := sealGroup (BitVec.ofNat 7 lseq ++ 0#1 ++ body)

/-- A control group (R361): kind, SEQ, COUNT and PEER_RESET. -/
def controlGroup (kind seq count : Nat) (peerReset : Bool) : BitVec 352 :=
  sealGroup (0#7 ++ 1#1 ++ BitVec.ofNat 328 (kind + 4 * (seq % 128) + 512 * count + 65536 * peerReset.toNat))

/-- The error INJECT applies to a group sent from end 0, and what is left of it (R983, R984): 14 fails its LCRC, 15 fails the
lowest lane in use until the next training. -/
def takeLinkWire (n : Nat) : List (Nat × Nat × Nat) → Option (Nat × List (Nat × Nat × Nat))
  | [] => none
  | (r, k, c) :: ws =>
    if r = n ∧ k = 14 then some (k, if c ≤ 1 then ws else (r, k, c - 1) :: ws)
    else if r = n ∧ k = 15 then some (k, (r, k, c) :: ws)
    else (takeLinkWire n ws).map fun q => (q.1, (r, k, c) :: q.2)

/-- Logical lanes of a WIDTH code (R402). -/
def widthLanes (w : Nat) : Nat := match w with | 1 => 16 | 2 => 32 | _ => 64

/-- The bits of a group that logical lane 0 carries (R358). -/
def lane0Mask (w : Nat) : BitVec 352 :=
  (List.range 22).foldl (fun m i => if i * widthLanes w < 352 then m ||| BitVec.twoPow 352 (i * widthLanes w) else m) 0

/-- U of the direction from an end, as LNK_MAP holds it (R371, R401). -/
def State.laneSet (s : State) (n : Nat) (e : Bool) : BitVec 68 :=
  let w (k : Nat) : Nat := (s.csr (LNK_MAP n (3 * e.toNat + k))).toNat
  BitVec.ofNat 68 (w 0 + w 1 * 2 ^ 32 + w 2 * 2 ^ 64)

/-- The physical lanes on which the logical lanes 0, 1, … of a direction travel (R373): the lowest of U, or lanes 0-31 after a
MISMATCH. -/
def State.laneMap (s : State) (n : Nat) (e : Bool) : List Nat :=
  let spares := (mapGet s.links.maps LinkMap.zero n).repair
  (if s.fld (LNK_STAT_RSN n) = 2 then List.range 32
    else (List.range (if spares then 68 else 64)).filter fun i => (s.laneSet n e).getLsbD i).take
    (widthLanes (s.fld (LNK_STAT_WIDTH n)))

/-- The physical lanes in each unit interval of a group (R358): bit k on logical lane k mod W in unit interval k div W, padding 0. -/
def laneUnits (lanes : List Nat) (g : BitVec 352) : List (BitVec 68) :=
  let w := lanes.length
  if w = 0 then [] else (List.range ((351 + w) / w)).map fun t => lanes.zipIdx.foldl (fun u li =>
    if g.getLsbD (t * w + li.2) then u ||| BitVec.twoPow 68 li.1 else u) 0

/-- An end sends a group on its lanes, with an injected error where one is due (R358, R373, R984). -/
def State.sendGroup (s : State) (n : Nat) (e : Bool) (g : BitVec 352) : State :=
  match if e then none else takeLinkWire n s.errs.wire with
  | some (k, ws) =>
    let bad := if k = 14 then g ^^^ BitVec.twoPow 352 336 else g ^^^ lane0Mask (s.fld (LNK_STAT_WIDTH n))
    let i : Injected := ⟨7, k, n⟩
    { s with errs := { s.errs with wire := ws, injected := s.errs.injected ++ [i] } }.send (.group n e bad (laneUnits (s.laneMap n e) bad))
  | none => s.send (.group n e g (laneUnits (s.laneMap n e) g))

/-- An end accepts a slot from its ring: it is in the ring, carries groups, and its retry buffer has room (R353, R360, R366). -/
def State.linkAccepts (s : State) (n : Nat) (e : Bool) : Bool :=
  (129 ≤ n || s.bit (LNK_STAT_IN_RING n)) && s.linkUp n && (s.linkEnd n e).buf.length < 64

/-- A data group goes out and stays in the retry buffer (R362). -/
def State.linkSend (s : State) (n : Nat) (e : Bool) (body : BitVec 328) : State :=
  let x := s.linkEnd n e
  (s.setLinkEnd n e { x with next := (x.next + 1) % 128, buf := x.buf ++ [(x.next, body)] }).sendGroup n e (dataGroup x.next body)

/-! ### Flits at stops (R284, R288-R294, R316-R324, R331) -/

/-- The worse of two findings of a code. -/
def worstErr : CodeErr → CodeErr → CodeErr
  | .clean, b => b
  | a, .clean => a
  | .single, .single => .single
  | _, _ => .uncorrectable

/-- What the codes of a stop find in the payload groups of a slot; an empty slot's payload is ignored (R290). -/
def RingSlot.payFind (x : RingSlot) (pay : List CodeErr) : List CodeErr :=
  if hdrType x.flit.header = 0 then [] else worstErr x.payErr (pay.headD .clean) :: pay.tail

/-- A slot's flit is checked at a stop (R291, R292): single errors are corrected and counted; a flit with an uncorrectable error is removed
and the slot emptied. -/
def State.checkSlot (s : State) (space ring : Nat) (x : RingSlot) (hdr : CodeErr) (pays : List CodeErr) : State × RingSlot :=
  let inj := s.injectedAt 6 ring
  let h := worstErr x.hdrErr hdr
  let pay := x.payFind pays
  let ce := (if h = .single then 1 else 0) + (pay.filter (· = .single)).length
  let s0 := if h = .clean ∧ pay.all (· = .clean) then s else s.dropInjected 6 ring
  let s1 := s0.satAdd (RNG_ECNT_CE ring) ce
  let s2 := if h = .single then s1.ringErr space ring (RNG_ERR_HDR_CE ring) sevCorrected inj else s1
  let s3 := if pay.contains .single then s2.ringErr space ring (RNG_ERR_PAY_CE ring) sevCorrected inj else s2
  if h = .uncorrectable then
    ((s3.satInc (RNG_ECNT_UE ring)).ringErr space ring (RNG_ERR_HDR_UE ring) sevUncorrected inj, x.emptied)
  else if pay.contains .uncorrectable then
    ((s3.satInc (RNG_ECNT_UE ring)).ringErr space ring (RNG_ERR_PAY_UE ring) sevUncorrected inj, x.emptied)
  else (s3, { x with hdrErr := .clean, payErr := .clean })

/-- The last flit of a packet has reached the hub switch: the whole packet may go on (R281). -/
def State.wholeReady (s : State) (f : RingFlit) (dir : Nat) : State :=
  if !hdrLast f.header then s else
  { s with ring := { s.ring with waits := s.ring.waits.map fun w =>
      if w.dir = dir && (w.flit.header ^^^ f.header) &&& 0x3FFFFC#32 = 0 then { w with ready := true } else w } }

/-- A stop takes off a flit whose way on this ring ends there (R288, R324): it is delivered, or waits for the next ring of its path. A flit
whose path no longer holds this ring is lost (log entry 92). -/
def State.takeOff (s : State) (stop ring : Nat) (x : RingSlot) : State × RingSlot :=
  if hdrType x.flit.header = 0 then (s, x) else
  let f := s.lateFlit ring x.flit
  let dst := hdrDst f.header
  let legs := s.path (hdrSrc f.header) dst x.dir
  if (legs[x.leg]?).all (fun l => l.ring ≠ ring) then (s, x.emptied)
  else if exitStop legs x.leg dst ≠ stop then (s, { x with flit := f })
  else match legs[x.leg + 1]? with
    | none => (s.send (.flit stop ring f.header f.payload f.poison), x.emptied)
    | some _ => ((s.wait legs (x.leg + 1) x.dir (!switchStop stop) false [f]).wholeReady f x.dir, x.emptied)

/-- A request is the first of its source, destination and class that has not been inserted (R313). -/
def State.firstUnsent (s : State) (t : Txn) : Bool :=
  (s.ring.txns.find? fun u => !u.sent && u.pkt.src = t.pkt.src && u.pkt.dst = t.pkt.dst && u.pkt.cls = t.pkt.cls).any fun u =>
    u.pkt.tag = t.pkt.tag

/-- A hub MPE has room for another transaction (R314). -/
def State.mpeRoom (s : State) (dst : BitVec 9) : Bool :=
  (stopKind dst.toNat ≠ .hub 0 5 && stopKind dst.toNat ≠ .hub 1 5) ||
    (s.ring.txns.countP fun t => t.sent && t.pkt.dst = dst) < 4096

/-- What a stop may put into a slot: a flit that waits there, or the CMD flit of a request. -/
inductive Pick where
  | flit (w : WaitFlit)
  | request (t : Txn)
  deriving DecidableEq, Repr

/-- The first flit of a class that waits at a stop for a lane and meets a condition; packets that have begun and completions go before new
requests (log entry 93). -/
def State.pick (s : State) (ring stop lane : Nat) (cls : TClass) (pw : WaitFlit → Bool) (pt : Txn → Bool) : Option Pick :=
  match s.ring.waits.find? fun w =>
      w.ring = ring && w.stop = stop && w.lane = lane && w.ready && hdrClass w.flit.header = classCode cls && pw w with
  | some w => some (.flit w)
  | none => (s.ring.txns.find? fun t => !t.sent && t.pkt.cls = cls && pt t && s.firstUnsent t &&
      !(t.flow.any fun f => s.bit (RNG_GFLOW_BUSY f)) && s.mpeRoom t.pkt.dst &&
      (s.path t.pkt.src.toNat t.pkt.dst.toNat 0).head? = some ⟨ring, stop, lane⟩).map Pick.request

/-- A pick that needs buffer space at its destination (R316). -/
def Pick.fresh : Pick → Bool
  | .flit w => w.fresh
  | .request _ => true

/-- The stop at which a pick leaves the ring it is about to enter. -/
def State.pickExit (s : State) : Pick → Nat
  | .flit w =>
    let h := w.flit.header
    exitStop (s.path (hdrSrc h) (hdrDst h) w.dir) w.leg (hdrDst h)
  | .request t => exitStop (s.path t.pkt.src.toNat t.pkt.dst.toNat 0) 0 t.pkt.dst.toNat

/-- The owner of a flow's slots on a ring (R320). -/
def State.slotOwner (s : State) (ring f dir : Nat) : Option Nat :=
  let w := s.flow f
  ((if dir = 0 then s.path (flowSrc w) (flowDst w) 0 else s.path (flowDst w) (flowSrc w) 1).find? fun l => l.ring = ring).map Leg.entry

/-- A P or B flit may ride an empty reserved slot from a stop below the owner, if it leaves the ring before the owner (R323). -/
def State.mayBorrow (s : State) (ring lane pos f dir : Nat) (k : Pick) : Bool :=
  match (s.slotOwner ring f dir).bind (s.posOf ring lane), s.posOf ring lane (s.pickExit k) with
  | some o, some d => pos ≠ o && ringDist ring lane pos d < ringDist ring lane pos o
  | _, _ => false

/-- What goes into an empty slot at a stop, and whether it borrows the slot (R317, R322, R323). G goes first into an unreserved slot (log
entry 93). -/
def State.slotChoice (s : State) (stop : Nat) (p : SlotPass) : Option (Pick × Bool) :=
  let r := p.ring.val
  let l := p.lane.val
  let e := mapGet s.ring.active 0 (planKey r l p.slot)
  let roomy (room : Bool) (k : Option Pick) : Option Pick := k.filter fun x => room || !x.fresh
  let pk := roomy p.roomP (s.pick r stop l .p (fun _ => true) (fun _ => true))
  let bk := roomy p.roomB (s.pick r stop l .b (fun _ => true) (fun _ => true))
  if e.getLsbD 9 then
    let f := bitsOf e 0 8
    let d := bitsOf e 8 1
    match s.pick r stop l .g (fun w => hdrGfid w.flit.header = f && w.dir = d) (fun t => t.flow = some f && d = 0) with
    | some k => some (k, false)
    | none => match pk.filter (s.mayBorrow r l p.pos f d) with
      | some k => some (k, true)
      | none => (bk.filter (s.mayBorrow r l p.pos f d)).map fun k => (k, true)
  else match s.pick r stop l .g (fun _ => true) (fun _ => true), pk, bk with
    | some k, _, _ => some (k, false)
    | none, some k, none => some (k, false)
    | none, some k, some b => some (if 15 ≤ mapGet s.ring.pRun 0 (r * 512 + stop) then b else k, false)
    | none, none, some b => some (b, false)
    | none, none, none => none

/-- The class of a pick. -/
def Pick.cls : Pick → Nat
  | .flit w => hdrClass w.flit.header
  | .request t => classCode t.pkt.cls

/-- The count of R317 after a slot has gone to a pick: it grows while P flits go and a B flit waits. -/
def State.countP (s : State) (stop : Nat) (p : SlotPass) (k : Pick) (borrowed : Bool) : State :=
  let key := p.ring.val * 512 + stop
  if borrowed || (mapGet s.ring.active 0 (planKey p.ring p.lane p.slot)).getLsbD 9 || k.cls = 0 then s else
  let waits := (s.pick p.ring stop p.lane .b (fun _ => true) (fun _ => true)).isSome
  let n := if k.cls = 1 && waits then mapGet s.ring.pRun 0 key + 1 else 0
  { s with ring := { s.ring with pRun := mapSet s.ring.pRun 0 key n } }

/-- A pick enters a slot: a request's packet gets its number, and its other flits wait in front of all others (R294, R304). -/
def State.putOn (s : State) (stop : Nat) (p : SlotPass) (k : Pick) (borrowed : Bool) (x : RingSlot) : State × RingSlot :=
  let enter (t : State) (f : RingFlit) (leg dir : Nat) : RingSlot :=
    { x with flit := t.lateFlit p.ring { f with header := hdrBorrow f.header borrowed }, leg := leg, dir := dir }
  match k with
  | .flit w => ({ s with ring := { s.ring with waits := s.ring.waits.erase w } }, enter s w.flit w.leg w.dir)
  | .request t =>
    let s1 := s.insertTxn t
    let fs := reqFlits (s.numbered t)
    let rest := fs.tail.map fun f => (⟨p.ring, stop, p.lane, 0, 0, f, true, false⟩ : WaitFlit)
    ({ s1 with ring := { s1.ring with waits := rest ++ s1.ring.waits } }, enter s1 (fs.headD ⟨0, 0, false⟩) 0 0)

/-- A stop fills a slot that is empty when it leaves, if a flit waits that may go into it (R317, R322, R323). -/
def State.fillSlot (s : State) (stop : Nat) (p : SlotPass) (x : RingSlot) : State × RingSlot :=
  if hdrType x.flit.header ≠ 0 then (s, x) else
  match s.slotChoice stop p with
  | some (k, b) => (s.countP stop p k b).putOn stop p k b x
  | none => (s, x)

/-- A flit takes the error that INJECT has waiting for its ring; an uncorrectable one is then remembered as injected (R984). -/
def State.wireHit (s : State) (ring : Nat) (x : RingSlot) : State × RingSlot :=
  match takeWire ring s.errs.wire with
  | some (kind, ws) =>
    let i : Injected := ⟨6, kind, ring⟩
    ({ s with errs := { s.errs with wire := ws, injected := if kind = 13 then s.errs.injected else s.errs.injected ++ [i] } }, x.hurt kind)
  | none => (s, x)

/-- A slot leaves a stop, over a link where the way to the next stop crosses one; INJECT's errors apply at the home stop (R284, R356,
R984). -/
def State.slotOut (s : State) (stop : Option Nat) (p : SlotPass) (x : RingSlot) (cross : Option (Nat × Bool)) : State :=
  let r := p.ring.val
  let y := { x with pos := some p.pos.val }
  let q := if stop = some (ringHome r) && hdrType y.flit.header ≠ 0 then s.wireHit r y else (s, y)
  match cross with
  | some (n, e) =>
    (q.1.linkSend n e (flitBody q.2.flit q.2.flips)).setSlot r p.lane p.slot { q.2 with onLink := some (n, e, (q.1.linkEnd n e).next) }
  | none => q.1.setSlot r p.lane p.slot q.2

/-- A slot can pass a place: it exists, comes from the stop before it, and is on no link; its ring is in service (R274, R279, R284,
R339). -/
def State.slotArrives (s : State) (p : SlotPass) : Bool :=
  let x := s.slot p.ring p.lane p.slot
  p.lane.val < ringLanes p.ring && p.slot.val < ringSlots p.ring && x.onLink.isNone &&
    x.pos.all (fun q => s.nextPos p.ring p.lane q = some p.pos.val) && !s.bit (RNG_RATE_DOWN p.ring) && !s.rst.parked &&
    (48 ≤ p.ring.val || (s.stopSite (8 * p.ring.val)).isSome)

/-- FLIT_AT_STOP (R284, R288, R291, R292, R316-R324, R331): a slot passes a stop. Its flit is checked; a flit whose way on the ring ends
here is taken off; an empty slot takes a flit that waits. A link end that accepts no slot holds the slot where it is (R360, R366). -/
def execFlitAtStop (p : SlotPass) (s : State) : Host.Outcome State Fault Refusal :=
  .next (match s.ringNode p.ring p.lane p.pos with
    | none => s
    | some nd =>
      let cross := s.crossing p.ring p.lane nd.col p.pos
      if !s.slotArrives p || cross.any (fun l => !s.linkAccepts l.1 l.2) then s else
      let c := s.checkSlot nd.space p.ring (s.slot p.ring p.lane p.slot) p.hdr p.pay
      match nd.stop with
      | none => c.1.slotOut none p c.2 cross
      | some stop =>
        let t := c.1.takeOff stop p.ring c.2
        let f := t.1.fillSlot stop p t.2
        f.1.slotOut (some stop) p f.2 cross)

/-! ### Gates (R332-R337, R978, R1016-R1018, R1026) -/

/-- A request that reached a gate's window is presented on TREQ, or completed (R298, R334-R337, R978, R1026). -/
def State.gateRequest (s : State) (stop : Nat) (p : ReqPkt) : State :=
  let ld : Nat := stop / 8
  let gate := p.addr.toNat % 0x40000000 / 0x02000000
  if s.gateShut ld gate then s.reply stop p .errFenced
  else if !s.gateEnabled ld gate then s.reply stop p .errTarget
  else if 1 < p.opc.toNat || 4096 < p.addr.toNat % 4096 + reqLen p then s.reply stop p .errTarget
  else
    match (List.range 64).find? (fun t => !s.ring.treq.any (fun q => q.ld = ld ∧ q.gate = gate ∧ q.htag = t)) with
    | none => { s with ring := { s.ring with gateWait := s.ring.gateWait ++ [(stop, p)] } }
    | some t =>
      let h : DWord := BitVec.ofNat 64 (p.addr.toNat % 0x02000000 + p.opc.toNat * 2 ^ 25 + p.lenm1.toNat * 2 ^ 28 + t * 2 ^ 36 +
        p.dbg.toNat * 2 ^ 42)
      { s with ring := { s.ring with treq := s.ring.treq ++ [TreqOut.mk ld gate t p false] } }.send
        (.treq ld gate ((h, false) :: if p.opc = 1 then packWords (reqBytes p) else []))

/-- The stop through which a gate's acre is reached. -/
def gateStop (ld gate : Nat) : Nat := 8 * ld + gate / 4

/-- A request held at a gate is taken up when an HTAG is free again (R316, R335). -/
def State.gateNext (s : State) (ld gate : Nat) : State :=
  match s.ring.gateWait.find? fun w => w.1 / 8 = ld && w.2.addr.toNat % 0x40000000 / 0x02000000 = gate with
  | some w => { s with ring := { s.ring with gateWait := s.ring.gateWait.erase w } }.gateRequest w.1 w.2
  | none => s

/-- The gates of an acre that goes away complete the requests they hold (R337), and forget the answers they would drop (R336). -/
def State.gateFlush (s : State) (la : Nat) : State :=
  let mine (w : Nat × ReqPkt) : Bool := w.1 = 8 * (la / 4) + la % 4
  let s1 : State := { s with ring := { s.ring with
    gateWait := s.ring.gateWait.filter fun w => !mine w
    treq := s.ring.treq.filter fun q => !(q.late && q.ld = la / 4 && q.gate / 4 = la % 4) } }
  (s.ring.gateWait.filter mine).foldl (fun t w => t.reply w.1 w.2 .errFenced) s1

/-- TRSP (R334, R336, R978): the fabric answers a request. An answer to a request that timed out is dropped; a status the
table does not give TRSP counts as ERR_TARGET (log entry 21). -/
def execTrsp (ld : Fin 48) (gate : Fin 16) (m : TrspMsg) (s : State) : Host.Outcome State Fault Refusal :=
  .next (match s.ring.treq.find? (fun q => q.ld = ld.val ∧ q.gate = gate.val ∧ q.htag = m.htag.toNat) with
    | some q =>
      if s.gateFenced ld gate || !s.gateEnabled ld gate then s
      else
        let s1 := { s with ring := { s.ring with treq := s.ring.treq.filter (fun x => x ≠ q) } }
        let words := m.data.flatMap fun w => (bytesOf w.1 8).map fun b => (b, w.2)
        let half (i : Nat) : Bool := ((words.drop (32 * (i / 32))).take 32).any Prod.snd
        let bs : List PByte := (words.take (reqLen q.pkt)).zipIdx.map fun b => (b.1.1, half b.2)
        let bad := bs.any Prod.snd
        let s2 := if q.late then s1
          else if 1 < m.status.toNat then s1.reply (gateStop ld gate) q.pkt .errTarget
          else if bad || m.status = 1 then
            s1.reply (gateStop ld gate) q.pkt .poison (if bad then .fabric else rsnOf m.rsn.toNat) false
              (if q.pkt.opc = 0 then bs else [])
          else s1.reply (gateStop ld gate) q.pkt .ok .none false (if q.pkt.opc = 0 then bs else [])
        s2.gateNext ld gate
    | none => s)

/-- GATE_TREQ_TIMEOUT (R336): the fabric has not answered by the transaction timeout; its HTAG is held until it does. -/
def execGateTreqTimeout (ld : Fin 48) (gate : Fin 16) (htag : Fin 64) (s : State) : Host.Outcome State Fault Refusal :=
  .next (match s.ring.treq.find? (fun q => q.ld = ld.val ∧ q.gate = gate.val ∧ q.htag = htag.val ∧ !q.late) with
    | some q => { s with ring := { s.ring with
        treq := s.ring.treq.map fun x => if x = q then { x with late := true } else x } }.reply (gateStop ld gate) q.pkt .errTimeout
    | none => s)

/-- The signature rule between two acres (R1017). -/
def State.sigOk (s : State) (src dst : Nat) : Bool :=
  let sr := s.csr (CFG_SIG src)
  let st := s.csr (CFG_SIG dst)
  let lists (a : Nat) (v : Word) : Bool := (List.range 4).any fun k => s.csr (CFG_COMPAT a k) == v && v != 0
  sr == 0 || st == 0 || sr == st || (lists src st && lists dst sr)

/-- LDC_SIG_ERR records a refusal (R1018, R1021). -/
def State.sigRefuse (s : State) (site gate peer : Nat) : State :=
  (((s.satInc (LDC_SIG_ERR_CNT site)).setFld (LDC_SIG_ERR_PEER site) peer).setFld (LDC_SIG_ERR_GATE site) gate).setFld
    (LDC_SIG_ERR_VALID site) 1

/-- The acre an address names if it resolves to an acre stop (R287, R1017). -/
def State.acreOf (s : State) (a : Nat) : Option Nat :=
  match s.resolve a with
  | some stop => if stop < 384 ∧ stop % 8 < 4 then some (4 * (stop / 8) + stop % 8) else none
  | none => none

/-- A request the fabric issues becomes a ring request of its gate (R309, R333, R978). -/
def ireqIssue (ld gate : Nat) (tag : BitVec 13) (m : IreqMsg) : IssueReq :=
  let words : List PByte := m.data.flatMap fun w => (bytesOf w.1 8).map fun b => (b, w.2)
  let len := m.lenm1.toNat + 1
  { stop := BitVec.ofNat 9 (gateStop ld gate), tag := tag, mid := BitVec.ofNat 12 (0x400 + 16 * ld + gate), cls := m.cls,
    opc := m.opc, addr := m.addr, lenm1 := m.lenm1, dbg := false,
    imm := if m.opc = 4 then BitVec.ofNat 64 (leNat (((words.drop 8).take 8).map Prod.fst))
      else if len ≤ 8 then BitVec.ofNat 64 (leNat ((words.take 8).map Prod.fst)) else 0,
    poison := len ≤ 8 && m.opc ≠ 0 && words.any Prod.snd,
    data := if m.opc = 4 then packFlits (words.take 8)
      else if m.opc ≠ 0 ∧ 8 < len then packFlits (words.take len) else [] }

/-- IREQ (R334, R335, R1017, R1018, R1026): the fabric issues a request through a gate, with a tag of that gate. -/
def execIreq (ld : Fin 48) (gate : Fin 16) (tag : BitVec 13) (m : IreqMsg) (s : State) : Host.Outcome State Fault Refusal :=
  let stop := gateStop ld gate
  let busy := s.ring.ireq.any (fun q => q.ld = ld.val ∧ q.gate = gate.val ∧ q.htag = m.htag.toNat)
  .next (if s.gateShut ld gate || !s.gateEnabled ld gate || busy || bitsOf tag 11 2 ≠ gate % 4 || (s.txn stop tag.toNat).isSome
    then s
    else
      let s1 := { s with ring := { s.ring with ireq := s.ring.ireq ++ [IreqOut.mk ld gate m.htag.toNat tag.toNat] } }
      match s.acreOf m.addr.toNat with
      | some peer =>
        if s.sigOk (4 * ld + gate / 4) peer then s1.issue (ireqIssue ld gate tag m)
        else (s1.sigRefuse ((s.siteOf ld).getD 0) gate peer).deliver stop tag.toNat .errFenced
      | none => s1.issue (ireqIssue ld gate tag m))

/-! ### A stop loses what it held -/

/-- Every stop that `p` selects forgets its transactions, its sequence numbers, and what waited or was held at it; the flows of lost
requests are free, and the clean windows of a ring whose home stop it is start again (R277, R304, R305, R319, R932). -/
def State.dropStops (s : State) (p : Nat → Bool) : State :=
  let s1 := (s.ring.txns.filter fun t => t.sent && p t.pkt.src.toNat).foldl (fun t x => t.flowFree x.flow) s
  let s2 := s1.clearSlots fun k x => x.onLink.isNone && (slotRing k < 54 && p (ringHome (slotRing k)) ||
    x.pos.any fun q => (s.ringNode (slotRing k) (k / 128 % 4) q).any fun n => n.stop.any p)
  { s2 with ring := { s2.ring with
      txns := s2.ring.txns.filter fun t => !p t.pkt.src.toNat
      seqOut := mapDrop (fun k => p (k / 2048)) s2.ring.seqOut
      seqIn := mapDrop (fun k => p (k / 2048)) s2.ring.seqIn
      incomplete := s2.ring.incomplete.filter fun i => !p i.dst
      waits := s2.ring.waits.filter fun w => !p w.stop
      pRun := mapDrop (fun k => p (k % 512)) s2.ring.pRun
      released := s2.ring.released.filter fun x => !p x.1
      clean := mapDrop (fun r => p (ringHome r)) s2.ring.clean
      treq := s2.ring.treq.filter fun q => !p (gateStop q.ld q.gate)
      gateWait := s2.ring.gateWait.filter fun w => !p w.1
      ireq := s2.ring.ireq.filter fun q => !p (gateStop q.ld q.gate)
      msgs := s2.ring.msgs.filter fun m => !p m.1
      inbox := s2.ring.inbox.filter fun d => !p d.stop } }

end Sys2Proof.Machine
end

