-- ==== Sys2Proof/Machine/Link.lean ====
section
/-! DEFINITION. Cafen die links (R351-R387): replay, training, degraded and lost links, and the meanings of their commands.
LNK_STAT holds one training state for both ends of a link (log entry 23). -/

namespace Sys2Proof.Machine

open Sys2Proof

/-! ### Inventory (R351) -/

/-- The rings whose slots a link carries when it is in its ring (R351, R353). -/
def linkRings (n : Nat) : List Nat := if n < 128 then [54 + n / 32] else if n = 128 then [58, 59] else []

/-- The links a ring may use. -/
def ringLinks (r : Nat) : List Nat :=
  if 54 ≤ r ∧ r < 58 then (List.range 32).filterMap fun m => if linkExists (32 * (r - 54) + m) then some (32 * (r - 54) + m) else none
  else if r = 58 ∨ r = 59 then [128] else []

/-- The columns a row link joins (R351). -/
def linkCols (n : Nat) : Nat × Nat := if n % 32 < 16 then (n % 32, n % 32 + 1) else (n % 32 - 17, n % 32 - 15)

/-- A stop lies on the die at an end of a link (R380). -/
def State.ownStop (s : State) (n : Nat) (e : Bool) (stop : Nat) : Bool :=
  let die (site : Nat) : Bool :=
    match stopKind stop with
    | .logic _ _ => s.stopSite stop = some site
    | .port p _ => site = 16 * p
    | .hub h _ => site = 24 + 16 * h || (site % 16 = 8 && site / 32 = h)
    | _ => false
  if n < 128 then die (16 * (n / 32) + (if e then (linkCols n).2 else (linkCols n).1))
  else if n = 128 then (match stopKind stop with | .hub h _ => h = e.toNat | _ => false)
  else if e then (match stopKind stop with | .third x _ => x = n - 129 | _ => false)
  else (match stopKind stop with | .hub h _ => h = n - 129 | _ => false)

/-! ### Errors (R404) -/

/-- Set a flag of LNK_ERR and report it (R965, R987). -/
def State.linkErr (s : State) (n : Nat) (f : Fld) (sev : Nat) (inj : Bool := false) : State :=
  s.raise f 0 0x03 n 0 sev ((s.csr (LNK_STAT n)).setWidth 64) 0 inj

/-- A replay is sent or received (R404). -/
def State.linkReplayed (s : State) (n : Nat) : State :=
  (s.satInc (LNK_CNT_REPLAYS n)).linkErr n (LNK_ERR_REPLAY n) sevCorrected

/-! ### Rings and fences that follow a link (R276, R339, R375, R382, R393) -/

/-- A ring's NARROW: some link in it runs below full width (R276, R347). -/
def State.ringNarrow (s : State) (r : Nat) : Bool :=
  (ringLinks r).any fun n => s.bit (LNK_STAT_IN_RING n) && s.linkUp n && s.fld (LNK_STAT_WIDTH n) ≠ 3

/-- A ring follows its links: NARROW and SLOW, and service again once every link of it runs (R276, R339, R375). -/
def State.ringUpdate (s : State) (r : Nat) : State :=
  let s1 := (s.setBit (RNG_RATE_NARROW r) (s.ringNarrow r)).slowUpdate r
  if (ringLinks r).all (fun k => !s1.bit (LNK_STAT_IN_RING k) || s1.linkUp k) then s1.ringUp r else s1

/-- Outstanding outbound requests of a firewall complete with ERR_FENCED (R393). -/
def State.fenceOut (s : State) (h : Nat) : State :=
  ((s.fwall h).outs.map FwlOut.pkt ++ (s.fwall h).queue).foldl (fun t p => t.reply (hubStop h 14) p .errFenced)
    (s.setFwall h { s.fwall h with outs := [], queue := [] })

/-- A link has come into service or left it: its rings follow, or its X die is fenced (R375, R393). -/
def State.linkFollow (s : State) (n : Nat) : State :=
  if 129 ≤ n then (if s.linkUp n then s else s.fenceOut (n - 129)) else (linkRings n).foldl (fun t r => t.ringUpdate r) s

/-! ### Slots on a link (R356, R380, R381) -/

/-- The slots whose groups an end has sent and the other end has not accepted. -/
def onLinkOf (n : Nat) (e : Bool) (p : Nat → Bool) (x : RingSlot) : Bool :=
  match x.onLink with
  | some (n', e', q) => n' = n && e' = e && p q
  | none => false

/-- A group has come out of a link: its slot goes on at the other side, empty if the flit was discarded there (R380). -/
def State.slotOff (s : State) (n : Nat) (e : Bool) (lseq : Nat) (drop : Bool) : State :=
  let out (x : RingSlot) : RingSlot := if drop then x.emptied else { x with onLink := none }
  let mine := s.ring.slots.filter fun kv => onLinkOf n e (· = lseq) kv.2
  { s with ring := { s.ring with slots := mine.foldl (fun m kv => mapSet m RingSlot.empty kv.1 (out kv.2)) s.ring.slots } }

/-- An end loses its retry buffer; the slots it carried come out empty (R338, R381). -/
def State.loseBuffer (s : State) (n : Nat) (e : Bool) : State :=
  (s.clearSlots fun _ x => onLinkOf n e (fun _ => true) x).setLinkEnd n e LinkEnd.zero

/-! ### Replay (R362-R368) -/

/-- The groups of a retry buffer that remain when one up to LSEQ `seq` are freed (R362). -/
def freeTo (seq : Nat) (buf : List (Nat × BitVec 328)) : List (Nat × BitVec 328) :=
  if buf.any (fun g => g.1 = seq) then (buf.dropWhile (fun g => g.1 ≠ seq)).drop 1 else buf

/-- An end frees its buffer up to an LSEQ (R362). -/
def LinkEnd.freed (x : LinkEnd) (seq : Nat) : LinkEnd :=
  { x with buf := freeTo seq x.buf, old := x.old - (x.buf.length - (freeTo seq x.buf).length) }

/-- An end sends a REPLAY and the groups it announces (R361, R365, R404). A REPLAY that announces none names the next LSEQ (log entry
94). -/
def State.replayPart (s : State) (n : Nat) (e : Bool) (peerReset : Bool) (groups : List (Nat × BitVec 328)) : State :=
  let q := match groups with | g :: _ => g.1 | [] => (s.linkEnd n e).next
  let s1 := (s.sendGroup n e (controlGroup 3 q groups.length peerReset)).linkReplayed n
  let s2 := if peerReset then s1.linkErr n (LNK_ERR_PEER_RESET n) sevUncorrected else s1
  groups.foldl (fun t g => t.sendGroup n e (dataGroup g.1 g.2)) s2

/-- An end sends every unacknowledged group again (R365, R379): first, behind PEER_RESET = 1, those first sent before the receiver's
reset. -/
def State.linkReplay (s : State) (n : Nat) (e : Bool) : State :=
  let x := s.linkEnd n e
  let before := x.buf.take x.old
  let after := x.buf.drop x.old
  let s1 := if before.isEmpty then s else s.replayPart n e true before
  if after.isEmpty && !before.isEmpty then s1 else s1.replayPart n e false after

/-- An end sends an ACK of the last group received in order (R361, R363). -/
def State.linkAck (s : State) (n : Nat) (e : Bool) : State :=
  let x := s.linkEnd n e
  match x.expect with
  | some q => (s.setLinkEnd n e { x with unacked := 0 }).sendGroup n e (controlGroup 1 (q + 127) 0 false)
  | none => s

/-- An end sends a NAK and discards data groups until a REPLAY (R364). -/
def State.linkNak (s : State) (n : Nat) (e : Bool) : State :=
  let x := s.linkEnd n e
  (s.setLinkEnd n e { x with waiting := true }).sendGroup n e (controlGroup 2 (x.expect.getD 0 + 127) 0 false)

/-- Training ends an injected lane failure (R983). -/
def State.linkLaneOk (s : State) (n : Nat) : State :=
  { s with errs := { s.errs with wire := s.errs.wire.filter (fun w => !(w.1 = n && w.2.1 = 15)) } }

/-- A link leaves its state for DETECT (0) or CALIBRATE (1), keeping its retry buffers (R367-R369). -/
def State.linkRetrain (s : State) (n state : Nat) : State :=
  let m := mapGet s.links.maps LinkMap.zero n
  let m' := { m with wasDegraded := m.wasDegraded || s.fld (LNK_STAT_STATE n) = 5 }
  let s1 := { s with links := { s.links with maps := mapSet s.links.maps LinkMap.zero n m' } }
  (((s1.setFld (LNK_STAT_STATE n) state).setFld (LNK_STAT_WIDTH n) 0).linkLaneOk n).linkFollow n

/-- A link carries data groups: it runs and, on a ring's crossing, is in the ring (R353). -/
def State.linkCarries (s : State) (n : Nat) : Bool := s.linkUp n && (129 ≤ n || s.bit (LNK_STAT_IN_RING n))

/-- DATA_GROUP (R363, R364, R380): a data group arrives at an end. A freshly reset end takes the first group's LSEQ as the one it
expects (log entry 24). -/
def execDataGroup (link : Fin 131) (at1 : Bool) (group : BitVec 352) (s : State) : Host.Outcome State Fault Refusal :=
  let n := link.val
  let x := s.linkEnd n at1
  let lseq := bitsOf group 329 7
  .next (if !s.linkCarries n || group.getLsbD 328 || x.waiting then s
    else if lcrc group ≠ group.extractLsb' 336 16 then
      let inj := s.injectedAt 7 n
      (((s.dropInjected 7 n).satInc (LNK_CNT_LCRC n)).linkErr n (LNK_ERR_CRC_ERR n) sevCorrected inj).linkNak n at1
    else if x.expect.getD lseq ≠ lseq then s.linkNak n at1
    else
      let body : BitVec 328 := group.extractLsb' 0 328
      let own := 0 < x.toDrop && s.ownStop n at1 (bitsOf (bodyHeader body) 4 9)
      let s1 := s.setLinkEnd n at1 { x with expect := some ((lseq + 1) % 128), unacked := x.unacked + 1, toDrop := x.toDrop - 1 }
      let s2 := (if own then s1 else s1.send (.linkFlit n at1 body)).slotOff n (!at1) lseq own
      if 16 ≤ x.unacked + 1 then s2.linkAck n at1 else s2)

/-- ACK (R362): an ACK arrives at an end. -/
def execAck (link : Fin 131) (at1 : Bool) (seq : Fin 128) (s : State) : Host.Outcome State Fault Refusal :=
  let x := s.linkEnd link at1
  .next (if s.linkUp link then s.setLinkEnd link at1 { x.freed seq with naks := (0, 0) } else s)

/-- NAK (R362, R365, R367): a NAK arrives at an end; the fourth in a row that names one SEQ leads to CALIBRATE. -/
def execNak (link : Fin 131) (at1 : Bool) (seq : Fin 128) (s : State) : Host.Outcome State Fault Refusal :=
  let x := s.linkEnd link at1
  let k := if x.naks.1 = seq.val then x.naks.2 + 1 else 1
  .next (if !s.linkUp link then s
    else if 4 ≤ k then (s.setLinkEnd link at1 { x.freed seq with naks := (0, 0) }).linkRetrain link 1
    else (s.setLinkEnd link at1 { x.freed seq with naks := (seq.val, k) }).linkReplay link at1)

/-- REPLAY (R364, R380): a REPLAY arrives at an end. -/
def execReplay (link : Fin 131) (at1 : Bool) (seq : Fin 128) (count : Fin 65) (peerReset : Bool) (s : State) :
    Host.Outcome State Fault Refusal :=
  let x := s.linkEnd link at1
  let y := if peerReset then { x with waiting := false, expect := some seq.val, toDrop := count.val }
    else { x with waiting := false, toDrop := 0 }
  .next (if s.linkUp link then (s.setLinkEnd link at1 y).linkReplayed link else s)

/-- ACK_TIMER (R363): 100 ns have passed since a data group not yet acknowledged. -/
def execAckTimer (link : Fin 131) (at1 : Bool) (s : State) : Host.Outcome State Fault Refusal :=
  .next (if s.linkUp link && 0 < (s.linkEnd link at1).unacked then s.linkAck link at1 else s)

/-- ACK_TIMEOUT (R367): unacknowledged groups and no ACK or NAK for 2 µs. -/
def execAckTimeout (link : Fin 131) (at1 : Bool) (s : State) : Host.Outcome State Fault Refusal :=
  .next (if s.linkUp link && !(s.linkEnd link at1).buf.isEmpty then s.linkRetrain link 1 else s)

/-- STROBE_LOSS (R368): neither strobe of the peer for 100 ns. -/
def execStrobeLoss (link : Fin 131) (at1 : Bool) (s : State) : Host.Outcome State Fault Refusal :=
  .next (if linkExists link && s.fld (LNK_STAT_STATE link) ≠ 6 then
    (s.setLinkEnd link at1 { s.linkEnd link at1 with naks := (0, 0) }).linkRetrain link 0 else s)

/-! ### Training (R369-R373, R383-R385) -/

/-- Change what a link holds besides LNK_STAT. -/
def State.setLinkMap (s : State) (n : Nat) (m : LinkMap) : State :=
  { s with links := { s.links with maps := mapSet s.links.maps LinkMap.zero n m } }

/-- What a link holds besides LNK_STAT. -/
def State.linkMap (s : State) (n : Nat) : LinkMap := mapGet s.links.maps LinkMap.zero n

/-- Usable lanes from end 0 to end 1 and back as an end sees them, from its own marks and those it received (R371). -/
def usable (own seen : LaneMarks) (is0 : Bool) : BitVec 68 × BitVec 68 :=
  if is0 then (own.tx &&& seen.rx, seen.tx &&& own.rx) else (seen.tx &&& own.rx, own.tx &&& seen.rx)

/-- CONFIRM's hash of the two usable sets (R372). -/
def laneHash (u : BitVec 68 × BitVec 68) : Word :=
  crc32c 0xFFFFFFFF#32 (bytesOf (u.1.setWidth 72) 9 ++ bytesOf (u.2.setWidth 72) 9)

/-- How many lanes a set holds. -/
def laneCount (u : BitVec 68) : Nat := (List.range 68).countP (fun i => u.getLsbD i)

/-- How many of the `w` lowest lanes of a set are repair lanes (R355, R373). -/
def sparesUsed (u : BitVec 68) (w : Nat) : Nat :=
  (((List.range 68).filter (fun i => u.getLsbD i)).take w).countP (fun i => decide (64 ≤ i))

/-- The rates the fabric of a link offers at end 0 (R383). -/
def hubOffer : LinkOffer := ⟨7, 7, true, 15, 2, 1, 0⟩

/-- The highest value a mask holds, as its index plus one; 0 for none. -/
def topBit (m : BitVec 3) : Nat := if m.getLsbD 2 then 3 else if m.getLsbD 1 then 2 else if m.getLsbD 0 then 1 else 0

/-- A link enters DOWN (R369, R382): its ring goes DOWN, or its X die is fenced. -/
def State.linkDown (s : State) (n rsn : Nat) : State :=
  let s1 := ((s.setFld (LNK_STAT_STATE n) 6).setFld (LNK_STAT_WIDTH n) 0).setFld (LNK_STAT_RSN n) rsn
  let s2 := (s1.linkErr n (LNK_ERR_LINK_DOWN n) sevUncorrected).linkFollow n
  if s.bit (LNK_STAT_IN_RING n) then (linkRings n).foldl (fun t r => t.ringDown r) s2 else s2

/-- STROBES_SEEN (R369): both peer strobes toggle in DETECT. -/
def execStrobesSeen (link : Fin 131) (s : State) : Host.Outcome State Fault Refusal :=
  .next (if linkExists link && s.fld (LNK_STAT_STATE link) = 0 then s.setFld (LNK_STAT_STATE link) 1 else s)

/-- The lanes a strobe clocks (R355). -/
def strobeLanes (i : Nat) : BitVec 68 := if i = 0 then 0x3FFFFFFFF#68 else 0x3FFFFFFFF#68 <<< 34

/-- Receive marks of a direction with the lanes of its silent strobes marked bad (R370). -/
def rxMarks (rx : BitVec 68) (s0 s1 : Bool) : BitVec 68 :=
  rx &&& ~~~((if s0 then strobeLanes 0 else 0) ||| (if s1 then strobeLanes 1 else 0))

/-- CALIBRATE (R369, R370): the marks of both ends are complete; `silent` names the silent strobes of both directions. -/
def execCalibrate (link : Fin 131) (end0 end1 : LaneMarks) (silent : BitVec 4) (s : State) : Host.Outcome State Fault Refusal :=
  let e0 := { end0 with rx := rxMarks end0.rx (silent.getLsbD 2) (silent.getLsbD 3) }
  let e1 := { end1 with rx := rxMarks end1.rx (silent.getLsbD 0) (silent.getLsbD 1) }
  .next (if s.fld (LNK_STAT_STATE link) = 1 then
    (s.setLinkMap link { s.linkMap link with end0 := e0, end1 := e1, silent := silent }).setFld (LNK_STAT_STATE link) 2 else s)

/-- What end 1 of a link offers: a QL48 die runs at W64 and 16 Gb/s, a third-party die offers what it does (R355, R383). -/
def offerOf (n : Nat) (offer : LinkOffer) : LinkOffer := if n < 129 then ⟨4, 4, true, 15, 2, 1, 1⟩ else offer

/-- MAP (R369, R371, R383, R384): end 0 has received `at0` and end 1 `at1`, and end 1 offers `offer`; a die declares 1 to 16 stops. -/
def execMap (link : Fin 131) (at0 at1 : LaneMarks) (offer : LinkOffer) (s : State) : Host.Outcome State Fault Refusal :=
  let n := link.val
  let o := offerOf n offer
  let w := topBit (o.widths &&& hubOffer.widths)
  let r := topBit (o.rates &&& hubOffer.rates)
  .next (if s.fld (LNK_STAT_STATE n) ≠ 2 then s
    else if w = 0 ∨ r = 0 ∨ o.major ≠ 2 then s.linkDown n 5
    else
      let m := s.linkMap n
      let rev := 0x20 + min o.minor hubOffer.minor
      let m1 := { m with seen0 := at0, seen1 := at1, width := w, rate := r - 1 }
      let m2 := { m1 with repair := o.repair, feats := o.feats &&& hubOffer.feats, rev := rev, stops := max 1 (min 16 o.stops) }
      (((s.setLinkMap n m2).setFld (LNK_STAT_RATE n) (r - 1)).setFld
          (LNK_STAT_IFACE_REV n) rev).setFld (LNK_STAT_STATE n) 3)

/-- The words of LNK_MAP (R401). -/
def State.putLaneMap (s : State) (n : Nat) (u : BitVec 68 × BitVec 68) : State :=
  (List.range 3).foldl (fun t k =>
    (t.setCsr (LNK_MAP n k) ((u.1 >>> (32 * k)).setWidth 32)).setCsr (LNK_MAP n (3 + k)) ((u.2 >>> (32 * k)).setWidth 32)) s

/-- A link comes into service with a width (R369, R375, R376, R379). -/
def State.linkInService (s : State) (n state width rsn spares : Nat) : State :=
  let m := s.linkMap n
  let s1 := (((s.setFld (LNK_STAT_STATE n) state).setFld (LNK_STAT_WIDTH n) width).setFld (LNK_STAT_RSN n) rsn).setFld
    (LNK_STAT_SPARES_USED n) spares
  let s2 := if m.trained then s1.linkErr n (LNK_ERR_RETRAIN n) sevCorrected else s1
  let s3 := s2.setLinkMap n { m with trained := true, wasDegraded := false }
  let s4 := if state = 5 then s3.linkErr n (LNK_ERR_LINK_DEGRADED n) sevUncorrected else s3
  let s5 := if state = 5 && !m.wasDegraded then s4.setFld (LNK_STAT_ATTEMPTS n) 0 else s4
  let go (t : State) (e : Bool) : State :=
    let x := t.linkEnd n e
    let t1 := t.setLinkEnd n e { x with peerReset := false, naks := (0, 0), old := if x.peerReset then x.buf.length else x.old }
    if x.buf.isEmpty then t1.sendGroup n e (controlGroup 0 0 0 false) else t1.linkReplay n e
  (go (go s5 false) true).linkFollow n

/-- The lanes that may be used without negotiated repair lanes (R384). -/
def noSpares (u : BitVec 68 × BitVec 68) : BitVec 68 × BitVec 68 := (u.1 &&& 0xFFFFFFFFFFFFFFFF#68, u.2 &&& 0xFFFFFFFFFFFFFFFF#68)

/-- CONFIRM (R369, R372, R373, R375, R384): the hashes are compared. The link runs at most at the width negotiated in MAP (log entry
95). -/
def execConfirm (link : Fin 131) (s : State) : Host.Outcome State Fault Refusal :=
  let n := link.val
  let m := s.linkMap n
  let h := usable m.end0 m.seen0 true
  let h' := usable m.end1 m.seen1 false
  let u := (if m.repair then h else noSpares h)
  let s1 := s.putLaneMap n h
  let c := min (laneCount u.1) (laneCount u.2)
  let used (w : Nat) : Nat := max (sparesUsed u.1 (widthLanes w)) (sparesUsed u.2 (widthLanes w))
  .next (if s.fld (LNK_STAT_STATE n) ≠ 3 then s
    else if laneHash h ≠ laneHash h' then
      if m.silent.getLsbD 0 || m.silent.getLsbD 2 then s1.linkDown n 4 else s1.linkInService n 5 (min 2 m.width) 2 0
    else if c < 32 then s1.linkDown n 4
    else if c < 64 then s1.linkInService n 5 (min 2 m.width) 1 (used (min 2 m.width))
    else s1.linkInService n 4 m.width 0 (used m.width))

/-- PEER_ABSENT (R369): the peer has been absent for 100 ms in DETECT, or the X site reports ABSENT. -/
def execPeerAbsent (link : Fin 131) (s : State) : Host.Outcome State Fault Refusal :=
  let x := link.val = 129 && s.fld (HUB_SITE_STAT_STATE 0 8) = 6
  .next (if linkExists link && s.fld (LNK_STAT_STATE link) = 0 then
    s.linkDown link (if x || (link.val = 130 && s.fld (HUB_SITE_STAT_STATE 0 56) = 6) then 6 else 3) else s)

/-- A reset of an end (R354, R369, R377, R379, R381): its own buffer is lost, its peer will replay behind PEER_RESET. -/
def State.linkEndReset (s : State) (n : Nat) (e : Bool) : State :=
  let o := s.linkEnd n (!e)
  let s1 := (s.loseBuffer n e).setLinkEnd n (!e) { o with peerReset := true }
  let s2 := s1.setLinkMap n { s1.linkMap n with wasDegraded := false }
  (((s2.setFld (LNK_STAT_STATE n) 0).setFld (LNK_STAT_WIDTH n) 0).setFld (LNK_STAT_ATTEMPTS n) 0).linkFollow n

/-- PEER_SIDE_RESET (R369, R377, R381): the third-party die of a hub resets its side of the X link. -/
def execPeerSideReset (hub : Fin 2) (s : State) : Host.Outcome State Fault Refusal := .next (s.linkEndReset (129 + hub) true)

/-- RETRAIN_ATTEMPT (R376): a scheduled attempt of a link in DEGRADED. -/
def execRetrainAttempt (link : Fin 131) (s : State) : Host.Outcome State Fault Refusal :=
  .next (if s.fld (LNK_STAT_STATE link) = 5 && s.fld (LNK_STAT_ATTEMPTS link) < 3 then
    (s.setFld (LNK_STAT_ATTEMPTS link) (s.fld (LNK_STAT_ATTEMPTS link) + 1)).linkRetrain link 1 else s)

/-- A write of RETRAIN by Level S (R376-R378, R401). -/
def State.linkCtlWrite (s : State) (n : Nat) (value : Word) : State × Status :=
  if !linkExists n then (s, .errTarget)
  else if !value.getLsbD 0 then (s, .ok)
  else if s.fld (LNK_STAT_STATE n) = 4 then (s.linkRetrain n 1, .ok)
  else if s.fld (LNK_STAT_STATE n) = 5 then
    if s.fld (LNK_STAT_ATTEMPTS n) < 3 then
      ((s.setFld (LNK_STAT_ATTEMPTS n) (s.fld (LNK_STAT_ATTEMPTS n) + 1)).linkRetrain n 1, .ok)
    else (s.setFld (LNK_ERR_RETRAIN_REFUSED n) 1, .ok)
  else (s, .ok)

/-- RETRAIN (R376-R378). -/
def execRetrain (mid : BitVec 12) (link : Fin 131) (s : State) : Host.Outcome State Fault Refusal :=
  .next (s.regWrite (LNK_CTL link) fun s => if s.levelS mid.toNat then s.linkCtlWrite link 1 else (s, .errDenied))

end Sys2Proof.Machine
end

