-- ==== Sys2Proof/Machine/Firewall.lean ====
section
/-! DEFINITION. The hub firewalls (R387-R400, R405-R411), and the meanings of their commands. -/

namespace Sys2Proof.Machine

open Sys2Proof

/-! ### Registers -/

/-- FWL_STAT (R407). -/
def State.fwlStat (s : State) (h : Nat) : Word :=
  let f := s.fwall h
  let up := s.xLinkUp h
  BitVec.ofNat 32 ((s.bit (FWL_CTL_FENCE h) || !up).toNat + 2 * up.toNat + 4 * (f.outs.length % 8192) + 2 ^ 15 * (f.ins.length % 8192))

/-- Set a flag of FWL_ERR and report it (R408, R987). -/
def State.fwlErr (s : State) (h : Nat) (f : Fld) : State :=
  s.raise f h 0x04 (h * 2048) 0 sevUncorrected (s.csr64 (FWL_ERR_ADDR h)) (s.csr (FWL_ERR_INFO h))

/-- FENCE is set or the X link is not usable (R393, R407). -/
def State.fwlFenced (s : State) (h : Nat) : Bool := s.bit (FWL_CTL_FENCE h) || !s.xLinkUp h

/-- A write of FWL_CTL by Level S (R393, R396, R406). -/
def State.fwlCtlWrite (s : State) (h : Nat) (value : Word) : State :=
  let fence := s.bit (FWL_CTL_FENCE h)
  let want := value.getLsbD 1
  let s1 := ((s.setFld (FWL_CTL_OUT_EN h) (bitsOf value 0 1)).setFld (FWL_CTL_AUTO_FENCE h) (bitsOf value 2 1))
  if want && !fence then (s1.setFld (FWL_CTL_FENCE h) 1).fenceOut h
  else if !want && fence && s.xLinkUp h then s1.setFld (FWL_CTL_FENCE h) 0
  else s1

/-- Window size in bytes (R410). -/
def windowSize (cfg : Word) : Nat := 2 ^ (min (max (bitsOf cfg 0 6) 12) 40)

/-- Window base (R405). -/
def State.windowBase (s : State) (h w : Nat) : Nat := bitsOf (s.csr64 (FWL_WIN_BASE h w)) 12 36 * 4096

/-- A range meets a CSR space of R4 somewhere outside the die's attached-die block (R399). -/
def overCsr (h lo hi : Nat) : Bool :=
  let b := 0x00F000000000 + h * 0x01000000 + 0x00130000
  [(0x00F000000000, 0x00F002000000), (0x00F100000000, 0x00F103000000), (0x00F200000000, 0x00F204000000)].any fun r =>
    let a := max lo r.1
    let z := min hi r.2
    a < z && !(b ≤ a && z ≤ b + 0x10000)

/-- A write of FWL_WIN_CFG by Level S (R399, R410). -/
def State.fwlWinWrite (s : State) (h w : Nat) (value : Word) : State :=
  let v := value &&& 0x0FFF0FFF#32
  let base := s.windowBase h w
  let size := windowSize v
  if v.getLsbD 11 && (overCsr h base (base + size) || base % size ≠ 0) then
    (s.setCsr (FWL_WIN_CFG h w) (v &&& ~~~0x800#32)).setFld (FWL_ERR_BAD_WINDOW h) 1
  else s.setCsr (FWL_WIN_CFG h w) v

/-! ### Inbound requests (R388-R392) -/

/-- Flits of a request, command flit included (R391). -/
def xFlits (x : XReq) : Nat := 1 + x.data.length

/-- OPC and length valid: a defined operation, an atomic of 4 or 8 bytes, and the data flits the operation carries (R294, R296). -/
def opLenOk (opc lenm1 flits : Nat) : Bool :=
  let len := lenm1 + 1
  match opc with
  | 0 => flits == 0
  | 1 | 5 => if len ≤ 8 then flits == 0 else flits == (len + 31) / 32
  | 2 | 3 => (len == 4 || len == 8) && flits == 0
  | 4 => (len == 4 || len == 8) && flits == 1
  | _ => false

/-- The window of a request: the lowest-numbered enabled one that holds its whole range (R389). The windows of a site that holds no
die deny every access (R2). -/
def State.fwlWindow (s : State) (h : Nat) (x : XReq) : Option Nat :=
  let a := x.addr.toNat
  if s.fld (HUB_SITE_STAT_STATE 0 (8 + 48 * h)) = 6 then none else
  (List.range 64).find? fun w =>
    s.bit (FWL_WIN_CFG_EN h w) && s.windowBase h w ≤ a &&
      a + x.lenm1.toNat + 1 ≤ s.windowBase h w + windowSize (s.csr (FWL_WIN_CFG h w))

/-- The window's RIGHTS allow the operation (R389). -/
def rightsAllow (rights opc : Nat) : Bool :=
  match opc with
  | 0 => rights % 2 == 1
  | 1 | 5 => 2 ≤ rights
  | _ => rights == 3

/-- RATE as it acts (R391). -/
def rateOf (cfg : Word) : Nat :=
  let r := bitsOf cfg 16 12
  if r = 0 then 0 else max r 9

/-- The first check of R389 that a request fails, with the window it matched; 6 stands for the rate bucket, 0 for none. `behind`
says whether an earlier request waits for the same window (R392). -/
def State.fwlCheck (s : State) (h : Nat) (x : XReq) (behind : Nat → Bool) : Nat × Nat :=
  if s.bit (FWL_CTL_FENCE h) then (1, 0x3F)
  else if x.type ≠ 1 || !opLenOk x.opc.toNat x.lenm1.toNat x.data.length || (s.linkMap (129 + h)).stops ≤ x.j.toNat then (2, 0x3F)
  else match s.fwlWindow h x with
    | none => (3, 0x3F)
    | some w =>
      let cfg := s.csr (FWL_WIN_CFG h w)
      if !rightsAllow (bitsOf cfg 6 2) x.opc.toNat then (4, w)
      else if 3 ≤ x.cls.toNat || !cfg.getLsbD (8 + x.cls.toNat) then (5, w)
      else if rateOf cfg ≠ 0 && (behind w || mapGet (s.fwall h).buckets 0 w < xFlits x) then (6, w)
      else (0, w)

/-- Set FENCE and AUTO_FENCED where AUTO_FENCE asks for it (R395). -/
def State.autoFence (s : State) (h : Nat) : State :=
  if s.bit (FWL_CTL_AUTO_FENCE h) then ((s.setFld (FWL_CTL_FENCE h) 1).fwlErr h (FWL_ERR_AUTO_FENCED h)).fenceOut h else s

/-- Refuse an inbound request (R390). -/
def State.fwlRefuse (s : State) (h : Nat) (x : XReq) (check w : Nat) : State :=
  let st : Status := if check = 1 then .errFenced else if check = 2 then .errTarget else .errDenied
  let info := w + check * 2 ^ 6 + x.opc.toNat * 2 ^ 9 + x.cls.toNat * 2 ^ 12 + x.mid.toNat * 2 ^ 14 + x.j.toNat * 2 ^ 22 + 2 ^ 26
  let s1 := ((s.setCsr64 (FWL_ERR_ADDR h) (x.addr.setWidth 64)).setCsr (FWL_ERR_INFO h) (BitVec.ofNat 32 info)).satInc (FWL_CNT_DENY h)
  let s2 := s1.send (.xCompletion h x.j x.tag st .none false 0 [])
  if check = 1 then s2
  else if check = 2 then (s2.fwlErr h (FWL_ERR_BAD_PKT h)).autoFence h
  else s2.fwlErr h (FWL_ERR_DENIED h)

/-- The traffic class a code names (R290). -/
def classOf (n : Nat) : TClass := match n with | 0 => .g | 1 => .p | _ => .b

/-- Forward an admitted request, stamped (R388, R391). -/
def State.fwlForward (s : State) (h w tag : Nat) (x : XReq) : State :=
  let b := mapGet (s.fwall h).buckets 0 w
  let s1 := s.setCsr (FWL_WIN_USE h w) (s.csr (FWL_WIN_USE h w) + BitVec.ofNat 32 (xFlits x))
  let s2 := if rateOf (s.csr (FWL_WIN_CFG h w)) = 0 then s1
    else s1.setFwall h { s1.fwall h with buckets := mapSet (s1.fwall h).buckets 0 w (b - xFlits x) }
  s2.issue { stop := BitVec.ofNat 9 (480 + 16 * h + x.j.toNat), tag := BitVec.ofNat 13 tag,
             mid := BitVec.ofNat 12 ((0xE + h) * 256 + x.mid.toNat), cls := classOf x.cls.toNat, opc := x.opc, addr := x.addr,
             lenm1 := x.lenm1, dbg := false, imm := x.imm, poison := x.poison, data := x.data }

/-- Check one inbound request that holds `tag` and admit, hold or refuse it (R389-R392). -/
def State.fwlAdmit (s : State) (h tag : Nat) (x : XReq) (behind : Nat → Bool) : State :=
  let rest (t : State) := (t.fwall h).ins.filter (fun i => !(i.tag = tag && i.x.j = x.j))
  let put (t : State) (held : Bool) : State := t.setFwall h { t.fwall h with ins := rest t ++ [⟨tag, x, held⟩] }
  match s.fwlCheck h x behind with
  | (0, w) => (put s false).fwlForward h w tag x
  | (6, _) => (put s true).fwlErr h (FWL_ERR_RATE_HELD h)
  | (k, w) => (s.setFwall h { s.fwall h with ins := rest s }).fwlRefuse h x k w

/-- FWL_INBOUND_REQUEST (R388-R392): a request of the third-party die arrives, and the firewall port allocates `tag`. -/
def execFwlInboundRequest (hub : Fin 2) (tag : BitVec 13) (x : XReq) (s : State) : Host.Outcome State Fault Refusal :=
  let f := s.fwall hub
  .next (if f.ins.any (fun i => i.tag = tag.toNat && i.x.j = x.j) || !s.xLinkUp hub then s
    else s.fwlAdmit hub tag.toNat x (fun w => f.ins.any fun i => i.held && s.fwlWindow hub i.x = some w))

/-- Held requests leave in arrival order while their bucket allows (R392): each is checked again from check 1, and the first that
must still wait holds those behind it. -/
def State.fwlDrain (s : State) (h : Nat) : List FwlIn → State
  | [] => s
  | i :: is =>
    if (s.fwlCheck h i.x (fun _ => false)).1 = 6 then s
    else (s.fwlAdmit h i.tag i.x (fun _ => false)).fwlDrain h is

/-- FWL_RATE_TICK (R391, R392): a 1 µs tick of the hub reference clock. -/
def execFwlRateTick (hub : Fin 2) (s : State) : Host.Outcome State Fault Refusal :=
  let f := s.fwall hub
  let b := (List.range 64).foldl (fun m w =>
    let r := rateOf (s.csr (FWL_WIN_CFG hub w))
    mapSet m 0 w (min r (mapGet m 0 w + r))) f.buckets
  .next ((s.setFwall hub { f with buckets := b }).fwlDrain hub (f.ins.filter (fun i => i.held)))

/-! ### Outbound requests (R387, R393, R394, R398) -/

/-- A request that crosses a 4 KiB boundary, has a reserved OPC, or is an atomic that is not 4 or 8 bytes, naturally aligned (R298). -/
def reqBad (p : ReqPkt) : Bool :=
  4096 < p.addr.toNat % 4096 + reqLen p || 6 ≤ p.opc.toNat ||
    ((2 ≤ p.opc.toNat && p.opc.toNat ≤ 4) && !((reqLen p == 4 || reqLen p == 8) && p.addr.toNat % reqLen p == 0))

/-- The lowest tag a firewall has free towards the third-party die. -/
def State.freeXtag (s : State) (h : Nat) : Option Nat :=
  lowestFree 8192 (s.fwall h).outs.length fun t => !(s.fwall h).outs.any fun o => o.xtag = t

/-- A request that reached the firewall port goes to the die or completes (R298, R387, R393, R398). -/
def State.fwlOutbound (s : State) (h xtag : Nat) (p : ReqPkt) : State :=
  let stop := hubStop h 14
  let feats := (s.linkMap (129 + h)).feats
  if !s.bit (FWL_CTL_OUT_EN h) then s.reply stop p .errDenied
  else if s.fwlFenced h then s.reply stop p .errFenced
  else if reqBad p || (if p.opc = 5 then !feats.getLsbD 2 else !feats.getLsbD 1) then s.reply stop p .errTarget
  else (s.setFwall h { s.fwall h with outs := (s.fwall h).outs ++ [⟨xtag, p⟩] }).send (.xRequest h xtag p)

/-- The next request held at the firewall port takes a tag that has come free (R316). -/
def State.fwlNext (s : State) (h : Nat) : State :=
  match (s.fwall h).queue, s.freeXtag h with
  | p :: ps, some t => (s.setFwall h { s.fwall h with queue := ps }).fwlOutbound h t p
  | _, _ => s

/-- FWL_INBOUND_COMPLETION (R388, R393-R395): the third-party die returns a completion from its stop `j`. -/
def execFwlInboundCompletion (hub : Fin 2) (x : XCpl) (s : State) : Host.Outcome State Fault Refusal :=
  let f := s.fwall hub
  let st : Option Status := match x.status.toNat with
    | 0 => some .ok | 1 => some .poison | 2 => some .errTarget | 3 => some .errTimeout | 4 => some .errFenced
    | 5 => some .errDenied | _ => none
  .next (if s.fwlFenced hub then s
    else match f.outs.find? (fun o => o.xtag = x.tag.toNat), st with
      | some o, some st =>
        State.fwlNext ((s.setFwall hub { f with outs := f.outs.filter (fun k => k ≠ o) }).reply (480 + 16 * hub.val + x.j.toNat)
          { o.pkt with late := o.pkt.late || x.late } st (rsnOf x.rsn.toNat) false
          (if 2 ≤ statusCode st ∨ o.pkt.opc = 1 ∨ o.pkt.opc = 5 then [] else x.bytes.take (reqLen o.pkt))) hub
      | _, _ => (s.fwlErr hub (FWL_ERR_FORGED_CPL hub)).autoFence hub)

/-- A request that the firewall port has accepted: it goes on with a tag that is free, or is held (R316). -/
def State.fwlTake (s : State) (h : Nat) (xtag : Option Nat) (p : ReqPkt) : State :=
  match xtag with
  | some t => s.fwlOutbound h t p
  | none => if !s.bit (FWL_CTL_OUT_EN h) || s.fwlFenced h then s.fwlOutbound h 0 p
    else s.setFwall h { s.fwall h with queue := (s.fwall h).queue ++ [p] }

/-- FWL_OUTBOUND_REQUEST (R398): a request packet arrives at the firewall port, which gives it `xtag` towards the die. -/
def execFwlOutboundRequest (hub : Fin 2) (xtag : BitVec 13) (p : ReqPkt) (s : State) : Host.Outcome State Fault Refusal :=
  .next (match s.arrive (hubStop hub 14) p with
    | (some q, t) => t.fwlTake hub (if (s.fwall hub).outs.any (fun o => o.xtag = xtag.toNat) then s.freeXtag hub else some xtag.toNat) q
    | (none, t) => t)

/-- FENCE (R393, R396): a write of FWL_CTL. -/
def execFence (mid : BitVec 12) (hub : Fin 2) (value : Word) (s : State) : Host.Outcome State Fault Refusal :=
  .next (levelSWrite s mid (FWL_CTL hub) fun s => s.fwlCtlWrite hub value)

/-- BAD_WINDOW (R399): a write of FWL_WIN_CFG. -/
def execBadWindow (mid : BitVec 12) (hub : Fin 2) (window : Fin 64) (value : Word) (s : State) : Host.Outcome State Fault Refusal :=
  .next (levelSWrite s mid (FWL_WIN_CFG hub window) fun s => s.fwlWinWrite hub window value)

end Sys2Proof.Machine
end

