-- ==== Sys2Proof/Machine/LineCode.lean ====
section
/-! DEFINITION. The codes of a DDR5 line and of a stacked SRAM line: the strong Reed-Solomon code and the light code
(R423-R432, R494). -/

namespace Sys2Proof.Machine

open Sys2Proof

/-! ### GF(2^16) (R425) -/

abbrev Gf := BitVec 16

/-- Multiply by α. -/
def gfAlpha (a : Gf) : Gf := (a <<< 1) ^^^ (if a.getLsbD 15 then 0x100B#16 else 0)

/-- Multiply, with field polynomial x^16 + x^12 + x^3 + x + 1. -/
def gfMul (a b : Gf) : Gf :=
  (List.range 16).foldl (fun acc i => gfAlpha acc ^^^ (if b.getLsbD (15 - i) then a else 0)) 0

/-- α to the power `n`. -/
def gfPow : Nat → Gf
  | 0 => 1
  | n + 1 => gfAlpha (gfPow n)

/-- The inverse of α to the power `n`. -/
def gfPowInv : Nat → Gf
  | 0 => 1
  | n + 1 => gfMul 0x8805#16 (gfPowInv n)

/-- Multiply a polynomial, lowest coefficient first, by x + `a`. -/
def gfTimesRoot (a : Gf) (g : List Gf) : List Gf :=
  List.zipWith (· ^^^ ·) (g.map (gfMul a) ++ [0]) (0 :: g)

/-- The generator g(x), lowest coefficient first; its leading coefficient is 1 (R425). -/
def rsGenerator : List Gf := (List.range 8).foldl (fun g i => gfTimesRoot (gfPow i) g) [1]

/-- One data symbol, highest first, into the division by g(x): `r` is the remainder, lowest coefficient first. -/
def rsStep (g r : List Gf) (d : Gf) : List Gf :=
  let fb := d ^^^ r.getLastD 0
  List.zipWith (fun a b => a ^^^ gfMul fb b) (0 :: r.dropLast) g

/-- The check symbols 32 to 39 of data symbols 0 to 31 (R426). -/
def rsCheck (data : List Gf) : List Gf := data.reverse.foldl (rsStep (rsGenerator.take 8)) (List.replicate 8 0)

/-- The codeword polynomial at α^i, its coefficients lowest first. -/
def rsEval (cw : List Gf) (i : Nat) : Gf := cw.foldr (fun c acc => gfMul acc (gfPow i) ^^^ c) 0

/-! ### The burst (R423, R426): beat b in bits [40b + 39 : 40b], lane l of a beat in its bit l -/

abbrev Burst := BitVec 640

/-- Symbol `s` of a burst. -/
def burstSym (b : Burst) (s : Nat) : Gf :=
  let nib (j : Nat) : BitVec 4 := b.extractLsb' (40 * (4 * (s % 4) + j) + 4 * (s / 4)) 4
  nib 3 ++ nib 2 ++ nib 1 ++ nib 0

/-- Exclusive-or a symbol into a burst. -/
def burstXorSym (b : Burst) (s : Nat) (v : Gf) : Burst :=
  (List.range 4).foldl (fun b j =>
    b ^^^ ((v.extractLsb' (4 * j) 4).setWidth 640 <<< (40 * (4 * (s % 4) + j) + 4 * (s / 4)))) b

/-- The line on DQ. -/
def burstLine (b : Burst) : Line :=
  (List.range 16).foldl (fun l i => l ||| ((b.extractLsb' (40 * i) 32).setWidth 512 <<< (32 * i))) 0

/-- The burst that carries a line on DQ, with CB at 0. -/
def lineBurst (l : Line) : Burst :=
  (List.range 16).foldl (fun b i => b ||| ((l.extractLsb' (32 * i) 32).setWidth 640 <<< (40 * i))) 0

/-- The byte on CB in a beat. -/
def burstCb (b : Burst) (beat : Nat) : Byte := b.extractLsb' (40 * beat + 32) 8

/-- Put a byte on CB in a beat whose CB is 0. -/
def burstPutCb (b : Burst) (beat : Nat) (v : Byte) : Burst := b ||| (v.setWidth 640 <<< (40 * beat + 32))

/-! ### Reasons and results -/

/-- A stored poison pattern (R428, R432). -/
inductive Pattern where
  | source | memUe
  deriving DecidableEq, Repr

/-- The poison reason a pattern gives (R427, R432). -/
def Pattern.reason : Pattern → PoisonRsn
  | .source => .source
  | .memUe => .memUe

/-- How a decoder classifies a line (R427, R431). -/
inductive LineKind where
  | clean
  /-- corrected; the device, where the strong code names one -/
  | corrected (device : Option Nat)
  | poisoned (p : Pattern)
  | uncorrectable
  deriving DecidableEq, Repr

/-- A decoded line with the MAC it carries under the light code. -/
structure LineOut where
  kind : LineKind
  data : Line
  mac  : DWord
  deriving DecidableEq, Repr

/-! ### Strong code -/

/-- The symbols of a burst in codeword order, lowest power first (R426). -/
def burstCode (b : Burst) : List Gf := (List.range 8).map (fun k => burstSym b (32 + k)) ++ (List.range 32).map (burstSym b)

/-- The eight syndromes of a burst. -/
def burstSynd (b : Burst) : List Gf := (List.range 8).map (rsEval (burstCode b))

/-- Exclusive-or the same value into every check symbol. -/
def xorChecks (b : Burst) (v : Gf) : Burst := (List.range 8).foldl (fun b k => burstXorSym b (32 + k) v) b

/-- The value a poison pattern puts on each check symbol (R428). -/
def Pattern.mask : Pattern → Gf
  | .source => 0x3C3C#16
  | .memUe => 0xC3C3#16

/-- A line in the strong code (R425, R426). -/
def strongEncode (l : Line) : Burst :=
  let b := lineBurst l
  let cs := rsCheck ((List.range 32).map (burstSym b))
  (List.range 8).foldl (fun b k => burstXorSym b (32 + k) (cs.getD k 0)) b

/-- A line in the strong code with a poison pattern (R428). -/
def strongPoison (l : Line) (p : Pattern) : Burst := xorChecks (strongEncode l) p.mask

/-- The inverse of the matrix whose entry in row i and column j is α^(i·j), i and j from 0 to 3. -/
def devInverse : List (List Gf) :=
  [[0xf6dc#16, 0xd007#16, 0x7003#16, 0x56d9#16], [0xd007#16, 0x1000#16, 0xec06#16, 0x2c01#16],
   [0x7003#16, 0xec06#16, 0x0200#16, 0x9e05#16], [0x56d9#16, 0x2c01#16, 0x9e05#16, 0xe4dd#16]]

/-- The four symbol errors of device `d` that explain the syndromes, if there are such (R427 row 4). -/
def deviceErrors (synd : List Gf) (d : Nat) : Option (List Gf) :=
  let base := if d < 8 then 4 * d + 8 else 4 * (d - 8)
  let t := (List.range 8).map (fun i => gfMul (synd.getD i 0) (gfPowInv (base * i)))
  let e := devInverse.map (fun row => (List.zipWith gfMul row t).foldl (· ^^^ ·) 0)
  let back (i : Nat) := ((List.range 4).map (fun j => gfMul (e.getD j 0) (gfPow (i * j)))).foldl (· ^^^ ·) 0
  if (List.range 8).all (fun i => back i = t.getD i 0) then some e else none

/-- Look for a device that explains the syndromes. -/
def findDevice (synd : List Gf) : List Nat → Option (Nat × List Gf)
  | [] => none
  | d :: ds => match deviceErrors synd d with
    | some e => some (d, e)
    | none => findDevice synd ds

/-- Decode a line in the strong code (R427). -/
def strongDecode (b : Burst) : LineOut :=
  let zero (b : Burst) := (burstSynd b).all (· = 0)
  if zero b then ⟨.clean, burstLine b, 0⟩
  else if zero (xorChecks b Pattern.source.mask) then ⟨.poisoned .source, burstLine b, 0⟩
  else if zero (xorChecks b Pattern.memUe.mask) then ⟨.poisoned .memUe, burstLine b, 0⟩
  else match findDevice (burstSynd b) (List.range 10) with
    | some (d, e) =>
      let b' := (List.range 4).foldl (fun b k => burstXorSym b (4 * d + k) (e.getD k 0)) b
      ⟨.corrected (some d), burstLine b', 0⟩
    | none => ⟨.uncorrectable, burstLine b, 0⟩

/-! ### Light code -/

/-- Word `w` of a line (R429). -/
def lineWord (l : Line) (w : Nat) : DWord := l.extractLsb' (64 * w) 64

/-- A line in the light code with its MAC (R429, R430). -/
def lightEncode (l : Line) (mac : DWord) : Burst :=
  (List.range 8).foldl (fun b w =>
    burstPutCb (burstPutCb b (2 * w) (Config.groupCheck (lineWord l w))) (2 * w + 1) (byteOf mac w)) (lineBurst l)

/-- The reason a poisoned light line stores (R432). -/
def Pattern.macByte : Pattern → DWord
  | .memUe => 1
  | .source => 3

/-- A poisoned light line: check bytes inverted, the reason in MAC byte 0 (R432). -/
def lightPoison (l : Line) (p : Pattern) : Burst :=
  (List.range 8).foldl (fun b w =>
    burstPutCb (burstPutCb b (2 * w) (~~~ Config.groupCheck (lineWord l w))) (2 * w + 1) (byteOf p.macByte w)) (lineBurst l)

/-- What the light decoder finds in a word: clean or corrected data, or uncorrectable (R431). A single wrong bit is one of
the 64 data bits or one of the 8 check bits. -/
def lightWord (d : DWord) (c : Byte) : Option (DWord × Bool) :=
  let syn (d : DWord) := Config.groupCheck d ^^^ c
  if syn d = 0 then some (d, false)
  else match (List.range 64).find? (fun i => syn (d ^^^ BitVec.twoPow 64 i) = 0) with
    | some i => some (d ^^^ BitVec.twoPow 64 i, true)
    | none => if (List.range 8).any (fun i => syn d = BitVec.twoPow 8 i) then some (d, true) else none

/-- Decode a line in the light code (R431, R432). -/
def lightDecode (b : Burst) : LineOut :=
  let l := burstLine b
  let mac := (List.range 8).foldl (fun m w => m ||| ((burstCb b (2 * w + 1)).setWidth 64 <<< (8 * w))) (0 : DWord)
  if (List.range 8).all (fun w => Config.groupCheck (lineWord l w) ^^^ burstCb b (2 * w) = 0xFF#8) then
    ⟨.poisoned (if mac.setWidth 8 = 3#8 then .source else .memUe), l, mac⟩
  else
    let ws := (List.range 8).map (fun w => lightWord (lineWord l w) (burstCb b (2 * w)))
    if ws.any (·.isNone) then ⟨.uncorrectable, l, mac⟩
    else
      let l' := (List.range 8).foldl (fun a w =>
        a ||| (((ws.getD w none).getD (0, false)).1.setWidth 512 <<< (64 * w))) (0 : Line)
      ⟨if ws.any (fun o => (o.getD (0, false)).2) then .corrected none else .clean, l', mac⟩

/-! ### Either code (R424) -/

/-- The code selected for a line. -/
inductive LineCode where
  | strong | light
  deriving DecidableEq, Repr

/-- Encode a line; the strong code holds no MAC (R429, R430). -/
def LineCode.encode (c : LineCode) (l : Line) (mac : DWord) : Burst :=
  match c with
  | .strong => strongEncode l
  | .light => lightEncode l mac

/-- A line stored with a poison pattern. -/
def LineCode.poison (c : LineCode) (l : Line) (p : Pattern) : Burst :=
  match c with
  | .strong => strongPoison l p
  | .light => lightPoison l p

/-- Decode a line. -/
def LineCode.decode (c : LineCode) (b : Burst) : LineOut :=
  match c with
  | .strong => strongDecode b
  | .light => lightDecode b

end Sys2Proof.Machine
end

