-- ==== Sys2Proof/Machine/Lts.lean ====
section
/-! DEFINITION. Writing and recovering the sectors of the lifetime store (R988-R995). -/

namespace Sys2Proof.Machine

open Sys2Proof

/-- A physical sector of the store, by copy * 64 + number. -/
def LtsState.sect (l : LtsState) (k : Nat) : Sect := mapGet l.sects (sectInit k) k

/-- Change a physical sector's trailer. -/
def LtsState.setSect (l : LtsState) (k : Nat) (v : Sect) : LtsState := { l with sects := mapSet l.sects (sectInit k) k v }

/-- The physical sector of copy `c` that holds a logical sector. -/
def LtsState.place (l : LtsState) (c lsn : Nat) : Option Nat :=
  (List.range 64).find? fun p => (l.sect (c * 64 + p)).lsn = lsn

/-- The spares of copy `c`, lowest first. -/
def LtsState.spares (l : LtsState) (c : Nat) : List Nat :=
  (List.range 64).filter fun p => (l.sect (c * 64 + p)).lsn = 0xFE

/-- The store is read-only: a sector in service has reached 1,000,000 writes and its copy has no spare (R994). -/
def LtsState.readOnly (l : LtsState) : Bool :=
  (List.range 2).any fun c =>
    (l.spares c).isEmpty && (List.range 64).any fun p =>
      (l.sect (c * 64 + p)).lsn < 0x38 && 1000000 ≤ (l.sect (c * 64 + p)).wcount

/-- LTS_STAT (R1019). -/
def State.ltsStat (s : State) : Word :=
  BitVec.ofNat 32 ((s.lts.spares 0).length + 16 * (s.lts.spares 1).length + 256 * s.lts.readOnly.toNat +
    512 * (!s.lts.waits.isEmpty).toNat)

/-- The entries of `src` with keys in [lo, hi) in place of those of `dst`. -/
def mapSplice {α : Type} (src dst : Map α) (lo hi : Nat) : Map α :=
  dst.filter (fun kv => decide (kv.1 < lo)) ++ src.filter (fun kv => decide (lo ≤ kv.1 ∧ kv.1 < hi)) ++
    dst.filter (fun kv => decide (hi ≤ kv.1))

/-- Copy the content of one logical sector from `src` to `dst` (R989). -/
def LtsData.take (src dst : LtsData) (lsn : Nat) : LtsData :=
  if lsn = 0 then { dst with minutes := src.minutes, power := src.power, warm := src.warm, safe := src.safe }
  else if lsn = 1 then { dst with masks := src.masks, ranks := src.ranks, retired := src.retired, migs := src.migs }
  else if lsn = 2 then { dst with units := src.units, epoch := src.epoch }
  else if lsn = 3 then { dst with bcr := mapSplice src.bcr dst.bcr 0 512 }
  else if lsn = 4 then { dst with bcr := mapSplice src.bcr dst.bcr 512 1024 }
  else if lsn = 5 then { dst with errcnt := src.errcnt }
  else if lsn = 9 then { dst with hist := mapSplice src.hist dst.hist 0 1024 }
  else if lsn = 10 then { dst with hist := mapSplice src.hist dst.hist 1024 2048 }
  else if 0xB ≤ lsn ∧ lsn ≤ 0x12 then
    let i := lsn - 0xB
    { dst with aging := mapSplice src.aging dst.aging (1024 * i) (1024 * i + 1024),
               agingN := mapSplice src.agingN dst.agingN (8 * i) (8 * i + 8) }
  else dst

/-- Record a lifetime-store event with its sector (R987, R1019). -/
def State.ltsErr (s : State) (f : Fld) (copy phys : Nat) : State :=
  let v := BitVec.ofNat 32 (phys % 64 + 64 * (copy % 2)) ||| 0x80000000#32
  (s.setCsr LTS_ERR_SECT v).raise f 0 0x19 0 0 sevUncorrected (v.setWidth 64) 0

/-- What a copy of the store holds. -/
def LtsState.content (l : LtsState) (c : Nat) : LtsData := if c = 0 then l.copy0 else l.copy1

/-- A copy takes the content of a logical sector from `src`. -/
def LtsState.fill (l : LtsState) (c lsn : Nat) (src : LtsData) : LtsState :=
  if c = 0 then { l with copy0 := src.take l.copy0 lsn } else { l with copy1 := src.take l.copy1 lsn }

/-- A physical write of copy `c`: the sector that holds `lsn` takes content and generation; at 1,000,000 writes the sector moves to a
spare, or the store is exhausted (R990, R993, R994). The spare keeps the generation (log entry 70). -/
def State.ltsPut (s : State) (c lsn : Nat) (gen : Word) (src : LtsData) : State :=
  match s.lts.place c lsn with
  | none => s
  | some p =>
    let o := s.lts.sect (c * 64 + p)
    let n : Sect := ⟨lsn, gen, min (o.wcount + 1) 0xFFFFFFFF⟩
    let s1 := { s with lts := (s.lts.fill c lsn src).setSect (c * 64 + p) n }
    if n.wcount = 1000000 then
      match s1.lts.spares c with
      | [] => s1.ltsErr LTS_ERR_LTS_EXHAUSTED c p
      | q :: _ =>
        let w := (s1.lts.sect (c * 64 + q)).wcount
        let moved : Sect := ⟨lsn, gen, min (w + 1) 0xFFFFFFFF⟩
        let l := (s1.lts.setSect (c * 64 + p) { n with lsn := 0xFF }).setSect (c * 64 + q) moved
        { s1 with lts := l }.ltsErr LTS_ERR_SECT_RETIRED c p
    else s1

/-- The generation of a copy of a logical sector. -/
def LtsState.gen (l : LtsState) (c lsn : Nat) : Word := ((l.place c lsn).map fun p => (l.sect (c * 64 + p)).gen).getD 0

/-- Write a logical sector from volatile memory: the H0 copy first, then the H1 copy (R990). While a hub reset runs the write
waits (R991); while the store is read-only it is skipped (R994). -/
def State.ltsWrite (s : State) (lsn : Nat) : State :=
  if s.rst.hubs ≠ 0 then
    { s with lts := { s.lts with waits := if lsn ∈ s.lts.waits then s.lts.waits else s.lts.waits ++ [lsn] } }
  else if s.lts.readOnly then s
  else
    let s1 := s.ltsPut 0 lsn (s.lts.gen 0 lsn + 1) s.lts.live
    s1.ltsPut 1 lsn (s1.lts.gen 1 lsn + 1) s1.lts.live

/-- Both hubs are ready: the writes that waited are done (R991). -/
def State.ltsFlush (s : State) : State :=
  if s.rst.hubs ≠ 0 then s else
  s.lts.waits.foldl (fun s lsn => s.ltsWrite lsn) { s with lts := { s.lts with waits := [] } }

/-- The CRC of copy `c` of a logical sector checks, where `bad` lists the physical sectors (copy * 64 + number) whose CRC does not. -/
def LtsState.copyOk (l : LtsState) (bad : List Nat) (c lsn : Nat) : Bool :=
  match l.place c lsn with
  | some p => !bad.contains (64 * c + p)
  | none => false

/-- The copy that a logical sector is read from (R992): the valid one with the higher generation, H0's where they are equal. -/
def LtsState.source (l : LtsState) (bad : List Nat) (lsn : Nat) : Option Nat :=
  if l.copyOk bad 0 lsn && (!l.copyOk bad 1 lsn || decide (l.gen 1 lsn ≤ l.gen 0 lsn)) then some 0
  else if l.copyOk bad 1 lsn then some 1 else none

/-- The field-retirement masks of the copies that read back without error, joined (R31). -/
def LtsState.joinMasks (l : LtsState) (bad : List Nat) : Map (BitVec 7) :=
  let m (c half : Nat) : BitVec 7 := if l.copyOk bad c 1 then mapGet (l.content c).masks 0 half else 0
  (List.range 8).foldl (fun r half => mapSet r 0 half (m 0 half ||| m 1 half)) []

/-- Read one logical sector at start-up (R992): the copy it is not read from is rewritten where it is invalid or older; with neither
valid the sector reads as zero. The sector of the repair map is not rewritten: R31 and R32 apply to it. A read-only store is not
rewritten (R994). -/
def State.ltsRecover (s : State) (bad : List Nat) (lsn : Nat) : State :=
  match s.lts.source bad lsn with
  | some c =>
    let o := 1 - c
    if lsn = 1 ∨ s.lts.readOnly ∨ (s.lts.copyOk bad o lsn ∧ s.lts.gen o lsn = s.lts.gen c lsn) then s
    else (s.ltsPut o lsn (s.lts.gen c lsn) (s.lts.content c)).ltsErr LTS_ERR_COPY_REPAIR o (((s.lts.place o lsn).getD 0))
  | none =>
    let s1 := { s with lts := (s.lts.fill 0 lsn LtsData.zero).fill 1 lsn LtsData.zero }
    if lsn = 1 then s1 else s1.ltsErr LTS_ERR_SECT_LOST 0 (((s.lts.place 0 lsn).getD 0))

/-- The logical sectors in use (R989). -/
def usedSectors : List Nat := [0, 1, 2, 3, 4, 5, 9, 10, 0xB, 0xC, 0xD, 0xE, 0xF, 0x10, 0x11, 0x12]

/-- What the store reads as (R31, R992): each sector from its source, the field-retirement masks joined. -/
def LtsState.readBack (l : LtsState) (bad : List Nat) : LtsData :=
  let d := usedSectors.foldl (fun (d : LtsData) lsn => (l.content ((l.source bad lsn).getD 0)).take d lsn) l.live
  { d with masks := l.joinMasks bad }

/-- Read the store at start-up (R992): volatile memory takes what the sectors hold, and what waited there is lost (R989). -/
def State.ltsLoad (s : State) (bad : List Nat) : State :=
  let s1 := usedSectors.foldl (fun s lsn => s.ltsRecover bad lsn) s
  { s1 with lts := { s1.lts with live := s1.lts.readBack bad, waits := [] } }

/-- Read the store at a start-up that volatile memory survives: what waited is written first (R991); the masks are formed again (R31),
with those that a read-only store could not take (R994). -/
def State.ltsReload (s : State) (bad : List Nat) : State :=
  let s1 := usedSectors.foldl (fun s lsn => s.ltsRecover bad lsn) s.ltsFlush
  let m := s1.lts.joinMasks bad
  let kept (half : Nat) : BitVec 7 := if s1.lts.readOnly then mapGet s1.lts.live.masks 0 half else 0
  let m' := (List.range 8).foldl (fun r half => mapSet r 0 half (mapGet m 0 half ||| kept half)) []
  { s1 with lts := { s1.lts with live := { s1.lts.live with masks := m' } } }

/-- A firmware unit as volatile memory records it. -/
def State.fwUnit (s : State) (u : Nat) : FwUnit := mapGet s.lts.live.units FwUnit.init u

/-- Change a firmware unit's record in volatile memory. -/
def State.setFwUnit (s : State) (u : Nat) (v : FwUnit) : State :=
  { s with lts := { s.lts with live := { s.lts.live with units := mapSet s.lts.live.units FwUnit.init u v } } }

/-- Byte of the flash firmware area. -/
def State.flashByte (s : State) (off : Nat) : Byte := mapGet s.lts.flash 0 off

/-- Where slot `sl` of a firmware unit 0-9 stands in flash (R1003). -/
def slotBase (u sl : Nat) : Nat := 0x200000 * (2 * u + sl)

/-- 32 bits of a slot's header at byte `off` (R1004). -/
def State.slotWord (s : State) (u sl off : Nat) : Word :=
  leWord ((List.range 4).map fun i => s.flashByte (slotBase u sl + off + i))

/-- The protocol epoch of a slot's image (R1004); unit 10 has none. -/
def State.slotEpoch (s : State) (u sl : Nat) : Byte := s.flashByte (slotBase u sl + 5)

/-- The device speaks epoch C + 1 as well (R1011). -/
def State.epochN (s : State) : Byte :=
  let c := s.lts.live.epoch
  if c ≠ 255 ∧ (List.range 10).any (fun u => s.slotEpoch u (s.fwUnit u).active = c + 1) then c + 1 else c

end Sys2Proof.Machine
end

