-- ==== Sys2Proof/Machine/Dmc.lean ====
section
/-! DEFINITION. The DDR5 controllers (R412-R464): address decoding, line reads and writes, page policy, row sampling, refresh, CA
parity, rank migration, training; and the meanings of their commands. A channel is numbered 2h + c. -/

namespace Sys2Proof.Machine

open Sys2Proof

/-- A channel's state. -/
def State.dmc (s : State) (ch : Nat) : DmcSt := mapGet s.mem.dmc DmcSt.init ch

/-- Change a channel's state. -/
def State.setDmc (s : State) (ch : Nat) (d : DmcSt) : State :=
  { s with mem := { s.mem with dmc := mapSet s.mem.dmc DmcSt.init ch d } }

/-! ### Address decoding (R413, R418-R422) -/

/-- Where a line lies in a channel: channel, line address LA, line within its rank, and the fields of R421. -/
structure LineLoc where
  ch   : Nat
  la   : Nat
  line : Nat
  rank : Nat
  sc   : Nat
  col  : Nat
  bg   : Nat
  ba   : Nat
  row  : Nat
  deriving DecidableEq, Repr

/-- Width of COL (R413). -/
def State.colBits (s : State) (ch : Nat) : Nat := if s.fld (DMC_GEOM_DEV_WIDTH (ch / 2) (ch % 2)) = 0 then 7 else 6

/-- Width of BA (R413). -/
def State.baBits (s : State) (ch : Nat) : Nat := if s.fld (DMC_GEOM_DENSITY (ch / 2) (ch % 2)) = 0 then 1 else 2

/-- Width of RANK (R421). -/
def State.rankBits (s : State) (ch : Nat) : Nat := if s.fld (DMC_GEOM_ACTIVE_RANKS (ch / 2) (ch % 2)) = 2 then 1 else 0

/-- Bits of LA below RANK. -/
def State.lowBits (s : State) (ch : Nat) : Nat := 4 + s.colBits ch + s.baBits ch

/-- Rank size in GiB: 8 for x8 8 Gb devices, else 16 (R413). -/
def State.rankGib (s : State) (ch : Nat) : Nat := if s.colBits ch = 6 ∧ s.baBits ch = 1 then 8 else 16

/-- Lines of a rank. -/
def State.rankLines (s : State) (ch : Nat) : Nat := 2 ^ 24 * s.rankGib ch

/-- Split a line address into its fields (R421). -/
def State.splitLine (s : State) (ch la : Nat) : LineLoc :=
  let cw := s.colBits ch
  let bw := s.baBits ch
  let order := s.fld (DMC_GEOM_ORDER (ch / 2) (ch % 2))
  let t := la / 2
  let f := if order = 0 then (t % 2 ^ cw, t / 2 ^ cw % 8, t / 2 ^ (cw + 3) % 2 ^ bw)
    else if order = 2 then (t / 2 ^ (3 + bw) % 2 ^ cw, t % 8, t / 8 % 2 ^ bw)
    else (t / 8 % 2 ^ cw, t % 8, t / 2 ^ (3 + cw) % 2 ^ bw)
  let low := s.lowBits ch
  let rank := la / 2 ^ low % 2 ^ s.rankBits ch
  let row := la / 2 ^ (low + s.rankBits ch) % 2 ^ 16
  let bg := if order = 3 then f.2.1 ^^^ row % 8 else f.2.1
  let ba := if order = 3 then f.2.2 ^^^ row / 8 % 2 ^ bw else f.2.2
  ⟨ch, la, la / 2 ^ (low + s.rankBits ch) * 2 ^ low + la % 2 ^ low, rank, la % 2, f.1, bg, ba, row⟩

/-- The line address of a rank-local line. -/
def State.joinLine (s : State) (ch rank n : Nat) : Nat :=
  let low := s.lowBits ch
  n / 2 ^ low * 2 ^ (low + s.rankBits ch) + rank * 2 ^ low * s.rankBits ch + n % 2 ^ low

/-- The local channel and channel-local address of a hub-local offset (R418). -/
def State.chanSplit (s : State) (h a : Nat) : Nat × Nat :=
  let m := s.fld (DMC_HUB_CFG_CH_INTLV h)
  let cut (b : Nat) := (a / 2 ^ b % 2, a / 2 ^ (b + 1) * 2 ^ b + a % 2 ^ b)
  if m = 0 then (if a < 2 ^ 34 then (0, a) else (1, a - 2 ^ 34)) else if m = 2 then cut 12 else cut 8

/-- The hub-local offset of a channel-local address. -/
def State.chanJoin (s : State) (ch c : Nat) : Nat :=
  let m := s.fld (DMC_HUB_CFG_CH_INTLV (ch / 2))
  let put (b : Nat) := c / 2 ^ b * 2 ^ (b + 1) + ch % 2 * 2 ^ b + c % 2 ^ b
  if m = 0 then c + 2 ^ 34 * (ch % 2) else if m = 2 then put 12 else put 8

/-- Where the line at a hub-local offset lies; none at or above the channel's capacity (R420). -/
def State.locate (s : State) (h a : Nat) : Option LineLoc :=
  let x := s.chanSplit h a
  if x.2 < 2 ^ 30 * s.fld (DMC_STAT_CAP_GIB h x.1) then some (s.splitLine (2 * h + x.1) (x.2 / 64)) else none

/-- State of a physical rank (R481). -/
def State.rankState (s : State) (ch k : Nat) : Nat := s.fld (DMC_RANK_STATE (ch / 2) (ch % 2) k)

/-- Change the state of a physical rank. -/
def State.setRank (s : State) (ch k st : Nat) : State := s.setFld (DMC_RANK_STATE (ch / 2) (ch % 2) k) st

/-- The rank is in service: ACTIVE, SOURCE or DEGRADED. -/
def State.rankServes (s : State) (ch k : Nat) : Bool :=
  s.rankState ch k = 1 || s.rankState ch k = 3 || s.rankState ch k = 6

/-- The physical rank that serves a logical rank (R422). -/
def State.physRank (s : State) (ch r : Nat) : Option Nat :=
  (List.range 4).find? fun k => s.rankServes ch k && s.fld (DMC_RANK_LRANK (ch / 2) (ch % 2) k) = r

/-- The key of a line in physical rank `k`: its place in the devices. -/
def dramKey (k : Nat) (l : LineLoc) : Nat :=
  ((((l.ch * 4 + k) * 2 ^ 16 + l.row) * 32 + l.bg * 4 + l.ba) * 128 + l.col) * 2 + l.sc

/-- The burst stored at a key; what nothing has written reads as zeros (log entry 5). -/
def State.dramAt (s : State) (k : Nat) : Burst := mapGet s.mem.dram 0 k

/-- Store a burst, overwriting any injection there (R985). -/
def State.setDram (s : State) (k : Nat) (b : Burst) : State :=
  { s with mem := { s.mem with dram := mapSet s.mem.dram 0 k b } }.dropInjected 1 k

/-- The region of hub `h` that holds a physical address and is enabled (R489). -/
def State.regionAt (s : State) (h a : Nat) : Option Nat :=
  (List.range 16).find? fun r =>
    s.bit (MPE_RGN_CFG_EN h r) && (s.csr64 (MPE_RGN_BASE h r)).toNat ≤ a &&
      a < (s.csr64 (MPE_RGN_BASE h r)).toNat + 2 ^ s.fld (MPE_RGN_CFG_SIZE_LOG2 h r)

/-- The code of the line at a DDR5 offset: its region's, the strong code elsewhere (R424, R499). -/
def State.codeAt (s : State) (h a : Nat) : LineCode :=
  match s.regionAt h (0x800000000 * h + a) with
  | some r => if s.bit (MPE_RGN_CFG_CODE h r) then .light else .strong
  | none => .strong

/-! ### Errors -/

/-- Set a flag of DMC_ERR and report it (R479, R987). -/
def State.dmcErr (s : State) (ch : Nat) (f : Fld) (sev : Nat) (inj : Bool := false) : State :=
  let h := ch / 2
  s.raise f h 0x05 (h * 2048 + ch % 2) 0 sev (s.csr64 (DMC_ERR_LOC h (ch % 2))) (s.csr (DMC_CNT h (ch % 2))) inj

/-- Record an error's location: kind 0 CE, 1 UE, 2 CA; a correctable error only over nothing or over a correctable one (R480). -/
def State.dmcLoc (s : State) (l : LineLoc) (k kind dev : Nat) : State :=
  let key := DMC_ERR_LOC (l.ch / 2) (l.ch % 2)
  let o := s.csr64 key
  if kind = 0 ∧ o.getLsbD 37 ∧ bitsOf o 31 2 ≠ 0 then s
  else s.setCsr64 key (BitVec.ofNat 64 (l.la % 2 ^ 28 + k * 2 ^ 28 + l.sc * 2 ^ 30 + kind * 2 ^ 31 + dev * 2 ^ 33 + 2 ^ 37))

/-! ### Page policy and row sampling (R441-R449) -/

/-- Key of a bank. -/
def bankKey (k : Nat) (l : LineLoc) : Nat := ((l.sc * 4 + k) * 8 + l.bg) * 4 + l.ba

/-- Key of a bank index: sub-channel, physical rank, bank. -/
def indexKey (sc k ba : Nat) : Nat := (sc * 4 + k) * 4 + ba

/-- One step of the 31-bit Fibonacci LFSR with taps 31 and 28 (R447). -/
def lfsrStep (l : BitVec 31) : BitVec 31 := (l <<< 1) ||| BitVec.ofNat 31 (l.getLsbD 30 ^^ l.getLsbD 27).toNat

/-- RFM_K as it acts (R478). -/
def State.rfmK (s : State) (ch : Nat) : Nat := min (max (s.fld (DMC_POLICY_RFM_K (ch / 2) (ch % 2))) 6) 14

/-- The directed refresh of a bank index's sampled row, if one is held (R448). -/
def State.serviceRow (s : State) (ch sc k ba : Nat) : State :=
  let d := s.dmc ch
  match mapGet d.sampled none (indexKey sc k ba) with
  | none => s
  | some _ =>
    (s.setDmc ch { d with sampled := mapSet d.sampled none (indexKey sc k ba) none }).send
      (.refresh ch sc k ba (if s.bit (DMC_POLICY_RFM_MODE (ch / 2) (ch % 2)) then .rfmsb else .drfmsb))

/-- An ACT of a row: a row held for its bank index is serviced first, then this one is sampled by the LFSR, which advances by
32 steps (R447-R449). -/
def State.activate (s : State) (k : Nat) (l : LineLoc) : State :=
  let s1 := s.serviceRow l.ch l.sc k l.ba
  let d := s1.dmc l.ch
  let take := s.bit (DMC_POLICY_RFM_EN (l.ch / 2) (l.ch % 2)) && d.lfsr.toNat % 2 ^ s.rfmK l.ch = 0
  s1.setDmc l.ch { d with
    sampled := if take then mapSet d.sampled none (indexKey l.sc k l.ba) (some (l.bg * 2 ^ 16 + l.row)) else d.sampled,
    lfsr := (List.range 32).foldl (fun x _ => lfsrStep x) d.lfsr }

/-- The predictor after the next access: up where it is to the row of the previous decision, down where it is not (R442). -/
def nextPred (b : BankSt) (row : Nat) : BitVec 2 :=
  match b.last with
  | none => b.pred
  | some (_, r) => if r = row then (if b.pred = 3 then 3 else b.pred + 1) else (if b.pred = 0 then 0 else b.pred - 1)

/-- An access to a bank: an ACT unless the row is open, then the row is left open or closed (R441-R443). -/
def State.bankAccess (s : State) (k : Nat) (l : LineLoc) : State :=
  let b := mapGet (s.dmc l.ch).banks BankSt.init (bankKey k l)
  let s1 := if b.row = some l.row then s else s.activate k l
  let p := nextPred b l.row
  let keep := s.bit (DMC_POLICY_PRED_EN (l.ch / 2) (l.ch % 2)) && 2 ≤ p.toNat
  let d := s1.dmc l.ch
  s1.setDmc l.ch { d with banks := mapSet d.banks BankSt.init (bankKey k l) ⟨p, if keep then some l.row else none, some (keep, l.row)⟩ }

/-- ROW_IDLE_CLOSE (R444): a row has been open 1 µs with no access. -/
def execRowIdleClose (ch : Fin 4) (sc : Fin 2) (rank : Fin 4) (bank : Fin 32) (s : State) : Host.Outcome State Fault Refusal :=
  let d := s.dmc ch
  let k := (sc.val * 4 + rank.val) * 32 + bank.val
  let b := mapGet d.banks BankSt.init k
  .next (if b.row = none then s else s.setDmc ch { d with banks := mapSet d.banks BankSt.init k { b with row := none } })

/-- DRFMSB (R448): the directed refresh of a sampled row. -/
def execDrfmsb (ch : Fin 4) (sc : Fin 2) (rank ba : Fin 4) (s : State) : Host.Outcome State Fault Refusal :=
  .next (s.serviceRow ch sc rank ba)

/-! ### Rank migration (R452-R461) -/

/-- Put the rank map of a channel into the lifetime store (R458). -/
def State.saveRanks (s : State) (ch : Nat) : State :=
  let w := (List.range 4).foldl (fun n k =>
    n + (if s.rankServes ch k then s.fld (DMC_RANK_LRANK (ch / 2) (ch % 2) k) else 3) * 4 ^ k) 0
  let ret := (List.range 4).foldl (fun n k => n + (if s.rankState ch k = 5 then 2 ^ k else 0)) 0
  let l := s.lts.live
  { s with lts := { s.lts with live := { l with ranks := mapSet l.ranks noRanks ch (BitVec.ofNat 32 w),
                                                retired := mapSet l.retired 0 ch (BitVec.ofNat 4 ret) } } }

/-- Put or clear a channel's migration record in the lifetime store (R460). -/
def State.saveMig (s : State) (ch : Nat) (w : Word) : State :=
  let l := s.lts.live
  { s with lts := { s.lts with live := { l with migs := mapSet l.migs 0 ch w } } }

/-- Begin copying rank `src` to rank `tgt` at line 0 (R455, R460, R461). -/
def State.migBegin (s : State) (ch src tgt : Nat) : State :=
  let h := ch / 2
  let c := ch % 2
  let s1 := (s.setRank ch src 3).setRank ch tgt 4
  let s2 := ((s1.setFld (DMC_MIG_SRC h c) src).setFld (DMC_MIG_TGT h c) tgt).setFld (DMC_MIG_STATE h c) 1
  let s3 := ((s2.setFld (DMC_MIG_RESTARTED h c) 0).setCsr (DMC_MIG_POS h c) 0).setFld (DMC_STAT_MIG_ACTIVE h c) 1
  (s3.saveMig ch (BitVec.ofNat 32 (src + 4 * tgt + 2 ^ 31))).ltsWrite 1

/-- Start the migration of a rank to the lowest-numbered spare; with none the rank becomes DEGRADED (R453). -/
def State.migStart (s : State) (ch src : Nat) : State :=
  let h := ch / 2
  let c := ch % 2
  match (List.range 4).find? (fun k => s.rankState ch k = 2) with
  | none => (s.setRank ch src 6).dmcErr ch (DMC_ERR_NO_SPARE h c) sevUncorrected
  | some t => (s.migBegin ch src t).dmcErr ch (DMC_ERR_MIG_START h c) sevCorrected

/-- A migration is triggered for a rank (R452, R454). -/
def State.migTrigger (s : State) (ch k : Nat) : State :=
  if s.rankState ch k ≠ 1 then s
  else if s.bit (DMC_STAT_MIG_ACTIVE (ch / 2) (ch % 2)) then
    let d := s.dmc ch
    if k ∈ d.waiting then s else s.setDmc ch { d with waiting := d.waiting ++ [k] }
  else s.migStart ch k

/-- Waiting migrations start once none runs (R454). -/
def State.migNext (s : State) (ch : Nat) : List Nat → State
  | [] => s
  | k :: ks =>
    if s.bit (DMC_STAT_MIG_ACTIVE (ch / 2) (ch % 2)) then s.setDmc ch { s.dmc ch with waiting := k :: ks }
    else ((s.setDmc ch { s.dmc ch with waiting := ks }).migTrigger ch k).migNext ch ks

/-- The running migration ends in STATE `st`. -/
def State.migEnd (s : State) (ch st : Nat) : State :=
  let s1 := (s.setFld (DMC_MIG_STATE (ch / 2) (ch % 2)) st).setFld (DMC_STAT_MIG_ACTIVE (ch / 2) (ch % 2)) 0
  (s1.saveMig ch 0).ltsWrite 1

/-- The last line is copied (R458). -/
def State.migFinish (s : State) (ch : Nat) : State :=
  let h := ch / 2
  let c := ch % 2
  let src := s.fld (DMC_MIG_SRC h c)
  let tgt := s.fld (DMC_MIG_TGT h c)
  let s1 := ((s.setFld (DMC_RANK_LRANK h c tgt) (s.fld (DMC_RANK_LRANK h c src))).setRank ch tgt 1).setRank ch src 5
  let s2 := (s1.setFld (DMC_ERR_MIG_DONE h c) 1).saveRanks ch
  let s3 := if s.lts.readOnly then s2.dmcErr ch (DMC_ERR_MAP_UNSAVED h c) sevUncorrected else s2
  let s4 := s3.migEnd ch 2
  s4.migNext ch (s4.dmc ch).waiting

/-- The target takes a persistent CA error: the migration restarts with the next spare, or ends with the source DEGRADED (R459). -/
def State.migAbort (s : State) (ch : Nat) : State :=
  let h := ch / 2
  let c := ch % 2
  let src := s.fld (DMC_MIG_SRC h c)
  let s1 := (s.setRank ch (s.fld (DMC_MIG_TGT h c)) 5).dmcErr ch (DMC_ERR_MIG_ABORT h c) sevUncorrected
  let spare := (List.range 4).find? (fun k => s1.rankState ch k = 2)
  let s2 := (s1.setRank ch src 6).migEnd ch 3
  spare.elim (s2.migNext ch (s2.dmc ch).waiting) (s1.migBegin ch src)

/-- The target rank of the migration that runs from rank `k`, if one does. -/
def State.migTarget (s : State) (ch k : Nat) : Option Nat :=
  if s.bit (DMC_STAT_MIG_ACTIVE (ch / 2) (ch % 2)) && s.fld (DMC_MIG_SRC (ch / 2) (ch % 2)) = k then
    some (s.fld (DMC_MIG_TGT (ch / 2) (ch % 2)))
  else none

/-! ### CA parity (R450, R451) -/

/-- Take the CA errors that wait for a command to rank `k`. -/
def takeCa (k : Nat) : List (Nat × Bool × Bool) → Option ((Bool × Bool) × List (Nat × Bool × Bool))
  | [] => none
  | (r, e) :: cs => if r = k then some (e, cs) else (takeCa k cs).map fun x => (x.1, (r, e) :: x.2)

/-- A command to rank `k` meets what CA errors wait for it: whether they persisted, and the state. -/
def State.caMeet (s : State) (k : Nat) (l : LineLoc) : Bool × State :=
  let h := l.ch / 2
  let c := l.ch % 2
  match takeCa k (s.dmc l.ch).ca with
  | none => (false, s)
  | some ((persist, inj), rest) =>
    let s1 := (s.setDmc l.ch { s.dmc l.ch with ca := rest }).satAdd (DMC_CA_CNT_RETRY h c) (if persist then 3 else 1)
    let s2 := s1.dmcErr l.ch (DMC_ERR_CA_RETRY h c) sevCorrected inj
    if persist then
      let s3 := ((s2.satInc (DMC_CA_CNT_PERSIST h c)).satInc (DMC_RANK_CA_CNT h c k)).dmcLoc l k 2 0xF
      (true, (s3.dmcErr l.ch (DMC_ERR_CA_PERSIST h c) sevUncorrected inj).migTrigger l.ch k)
    else (false, s2)

/-! ### Line reads (R433, R455-R457) -/

/-- How a line access completes: status, reason, data, stored MAC, and whether this read found the line uncorrectable. -/
structure LineRes where
  status : Status
  rsn    : PoisonRsn
  data   : Line
  mac    : DWord
  ue     : Bool
  deriving DecidableEq, Repr

/-- An access that completes with a status and no data. -/
def LineRes.bare (st : Status) : LineRes := ⟨st, .none, 0, 0, false⟩

/-- Read the stored line of rank `k` and act on what the decoder finds (R433). -/
def State.rankRead (s : State) (k : Nat) (l : LineLoc) (code : LineCode) : LineKind × LineRes × State :=
  let h := l.ch / 2
  let c := l.ch % 2
  let key := dramKey k l
  let o := code.decode (s.dramAt key)
  let inj := s.injectedAt 1 key
  match o.kind with
  | .clean => (o.kind, ⟨.ok, .none, o.data, o.mac, false⟩, s)
  | .corrected dev =>
    let s1 := (((s.dropInjected 1 key).satInc (DMC_CNT_CE h c)).dmcLoc l k 0 (dev.getD 0xF)).dmcErr l.ch (DMC_ERR_CE h c) sevCorrected inj
    (o.kind, ⟨.ok, .none, o.data, o.mac, false⟩,
      if s.bit (DMC_POLICY_CE_WB h c) then s1.setDram key (code.encode o.data o.mac) else s1)
  | .poisoned p =>
    (o.kind, ⟨.poison, p.reason, o.data, o.mac, false⟩,
      (s.dropInjected 1 key).dmcErr l.ch (DMC_ERR_POISON_RD h c) sevDeferred inj)
  | .uncorrectable =>
    let s1 := ((s.dropInjected 1 key).satInc (DMC_CNT_UE h c)).satInc (DMC_RANK_UE_CNT h c k)
    let s2 := (s1.dmcLoc l k 1 0xF).dmcErr l.ch (DMC_ERR_UE h c) sevDeferred inj
    (o.kind, ⟨.poison, .memUe, o.data, o.mac, true⟩, (s2.setDram key (code.poison o.data .memUe)).migTrigger l.ch k)

/-- Read a line of rank `k` that is in service: one found uncorrectable below the boundary of a running migration is served
again from the target (R456). -/
def State.serveRead (s : State) (k : Nat) (l : LineLoc) (code : LineCode) : LineKind × LineRes × State :=
  let r := (s.bankAccess k l).rankRead k l code
  match r.1, s.migTarget l.ch k with
  | .uncorrectable, some t => if l.line < (s.csr (DMC_MIG_POS (l.ch / 2) (l.ch % 2))).toNat then (r.2.2.bankAccess t l).rankRead t l code else r
  | _, _ => r

/-- The channel serves requests: READY (R477). -/
def State.dmcReady (s : State) (ch : Nat) : Bool := s.fld (DMC_STAT_STATE (ch / 2) (ch % 2)) = 2

/-- A line read of a hub-local offset that the channel executes now (R412, R420, R433, R451, R463). -/
def State.readNow (s : State) (h a : Nat) (code : LineCode) : LineRes × State :=
  match s.locate h a with
  | none => (LineRes.bare .errTarget, s)
  | some l =>
    if !s.dmcReady l.ch then (LineRes.bare .errTimeout, s) else
    match s.physRank l.ch l.rank with
    | none => (LineRes.bare .errTarget, s)
    | some k =>
      match s.caMeet k l with
      | (true, s1) =>
        let v := s1.free
        (⟨.poison, .memUe, v.1, 0, false⟩, v.2)
      | (false, s1) => (s1.serveRead k l code).2

/-! ### Line writes (R434-R436, R456) -/

/-- Store a burst in rank `k`: whether it was stored (R451). -/
def State.rankWrite (s : State) (k : Nat) (l : LineLoc) (b : Burst) : Bool × State :=
  match s.caMeet k l with
  | (true, s1) => (false, s1)
  | (false, s1) => (true, (s1.bankAccess k l).setDram (dramKey k l) b)

/-- Store a burst at a line of the rank in service; a running migration stores it in the target as well, whose status counts (R456,
R459). -/
def State.putLine (s : State) (k : Nat) (l : LineLoc) (b : Burst) : Bool × State :=
  let r := s.rankWrite k l b
  match s.migTarget l.ch k with
  | none => r
  | some t =>
    match r.2.rankWrite t l b with
    | (true, s2) => (true, s2)
    | (false, s2) => (r.1, s2.migAbort l.ch)

/-- The bytes of `d` where `m` has a bit, of `o` elsewhere. -/
def mergeBytes (m : DWord) (d o : Line) : Line :=
  let w : Line := (List.range 64).foldl (fun w i => if m.getLsbD i then w ||| ((0xFF#512) <<< (8 * i)) else w) 0
  (d &&& w) ||| (o &&& ~~~w)

/-- The status of a write that was or was not stored (R451). -/
def storedStatus (b : Bool) : Status := if b then .ok else .errTarget

/-- A line write of a hub-local offset that the channel executes now: whole (R434), or a read-modify-write (R435). -/
def State.writeNow (s : State) (h : Nat) (w : LineWrite) : Status × State :=
  let code : LineCode := if w.light then .light else .strong
  match s.locate h w.addr.toNat with
  | none => (.errTarget, s)
  | some l =>
    if !s.dmcReady l.ch then (.errTimeout, s) else
    match s.physRank l.ch l.rank with
    | none => (.errTarget, s)
    | some k =>
      if w.mask = 0xFFFFFFFFFFFFFFFF#64 then
        let r := s.putLine k l (if w.poison = 0 then code.encode w.data w.mac else code.poison w.data .source)
        (storedStatus r.1, r.2)
      else match s.caMeet k l with
        | (true, s1) => (.errTarget, s1)
        | (false, s1) =>
          let r := s1.serveRead k l code
          let data := mergeBytes w.mask w.data r.2.1.data
          if w.poison ≠ 0 then
            let x := r.2.2.putLine k l (code.poison data .source)
            (storedStatus x.1, x.2)
          else if r.2.1.status = .ok then
            let x := r.2.2.putLine k l (code.encode data w.mac)
            (storedStatus x.1, x.2)
          else (.errTarget, r.2.2)

/-- Store a line with the MEM_UE pattern (R533). -/
def State.dmcMark (s : State) (h a : Nat) (data : Line) (code : LineCode) : State :=
  match s.locate h a with
  | none => s
  | some l => match s.physRank l.ch l.rank with
    | none => s
    | some k => (s.putLine k l (code.poison data .memUe)).2

/-! ### Refresh (R445, R446) -/

/-- A rank is populated and did not fail: it is refreshed (R445). -/
def State.rankLive (s : State) (ch k : Nat) : Bool := s.rankState ch k ≠ 0 && s.rankState ch k ≠ 7

/-- REF_URGENT of a channel: a refresh at its postponement limit is pending (R440, R446). -/
def State.showUrgent (s : State) (ch : Nat) : State :=
  s.setBit (DMC_STAT_REF_URGENT (ch / 2) (ch % 2)) ((s.dmc ch).due.any fun kv => 4 ≤ kv.2)

/-- A bank belongs to a bank index: same sub-channel and rank, same bank in any bank group. -/
def bankOfIndex (sc rank ba key : Nat) : Bool := key / 32 = sc * 4 + rank && key % 4 = ba

/-- A due refresh of a bank index is issued, its open rows closed (R446). -/
def State.issueRefsb (s : State) (ch sc rank ba : Nat) : State :=
  let d := s.dmc ch
  let k := indexKey sc rank ba
  let banks := mapAdjust BankSt.init (bankOfIndex sc rank ba) (fun b => { b with row := none }) d.banks
  ((s.setDmc ch { d with due := mapSet d.due 0 k (mapGet d.due 0 k - 1), banks := banks }).showUrgent ch).send
    (.refresh ch sc rank ba .refsb)

/-! ### Scheduling (R436-R439) -/

/-- The request is a read. -/
def DmcReq.isRead (r : DmcReq) : Bool := r.write.isNone

/-- The line a request is for. -/
def DmcReq.line (r : DmcReq) : Nat := r.addr.toNat / 64

/-- The requests of a sub-channel. -/
def State.dmcQueue (s : State) (ch sc : Nat) : List DmcReq := mapGet (s.dmc ch).queue [] sc

/-- Put a sub-channel's requests: writes take part from 48 of them until 16 are left (R438). -/
def State.setDmcQueue (s : State) (ch sc : Nat) (q : List DmcReq) : State :=
  let d := s.dmc ch
  let n := (q.filter fun r => !r.isRead).length
  let b : BitVec 2 := 1#2 <<< sc
  let drain := if 48 ≤ n then d.drain ||| b else if n ≤ 16 then d.drain &&& ~~~b else d.drain
  s.setDmc ch { d with queue := mapSet d.queue [] sc q, drain := drain }

/-- The ready requests with their places: no earlier request for the same line waits (R436). -/
def readyReqs (seen : List Nat) (i : Nat) : List DmcReq → List (Nat × DmcReq)
  | [] => []
  | r :: rs =>
    let rest := readyReqs (r.line :: seen) (i + 1) rs
    if r.line ∈ seen then rest else (i, r) :: rest

/-- What a sub-channel does next (R437): a refresh at its limit, or the request at a place of its queue. -/
inductive DmcPick where
  | refresh (rank ba : Nat)
  | request (i : Nat)
  deriving DecidableEq, Repr

/-- The next command of a sub-channel (R437, R438): the first class that holds a ready candidate, and the oldest candidate in it.
`urgent` is a refresh at its postponement limit, `drain` holds from 48 queued writes until 16, `hit` says that a request hits an
open row. -/
def dmcChoose (urgent : Option (Nat × Nat)) (drain : Bool) (now : Nat) (hit : DmcReq → Bool) (q : List DmcReq) : Option DmcPick :=
  let ready := readyReqs [] 0 q
  let aged (r : DmcReq) : Bool := 256 ≤ now - r.since
  let joins (r : DmcReq) : Bool := r.isRead || drain || !q.any DmcReq.isRead || aged r
  let oldest (p : DmcReq → Bool) : Option DmcPick := (ready.find? fun x => p x.2).map fun x => .request x.1
  match urgent with
  | some x => some (.refresh x.1 x.2)
  | none =>
    match oldest fun r => r.isRead && r.cls = .g with
    | some p => some p
    | none => match oldest aged with
      | some p => some p
      | none => match oldest fun r => joins r && hit r with
        | some p => some p
        | none => oldest joins

/-- A request hits an open row. -/
def State.rowHit (s : State) (h : Nat) (r : DmcReq) : Bool :=
  match s.locate h r.addr.toNat with
  | none => false
  | some l => match s.physRank l.ch l.rank with
    | none => false
    | some k => (mapGet (s.dmc l.ch).banks BankSt.init (bankKey k l)).row = some l.row

/-- A refresh of a sub-channel that has reached its postponement limit: rank and bank index (R446). -/
def State.urgentRef (s : State) (ch sc : Nat) : Option (Nat × Nat) :=
  ((s.dmc ch).due.find? fun kv => 4 ≤ kv.2 && kv.1 / 16 = sc).map fun kv => (kv.1 / 4 % 4, kv.1 % 4)

/-- The choice of a sub-channel among requests `q` (R437). -/
def State.dmcNext (s : State) (ch sc : Nat) (q : List DmcReq) : Option DmcPick :=
  dmcChoose (s.urgentRef ch sc) ((s.dmc ch).drain.getLsbD sc) (s.dmc ch).now (s.rowHit (ch / 2)) q

/-- Complete a line access towards the MPE. -/
def answerLine (h a : Nat) (r : LineRes × State) : State := r.2.send (.line h a r.1.status r.1.rsn r.1.data r.1.mac)

/-- Complete a line write towards the MPE. -/
def answerStored (h a : Nat) (r : Status × State) : State := r.2.send (.line h a r.1 .none 0 0)

/-- Execute a request and complete it towards the MPE. -/
def State.serveReq (s : State) (h : Nat) (r : DmcReq) : State :=
  match r.write with
  | none => answerLine h r.addr.toNat (s.readNow h r.addr.toNat (if r.light then .light else .strong))
  | some w => answerStored h r.addr.toNat (s.writeNow h w)

/-- A sub-channel does what it has chosen: a refresh, or the request at a place of its queue, which leaves the queue. -/
def State.dmcDo (s : State) (ch sc : Nat) : DmcPick → State
  | .refresh rank ba => s.issueRefsb ch sc rank ba
  | .request i =>
    match (s.dmcQueue ch sc)[i]? with
    | none => s
    | some r => (s.setDmcQueue ch sc ((s.dmcQueue ch sc).eraseIdx i)).serveReq (ch / 2) r

/-- `n` command slots of a sub-channel (R437). -/
def State.dmcSlots (s : State) (ch sc : Nat) : Nat → State
  | 0 => s
  | n + 1 => match s.dmcNext ch sc (s.dmcQueue ch sc) with
    | none => s
    | some p => (s.dmcDo ch sc p).dmcSlots ch sc n

/-- The sub-channel does what it chooses ahead of request `r`, until `r` is its choice. The bound passes every request that can
wait and every refresh that can be at its limit. -/
def State.dmcAhead (s : State) (ch sc : Nat) (r : DmcReq) : Nat → State
  | 0 => s
  | n + 1 =>
    let q := s.dmcQueue ch sc
    match s.dmcNext ch sc (q ++ [r]) with
    | none => s
    | some p => if p = .request q.length then s else (s.dmcDo ch sc p).dmcAhead ch sc r n

/-- The bound of `State.dmcAhead`: two queues of 64 lines and 16 bank indexes, with the refreshes due to each. -/
def aheadBound : Nat := 1024

/-- The requests for a line are executed in their order at once, before a read that cannot take its data from the newest queued
write of the line alone, as that write has a partial mask (R436, R439). -/
def State.flushLine (s : State) (ch sc line : Nat) : State :=
  let q := s.dmcQueue ch sc
  let s1 := s.setDmcQueue ch sc (q.filter fun r => r.line ≠ line)
  (q.filter fun r => r.line = line).foldl (fun t r => t.serveReq (ch / 2) r) s1

/-- The newest queued write to a line. -/
def newestWrite (q : List DmcReq) (line : Nat) : Option LineWrite :=
  (q.reverse.find? fun r => r.line = line && !r.isRead).bind DmcReq.write

/-- What a read finds in the write queue (R439): the data of the newest queued write, where it holds the whole line. -/
def queuedData (q : List DmcReq) (line : Nat) : Option LineRes :=
  match newestWrite q line with
  | none => none
  | some w => if w.mask ≠ 0xFFFFFFFFFFFFFFFF#64 then none
      else some (if w.poison = 0 then ⟨.ok, .none, w.data, w.mac, false⟩ else ⟨.poison, .source, w.data, 0, false⟩)

/-- Ready the sub-channel for a read of a line: what the write queue gives it, or the state without a partial write of the line. -/
def State.readQueued (s : State) (l : LineLoc) (line : Nat) : Option LineRes × State :=
  let q := s.dmcQueue l.ch l.sc
  match queuedData q line with
  | some r => (some r, s)
  | none => (none, if (newestWrite q line).isSome then s.flushLine l.ch l.sc line else s)

/-- Where a request that the channel can take lies; none where the line does not exist, the channel is not READY or no rank
serves it: the request then completes at once with the status the line access gives (R420, R463). -/
def State.dmcPlace (s : State) (h a : Nat) : Option LineLoc :=
  (s.locate h a).bind fun l => if s.dmcReady l.ch && (s.physRank l.ch l.rank).isSome then some l else none

/-- The latest time a channel has seen. -/
def State.dmcClock (s : State) (ch now : Nat) : State := s.setDmc ch { s.dmc ch with now := max (s.dmc ch).now now }

/-- A line read that the MPE makes: it reaches the channel, which does what it chooses ahead of it, and is executed (R437-R439). -/
def State.dmcRead (s : State) (h a : Nat) (code : LineCode) : LineRes × State :=
  match s.dmcPlace h a with
  | none => s.readNow h a code
  | some l => match s.readQueued l (a / 64) with
    | (some r, s1) => (r, s1)
    | (none, s1) =>
      (s1.dmcAhead l.ch l.sc ⟨BitVec.ofNat 48 a, none, code = .light, s1.mem.serving, (s1.dmc l.ch).now⟩ aheadBound).readNow h a code

/-- A line write that the MPE makes: it reaches the channel, which does what it chooses ahead of it, and is executed. -/
def State.dmcWrite (s : State) (h : Nat) (w : LineWrite) : Status × State :=
  match s.dmcPlace h w.addr.toNat with
  | none => s.writeNow h w
  | some l => (s.dmcAhead l.ch l.sc ⟨w.addr, some w, w.light, s.mem.serving, (s.dmc l.ch).now⟩ aheadBound).writeNow h w

/-- The queues of a channel that is reset: each request is abandoned with ERR_TIMEOUT (R462, R463). That none is completed first
is the model's choice (log entry 109). -/
def State.dmcAbandon (s : State) (ch : Nat) : State :=
  let drop (t : State) (sc : Nat) : State :=
    (t.dmcQueue ch sc).foldl (fun t r => t.send (.line (ch / 2) r.addr.toNat .errTimeout .none 0 0)) (t.setDmcQueue ch sc [])
  drop (drop s 0) 1

/-- A request of a sub-channel waits for a bank of a bank index (R446). -/
def State.queuedAt (s : State) (ch sc rank ba : Nat) : Bool :=
  (s.dmcQueue ch sc).any fun r => match s.locate (ch / 2) r.addr.toNat with
    | some l => l.ba = ba && s.physRank ch l.rank = some rank
    | none => false

/-! ### Commands -/

/-- Flip stored bits of a line: what the devices have lost or changed. -/
def State.flipDram (s : State) (h a : Nat) (flips : Burst) : State :=
  match s.locate h a with
  | none => s
  | some l => match s.physRank l.ch l.rank with
    | none => s
    | some k => if flips = 0 then s else { s with mem := { s.mem with dram := mapSet s.mem.dram 0 (dramKey k l) (s.dramAt (dramKey k l) ^^^ flips) } }

/-- A request reaches its sub-channel at time `now` and joins its queue; where the queue for it is full with 64 lines, the channel
first does what it chooses until there is room. Then `slots` command slots pass (R437). -/
def State.dmcArrive (s : State) (l : LineLoc) (r : DmcReq) (slots : Nat) : State :=
  let room (t : State) : Bool := ((t.dmcQueue l.ch l.sc).filter fun x => x.isRead = r.isRead).length < 64
  let full := if room s then s else s.dmcAhead l.ch l.sc r aheadBound
  ((full.setDmcQueue l.ch l.sc (full.dmcQueue l.ch l.sc ++ [r])).dmcSlots l.ch l.sc slots)

/-- DMC_LINE_READ (R433): a line read reaches the channel at time `now`, and `slots` command slots of its sub-channel pass; the
devices hold the stored bits with `flips` wrong. A read that finds its line in the write queue takes its data there (R439). -/
def execDmcLineRead (hub : Fin 2) (addr : BitVec 48) (light : Bool) (flips : BitVec 640) (cls : TClass) (now slots : Nat) (s : State) :
    Host.Outcome State Fault Refusal :=
  let s1 := s.flipDram hub addr.toNat flips
  .next (match s1.dmcPlace hub addr.toNat with
    | none => answerLine hub addr.toNat (s1.readNow hub addr.toNat (if light then .light else .strong))
    | some l => match (s1.dmcClock l.ch now).readQueued l (addr.toNat / 64) with
      | (some r, s2) => (answerLine hub addr.toNat (r, s2)).dmcSlots l.ch l.sc slots
      | (none, s2) => s2.dmcArrive l ⟨addr, none, light, cls, now⟩ slots)

/-- A line write reaches the channel at time `now`, and `slots` command slots pass. -/
def State.dmcStore (s : State) (h : Nat) (w : LineWrite) (now slots : Nat) : State :=
  match s.dmcPlace h w.addr.toNat with
  | none => answerStored h w.addr.toNat (s.writeNow h w)
  | some l => (s.dmcClock l.ch now).dmcArrive l ⟨w.addr, some w, w.light, .p, now⟩ slots

/-- DMC_LINE_WRITE (R434): a write whose byte mask covers the whole line. -/
def execDmcLineWrite (hub : Fin 2) (w : LineWrite) (now slots : Nat) (s : State) : Host.Outcome State Fault Refusal :=
  .next (if w.mask = 0xFFFFFFFFFFFFFFFF#64 then s.dmcStore hub w now slots else s)

/-- READ_MODIFY_WRITE (R435): a write with a partial byte mask. -/
def execReadModifyWrite (hub : Fin 2) (w : LineWrite) (now slots : Nat) (s : State) : Host.Outcome State Fault Refusal :=
  .next (if w.mask = 0xFFFFFFFFFFFFFFFF#64 then s else s.dmcStore hub w now slots)

/-- REFRESH_INTERVAL (R445): one tREFI has passed. -/
def execRefreshInterval (ch : Fin 4) (s : State) : Host.Outcome State Fault Refusal :=
  let d := s.dmc ch
  let keys := (List.range 32).filter fun k => k % 4 < 2 ^ s.baBits ch && s.rankLive ch (k / 4 % 4)
  .next (if s.dmcReady ch then
      (s.setDmc ch { d with due := keys.foldl (fun m k => mapSet m 0 k (mapGet m 0 k + 1)) d.due }).showUrgent ch
    else s)

/-- REFSB (R446): a due refresh is issued once no bank of its bank index holds a queued request or an open row, or with its open rows
closed at the limit. -/
def execRefsb (ch : Fin 4) (sc : Fin 2) (rank ba : Fin 4) (s : State) : Host.Outcome State Fault Refusal :=
  let d := s.dmc ch
  let due := mapGet d.due 0 (indexKey sc rank ba)
  let isOpen := d.banks.any fun kv => bankOfIndex sc rank ba kv.1 && kv.2.row.isSome
  .next (if due = 0 || ((isOpen || s.queuedAt ch sc rank ba) && due < 4) || !s.dmcReady ch then s else s.issueRefsb ch sc rank ba)

/-- MR4_READ (R445): the refresh-rate field the devices give. -/
def execMr4Read (ch : Fin 4) (double : Bool) (s : State) : Host.Outcome State Fault Refusal :=
  .next (if s.dmcReady ch then s.setDmc ch { s.dmc ch with double := double } else s)

/-- CA_RETRY (R450, R451): a device of a rank signals a CA parity error on a command, which is reissued; `persist` where it fails on
its third retry. The command is given, and executes with that error, or is the next one to that rank. -/
def execCaRetry (ch rank : Fin 4) (persist : Bool) (cmd : CaCommand) (s : State) : Host.Outcome State Fault Refusal :=
  let s1 := s.setDmc ch { s.dmc ch with ca := (rank.val, persist, false) :: (s.dmc ch).ca }
  let h := ch.val / 2
  let hits (a : BitVec 48) : Bool := match s.locate h a.toNat with
    | some l => l.ch = ch.val && s.physRank ch l.rank = some rank.val
    | none => false
  .next (if !s.dmcReady ch then s else match cmd with
    | .next => s1
    | .read a light => if hits a then answerLine h a.toNat (s1.readNow h a.toNat (if light then .light else .strong)) else s
    | .write w => if hits w.addr then answerStored h w.addr.toNat (s1.writeNow h w) else s)

/-- A write of DMC_MIG by Level S (R452, R482). -/
def State.migCtlWrite (s : State) (ch : Nat) (value : Word) : State :=
  let h := ch / 2
  let c := ch % 2
  let s1 := (s.setFld (DMC_MIG_SHARE h c) (bitsOf value 8 3)).setFld (DMC_MIG_START_RANK h c) (bitsOf value 12 2)
  if value.getLsbD 11 then s1.migTrigger ch (bitsOf value 12 2) else s1

/-- START (R452): a write of DMC_MIG. -/
def execStart (mid : BitVec 12) (ch : Fin 4) (value : Word) (s : State) : Host.Outcome State Fault Refusal :=
  .next (levelSWrite s mid (DMC_MIG (ch.val / 2) (ch.val % 2)) fun s => s.migCtlWrite ch value)

/-- Copy one line of the running migration (R455). -/
def State.migCopy (s : State) (ch : Nat) (flips : Burst) : State :=
  let h := ch / 2
  let c := ch % 2
  let src := s.fld (DMC_MIG_SRC h c)
  let tgt := s.fld (DMC_MIG_TGT h c)
  let n := (s.csr (DMC_MIG_POS h c)).toNat
  let la := s.joinLine ch (s.fld (DMC_RANK_LRANK h c src)) n
  let l := s.splitLine ch la
  let code := s.codeAt h (s.chanJoin ch (la * 64))
  let key := dramKey src l
  let s0 := if flips = 0 then s else { s with mem := { s.mem with dram := mapSet s.mem.dram 0 key (s.dramAt key ^^^ flips) } }
  let r := s0.caMeet src l
  let o := code.decode (s0.dramAt key)
  let ue (t : State) := t.satAdd ⟨DMC_MIG_UE h c, 0, 32⟩ 1
  let put : Burst × State := if r.1 then (code.poison o.data .memUe, ue r.2) else match o.kind with
    | .clean => (s0.dramAt key, r.2)
    | .corrected _ => (code.encode o.data o.mac, r.2)
    | .poisoned _ => (s0.dramAt key, r.2)
    | .uncorrectable => (code.poison o.data .memUe, ue r.2)
  let w := (put.2.bankAccess src l).rankWrite tgt l put.1
  if !w.1 then w.2.migAbort ch
  else if n + 1 < s.rankLines ch then w.2.setCsr (DMC_MIG_POS h c) (BitVec.ofNat 32 (n + 1))
  else w.2.migFinish ch

/-- MIGRATION_LINE_COPY (R455-R459): one line of a running migration is copied, the source returning it with `flips` wrong. -/
def execMigrationLineCopy (ch : Fin 4) (flips : BitVec 640) (s : State) : Host.Outcome State Fault Refusal :=
  .next (if s.bit (DMC_STAT_MIG_ACTIVE (ch.val / 2) (ch.val % 2)) && s.dmcReady ch then s.migCopy ch flips else s)

/-! ### Training and self-refresh (R414-R417, R460, R462) -/

/-- Every rank of a hub's channels goes into self-refresh, once the queued requests are abandoned (R462). -/
def State.dmcSleep (s : State) (h : Nat) : State :=
  (List.range 2).foldl (fun s c =>
    if s.fld (DMC_STAT_STATE h c) = 2 then
      let s1 := (s.dmcAbandon (2 * h + c)).setFld (DMC_STAT_STATE h c) 3
      let d := s1.dmc (2 * h + c)
      s1.setDmc (2 * h + c) { d with banks := mapAdjust BankSt.init (fun _ => true) (fun b => { b with row := none }) d.banks }
    else s) s

/-- Drop what a physical rank holds. -/
def State.dropRank (s : State) (ch k : Nat) : State :=
  { s with mem := { s.mem with dram := mapDrop (fun key => key / 2 ^ 29 = ch * 4 + k) s.mem.dram } }

/-- The physical rank a stored rank map gives a logical rank. -/
def mappedRank (w : Word) (r : Nat) : Option Nat := (List.range 4).find? fun k => bitsOf w (2 * k) 2 = r

/-- Give logical ranks from `r` on their physical ranks: the mapped one if it trained, else the lowest-numbered one that trained and
serves nothing (R414, R417). None where one is missing. -/
def placeRanks (w : Word) (ok : Nat → Bool) : Nat → Nat → List (Nat × Nat) → Option (List (Nat × Nat))
  | 0, _, acc => some acc
  | n + 1, r, acc =>
    let isFree (k : Nat) := ok k && !acc.any (fun x => x.2 = k)
    let pick := match mappedRank w r with
      | some k => if isFree k then some k else
          (List.range 4).find? fun j => isFree j && !(List.range 2).any fun q => mappedRank w q = some j
      | none => (List.range 4).find? isFree
    match pick with
    | some k => placeRanks w ok n (r + 1) (acc ++ [(r, k)])
    | none => none

/-- Resume or end a journaled migration at SP5 (R460). -/
def State.migResume (s : State) (ch : Nat) (powerOn : Bool) : State :=
  let w := mapGet s.lts.live.migs 0 ch
  if !w.getLsbD 31 then s else
  let src := bitsOf w 0 2
  let tgt := bitsOf w 2 2
  if powerOn then
    let s1 := (s.setFld (DMC_RANK_LRANK (ch / 2) (ch % 2) tgt) (s.fld (DMC_RANK_LRANK (ch / 2) (ch % 2) src))).setRank ch tgt 1
    (((s1.setRank ch src 5).saveRanks ch).saveMig ch 0).ltsWrite 1
  else (s.migBegin ch src tgt).setFld (DMC_MIG_RESTARTED (ch / 2) (ch % 2)) 1

/-- The rank map that the lifetime store holds for a channel. -/
def State.liveRanks (s : State) (ch : Nat) : Word := mapGet s.lts.live.ranks noRanks ch

/-- Train a channel at SP5 (R414-R417, R460): its record of the board configuration record, what training finds, and whether the
reset lost DRAM. False where the channel FAILED. -/
def State.dmcTrain (s : State) (ch : Nat) (bcr : Word) (t : ChanTrain) (powerOn : Bool) : Bool × State :=
  let h := ch / 2
  let c := ch % 2
  if !bcr.getLsbD 31 then
    (true, (s.setCsr (DMC_GEOM h c) (bcr &&& 0x3F3#32)).setFld (DMC_STAT_STATE h c) 0)
  else
    let s1 := (s.setCsr (DMC_GEOM h c) (bcr &&& 0x3FF#32)).setDmc ch { DmcSt.init with lfsr := t.seed }
    let pop := s1.fld (DMC_GEOM_POP_RANKS h c)
    let retired := mapGet s.lts.live.retired 0 ch
    let ok (k : Nat) := k < pop && t.trained.getLsbD k && !retired.getLsbD k
    let s2 := (List.range 4).foldl (fun s k =>
      (s.setCsr (DMC_RANK h c k) (s.csr (DMC_RANK h c k) &&& 0xFFFF0000#32)).setRank ch k
        (if pop ≤ k then 0 else if retired.getLsbD k then 5 else if t.trained.getLsbD k then 2 else 7)) s1
    let s3 := if (List.range 4).any (fun k => k < pop && !t.trained.getLsbD k) || t.rate < bitsOf bcr 16 3 then
        s2.dmcErr ch (DMC_ERR_TRAIN_FAIL h c) sevUncorrected else s2
    (placeRanks (s.liveRanks ch) ok (s1.fld (DMC_GEOM_ACTIVE_RANKS h c)) 0 []).elim (false, s3.setFld (DMC_STAT_STATE h c) 4) fun places =>
      let s4 := places.foldl (fun t x =>
        let t1 := (t.setRank ch x.2 1).setFld (DMC_RANK_LRANK h c x.2) x.1
        match mappedRank (s.liveRanks ch) x.1 with
        | some k => if k = x.2 then t1 else t1.dropRank ch x.2
        | none => t1) s3
      let cap := min 16 (s1.fld (DMC_GEOM_ACTIVE_RANKS h c) * s1.rankGib ch)
      let s5 := ((s4.setFld (DMC_STAT_CAP_GIB h c) cap).setFld (DMC_STAT_RATE h c) t.rate).setFld (DMC_STAT_STATE h c) 2
      (true, s5.migResume ch powerOn)

end Sys2Proof.Machine
end

