-- ==== Sys2Proof/Machine/Cxl.lean ====
section
/-! DEFINITION. The CXL root ports (R465-R474, R484-R488), and the meanings of their commands. A port is numbered 2h + q. -/

namespace Sys2Proof.Machine

open Sys2Proof

/-- The requests outstanding at a port. -/
def State.cxlOuts (s : State) (port : Nat) : List CxlOut := mapGet s.mem.cxlOut [] port

/-- Change the requests outstanding at a port. -/
def State.setCxlOuts (s : State) (port : Nat) (l : List CxlOut) : State :=
  { s with mem := { s.mem with cxlOut := mapSet s.mem.cxlOut [] port l } }

/-- The link behind the fence. -/
def State.cxlPhys (s : State) (port : Nat) : Nat := mapGet s.mem.cxlPhys 0 port

/-- Change the link behind the fence. -/
def State.setCxlPhys (s : State) (port n : Nat) : State :=
  { s with mem := { s.mem with cxlPhys := mapSet s.mem.cxlPhys 0 port n } }

/-- LINK of a port. -/
def linkFld (port : Nat) : Fld := CXL_STAT_LINK (port / 2) (port % 2)

/-- Set a flag of CXL_ERR and report it (R487, R987). -/
def State.cxlErr (s : State) (port : Nat) (f : Fld) (sev : Nat) : State :=
  s.raise f (port / 2) 0x06 port 0 sev 0 (s.csr (CXL_STAT (port / 2) (port % 2)))

/-- The port and port-local address of a hub-local CXL offset (R467). -/
def State.cxlRoute (s : State) (h a : Nat) : Nat × Nat :=
  let cut (b : Nat) := (2 * h + a / 2 ^ b % 2, a / 2 ^ (b + 1) * 2 ^ b + a % 2 ^ b)
  match s.fld (CXL_INTLV_MODE h) with
  | 0 => if a < 2 ^ 36 then (2 * h, a) else (2 * h + 1, a - 2 ^ 36)
  | 1 => cut 8
  | 2 => cut 10
  | _ => cut 12

/-- IDE is as IDE_REQ requires (R472). -/
def State.ideOk (s : State) (port : Nat) : Bool :=
  !s.bit (CXL_CTL_IDE_REQ (port / 2) (port % 2)) || s.fld (CXL_STAT_IDE (port / 2) (port % 2)) = 1

/-- The port carries an access to a port-local address (R468, R472). -/
def State.cxlCarries (s : State) (x : Nat × Nat) : Bool :=
  x.2 < 2 ^ 30 * s.fld (CXL_STAT_CAP_GIB (x.1 / 2) (x.1 % 2)) && s.fld (linkFld x.1) = 2 && s.ideOk x.1

/-- Complete every outstanding request with ERR_TARGET (R473). -/
def State.cxlFlush (s : State) (port : Nat) : State :=
  (s.cxlOuts port).foldl (fun s o => s.send (.line (port / 2) o.addr .errTarget .none 0 0)) (s.setCxlOuts port [])

/-- Fence a port (R473). -/
def State.cxlFence (s : State) (port : Nat) : State := (s.cxlFlush port).setFld (linkFld port) 3

/-- A response with the Poison bit (R469). -/
def State.cxlPoison (s : State) (port : Nat) : State :=
  (s.satInc (CXL_CNT_POISON (port / 2) (port % 2))).cxlErr port (CXL_ERR_POISON_RX (port / 2) (port % 2)) sevDeferred

/-- A line of a device; what nothing has written reads as zeros (log entry 5). -/
def State.cxlAt (s : State) (x : Nat × Nat) : CxlLine := mapGet s.mem.cxl ⟨0, false⟩ (x.1 * 2 ^ 30 + x.2 / 64)

/-- A line read the MPE makes: MemRd out, the device's line back (R468, R469). -/
def State.cxlRead (s : State) (h a : Nat) : LineRes × State :=
  let x := s.cxlRoute h a
  if !s.cxlCarries x then (LineRes.bare .errTarget, s) else
  let v := s.cxlAt x
  let s1 := s.send (.cxl x.1 0 true x.2 0 0 false)
  if v.poison then (⟨.poison, .memUe, v.data, 0, false⟩, s1.cxlPoison x.1) else (⟨.ok, .none, v.data, 0, false⟩, s1)

/-- A line write the MPE makes: MemWr or MemWrPtl out, stored by the device; a poisoned half poisons the line, and a partial write
leaves a line's poison (R469, R470, log entry 27). -/
def State.cxlWrite (s : State) (h : Nat) (w : LineWrite) : Status × State :=
  let x := s.cxlRoute h w.addr.toNat
  if !s.cxlCarries x then (.errTarget, s) else
  let o := s.cxlAt x
  let full := w.mask = 0xFFFFFFFFFFFFFFFF#64
  let v : CxlLine := ⟨mergeBytes w.mask w.data o.data, w.poison ≠ 0 || (!full && o.poison)⟩
  let s1 := s.send (.cxl x.1 0 false x.2 w.mask w.data (w.poison ≠ 0))
  (.ok, { s1 with mem := { s1.mem with cxl := mapSet s1.mem.cxl ⟨0, false⟩ (x.1 * 2 ^ 30 + x.2 / 64) v } })

/-- CXL_REQUEST (R468-R470): a port takes a line request. -/
def execCxlRequest (hub : Fin 2) (tag : BitVec 16) (read : Bool) (w : LineWrite) (s : State) : Host.Outcome State Fault Refusal :=
  let x := s.cxlRoute hub w.addr.toNat
  .next (if (s.cxlOuts x.1).any (fun o => o.tag = tag.toNat) then s
    else if !s.cxlCarries x then s.send (.line hub w.addr.toNat .errTarget .none 0 0)
    else (s.setCxlOuts x.1 (s.cxlOuts x.1 ++ [⟨tag.toNat, w.addr.toNat⟩])).send
      (.cxl x.1 tag.toNat read x.2 (if read then 0 else w.mask) (if read then 0 else w.data) (!read && w.poison ≠ 0)))

/-- DRS (R469, R474): a DRS or NDR response of a port's device. -/
def execDrs (port : Fin 4) (tag : BitVec 16) (poison : Bool) (data : Line) (s : State) : Host.Outcome State Fault Refusal :=
  let p := port.val
  .next (match (s.cxlOuts p).find? (fun o => o.tag = tag.toNat) with
    | some o =>
      let s1 := s.setCxlOuts p ((s.cxlOuts p).filter (· ≠ o))
      let s2 := if poison then s1.cxlPoison p else s1
      s2.send (.line (p / 2) o.addr (if poison then .poison else .ok) (if poison then .memUe else .none) data 0)
    | none =>
      if s.cxlPhys p = 2 then
        (s.satInc (CXL_CNT_LATE (p / 2) (p % 2))).cxlErr p (CXL_ERR_LATE_RSP (p / 2) (p % 2)) sevUncorrected
      else s)

/-- CXL_LINK_DOWN (R473): the link of a port in use goes down, or IDE reports an integrity failure. -/
def execCxlLinkDown (port : Fin 4) (ide : Bool) (s : State) : Host.Outcome State Fault Refusal :=
  let p := port.val
  .next (if s.cxlPhys p ≠ 2 then s else
    let s1 := s.cxlFence p
    if ide then
      (s1.setFld (CXL_STAT_IDE (p / 2) (p % 2)) 2).cxlErr p (CXL_ERR_IDE_FAIL (p / 2) (p % 2)) sevUncorrected
    else (s1.setCxlPhys p 0).cxlErr p (CXL_ERR_LINK_DOWN (p / 2) (p % 2)) sevUncorrected)

/-- A port in training finds its device, or does not (R466). -/
def State.cxlTrained (s : State) (port : Nat) (t : CxlTrain) : State :=
  let h := port / 2
  let q := port % 2
  if s.cxlPhys port ≠ 1 then s else
  let fenced := s.fld (linkFld port) = 3
  if t.up then
    let s1 := ((s.setFld (CXL_STAT_WIDTH h q) t.width).setFld (CXL_STAT_SPEED h q) t.speed).setFld (CXL_STAT_IDE h q) t.ide.toNat
    let s2 := ((s1.setFld (CXL_STAT_CAP_GIB h q) (min t.gib 64)).setBit (CXL_STAT_TRUNC h q) (64 < t.gib)).setCxlPhys port 2
    if fenced then s2 else s2.setFld (linkFld port) 2
  else
    let s1 := (s.setFld (CXL_STAT_CAP_GIB h q) 0).setCxlPhys port 0
    (if fenced then s1 else s1.setFld (linkFld port) 0).cxlErr port (CXL_ERR_LINK_DOWN h q) sevUncorrected

/-- A port begins training (R466, R486). -/
def State.cxlTrain (s : State) (port : Nat) : State :=
  let s1 := (s.cxlFlush port).setCxlPhys port 1
  if s.fld (linkFld port) = 3 then s1 else s1.setFld (linkFld port) 1

/-- A write of CXL_CTL by Level S (R473, R486). -/
def State.cxlCtlWrite (s : State) (port : Nat) (value : Word) : State :=
  let h := port / 2
  let q := port % 2
  let was := s.bit (CXL_CTL_EN h q)
  let s1 := ((s.setFld (CXL_CTL_EN h q) (bitsOf value 0 1)).setFld (CXL_CTL_IDE_REQ h q) (bitsOf value 1 1)).setFld
    (CXL_CTL_FENCE h q) (bitsOf value 2 1)
  let s2 := if !was && value.getLsbD 0 then s1.cxlTrain port else s1
  if value.getLsbD 2 then (if s2.fld (linkFld port) = 2 then s2.cxlFence port else s2)
  else if s2.fld (linkFld port) = 3 && s2.cxlPhys port = 2 && s2.ideOk port then s2.setFld (linkFld port) 2
  else s2

/-- CXL_EN (R486): a write of CXL_CTL, where one is given, and the end of the training of the port with what it finds. -/
def execCxlEn (mid : BitVec 12) (port : Fin 4) (value : Option Word) (t : CxlTrain) (s : State) : Host.Outcome State Fault Refusal :=
  let p := port.val
  .next (match value with
    | none => s.cxlTrained p t
    | some v =>
      let key := CXL_CTL (p / 2) (p % 2)
      let s1 := levelSWrite s mid key fun s => s.cxlCtlWrite p v
      if s.levelS mid.toNat && s.regReached key then s1.cxlTrained p t else s1)

/-- CXL_FENCE_CLEAR (R473): a write of CXL_CTL. -/
def execCxlFenceClear (mid : BitVec 12) (port : Fin 4) (value : Word) (s : State) : Host.Outcome State Fault Refusal :=
  let p := port.val
  .next (levelSWrite s mid (CXL_CTL (p / 2) (p % 2)) fun s => s.cxlCtlWrite p value)

end Sys2Proof.Machine
end

