-- ==== Sys2Proof/Machine/Sram.lean ====
section
/-! DEFINITION. What the memory protection engine is built on: its registers and errors, the memory behind it, the stacked SRAM
(R494, R495), regions (R497-R499), keys (R506, R547) and the layout of counter nodes (R514-R518). -/

namespace Sys2Proof.Machine

open Sys2Proof

/-- A hub's engine. -/
def State.mpe (s : State) (h : Nat) : MpeSt := mapGet s.mem.mpe MpeSt.init h

/-- Change a hub's engine. -/
def State.setMpe (s : State) (h : Nat) (m : MpeSt) : State :=
  { s with mem := { s.mem with mpe := mapSet s.mem.mpe MpeSt.init h m } }

/-- Set a flag of MPE_ERR and report it (R563, R987). -/
def State.mpeErr (s : State) (h : Nat) (f : Fld) (sev : Nat) (inj : Bool := false) : State :=
  s.raise f h 0x07 (h * 2048) 0 sev (s.csr64 (MPE_ERR_LOC h)) (s.csr (MPE_CNT h)) inj

/-- Record an event: physical address, region, kind and level (R564). -/
def State.mpeLoc (s : State) (h a r kind level : Nat) : State :=
  s.setCsr64 (MPE_ERR_LOC h) (BitVec.ofNat 64 (a / 64 % 2 ^ 42 + r * 2 ^ 42 + kind * 2 ^ 46 + level * 2 ^ 50 + 2 ^ 63))

/-! ### Cached lines of the hub processors (R801, R802) -/

/-- Key of a line in the caches of a hub. -/
def cacheKey (h a : Nat) : Nat := h * 2 ^ 42 + a / 64

/-- The caches of hub `h` that hold the line of an address. -/
def State.cacheHolders (s : State) (h a : Nat) : BitVec 5 := mapGet s.cpu.lines 0 (cacheKey h a)

/-- Change which caches of hub `h` hold the line of an address. -/
def State.setHolders (s : State) (h a : Nat) (b : BitVec 5) : State :=
  { s with cpu := { s.cpu with lines := mapSet s.cpu.lines 0 (cacheKey h a) b } }

/-- The hub invalidates a line in its L2 and L1 caches (R802): no core of it keeps a reservation there. -/
def State.invalidate (s : State) (h a : Nat) : State :=
  let drop (_ : Nat) (x : HartSt) : HartSt := if x.reserved = some (cacheKey h a) then { x with reserved := none } else x
  { s with cpu := { s.cpu with harts := mapWith HartSt.zero drop s.cpu.harts } }.setHolders h a 0

/-! ### Memory (R4, R412) -/

/-- A physical address lies in CXL memory. -/
def inCxl (a : Nat) : Bool := 0x001000000000 ≤ a

/-- Hub-local offset of a DDR5 or CXL address (R412). -/
def memOffset (h a : Nat) : Nat :=
  if inCxl a then a - 0x001000000000 - 0x002000000000 * h else a - 0x000800000000 * h

/-- The address lies in memory installed or enumerated behind hub `h` (R5, R420, R468). -/
def State.installed (s : State) (h a : Nat) : Bool :=
  if inCxl a then
    0x001000000000 + 0x002000000000 * h ≤ a && a < 0x001000000000 + 0x002000000000 * (h + 1) && s.cxlCarries (s.cxlRoute h (memOffset h a))
  else 0x000800000000 * h ≤ a && a < 0x000800000000 * (h + 1) && (s.locate h (memOffset h a)).isSome

/-- Read the line at a physical address. -/
def State.memRead (s : State) (h a : Nat) (code : LineCode) : LineRes × State :=
  if inCxl a then s.cxlRead h (memOffset h a) else s.dmcRead h (memOffset h a) code

/-- Write the line at a physical address under a byte mask. -/
def State.memWrite (s : State) (h a : Nat) (mask : DWord) (data : Line) (mac : DWord) (poison : Bool) (code : LineCode) :
    Status × State :=
  let w : LineWrite := ⟨BitVec.ofNat 48 (memOffset h a), mask, data, mac, if poison then 3 else 0, code = .light⟩
  if inCxl a then s.cxlWrite h w else s.dmcWrite h w

/-- Write a whole line. -/
def State.memPut (s : State) (h a : Nat) (data : Line) (mac : DWord) (code : LineCode) : Status × State :=
  s.memWrite h a 0xFFFFFFFFFFFFFFFF#64 data mac false code

/-- Store a line marked MEM_UE (R533): the DMC's pattern, the Poison bit on CXL. -/
def State.memMark (s : State) (h a : Nat) (data : Line) (code : LineCode) : State :=
  if inCxl a then (s.memWrite h a 0xFFFFFFFFFFFFFFFF#64 data 0 true code).2 else s.dmcMark h (memOffset h a) data code

/-! ### Stacked SRAM (R494, R495) -/

/-- The stored burst of an SRAM line; what nothing has written reads as zeros (log entry 5). -/
def State.sramAt (s : State) (h n : Nat) : Burst := mapGet s.mem.sram 0 (2 ^ 22 * h + n)

/-- Store an SRAM line's burst, overwriting any injection there (R985). -/
def State.setSram (s : State) (h n : Nat) (b : Burst) : State :=
  { s with mem := { s.mem with sram := mapSet s.mem.sram 0 (2 ^ 22 * h + n) b } }.dropInjected 2 (2 ^ 22 * h + n)

/-- Store an SRAM line. -/
def State.sramPut (s : State) (h n : Nat) (l : Line) : State := s.setSram h n (strongEncode l)

/-- Read an SRAM line and act on what the decoder finds (R494). A user line found uncorrectable is recorded as kind SRAM_UE. -/
def State.sramRead (s : State) (h n : Nat) (user : Bool := false) : LineRes × State :=
  let o := strongDecode (s.sramAt h n)
  let inj := s.injectedAt 2 (2 ^ 22 * h + n)
  match o.kind with
  | .clean => (⟨.ok, .none, o.data, 0, false⟩, s)
  | .corrected _ => (⟨.ok, .none, o.data, 0, false⟩, (s.mpeErr h (MPE_ERR_SRAM_CE h) sevCorrected inj).sramPut h n o.data)
  | .poisoned p => (⟨.poison, p.reason, o.data, 0, false⟩, s)
  | .uncorrectable =>
    let s1 := s.setSram h n (strongPoison o.data .memUe)
    let s2 := if user then s1.mpeLoc h (0x008000000000 + 0x10000000 * h + n * 64) 0 6 7 else s1
    (⟨.poison, .memUe, o.data, 0, true⟩, s2.mpeErr h (MPE_ERR_SRAM_UE h) sevDeferred inj)

/-- Size of the reserved area in MiB as it acts (R565). -/
def State.rsvMib (s : State) (h : Nat) : Nat := min (max (s.fld (MPE_SRAM_CFG_RSV_MIB h)) 1) 64

/-- First line of the reserved area: it is the top of the SRAM (R495). -/
def State.rsvLine (s : State) (h : Nat) : Nat := 16384 * (256 - s.rsvMib h)

/-! ### Regions (R497-R499, R516-R518) -/

/-- BASE of a region. -/
def State.rgnBase (s : State) (h r : Nat) : Nat := (s.csr64 (MPE_RGN_BASE h r)).toNat

/-- SIZE_LOG2 of a region. -/
def State.rgnLog (s : State) (h r : Nat) : Nat := s.fld (MPE_RGN_CFG_SIZE_LOG2 h r)

/-- MODE of a region: 0 PLAIN, 1 ENC, 2 ENC_INT (R498). -/
def State.rgnMode (s : State) (h r : Nat) : Nat := s.fld (MPE_RGN_CFG_MODE h r)

/-- The code of a region's data lines; CXL memory takes no notice of it (R424, R499). -/
def State.rgnCode (s : State) (h r : Nat) : LineCode := if s.bit (MPE_RGN_CFG_CODE h r) then .light else .strong

/-- MACs are stored inline (R519). -/
def State.inlineMac (s : State) (h r : Nat) : Bool := s.bit (MPE_RGN_CFG_CODE h r) && !inCxl (s.rgnBase h r)

/-- log2 of the span of a node of level `lv` (R516). -/
def spanLog (lv : Nat) : Nat := 11 + 5 * lv

/-- Nodes of a region at a level (R516). -/
def nodesAt (log lv : Nat) : Nat := max 1 (2 ^ (log - spanLog lv))

/-- First line of a region's SRAM area (R518, R536). -/
def State.areaLine (s : State) (h r : Nat) : Nat := s.rsvLine h + s.fld (MPE_RGN_SRAM_SRAM_OFF h r) * 64

/-- Lines of a region's SRAM area: the nodes of levels 2 to 4, or the page-valid bitmap (R518, R536). -/
def areaLines (log mode : Nat) : Nat :=
  if mode = 2 then nodesAt log 2 + nodesAt log 3 + nodesAt log 4 else (2 ^ (log - 15) + 63) / 64

/-- The SRAM line of a node of levels 2 to 4 (R518). -/
def State.nodeLine (s : State) (h r lv k : Nat) : Nat :=
  let log := s.rgnLog h r
  s.areaLine h r + k + (if lv = 2 then 0 else if lv = 3 then nodesAt log 2 else nodesAt log 2 + nodesAt log 3)

/-- Metadata node index of a node of level 0 or 1 (R517). -/
def metaIndex (log lv k : Nat) : Nat := if lv = 0 then k else nodesAt log 0 + k

/-- META_BASE of a region. -/
def State.metaBase (s : State) (h r : Nat) : Nat := (s.csr64 (MPE_RGN_META h r)).toNat / 512 * 512

/-- The address of copy `c` of metadata node `q` (R517). -/
def State.metaAddr (s : State) (h r q c : Nat) : Nat :=
  let b := s.fld (MPE_RGN_META_MIR_BIT h r)
  s.metaBase h r + 64 * q / 2 ^ b * 2 ^ (b + 1) + c * 2 ^ b + 64 * q % 2 ^ b

/-- First address of a node's span. -/
def State.nodeAddr (s : State) (h r lv k : Nat) : Nat := s.rgnBase h r + k * 2 ^ spanLog lv

/-! ### Keys and epochs (R506, R547) -/

/-- A rekey runs on region `r`. -/
def State.rekeying (s : State) (h r : Nat) : Bool :=
  s.fld (MPE_RKEY_STAT_STATE h) = 1 && s.fld (MPE_RKEY_STAT_REGION h) = r

/-- EPOCH of a region. -/
def State.epoch (s : State) (h r : Nat) : Bool := s.bit (MPE_RGN_KEYS_EPOCH h r)

/-- The epoch by the rekey boundary: the next one below it, the current one elsewhere. -/
def State.epochAt (s : State) (h r a : Nat) : Bool :=
  s.epoch h r ^^ (s.rekeying h r && a < (s.csr64 (MPE_RKEY_POS h)).toNat)

/-- The epoch of a line of an ENC region: as by the boundary, and next for a line of the granule in progress that is done
(R547). -/
def State.encEpoch (s : State) (h r a : Nat) : Bool :=
  let pos := (s.csr64 (MPE_RKEY_POS h)).toNat
  s.epochAt h r a ^^ (s.rekeying h r && pos ≤ a && a < pos + 4096 && (s.mpe h).granule.getLsbD ((a - pos) / 64))

/-- The key pair an epoch selects (R547): K1 and K2. -/
def State.keysFor (s : State) (h r : Nat) (ep : Bool) : List Byte × List Byte :=
  let slot := if ep = s.epoch h r then s.fld (MPE_RGN_KEYS_KEY_CUR h r) else s.fld (MPE_RGN_KEYS_KEY_NEXT h r)
  let k := mapGet (s.mpe h).keys 0 slot
  (bytesOf (k.extractLsb' 0 256) 32, bytesOf (k.extractLsb' 256 256) 32)

/-! ### Counter nodes (R514) -/

/-- Replace bits [lo + w - 1 : lo] of a line. -/
def lineSet (n : Line) (lo w v : Nat) : Line :=
  let m := BitVec.ofNat 512 ((2 ^ w - 1) * 2 ^ lo)
  (n &&& ~~~m) ||| (BitVec.ofNat 512 (v * 2 ^ lo) &&& m)

/-- MAJOR of a node. -/
def nodeMajor (n : Line) : Nat := bitsOf n 0 32

/-- MINOR of an entry. -/
def nodeMinor (n : Line) (e : Nat) : Nat := bitsOf n (32 + 13 * e) 12

/-- EP of an entry. -/
def nodeEp (n : Line) (e : Nat) : Bool := n.getLsbD (32 + 13 * e + 12)

/-- NMAC of a node. -/
def nodeMac (n : Line) : DWord := n.extractLsb' 448 64

/-- Set MAJOR. -/
def setMajor (n : Line) (v : Nat) : Line := lineSet n 0 32 v

/-- Set MINOR of an entry. -/
def setMinor (n : Line) (e v : Nat) : Line := lineSet n (32 + 13 * e) 12 v

/-- Set EP of an entry. -/
def setEp (n : Line) (e : Nat) (v : Bool) : Line := lineSet n (32 + 13 * e + 12) 1 v.toNat

/-- Set NMAC. -/
def setMac (n : Line) (v : DWord) : Line := lineSet n 448 64 v.toNat

/-- The LOST marker (R515). -/
def lostMark : Nat := 4095

/-- A node's MAC under its parent's counters and epoch (R513): level, index and the parent's entry. -/
def State.nodeTag (s : State) (h r lv k : Nat) (major minor : Nat) (ep : Bool) (n : Line) : DWord :=
  let line := if lv ≤ 1 then metaIndex (s.rgnLog h r) lv k else k
  lineMac (s.keysFor h r ep).2 (counterBlock 0 minor major line r (2 + lv)) (setMac n 0)

/-- A node's MAC under its parent node (R513). -/
def State.nodeTagIn (s : State) (h r lv k : Nat) (parent n : Line) : DWord :=
  s.nodeTag h r lv k (nodeMajor parent) (nodeMinor parent (k % 32)) (nodeEp parent (k % 32)) n

/-- A major counter is stored in the region: MAJ_HIGH, or the highest one under the next key where the span lies below the rekey
boundary (R534, R551). -/
def State.noteMajor (s : State) (h r a major : Nat) : State :=
  if s.epochAt h r a ≠ s.epoch h r then
    let m := s.mpe h
    if m.newHigh.toNat < major then s.setMpe h { m with newHigh := BitVec.ofNat 32 major } else s
  else if (s.csr (MPE_RGN_MAJ h r)).toNat < major then
    let s1 := s.setCsr (MPE_RGN_MAJ h r) (BitVec.ofNat 32 major)
    if 0xFFFFF000 ≤ major && !s.bit (MPE_RGN_STAT_REKEY_DUE h r) then
      (s1.setFld (MPE_RGN_STAT_REKEY_DUE h r) 1).mpeErr h (MPE_ERR_REKEY_DUE h) sevUncorrected
    else s1
  else s

end Sys2Proof.Machine
end

