-- ==== Sys2Proof/Machine/Tree.lean ====
section
/-! DEFINITION. The counter tree of ENC_INT regions (R514-R526, R532-R535): fetching, storing and advancing nodes, the node cache,
rebuilding. Level 5 stands for the root. -/

namespace Sys2Proof.Machine

open Sys2Proof

/-! ### Node cache (R520) -/

/-- The cached node or MAC-table line, if any. -/
def State.cached (s : State) (h r lv k : Nat) : Option CacheEnt :=
  (s.mpe h).cache.find? fun e => e.region = r && e.level = lv && e.index = k

/-- Put a line into the cache, in place of the one it holds. -/
def State.cachePut (s : State) (h r lv k : Nat) (n : Line) (dirty : Bool) : State :=
  let m := s.mpe h
  let e : CacheEnt := ⟨r, lv, k, n, dirty, false⟩
  match s.cached h r lv k with
  | some _ => s.setMpe h { m with cache := m.cache.map fun x => if x.region = r && x.level = lv && x.index = k then e else x }
  | none => s.setMpe h { m with cache := m.cache ++ [e] }

/-- A place of the cache. -/
def CacheEnt.atPlace (e : CacheEnt) (r lv k : Nat) : Bool := e.region = r && e.level = lv && e.index = k

/-- Drop cached lines. -/
def State.cacheDrop (s : State) (h : Nat) (p : CacheEnt → Bool) : State :=
  let m := s.mpe h
  s.setMpe h { m with cache := m.cache.filter fun e => !p e }

/-! ### Nodes -/

/-- A node of levels 2 to 5 as it is stored. -/
def State.rawNode (s : State) (h r lv k : Nat) : Line :=
  if lv = 5 then mapGet (s.mpe h).roots 0 r else (strongDecode (s.sramAt h (s.nodeLine h r lv k))).data

/-- Store a changed node: the root in its registers, an SRAM node with a new NMAC (R522), a memory node in the cache (R520). -/
def State.putNode (s : State) (h r lv k : Nat) (n : Line) : State :=
  if lv = 5 then s.setMpe h { s.mpe h with roots := mapSet (s.mpe h).roots 0 r n }
  else if 2 ≤ lv then
    s.sramPut h (s.nodeLine h r lv k) (setMac n (s.nodeTagIn h r lv k (s.rawNode h r (lv + 1) (k / 32)) n))
  else s.cachePut h r lv k n true

/-- Write both copies of a memory node (R520). -/
def State.writeCopies (s : State) (h r lv k : Nat) (n : Line) : State :=
  let q := metaIndex (s.rgnLog h r) lv k
  ((s.memPut h (s.metaAddr h r q 0) n 0 .strong).2.memPut h (s.metaAddr h r q 1) n 0 .strong).2

/-- What looking for a node finds: a LOST entry above it, a 0 entry above it, the node, or two copies that both fail. -/
inductive NodeRes where
  | lost
  | fresh
  | node (n : Line)
  | broken
  deriving DecidableEq, Repr

/-- `f` of the node found, `s` where there is none. -/
def NodeRes.elimNode (s : State) (f : Line → State) : NodeRes → State
  | .node n => f n
  | .fresh | .lost | .broken => s

/-- Fetch a memory node from memory under its parent node (R525). -/
def State.fetchStored (s : State) (h r lv k : Nat) (parent : Line) : NodeRes × State :=
  let minor := nodeMinor parent (k % 32)
  if minor = lostMark then (.lost, s) else if minor = 0 then (.fresh, s) else
  let q := metaIndex (s.rgnLog h r) lv k
  let good (x : LineRes) : Bool := x.status = .ok && nodeMac x.data = s.nodeTagIn h r lv k parent x.data
  let a := s.metaAddr h r q 0
  let b := s.metaAddr h r q 1
  let inj := s.injectedAt 3 (2 ^ 48 * h + a) || s.injectedAt 3 (2 ^ 48 * h + b)
  let r0 := s.memRead h a .strong
  if good r0.1 then (.node r0.1.data, r0.2.cachePut h r lv k r0.1.data false)
  else
    let s1 := r0.2.dropInjected 3 (2 ^ 48 * h + a)
    let r1 := s1.memRead h b .strong
    if good r1.1 then
      let s2 := ((r1.2.memPut h a r1.1.data 0 .strong).2.satInc (MPE_CNT_NODE h)).mpeLoc h (s.nodeAddr h r lv k) r 1 lv
      (.node r1.1.data, (s2.mpeErr h (MPE_ERR_NODE_REPAIR h) sevCorrected inj).cachePut h r lv k r1.1.data false)
    else (.broken, r1.2.dropInjected 3 (2 ^ 48 * h + b))

/-- Drop the cached node at a place: its uncorrectable error is found (R528). The drop of a clean node is recorded and counted as a
repair of the node, without a flag (log entry 110). -/
def State.dropBad (s : State) (h r lv k : Nat) (dirty : Bool) : State :=
  let s1 := s.cacheDrop h fun e => e.atPlace r lv k
  if dirty then s1 else (s1.satInc (MPE_CNT_NODE h)).mpeLoc h (s1.nodeAddr h r lv k) r 1 lv

/-- A memory node under its parent node: from the cache, unless it holds an uncorrectable error there (R528): a clean node is then
fetched again, a dirty one is broken; else from memory (R525). -/
def State.fetchNode (s : State) (h r lv k : Nat) (parent : Line) : NodeRes × State :=
  match s.cached h r lv k with
  | none => s.fetchStored h r lv k parent
  | some e =>
    if !e.bad then (.node e.line, s)
    else if e.dirty then (.broken, s.dropBad h r lv k true)
    else (s.dropBad h r lv k false).fetchStored h r lv k parent

/-- Count a LOST marker and record the node it stands for (R525, R526, R564, R566). -/
def State.noteLost (s : State) (h r lv a : Nat) : State :=
  ((s.satInc (MPE_RGN_STAT_LOST_CNT h r)).mpeLoc h a r 3 lv).mpeErr h (MPE_ERR_INTEG_LOST h) sevUncorrected

/-- Set the parent entry of node `k` of level `lv` to LOST; `parent` is the node above it. -/
def State.setLost (s : State) (h r lv k : Nat) (parent : Line) : State :=
  (s.putNode h r (lv + 1) (k / 32) (setMinor parent (k % 32) lostMark)).noteLost h r lv (s.nodeAddr h r lv k)

/-- First address of the span of child `e` of a node. -/
def State.childAddr (s : State) (h r lv k e : Nat) : Nat := s.nodeAddr h r lv k + e * 2 ^ (spanLog lv - 5)

/-- A memory node stored for the first time: its major is MAJ_FLOOR (R532), its entries hold 0 and the epoch of the rekey
boundary (log entry 28). -/
def State.freshNode (s : State) (h r lv k : Nat) : Line :=
  (List.range 32).foldl (fun n e => setEp n e (s.epochAt h r (s.childAddr h r lv k e)))
    (BitVec.ofNat 512 (s.csr (MPE_RGN_FLOOR h r)).toNat)

/-! ### Advancing an entry of an SRAM node or the root (R521, R533) -/

/-- Re-MAC the SRAM children of a node of levels 3 to 5 under its counters; a child that holds nothing has no MAC. -/
def State.remacSram (s : State) (h r lv k : Nat) : State :=
  (List.range 32).foldl (fun s e =>
    let c := 32 * k + e
    let n := s.rawNode h r (lv - 1) c
    if c < nodesAt (s.rgnLog h r) (lv - 1) && n ≠ 0 && nodeMinor (s.rawNode h r lv k) e ≠ lostMark then s.putNode h r (lv - 1) c n
    else s) s

/-- Write a memory child back under new counters of its parent: `old` and `new` are the parent before and after; a child that
cannot be verified is LOST in the parent. Answers the parent. -/
def State.remacChild (s : State) (h r lv k : Nat) (old new : Line) : Line × State :=
  let x := s.fetchNode h r lv k old
  match x.1 with
  | .node n => (new, x.2.writeCopies h r lv k (setMac n (x.2.nodeTagIn h r lv k new n)))
  | .fresh => (new, x.2)
  | .lost | .broken => (setMinor new (k % 32) lostMark, x.2.noteLost h r lv (s.nodeAddr h r lv k))

/-- The node with its major counter advanced: entries holding 1 to 4094 become 1 (R533). -/
def majorNext (n : Line) : Line :=
  (List.range 32).foldl (fun n e => if 1 ≤ nodeMinor n e && nodeMinor n e ≤ 4094 then setMinor n e 1 else n)
    (setMajor n (nodeMajor n + 1))

/-- Re-MAC the memory children of a node whose major has advanced, but for child `skip`. -/
def State.remacMem (s : State) (h r lv k skip : Nat) (old : Line) : List Nat → Line → Line × State
  | [], new => (new, s)
  | e :: es, new =>
    if e = skip || nodeMinor old e = 0 || nodeMinor old e = lostMark then s.remacMem h r lv k skip old es new
    else
      let x := s.remacChild h r (lv - 1) (32 * k + e) old new
      x.2.remacMem h r lv k skip old es x.1

/-- Advance entry `e` of node `k` of level 5 - `n`, a level from 2 to 5 (R521, R533). The first advance of an entry of an L2 node
gives it the epoch of the rekey boundary. -/
def State.advance (s : State) (h r : Nat) : Nat → Nat → Nat → State
  | 0, k, e =>
    let o := s.rawNode h r 5 k
    if nodeMinor o e = lostMark then s
    else if nodeMinor o e < 4094 then s.putNode h r 5 k (setMinor o e (nodeMinor o e + 1))
    else ((s.noteMajor h r (s.nodeAddr h r 5 k) (nodeMajor o + 1)).putNode h r 5 k (majorNext o)).remacSram h r 5 k
  | n + 1, k, e =>
    let lv := 4 - n
    let o := s.rawNode h r lv k
    if nodeMinor o e = lostMark then s
    else if nodeMinor o e < 4094 then
      let o' := if lv = 2 && nodeMinor o e = 0 then setEp o e (s.epochAt h r (s.childAddr h r lv k e)) else o
      s.putNode h r lv k (setMinor o' e (nodeMinor o e + 1))
    else
      let s1 := (s.noteMajor h r (s.nodeAddr h r lv k) (nodeMajor o + 1)).advance h r n (k / 32) (k % 32)
      if lv = 2 then
        let x := s1.remacMem h r 2 k e o (List.range 32) (majorNext o)
        x.2.putNode h r 2 k x.1
      else (s1.putNode h r lv k (majorNext o)).remacSram h r lv k

/-! ### Rebuilding an L2 node (R526) -/

/-- One child of an L2 node under rebuild: a cached child, or one whose two copies decode and are identical, is taken; any other is
LOST. Answers the node. -/
def State.rebuildChild (s : State) (h r k e : Nat) (n : Line) : Line × State :=
  let c := 32 * k + e
  let lost (s : State) : Line × State := (setMinor n e lostMark, s.noteLost h r 1 (s.nodeAddr h r 1 c))
  let take (s : State) (child : Line) : Line × State :=
    let n' := setEp (setMinor n e 1) e (s.epochAt h r (s.childAddr h r 2 k e))
    (n', s.writeCopies h r 1 c (setMac child (s.nodeTagIn h r 1 c n' child)))
  if nodesAt (s.rgnLog h r) 1 ≤ c then (n, s) else
  let copies (s : State) : Line × State :=
    let q := metaIndex (s.rgnLog h r) 1 c
    let r0 := s.memRead h (s.metaAddr h r q 0) .strong
    let r1 := r0.2.memRead h (s.metaAddr h r q 1) .strong
    if r0.1.status = .ok && r1.1.status = .ok && r0.1.data = r1.1.data then take r1.2 r0.1.data else lost r1.2
  match s.cached h r 1 c with
  | some x =>
    if !x.bad then take s x.line
    else if x.dirty then lost (s.dropBad h r 1 c true)
    else copies (s.dropBad h r 1 c false)
  | none => copies s

/-- The children of an L2 node under rebuild. -/
def State.rebuildAll (s : State) (h r k : Nat) : List Nat → Line → Line × State
  | [], n => (n, s)
  | e :: es, n =>
    let x := s.rebuildChild h r k e n
    x.2.rebuildAll h r k es x.1

/-- Rebuild an L2 node (R526). -/
def State.rebuild (s : State) (h r k : Nat) : Line × State :=
  let maj := (s.csr (MPE_RGN_MAJ h r)).toNat + 1
  let s1 := (s.noteMajor h r (s.nodeAddr h r 2 k) maj).setCsr (MPE_RGN_MAJ h r) (BitVec.ofNat 32 maj)
  let x := s1.rebuildAll h r k (List.range 32) (BitVec.ofNat 512 maj)
  let s2 := ((x.2.advance h r 2 (k / 32) (k % 32)).putNode h r 2 k x.1).satInc (MPE_CNT_NODE h)
  (x.1, (s2.mpeLoc h (s.nodeAddr h r 2 k) r 2 2).mpeErr h (MPE_ERR_NODE_REBUILT h) sevUncorrected)

/-- An SRAM node is uncorrectable (R526): L3 and L4 are LOST, L2 is rebuilt unless no major counter is left (log entry 28). -/
def State.badSram (s : State) (h r lv k : Nat) (parent : Line) : NodeRes × State :=
  if lv = 2 ∧ (s.csr (MPE_RGN_MAJ h r)).toNat < 0xFFFFFFFF then
    let x := s.rebuild h r k
    (.node x.1, x.2)
  else (.lost, s.setLost h r lv k parent)

/-! ### Walking the tree (R522, R524, R525) -/

/-- Node `k` of level `lv` below the root, given the answer for its parent. -/
def State.childNode (s : State) (h r lv k : Nat) : NodeRes → NodeRes × State
  | .node p =>
    if nodeMinor p (k % 32) = lostMark then (.lost, s)
    else if 2 ≤ lv then
      let x := s.sramRead h (s.nodeLine h r lv k)
      if x.1.status = .ok then (.node x.1.data, x.2) else x.2.badSram h r lv k p
    else
      let y := s.fetchNode h r lv k p
      if y.1 = .broken then (.lost, y.2.setLost h r lv k p) else y
  | .fresh => match s.cached h r lv k with
    | none => (.fresh, s)
    | some e => if !e.bad then (.node e.line, s)
        else (.lost, (s.dropBad h r lv k true).setLost h r lv k (s.freshNode h r (lv + 1) (k / 32)))
  | .lost | .broken => (.lost, s)

/-- Node `k` of level 5 - `n`, from the root down. -/
def State.getNode (s : State) (h r : Nat) : Nat → Nat → NodeRes × State
  | 0, k => (.node (s.rawNode h r 5 k), s)
  | n + 1, k =>
    let x := s.getNode h r n (k / 32)
    x.2.childNode h r (4 - n) k x.1

/-- The L0 node of a line index. -/
def State.lineNode (s : State) (h r i : Nat) : NodeRes × State := s.getNode h r 5 (i / 32)

/-! ### Writing nodes back (R520, R521) -/

/-- Advance the L1 entry of L0 node `k` (R521, R533): the L1 node after, none where it is LOST. -/
def State.advanceL1 (s : State) (h r k : Nat) : Option Line × State :=
  let e := k % 32
  let step (p : Line) (s : State) : Option Line × State :=
    if nodeMinor p e = lostMark then (none, s)
    else if nodeMinor p e < 4094 then
      let p' := if nodeMinor p e = 0 then setEp p e (s.epochAt h r (s.nodeAddr h r 0 k)) else p
      let p'' := setMinor p' e (nodeMinor p e + 1)
      (some p'', s.putNode h r 1 (k / 32) p'')
    else
      let s1 := s.noteMajor h r (s.nodeAddr h r 1 (k / 32)) (nodeMajor p + 1)
      let x := s1.remacMem h r 1 (k / 32) e p (List.range 32) (majorNext p)
      (some x.1, x.2.putNode h r 1 (k / 32) x.1)
  let x := s.getNode h r 4 (k / 32)
  match x.1 with
  | .node p => step p x.2
  | .fresh => step (x.2.freshNode h r 1 (k / 32)) x.2
  | .lost | .broken => (none, x.2)

/-- Address of a line of a region's MAC table (R519). -/
def State.macLineAddr (s : State) (h r n : Nat) : Nat := (s.csr64 (MPE_RGN_MACB h r)).toNat / 64 * 64 + 64 * n

/-- A dirty node that holds an uncorrectable error is dropped, and its parent's entry is LOST (R528). -/
def State.loseDirty (s : State) (h r lv k : Nat) : State :=
  let s1 := s.dropBad h r lv k true
  let x := s1.getNode h r (4 - lv) (k / 32)
  match x.1 with
  | .node p => x.2.setLost h r lv k p
  | .fresh => x.2.setLost h r lv k (x.2.freshNode h r (lv + 1) (k / 32))
  | .lost | .broken => x.2

/-- Write a dirty cached line back: both copies of a node under its parent's advanced counters, or a line of the MAC table (R519-R521);
a node that holds an uncorrectable error has nothing to write back (R528). -/
def State.writeBack (s : State) (h : Nat) (e : CacheEnt) : State :=
  let r := e.region
  let k := e.index
  if !e.dirty then s
  else if e.bad then s.loseDirty h r e.level k
  else if e.level = 7 then ((s.memPut h (s.macLineAddr h r k) e.line 0 .strong).2).cachePut h r 7 k e.line false
  else if e.level = 1 then
    if nodeMinor (s.rawNode h r 2 (k / 32)) (k % 32) = lostMark then s.cachePut h r 1 k e.line false else
    let s1 := s.advance h r 3 (k / 32) (k % 32)
    let n := setMac e.line (s1.nodeTagIn h r 1 k (s1.rawNode h r 2 (k / 32)) e.line)
    ((s1.writeCopies h r 1 k n).noteMajor h r (s.nodeAddr h r 1 k) (nodeMajor n)).cachePut h r 1 k n false
  else
    let x := s.advanceL1 h r k
    match x.1 with
    | some p =>
      let n := setMac e.line (x.2.nodeTagIn h r 0 k p e.line)
      ((x.2.writeCopies h r 0 k n).noteMajor h r (s.nodeAddr h r 0 k) (nodeMajor n)).cachePut h r 0 k n false
    | none => x.2.cachePut h r 0 k e.line false

/-- Write back every dirty line the cache holds of level `lv` that `p` names. -/
def State.flushLevel (s : State) (h lv : Nat) (p : CacheEnt → Bool) : State :=
  ((s.mpe h).cache.filter (fun e => e.level = lv && p e)).foldl (fun s e => s.writeBack h e) s

/-- Write back every dirty line that `p` names: L0 nodes before L1 nodes, since writing one back changes its parent. -/
def State.flushCache (s : State) (h : Nat) (p : CacheEnt → Bool) : State :=
  ((s.flushLevel h 7 p).flushLevel h 0 p).flushLevel h 1 p

/-- Evict the oldest lines until the cache holds 2,048 (R520, log entry 29). -/
def State.trim (s : State) (h : Nat) : Nat → State
  | 0 => s
  | n + 1 =>
    if (s.mpe h).cache.length ≤ 2048 then s else
    match (s.mpe h).cache with
    | [] => s
    | e :: _ => ((s.writeBack h e).cacheDrop h (fun x => x.region = e.region && x.level = e.level && x.index = e.index)).trim h n

/-- Some node on a line's path cannot absorb one more advance (R535). -/
def State.pathFull (s : State) (h r i : Nat) (l0 : Line) : Bool :=
  let full (n : Line) (e : Nat) : Bool := nodeMajor n = 0xFFFFFFFF && nodeMinor n e = 4094
  let l1 := match (s.getNode h r 4 (i / 1024)).1 with
    | .node n => full n (i / 32 % 32)
    | .fresh | .lost | .broken => false
  full l0 (i % 32) || l1 || (List.range 4).any fun j =>
    full (s.rawNode h r (2 + j) (i / 2 ^ (5 * (2 + j) + 5))) (i / 2 ^ (5 * (2 + j)) % 32)

end Sys2Proof.Machine
end

