-- ==== Sys2Proof/Machine/Mpe.lean ====
section
/-! DEFINITION. Lines and requests of the memory protection engine (R489-R495, R510-R512, R524, R527, R533-R545): reading and
writing a line in each mode, the page-valid bitmap, write-combining, and serving a ring request. -/

namespace Sys2Proof.Machine

open Sys2Proof

/-! ### Lines of an ENC_INT region -/

/-- The address of line `i` of a region. -/
def State.lineAddr (s : State) (h r i : Nat) : Nat := s.rgnBase h r + 64 * i

/-- The line of the MAC table that holds line `i`'s MAC, from the cache or memory (R519, R520); none where memory returns it poisoned or
not at all. -/
def State.macLine (s : State) (h r i : Nat) : Option Line × State :=
  match s.cached h r 7 (i / 8) with
  | some e => (some e.line, s)
  | none =>
    let x := s.memRead h (s.macLineAddr h r (i / 8)) .strong
    if x.1.status = .ok then (some x.1.data, x.2.cachePut h r 7 (i / 8) x.1.data false) else (none, x.2)

/-- The stored MAC of a line, if it can be read: inline, or in the MAC table (R519). -/
def State.storedMac (s : State) (h r i : Nat) (inlined : DWord) : Option DWord × State :=
  if s.inlineMac h r then (some inlined, s)
  else
    let x := s.macLine h r i
    (x.1.map fun l => l.extractLsb' (64 * (i % 8)) 64, x.2)

/-- Store a line's ciphertext with its MAC (R512, R519). In a line of the MAC table that cannot be read, the other MACs are then free
values (log entry 111). -/
def State.putCipher (s : State) (h r i : Nat) (c : Line) (mac : DWord) (poison : Bool) : Status × State :=
  let x := s.memWrite h (s.lineAddr h r i) 0xFFFFFFFFFFFFFFFF#64 c (if s.inlineMac h r then mac else 0) poison (s.rgnCode h r)
  if x.1 ≠ .ok || s.inlineMac h r || poison then x
  else
    let y := x.2.macLine h r i
    let z := match y.1 with
      | some l => (l, y.2)
      | none => y.2.free
    (.ok, z.2.cachePut h r 7 (i / 8) (lineSet z.1 (64 * (i % 8)) 64 mac.toNat) true)

/-- The MAC of a ciphertext line under its counters (R511, R512). -/
def State.cipherMac (s : State) (h r i : Nat) (minor major : Nat) (ep : Bool) (c : Line) : DWord :=
  lineMac (s.keysFor h r ep).2 (counterBlock 0 minor major (s.lineAddr h r i / 64) r 1) c

/-- Encrypt a line under its counters and store it. -/
def State.putCounter (s : State) (h r i : Nat) (minor major : Nat) (ep : Bool) (d : Line) (poison : Bool) : Status × State :=
  let c := ctrLine (s.keysFor h r ep).1 minor major (s.lineAddr h r i / 64) r d
  s.putCipher h r i c (s.cipherMac h r i minor major ep c) poison

/-- Read a stored line under its counters and check its MAC (R527). `cipher` asks for the stored bytes without decryption or MAC
check (R555, R556). The last answer says whether the MAC failed. -/
def State.readCounter (s : State) (h r i : Nat) (minor major : Nat) (ep cipher : Bool) : LineRes × Bool × State :=
  let x := s.memRead h (s.lineAddr h r i) (s.rgnCode h r)
  if x.1.status ≠ .ok || cipher then (x.1, false, x.2) else
  let m := x.2.storedMac h r i x.1.mac
  let d := ctrLine (s.keysFor h r ep).1 minor major (s.lineAddr h r i / 64) r x.1.data
  if m.1 = some (s.cipherMac h r i minor major ep x.1.data) then ({ x.1 with data := d }, false, m.2)
  else ({ x.1 with status := .poison, rsn := .integLost, data := d }, true, m.2)

/-- A line's MAC did not match (R527, R533). -/
def State.macFail (s : State) (h r i : Nat) : State :=
  let key := 3 * 2 ^ 60 + 2 ^ 48 * h + s.lineAddr h r i
  let inj := s.injectedAt 3 key
  (((s.dropInjected 3 key).satInc (MPE_CNT_MAC_FAIL h)).mpeLoc h (s.lineAddr h r i) r 0 7).mpeErr h (MPE_ERR_MAC_FAIL h) sevDeferred inj

/-- A line that could not be re-encrypted is stored with the MEM_UE pattern and counted as MAC_FAIL (R533). -/
def State.markLine (s : State) (h r i : Nat) (d : Line) : State :=
  (s.memMark h (s.lineAddr h r i) d (s.rgnCode h r)).macFail h r i

/-- Re-encrypt a written line from one set of counters to another (R533, R548): poisoned stays poisoned. -/
def State.recrypt (s : State) (h r i : Nat) (minor major : Nat) (ep : Bool) (minor' major' : Nat) (ep' : Bool) : State :=
  let x := s.readCounter h r i minor major ep false
  if x.1.ue || x.2.1 then x.2.2.markLine h r i x.1.data
  else if x.1.status = .ok then (x.2.2.putCounter h r i minor' major' ep' x.1.data false).2
  else x.2.2

/-- Re-encrypt every other written line of an L0 node whose major advances to the next value (R533). -/
def State.recryptNode (s : State) (h r i : Nat) (n : Line) : State :=
  (List.range 32).foldl (fun s e =>
    let m := nodeMinor n e
    if e = i % 32 || m = 0 || m = lostMark then s
    else s.recrypt h r (i / 32 * 32 + e) m (nodeMajor n) (nodeEp n e) 1 (nodeMajor n + 1) (nodeEp n e)) s

/-- A line of an ENC_INT region in plaintext, or as stored (R524, R527, R556). -/
def State.readInt (s : State) (h r i : Nat) (cipher : Bool) : LineRes × State :=
  let q := s.lineNode h r i
  match q.1 with
  | .node n =>
    let m := nodeMinor n (i % 32)
    if m = lostMark then
      let v := q.2.free
      (⟨.poison, .integLost, v.1, 0, false⟩, v.2)
    else if m = 0 then (⟨.ok, .none, 0, 0, false⟩, q.2)
    else
      let x := q.2.readCounter h r i m (nodeMajor n) (nodeEp n (i % 32)) cipher
      (x.1, if x.2.1 then x.2.2.macFail h r i else x.2.2)
  | .fresh => (⟨.ok, .none, 0, 0, false⟩, q.2)
  | .lost | .broken =>
    let v := q.2.free
    (⟨.poison, .integLost, v.1, 0, false⟩, v.2)

/-- A write refused because a counter is exhausted (R535). -/
def State.ctrExhausted (s : State) (h r i : Nat) : State :=
  ((s.setFld (MPE_RGN_STAT_CTR_EXH h r) 1).mpeLoc h (s.lineAddr h r i) r 5 7).mpeErr h (MPE_ERR_CTR_EXH h) sevUncorrected

/-- Store a whole line in an ENC_INT region: its entry advances (R511, R521, R524, R533, R535). -/
def State.storeInt (s : State) (h r i : Nat) (d : Line) (poison : Bool) : Status × State :=
  let e := i % 32
  let put (n : Line) (s : State) : Status × State :=
    let m := nodeMinor n e
    if m = lostMark then (.errTarget, s)
    else if s.pathFull h r i n then (.errTarget, s.ctrExhausted h r i)
    else if m < 4094 then
      let ep := if m = 0 then s.epochAt h r (s.lineAddr h r i) else nodeEp n e
      let x := s.putCounter h r i (m + 1) (nodeMajor n) ep d poison
      if x.1 = .ok then
        (.ok, (x.2.putNode h r 0 (i / 32) (setEp (setMinor n e (m + 1)) e ep)).noteMajor h r (s.lineAddr h r i) (nodeMajor n))
      else x
    else
      let s1 := s.recryptNode h r i n
      let x := s1.putCounter h r i 1 (nodeMajor n + 1) (nodeEp n e) d poison
      (x.1, (x.2.putNode h r 0 (i / 32) (majorNext n)).noteMajor h r (s.lineAddr h r i) (nodeMajor n + 1))
  let x := s.lineNode h r i
  match x.1 with
  | .node n => put n x.2
  | .fresh => put (x.2.freshNode h r 0 (i / 32)) x.2
  | .lost | .broken => (.errTarget, x.2)

/-! ### Page-valid bitmap (R536-R539) -/

/-- The SRAM line of a page's bit. -/
def State.bitmapLine (s : State) (h r page : Nat) : Nat := s.areaLine h r + page / 512

/-- The bitmap line of a page; an uncorrectable one is taken as all ones and rewritten (R539). -/
def State.bitmap (s : State) (h r page : Nat) : Line × State :=
  let n := s.bitmapLine h r page
  let x := s.sramRead h n
  if x.1.status = .ok then (x.1.data, x.2)
  else
    let all : Line := BitVec.allOnes 512
    let s1 := (x.2.sramPut h n all).mpeLoc h (s.rgnBase h r + page / 512 * 512 * 4096) r 4 7
    (all, s1.mpeErr h (MPE_ERR_BITMAP_UE h) sevUncorrected)

/-- The stored form of a line of a PLAIN or ENC region (R498, R510). -/
def State.encLine (s : State) (h r a : Nat) (d : Line) : Line :=
  if s.rgnMode h r = 1 then
    let k := s.keysFor h r (s.encEpoch h r a)
    xtsEncrypt k.1 k.2 a d
  else d

/-- A line of a PLAIN or ENC region in plaintext, or as stored (R510, R537, R556). -/
def State.readPage (s : State) (h r i : Nat) (cipher : Bool) : LineRes × State :=
  let a := s.lineAddr h r i
  let b := s.bitmap h r (i / 64)
  if !b.1.getLsbD (i / 64 % 512) then (⟨.ok, .none, 0, 0, false⟩, b.2) else
  let x := b.2.memRead h a (s.rgnCode h r)
  if s.rgnMode h r = 1 && !cipher then
    let k := s.keysFor h r (s.encEpoch h r a)
    ({ x.1 with data := xtsDecrypt k.1 k.2 a x.1.data }, x.2)
  else x

/-- The first write to an invalid page: zero in every other line, the write merged into zero, the page's bit (R538). -/
def State.firstWrite (s : State) (h r i : Nat) (mask : DWord) (d : Line) (poison : Bool) : Status × State :=
  let page := i / 64
  let s1 := (List.range 64).foldl (fun s j =>
    if page * 64 + j = i then s
    else (s.memPut h (s.lineAddr h r (page * 64 + j)) (s.encLine h r (s.lineAddr h r (page * 64 + j)) 0) 0 (s.rgnCode h r)).2) s
  let a := s.lineAddr h r i
  let x := s1.memWrite h a 0xFFFFFFFFFFFFFFFF#64 (s.encLine h r a (mergeBytes mask d 0)) 0 poison (s.rgnCode h r)
  let b := x.2.bitmap h r page
  (x.1, b.2.sramPut h (s.bitmapLine h r page) (b.1 ||| BitVec.twoPow 512 (page % 512)))

/-- Store a whole line in any region (R498); the hub's caches drop it first (R802). -/
def State.storeLine (s0 : State) (h r i : Nat) (d : Line) (poison : Bool) : Status × State :=
  let s := s0.invalidate h (s0.lineAddr h r i)
  if s.rgnMode h r = 2 then s.storeInt h r i d poison
  else
    let b := s.bitmap h r (i / 64)
    if !b.1.getLsbD (i / 64 % 512) then b.2.firstWrite h r i 0xFFFFFFFFFFFFFFFF#64 d poison
    else b.2.memWrite h (s.lineAddr h r i) 0xFFFFFFFFFFFFFFFF#64 (s.encLine h r (s.lineAddr h r i) d) 0 poison (s.rgnCode h r)

/-- Read a line of any region. -/
def State.readLine (s : State) (h r i : Nat) (cipher : Bool) : LineRes × State :=
  if s.rgnMode h r = 2 then s.readInt h r i cipher else s.readPage h r i cipher

/-! ### Write-combining (R541-R545) -/

/-- The worse of two statuses as R490 orders them, a timeout of the controller counting as one. -/
def worse (a b : Status) : Status :=
  if a = .errTimeout || b = .errTimeout then .errTimeout
  else if a = .errTarget || b = .errTarget then .errTarget
  else if a = .poison || b = .poison then .poison else .ok

/-- A line's write-back has ended with a status: the merged writes that waited for it alone complete (R490, R544). A write the
controller abandoned sends nothing: its requester's timer decides (R463). -/
def State.pendDone (s : State) (h a : Nat) (st : Status) : State :=
  let m := s.mpe h
  let upd := m.pend.map fun p => if a ∈ p.lines then { p with lines := p.lines.filter (· ≠ a), status := worse p.status st } else p
  let done := upd.filter fun p => p.lines.isEmpty
  let s1 := s.setMpe h { m with pend := upd.filter fun p => !p.lines.isEmpty }
  done.foldl (fun s p => if p.status = .errTimeout then s else s.reply p.stop p.pkt p.status) s1

/-- Write an entry back (R541, R543-R545). -/
def State.wcbWrite (s : State) (h : Nat) (e : WcbEnt) : State :=
  let r := e.region
  let i := (e.addr - s.rgnBase h r) / 64
  let s0 := s.setMpe h { s.mpe h with wcb := (s.mpe h).wcb.filter (fun x => x.addr ≠ e.addr) }
  if e.poison || e.mask = 0xFFFFFFFFFFFFFFFF#64 then
    let x := s0.storeLine h r i e.data e.poison
    x.2.pendDone h e.addr x.1
  else
    let x := s0.readLine h r i false
    if x.1.status = .ok then
      let y := x.2.storeLine h r i (mergeBytes e.mask e.data x.1.data) false
      y.2.pendDone h e.addr y.1
    else x.2.pendDone h e.addr (if x.1.status = .errTimeout then .errTimeout else .errTarget)

/-- The entry of a line, if it has one. -/
def State.wcbAt (s : State) (h a : Nat) : Option WcbEnt := (s.mpe h).wcb.find? (fun e => e.addr = a)

/-- Write back the entry of a line, if it has one (R543). -/
def State.wcbSettle (s : State) (h a : Nat) : State :=
  match s.wcbAt h a with
  | some e => s.wcbWrite h e
  | none => s

/-- Merge a write into its line's entry, opening one if there is none; with 64 in use the oldest is written back first (R542, R543,
R545). An entry whose mask is full is written back at once. -/
def State.wcbMerge (s : State) (h r a : Nat) (mask : DWord) (d : Line) (poison : Bool) : State :=
  let s1 := match s.wcbAt h a, (s.mpe h).wcb with
    | none, o :: rest => if 63 ≤ rest.length then s.wcbWrite h o else s
    | _, _ => s
  let m := s1.mpe h
  let e : WcbEnt := match s1.wcbAt h a with
    | some o => ⟨r, a, o.mask ||| mask, mergeBytes mask d o.data, o.poison || poison⟩
    | none => ⟨r, a, mask, mergeBytes mask d 0, poison⟩
  let wcb := if (s1.wcbAt h a).isSome then m.wcb.map (fun x => if x.addr = a then e else x) else m.wcb ++ [e]
  let s2 := s1.setMpe h { m with wcb := wcb }
  if e.mask = 0xFFFFFFFFFFFFFFFF#64 then s2.wcbWrite h e else s2

/-! ### Requests (R489-R493) -/

/-- The lines a request touches. -/
def linesOf (a len : Nat) : List Nat := (List.range ((a % 64 + len + 63) / 64)).map fun j => a / 64 * 64 + 64 * j

/-- The bytes of a request within a line: byte mask and data in the line, and whether a poisoned byte is among them (R490). -/
def lineSlice (a l : Nat) (bs : List PByte) : DWord × Line × Bool :=
  (List.range 64).foldl (fun acc j =>
    if a ≤ l + j then
      match bs[l + j - a]? with
      | some b => (acc.1 ||| BitVec.twoPow 64 j, acc.2.1 ||| (b.1.setWidth 512 <<< (8 * j)), acc.2.2 || b.2)
      | none => acc
    else acc) (0, 0, false)

/-- Gather the bytes of a read from its lines (R490, R491): the worst status, the reason of the lowest-addressed poisoned line, the
bytes. -/
def gather (a len : Nat) (ls : List (Nat × LineRes)) : Status × PoisonRsn × List PByte :=
  let st := ls.foldl (fun st x => worse st x.2.status) .ok
  let rsn := match ls.find? (fun x => x.2.status = .poison) with
    | some x => x.2.rsn
    | none => .none
  let bs := ls.flatMap fun x => (bytesOf x.2.data 64).zipIdx.filterMap fun b =>
    if a ≤ x.1 + b.2 ∧ x.1 + b.2 < a + len then some (b.1, decide (x.2.status = .poison)) else none
  (st, rsn, bs)

/-- Complete a read or an atomic; one the controller abandoned sends nothing (R463). -/
def State.answerBytes (s : State) (stop : Nat) (p : ReqPkt) (x : Status × PoisonRsn × List PByte) : State :=
  if x.1 = .errTimeout then s
  else if x.1 = .errTarget then s.reply stop p .errTarget
  else s.reply stop p x.1 (if x.1 = .poison then x.2.1 else .none) false x.2.2

/-- Read lines one after the other. -/
def State.readLines (s : State) (rd : State → Nat → LineRes × State) : List Nat → List (Nat × LineRes) × State
  | [] => ([], s)
  | l :: ls =>
    let x := rd s l
    let y := x.2.readLines rd ls
    ((l, x.1) :: y.1, y.2)

/-- A compare-and-swap of `n` bytes that finds another value than the one it compares with (R296). -/
def casMisses (p : ReqPkt) (n : Nat) (old : Nat) : Bool :=
  p.opc = 4 && old ≠ leNat ((flitBytes p.data).take n |>.map Prod.fst)

/-- The new value of an atomic of `n` bytes (R296); a compare-and-swap that fails leaves the old one. -/
def atomicNew (p : ReqPkt) (n : Nat) (old : Nat) : Nat :=
  if casMisses p n old then old
  else if p.opc = 3 then (old + p.imm.toNat) % 2 ^ (8 * n)
  else p.imm.toNat % 2 ^ (8 * n)

/-- The rights of a master for a region, or for the stacked SRAM where the region is 16 (R555). -/
def State.rightsOf (s : State) (h mid r : Nat) : Nat := bitsOf (s.csr64 (MPE_RIGHTS h mid)) (2 * r) 2

/-- An operation its rights allow (R555): reads need any, the rest READ_WRITE. -/
def rightsCover (rights opc : Nat) : Bool := if opc = 0 then 1 ≤ rights else rights = 3

/-- Serve an atomic on the line that holds it (R492): read, apply, write the whole line. -/
def State.serveAtomic (s : State) (stop : Nat) (p : ReqPkt) (rd : State → Nat → LineRes × State)
    (wr : State → Nat → Line → Bool → Status × State) : State :=
  let a := p.addr.toNat
  let l := a / 64 * 64
  let n := reqLen p
  let x := rd s l
  if x.1.status = .errTimeout then x.2
  else if x.1.status = .poison then x.2.reply stop p .poison x.1.rsn
  else if x.1.status ≠ .ok then x.2.reply stop p .errTarget
  else
    let old := bitsOf x.1.data (8 * (a % 64)) (8 * n)
    let back := fun (t : State) => t.reply stop p .ok .none false ((bytesOf (BitVec.ofNat 64 old) n).map fun b => (b, false))
    let y := wr x.2 l (lineSet x.1.data (8 * (a % 64)) (8 * n) (atomicNew p n old)) (p.poison || p.data.any (·.poison))
    if y.1 = .ok then back y.2 else if y.1 = .errTimeout then y.2 else y.2.reply stop p .errTarget

/-- Write the touched lines of a request in a region: the worst status of those done, and the lines that wait in the
write-combining buffer (R490, R540-R542). -/
def State.writeLines (s : State) (h r a : Nat) (bs : List PByte) : List Nat → Status × List Nat × State
  | [] => (.ok, [], s)
  | l :: ls =>
    let i := (l - s.rgnBase h r) / 64
    let x := lineSlice a l bs
    let full := x.1 = 0xFFFFFFFFFFFFFFFF#64
    if s.rgnMode h r = 0 then
      let b := s.bitmap h r (i / 64)
      let y := if !b.1.getLsbD (i / 64 % 512) then b.2.firstWrite h r i x.1 x.2.1 x.2.2
        else b.2.memWrite h l x.1 x.2.1 0 x.2.2 (s.rgnCode h r)
      let z := y.2.writeLines h r a bs ls
      (worse y.1 z.1, z.2.1, z.2.2)
    else
      if full && (s.wcbAt h l).isNone then
        let y := s.storeLine h r i x.2.1 x.2.2
        let z := y.2.writeLines h r a bs ls
        (worse y.1 z.1, z.2.1, z.2.2)
      else
        let z := s.writeLines h r a bs ls
        (z.1, l :: z.2.1, z.2.2)

/-- The class of the request in service (R437). -/
def State.withServing (s : State) (c : TClass) : State := { s with mem := { s.mem with serving := c } }

/-- Perform a request that has passed the checks, in region `r` (R490-R493, R524-R545). -/
def State.mpePerform (s : State) (h r stop : Nat) (p : ReqPkt) : State :=
  let a := p.addr.toNat
  let len := reqLen p
  let base := s.rgnBase h r
  let s1 := if p.opc = 1 then s else (linesOf a len).foldl (fun s l => s.wcbSettle h l) s
  let rd (cipher : Bool) (s : State) (l : Nat) := s.readLine h r ((l - base) / 64) cipher
  let s2 :=
    if p.opc = 0 then
      let x := s1.readLines (rd (s.rightsOf h p.mid.toNat r = 1)) (linesOf a len)
      x.2.answerBytes stop p (gather a len x.1)
    else if p.opc = 1 then
      let bs := reqBytes p
      let x := s1.writeLines h r a bs (linesOf a len)
      if x.2.1.isEmpty then (if x.1 = .errTimeout then x.2.2 else x.2.2.reply stop p x.1)
      else
        let m := x.2.2.mpe h
        let s3 := x.2.2.setMpe h { m with pend := m.pend ++ [⟨m.nextId, stop, p, x.1, x.2.1⟩], nextId := m.nextId + 1 }
        x.2.1.foldl (fun s l =>
          let w := lineSlice a l bs
          s.wcbMerge h r l w.1 w.2.1 w.2.2) s3
    else s1.serveAtomic stop p (rd false) (fun s l d poison => s.storeLine h r ((l - base) / 64) d poison)
  s2.trim h ((s2.mpe h).cache.length + 8)

/-- A line of a request lies in the granule that the rekey engine works on (R549). -/
def State.inGranule (s : State) (h r a len : Nat) : Bool :=
  let pos := (s.csr64 (MPE_RKEY_POS h)).toNat
  (s.mpe h).inGranule && s.rekeying h r && (linesOf a len).any fun l => pos ≤ l && l < pos + 4096

/-- A request that has passed the checks is performed in its class (R437), or waits for the granule in progress (R549). -/
def State.mpeGo (s : State) (h r stop : Nat) (p : ReqPkt) : State :=
  if s.inGranule h r p.addr.toNat (reqLen p) then
    let m := s.mpe h
    s.setMpe h { m with waits := m.waits ++ [⟨m.nextId, stop, p⟩], nextId := m.nextId + 1 }
  else ((s.withServing p.cls).mpePerform h r stop p).withServing .p

/-- Serve a request to DDR5 or CXL memory: the checks of R489, then its lines. -/
def State.mpeServe (s : State) (h stop : Nat) (p : ReqPkt) : State :=
  let a := p.addr.toNat
  if s.bit (MPE_STAT_QUIESCED h) then s
  else if s.fenced then s.reply stop p .errFenced
  else if reqBad p || p.opc = 5 then s.reply stop p .errTarget
  else if !(linesOf a (reqLen p)).all (s.installed h) then s.reply stop p .errTarget
  else match s.regionAt h a with
    | none => s.reply stop p .errDenied
    | some r =>
      if s.bit (MPE_RGN_CFG_DISABLING h r) || !rightsCover (s.rightsOf h p.mid.toNat r) p.opc.toNat then s.reply stop p .errDenied
      else s.mpeGo h r stop p

/-! ### The stacked SRAM user area (R494, R495) -/

/-- Write one SRAM line under a byte mask; a poisoned half stores the SOURCE pattern, and bytes are not merged into a poisoned line
(log entry 30). -/
def State.sramWrite (s : State) (h n : Nat) (mask : DWord) (d : Line) (poison : Bool) : Status × State :=
  if mask = 0xFFFFFFFFFFFFFFFF#64 then
    (.ok, if poison then s.setSram h n (strongPoison d .source) else s.sramPut h n d)
  else
    let x := s.sramRead h n true
    let d' := mergeBytes mask d x.1.data
    if poison then (.ok, x.2.setSram h n (strongPoison d' .source))
    else if x.1.status = .ok then (.ok, x.2.sramPut h n d') else (.errTarget, x.2)

/-- A request to a stacked SRAM window is served (R495, R903); a write to it invalidates its lines in the hub's caches (R802). -/
def State.sramTake (s : State) (h stop : Nat) (p : ReqPkt) : State :=
  let a := p.addr.toNat
  let base := 0x008000000000 + 0x10000000 * h
  let len := reqLen p
  let line (l : Nat) := (l - base) / 64
  let store (s : State) (l : Nat) (mask : DWord) (d : Line) (poison : Bool) : Status × State :=
    (s.invalidate h l).sramWrite h (line l) mask d poison
  if s.bit (MPE_STAT_QUIESCED h) then s
  else if s.fenced then s.reply stop p .errFenced
  else if reqBad p || p.opc = 5 then s.reply stop p .errTarget
  else if !(linesOf a len).all (fun l => line l < s.rsvLine h) then s.reply stop p .errDenied
  else if !rightsCover (s.rightsOf h p.mid.toNat 16) p.opc.toNat then s.reply stop p .errDenied
  else if p.opc = 0 then
    let x := s.readLines (fun s l => s.sramRead h (line l) true) (linesOf a len)
    x.2.answerBytes stop p (gather a len x.1)
  else if p.opc = 1 then
    let bs := reqBytes p
    let x := (linesOf a len).foldl (fun (acc : Status × State) l =>
      let w := lineSlice a l bs
      let y := store acc.2 l w.1 w.2.1 w.2.2
      (worse acc.1 y.1, y.2)) (.ok, s)
    x.2.reply stop p x.1
  else s.serveAtomic stop p (fun s l => s.sramRead h (line l) true)
    (fun s l d poison => store s l 0xFFFFFFFFFFFFFFFF#64 d poison)

/-- A request to a stacked SRAM window is served, unless the SRAM is SUSPENDED: it then waits at the SRAM stop (R923). -/
def State.sramServe (s : State) (h stop : Nat) (p : ReqPkt) : State :=
  if s.fld (PWR_SRAM_LEVEL h) = 3 then
    { s with mem := { s.mem with sramWait := mapSet s.mem.sramWait [] h (mapGet s.mem.sramWait [] h ++ [(stop, p)]) } }
  else s.sramTake h stop p

/-- Requests held at the SRAM stop are served in their order once the SRAM is no longer SUSPENDED (R922, R923). -/
def State.sramResume (s : State) (h : Nat) : State :=
  if s.fld (PWR_SRAM_LEVEL h) = 3 then s else
    (mapGet s.mem.sramWait [] h).foldl (fun t x => t.sramTake h x.1 x.2)
      { s with mem := { s.mem with sramWait := mapSet s.mem.sramWait [] h [] } }

end Sys2Proof.Machine
end

