-- ==== Sys2Proof/Machine/MpeCtl.lean ====
section
/-! DEFINITION. Control of the memory protection engine (R500-R509, R523, R530, R531, R543, R546-R554, R559): regions, keys, rekeying,
resealing, tree scrub, the rights fence, quiescing; and the meanings of its commands. -/

namespace Sys2Proof.Machine

open Sys2Proof

/-- MPE_STAT (R562). -/
def State.mpeStat (s : State) (h : Nat) : Word :=
  BitVec.ofNat 32 (((s.mpe h).pend.length + (s.mpe h).waits.length) % 8192 + (s.mpe h).wcb.length * 2 ^ 13 + s.fld (MPE_STAT_QUIESCED h) * 2 ^ 20)

/-! ### Enabling and disabling a region (R497-R504) -/

/-- Two address ranges [lo, hi) meet. -/
def meets (x y : Nat × Nat) : Bool := x.1 < y.2 && y.1 < x.2

/-- The range of a region of `log` bytes. -/
def State.rgnRange (s : State) (h r log : Nat) : Nat × Nat := (s.rgnBase h r, s.rgnBase h r + 2 ^ log)

/-- The ranges of a region's metadata area (R517): two pieces where a copy fits below MIR_BIT, one otherwise. -/
def State.metaRanges (s : State) (h r log : Nat) : List (Nat × Nat) :=
  let n := 64 * (nodesAt log 0 + nodesAt log 1)
  let b := s.fld (MPE_RGN_META_MIR_BIT h r)
  let base := s.metaBase h r
  if n ≤ 2 ^ b then [(base, base + n), (base + 2 ^ b, base + 2 ^ b + n)]
  else [(base, base + (n + 2 ^ b - 1) / 2 ^ b * 2 ^ (b + 1))]

/-- The range of a region's MAC table, where it has one (R519). -/
def State.macRanges (s : State) (h r log : Nat) : List (Nat × Nat) :=
  if s.inlineMac h r then [] else [(s.macLineAddr h r 0, s.macLineAddr h r 0 + 2 ^ log / 8)]

/-- Every byte of a range lies in memory installed behind the hub: its ends, and both sides of the border between two channels or
ports. -/
def State.rangeInstalled (s : State) (h : Nat) (x : Nat × Nat) : Bool :=
  let mid := if inCxl x.1 then 0x001000000000 + 0x002000000000 * h + 2 ^ 36 else 0x000800000000 * h + 2 ^ 34
  s.installed h x.1 && s.installed h (x.2 - 1) && (!(x.1 < mid && mid < x.2) || (s.installed h (mid - 1) && s.installed h mid))

/-- Regions but `r` that are enabled. -/
def State.otherRegions (s : State) (h r : Nat) : List Nat := (List.range 16).filter fun q => q ≠ r && s.bit (MPE_RGN_CFG_EN h q)

/-- The first copies of metadata node 0 decode to different channels, logical ranks or CXL ports (R501). -/
def State.copiesApart (s : State) (h r : Nat) : Bool :=
  let a := s.metaAddr h r 0 0
  let b := s.metaAddr h r 0 1
  if inCxl a ∧ inCxl b then (s.cxlRoute h (memOffset h a)).1 ≠ (s.cxlRoute h (memOffset h b)).1
  else if inCxl a ∨ inCxl b then true
  else match s.locate h (memOffset h a), s.locate h (memOffset h b) with
    | some x, some y => x.ch ≠ y.ch || x.rank ≠ y.rank
    | _, _ => false

/-- The checks of R501 that set BAD_REGION. -/
def State.regionOk (s : State) (h r : Nat) : Bool :=
  let log := s.rgnLog h r
  let x := s.rgnRange h r log
  let ddr := (0x000800000000 * h, 0x000800000000 * (h + 1))
  let cxl := (0x001000000000 + 0x002000000000 * h, 0x001000000000 + 0x002000000000 * (h + 1))
  21 ≤ log && log ≤ 36 && x.1 % 2 ^ log = 0 &&
    ((ddr.1 ≤ x.1 && x.2 ≤ ddr.2) || (cxl.1 ≤ x.1 && x.2 ≤ cxl.2)) &&
    s.rgnMode h r ≠ 3 &&
    (s.otherRegions h r).all (fun q =>
      !meets x (s.rgnRange h q (s.rgnLog h q)) &&
        (s.rgnMode h q ≠ 2 || ((s.metaRanges h q (s.rgnLog h q)) ++ (s.macRanges h q (s.rgnLog h q))).all (fun y => !meets x y))) &&
    (s.rgnMode h r = 0 || (s.csr (MPE_KEY_VALID h)).getLsbD (s.fld (MPE_RGN_KEYS_KEY_CUR h r)))

/-- The SRAM lines of a region's area. -/
def State.areaRange (s : State) (h r : Nat) : Nat × Nat :=
  (s.areaLine h r, s.areaLine h r + areaLines (s.rgnLog h r) (s.rgnMode h r))

/-- The checks of R501 and R517 that set BAD_META. -/
def State.metaOk (s : State) (h r : Nat) : Bool :=
  let log := s.rgnLog h r
  let b := s.fld (MPE_RGN_META_MIR_BIT h r)
  (s.areaRange h r).2 ≤ 256 * 16384 && (s.otherRegions h r).all (fun q => !meets (s.areaRange h r) (s.areaRange h q)) &&
    (s.rgnMode h r ≠ 2 ||
      (6 ≤ b && b ≤ 36 && s.metaBase h r % 2 ^ (b + 1) = 0 &&
        ((s.metaRanges h r log) ++ (s.macRanges h r log)).all (fun y =>
          s.rangeInstalled h y && !meets y (s.rgnRange h r log) &&
            (s.otherRegions h r).all fun q => !meets y (s.rgnRange h q (s.rgnLog h q))) &&
        s.copiesApart h r))

/-- A write of MPE_RGN_CFG by Level S (R500-R504). -/
def State.rgnCfgWrite (s : State) (h r : Nat) (value : Word) : State :=
  let busy := s.bit (MPE_RGN_CFG_EN h r) || s.bit (MPE_RGN_CFG_INIT_BUSY h r)
  if busy then
    let s1 := if bitsOf value 0 9 ≠ bitsOf (s.csr (MPE_RGN_CFG h r)) 0 9 then s.setFld (MPE_ERR_CFG_REFUSED h) 1 else s
    if value.getLsbD 9 || !s.bit (MPE_RGN_CFG_EN h r) then s1
    else if s.rekeying h r then s1.setFld (MPE_ERR_CFG_REFUSED h) 1
    else s1.setFld (MPE_RGN_CFG_DISABLING h r) 1
  else
    let s1 := s.setCsr (MPE_RGN_CFG h r) (value &&& 0x1FF#32)
    if !value.getLsbD 9 then s1
    else if !s1.regionOk h r then s1.setFld (MPE_ERR_BAD_REGION h) 1
    else if !s1.metaOk h r then s1.setFld (MPE_ERR_BAD_META h) 1
    else s1.setFld (MPE_RGN_CFG_INIT_BUSY h r) 1

/-- REGION_ENABLE (R501): a write of MPE_RGN_CFG. -/
def execRegionEnable (mid : BitVec 12) (hub : Fin 2) (region : Fin 16) (value : Word) (s : State) :
    Host.Outcome State Fault Refusal :=
  .next (levelSWrite s mid (MPE_RGN_CFG hub region) fun s => s.rgnCfgWrite hub region value)

/-- INIT_BUSY (R502): the region's SRAM area and root have been zeroed. -/
def execInitBusy (hub : Fin 2) (region : Fin 16) (s : State) : Host.Outcome State Fault Refusal :=
  let h : Nat := hub
  let r : Nat := region
  let x := s.areaRange h r
  let m := s.mpe h
  .next (if !s.bit (MPE_RGN_CFG_INIT_BUSY h r) then s
    else
      let s1 := { s with mem := { s.mem with
        sram := mapDrop (fun k => 2 ^ 22 * h + x.1 ≤ k && k < 2 ^ 22 * h + x.2) s.mem.sram,
        mpe := mapSet s.mem.mpe MpeSt.init h { m with roots := mapSet m.roots 0 r 0, cache := m.cache.filter fun e => e.region ≠ r } } }
      let s2 := ((s1.setCsr (MPE_RGN_MAJ h r) 0).setCsr (MPE_RGN_FLOOR h r) 0).setFld (MPE_RGN_KEYS_EPOCH h r) 0
      ((s2.setCsr (MPE_RGN_STAT h r) 0).setFld (MPE_RGN_CFG_EN h r) 1).setFld (MPE_RGN_CFG_INIT_BUSY h r) 0)

/-- DISABLING (R504): a write of MPE_RGN_CFG. -/
def execDisabling (mid : BitVec 12) (hub : Fin 2) (region : Fin 16) (value : Word) (s : State) : Host.Outcome State Fault Refusal :=
  .next (levelSWrite s mid (MPE_RGN_CFG hub region) fun s => s.rgnCfgWrite hub region value)

/-- Write back the write-combining entries `p` names. -/
def State.wcbFlush (s : State) (h : Nat) (p : WcbEnt → Bool) : State :=
  ((s.mpe h).wcb.filter p).foldl (fun s e => s.wcbSettle h e.addr) s

/-- REGION_DISABLED (R504): the region's entries and cached nodes are written back, then EN and DISABLING clear. -/
def execRegionDisabled (hub : Fin 2) (region : Fin 16) (s : State) : Host.Outcome State Fault Refusal :=
  let h : Nat := hub
  let r : Nat := region
  .next (if !s.bit (MPE_RGN_CFG_DISABLING h r) then s
    else
      let s1 := (s.wcbFlush h fun e => e.region = r).flushCache h fun e => e.region = r
      ((s1.cacheDrop h fun e => e.region = r).setFld (MPE_RGN_CFG_EN h r) 0).setFld (MPE_RGN_CFG_DISABLING h r) 0)

/-- A write of KEY_CUR, KEY_NEXT and NEXT_VALID by Level S (R500). -/
def State.rgnKeysWrite (s : State) (h r : Nat) (value : Word) : State :=
  let old := s.csr (MPE_RGN_KEYS h r)
  let en := s.bit (MPE_RGN_CFG_EN h r) || s.bit (MPE_RGN_CFG_INIT_BUSY h r)
  let badCur := en && bitsOf value 0 5 ≠ bitsOf old 0 5
  let badNext := en && s.rekeying h r && bitsOf value 5 6 ≠ bitsOf old 5 6
  let s1 := if en then s else s.setFld (MPE_RGN_KEYS_KEY_CUR h r) (bitsOf value 0 5)
  let s2 := if en && s.rekeying h r then s1
    else (s1.setFld (MPE_RGN_KEYS_KEY_NEXT h r) (bitsOf value 5 5)).setFld (MPE_RGN_KEYS_NEXT_VALID h r) (bitsOf value 10 1)
  if badCur || badNext then s2.setFld (MPE_ERR_CFG_REFUSED h) 1 else s2

/-- A write of a word of MPE_RGN_BASE, META, MACB or SRAM by Level S: refused while the region is enabled (R500). -/
def State.rgnWrite (s : State) (h r key : Nat) (value : Word) : State :=
  if s.bit (MPE_RGN_CFG_EN h r) || s.bit (MPE_RGN_CFG_INIT_BUSY h r) then s.setFld (MPE_ERR_CFG_REFUSED h) 1
  else s.setCsr key value

/-! ### Keys (R506-R509) -/

/-- An enabled region names a slot (R509). -/
def State.slotBusy (s : State) (h slot : Nat) : Bool :=
  (List.range 16).any fun r => s.bit (MPE_RGN_CFG_EN h r) &&
    (s.fld (MPE_RGN_KEYS_KEY_CUR h r) = slot || (s.bit (MPE_RGN_KEYS_NEXT_VALID h r) && s.fld (MPE_RGN_KEYS_KEY_NEXT h r) = slot))

/-- Put a key pair into a slot, or clear the slot. -/
def State.setKey (s : State) (h slot : Nat) (k : Option (BitVec 512)) : State :=
  let m := s.mpe h
  let v := s.csr (MPE_KEY_VALID h)
  (s.setMpe h { m with keys := mapSet m.keys 0 slot (k.getD 0) }).setCsr (MPE_KEY_VALID h)
    (if k.isSome then v ||| BitVec.twoPow 32 slot else v &&& ~~~BitVec.twoPow 32 slot)

/-- A key-encryption key of the security engine, 32 bytes. -/
def State.kek (s : State) (n : Nat) : List Byte := bytesOf (mapGet s.mem.keks 0 n) 32

/-- The wrapped key in MPE_KWRAP. -/
def State.kwrap (s : State) (h : Nat) : List Byte := (List.range 18).flatMap fun k => bytesOf (s.csr (MPE_KWRAP h k)) 4

/-- Clear MPE_KWRAP (R508). -/
def State.clearKwrap (s : State) (h : Nat) : State := (List.range 18).foldl (fun s k => s.setCsr (MPE_KWRAP h k) 0) s

/-- Load a slot from a wrapped key (R507, R509): whether it was loaded. -/
def State.keyLoad (s : State) (h slot : Nat) (wrapped : List Byte) : Bool × State :=
  if s.slotBusy h slot then (false, s.setFld (MPE_ERR_KEY_BUSY h) 1)
  else match kwUnwrap (s.kek (1 + h)) wrapped with
    | some k => (true, s.setKey h slot (some (BitVec.ofNat 512 (leNat k))))
    | none => (false, s.setFld (MPE_ERR_KEY_BAD h) 1)

/-- A write of MPE_KEY_CMD by Level S (R507-R509, R565). -/
def State.keyCmdWrite (s : State) (h : Nat) (value : Word) : State :=
  let s1 := s.setCsr (MPE_KEY_CMD h) (value &&& 0x7F#32)
  let slot := bitsOf value 0 5
  if !value.getLsbD 7 then s1
  else match bitsOf value 5 2 with
    | 1 => (s1.keyLoad h slot (s1.kwrap h)).2.clearKwrap h
    | 2 => if s1.slotBusy h slot then s1.setFld (MPE_ERR_KEY_BUSY h) 1 else s1.setKey h slot none
    | _ => s1

/-- MPE_KEY_LOAD (R507): a write of MPE_KEY_CMD. -/
def execMpeKeyLoad (mid : BitVec 12) (hub : Fin 2) (value : Word) (s : State) : Host.Outcome State Fault Refusal :=
  .next (levelSWrite s mid (MPE_KEY_CMD hub) fun s => s.keyCmdWrite hub value)

/-- MPE_KEY_ERASE (R509): a write of MPE_KEY_CMD. -/
def execMpeKeyErase (mid : BitVec 12) (hub : Fin 2) (value : Word) (s : State) : Host.Outcome State Fault Refusal :=
  .next (levelSWrite s mid (MPE_KEY_CMD hub) fun s => s.keyCmdWrite hub value)

/-! ### Resealing (R529-R532) -/

/-- A write of MPE_RESEAL_CTL by Level S (R530). -/
def State.resealWrite (s : State) (h : Nat) (value : Word) : State :=
  let s1 := s.setCsr (MPE_RESEAL_CTL h) ((s.csr (MPE_RESEAL_CTL h) &&& 0x800#32) ||| (value &&& 0x3FF#32))
  let r := bitsOf value 0 4
  let log := bitsOf value 4 6
  let base := (s.csr64 (MPE_RESEAL_BASE h)).toNat
  if !value.getLsbD 10 then s1
  else if !s.bit (MPE_RGN_CFG_EN h r) || s.rgnMode h r ≠ 2 || s.rekeying h r || (s.csr (MPE_RGN_MAJ h r)).toNat = 0xFFFFFFFF ||
      log < 11 || s.rgnLog h r < log || base % 2 ^ log ≠ 0 || base < s.rgnBase h r || s.rgnBase h r + 2 ^ s.rgnLog h r < base + 2 ^ log ||
      s.bit (MPE_RESEAL_CTL_BUSY h) then
    s1.setFld (MPE_ERR_RESEAL_REFUSED h) 1
  else (s1.setFld (MPE_RESEAL_CTL_BUSY h) 1).setMpe h { s1.mpe h with reseal := some (r, base, log) }

/-- RESEAL_GO (R530): a write of MPE_RESEAL_CTL. -/
def execResealGo (mid : BitVec 12) (hub : Fin 2) (value : Word) (s : State) : Host.Outcome State Fault Refusal :=
  .next (levelSWrite s mid (MPE_RESEAL_CTL hub) fun s => s.resealWrite hub value)

/-- A LOST entry above a zeroed SRAM node becomes 1 (R531). -/
def State.unlose (s : State) (h r lv k : Nat) : State :=
  let p := s.rawNode h r (lv + 1) (k / 32)
  if nodeMinor p (k % 32) = lostMark then s.putNode h r (lv + 1) (k / 32) (setMinor p (k % 32) 1) else s

/-- Zero the SRAM nodes of a level whose span lies in the range, with major `maj` (R531); their entries keep the epoch of the region. -/
def State.resealLevel (s : State) (h r lv base log maj : Nat) : State :=
  if log < spanLog lv ∧ !(log = s.rgnLog h r) then s else
  let first := (base - s.rgnBase h r) / 2 ^ spanLog lv
  let n := max 1 (2 ^ (log - spanLog lv))
  let blank := (List.range 32).foldl (fun n e => setEp n e (s.epoch h r)) (BitVec.ofNat 512 maj)
  (List.range n).foldl (fun s j => (s.unlose h r lv (first + j)).putNode h r lv (first + j) blank) s

/-- Entries of a node of level `lv` whose child's span lies in the range become 0 (R531). -/
def State.clearEntries (s : State) (h r lv k base log : Nat) (n : Line) : Line :=
  (List.range 32).foldl (fun n e =>
    let a := s.childAddr h r lv k e
    if base ≤ a && a + 2 ^ (spanLog lv - 5) ≤ base + 2 ^ log then setMinor n e 0 else n) n

/-- Reseal a range (R531): nodes and entries from the top down. Entries below an entry that becomes 0 are never read again, so they
stand for 0. -/
def State.resealRun (s : State) (h r base log : Nat) : State :=
  let maj := (s.csr (MPE_RGN_MAJ h r)).toNat + 1
  let i := (base - s.rgnBase h r) / 64
  let s1 := (s.resealLevel h r 4 base log maj).resealLevel h r 3 base log maj
  let s2 := s1.resealLevel h r 2 base log maj
  let inRange (e : CacheEnt) : Bool := e.region = r && e.level ≤ 1 && base ≤ s.nodeAddr h r e.level e.index &&
    s.nodeAddr h r e.level e.index + 2 ^ spanLog e.level ≤ base + 2 ^ log
  let s3 := s2.cacheDrop h inRange
  let s4 := if spanLog 2 ≤ log then s3
    else if spanLog 1 ≤ log then
      let x := s3.getNode h r 3 (i / 2 ^ 15)
      x.1.elimNode x.2 fun n => x.2.putNode h r 2 (i / 2 ^ 15) (x.2.clearEntries h r 2 (i / 2 ^ 15) base log n)
    else
      let x := s3.getNode h r 4 (i / 1024)
      x.1.elimNode x.2 fun n => x.2.putNode h r 1 (i / 1024) (x.2.clearEntries h r 1 (i / 1024) base log n)
  let s5 := if spanLog 2 ≤ log then s4.noteMajor h r base maj else s4
  ((s5.setCsr (MPE_RGN_FLOOR h r) (BitVec.ofNat 32 maj)).setFld (MPE_ERR_RESEAL_DONE h) 1).setFld (MPE_RESEAL_CTL_BUSY h) 0

/-- RESEAL_DONE (R531): the reseal in progress ends. -/
def execResealDone (hub : Fin 2) (s : State) : Host.Outcome State Fault Refusal :=
  let h : Nat := hub
  .next (match (s.mpe h).reseal with
    | some (r, base, log) => (s.setMpe h { s.mpe h with reseal := none }).resealRun h r base log
    | none => s)

/-! ### Rekeying (R546-R552) -/

/-- A write of MPE_RKEY_CTL by Level S (R546). -/
def State.rekeyWrite (s : State) (h : Nat) (value : Word) : State :=
  let s1 := s.setCsr (MPE_RKEY_CTL h) (value &&& 0x03FF000F#32)
  let r := bitsOf value 0 4
  if !value.getLsbD 4 then s1
  else if !s.bit (MPE_RGN_CFG_EN h r) || s.rgnMode h r = 0 || !s.bit (MPE_RGN_KEYS_NEXT_VALID h r) ||
      s.fld (MPE_RGN_KEYS_KEY_NEXT h r) = s.fld (MPE_RGN_KEYS_KEY_CUR h r) || s.fld (MPE_RKEY_STAT_STATE h) = 1 then
    s1.setFld (MPE_ERR_REKEY_REFUSED h) 1
  else
    let s2 := (s1.setCsr (MPE_RKEY_STAT h) (BitVec.ofNat 32 (1 + 4 * r))).setCsr64 (MPE_RKEY_POS h) (BitVec.ofNat 64 (s.rgnBase h r))
    s2.setMpe h { s2.mpe h with granule := 0, inGranule := false, journal := some (r, s.rgnBase h r), newHigh := 0 }

/-- REKEY_START (R546): a write of MPE_RKEY_CTL. -/
def execRekeyStart (mid : BitVec 12) (hub : Fin 2) (value : Word) (s : State) : Host.Outcome State Fault Refusal :=
  .next (levelSWrite s mid (MPE_RKEY_CTL hub) fun s => s.rekeyWrite hub value)

/-- Move one line of an ENC region to the next key, if its page is valid and it is not there yet (R547, R548, R554). -/
def State.rekeyEnc (s : State) (h r i : Nat) : State :=
  let b := s.bitmap h r (i / 64)
  let m := s.mpe h
  if m.granule.getLsbD (i % 64) then s
  else
    let mark (s : State) : State := s.setMpe h { s.mpe h with granule := (s.mpe h).granule ||| BitVec.twoPow 64 (i % 64) }
    if !b.1.getLsbD (i / 64 % 512) then mark b.2
    else
      let x := b.2.readPage h r i false
      let a := s.lineAddr h r i
      let s1 := mark x.2
      if x.1.status = .ok then (s1.memPut h a (s1.encLine h r a x.1.data) 0 (s.rgnCode h r)).2 else s1

/-- Write a cached node back before its keys change. -/
def State.settleNode (s : State) (h r lv k : Nat) : State :=
  match s.cached h r lv k with
  | some e => s.writeBack h e
  | none => s

/-- The L1 entry of L0 node `k` takes the next epoch (R548). -/
def State.entryNext (s : State) (h r k : Nat) : State :=
  let x := s.getNode h r 4 (k / 32)
  x.1.elimNode x.2 fun p => x.2.putNode h r 1 (k / 32) (setEp p (k % 32) (!s.epoch h r))

/-- An L0 node under the next key: every written line re-encrypted with major 0 and minor 1, every EP the next epoch (R548). -/
def rekeyedNode (n : Line) (next : Bool) : Line :=
  (List.range 32).foldl (fun n j =>
    let m := nodeMinor n j
    setEp (if m = 0 || m = lostMark then n else setMinor n j 1) j next) (setMajor n 0)

/-- Move L0 node `k` of an ENC_INT region to the next key, unless its entry already holds the next epoch (R548, R554): nothing but
the epoch changes where the entry is 0, nothing at all where it is LOST. -/
def State.rekeyNode (s : State) (h r k : Nat) : State :=
  let next := !s.epoch h r
  let s0 := s.settleNode h r 0 k
  let x := s0.getNode h r 4 (k / 32)
  x.1.elimNode x.2 fun p =>
    if nodeEp p (k % 32) = next then x.2 else
    let y := x.2.getNode h r 5 k
    match y.1 with
    | .node n =>
      let s3 := (List.range 32).foldl (fun s j =>
        let m := nodeMinor n j
        if m = 0 || m = lostMark || nodeEp n j = next then s
        else s.recrypt h r (32 * k + j) m (nodeMajor n) (nodeEp n j) 1 0 next) y.2
      ((s3.cachePut h r 0 k (rekeyedNode n next) true).entryNext h r k).writeBack h ⟨r, 0, k, rekeyedNode n next, true, false⟩
    | .fresh => y.2.entryNext h r k
    | .lost | .broken => y.2

/-- The boundary passes the end of a node of level 1 to 4 (R548): its major becomes 0, its counters 1, its children are re-MACed
under them, and its parent entry takes the next epoch (log entry 31). -/
def State.rekeyUpper (s : State) (h r lv k : Nat) : State :=
  let next := !s.epoch h r
  let reset (n : Line) : Line :=
    (List.range 32).foldl (fun n e => if 1 ≤ nodeMinor n e && nodeMinor n e ≤ 4094 then setMinor n e 1 else n) (setMajor n 0)
  let parentNext (s : State) : State :=
    let x := s.getNode h r (4 - lv) (k / 32)
    x.1.elimNode x.2 fun p => x.2.putNode h r (lv + 1) (k / 32) (setEp p (k % 32) next)
  let q := (s.settleNode h r lv k).getNode h r (5 - lv) k
  match q.1 with
  | .node n =>
    if lv ≤ 2 then
      let x := q.2.remacMem h r lv k 32 n (List.range 32) (reset n)
      if lv = 1 then (parentNext (x.2.cachePut h r 1 k x.1 true)).writeBack h ⟨r, 1, k, x.1, true, false⟩
      else (parentNext x.2).putNode h r 2 k x.1
    else ((parentNext q.2).putNode h r lv k (reset n)).remacSram h r lv k
  | .fresh => parentNext q.2
  | .lost | .broken => q.2

/-- The levels whose node ends where the boundary now stands. -/
def State.rekeyUppers (s : State) (h r pos : Nat) : State :=
  let base := s.rgnBase h r
  [1, 2, 3, 4].foldl (fun s lv =>
    let off := pos - base
    if off % 2 ^ spanLog lv = 0 || off = 2 ^ s.rgnLog h r then s.rekeyUpper h r lv ((off - 1) / 2 ^ spanLog lv) else s) s

/-- The boundary reaches the end of the region (R551). -/
def State.rekeyDone (s : State) (h r : Nat) : State :=
  let m := s.mpe h
  let s1 := s.setFld (MPE_RGN_KEYS_KEY_CUR h r) (s.fld (MPE_RGN_KEYS_KEY_NEXT h r))
  let s2 := (s1.setBit (MPE_RGN_KEYS_EPOCH h r) (!s.epoch h r)).setFld (MPE_RGN_KEYS_NEXT_VALID h r) 0
  let s3 := ((s2.setCsr (MPE_RGN_MAJ h r) m.newHigh).setCsr (MPE_RGN_FLOOR h r) 0).setFld (MPE_ERR_REKEY_DONE h) 1
  let s4 := if m.newHigh.toNat < 0xFFFFF000 then s3.setFld (MPE_RGN_STAT_REKEY_DUE h r) 0 else s3
  (s4.setFld (MPE_RKEY_STAT_STATE h) 2).setMpe h { m with journal := none, newHigh := 0 }

/-- Requests that waited for a granule are performed in their order (R549). -/
def State.granuleDone (s : State) (h r : Nat) : State :=
  let m := s.mpe h
  m.waits.foldl (fun t w => t.mpeGo h r w.stop w.pkt) (s.setMpe h { m with waits := [] })

/-- The engine works on the granule at the boundary, up to line `upto` of it; when it is done the boundary moves and the journal with
it (R548, R551, R552). -/
def State.rekeyGranule (s : State) (h upto : Nat) : State :=
  let r := s.fld (MPE_RKEY_STAT_REGION h)
  let pos := (s.csr64 (MPE_RKEY_POS h)).toNat
  let i := (pos - s.rgnBase h r) / 64
  let s1 := if s.rgnMode h r = 1 then (List.range upto).foldl (fun s j => s.rekeyEnc h r (i + j)) s
    else (List.range (upto / 32)).foldl (fun s j => s.rekeyNode h r (i / 32 + j)) s
  if upto < 64 then s1.setMpe h { s1.mpe h with inGranule := true }
  else
    let s2 := s1.setCsr64 (MPE_RKEY_POS h) (BitVec.ofNat 64 (pos + 4096))
    let s3 := s2.setMpe h { s2.mpe h with granule := 0, inGranule := false, journal := some (r, pos + 4096) }
    let s4 := if s.rgnMode h r = 2 then s3.rekeyUppers h r (pos + 4096) else s3
    (if s.rgnBase h r + 2 ^ s.rgnLog h r ≤ pos + 4096 then s4.rekeyDone h r else s4).granuleDone h r

/-- REKEY_GRANULE (R548): the engine works on the granule in progress up to line `upto`; 64 ends the granule. -/
def execRekeyGranule (hub : Fin 2) (upto : Fin 65) (s : State) : Host.Outcome State Fault Refusal :=
  .next (if s.fld (MPE_RKEY_STAT_STATE hub) = 1 && !s.bit (MPE_STAT_QUIESCED hub) then s.rekeyGranule hub upto else s)

/-! ### Write-combining hold, tree scrub, rights fence -/

/-- WCB_HOLD_EXPIRY (R543): WCB_HOLD ns have passed since the oldest entry was opened. -/
def execWcbHoldExpiry (hub : Fin 2) (s : State) : Host.Outcome State Fault Refusal :=
  .next (match (s.mpe hub).wcb with
    | e :: _ => (s.wcbWrite hub e).trim hub (((s.wcbWrite hub e).mpe hub).cache.length + 8)
    | [] => s)

/-- The SRAM nodes of the enabled ENC_INT regions, as region * 2^24 + level * 2^20 + index, in scrub order (R523). -/
def State.scrubList (s : State) (h : Nat) : List Nat :=
  ((List.range 16).filter (fun r => s.bit (MPE_RGN_CFG_EN h r) && s.rgnMode h r = 2)).flatMap fun r =>
    [2, 3, 4].flatMap fun lv => (List.range (nodesAt (s.rgnLog h r) lv)).map fun k => r * 2 ^ 24 + lv * 2 ^ 20 + k

/-- Nodes in the node cache come to hold an uncorrectable error (R528): those at the given places of the cache. Lines of the MAC
table are no nodes. -/
def State.upsetCache (s : State) (h : Nat) (places : List Nat) : State :=
  let m := s.mpe h
  s.setMpe h { m with cache := m.cache.zipIdx.map fun x => if x.1.level ≠ 7 && places.contains x.2 then { x.1 with bad := true } else x.1 }

/-- TREE_SCRUB (R523): the NMAC of the next SRAM node is checked; one that holds nothing has no MAC. `upsets` are the places of the
node cache that hold an uncorrectable error from this interval on (R528). -/
def execTreeScrub (hub : Fin 2) (upsets : List Nat) (s0 : State) : Host.Outcome State Fault Refusal :=
  let h : Nat := hub
  let s := s0.upsetCache h upsets
  let m := s.mpe h
  let all := s.scrubList h
  let pick := match all.find? (fun x => m.scrub < x) with
    | some x => some x
    | none => all.head?
  .next (if !s.bit (MPE_CTL_TSCRUB_EN h) then s else match pick with
    | none => s
    | some x =>
      let r := x / 2 ^ 24
      let lv := x / 2 ^ 20 % 16
      let k := x % 2 ^ 20
      let s1 := s.setMpe h { m with scrub := x }
      let q := s1.getNode h r (4 - lv) (k / 32)
      q.1.elimNode q.2 fun p =>
        if nodeMinor p (k % 32) = lostMark then q.2
        else
          let y := q.2.sramRead h (q.2.nodeLine h r lv k)
          if y.1.status = .ok ∧ (y.1.data = 0 ∨ nodeMac y.1.data = q.2.nodeTagIn h r lv k p y.1.data) then y.2
          else (y.2.badSram h r lv k p).2)

/-- A write of MPE_FENCE by Level S (R559). -/
def State.fenceGo (s : State) (h : Nat) (value : Word) : State :=
  if value.getLsbD 0 then
    (s.setFld (MPE_FENCE_DONE h) 0).setMpe h { s.mpe h with fence := (s.mpe h).pend.map (·.id) ++ (s.mpe h).waits.map (·.id) }
  else s

/-- MPE_FENCE_GO (R559): a write of MPE_FENCE. -/
def execMpeFenceGo (mid : BitVec 12) (hub : Fin 2) (value : Word) (s : State) : Host.Outcome State Fault Refusal :=
  .next (levelSWrite s mid (MPE_FENCE hub) fun s => s.fenceGo hub value)

/-- The requests a rights fence waits for have all completed (R559). -/
def State.fenceMet (s : State) (h : Nat) : Bool :=
  (s.mpe h).fence.all fun i => !((s.mpe h).pend.any fun p => p.id = i) && !((s.mpe h).waits.any fun w => w.id = i)

/-- MPE_FENCE_DONE (R559): every request the fence waits for has completed. -/
def execMpeFenceDone (hub : Fin 2) (s : State) : Host.Outcome State Fault Refusal :=
  let h : Nat := hub
  .next (if !s.bit (MPE_FENCE_DONE h) && s.fenceMet h then (s.setFld (MPE_FENCE_DONE h) 1).setMpe h { s.mpe h with fence := [] } else s)

/-! ### Quiescing and resuming (R553, R554) -/

/-- The sequence of R553: no more requests, everything held is written back. The rekey unit in progress is whole in this model; what
waited for the granule in progress is dropped, and its requesters time it out. -/
def State.mpeQuiesce (s : State) (h : Nat) : State :=
  let s0 := s.setMpe h { s.mpe h with waits := [] }
  let s1 := (s0.setFld (MPE_STAT_QUIESCED h) 1).wcbFlush h fun _ => true
  (s1.flushCache h fun _ => true).cacheDrop h fun _ => true

/-- The engine serves again at the end of SP5 and resumes a journaled rekey (R554). -/
def State.mpeResume (s : State) (h : Nat) : State :=
  let s1 := s.setFld (MPE_STAT_QUIESCED h) 0
  match (s.mpe h).journal with
  | some (r, pos) =>
    ((s1.setCsr (MPE_RKEY_STAT h) (BitVec.ofNat 32 (1 + 4 * r))).setFld (MPE_RKEY_STAT_RESUMED h) 1).setCsr64 (MPE_RKEY_POS h)
      (BitVec.ofNat 64 pos)
  | none => s1

end Sys2Proof.Machine
end

