-- ==== Sys2Proof/Machine/Msix.lean ====
section
/-! DEFINITION. MSI-X of the port dies (R636), error flags of port-die blocks, and what the engines behind a stop share. -/

namespace Sys2Proof.Machine

open Sys2Proof

/-- The lowest tag an engine's stop may allocate (R309). -/
def State.freeTag (s : State) (stop : Nat) : Option Nat := lowestFree 8192 (s.ring.txns.length + s.ring.inbox.length) (s.tagFree stop)

/-- Some flag is set in an error register of the port die (R636, KIND 3). -/
def State.portErr (s : State) (p : Nat) : Bool :=
  s.csr (PRT_PCIE_ERR p) ≠ 0 || (List.range 4).any (fun m => s.csr (PRT_ETH_ERR p m) ≠ 0) ||
    (List.range 8).any (fun k => s.csr (PRT_INT_ERR p k) ≠ 0) || s.csr (PRT_UIO_STAT p) ≠ 0

/-- The source of a vector is true (R636). -/
def State.msixSource (s : State) (p v : Nat) : Bool :=
  let w := s.csr (PRT_MSIX_SRC p v)
  match bitsOf w 0 4 with
  | 1 => !(mapGet s.qe.evts [] (bitsOf w 4 1)).isEmpty
  | 2 => s.bit (PRT_MBX_STAT_RDY p)
  | 3 => s.portErr p
  | _ => false

/-- A vector sends its message, or is pending while its entry masks it (R625, R636). -/
def State.msixFire (s : State) (p v : Nat) : State :=
  let e (i : Nat) : Word := s.csr (PRT_MSIX_TABLE p (4 * v + i))
  if (e 3).getLsbD 0 then s.setFld ⟨PRT_MSIX_PBA p (v / 32), v % 32, 1⟩ 1
  else (s.setFld ⟨PRT_MSIX_PBA p (v / 32), v % 32, 1⟩ 0).send (.msix p v (e 1 ++ e 0) (e 2))

/-- Each vector whose source has turned from false to true sends its message (R636). -/
def State.msixEdges (s old : State) : State :=
  (List.range 4).foldl (fun t p => (List.range 64).foldl (fun t v =>
    if s.msixSource p v && !old.msixSource p v then t.msixFire p v else t) t) s

/-- A write of a word of the MSI-X table: an unmasked vector that is pending sends its message (R625, R636).
The vector control word has one bit, its mask (log entry 86). -/
def State.msixTableWrite (s : State) (p i : Nat) (v : Word) : State :=
  let s1 := s.setCsr (PRT_MSIX_TABLE p i) (if i % 4 = 3 then v &&& 1#32 else v)
  if i % 4 = 3 ∧ !v.getLsbD 0 ∧ s.bit ⟨PRT_MSIX_PBA p (i / 128), i / 4 % 32, 1⟩ then s1.msixFire p (i / 4) else s1

/-- Set an error flag of a port-die block and report it (R987). -/
def State.portFlag (s : State) (f : Fld) (p block unit sev : Nat) (addr : DWord) (info : Word) : State :=
  (s.raise f (2 + p) block unit 0 sev addr info).msixEdges s

/-- Set a flag of a port-die block that reports a refusal (R964). -/
def State.portRefused (s : State) (f : Fld) : State := (s.setFld f 1).msixEdges s

end Sys2Proof.Machine
end

