-- ==== Sys2Proof/Machine/Queue.lean ====
section
/-! DEFINITION. The queue engines (R567-R598): descriptors, transactions, completion records, queue states, scheduling and
events, and the meanings of their commands. -/

namespace Sys2Proof.Machine

open Sys2Proof

/-! ### Reading a queue -/

/-- Queue states as QE_Q_STAT encodes them (R614). -/
def qDisabled : Nat := 0
def qRunning : Nat := 1
def qStalled : Nat := 2
def qStopped : Nat := 3
def qDraining : Nat := 4
def qError : Nat := 5

/-- The stop of a hub's queue engine. -/
def qeStop (h : Nat) : Nat := hubStop h 7

/-- The unregistered part of a queue. -/
def State.queue (s : State) (h q : Nat) : QSt := mapGet s.qe.queues QSt.zero (h * 4096 + q)

/-- Change the unregistered part of a queue. -/
def State.setQueue (s : State) (h q : Nat) (x : QSt) : State :=
  { s with qe := { s.qe with queues := mapSet s.qe.queues QSt.zero (h * 4096 + q) x } }

/-- The state of a queue (R589). -/
def State.qState (s : State) (h q : Nat) : Nat := s.fld (QE_Q_STAT_STATE h q)

/-- CI, CT, PI and CH of a queue. -/
def State.qCi (s : State) (h q : Nat) : BitVec 16 := BitVec.ofNat 16 (s.fld (QE_Q_IDX_CI h q))
def State.qCt (s : State) (h q : Nat) : BitVec 16 := BitVec.ofNat 16 (s.fld (QE_Q_IDX_CT h q))
def State.qPi (s : State) (h q : Nat) : BitVec 16 := BitVec.ofNat 16 (s.fld (QE_Q_PI_PI h q))
def State.qCh (s : State) (h q : Nat) : BitVec 16 := BitVec.ofNat 16 (s.fld (QE_Q_CQH_CH h q))

/-- SIZE_LOG2 in effect: values below 4 act as 4 (R613). -/
def State.qSize (s : State) (h q : Nat) : Nat := max 4 (s.fld (QE_Q_CFG_SIZE_LOG2 h q))

/-- The class of a queue's transactions (R613). -/
def State.qClass (s : State) (h q : Nat) : TClass :=
  match s.fld (QE_Q_CFG_CLASS h q) with
  | 0 => .g | 1 => .p | _ => .b

/-- TYPE of a queue (R568): 0 COPY, 1 G2M, 2 M2G, 3 INTAKE. -/
def State.qType (s : State) (h q : Nat) : Nat := s.fld (QE_Q_CFG_TYPE h q)

/-- The completion ring is full (R574). -/
def State.qFull (s : State) (h q : Nat) : Bool := (s.qCt h q - s.qCh h q).toNat = 2 ^ s.qSize h q

/-- Active descriptors of a hub (R594). -/
def State.qeActive (s : State) (h : Nat) : Nat :=
  (s.qe.queues.filter (fun kv => kv.1 / 4096 = h)).foldl (fun n kv => n + kv.2.active.length) 0

/-- Outstanding ring transactions of a hub's queue engine (R594). -/
def State.qeOutstanding (s : State) (h : Nat) : Nat :=
  (s.ring.txns.filter (fun t => t.pkt.src.toNat = qeStop h)).length

/-- The low 32 bits of device time at hub `h` (R582, R610). -/
def State.qStamp (s : State) (h : Nat) : Word := (s.dieTime h).1.setWidth 32

/-! ### Flags -/

/-- Set a flag of QE_ERR for a queue, which QE_ERR_Q then names (R612, R615). Refusals are not reported (R964). -/
def State.qFlag (s : State) (h q : Nat) (f : Fld) (refusal : Bool) : State :=
  let s1 := s.setCsr (QE_ERR_Q h) (BitVec.ofNat 32 (q + 2 ^ 31))
  if refusal then s1.setFld f 1
  else s1.raise f h 0x08 (h * 2048) 0 sevUncorrected ((s1.csr (QE_ERR_Q h)).setWidth 64) 0

/-! ### Descriptors (R575-R584) -/

/-- A descriptor just accepted, whose fetch is in flight. -/
def QDesc.fetching (index : BitVec 16) (tag : Nat) : QDesc :=
  ⟨index, some tag, 0, 0, 0, false, false, false, false, 0, 0, [], false, false, none⟩

/-- The record of a descriptor. -/
def QDesc.record (d : QDesc) (st : Status) (detail : Nat) (rsn : PoisonRsn) (xfer : Nat) (ts : Word) : QRec :=
  ⟨d.cookie, d.index, st, d.late, rsn, detail, xfer, ts, d.evt⟩

/-- A descriptor with its record due. -/
def QDesc.finish (d : QDesc) (st : Status) (detail : Nat) (rsn : PoisonRsn) (xfer : Nat) (ts : Word) : QDesc :=
  { d with fetch := none, fin := some (d.record st detail rsn xfer ts) }

/-- Bytes of the longest run from the destination base whose writes all completed with OK (R583); chunks stand in address
order. -/
def okRun : List QChunk → Nat
  | [] => 0
  | c :: cs => if c.phase = .over true then c.len + okRun cs else 0

/-- A chunk's read or write is in flight. -/
def QChunk.flying (c : QChunk) : Bool :=
  match c.phase with
  | .reading _ | .writing _ => true
  | _ => false

/-- The reason of the lowest-addressed poisoned read (R582). -/
def QDesc.poisonOf (d : QDesc) : Option PoisonRsn := (d.chunks.find? (fun c => c.rsn.isSome)).bind (·.rsn)

/-- Complete a descriptor whose outcome is settled (R579, R580): nothing in flight, and a transaction failed, all are done, or the
queue issues no further one (`halt`, R591). -/
def QDesc.settle (d : QDesc) (halt : Bool) (ts : Word) : QDesc :=
  if d.fin.isSome || d.fetch.isSome || d.chunks.any QChunk.flying then d else
  let xfer := okRun d.chunks
  match (d.chunks.find? (fun c => c.fail.isSome)).bind (·.fail) with
  | some (st, side) => d.finish st side (d.poisonOf.getD .none) xfer ts
  | none =>
    if halt || (d.next = d.len && d.chunks.all (fun c => c.phase = .over true || c.phase = .over false)) then
      match d.poisonOf with
      | some r => d.finish .poison 1 r xfer ts
      | none => d.finish .ok 0 .none xfer ts
    else d

/-- A descriptor completed by the sequence of R597: one whose transactions did not all complete has ERR_TIMEOUT. -/
def QDesc.abort (d : QDesc) (ts : Word) : QDesc :=
  let d1 := d.settle false ts
  if d1.fin.isSome then d1 else d1.finish .errTimeout 5 (d1.poisonOf.getD .none) (okRun d1.chunks) ts

/-- A descriptor while the sequence of R597 runs: it completes once nothing of it is in flight. -/
def QDesc.wind (d : QDesc) (ts : Word) : QDesc :=
  if d.fetch.isSome || d.taken || d.chunks.any QChunk.flying then d else d.abort ts

/-- A range of memory that a queue may address: DDR5, CXL or stacked SRAM, within one window of R4. -/
def memRange (a n : Nat) : Bool :=
  let fits (base size : Nat) : Bool := base ≤ a && a + n ≤ base + size
  fits 0x000000000000 0x000800000000 || fits 0x000800000000 0x000800000000 ||
    fits 0x001000000000 0x002000000000 || fits 0x003000000000 0x002000000000 ||
    fits 0x008000000000 0x000010000000 || fits 0x008010000000 0x000010000000

/-- A range within a single gate target window (R332). -/
def gateRange (a n : Nat) : Bool :=
  decide (0x00C000000000 ≤ a ∧ a < 0x00CC00000000 ∧ a % 0x40000000 < 0x20000000) &&
    decide (a % 0x02000000 + n ≤ 0x02000000)

/-- A descriptor breaks a rule of R576; `w` is the descriptor as stored. -/
def badDesc (type : Nat) (w : BitVec 256) : Bool :=
  let src := bitsOf w 0 48
  let dst := bitsOf w 64 48
  let len := bitsOf w 128 24 + 1
  let fs := w.getLsbD 154
  let fd := w.getLsbD 155
  let srcN := if fs then 1 else len
  let dstN := if fd then 1 else len
  bitsOf w 48 16 ≠ 0 || bitsOf w 112 16 ≠ 0 || bitsOf w 156 4 ≠ 0 || bitsOf w 192 64 ≠ 0 ||
    (fs && (type ≠ 1 || src % 256 ≠ 0)) || (fd && (type ≠ 2 || dst % 256 ≠ 0)) ||
    (match type with
      | 0 => !memRange src len || !memRange dst len || decide (src < dst + len ∧ dst < src + len)
      | 1 => !gateRange src srcN || !memRange dst len
      | 2 => !memRange src len || !gateRange dst dstN
      | _ => !memRange dst len)

/-- The fields of a fetched descriptor (R575). -/
def QDesc.parse (d : QDesc) (w : BitVec 256) : QDesc :=
  { d with fetch := none, src := bitsOf w 0 48, dst := bitsOf w 64 48, len := bitsOf w 128 24 + 1, evt := w.getLsbD 152,
           fence := w.getLsbD 153, fixedSrc := w.getLsbD 154, fixedDst := w.getLsbD 155, cookie := w.extractLsb' 160 32 }

/-- A fetch completes: the descriptor starts, or has its record due (R576, R581, R591). -/
def QDesc.fetched (d : QDesc) (type : Nat) (draining : Bool) (c : Delivered) (ts : Word) : QDesc :=
  let d0 := { d with late := c.late }
  if c.status ≠ .ok then d0.finish c.status 3 (if c.status = .poison then c.rsn else .none) 0 ts
  else
    let w := BitVec.ofNat 256 (leNat (c.bytes.map Prod.fst))
    let d1 := d0.parse w
    if draining then d1.finish .errFenced 5 .none 0 ts
    else if badDesc type w then d1.finish .errTarget 4 .none 0 ts
    else d1

/-- A read or write of a chunk completes (R578, R579). -/
def QChunk.complete (c : QChunk) (d : Delivered) : QChunk :=
  let bad := 2 ≤ statusCode d.status
  match c.phase with
  | .reading _ =>
    if bad then { c with phase := .over false, fail := some (d.status, 1) }
    else { c with phase := .held d.bytes, rsn := if d.status = .poison then some d.rsn else none }
  | .writing _ =>
    if bad then { c with phase := .over false, fail := some (d.status, 2) } else { c with phase := .over (d.status = .ok) }
  | _ => c

/-- The chunk of a tag. -/
def QChunk.hasTag (c : QChunk) (tag : Nat) : Bool := c.phase = .reading tag || c.phase = .writing tag

/-- A descriptor holds a tag. -/
def QDesc.hasTag (d : QDesc) (tag : Nat) : Bool := d.fetch = some tag || d.chunks.any (·.hasTag tag)

/-- The length of the chunk that begins at offset `o` (R577): up to 256 bytes, cut at every 256 bytes of the descriptor and at
every 4 KiB boundary of a side that is not fixed. -/
def QDesc.chunkLen (d : QDesc) (o : Nat) : Nat :=
  let a := min (256 - o % 256) (d.len - o)
  let b := if d.fixedSrc then a else min a (4096 - (d.src + o) % 4096)
  if d.fixedDst then b else min b (4096 - (d.dst + o) % 4096)

/-- The next write of a descriptor: the lowest chunk not yet written, if its data is there (R577). -/
def nextWrite : List QChunk → Option QChunk
  | [] => none
  | c :: cs =>
    match c.phase with
    | .held _ => some c
    | .reading _ => none
    | _ => nextWrite cs

/-- The transactions a descriptor has ready: whether each writes, and its chunk. -/
def QDesc.ready (d : QDesc) : List (Bool × QChunk) :=
  if d.fin.isSome || d.fetch.isSome || d.chunks.any (fun c => c.fail.isSome) then [] else
  (match nextWrite d.chunks with
    | some c => [(true, c)]
    | none => []) ++
  (if d.next < d.len then [(false, ⟨d.next, d.chunkLen d.next, .reading 0, none, none⟩)] else [])

/-! ### States (R585-R593, R666) -/

/-- Change every active descriptor of a queue. -/
def State.mapDescs (s : State) (h q : Nat) (f : QDesc → QDesc) : State :=
  s.setQueue h q { s.queue h q with active := (s.queue h q).active.map f }

/-- The frames in the buffers of a port die. -/
def State.frames (s : State) (p : Nat) : List Frame := mapGet s.port.frames [] p

/-- Put the frames of a port die. -/
def State.setFrames (s : State) (p : Nat) (l : List Frame) : State :=
  { s with port := { s.port with frames := mapSet s.port.frames [] p l } }

/-- A descriptor of a queue has its record due. -/
def State.qFinish (s : State) (h q : Nat) (index : BitVec 16) (st : Status) (detail : Nat) (late : Bool) (xfer : Nat)
    (ts : Word) : State :=
  s.mapDescs h q fun (d : QDesc) =>
    if d.index = index && d.fin.isNone then { d with late := d.late || late }.finish st detail .none xfer ts else d

/-- Stop the frames of a port die that `p` names (R666): one with nothing in flight completes with ERR_FENCED, another once its
writes have completed (R585). -/
def State.fenceFrames (s : State) (p : Nat) (sel : Frame → Bool) : State :=
  let hit := (s.frames p).filter fun f => sel f && !f.fenced
  let s1 := hit.foldl (fun t f =>
    if f.writes.isEmpty then t.qFinish f.hub f.queue f.index .errFenced 0 f.late 0 (f.fsTime.setWidth 32) else t) s
  s1.setFrames p ((s.frames p).filterMap fun f =>
    if sel f && !f.fenced then (if f.writes.isEmpty then none else some { f with fenced := true }) else some f)

/-- Complete the armed buffer of a queue, which no frame has taken (R666). -/
def State.dropArmed (s : State) (h q : Nat) : State :=
  s.mapDescs h q fun (d : QDesc) =>
    if d.fin.isSome || d.fetch.isSome || d.taken then d else d.finish .errFenced 5 .none 0 (s.qStamp h)

/-- An INTAKE queue leaves RUNNING: its frame in progress and its armed buffer complete with ERR_FENCED (R666). -/
def State.intakeLeave (s : State) (h q : Nat) : State :=
  if s.qType h q = 3 then
    ((List.range 4).foldl (fun t p => t.fenceFrames p fun f => f.hub = h && f.queue = q) s).dropArmed h q
  else s

/-- A queue enters a state. -/
def State.qEnter (s : State) (h q st : Nat) : State :=
  let s1 := s.setFld (QE_Q_STAT_STATE h q) st
  if s.qState h q = qRunning ∧ st ≠ qRunning then s1.intakeLeave h q else s1

/-- A queue reaches DISABLED: EN reads 0 (R613). -/
def State.qDisable (s : State) (h q : Nat) : State := (s.qEnter h q qDisabled).setFld (QE_Q_CFG_EN h q) 0

/-- A record is due while the completion ring is full: a RUNNING queue stalls (R587). -/
def State.qStall (s : State) (h q : Nat) : State :=
  let x := s.queue h q
  let due := !x.held.isEmpty || (x.active.head?.bind (·.fin)).isSome
  if s.qState h q = qRunning && due && x.writing.isNone && s.qFull h q then
    (s.qFlag h q (QE_ERR_QE_CQ_FULL h) false).qEnter h q qStalled
  else s

/-- What follows when records have come due or have been written (R587, R589): a full ring stalls the queue, STALLED ends, STOPPED is
entered, draining ends. -/
def State.qAdvance (s0 : State) (h q : Nat) : State :=
  let s := s0.qStall h q
  let x := s.queue h q
  let idle := x.active.isEmpty && x.held.isEmpty && x.writing.isNone
  let due := !x.held.isEmpty || (x.active.head?.bind (·.fin)).isSome || x.writing.isSome
  let s1 := if s.qState h q = qStalled && !due then s.qEnter h q qRunning else s
  let s2 := if (s1.qState h q = qRunning || s1.qState h q = qStalled) && x.stopAfter && idle then s1.qEnter h q qStopped else s1
  if s2.qState h q = qDraining && idle && s2.qCi h q = s2.qPi h q then s2.qDisable h q else s2

/-- A queue drains: no new data transaction, active descriptors complete as they stand (R591). -/
def State.qDrain (s : State) (h q : Nat) : State :=
  let s1 := s.qEnter h q qDraining
  ((s1.mapDescs h q fun (d : QDesc) => if s1.qType h q = 3 then d else d.settle true (s1.qStamp h))).qAdvance h q

/-! ### Records (R582, R585-R588) -/

/-- A record as it is written (R582). -/
def recordBits (r : QRec) (phase qstop : Bool) : BitVec 128 :=
  BitVec.ofNat 128 (r.cookie.toNat + r.index.toNat * 2 ^ 32 + statusCode r.status * 2 ^ 48 + r.late.toNat * 2 ^ 51 +
    rsnCode r.rsn * 2 ^ 52 + phase.toNat * 2 ^ 56 + qstop.toNat * 2 ^ 57 + r.detail * 2 ^ 58 + r.xfer * 2 ^ 64 +
    r.tstamp.toNat * 2 ^ 96)

/-- The record that is due next: one held, or that of the oldest active descriptor (R585). -/
def QSt.due (x : QSt) : Option QRec :=
  match x.held with
  | r :: _ => some r
  | [] => x.active.head?.bind (·.fin)

/-- The queue without the record that was due next. -/
def QSt.popDue (x : QSt) : QSt :=
  match x.held with
  | _ :: rs => { x with held := rs }
  | [] => { x with active := x.active.tail }

/-- A record whose write begins puts a queue with STOP_ON_ERR on its way to STOPPED (R589). -/
def State.qStops (s : State) (h q : Nat) (r : QRec) : Bool :=
  (s.qState h q = qRunning || s.qState h q = qStalled) &&
    ((s.queue h q).stopAfter || (s.bit (QE_Q_CFG_STOP_ON_ERR h q) && r.status ≠ .ok))

/-- PHASE of the record at CT (R582). -/
def State.qPhase (s : State) (h q : Nat) : Bool := (s.qCt h q).toNat / 2 ^ s.qSize h q % 2 = 0

/-- A request of a queue (R569). -/
def State.qRequest (s : State) (h q tag : Nat) (opc : Nat) (addr len : Nat) (bs : List PByte) : State :=
  s.issue { stop := BitVec.ofNat 9 (qeStop h), tag := BitVec.ofNat 13 tag, mid := BitVec.ofNat 12 (s.fld (QE_Q_MID_MID h q)),
            cls := s.qClass h q, opc := BitVec.ofNat 3 opc, addr := BitVec.ofNat 48 addr, lenm1 := BitVec.ofNat 8 (len - 1),
            dbg := false, imm := if bs.length ≤ 8 then BitVec.ofNat 64 (leNat (bs.map Prod.fst)) else 0,
            poison := bs.length ≤ 8 && bs.any Prod.snd, data := if bs.length ≤ 8 then [] else packFlits bs }

/-- The state in which records may be written: not DISABLED, and in ERROR only after RETRY (R589, R590). -/
def State.qMayWrite (s : State) (h q : Nat) : Bool :=
  s.qState h q ≠ qDisabled && (s.qState h q ≠ qError || (s.queue h q).retry)

/-- The write of the next due record begins, or the queue stalls (R585, R587). -/
def State.qWriteRecord (s : State) (h q tag : Nat) : State :=
  let x := s.queue h q
  match x.due with
  | none => s
  | some r =>
    if !s.qMayWrite h q then s
    else if s.qFull h q then s.qStall h q
    else if !s.tagFree (qeStop h) tag || 1024 ≤ s.qeOutstanding h then s
    else
      let stops := s.qStops h q r
      let last := (x.popDue.active.isEmpty && x.popDue.held.isEmpty)
      let bits := recordBits r (s.qPhase h q) (stops && last)
      let s1 := s.setQueue h q { x with writing := some (tag, bits), stopAfter := x.stopAfter || stops }
      s1.qRequest h q tag 1 (s.csr64 (QE_Q_CBASE h q) |>.toNat.add (16 * ((s.qCt h q).toNat % 2 ^ s.qSize h q))) 16
        ((bytesOf bits 16).map fun b => (b, false))

/-- The event FIFO of a hub (R588). -/
def State.qEvts (s : State) (h : Nat) : List Nat := mapGet s.qe.evts [] h

/-- Put the event FIFO of a hub. -/
def State.setQEvts (s : State) (h : Nat) (l : List Nat) : State :=
  { s with qe := { s.qe with evts := mapSet s.qe.evts [] h l } }

/-- The queue event (R588). -/
def State.qEvent (s : State) (h q : Nat) : State :=
  if (s.qEvts h).contains q then s else (s.setQEvts h (s.qEvts h ++ [q])).msixEdges s

/-- A record's write has completed with OK (R582, R588, R589). -/
def State.qRecordDone (s : State) (h q : Nat) : State :=
  let x := s.queue h q
  let s1 := s.setFld (QE_Q_IDX_CT h q) ((s.qCt h q + 1).toNat)
  let s2 := if (x.due.map (·.evt)).getD false && s.bit (QE_Q_CFG_EVT_EN h q) then s1.qEvent h q else s1
  let s3 := s2.setQueue h q { x.popDue with writing := none, retry := false }
  (if s3.qState h q = qError then s3.qEnter h q x.before else s3).qAdvance h q

/-- COMPLETION_RECORD_WRITE (R585): the next due record goes out under a tag; or the record in flight has been written. -/
def execCompletionRecordWrite (hub : Fin 2) (q : Fin 4096) (tag : Fin 8192) (s : State) : Host.Outcome State Fault Refusal :=
  .next (match (s.queue hub q).writing with
    | some (t, _) =>
      match s.inboxAt (qeStop hub) t with
      | some c => if c.status = .ok then (s.dropInbox (qeStop hub) t).qRecordDone hub q else s
      | none => s
    | none => s.qWriteRecord hub q tag)

/-- Show a held record in QE_Q_HELD (R590). -/
def State.qShowHeld (s : State) (h q : Nat) (bits : BitVec 128) : State :=
  (List.range 4).foldl (fun t j => t.setCsr (QE_Q_HELD h q j) (bits.extractLsb' (32 * j) 32)) s

/-- QE_CQ_ERR (R590): the record write in flight has completed with another status. -/
def execQeCqErr (hub : Fin 2) (q : Fin 4096) (s : State) : Host.Outcome State Fault Refusal :=
  .next (match (s.queue hub q).writing with
    | some (t, bits) =>
      match s.inboxAt (qeStop hub) t with
      | some c =>
        if c.status = .ok then s else
        let x := s.queue hub q
        let st := s.qState hub q
        let held := match x.due with
          | some r => r :: x.popDue.held
          | none => x.held
        let s1 := (s.dropInbox (qeStop hub) t).setQueue hub q
          { x.popDue with held := held, writing := none, retry := false, before := if st = qError then x.before else st }
        ((s1.qShowHeld hub q bits).qFlag hub q (QE_ERR_QE_CQ_ERR hub) false).qEnter hub q qError
      | none => s
    | none => s)

/-! ### Doorbells (R570, R572, R574) -/

/-- May a master ring a queue's doorbells (R572)? -/
def State.qOwner (s : State) (mid h q : Nat) : Bool := s.levelS mid || mid = s.fld (QE_Q_MID_OWNER h q)

/-- A write of QE_Q_PI (R570, R572). -/
def State.qDoorbell (s : State) (mid h q : Nat) (value : Word) : State × Status :=
  if !s.qOwner mid h q then (s.qFlag h q (QE_ERR_DENIED_DB h) true, .errDenied)
  else
    let pi : BitVec 16 := value.setWidth 16
    let n := (pi - s.qCi h q).toNat
    if 2 ^ s.qSize h q < n ∨ n < (s.qPi h q - s.qCi h q).toNat then (s.qFlag h q (QE_ERR_BAD_DB h) true, .ok)
    else (s.setFld (QE_Q_PI_PI h q) pi.toNat, .ok)

/-- A write of QE_Q_CQH (R572, R574). -/
def State.qHeadWrite (s : State) (mid h q : Nat) (value : Word) : State × Status :=
  if !s.qOwner mid h q then (s.qFlag h q (QE_ERR_DENIED_DB h) true, .errDenied)
  else
    let ch : BitVec 16 := value.setWidth 16
    if 2 ^ s.qSize h q < (s.qCt h q - ch).toNat then (s.qFlag h q (QE_ERR_BAD_DB h) true, .ok)
    else (s.setFld (QE_Q_CQH_CH h q) ch.toNat, .ok)

/-- DOORBELL (R570). -/
def execDoorbell (mid : BitVec 12) (hub : Fin 2) (q : Fin 4096) (value : Word) (s : State) : Host.Outcome State Fault Refusal :=
  .next (s.regWrite (QE_Q_PI hub q) fun s => s.qDoorbell mid.toNat hub q value)

/-- CQH_WRITE (R574). -/
def execCqhWrite (mid : BitVec 12) (hub : Fin 2) (q : Fin 4096) (value : Word) (s : State) : Host.Outcome State Fault Refusal :=
  .next (s.regWrite (QE_Q_CQH hub q) fun s => s.qHeadWrite mid.toNat hub q value)

/-! ### Configuration (R567, R589, R593) -/

/-- A queue has an intake mapping (R655): an enabled VC entry, or an enabled steering entry, names it. -/
def State.qMapped (s : State) (h q : Nat) : Bool :=
  (List.range 4).any fun p =>
    ((List.range 8).any fun k => (List.range 16).any fun v =>
      s.bit (PRT_INT_VC_EN p k v) && s.fld (PRT_INT_VC_HUB p k v) = h && s.fld (PRT_INT_VC_QUEUE p k v) = q) ||
    ((List.range 4).any fun m => (List.range 16).any fun e =>
      s.fld (PRT_ETH_STEER_KIND p m e) ≠ 0 && s.fld (PRT_ETH_STEER_HUB p m e) = h && s.fld (PRT_ETH_STEER_QUEUE p m e) = q)

/-- The configuration of a queue is valid (R567, R589). -/
def State.qValid (s : State) (h q : Nat) : Bool :=
  (s.csr64 (QE_Q_DBASE h q)).toNat % (32 * 2 ^ s.qSize h q) = 0 && (s.csr64 (QE_Q_CBASE h q)).toNat % (16 * 2 ^ s.qSize h q) = 0 &&
    (s.qType h q ≠ 3 || s.qMapped h q)

/-- EN written 1 in DISABLED (R589, R590, R598). -/
def State.qEnable (s : State) (h q : Nat) : State :=
  if s.qValid h q then
    let s1 := (s.setFld (QE_Q_CFG_EN h q) 1).qShowHeld h q 0
    (s1.setQueue h q { s1.queue h q with stopAfter := false, retry := false, before := 0 }).qEnter h q qRunning
  else s.qFlag h q (QE_ERR_BAD_CFG h) true

/-- EN written 0 in an enabled state (R589, R591). A queue that leaves ERROR so keeps the records of its active descriptors in its
hold store (R586). -/
def State.qOff (s : State) (h q : Nat) : State :=
  let st := s.qState h q
  if st = qError then (s.mapDescs h q (fun (d : QDesc) => d.settle true (s.qStamp h))).qDisable h q
  else if st = qDisabled ∨ st = qDraining then s
  else s.qDrain h q

/-- RESUME and RETRY of a write of QE_Q_CFG, which are W1S and so act for every master (R15, R589, R592, R613). -/
def State.qSignals (s : State) (h q : Nat) (v : Word) : State :=
  let st := s.qState h q
  if st = qStopped ∧ v.getLsbD 18 then
    (s.setQueue h q { s.queue h q with stopAfter := false }).qEnter h q qRunning
  else if st = qError ∧ v.getLsbD 19 then s.setQueue h q { s.queue h q with retry := true }
  else s

/-- A write of QE_Q_CFG by Level S (R589, R592, R593, R613). -/
def State.qCfgWrite (s : State) (h q : Nat) (v : Word) : State :=
  let st := s.qState h q
  let fields := 0x3FFFE#32
  let old := s.csr (QE_Q_CFG h q)
  let s1 := if st = qDisabled then s.setCsr (QE_Q_CFG h q) ((old &&& 1#32) ||| (v &&& fields))
    else if (v ^^^ old) &&& fields ≠ 0 then s.qFlag h q (QE_ERR_CFG_REFUSED h) true else s
  if !v.getLsbD 0 then s1.qOff h q
  else if st = qDisabled then s1.qEnable h q
  else s1.qSignals h q v

/-- A write of QE_Q_CFG: another master than Level S reaches only its W1S fields (R15, R613). -/
def State.qCfgBy (s : State) (may : Bool) (h q : Nat) (v : Word) : State × Status :=
  if may then (s.qCfgWrite h q v, .ok) else (s.qSignals h q v, .errDenied)

/-- A write of QE_Q_CFG that makes one of its changes. -/
def State.qCfgCommand (s : State) (mid : BitVec 12) (h q : Nat) (v : Word) : State :=
  s.regWrite (QE_Q_CFG h q) fun s => s.qCfgBy (s.levelS mid.toNat) h q v

/-- QUEUE_ENABLE (R589): EN written 1. -/
def execQueueEnable (mid : BitVec 12) (hub : Fin 2) (q : Fin 4096) (cfg : Word) (s : State) : Host.Outcome State Fault Refusal :=
  .next (s.qCfgCommand mid hub q (cfg ||| 1#32))

/-- QUEUE_DISABLE (R591): EN written 0. -/
def execQueueDisable (mid : BitVec 12) (hub : Fin 2) (q : Fin 4096) (cfg : Word) (s : State) : Host.Outcome State Fault Refusal :=
  .next (s.qCfgCommand mid hub q (cfg &&& 0xFFFFFFFE#32))

/-- QUEUE_RESUME (R592): RESUME written 1 with EN. -/
def execQueueResume (mid : BitVec 12) (hub : Fin 2) (q : Fin 4096) (cfg : Word) (s : State) : Host.Outcome State Fault Refusal :=
  .next (s.qCfgCommand mid hub q (cfg ||| 0x40001#32))

/-- RETRY (R589): RETRY written 1 with EN. -/
def execRetry (mid : BitVec 12) (hub : Fin 2) (q : Fin 4096) (cfg : Word) (s : State) : Host.Outcome State Fault Refusal :=
  .next (s.qCfgCommand mid hub q (cfg ||| 0x80001#32))

/-- A write of a word of QE_Q_DBASE, or of QE_Q_CBASE, by Level S (R593). -/
def State.qBaseWrite (s : State) (h q : Nat) (cbase : Bool) (key : Nat) (v : Word) : State :=
  if s.qState h q = qDisabled || (cbase && s.qState h q = qError) then s.setCsr key v
  else if s.csr key = v then s else s.qFlag h q (QE_ERR_CFG_REFUSED h) true

/-! ### Fetch, transactions and scheduling (R573, R577, R594-R596) -/

/-- A hub's queue engine accepts descriptors and issues data transactions: not while the sequence of R597 runs, for a reset or on
entry to SAFE (R982). -/
def State.qeRuns (s : State) (h : Nat) : Bool := !s.rst.hubs.getLsbD h && !s.rst.warm && !s.safe

/-- Throttle level 4 stops the class B transactions of the queue engines, where PWR_THR allows it (R892): fetches and transfers (log entry
113). -/
def State.qThrottled (s : State) (h q : Nat) : Bool :=
  s.qClass h q = .b && decide (4 ≤ s.fld PWR_STAT_THR_LEVEL) && s.bit PWR_THR_QE_B

/-- A queue may accept its next posted descriptor (R573, R587, R591, R594, R656). -/
def State.qMayFetch (s : State) (h q : Nat) : Bool :=
  let x := s.queue h q
  s.qCi h q ≠ s.qPi h q && x.active.length ≤ s.fld (QE_Q_CFG_MAXACT h q) && s.qeActive h < 256 && s.qeOutstanding h < 1024 &&
    s.qeRuns h && !s.qThrottled h q &&
    (s.qState h q = qDraining ||
      (s.qState h q = qRunning && !x.stopAfter && x.held.isEmpty &&
        (s.qType h q ≠ 3 || x.active.all (fun d => d.fin.isSome || d.taken))))

/-- DESCRIPTOR_FETCH (R573): the next posted descriptor is accepted and its fetch goes out under a tag. -/
def execDescriptorFetch (hub : Fin 2) (q : Fin 4096) (tag : Fin 8192) (s : State) : Host.Outcome State Fault Refusal :=
  .next (if s.qMayFetch hub q && s.tagFree (qeStop hub) tag then
    let ci := s.qCi hub q
    let x := s.queue hub q
    let s1 := s.setQueue hub q { x with active := x.active ++ [QDesc.fetching ci tag] }
    (s1.setFld (QE_Q_IDX_CI hub q) (ci + 1).toNat).qRequest hub q tag 0
      ((s.csr64 (QE_Q_DBASE hub q)).toNat + 32 * (ci.toNat % 2 ^ s.qSize hub q)) 32 []
  else s)

/-- The transactions a queue has ready: position of the descriptor, whether it writes, the chunk (R577, R591, R596). -/
def State.qReady (s : State) (h q : Nat) : List (Nat × Bool × QChunk) :=
  let x := s.queue h q
  if s.qState h q = qDraining || s.qState h q = qDisabled || s.qType h q = 3 || !s.qeRuns h || s.qThrottled h q then [] else
  x.active.zipIdx.flatMap fun di =>
    if di.1.fence && (di.2 ≠ 0 || !x.held.isEmpty || x.writing.isSome) then []
    else di.1.ready.map fun r => (di.2, r.1, r.2)

/-- The queues of a hub with transactions ready in a class. -/
def State.qReadyIn (s : State) (h : Nat) (cls : TClass) : List Nat :=
  (s.qe.queues.filter fun kv => kv.1 / 4096 = h && s.qClass h (kv.1 % 4096) = cls && !(s.qReady h (kv.1 % 4096)).isEmpty).map
    fun kv => kv.1 % 4096

/-- The scheduler of a hub. -/
def State.qSched (s : State) (h : Nat) : QSched := mapGet s.qe.scheds QSched.zero h

/-- Round-robin: the first queue of an ascending list above the last one served, else the first. -/
def roundRobin (last : Nat) (qs : List Nat) : Option Nat :=
  match qs.find? (fun q => last < q) with
  | some q => some q
  | none => qs.head?

/-- The class whose turn comes (R595): G, then P, then B, but B after 15 turns in a row given to P while B waited. -/
def turnClass (g p b : Bool) (pRun : Nat) : Option TClass :=
  if g then some .g else if b && (!p || 15 ≤ pRun) then some .b else if p then some .p else none

/-- Whose turn it is (R595): the queue, the transactions left of its turn, and the scheduler. -/
def State.qTurn (s : State) (h : Nat) : Option (Nat × Nat × QSched) :=
  let c := s.qSched h
  match c.turn.filter (fun t => 0 < t.2 && !(s.qReady h t.1).isEmpty) with
  | some t => some (t.1, t.2, c)
  | none =>
    let g := s.qReadyIn h .g
    let p := s.qReadyIn h .p
    let b := s.qReadyIn h .b
    match turnClass (!g.isEmpty) (!p.isEmpty) (!b.isEmpty) c.pRun with
    | none => none
    | some cls =>
      let i : Fin 3 := match cls with | .g => 0 | .p => 1 | .b => 2
      match roundRobin (c.last.get i) (match cls with | .g => g | .p => p | .b => b) with
      | none => none
      | some q =>
        let run := if cls = .p ∧ !b.isEmpty then c.pRun + 1 else if cls = .g then c.pRun else 0
        some (q, s.fld (QE_Q_CFG_WEIGHT h q) + 1, { c with last := c.last.set i q, pRun := run })

/-- A ready transaction of a queue goes out (R577, R578). -/
def State.qIssue (s : State) (h q tag pos : Nat) (write : Bool) (c : QChunk) : State :=
  let x := s.queue h q
  match x.active[pos]? with
  | none => s
  | some d =>
    let data := match c.phase with
      | .held bs => bs
      | _ => []
    let d1 := if write then
        { d with chunks := d.chunks.map fun (k : QChunk) => if k.off = c.off then { k with phase := .writing tag } else k }
      else { d with next := c.off + c.len, chunks := d.chunks ++ [{ c with phase := .reading tag }] }
    let addr := if write then (if d.fixedDst then d.dst else d.dst + c.off) else (if d.fixedSrc then d.src else d.src + c.off)
    (s.setQueue h q { x with active := x.active.set pos d1 }).qRequest h q tag (if write then 1 else 0) addr c.len data

/-- QE_TRANSACTION_ISSUE (R577, R595): the queue whose turn it is issues one of its ready transactions; `pick` chooses among
those of its descriptors. -/
def execQeTransactionIssue (hub : Fin 2) (tag : Fin 8192) (pick : Nat) (s : State) : Host.Outcome State Fault Refusal :=
  .next (if !s.tagFree (qeStop hub) tag || 1024 ≤ s.qeOutstanding hub then s else
    match s.qTurn hub with
    | none => s
    | some (q, left, c) =>
      let r := s.qReady hub q
      match r[pick % r.length]? with
      | none => s
      | some (pos, write, k) =>
        let s1 := { s with qe := { s.qe with scheds := mapSet s.qe.scheds QSched.zero hub { c with turn := some (q, left - 1) } } }
        s1.qIssue hub q tag pos write k)

/-- A completion is applied to the descriptor that holds its tag (R579-R581, R591). -/
def State.qApply (s : State) (h q : Nat) (c : Delivered) : State :=
  let st := s.qState h q
  let halt := decide (st = qDraining ∨ st = qDisabled)
  let ts := s.qStamp h
  (s.mapDescs h q fun (d : QDesc) =>
    if d.fetch = some c.tag then
      let d1 := d.fetched (s.qType h q) (st = qDraining) c ts
      if s.qType h q = 3 ∧ st ≠ qRunning ∧ d1.fin.isNone then d1.finish .errFenced 5 .none 0 ts else d1
    else if d.hasTag c.tag then
      let d1 := { d with late := d.late || c.late,
                         chunks := d.chunks.map fun (k : QChunk) => if k.hasTag c.tag then k.complete c else k }
      let d2 := d1.settle halt ts
      if s.qeRuns h then d2 else d2.wind ts
    else d).qAdvance h q

/-- QE_TRANSACTION_DONE (R579). -/
def execQeTransactionDone (hub : Fin 2) (tag : Fin 8192) (s : State) : Host.Outcome State Fault Refusal :=
  .next (match s.inboxAt (qeStop hub) tag with
    | none => s
    | some c =>
      match s.qe.queues.find? (fun kv => kv.1 / 4096 = hub.val && kv.2.active.any (·.hasTag tag)) with
      | none => s
      | some kv => (s.dropInbox (qeStop hub) tag).qApply hub (kv.1 % 4096) c)

/-! ### Events (R588) and derived registers -/

/-- QE_EVT_FIFO as a read shows it: the oldest queue number (R612). -/
def State.qEvtWord (s : State) (h : Nat) : Word :=
  match s.qEvts h with
  | q :: _ => BitVec.ofNat 32 (q + 2 ^ 31)
  | [] => 0

/-- A read of QE_EVT_FIFO without the debug attribute pops an entry (R588). -/
def State.qEvtPop (s : State) (h : Nat) : State := s.setQEvts h (s.qEvts h).tail

/-- QE_STAT (R612). -/
def State.qeStat (s : State) (h : Nat) : Word := BitVec.ofNat 32 (s.qeActive h + 512 * s.qeOutstanding h)

/-- QE_Q_STAT (R614): CQ_FULL while a record is due and the ring is full, HELD counting the records that wait. -/
def State.qStat (s : State) (h q : Nat) : Word :=
  let x := s.queue h q
  let wait := x.held.length + (if s.qFull h q then (x.active.takeWhile (fun d => d.fin.isSome)).length else 0)
  BitVec.ofNat 32 (s.qState h q + 8 * (x.due.isSome && s.qFull h q).toNat + 16 * x.active.length + 256 * wait)

/-! ### Resets (R597, R598) -/

/-- The end of the sequence of R597 for one queue: what was not written is held, and the queue is DISABLED (R598). -/
def State.qResetEnd (s : State) (h q : Nat) : State :=
  let s0 := s.intakeLeave h q
  let x := s0.queue h q
  let recs := x.held ++ x.active.filterMap fun d => (d.abort (s.qStamp h)).fin
  let s1 := s0.setQueue h q { QSt.zero with held := recs }
  let s2 := (s1.setFld (QE_Q_STAT_STATE h q) qDisabled).setFld (QE_Q_CFG_EN h q) 0
  match recs with
  | r :: _ => s2.qShowHeld h q (recordBits r (s.qPhase h q) false)
  | [] => s2

/-- The end of the sequence of R597 for a hub. -/
def State.qeResetEnd (s : State) (h : Nat) : State :=
  let s1 := (s.qe.queues.filter (fun kv => kv.1 / 4096 = h)).foldl (fun t kv => t.qResetEnd h (kv.1 % 4096)) s
  let s2 := (List.range 4096).foldl (fun t q => if t.qState h q = qDisabled then t else t.qResetEnd h q) s1
  { s2 with qe := { s2.qe with evts := mapSet s2.qe.evts [] h [], scheds := mapSet s2.qe.scheds QSched.zero h QSched.zero } }

/-- Steps 1 to 3 of R597 begin for a hub: descriptors with nothing in flight complete as they stand, the others once their
transactions have. -/
def State.qeWind (s : State) (h : Nat) : State :=
  (s.qe.queues.filter (fun kv => kv.1 / 4096 = h)).foldl (fun t kv =>
    let q := kv.1 % 4096
    if t.qType h q = 3 then t else (t.mapDescs h q fun (d : QDesc) => d.wind (t.qStamp h)).qAdvance h q) s

end Sys2Proof.Machine
end

