-- ==== Sys2Proof/Machine/Reply.lean ====
section
/-! DEFINITION. Command packets and their replies (R750-R787), and the transfers that the management controller and the
configuration master carry out over the ring (R298, R729, R777). -/

namespace Sys2Proof.Machine

open Sys2Proof

/-! ### Transfers -/

/-- A transfer of `len` bytes at an address. -/
def Xfer.start (stop mid : Nat) (write dbg : Bool) (addr len : Nat) (data : List Byte) : Xfer :=
  { stop := stop, mid := mid, write := write, dbg := dbg, addr := addr, left := len, data := data, got := [], inflight := none,
    fail := none, stopped := false, late := false, peek := false }

/-- A transfer has ended: nothing is in flight and nothing is left, or it has stopped. -/
def Xfer.ended (x : Xfer) : Bool := x.inflight.isNone && (x.left = 0 || x.stopped)

/-- Bytes of the next transaction: at most 256, within 4 KiB (R298). -/
def Xfer.chunk (x : Xfer) : Nat := min (min 256 x.left) (4096 - x.addr % 4096)

/-- The next transaction of a transfer goes out. -/
def State.xferIssue (s : State) (x : Xfer) : Xfer × State :=
  if x.inflight.isSome || x.ended then (x, s) else
  match s.freeTag x.stop with
  | none => (x, s)
  | some tag =>
    let n := x.chunk
    let bs : List PByte := (x.data.take n).map fun b => (b, false)
    let r : IssueReq := {
      stop := BitVec.ofNat 9 x.stop, tag := BitVec.ofNat 13 tag, mid := BitVec.ofNat 12 x.mid, cls := .p,
      opc := if x.write then 1 else 0, addr := BitVec.ofNat 48 x.addr, lenm1 := BitVec.ofNat 8 (n - 1), dbg := x.dbg && !x.write,
      imm := if x.write && n ≤ 8 then BitVec.ofNat 64 (leNat (x.data.take n)) else 0,
      poison := false, data := if x.write && 8 < n then packFlits bs else [] }
    ({ x with inflight := some (tag, n) }, s.issue r)

/-- The transaction in flight has completed. -/
def Xfer.take (x : Xfer) (n : Nat) (d : Delivered) : Xfer :=
  { x with
    inflight := none, addr := x.addr + n, left := x.left - n, data := x.data.drop n,
    got := if x.write || 2 ≤ statusCode d.status then x.got else x.got ++ d.bytes.take n,
    fail := if x.fail.isNone && d.status ≠ .ok then some (d.status, d.rsn, d.late) else x.fail,
    stopped := x.stopped || decide (2 ≤ statusCode d.status), late := x.late || d.late, peek := x.peek || d.peek }

/-- A transfer moves on as far as it can: completions that wait are taken and the next transaction goes out. A transaction that
completes at once does so with an error, so three turns are enough. -/
def State.xferPump : Nat → State → Xfer → Xfer × State
  | 0, s, x => (x, s)
  | n + 1, s, x =>
    match x.inflight with
    | none => if x.ended then (x, s) else
        let r := s.xferIssue x
        State.xferPump n r.2 r.1
    | some (tag, len) =>
      match s.inboxAt x.stop tag with
      | none => (x, s)
      | some d => State.xferPump n (s.dropInbox x.stop tag) (x.take len d)

/-- res0 of MEM_READ and MEM_WRITE (R777). -/
def Xfer.result (x : Xfer) : Word :=
  match x.fail with
  | some (st, rsn, late) => BitVec.ofNat 32 (statusCode st + 8 * rsnCode rsn + 128 * late.toNat)
  | none => 0

/-- Bytes as little-endian words (R762), the last one filled with zeros. -/
def packWords32 (bs : List Byte) : List Word :=
  (List.range ((bs.length + 3) / 4)).map fun i => leWord ((bs.drop (4 * i)).take 4)

/-- Words as bytes (R9). -/
def wordBytes (ws : List Word) : List Byte := ws.flatMap fun w => bytesOf w 4

/-! ### The management controller -/

/-- REASON of the present stay in SAFE (R951). -/
def State.reason (s : State) : Nat := s.fld RST_STAT_REASON

/-- The MC of H0 serves commands (R757, R936, R1008): its hub is ready and neither reset nor restarted, it is not stopped by a
power state or its comparator; in SAFE, its firmware had been booted and a clock runs (log entry 40). -/
def State.mcRuns (s : State) : Bool :=
  !s.rst.hubs.getLsbD 0 && s.rst.restart ≠ some 0 && s.rst.entry.isNone && !s.rst.asleep && !s.rst.parked && !s.cpu.mcStop.getLsbD 0 &&
    (if s.safe then !s.rst.faulted.getLsbD 0 && (3 ≤ s.fld RST_STAT_PHASE || s.reason = 14) else 3 ≤ s.fld RST_STAT_PHASE || s.fld RST_STAT_STATE = 1)

/-! ### Transports and packets (R750-R768) -/

/-- Transport ID (R750). -/
def tidOf (k : Nat) : Nat := if k < 2 then k + 1 else if k < 6 then 0x10 + (k - 2) else 0x20

/-- A transport. -/
def State.tr (s : State) (k : Nat) : Transport := mapGet s.cmd.trs Transport.zero k

/-- Change a transport. -/
def State.setTr (s : State) (k : Nat) (t : Transport) : State :=
  { s with cmd := { s.cmd with trs := mapSet s.cmd.trs Transport.zero k t } }

/-- CRC of a packet's words before its last (R764). -/
def pktCrc (k seq : Nat) (ws : List Word) : Word :=
  crc32c (0xFFFFFFFF#32 ^^^ BitVec.ofNat 32 (tidOf k * 65536 + seq)) (wordBytes ws)

/-- A reply packet (R763): its FLAGS are CPL 1, DUP 2, PEEK 4 and LATE 8. -/
def mkReply (k seq ver flags status : Nat) (word1 : Word) (res : List Word) : List Word :=
  let ws := BitVec.ofNat 32 (0xC1 + ver % 16 * 256 + flags * 4096 + status * 65536) :: word1 :: res
  ws ++ [pktCrc k seq ws]

/-- Word 1 of a reply: TAG and LENGTH. -/
def replyWord1 (tag : Nat) (res : List Word) : Word := BitVec.ofNat 32 (tag + res.length * 65536)

/-- Status codes (R787). -/
def stOk : Nat := 0
def stAccepted : Nat := 1
def stBadCrc : Nat := 0x8001
def stBadOpcode : Nat := 0x8002
def stBadLength : Nat := 0x8003
def stDenied : Nat := 0x8004
def stBusy : Nat := 0x8005
def stState : Nat := 0x8006
def stTimeout : Nat := 0x8007
def stHwFault : Nat := 0x8008
def stVersion : Nat := 0x8009

/-- A reply joins the replies of its transport (R755, R758, R779); a final or ACCEPTED reply ends BUSY of CMD-SPI (R754). -/
def State.pushReply (s : State) (k : Nat) (p : ReplyPkt) : State :=
  let t := s.tr k
  s.setTr k { t with replies := t.replies ++ [p], busy := t.busy && p.kind = .completion }

/-- A command is answered with a final or ACCEPTED reply, which is kept for a duplicate (R767). -/
def State.answer (s : State) (k seq ver tag status : Nat) (res : List Word) (flags : Nat := 0) : State :=
  let p : ReplyPkt := ⟨mkReply k seq ver flags status (replyWord1 tag res) res, if status = stAccepted then .accepted else .final⟩
  let t := s.tr k
  (s.setTr k (if t.lastSeq = seq then { t with reply := some p } else t)).pushReply k p

/-- The mask of accepted versions (R780, R794). -/
def State.versions (s : State) : Nat := if s.cmd.v2 then 12 else 8

/-- OUTSTANDING follows the commands under ACCEPTED (R794). -/
def State.showAccs (s : State) : State := s.setFld CMD_STAT_OUTSTANDING s.cmd.accs.length

/-! ### Acceptance (R769-R773, R785) -/

/-- An opcode (R788): least and greatest LENGTH, whether it answers ACCEPTED, and whether version 2 has it (R781). -/
structure OpInfo where
  lo  : Nat
  hi  : Nat
  acc : Bool
  v2  : Bool
  deriving DecidableEq, Repr

/-- The table of R788. -/
def opInfo (op : Nat) : Option OpInfo :=
  match op with
  | 0x0000 | 0x0001 | 0x0002 | 0x0100 | 0x0207 | 0x0408 | 0x0501 | 0x0601 | 0x0603 | 0x0705 => some ⟨0, 0, false, true⟩
  | 0x0101 | 0x0102 | 0x0302 | 0x0401 | 0x0406 | 0x040A | 0x0502 | 0x0600 | 0x0602 | 0x0704 => some ⟨1, 1, false, true⟩
  | 0x0200 => some ⟨2, 2, true, true⟩
  | 0x0201 => some ⟨2, 253, false, true⟩
  | 0x0202 | 0x0206 | 0x0500 | 0x0701 | 0x0801 => some ⟨1, 1, true, true⟩
  | 0x0203 => some ⟨3, 3, true, false⟩
  | 0x0204 | 0x0303 => some ⟨3, 3, true, true⟩
  | 0x0205 => some ⟨1, 1, true, false⟩
  | 0x0300 | 0x0403 | 0x0604 => some ⟨3, 3, false, true⟩
  | 0x0301 => some ⟨4, 253, false, true⟩
  | 0x0400 => some ⟨19, 19, false, true⟩
  | 0x0402 => some ⟨1, 1, false, false⟩
  | 0x0404 | 0x0800 => some ⟨4, 4, false, true⟩
  | 0x0405 | 0x0702 | 0x0703 => some ⟨0, 0, true, true⟩
  | 0x0407 => some ⟨25, 25, false, true⟩
  | 0x0409 => some ⟨13, 13, false, true⟩
  | 0x040B => some ⟨11, 11, false, true⟩
  | 0x0503 => some ⟨2, 2, false, true⟩
  | 0x0700 => some ⟨3, 253, false, true⟩
  | 0x0802 => some ⟨0, 253, false, false⟩
  | _ => none

/-- The bits of arg0 that an opcode gives a meaning (R788). -/
def argMask (op : Nat) : Nat :=
  match op with
  | 0x0201 => 0x8FFFFFFC
  | 0x0202 | 0x0204 | 0x0700 | 0x0701 => 0xFF
  | 0x0203 | 0x0205 => 0x3FFFF
  | 0x0206 | 0x0400 | 0x0401 | 0x0402 | 0x0801 => 0x3F
  | 0x0302 => 0xF
  | 0x0303 => 0x7FF
  | 0x0403 => 0x0FFF0003
  | 0x0404 => 0x7F
  | 0x0406 | 0x0409 | 0x040A | 0x040B | 0x0500 => 0x3
  | 0x0407 => 0xF03
  | 0x0503 => 0x7
  | 0x0602 => 0x77
  | _ => 0xFFFFFFFF

/-- The parameters of a command. -/
def argAt (args : List Word) (i : Nat) : Nat := (args.getD i 0).toNat

/-- A 64-bit parameter, low word first (R788). -/
def argPair (args : List Word) (i : Nat) : Nat := argAt args i + argAt args (i + 1) * 2 ^ 32

/-- Check 5 of R769 for the parameters: reserved bits are 0, and a data length is one the opcode gives (R788). -/
def argsOk (op : Nat) (args : List Word) : Bool :=
  (args.getD 0 0 &&& ~~~(BitVec.ofNat 32 (argMask op))) = 0 &&
  (match op with
    | 0x0300 => 1 ≤ argAt args 2 && argAt args 2 ≤ 1008 && argAt args 1 < 65536
    | 0x0301 => 1 ≤ argAt args 2 && argAt args 2 ≤ 1000 && argAt args 1 < 65536 && args.length = 3 + (argAt args 2 + 3) / 4
    | 0x040B => argAt args 0 < 3
    | 0x0503 => argAt args 1 < 512
    | 0x0800 => argAt args 3 < 2 ^ 24
    | _ => true)

/-- The opcodes that R773 permits in SAFE and during start-up (log entry 41). In CFG_MODE PCIE the image comes through the mailbox of P0,
transport 2, and no other transport pushes it (R703, log entry 112). -/
def State.opPermitted (s : State) (k op : Nat) : Bool :=
  s.fld RST_STAT_STATE = 1 || op / 256 = 0 || op / 256 = 1 || op / 256 = 6 || op = 0x0700 || op = 0x0701 || op = 0x0503 || op = 0x0802 ||
    (op = 0x0201 && s.fld RST_STAT_STATE = 0 && s.fld RST_STAT_PHASE = 6 &&
      ((s.fld CFG_STAT_CFG_MODE = 2 && k = 2) || s.fld CFG_STAT_CFG_MODE = 3 || (s.fld CFG_STAT_CFG_MODE = 4 && s.cfg.tried = 2)))

/-- The resource an opcode needs (R785). -/
def opResource (op : Nat) (args : List Word) : Option (Nat × Nat) :=
  match op with
  | 0x0200 | 0x0202 | 0x0203 | 0x0204 | 0x0205 | 0x0206 => some (1, 0)
  | 0x0400 | 0x0401 | 0x0402 => some (2, argAt args 0 % 2)
  | 0x0701 | 0x0702 | 0x0703 | 0x0704 => some (3, 0)
  | 0x0303 => some (4, argAt args 0 % 2)
  | _ => none

/-- An earlier command still holds a resource (R739, R785). -/
def State.resourceHeld (s : State) (r : Nat × Nat) : Bool :=
  s.cmd.waiting.any (fun w => opResource w.op w.args = some r) ||
    s.cmd.accs.any (fun a => a.result.isNone && opResource a.cmd.op a.cmd.args = some r) || (r.1 = 1 && s.cfg.op.isSome)

/-- The checks 2 to 8 of R769 on a packet of transport `k`: the status of the first that fails, with its results (R782). -/
def State.checkCommand (s : State) (k : Nat) (ws : List Word) : Option (Nat × List Word) :=
  let w0 := ws.getD 0 0
  let w1 := ws.getD 1 0
  let op := bitsOf w0 16 16
  let ver := bitsOf w0 8 4
  let len := bitsOf w1 16 16
  let args := (ws.drop 2).dropLast
  if ws.length ≠ len + 3 then some (stBadLength, [])
  else if !(BitVec.ofNat 16 s.versions).getLsbD ver then some (stVersion, [BitVec.ofNat 32 s.versions])
  else match opInfo op with
    | none => some (stBadOpcode, [])
    | some i =>
      if ver = 2 && !i.v2 then some (stBadOpcode, [])
      else if len < i.lo || i.hi < len || bitsOf w0 14 2 ≠ 0 || !argsOk op args then some (stBadLength, [])
      else if !(s.csr (CMD_GRP_EN k)).getLsbD (op / 256) || (op = 0x0800 && s.fld (CMD_AUTH_LEVEL k) < 2) ||
          (w0.getLsbD 13 && s.fld (CMD_AUTH_LEVEL k) < 1) then some (stDenied, [])
      else if !s.opPermitted k op || s.cmd.accs.any (fun a => a.cmd.tr = k && a.cmd.tag = bitsOf w1 0 16) then some (stState, [])
      else if (opResource op args).any s.resourceHeld ||
          16 ≤ s.cmd.accs.length + (s.cmd.waiting.filter (fun w => (opInfo w.op).any (·.acc))).length then some (stBusy, [])
      else none

/-- The flag of CMD_ERR that a status sets (R795). -/
def State.cmdErr (s : State) (status : Nat) : State :=
  if status = stBadCrc then s.setFld CMD_ERR_BAD_CRC 1 else if status = stBadLength then s.setFld CMD_ERR_BAD_LENGTH 1
  else if status = stDenied then s.setFld CMD_ERR_DENIED 1 else s

/-- What GET_STATE shows (R788); during a hub reset of H0 it is STARTING in phase 2, 3 or 5 as the restart step may be (R938, a free
value). -/
def State.aoState (s : State) : Word × State :=
  if s.rst.hubs.getLsbD 0 then
    let r := s.free
    (BitVec.ofNat 32 (16 * [2, 3, 5].getD (r.1.toNat % 3) 2), r.2)
  else (s.csr RST_STAT, s)

/-- The always-on responder's answer (R757): NOP, GET_STATE, and STATE for every other opcode. -/
def State.aoAnswer (s : State) (ws : List Word) : (Nat × List Word) × State :=
  let w0 := ws.getD 0 0
  if ws.length ≠ bitsOf (ws.getD 1 0) 16 16 + 3 then ((stBadLength, []), s)
  else if bitsOf w0 16 16 = 0 then ((stOk, []), s)
  else if bitsOf w0 16 16 = 0x0100 then
    let r := s.aoState
    ((stOk, [r.1]), r.2)
  else ((stState, []), s)

/-- What the CRC and the sequence number say of a packet (R764-R767). -/
inductive SeqVerdict where
  | accept (seq next : Nat) | dup | bad
  deriving DecidableEq, Repr

/-- The sequence check of transport `k` (R764-R767). A packet identical to the last one whose CRC checked is a duplicate when its CRC
checks with SEQ_EXP - 1, whichever check then decided its reply (log entry 42). -/
def State.seqVerdict (s : State) (k : Nat) (ws : List Word) : SeqVerdict :=
  let e := s.fld (CMD_SEQ_SEQ_EXP k)
  let before := (e + 65535) % 65536
  let ok (n : Nat) : Bool := bitsOf (ws.getD 0 0) 0 8 = 0xC0 && 2 ≤ ws.length && ws.getLast? = some (pktCrc k n ws.dropLast)
  let sync := (ws.getD 0 0).getLsbD 12
  if !sync && ok e then .accept e ((e + 1) % 65536)
  else if !ok e && ok before && ws = (s.tr k).last then .dup
  else if sync && ok 0 then .accept 0 1
  else .bad

/-- A packet is checked and answered, or waits to be carried out (R757, R765-R769, R783). -/
def State.packetIn (s : State) (k : Nat) (ws : List Word) : State :=
  let w0 := ws.getD 0 0
  let ver := bitsOf w0 8 4
  let tag := bitsOf (ws.getD 1 0) 0 16
  let e := s.fld (CMD_SEQ_SEQ_EXP k)
  match s.seqVerdict k ws with
  | .bad =>
    ((s.cmdErr stBadCrc).satInc CMD_CNT_REJECTED).pushReply k
      ⟨mkReply k e ver 0 stBadCrc (ws.getD 1 0) [BitVec.ofNat 32 e], .final⟩
  | .dup =>
    let s1 := s.setFld CMD_ERR_DUP 1
    match (s.tr k).reply with
    | none => s1
    | some p =>
      let body := match p.words.dropLast with
        | w :: rest => (w ||| 0x2000#32) :: rest
        | [] => []
      s1.pushReply k ⟨body ++ [pktCrc k (s.tr k).lastSeq body], p.kind⟩
  | .accept seq next =>
    let s1 := (s.setFld (CMD_SEQ_SEQ_EXP k) next).setFld (CMD_SEQ_TAG k) tag
    let s2 := s1.setTr k { s1.tr k with last := ws, lastSeq := seq, reply := none }
    if !s.mcRuns then
      let r := s2.aoAnswer ws
      r.2.answer k seq ver tag r.1.1 r.1.2
    else match s2.checkCommand k ws with
      | some (st, res) => ((s2.cmdErr st).satInc CMD_CNT_REJECTED).answer k seq ver tag st res
      | none =>
        let w : Waiting := ⟨k, tag, seq, ver, bitsOf w0 16 16, w0.getLsbD 13, (ws.drop 2).dropLast⟩
        { s2 with cmd := { s2.cmd with waiting := s2.cmd.waiting ++ [w] } }

/-- A packet reaches the MC, or waits until the MC runs (R812); CMD-SPI is answered by the always-on responder meanwhile. -/
def State.deliverPacket (s : State) (k : Nat) (ws : List Word) : State :=
  if s.mcRuns || k = 0 then s.packetIn k ws else { s with cmd := { s.cmd with parked := s.cmd.parked ++ [(k, ws)] } }

/-- The MC runs again: packets that waited are served, and AO_RESP follows (R778, R794, R812). -/
def State.mcServe (s : State) : State :=
  let s0 := s.setBit CMD_STAT_AO_RESP (!s.mcRuns)
  if s.mcRuns then s0.cmd.parked.foldl (fun t p => t.packetIn p.1 p.2) { s0 with cmd := { s0.cmd with parked := [] } } else s0

/-! ### Carrying out (R774-R778, R783, R785) -/

/-- A command that stores data before it is answered, or before its unit restarts, waits while a hub reset runs (R991): REPAIR_CLEAR,
FW_ACTIVATE and FW_WRITE of unit 10. -/
def State.storeWaits (s : State) (w : Waiting) : Bool :=
  s.rst.hubs ≠ 0 && (w.op = 0x0602 || w.op = 0x0701 || (w.op = 0x0700 && argAt w.args 0 = 10))

/-- ACCEPTED commands whose completion waits for what they store (R33, R35, R991, R1013, R1014). -/
def storeOp (op : Nat) : Bool := op = 0x0205 || op = 0x0206 || op = 0x0701 || op = 0x0702 || op = 0x0703 || op = 0x0801

/-- The operation of an ACCEPTED command has ended and what it stores is stored (R776, R991). -/
def State.accEnded (s : State) (a : Acc) : Bool := a.result.isSome && (s.lts.waits.isEmpty || a.cut || !storeOp a.cmd.op)

/-- The command that the MC carries out next, if its opcode is `op` (R783, R991). -/
def State.front (s : State) (op : Nat) : Option Waiting :=
  match s.cmd.waiting with
  | w :: _ => if w.op = op && s.cmd.xfer.isNone && s.mcRuns && !s.storeWaits w then some w else none
  | [] => none

/-- The front command leaves the queue and counts as executed (R793). -/
def State.popWaiting (s : State) : State :=
  { s with cmd := { s.cmd with waiting := s.cmd.waiting.tail } }.satInc CMD_CNT_EXECUTED

/-- What a command's meaning gives: a final reply with status, results and flags; or ACCEPTED, with a completion that may be due at
once. -/
inductive CmdEnd where
  | final (status : Nat) (res : List Word)
  | accepted (result : Option (Nat × List Word))
  deriving DecidableEq, Repr

/-- The final or ACCEPTED reply to a command (R774, R775). -/
def State.answerTo (s : State) (w : Waiting) (status : Nat) (res : List Word) : State :=
  s.answer w.tr w.seq w.ver w.tag status res

/-- A command joins those answered ACCEPTED, and its ACCEPTED reply goes out (R775). -/
def State.acceptedTo (s : State) (w : Waiting) (result : Option (Nat × List Word)) : State :=
  { s with cmd := { s.cmd with accs := s.cmd.accs ++ [Acc.mk w result false] } }.showAccs.answerTo w stAccepted []

/-- Carry out the front command, if its opcode is `op`: its meaning gives its end and the state. -/
def State.cmdRun (s : State) (op : Nat) (f : Waiting → State → CmdEnd × State) : State :=
  match s.front op with
  | none => s
  | some w =>
    let r := f w s.popWaiting
    match r.1 with
    | .final st res => r.2.answerTo w st res
    | .accepted result => r.2.acceptedTo w result

/-- The operation of an ACCEPTED command with opcode `op` has ended. -/
def State.accDone (s : State) (op : Nat) (status : Nat) (res : List Word) : State :=
  { s with cmd := { s.cmd with accs := s.cmd.accs.map fun (a : Acc) =>
      if a.cmd.op = op && a.result.isNone then { a with result := some (status, res) } else a } }

/-- ACCEPTED commands that a reset of H0 interrupts: each completes with STATE once the hub is ready (R778). Commands not yet
answered are lost with the MC; their packets may be sent again. -/
def State.cutCommands (s : State) : State :=
  let trs := s.cmd.waiting.foldl (fun (m : Map Transport) w =>
    let t := mapGet m Transport.zero w.tr
    mapSet m Transport.zero w.tr (if t.reply.isNone then { t with last := [], busy := false } else t)) s.cmd.trs
  { s with cmd := { s.cmd with
      trs := trs, waiting := [], xfer := none,
      accs := s.cmd.accs.map fun (a : Acc) => if !s.accEnded a then { a with result := some (stState, [0xFFFF0001#32]), cut := true } else a } }

/-- SAFE completes ACCEPTED commands with HW_FAULT where the MC runs (R982). -/
def State.safeCommands (s : State) : State :=
  if s.mcRuns then
    { s with cmd := { s.cmd with accs := s.cmd.accs.map fun (a : Acc) =>
        if a.result.isNone then { a with result := some (stHwFault, [0xFFFF0002#32, BitVec.ofNat 32 s.reason]) } else a } }
  else s

/-! ### Transports: CMD-SPI, JTAG, mailboxes (R752-R761, R633-R635) -/

/-- A CMD-SPI frame that begins within 100 us of a wake from PARK, or wakes the device, is discarded (R908). -/
def State.spiDeaf (s : State) (early : Bool) : Bool := s.rst.parked || (early && s.fld RST_CAUSE_CAUSE = 3)

/-- WRITE_FRAME (R753, R756, R757, R908): the bytes of a frame; `early` when it begins within 100 us of a wake. -/
def execWriteFrame (bytes : List Byte) (early : Bool) (s : State) : Host.Outcome State Fault Refusal :=
  .next (if s.spiDeaf early then s.satInc CMD_FRAME_ERR_FRAME_ERR
    else if bytes.head? ≠ some 0xC0#8 then s
    else if (s.tr 0).busy then (s.setTr 0 { s.tr 0 with overrun := true }).setFld CMD_ERR_OVERRUN 1
    else (s.setTr 0 { s.tr 0 with busy := true }).deliverPacket 0 (packWords32 bytes))

/-- The CMD-SPI status byte (R754). -/
def State.spiStatus (s : State) : Byte :=
  let t := s.tr 0
  BitVec.ofNat 8 ((!t.replies.isEmpty).toNat + 2 * t.busy.toNat + 4 * t.overrun.toNat + 8 * (!s.mcRuns).toNat +
    16 * (decide (1 < t.replies.length)).toNat)

/-- READ_FRAME (R753-R756): `full` when the frame ends after the last byte of the reply it shows. -/
def execReadFrame (full early : Bool) (s : State) : Host.Outcome State Fault Refusal :=
  let t := s.tr 0
  .next (if s.spiDeaf early then s.satInc CMD_FRAME_ERR_FRAME_ERR
    else (s.setTr 0 { t with overrun := false, replies := if full then t.replies.tail else t.replies }).send
      (.spi s.spiStatus ((t.replies.head?.map (·.words)).getD [])))

/-- FRAME_ERR (R753, R908): a frame with another first byte. -/
def execFrameErr (first : Byte) (s : State) : Host.Outcome State Fault Refusal :=
  .next (if first = 0xC0 ∨ first = 0x0F then s else s.satInc CMD_FRAME_ERR_FRAME_ERR)

/-- CMDPKT_UPDATE_DR (R758, R812). -/
def execCmdpktUpdateDr (word : Word) (last : Bool) (s : State) : Host.Outcome State Fault Refusal :=
  let t := s.tr 1
  .next (if s.rst.parked then s
    else if last then (s.setTr 1 { t with inbuf := [] }).deliverPacket 1 (t.inbuf ++ [word])
    else s.setTr 1 { t with inbuf := t.inbuf ++ [word] })

/-- CMDPKT_CAPTURE_DR (R758). -/
def execCmdpktCaptureDr (s : State) : Host.Outcome State Fault Refusal :=
  let t := s.tr 1
  .next (match t.replies with
    | p :: rest =>
      let w := p.words.getD t.taken 0
      (if t.taken + 1 = p.words.length then s.setTr 1 { t with replies := rest, taken := 0 }
        else s.setTr 1 { t with taken := t.taken + 1 }).send (.jtag true w)
    | [] => s.send (.jtag false 0))

/-- The registers of a mailbox: BUSY, RDY, OVERRUN, RSP_LEN, request and reply words (R633-R635, R760). -/
def mbxIndex : MbxKind → Nat
  | .pcie p => 2 + p
  | .fabric => 6

/-- BUSY of a mailbox. -/
def mbxBusy : MbxKind → Fld
  | .pcie p => PRT_MBX_STAT_BUSY p
  | .fabric => CMD_FAB_STAT_BUSY

/-- RDY of a mailbox. -/
def mbxRdy : MbxKind → Fld
  | .pcie p => PRT_MBX_STAT_RDY p
  | .fabric => CMD_FAB_STAT_RDY

/-- OVERRUN of a mailbox. -/
def mbxOverrun : MbxKind → Fld
  | .pcie p => PRT_MBX_STAT_OVERRUN p
  | .fabric => CMD_FAB_STAT_OVERRUN

/-- RSP_LEN of a mailbox. -/
def mbxRspLen : MbxKind → Fld
  | .pcie p => PRT_MBX_STAT_RSP_LEN p
  | .fabric => CMD_FAB_STAT_RSP_LEN

/-- A request word of a mailbox. -/
def mbxReq (m : MbxKind) (i : Nat) : Nat :=
  match m with
  | .pcie p => PRT_MBX_REQ p i
  | .fabric => CMD_FAB_REQ i

/-- A reply word of a mailbox. -/
def mbxRsp (m : MbxKind) (i : Nat) : Nat :=
  match m with
  | .pcie p => PRT_MBX_RSP p i
  | .fabric => CMD_FAB_RSP i

/-- A doorbell write (R633, R634, R760): the first LEN words are handed over, or OVERRUN is set while BUSY. -/
def State.mbxDoorbell (s : State) (m : MbxKind) (value : Word) : State :=
  if s.bit (mbxBusy m) then (s.setFld (mbxOverrun m) 1).setFld CMD_ERR_OVERRUN 1
  else (s.setFld (mbxBusy m) 1).deliverPacket (mbxIndex m) ((List.range (min 256 (bitsOf value 0 9))).map fun i => s.csr (mbxReq m i))

/-- A write of a request word (R634). -/
def State.mbxReqWrite (s : State) (m : MbxKind) (i : Nat) (value : Word) : State :=
  if s.bit (mbxBusy m) then (s.setFld (mbxOverrun m) 1).setFld CMD_ERR_OVERRUN 1 else s.setCsr (mbxReq m i) value

/-- MBX_DOORBELL (R633, R634): a host writes PRT_MBX_DB. -/
def execMbxDoorbell (port : Fin 4) (value : Word) (s : State) : Host.Outcome State Fault Refusal :=
  .next (s.mbxDoorbell (.pcie port) value)

/-- CMD_FAB_REQ and CMD_FAB_DB may be written by this master (R759). -/
def State.fabMay (s : State) (mid : Nat) : Bool := s.bit CMD_FAB_CTL_EN && s.fld CMD_FAB_CTL_MID = mid

/-- A write of CMD_FAB_DB (R759, R760). -/
def State.fabDoorbell (s : State) (mid : Nat) (value : Word) : State × Status :=
  if s.fabMay mid then (s.mbxDoorbell .fabric value, .ok) else (s, .errDenied)

/-- FAB_DOORBELL (R759, R760). -/
def execFabDoorbell (mid : BitVec 12) (value : Word) (s : State) : Host.Outcome State Fault Refusal :=
  .next (s.regWrite CMD_FAB_DB fun s => s.fabDoorbell mid.toNat value)

/-- MBX_REPLY (R635, R761, R779): the MC writes the next reply while RDY = 0. -/
def execMbxReply (mbx : MbxKind) (s : State) : Host.Outcome State Fault Refusal :=
  let k := mbxIndex mbx
  let t := s.tr k
  .next (match t.replies with
    | p :: rest =>
      if s.bit (mbxRdy mbx) then s else
      let s1 := p.words.zipIdx.foldl (fun u w => u.setCsr (mbxRsp mbx w.2) w.1) (s.setTr k { t with replies := rest, shown := p.kind })
      let s2 := (s1.setFld (mbxRspLen mbx) p.words.length).setFld (mbxRdy mbx) 1
      (if p.kind = .accepted then s2.setFld (mbxBusy mbx) 0 else s2).msixEdges s
    | [] => s)

/-- The writer clears RDY (R761): BUSY ends after a final reply. -/
def State.mbxRdyClear (s : State) (m : MbxKind) : State :=
  if !s.bit (mbxRdy m) then s else
  let s1 := s.setFld (mbxRdy m) 0
  if (s.tr (mbxIndex m)).shown = .final then s1.setFld (mbxBusy m) 0 else s1

/-- RDY_CLEAR (R635, R761, R779). -/
def execRdyClear (transport : MbxKind) (s : State) : Host.Outcome State Fault Refusal := .next (s.mbxRdyClear transport)

end Sys2Proof.Machine
end

