-- ==== Sys2Proof/Machine/Epoch.lean ====
section
/-! DEFINITION. Protocol epochs (R1011-R1015): commit, rollback, and their rerun after a reset. -/

namespace Sys2Proof.Machine

open Sys2Proof

/-- The masks of accepted versions follow R780. -/
def State.setV2 (s : State) (b : Bool) : State :=
  let s1 := { s with cmd := { s.cmd with v2 := b } }
  s1.setFld CMD_STAT_VERSIONS s1.versions

/-- Every unit changes. -/
def State.mapUnits (s : State) (f : FwUnit → FwUnit) : State := (List.range 16).foldl (fun t u => t.setFwUnit u (f (t.fwUnit u))) s

/-- The operation of EPOCH_COMMIT (R780, R995, R1013). -/
def State.epochCommit (s : State) : State :=
  let n := s.epochN
  if s.lts.readOnly then s.accDone 0x0702 stHwFault [1]
  else if (List.range 10).any fun u => (s.fwUnit u).state = .failed || s.slotEpoch u (s.fwUnit u).active < n then s.accDone 0x0702 stState []
  else
    let s1 := { s with lts := { s.lts with live := { s.lts.live with epoch := n } } }
    let s2 := s1.mapUnits fun x => if x.state = .provisional then { x with state := .committed, committed := x.active } else x
    ((s2.ltsWrite 2).setV2 false).accDone 0x0702 stOk []

/-- The operation of EPOCH_ROLLBACK (R780, R995, R1014). -/
def State.epochRollback (s : State) : State :=
  if s.lts.readOnly then s.accDone 0x0703 stHwFault [1]
  else if !s.cmd.v2 then s.accDone 0x0703 stState []
  else
    let s1 := s.mapUnits fun x => if x.state = .provisional then { x with state := .committed, active := x.committed } else x
    ((s1.ltsWrite 2).setV2 false).accDone 0x0703 stOk []

/-- An epoch operation runs, or, while a hub reset runs, waits until both hubs are ready (R991). A reset that comes meanwhile
interrupts it (R1015). -/
def State.epochRun (s : State) (commit : Bool) : State :=
  if s.rst.hubs ≠ 0 then { s with cmd := { s.cmd with epochOp := some commit } }
  else if commit then s.epochCommit else s.epochRollback

/-- Both hubs are ready (R991, R1015): the writes that waited are done, and an epoch operation that waited or was interrupted runs from its
start. One that was interrupted completes as R778 states. -/
def State.storeReady (s : State) : State :=
  let s1 := s.ltsFlush
  if s1.rst.hubs ≠ 0 then s1 else
  match s1.cmd.epochOp with
  | some c => { s1 with cmd := { s1.cmd with epochOp := none } }.epochRun c
  | none => s1

end Sys2Proof.Machine
end

