-- ==== Sys2Proof/Machine/Hart.lean ====
section
/-! DEFINITION. Application cores and the debug modules that control them: reset, halt, resume, halt and resume groups, and what a
fall of the JTAG level undoes (R805-R830, R841). Hart `c` of hub `h` has number `4 * h + c`. -/

namespace Sys2Proof.Machine

open Sys2Proof

/-- The state of a hart. -/
def State.hart (s : State) (i : Nat) : HartSt := mapGet s.cpu.harts HartSt.zero i

/-- Change a hart. -/
def State.setHart (s : State) (i : Nat) (x : HartSt) : State :=
  { s with cpu := { s.cpu with harts := mapSet s.cpu.harts HartSt.zero i x } }

/-- A debug module. -/
def State.dm (s : State) (h : Nat) : DmSt := mapGet s.cpu.dms DmSt.zero h

/-- Change a debug module. -/
def State.setDm (s : State) (h : Nat) (d : DmSt) : State :=
  { s with cpu := { s.cpu with dms := mapSet s.cpu.dms DmSt.zero h d } }

/-- A core is out of reset: RUN is set, its hub is not in reset and the device is not in SAFE (R805, R952). -/
def State.hartRuns (s : State) (i : Nat) : Bool :=
  (s.fld (HUB_CPU_CTL_RUN (i / 4))).testBit (i % 4) && !s.safe && !s.rst.hubs.getLsbD (i / 4) && !s.rst.parked

/-- Device time at a hart's hub. -/
def State.hartTime (s : State) (i : Nat) : Nat := (s.dieTime (i / 4)).1.toNat

/-- mtime of a hart (R830): device time minus the time it has been held. -/
def State.mtime (s : State) (i : Nat) : DWord :=
  let x := s.hart i
  BitVec.ofNat 64 (s.hartTime i) - x.heldTime -
    (if x.halted && x.stoptime then BitVec.ofNat 64 (s.hartTime i) - BitVec.ofNat 64 x.haltedAt else 0)

/-- HUB_CPU_STAT (R845). -/
def State.cpuStat (s : State) (h : Nat) : Word :=
  (List.range 4).foldl (fun w c =>
    w ||| BitVec.ofNat 32 ((s.hart (4 * h + c)).halted.toNat * 2 ^ c + (!s.hartRuns (4 * h + c)).toNat * 2 ^ (8 + c))) 0

/-- A core is reset (R806): its outstanding requests complete unused; what belongs to its debug module stays. -/
def State.hartReset (s : State) (i : Nat) : State :=
  let x := s.hart i
  let stop := hubStop (i / 4) 9
  let inbox := s.ring.inbox.filter fun d => !(s.cpu.outs.any fun o => o.hart = i && d.stop = stop && d.tag = o.tag)
  let mine (k : Nat) (b : BitVec 5) : BitVec 5 := if k / 2 ^ 42 = i / 4 then b &&& ~~~(BitVec.twoPow 5 (i % 4)) else b
  { s with ring := { s.ring with inbox := inbox }, cpu := { s.cpu with outs := s.cpu.outs.filter (fun o => o.hart ≠ i), lines := mapWith 0 mine s.cpu.lines } }.setHart i { HartSt.zero with havereset := true, resetHalt := x.resetHalt, haltreq := x.haltreq, haltGroup := x.haltGroup, resGroup := x.resGroup }

/-- The HELD bit of a core watchdog (R841). -/
def State.showHeld (s : State) (i : Nat) : State := s.setBit (WDT_CORE_STAT_HELD (i / 4) (i % 4)) (s.hart i).wdtHeld

/-- One hart halts (R827, R828, R841). -/
def State.hartHalt (s : State) (i : Nat) : State :=
  let x := s.hart i
  if x.halted || !s.hartRuns i then s else
  ((s.setHart i { x with
      halted := true, reserved := none, regs := [], haltedAt := s.hartTime i
      wdtHeld := (s.fld (DBG_HOLD_HOLD (i / 4))).testBit (i % 4) && s.bit (WDT_CORE_CTL_EN (i / 4) (i % 4)) }).showHeld i).send (.hart i true)

/-- One hart resumes (R830, R841). -/
def State.hartResume (s : State) (i : Nat) : State :=
  let x := s.hart i
  if !x.halted then s else
  let add : DWord := if x.stoptime then BitVec.ofNat 64 (s.hartTime i) - BitVec.ofNat 64 x.haltedAt else 0
  ((s.setHart i { x with halted := false, regs := [], heldTime := x.heldTime + add, wdtHeld := false }).showHeld i).send (.hart i false)

/-- The harts of both hubs. -/
def allHarts : List Nat := List.range 8

/-- The LDCs with TEN_NET = 1 take a network trigger when external trigger 0 is in the halt group (R823, R166): the signal leaves
each debug module whose fabric input is in the group. -/
def State.groupTrigger (s : State) (g : Nat) : State :=
  (List.range 2).foldl (fun t h => if (t.dm h).extHalt = g then t.send (.trigger h) else t) s

/-- A halt group halts (R824, R826): every member but `except`; group 0 has no members. -/
def State.groupHalt (s : State) (g : Nat) (but : Option Nat) : State :=
  if g = 0 then s else
  (allHarts.foldl (fun t i => if (t.hart i).haltGroup = g && some i ≠ but then t.hartHalt i else t) s).groupTrigger g

/-- A resume group resumes (R824). -/
def State.groupResume (s : State) (g : Nat) : State :=
  if g = 0 then s else allHarts.foldl (fun t i => if (t.hart i).resGroup = g then t.hartResume i else t) s

/-- A hart halts, and its group with it (R824, R827). -/
def State.haltWithGroup (s : State) (i : Nat) : State := (s.hartHalt i).groupHalt (s.hart i).haltGroup (some i)

/-- A hart resumes, and its group with it (R824). -/
def State.resumeWithGroup (s : State) (i : Nat) : State := (s.hartResume i).groupResume (s.hart i).resGroup

/-- A core leaves reset (R805, R811): with a halt requested or a halt on reset requested it halts at once. -/
def State.hartStart (s : State) (i : Nat) : State :=
  let s := s.send (.hartStart i (s.csr64 (HUB_CPU_RVEC (i / 4) (i % 4))))
  if (s.hart i).resetHalt || (s.hart i).haltreq then s.haltWithGroup i else s

/-- The triggers of a hart with dmode = 1 are cleared (R817): bit 59 of tdata1. -/
def clearDmode (m : Map DWord) : Map DWord :=
  (List.range 8).foldl (fun m k =>
    if (mapGet m 0 (2 * k)).getLsbD 59 then mapSet (mapSet m 0 (2 * k) 0) 0 (2 * k + 1) 0 else m) m

/-- The level of the JTAG transport. -/
def State.jtagLevel (s : State) : Nat := s.fld (CMD_AUTH_LEVEL 1)

/-- LEVEL_DROP (R817): the level of the JTAG transport has fallen below FULL. -/
def State.levelDrop (s : State) : State :=
  let s1 := allHarts.foldl (fun t i =>
    let t1 := t.hartResume i
    let x := t1.hart i
    t1.setHart i { x with haltreq := false, resetHalt := false, haltGroup := 0, resGroup := 0, trigs := clearDmode x.trigs }) s
  (List.range 2).foldl (fun t h =>
    (t.setDm h { t.dm h with extHalt := 0, extResume := 0 }).setFld (DBG_HOLD_HOLD h) 0) s1

/-- The debug level of a transport changes (R771, R815, R817). -/
def State.setLevel (s : State) (k l : Nat) : State :=
  let s1 := s.setFld (CMD_AUTH_LEVEL k) l
  if k = 1 && s.jtagLevel = 2 && l < 2 then s1.levelDrop else s1

/-- Every transport returns to NONE (R771). -/
def State.levelsNone (s : State) : State := (List.range 7).foldl (fun t k => t.setLevel k 0) s

end Sys2Proof.Machine
end

