-- ==== Sys2Proof/Machine/Safe.lean ====
section
/-! DEFINITION. The safe-state controller: FATAL records and the entry into SAFE (R951-R957, R972, R975, R982). -/

namespace Sys2Proof.Machine

open Sys2Proof

/-- The error collector runs: H0 is clocked and not in reset. -/
def State.collectorRuns (s : State) : Bool := s.hubClocked 0 && !s.rst.hubs.getLsbD 0

/-- The count of an error in the lifetime store's volatile counts (R989): BLOCK and severity. -/
def State.countError (s : State) (block sev n : Nat) : State :=
  if 64 ≤ block then s else
  let k := block * 4 + sev
  let v := mapGet s.lts.live.errcnt 0 k
  { s with lts := { s.lts with live := { s.lts.live with
      errcnt := mapSet s.lts.live.errcnt 0 k (BitVec.ofNat 32 (min (v.toNat + n) 0xFFFFFFFF)) } } }

/-- A report or FATAL record reaches the collector. -/
def State.collectCounted (s : State) (e : ErrRec) : State := (s.collect e).countError e.block e.sev (e.repeats + 1)

/-- A FATAL record is appended: a time that could not be read is the time of the append (R972). -/
def State.appendFatal (s : State) (e : ErrRec) : State :=
  s.collectCounted (if e.tsValid then e else { e with time := BitVec.ofNat 64 s.now })

/-- The FATAL records held in the AO domain are appended (R972). -/
def State.flushFatals (s : State) : State :=
  if s.collectorRuns then s.errs.fatals.foldl (fun t e => t.appendFatal e) { s with errs := { s.errs with fatals := [] } } else s

/-- FATAL_RECORD (R972, R987): the record of a cause of SAFE. -/
def State.fatal (s : State) (reason : Nat) (inj : Bool := false) : State :=
  let t := s.dieTime 0
  let ok := s.collectorRuns && t.2
  let e : ErrRec := ⟨if ok then t.1 else 0, 0, 0x0D, 0, reason, sevFatal, ok, inj, 0, s.fld RST_STAT_PHASE, s.csr64 RST_BIST_SITES, 0⟩
  let s1 := { s with lts := { s.lts with live := { s.lts.live with
    safe := BitVec.ofNat 32 (min (s.lts.live.safe.toNat + 1) 0xFFFFFFFF) } } }
  if s1.collectorRuns then s1.appendFatal e
  else if s1.errs.fatals.length < 8 then { s1 with errs := { s1.errs with fatals := s1.errs.fatals ++ [e] } } else s1

/-- What SAFE does in a hub whose clock runs (R870, R952, R982). -/
def State.safeHub (s : State) (h : Nat) : State :=
  if s.hubClocked h && !s.rst.hubs.getLsbD h then
    let s1 := (s.dmcSleep h).qeWind h
    if h = 0 then s1.flushFatals.safeCommands else s1
  else s

/-- GSR and the isolation clamps of every acre are asserted, its configuration kept (R952). An acre that is EMPTY has nothing to hold. -/
def State.safeAcres (s : State) : State := (s.fab.places.map (·.1)).foldl (fun t pl => t.isolatePlace pl) s

/-- Every gate completes its outstanding requests with ERR_FENCED (R982). -/
def State.safeGates (s : State) : State :=
  s.ring.treq.foldl (fun t q => t.reply (gateStop q.ld q.gate) q.pkt .errFenced) { s with ring := { s.ring with treq := [] } }

/-- SAFE_ENTRY (R951, R952, R954, R956, R957, R982): the safe-state controller records a cause; the first one of a SAFE period stops
the device. Pins, SAFE_N and FAULT_N follow from the state (R958, R975). -/
def State.enterSafe (s : State) (reason : Nat) (inj : Bool := false) : State :=
  let s0 := s.fatal reason inj
  let s1 := { s0 with rst := { s0.rst with causes := s0.rst.causes + 1 } }
  if s.safe then s1 else
  let ph := s.fld RST_STAT_PHASE
  let s2 := ((s1.setFld RST_STAT_STATE 2).setFld RST_STAT_REASON reason).setCsr RST_LAST_SAFE
    (BitVec.ofNat 32 (reason + ph * 65536 + 0x80000000))
  let s3 := { s2 with fenced := false, rst := { s2.rst with warm := false, entry := none, asleep := false } }
  let s4 := (if s.rst.entry.isSome then s3.satInc PWR_REFUSE_CNT_ABORTED else s3).setFld PWR_STAT_STATE 0
  let s5 := allHarts.foldl (fun t i => t.hartReset i) s4.safeAcres.safeGates
  ((s5.safeHub 0).safeHub 1).mcServe

/-- SAFE_N is low (R958). -/
def State.safeN (s : State) : Bool := s.safe || s.rst.safeLow

/-- FAULT_N is low (R975). -/
def State.faultN (s : State) : Bool :=
  s.safe || (List.range 2).any (fun h => (List.range 4).any fun c => s.bit (WDT_CORE_STAT_EXPIRED h c)) ||
    (s.csr HUB_ERR_PEND &&& s.csr HUB_ERR_FMASK &&& 0x1F#32) ≠ 0

/-- MC_LOCKSTEP (R797): the comparator of a hub's MC pair finds a difference. -/
def execMcLockstep (hub : Fin 2) (s : State) : Host.Outcome State Fault Refusal :=
  let s1 := s.setFld (HUB_CPU_ERR_LOCKSTEP hub) 1
  .next ({ s1 with cpu := { s1.cpu with mcStop := s1.cpu.mcStop ||| BitVec.twoPow 2 hub } }.enterSafe 9)

end Sys2Proof.Machine
end

