-- ==== Sys2Proof/Machine/Package.lean ====
section
/-! DEFINITION. The package: repair map, placement of the logical dies, capabilities, site registers and retirement (R18-R52,
R139-R141, R175), the acre states that follow a die (R715, R716, R1016), and the board configuration record (R950). -/

namespace Sys2Proof.Machine

open Sys2Proof

/-! ### Sites and half-rows (R18-R22) -/

/-- The TYPE that R18 assigns to a site; none for an X site. -/
def siteType (site : Nat) : Option Nat :=
  if site = 8 ∨ site = 56 then none else if site % 16 = 0 then some 3 else if site % 16 = 8 then some 2 else some 1

/-- The site of a position of a half-row (R21, R47). -/
def halfSite (half p : Nat) : Nat := 16 * (half / 2) + (if half % 2 = 0 then 1 else 9) + p

/-- The logical die with an in-half index of a half-row (R22). -/
def halfDie (half k : Nat) : Nat := 12 * (half / 2) + 6 * (half % 2) + k

/-- Every logic site. -/
def logicSites : List Nat := (List.range 64).filter isLogicSite

/-- The identity register of a site's die (R38). -/
def idKey (site : Nat) : Nat :=
  if site % 16 = 0 then PRT_ID (site / 16) else if site % 16 = 8 then HUB_ID (site / 32) else LDC_ID site

/-- The capability mask of a site's die. -/
def capKey (site : Nat) : Nat :=
  if site % 16 = 0 then PRT_CAP (site / 16) else if site % 16 = 8 then HUB_CAP (site / 32) else LDC_CAP site

/-- Change a field of HUB_SITE_STAT in both hubs, which both report the whole package (R47). -/
def State.setSite (s : State) (f : Nat → Fld) (n : Nat) : State := (s.setFld (f 0) n).setFld (f 1) n

/-- The field-retirement mask of a half-row as volatile memory holds it (R33). -/
def State.fieldMask (s : State) (half : Nat) : BitVec 7 := mapGet s.lts.live.masks 0 half

/-- Change a field-retirement mask in volatile memory. -/
def State.setFieldMask (s : State) (half : Nat) (m : BitVec 7) : State :=
  { s with lts := { s.lts with live := { s.lts.live with masks := mapSet s.lts.live.masks 0 half m } } }

/-! ### Acres that follow their die (R715, R716, R745, R1016) -/

/-- The CFG block's error flag, with its report (R746, R987). -/
def State.cfgFlag (s : State) (f : Fld) (la : Nat) : State := s.raise f 0 0x0A la 0 sevUncorrected 0 (s.csr CFG_ERR_INFO)

/-- The interface entry of an acre becomes 0 (R1016). -/
def State.dropSig (s : State) (la : Nat) : State :=
  (List.range 4).foldl (fun t k => t.setCsr (CFG_COMPAT la k) 0) (s.setCsr (CFG_SIG la) 0)

/-- A logical acre becomes EMPTY, FAILED or LOST (R715, R716, R1016): the place it occupies holds nothing. ACRE_LOST is raised when it
enters LOST (R746). -/
def State.acreGone (s : State) (la st : Nat) : State :=
  let s1 := (match s.acrePlace (la / 4) (la % 4) with
    | some pl => s.emptyPlace pl
    | none => s).gateFlush la
  let s0 := s1.setFld (CFG_ACRE_RELOC la) (if st = acFailed then s1.fld (CFG_ACRE_RELOC la) else 0)
  let s2 := (s0.setAcre la st).dropSig la
  if st = acLost ∧ s.acreState la ≠ acLost then s2.cfgFlag CFG_ERR_ACRE_LOST la else s2

/-- CFG_STAT (R745): the counts of acres follow their states. -/
def State.cfgStat (s : State) : Word :=
  let count (p : Nat → Bool) : Nat := ((List.range 192).filter fun la => p (s.acreState la)).length
  putBits (putBits (s.csr CFG_STAT) 8 8 (count (· = acRunning))) 16 8 (count fun st => st = acFailed || st = acLost)

/-! ### Retirement (R28, R29, R33, R52, R338) -/

/-- The die on a site is retired (R33): its position enters the field-retirement mask in both copies; while the device runs it keeps its
logical number until the next SP3 (R52). -/
def State.retireSite (s : State) (site : Nat) : State :=
  let hp := siteHalf site
  let s1 := (s.setFieldMask hp.1 (s.fieldMask hp.1 ||| BitVec.twoPow 7 hp.2)).ltsWrite 1
  let s2 := { s1 with cfg := { s1.cfg with hosts := s1.cfg.hosts.filter (· ≠ site) } }
  if s2.fld RST_STAT_PHASE < 3 ∨ s2.fld (HUB_SITE_STAT_STATE 0 site) = 3 then s2
  else s2.setSite (fun h => HUB_SITE_STAT_STATE h site) (if s2.bit (HUB_SITE_STAT_LD_VALID 0 site) then 5 else 4)

/-- The links that close a row ring around the failed transit islands, and no others, are in the ring (R29, R351-R353). -/
def ringPath (row : Nat) (failed : Nat → Bool) : List Nat :=
  let cols := (List.range 16).filter fun c => !(isLogicSite (16 * row + c) && failed (16 * row + c))
  (cols.zip cols.tail).filterMap fun p =>
    if p.2 = p.1 + 1 then some (32 * row + p.1) else if p.2 = p.1 + 2 then some (32 * row + 16 + p.1 + 1) else none

/-- IN_RING of a row's links; the ring's NARROW and SLOW follow (R276). -/
def State.setRingPath (s : State) (row : Nat) (failed : Nat → Bool) : State :=
  let path := ringPath row failed
  ((ringLinks (54 + row)).foldl (fun t n => t.setBit (LNK_STAT_IN_RING n) (path.contains n)) s).ringUpdate (54 + row)

/-- A row ring that runs into a link in DOWN cannot close. -/
def State.pathCut (s : State) (row : Nat) (failed : Nat → Bool) : Bool :=
  (ringPath row failed).any fun n => s.fld (LNK_STAT_STATE n) = 6

/-- The transit island of a site is bypassed. -/
def State.tiFailed (s : State) (site : Nat) : Bool := s.bit (HUB_SITE_STAT_TI_FAIL 0 site)

/-- Two sites next to each other in a row both hold failed islands. -/
def adjacentFailed (row : Nat) (failed : Nat → Bool) : Bool :=
  (List.range 15).any fun c =>
    isLogicSite (16 * row + c) && isLogicSite (16 * row + c + 1) && failed (16 * row + c) && failed (16 * row + c + 1)

/-- The link ends on the transit island of a site (R351). -/
def islandEnds (site : Nat) : List (Nat × Bool) :=
  ((List.range 32).map (32 * (site / 16) + ·)).filterMap fun n =>
    if !linkExists n then none else if (linkCols n).1 = site % 16 then some (n, false)
    else if (linkCols n).2 = site % 16 then some (n, true) else none

/-- The flits held in a transit island are lost: in slots that stand at it, in its queues, and in its retry buffers (R338). -/
def State.islandLost (s : State) (site : Nat) : State :=
  let row := site / 16
  let s1 := s.clearSlots fun k x => slotRing k = 54 + row && x.onLink.isNone &&
    x.pos.any fun q => rowCol (k / 128 % 4) q = some (site % 16)
  let s2 := match s1.ldOf site with
    | some ld => { s1 with ring := { s1.ring with waits := s1.ring.waits.filter fun w => w.stop ≠ 8 * ld + 6 } }
    | none => s1
  (islandEnds site).foldl (fun t x => t.loseBuffer x.1 x.2) s2

/-- TRANSIT_ISLAND_FAIL (R338, R339): the flits in the island are lost and the ring's slots stop; the ring bypasses the site, or becomes
DOWN where two islands side by side have failed or the bypass is impossible (R353). The acres of the die that cannot move become LOST
(R735); the others move when the die's retirement is carried out. -/
def execTransitIslandFail (site : Fin 64) (s : State) : Host.Outcome State Fault Refusal :=
  let row := site.val / 16
  .next (if !isLogicSite site || s.tiFailed site || s.fld RST_STAT_PHASE < 4 then s else
    let s0 := s.islandLost site
    let s1 := (s0.setSite (fun h => HUB_SITE_STAT_TI_FAIL h site) 1).markSlow (54 + row)
    let s2 := if adjacentFailed row s1.tiFailed then
        { s1 with ring := { s1.ring with openRows := if s1.ring.openRows.contains row then s1.ring.openRows
            else s1.ring.openRows ++ [row] } }.ringDown (54 + row)
      else
        let t := s1.setRingPath row s1.tiFailed
        if t.pathCut row t.tiFailed then t.ringDown (54 + row) else t
    let s3 := s2.retireSite site
    match s3.ldOf site with
    | some ld => (List.range 4).foldl (fun t a =>
        let la := 4 * ld + a
        if t.bit (CFG_ACRE_RELOC la) && t.acreState la = acRunning then t else t.acreGone la acLost) s3
    | none => s3)

/-! ### Placement (R23-R25, R47-R52) -/

/-- The unavailable positions of a half-row (R23). -/
def State.badMask (s : State) (half : Nat) : BitVec 7 :=
  BitVec.ofNat 7 (s.fld (HUB_REPAIR_FUSED_BAD 0 half)) ||| s.fieldMask half

/-- The shift point: the lowest position in U, or 6 (R23). -/
def shiftPoint (u : BitVec 7) : Nat := ((List.range 6).find? fun p => u.getLsbD p).getD 6

/-- The position of an in-half index (R24). -/
def placeIndex (q k : Nat) : Nat := if k < q then k else k + 1

/-- A logical die is VACANT (R25). -/
def vacantIndex (u : BitVec 7) (k : Nat) : Bool := u.getLsbD (placeIndex (shiftPoint u) k)

/-- HUB_REPAIR and HUB_SITE_STAT of a half-row as SP3 applies the repair map (R48-R50). A site that stands in both masks shows FUSED_BAD: the
spec gives the two no order (log entry 97). -/
def State.placeHalf (s : State) (half : Nat) : State :=
  let u := s.badMask half
  let q := shiftPoint u
  let vac := (List.range 6).filter (vacantIndex u)
  let s1 := (List.range 2).foldl (fun t h =>
    let t1 := (t.setFld (HUB_REPAIR_FIELD_RET h half) (t.fieldMask half).toNat).setFld (HUB_REPAIR_SHIFT_POS h half) q
    let t2 := (t1.setBit (HUB_REPAIR_EXHAUSTED h half) (!vac.isEmpty)).setFld (HUB_REPAIR_VACANT_K h half) (vac.headD 0)
    t2.setFld (HUB_REPAIR_VACANT_MASK h half) (vac.foldl (fun m k => m + 2 ^ k) 0)) s
  (List.range 7).foldl (fun t p =>
    let site := halfSite half p
    let k := (List.range 6).find? fun k => placeIndex q k = p
    let bad := u.getLsbD p
    let st := if (t.fld (HUB_REPAIR_FUSED_BAD 0 half)).testBit p then 3 else if bad then 4 else if k.isSome then 1 else 2
    let t1 := t.setSite (fun h => HUB_SITE_STAT_STATE h site) st
    let t2 := t1.setSite (fun h => HUB_SITE_STAT_LD_VALID h site) (if k.isSome && !bad then 1 else 0)
    t2.setSite (fun h => HUB_SITE_STAT_LD h site) (if bad then 0 else (k.map (halfDie half)).getD 0)) s1

/-- TYPE and STEPPING of a site's die (R39, R49). -/
def State.copyIdentity (s : State) (site : Nat) : State :=
  let id := s.csr (idKey site)
  (s.setSite (fun h => HUB_SITE_STAT_TYPE h site) (bitsOf id 0 8)).setSite (fun h => HUB_SITE_STAT_STEPPING h site) (bitsOf id 8 8)

/-- The identity of the third-party die beside a hub (R39, R49, R411): its TYPE, with stepping and interface revision, which the spec
leaves to the die (log entry 71). -/
def State.xIdWord (s : State) (h : Nat) : Word :=
  let t := mapGet s.rst.xdies 0 h
  if t = 0 then 0 else BitVec.ofNat 32 (t.toNat + 256 * (Config.xId h).toNat)

/-- An X site (R44, R49, R51). -/
def State.placeX (s : State) (h : Nat) (x : Byte) : State :=
  let site := if h = 0 then 8 else 56
  let s1 := { s with rst := { s.rst with xdies := mapSet s.rst.xdies 0 h x } }
  let id := s1.xIdWord h
  ((s1.setSite (fun h => HUB_SITE_STAT_STATE h site) (if x = 0 then 6 else 1)).setSite (fun h => HUB_SITE_STAT_TYPE h site)
    (bitsOf id 0 8)).setSite (fun h => HUB_SITE_STAT_STEPPING h site) (bitsOf id 8 8)

/-! ### Capabilities (R43-R46) -/

/-- The bits of the capability mask that apply to a hub, a logic die or a port die (R43). -/
def capsOf (site : Nat) : Word := if site % 16 = 0 then 0x3903F#32 else if site % 16 = 8 then 0x703F#32 else 0x1FFF#32

/-- Bits a die negotiates with its peers: 0-5 and EPOCH_DUAL (R45). -/
def sharedCaps : Word := 0x103F#32

/-- The capabilities of the third-party die beside a hub, as its link has negotiated them, with 1 for bits that do not apply, if there is
one (R43, R385). -/
def State.xCaps (s : State) (h : Nat) : Word :=
  if mapGet s.rst.xdies 0 h = 0 then 0xFFFFFFFF#32
  else
    let m := s.linkMap (129 + h)
    BitVec.ofNat 32 (m.feats.toNat + 16 * (decide (m.rate = 2)).toNat + 32 * m.repair.toNat) ||| ~~~0x3F#32

/-- The masks of a row's dies joined: its logic dies and its port die. -/
def State.rowCaps (s : State) (row : Nat) : Word :=
  (List.range 16).foldl (fun w c => if c = 8 then w else w &&& s.csr (capKey (16 * row + c))) 0xFFFFFFFF#32

/-- The package capability set (R44). -/
def State.pkgCaps (s : State) : Word :=
  ((List.range 64).foldl (fun w site => if (siteType site).isNone then w else w &&& (s.csr (capKey site) ||| ~~~(capsOf site)))
    (s.xCaps 0 &&& s.xCaps 1)) &&& 0x3FFFF#32

/-- *x*_CAP_EFF of every die (R45). -/
def State.capsEffective (s : State) : State :=
  let hubCap (h : Nat) : Word := s.csr (HUB_CAP h)
  let eff (own peers : Word) : Word := (own &&& ~~~sharedCaps) ||| (own &&& peers &&& sharedCaps)
  let s1 := (List.range 2).foldl (fun t h =>
    t.setCsr (HUB_CAP_EFF h) (eff (hubCap h) (hubCap (1 - h) &&& s.rowCaps (2 * h) &&& s.rowCaps (2 * h + 1) &&& s.xCaps h))) s
  let s2 := (List.range 4).foldl (fun t p => t.setCsr (PRT_CAP_EFF p) (eff (s.csr (PRT_CAP p)) (s.rowCaps p &&& hubCap (p / 2)))) s1
  logicSites.foldl (fun t site =>
    t.setCsr (LDC_CAP_EFF site) (eff (s.csr (LDC_CAP site)) (s.rowCaps (site / 16) &&& hubCap (site / 32)))) s2

/-! ### Channel selection (R26, R27, R139-R141, R175) -/

/-- The physical column of a logical die. -/
def State.colOf (s : State) (ld : Nat) : Option Nat := (s.siteOf ld).map (· % 16)

/-- A vertical offset as LDC_CHAN_SEL codes it: the upper row's column minus the lower row's (R140). -/
def offsetCode (upper lower : Option Nat) : Nat :=
  match upper, lower with
  | some u, some l => if u + 1 = l then 1 else if u = l then 2 else if u = l + 1 then 3 else 0
  | _, _ => 0

/-- A horizontal crossing as LDC_CHAN_SEL codes it. -/
def sideCode (a b : Option Nat) : Nat :=
  match a, b with
  | some x, some y => if x + 1 = y then 1 else if x + 2 = y then 2 else 0
  | _, _ => 0

/-- LDC_CHAN_SEL of the site of a logical die. A crossing, the bridge too, towards a VACANT logical die shows NONE, though R24 gives that die a
position (log entry 99). -/
def State.chanSel (s : State) (ld : Nat) : Nat :=
  let c := ld % 12
  let own := s.colOf ld
  let bridge (peer : Nat) : Nat := if (s.colOf peer).isSome then 3 else 0
  let west := if c = 0 then (if own = some 1 then 1 else 2) else if c = 6 then bridge (ld - 1) else sideCode (s.colOf (ld - 1)) own
  let east := if c = 11 then 0 else if c = 5 then bridge (ld + 1) else sideCode own (s.colOf (ld + 1))
  let up := if ld / 12 = 3 then 0 else offsetCode (s.colOf (ld + 12)) own
  let down := if ld / 12 = 0 then 0 else offsetCode own (s.colOf (ld - 12))
  west + 4 * east + 16 * up + 64 * down + 256 * (if c = 0 then 1 else 0)

/-- Every die's selection. -/
def State.applyChannels (s : State) : State :=
  (List.range 48).foldl (fun t ld => match t.siteOf ld with
    | some site => t.setCsr (LDC_CHAN_SEL site) (BitVec.ofNat 32 (t.chanSel ld))
    | none => t) s

/-! ### The board configuration record (R949, R950) -/

/-- A byte of the record in a slot. -/
def State.bcrByte (s : State) (slot i : Nat) : Byte := mapGet s.lts.live.bcr 0 (512 * slot + i)

/-- A word of the record in a slot. -/
def State.bcrWord (s : State) (slot i : Nat) : Word := leWord ((List.range 4).map fun k => s.bcrByte slot (i + k))

/-- The record of a slot is valid (R949). -/
def State.bcrOk (s : State) (slot : Nat) : Bool :=
  s.bcrWord slot 0 = 0x52434251#32 && s.bcrByte slot 4 = 1 && s.bcrByte slot 5 = 0 &&
    s.bcrWord slot 8 = crc32c 0xFFFFFFFF#32 ((List.range 500).map fun k => s.bcrByte slot (12 + k))

/-- The slot in use: the active one if it is valid, else the other (R949). -/
def State.bcrSlot (s : State) : Nat :=
  let a := (s.fwUnit 10).active
  if s.bcrOk a then a else 1 - a

/-- A word of the record in use. -/
def State.bcr (s : State) (i : Nat) : Word := s.bcrWord s.bcrSlot i

/-- A byte of the record in use. -/
def State.bcrB (s : State) (i : Nat) : Byte := s.bcrByte s.bcrSlot i

end Sys2Proof.Machine
end

