-- ==== Sys2Proof/Machine/Image.lean ====
section
/-! DEFINITION. Configuration images: the header and its checks, the acceptance of an image, the failure of an acre, and the
decryption of segments (R147, R687-R692, R703-R708, R713, R746, R747). -/

namespace Sys2Proof.Machine

open Sys2Proof

/-! ### Bytes of a header (R687-R689) -/

/-- Bytes [off, off + n) of a header. -/
def hdrBytes (h : List Byte) (off n : Nat) : List Byte := (h.drop off).take n

/-- A field of a header (R9, R688). -/
def hdrNat (h : List Byte) (off n : Nat) : Nat := leNat (hdrBytes h off n)

/-- Bytes that R688 and R689 reserve are 0. -/
def hdrZero (h : List Byte) (off n : Nat) : Bool := (hdrBytes h off n).all (· = 0)

/-- SEG_COUNT. -/
def hdrSegs (h : List Byte) : Nat := hdrNat h 12 4

/-- Where entry `i` of the segment table stands. -/
def segOff (i : Nat) : Nat := 512 + 128 * i

/-- Length of a header with its signature (R687). -/
def hdrFull (n : Nat) : Nat := 512 + 128 * n + 96

/-- A segment-table entry (R689). -/
def segOf (h : List Byte) (i : Nat) : Seg :=
  let e := segOff i
  { acre := hdrNat h e 1, reloc := (hdrNat h (e + 1) 1).testBit 0, gap12 := hdrNat h (e + 2) 1, gap23 := hdrNat h (e + 3) 1,
    rclk := hdrNat h (e + 4) 1 % 8, off := hdrNat h (e + 8) 4, len := hdrNat h (e + 12) 4, frames := hdrNat h (e + 16) 4,
    crc := BitVec.ofNat 32 (hdrNat h (e + 20) 4), aad := BitVec.ofNat 192 (hdrNat h e 24), iv := BitVec.ofNat 96 (hdrNat h (e + 24) 12),
    tag := BitVec.ofNat 128 (hdrNat h (e + 36) 16), sig := BitVec.ofNat 32 (hdrNat h (e + 52) 4),
    compat := (List.range 4).map fun k => BitVec.ofNat 32 (hdrNat h (e + 56 + 4 * k) 4),
    digest := BitVec.ofNat 384 (hdrNat h (e + 72) 48) }

/-- An image (R688). -/
def imageOf (src : ImgSrc) (h : List Byte) (key : List Byte) : Image :=
  { src := src, id := BitVec.ofNat 64 (hdrNat h 24 8), epoch := BitVec.ofNat 32 (hdrNat h 20 4),
    partialImage := (hdrNat h 6 2).testBit 0, strict := (hdrNat h 6 2).testBit 1, early := hdrNat h 32 1,
    pclk := (List.range 8).map fun n => BitVec.ofNat 32 (hdrNat h (64 + 4 * n) 4 % 2 ^ 17),
    key := BitVec.ofNat 256 (leNat key), segs := (List.range (hdrSegs h)).map (segOf h) }

/-! ### Header checks (R690) -/

/-- Check 1 of R690; `area` bounds the image in flash (R704). -/
def headerForm (h : List Byte) (area : Option Nat) : Bool :=
  let n := hdrSegs h
  let segs := (List.range n).map (segOf h)
  hdrNat h 0 4 = 0x4D494C51 && hdrNat h 4 2 = 1 && hdrNat h 6 2 < 4 && 1 ≤ n && n ≤ 192 && hdrNat h 8 4 = 512 + 128 * n &&
    hdrFull n ≤ h.length && hdrZero h 33 31 && hdrZero h 232 280 &&
    (List.range n).all (fun i => hdrNat h (segOff i + 1) 1 < 2 && hdrZero h (segOff i + 5) 3 && hdrZero h (segOff i + 120) 8) &&
    segs.all (fun g => g.acre < 192) && (segs.map (·.acre)).eraseDups.length = n &&
    (match area with
      | some a => hdrFull n ≤ a && segs.all fun g => g.off + g.len ≤ a
      | none => true)

/-- Check 2 of R690: the signing key is fused and not revoked, and the signature verifies. -/
def State.headerAuth (s : State) (h : List Byte) : Bool :=
  let n := 512 + 128 * hdrSegs h
  let pub := hdrBytes h 96 96
  let d := Config.sha384 pub
  (List.range 4).any (fun i => mapGet s.cfg.imgKeys 0 i = d && d ≠ 0 && !s.cfg.revoked.getLsbD i) &&
    Config.ecdsaP384 pub (Config.sha384 (h.take n)) (hdrBytes h n 96)

/-- The REASON of the first check of R690 that an image fails; 0 when all hold. -/
def State.checkImage (s : State) (h : List Byte) (area : Option Nat) : Nat :=
  let segs := (List.range (hdrSegs h)).map (segOf h)
  if !headerForm h area then 1
  else if !s.headerAuth h then 2
  else if hdrNat h 16 4 &&& (0xFFFFFFFF - (s.csr (HUB_PKG_CAP 0)).toNat) ≠ 0 then 3
  else if hdrNat h 20 4 < s.fld CFG_EPOCH_MIN_EPOCH then 4
  else if segs.any (fun g => (s.siteOf (g.acre / 4)).isNone || s.acreState g.acre = acLost) then 5
  else if (kwUnwrap (s.kek 0) (hdrBytes h 192 40)).isNone then 6
  else match s.cfg.pclk with
    | some v => if (hdrNat h 6 2).testBit 0 && (imageOf .pushed h []).pclk ≠ v then 7 else 0
    | none => 0

/-! ### Refusals and failures (R698, R746, R747) -/

/-- The flag of CFG_ERR that a REASON sets (R746); none for ABORTED. -/
def reasonFlag (r : Nat) : Option Fld :=
  if r ≤ 7 then some CFG_ERR_IMG_REFUSED else if r ≤ 10 ∨ r = 13 then some CFG_ERR_SEG_FAIL
  else if r = 11 then some CFG_ERR_FRAME_CRC else if r = 12 then some CFG_ERR_CFG_CONTENTION
  else if r = 14 then some CFG_ERR_RELEASE_FAIL else none

/-- A refusal or failure is recorded in CFG_ERR_INFO and sets its flag (R746, R747). -/
def State.cfgReason (s : State) (reason la faddr : Nat) : State :=
  let s1 := s.setCsr CFG_ERR_INFO (BitVec.ofNat 32 (faddr % 2 ^ 22 + reason % 16 * 2 ^ 22 + 2 ^ 26))
  match reasonFlag reason with
  | some f => s1.cfgFlag f la
  | none => s1

/-- REASON of CFG_ACRE. -/
def State.setReason (s : State) (la reason : Nat) : State := s.setFld (CFG_ACRE_REASON la) reason

/-- An acre becomes FAILED (R698, R716, R747). -/
def State.acreFail (s : State) (la reason faddr : Nat) : State :=
  ((s.acreGone la acFailed).setReason la reason).cfgReason reason la faddr

/-! ### Power of logic dies (R915) -/

/-! ### Package clocks (R147, R173, R717) -/

/-- The package-clock values in effect are loaded into an LDC (R147); a clock that EN and ODIV let run locks. -/
def State.loadClocks (s : State) (site : Nat) : State :=
  match s.cfg.pclk with
  | none => s
  | some vs => vs.zipIdx.foldl (fun t v =>
      let run := v.1.getLsbD 16 && bitsOf v.1 8 8 ≠ 0
      t.setCsr (LDC_PCLK_CFG site v.2) (if run then v.1 ||| 0x40000000#32 else v.1)) s

/-- A package clock runs in a die (R147, R149). -/
def State.pclkRuns (s : State) (site n : Nat) : Bool := s.packageClock site n && !s.rst.faulted.getLsbD (site / 32)

/-- The segment of the retained image of an acre (R713). -/
def State.retainedSeg (s : State) (la : Nat) : Option Retained := mapGet s.cfg.retained none la

/-- RCLK of an acre runs at its place (R717, R718). -/
def State.rclkRuns (s : State) (la : Nat) : Bool :=
  match s.retainedSeg la, s.acrePlace (la / 4) (la % 4) with
  | some r, some pl => s.pclkRuns (pl / 4) r.seg.rclk
  | _, _ => false

/-! ### Acceptance (R147, R713) -/

/-- LDC_LCLK_CFG of a die: its values come with the image, which does not say where (log entry 50); the clocks that EN enables start. -/
def State.loadLocalClocks (s : State) (site : Nat) : State :=
  (List.range 16).foldl (fun t m =>
    let f := t.free
    (f.2.setCsr (LDC_LCLK_CFG site m) ((f.1.extractLsb' 0 13).setWidth 32)).localStart site m) s

/-- An image is accepted: CFG_IMG_ID, CFG_EPOCH, the retained entries of its acres, and the package clocks when none are in effect.
LDC_LCLK_CFG takes its values with the first accepted image only: R174 does not say when a die that has been reset, ungated or prepared as
a host since takes them again (log entry 106). -/
def State.acceptImage (s : State) (im : Image) : State :=
  let s1 := (s.setCsr64 CFG_IMG_ID im.id).setFld CFG_EPOCH_IMG_EPOCH im.epoch.toNat
  let s2 := im.segs.foldl (fun t g => { t with cfg := { t.cfg with
    retained := mapSet t.cfg.retained none g.acre (some ⟨im.src, im.key, g⟩) } }) s1
  if s2.cfg.pclk.isSome then s2 else
    (logicSites.filter fun site => !s2.siteGated site).foldl (fun t site => (t.loadClocks site).loadLocalClocks site)
      { s2 with cfg := { s2.cfg with pclk := some im.pclk } }

/-- The unwrapped image key of a header that has passed check 6. -/
def State.imageKey (s : State) (h : List Byte) : List Byte := (kwUnwrap (s.kek 0) (hdrBytes h 192 40)).getD []

/-! ### Segments (R691, R692) -/

/-- AES-256-GCM counter blocks applied to a string (NIST SP 800-38D): block `i` is encrypted under IV and counter `i + 2`. -/
def gcmStream (key iv : List Byte) (n : Nat) : List Byte :=
  (List.range ((n + 15) / 16)).flatMap fun i => aesEncrypt key (iv ++ (bytesOf (BitVec.ofNat 32 (i + 2)) 4).reverse)

/-- A string cut into blocks of 16 bytes, the last filled with zeros. -/
def gcmBlocks (bs : List Byte) : List (List Byte) :=
  (List.range ((bs.length + 15) / 16)).map fun i =>
    let b := (bs.drop (16 * i)).take 16
    b ++ List.replicate (16 - b.length) 0

/-- The tag of AES-256-GCM over additional data and ciphertext. -/
def gcmTag (key iv aad ct : List Byte) : List Byte :=
  let lens := (bytesOf (BitVec.ofNat 64 (8 * aad.length)) 8).reverse ++ (bytesOf (BitVec.ofNat 64 (8 * ct.length)) 8).reverse
  xorBytes (ghash (aesEncrypt key (List.replicate 16 0)) (gcmBlocks aad ++ gcmBlocks ct ++ [lens]))
    (aesEncrypt key (iv ++ [0, 0, 0, 1]))

/-- SEGMENT_CHECK (R691): the REASON of the check that a stored segment fails, 0 if none. -/
def segmentCheck (key : BitVec 256) (g : Seg) (bs : List Byte) : Nat :=
  if bs.length ≠ g.len ∨ Config.sha384 bs ≠ g.digest then 8
  else if gcmTag (bytesOf key 32) (bytesOf g.iv 12) (bytesOf g.aad 24) bs ≠ bytesOf g.tag 16 then 9 else 0

/-- The stored segment decrypted and decompressed (R691, R692). -/
def segmentPlain (key : BitVec 256) (g : Seg) (bs : List Byte) : List Byte × Bool :=
  Config.unzstd (xorBytes bs (gcmStream (bytesOf key 32) (bytesOf g.iv 12) bs.length))

/-- Bytes [off, off + n) of the pushed image (R706). -/
def State.pushedBytes (s : State) (off n : Nat) : List Byte := (List.range n).map fun i => mapGet s.cfg.pushed 0 (off + i)

/-- The header of the pushed image with its signature. -/
def State.pushedHeader (s : State) : List Byte :=
  s.pushedBytes 0 (hdrFull (leNat (s.pushedBytes 12 4) % 256))

end Sys2Proof.Machine
end

