-- ==== Sys2Proof/Machine/Load.lean ====
section
/-! DEFINITION. Loading acres: staging, the processing of frame records, release, quiescence, the reset of a logic die, and the
capture and restoring of an acre's state (R695-R698, R707-R721, R728-R732, R737, R738, R1027). -/

namespace Sys2Proof.Machine

open Sys2Proof

/-! ### Start-up sources (R703-R708) -/

/-- The CFG_MODE straps as sampled at SP2. -/
def State.cfgMode (s : State) : Nat := s.fld CFG_STAT_CFG_MODE

/-- The first source of a mode; none in mode NONE. -/
def firstSource (mode : Nat) : Option Nat :=
  if mode = 0 ∨ mode = 1 ∨ mode = 4 then some 0 else if mode < 4 then some 2 else none

/-- The source after one that is refused (R703, R708): none is left when the flash cannot be read, but in mode XSPI_HOST. -/
def nextSource (mode src reason : Nat) : Option Nat :=
  if src = 0 ∧ reason ≠ 16 ∧ (mode = 0 ∨ mode = 4) then some 1
  else if src < 2 ∧ mode = 4 then some 2
  else none

/-- Where a start-up source lies. -/
def sourceOf (src : Nat) : ImgSrc := if src = 0 then .flash 0x04000000 else if src = 1 then .flash 0x12000000 else .pushed

/-- A start-up image is judged (R690, R704, R706): `h` is its header and signature, none when the flash cannot be read. -/
def State.judgeImage (s : State) (h : Option (List Byte)) : State :=
  let hdr := if s.cfg.tried = 2 then some s.pushedHeader else h
  match hdr with
  | none => { s with cfg := { s.cfg with refusal := 16 } }
  | some bs =>
    let area := if s.cfg.tried = 2 then none else some (14 * 2 ^ 24)
    let r := s.checkImage bs area
    if r ≠ 0 then { s with cfg := { s.cfg with refusal := r } } else
    let im := imageOf (sourceOf s.cfg.tried) bs (s.imageKey bs)
    { s with cfg := { s.cfg with image := some im } }.acceptImage im

/-- A source can be judged: flash always, a pushed image when its last chunk has arrived (R706). -/
def State.sourceReady (s : State) : Bool := s.cfg.tried < 2 || s.cfg.pushEnd

/-- The segment that is staged next: the lowest OFFSET not yet staged (R1027). -/
def nextSegment (segs : List Seg) (staged : List (Nat × List Byte)) : Option Seg :=
  (segs.filter fun g => !(staged.any fun x => x.1 = g.acre)).foldl (fun o g => match o with
    | some b => if g.off < b.off then some g else some b
    | none => some g) none

/-- Staging takes the bottom of the user area of the stacked SRAM of the acre's hub (R707): what the lines hold then is open. -/
def State.stageLines (s : State) (la n : Nat) : State :=
  let h := la / 96
  let base := mapGet s.cfg.stagedLines 0 h
  let k := (n + 63) / 64
  let s1 := (List.range k).foldl (fun t i =>
    let f := t.free
    f.2.setSram h ((base + i) % 2 ^ 22) (strongEncode f.1)) s
  { s1 with cfg := { s1.cfg with stagedLines := mapSet s1.cfg.stagedLines 0 h (base + k) } }

/-- A segment is staged. -/
def State.stageSegment (s : State) (la : Nat) (bs : List Byte) : State :=
  { s with cfg := { s.cfg with staged := s.cfg.staged ++ [(la, bs)] } }

/-- The stored segment of an acre, if staged. -/
def State.stagedOf (s : State) (la : Nat) : Option (List Byte) := (s.cfg.staged.find? fun x => x.1 = la).map (·.2)

/-! ### Loads (R695-R698) -/

/-- The load of an acre that runs. -/
def State.loadOf (s : State) (la : Nat) : Option LoadSt := s.cfg.loads.find? fun l => l.acre = la

/-- Change or end a load. -/
def State.putLoad (s : State) (la : Nat) (l : Option LoadSt) : State :=
  { s with cfg := { s.cfg with loads := s.cfg.loads.filterMap fun x => if x.acre = la then l else some x } }

/-- A load ends with the acre FAILED (R698, R716). -/
def State.loadFail (s : State) (la pl : Nat) : State := ((s.putLoad la none).emptyPlace pl).acreGone la acFailed

/-- A load fails at once (R691, R692, R696, R723). -/
def State.loadStop (s : State) (la pl reason faddr : Nat) : State :=
  (((s.putLoad la none).emptyPlace pl).acreFail la reason faddr)

/-- ACRE_LOAD_END (R692, R698, R715): the plaintext has been processed. -/
def State.loadEnd (s0 : State) (l : LoadSt) : State :=
  let s := s0.setPlace l.place { s0.place l.place with loading := false }
  if !l.good then s.loadStop l.acre l.place 10 (l.acre * 16384)
  else if l.reason ≠ 0 then s.loadFail l.acre l.place
  else (s.putLoad l.acre none).setAcre l.acre acLoaded

/-- The load of an acre begins at a place (R691, R697, R748, R1016): its stored segment is checked before any frame is written. -/
def State.startLoad (s : State) (la pl : Nat) (r : Retained) (bytes : List Byte) (skip : Bool) : State :=
  let s1 := ((s.setAcre la acLoading).setReason la 0).setFld (CFG_ACRE_RELOC la) r.seg.reloc.toNat
  let s2 := (s1.setFld (CFG_ACRE_UPSET la) 0).setCsr (CFG_SIG la) r.seg.sig
  let s3 := (r.seg.compat.zipIdx.foldl (fun t w => t.setCsr (CFG_COMPAT la w.2) w.1) s2).beginPlace pl
  let bad := segmentCheck r.key r.seg bytes
  if bad ≠ 0 then s3.loadStop la pl bad (la * 16384)
  else if r.seg.reloc && la % 4 = 0 && la / 4 % 12 = 0 then s3.loadStop la pl 13 (la * 16384)
  else
    let p := segmentPlain r.key r.seg bytes
    let l : LoadSt := ⟨la, pl, p.1, p.2, none, 0, skip⟩
    let s4 := { s3 with cfg := { s3.cfg with loads := s3.cfg.loads ++ [l] } }
    if p.1.isEmpty then s4.loadEnd l else s4

/-- A frame is refused (R698): the load goes on with the next record. -/
def State.frameRefused (s : State) (l : LoadSt) (reason faddr : Nat) : State × LoadSt :=
  ((s.cfgReason reason l.acre faddr).setReason l.acre reason, { l with reason := reason })

/-- The next frame record of a load (R693-R698, R723). -/
def State.frameRecord (s : State) (l : LoadSt) : State :=
  let la := l.acre
  if l.data.length < 520 then s.loadStop la l.place 10 (la * 16384) else
  let addr := leNat (l.data.take 4)
  let bits := (l.data.drop 4).take 512
  let fidx := addr % 16384
  let faddr := la * 16384 + fidx
  let rest := l.data.drop 520
  let next (r : State × LoadSt) : State :=
    let l1 := { r.2 with data := rest }
    let s1 := r.1.putLoad la (some l1)
    if rest.isEmpty then s1.loadEnd l1 else s1
  if addr ≠ faddr ∨ leWord ((l.data.drop 516).take 4) ≠ crc32c (0xFFFFFFFF#32 ^^^ BitVec.ofNat 32 faddr) bits then
    next (s.frameRefused l 11 faddr)
  else if !frameAssigned fidx || l.last.any (fidx ≤ ·) then s.loadStop la l.place 10 faddr
  else
    let v : BitVec 4096 := BitVec.ofNat 4096 (leNat bits)
    let l1 := { l with last := some fidx }
    if s.bit (CFG_ACRE_RELOC la) && relocBad l.place la fidx v then s.loadStop la l.place 13 faddr else
    let r := s.writeFrame l.place la fidx v l.skip
    if r.1 then next (r.2, l1) else next (r.2.frameRefused l1 12 faddr)

/-! ### Release (R717, R718) -/

/-- Stage 1 of acres becomes due (R712, R719). -/
def State.makeDue (s : State) (las : List Nat) : State :=
  { s with cfg := { s.cfg with due := s.cfg.due ++ las.filter fun la => !s.cfg.due.contains la } }

/-- Stage 1 of an acre is no longer due. -/
def State.dropDue (s : State) (la : Nat) : State := { s with cfg := { s.cfg with due := s.cfg.due.filter (· ≠ la) } }

/-- Whether the acre drives the pins of a port die (R680). -/
def acrePort (la : Nat) : Option Nat := if la % 48 = 0 then some (la / 48) else none

/-- The last stage of a release (R717): GSR ends; an acre whose state has been restored goes on from it instead (R725 step 8). -/
def State.stageLast (s : State) (pl : Nat) : State :=
  if (s.place pl).gsrOff then s.setPlace pl { s.place pl with stage := 3 } else s.stage3 pl

/-! ### Quiescence (R720) -/

/-- No transaction is outstanding at any gate of an acre (R720). -/
def State.gatesQuiet (s : State) (la : Nat) : Bool :=
  !(s.ring.treq.any fun q => q.ld = la / 4 && q.gate / 4 = la % 4 && !q.late) &&
    !(s.ring.gateWait.any fun w => w.1 = 8 * (la / 4) + la % 4) &&
    !(s.ring.txns.any fun t => t.pkt.src.toNat = 8 * (la / 4) + la % 4 && !t.gaveUp)

/-- A RUNNING acre begins to quiesce (R715, R720). -/
def State.quiesce (s : State) (la : Nat) : State := if s.acreState la = acRunning then s.setAcre la acQuiescing else s

/-- An acre is isolated for a relocation (R721, R725 step 3): as in any isolation, but its clocks stop and GSR waits until its state
has been captured. -/
def State.pausePlace (s : State) (pl : Nat) : State :=
  let s1 := clampFrames.foldl (fun t i =>
    { t with fab := { t.fab with latched := mapSet t.fab.latched 0 (pl * 16384 + i) (t.frame pl i) } }) s
  s1.setPlace pl { s1.place pl with clamped := true, stage := 0 }

/-! ### The reset of a logic die (R355, R716, R918, R939) -/

/-- The registers and the fabric state of a logic die return to their reset values; its acres are empty places. Its identity, the
capabilities in effect, the channel selection of SP3 and the trace memory stay. The row's probe pins get another owner if need be (R162). -/
def State.resetLogicDie (s : State) (site : Nat) : State :=
  let s0 := match s.ldOf site with
    | some ld => s.dropStops fun st => st / 8 = ld && st % 8 ≠ 6
    | none => s
  let s1 := s0.resetRegs fun k =>
    let off := k % 0x1000000
    decide (k / 0x1000000 = 8 + site) && !(off < 0x20 || off = 0x300 || decide (0x8000 ≤ off))
  let f := s1.fab
  let at_ (k d : Nat) : Bool := k / d = site
  let s2 := { s1 with
    latches := s1.latches.filter fun l => l.key / 0x1000000 ≠ 8 + site
    fab := { f with
      frames := mapDrop (fun k => at_ k 65536) f.frames
      latched := mapDrop (fun k => at_ k 65536) f.latched
      drivers := mapDrop (fun k => at_ k 32768) f.drivers
      places := mapDrop (fun k => at_ k 4) f.places
      cubits := mapDrop (fun k => at_ k 16384) f.cubits
      chans := mapDrop (fun k => at_ k 128) f.chans
      divs := mapDrop (fun k => at_ k 16) f.divs
      snaps := mapDrop (fun k => k = site) f.snaps
      probes := mapDrop (fun k => k = site) f.probes
      rows := mapDrop (fun k => at_ k (768 * 1024)) f.rows
      bushels := mapDrop (fun k => at_ k 768) f.bushels
      diags := mapDrop (fun k => k = site) f.diags
      tiles := mapDrop (fun k => at_ k 128) f.tiles
      tmem := mapDrop (fun k => at_ k (128 * 512)) f.tmem
      imem := mapDrop (fun k => at_ k (128 * 32)) f.imem }
    tb := { s1.tb with followers := mapDrop (fun k => k = 8 + site) s1.tb.followers }
    rst := { s1.rst with
      readings := mapDrop (fun k => k / 4 = 8 + site) s1.rst.readings
      hotOnce := mapDrop (fun k => k / 4 = 8 + site) s1.rst.hotOnce } }
  s2.probeOwner (site / 16)

/-! ### Capture and restoring (R725-R730) -/

/-- Free bytes that fill what R729 does not assign. -/
def padFrom (base i n : Nat) : List Byte := bytesOf (Config.freeLine (base + i)) n

/-- A cubit's 32 bytes (R729). -/
def cubitImage (c : CubitSt) (pad : List Byte) : List Byte :=
  bytesOf c.q 2 ++ c.st.toList.flatMap (fun v => bytesOf v 2) ++
    bytesOf (BitVec.ofNat 32 (c.flags.toList.zipIdx.foldl (fun n f => n + f.1.toNat * 16 ^ f.2) 0)) 4 ++
    [BitVec.ofNat 8 (c.ctr.val + (pad.headD 0).toNat / 8 * 8)] ++ (pad.drop 1).take 9

/-- A cubit from its 32 bytes. -/
def cubitOf (bs : List Byte) : CubitSt :=
  let v : BitVec 256 := BitVec.ofNat 256 (leNat (bs.take 32))
  ⟨v.extractLsb' 0 16, Vector.ofFn fun i : Fin 8 => v.extractLsb' (16 + 16 * i.val) 16,
    Vector.ofFn fun i : Fin 8 => v.extractLsb' (144 + 4 * i.val) 4, Fin.ofNat 8 (bitsOf v 176 3)⟩

/-- Numbers of a tile's parts, in the order of R729. -/
def tileNumbers (x : TileSt) : List Nat :=
  [x.acc0.toNat, x.pois0.toNat, x.acc1.toNat, x.pois1.toNat, x.e.toNat, x.be.toNat, x.poisBe.toNat] ++
    x.ags.toList.flatMap (fun g => [g.base.toNat, g.stride.toNat, g.modM1.toNat, g.mode.toNat, g.offset.toNat]) ++
    [x.loops.length] ++ x.loops.flatMap (fun l => [l.first, l.last, l.count]) ++
    [x.pc, (match x.mode with | .idle => 0 | .run => 1 | .wait => 2 | .done => 3 | .stopped => 4 | .error => 5), x.waitOn] ++
    [x.is0, x.is1, x.os].flatMap (fun q => q.length :: q.flatMap fun w => [w.1.toNat, w.2.toNat])

/-- Elements of a list in groups of `n`. -/
def groupsOf (n k : Nat) (ns : List Nat) : List (List Nat) := (List.range k).map fun i => (ns.drop (n * i)).take n

/-- A stream buffer from its numbers. -/
def streamOf (k : Nat) (ns : List Nat) : List (BitVec 48 × Bool) :=
  (groupsOf 2 (min k 4) ns).map fun g => (BitVec.ofNat 48 (g.getD 0 0), g.getD 1 0 ≠ 0)

/-- A tile from the numbers of its parts; what relocation does not carry stays as in `x`. -/
def tileOf (x : TileSt) (ns : List Nat) : TileSt :=
  let n (i : Nat) : Nat := ns.getD i 0
  let loops := min (n 27) 3
  let r := ns.drop (28 + 3 * n 27)
  let k0 := r.getD 3 0
  let k1 := r.getD (4 + 2 * k0) 0
  let k2 := r.getD (5 + 2 * k0 + 2 * k1) 0
  { x with
    acc0 := BitVec.ofNat 64 (n 0), pois0 := n 1 ≠ 0, acc1 := BitVec.ofNat 64 (n 2), pois1 := n 3 ≠ 0
    e := BitVec.ofNat 6 (n 4), be := BitVec.ofNat 6 (n 5), poisBe := n 6 ≠ 0
    ags := Vector.ofFn fun i : Fin 4 => ⟨BitVec.ofNat 8 (n (7 + 5 * i.val)), BitVec.ofNat 8 (n (8 + 5 * i.val)),
      BitVec.ofNat 8 (n (9 + 5 * i.val)), BitVec.ofNat 2 (n (10 + 5 * i.val)), BitVec.ofNat 8 (n (11 + 5 * i.val))⟩
    loops := (groupsOf 3 loops (ns.drop 28)).map fun g => ⟨g.getD 0 0, g.getD 1 0, g.getD 2 0⟩
    pc := r.getD 0 0 % 32
    mode := [TileMode.idle, .run, .wait, .done, .stopped, .error].getD (r.getD 1 0) .idle
    waitOn := r.getD 2 0
    is0 := streamOf k0 (r.drop 4), is1 := streamOf k1 (r.drop (5 + 2 * k0)), os := streamOf k2 (r.drop (6 + 2 * k0 + 2 * k1)) }

/-- Numbers of a bushel's output registers. -/
def portNumbers (p : BshPort × BshPort) : List Nat :=
  [p.1, p.2].flatMap fun x => [x.dout.toNat, x.poison.toNat, x.err.toNat, x.ce.toNat]

/-- The output registers of a port whose OREG is 1, from their numbers (R220). A result that waits before them is no part of the state: the
register holds on, or loads the open value `late` where a result was waiting. -/
def portOf (oreg : Bool) (x : BshPort) (g : List Nat) (late : Option (BitVec 96)) : BshPort :=
  if !oreg then x else
  let d := BitVec.ofNat 96 (g.getD 0 0)
  ⟨d, g.getD 1 0 ≠ 0, g.getD 2 0 ≠ 0, g.getD 3 0 ≠ 0, late.getD d, g.getD 1 0 ≠ 0, g.getD 2 0 ≠ 0, g.getD 3 0 ≠ 0⟩

/-- A port's result waits for its output register (R193). -/
def BshPort.waiting (x : BshPort) : Bool := x.advance ≠ x

/-- The output registers of a bushel from their numbers. -/
def portsOf (cfg : BitVec 64) (b : BshSt) (was : BshPort × BshPort) (ns : List Nat) (free : BitVec 512) : BshSt :=
  { b with
    a := portOf (cfg.getLsbD 15) b.a (ns.take 4) (if was.1.waiting then some (free.extractLsb' 0 96) else none)
    b := portOf (cfg.getLsbD 16) b.b (ns.drop 4) (if was.2.waiting then some (free.extractLsb' 96 96) else none) }

/-- The site and die coordinates of cubit `i` of a place (R699). -/
def placeCubit (pl i : Nat) : Nat × Nat × Nat := (pl / 4, 64 * (pl % 4 % 2) + i % 64, 64 * (pl % 4 / 2) + i / 64)

/-- Bushel `b` of a place. -/
def placeBushel (pl b : Nat) : Nat × Nat := (pl / 4, 192 * (pl % 4) + b)

/-- Tiles and bushel output registers of a place. -/
def State.placeTiles (s : State) (pl : Nat) : List TileSt :=
  (List.range 32).map fun t => s.tile (placeTile pl t).1 (placeTile pl t).2

/-- Output registers of the bushels of a place. -/
def State.placePorts (s : State) (pl : Nat) : List (BshPort × BshPort) :=
  (List.range 192).map fun b =>
    let x := mapGet s.fab.bushels BshSt.zero (bushelKey (placeBushel pl b).1 (placeBushel pl b).2)
    (x.a, x.b)

/-- Bytes of a tile as R729 leaves them open: 512. -/
def tileBytes (x : TileSt) : List Byte := ((Config.tileImage (tileNumbers x)) ++ List.replicate 512 0).take 512

/-- Bytes of a bushel's output registers: 32. -/
def portBytes (p : BshPort × BshPort) : List Byte := ((Config.portImage (portNumbers p)) ++ List.replicate 32 0).take 32

/-- A word of 16 bytes, `w` bits of it given. -/
def wordImage {w : Nat} (v : BitVec w) (pad : BitVec 512) : List Byte :=
  bytesOf (v.setWidth 128 ||| (pad.setWidth 128 >>> w <<< w)) 16

/-- Length of a capture in bytes (R729). -/
def captureLen (bushels : Bool) : Nat := if bushels then 0x365800 else 0x24000

/-- STATE_CAPTURE (R728, R729): what is written to CFG_BUF, with free values where R729 assigns nothing. -/
def State.capture (s : State) (pl : Nat) (bushels : Bool) : List Byte × State :=
  let base := s.freeCtr
  let cub := (List.range 4096).flatMap fun i =>
    let c := placeCubit pl i
    cubitImage (s.cubit c.1 c.2.1 c.2.2) (padFrom base i 10)
  let til := (s.placeTiles pl).flatMap tileBytes
  let rows := if !bushels then [] else (List.range (192 * 1024)).flatMap fun i =>
    let b := placeBushel pl (i / 1024)
    wordImage (s.bshRowAt b.1 b.2 (i % 1024)) (Config.freeLine (base + 4096 + i))
  let outs := if !bushels then [] else (s.placePorts pl).flatMap portBytes
  let mems := if !bushels then [] else (List.range (32 * 512)).flatMap fun i =>
    let t := placeTile pl (i / 512)
    wordImage (s.tword (tmemKey t.1 t.2 (i % 512 / 256) (i % 256))) (Config.freeLine (base + 4096 + 192 * 1024 + i))
  (cub ++ til ++ rows ++ outs ++ mems, { s with freeCtr := base + 4096 + (if bushels then 192 * 1024 + 32 * 512 else 0) })

/-- STATE_RESTORE (R727, R728): the target's state from the bytes read back, its GSR deasserted while its clocks stand. -/
def State.restore (s : State) (pl : Nat) (bushels : Bool) (tiles : List TileSt) (ports : List (BshPort × BshPort))
    (bs : List Byte) : State :=
  let cut (off n : Nat) : List Byte := (bs.drop off).take n
  let s1 := (List.range 4096).foldl (fun t i =>
    let c := placeCubit pl i
    t.putCubit c.1 c.2.1 c.2.2 (cubitOf (cut (32 * i) 32))) s
  let s2 := tiles.zipIdx.foldl (fun t x =>
    let n := placeTile pl x.2
    let b := cut (0x20000 + 512 * x.2) 512
    let old := t.tile n.1 n.2
    t.setTile n.1 n.2 (tileOf old (if b = tileBytes x.1 then tileNumbers x.1 else Config.tileParts b))) s1
  let s3 := if !bushels then s2 else
    let t1 := (List.range (192 * 1024)).foldl (fun t i =>
      let b := placeBushel pl (i / 1024)
      t.setBshRow b.1 b.2 (i % 1024) (BitVec.ofNat 109 (leNat (cut (0x24000 + 16 * i) 16)))) s2
    let t2 := ports.zipIdx.foldl (fun t x =>
      let b := placeBushel pl x.2
      let k := bushelKey b.1 b.2
      let w := cut (0x324000 + 32 * x.2) 32
      let v := portsOf (t.bshCfg b.1 b.2) (mapGet t.fab.bushels BshSt.zero k) x.1
        (if w = portBytes x.1 then portNumbers x.1 else Config.portParts w) t.free.1
      { t.free.2 with fab := { t.free.2.fab with bushels := mapSet t.fab.bushels BshSt.zero k v } }) t1
    (List.range (32 * 512)).foldl (fun t i =>
      let n := placeTile pl (i / 512)
      t.setTword (tmemKey n.1 n.2 (i % 512 / 256) (i % 256)) (BitVec.ofNat 105 (leNat (cut (0x325800 + 16 * i) 16)))) t2
  s3.setPlace pl { s3.place pl with gsrOff := true, unseen := 0, fresh := 0 }

/-! ### Readback and the configuration check (R737, R738) -/

/-- Indices that READBACK covers, in ascending order (R737). -/
def readbackIndices : List Nat :=
  List.range 0x600 ++ (List.range 32).map (0x600 + 16 * ·) ++ (List.range 192).map (fun b => 0x800 + 32 * b + 27) ++
    [0x2000, 0x2001, 0x2002, 0x2003] ++ clampFrames

/-- A frame as READBACK returns it: MAC-tile frames show what the host has written since (R737). -/
def State.readFrame (s : State) (pl fidx : Nat) : BitVec 4096 :=
  if 0x600 ≤ fidx ∧ fidx < 0x800 then
    let t := (fidx - 0x600) / 16
    let n := placeTile pl t
    let im := (List.range 32).foldl (fun (v : BitVec 4096) i =>
      v ||| ((secDecode8 (s.iword n.1 n.2 i)).data.setWidth 4096 <<< (64 * i))) 0
    let ag := (s.frame pl (hostAgIndex t)).setWidth 256
    im ||| (ag.setWidth 4096 <<< 2048) ||| ((((s.tile n.1 n.2).ctl >>> 8).setWidth 10).setWidth 4096 <<< 2304)
  else s.frame pl fidx

/-- A frame record (R693-R695). -/
def frameBytes (la fidx : Nat) (v : BitVec 4096) : List Byte :=
  let a : Word := BitVec.ofNat 32 (la * 16384 + fidx)
  let d := bytesOf v 512
  bytesOf a 4 ++ d ++ bytesOf (crc32c (0xFFFFFFFF#32 ^^^ a) d) 4

/-- What READBACK writes (R737). -/
def State.readback (s : State) (la pl : Nat) : List Byte := readbackIndices.flatMap fun i => frameBytes la i (s.readFrame pl i)

/-- The configuration check's value of a place (R738). -/
def State.checkCrc (s : State) (pl : Nat) : Word :=
  crc32c 0xFFFFFFFF#32 ((readbackIndices.filter fun i => !(0x600 ≤ i && i < 0x800)).flatMap fun i => bytesOf (s.frame pl i) 512)

/-- CFG_CHECK (R738): an LDC recomputes the check of a RUNNING acre. -/
def execCfgCheck (acre : Fin 192) (s : State) : Host.Outcome State Fault Refusal :=
  .next (match s.acrePlace (acre / 4) (acre % 4), s.retainedSeg acre with
    | some pl, some r =>
      if s.bit CFG_CHECK_EN && s.acreState acre = acRunning && s.checkCrc pl ≠ r.seg.crc then
        (s.setFld (CFG_ACRE_UPSET acre) 1).cfgFlag CFG_ERR_CFG_UPSET acre
      else s
    | _, _ => s)

end Sys2Proof.Machine
end

