-- ==== Sys2Proof/Machine/CfgOps.lean ====
section
/-! DEFINITION. Configuration operations (R715-R741): LOAD, UNLOAD, RELOCATE, READBACK, HOST_PREP and RETIRE, quiescence, the load of
acres and their staged release. -/

namespace Sys2Proof.Machine

open Sys2Proof

/-! ### The operation that runs -/

/-- Change the operation that runs. -/
def State.setOp (s : State) (o : OpSt) : State := { s with cfg := { s.cfg with op := some o } }

/-- The configuration master of H0 begins a transfer (R729). -/
def State.cfgXfer (s : State) (write : Bool) (addr len : Nat) (data : List Byte) : State :=
  { s with cfg := { s.cfg with xfer := some (Xfer.start (hubStop 0 11) 0x020 write false addr len data) } }

/-- STATUS of CFG_CMD (R743). -/
def opOk : Nat := 0
def opPartial : Nat := 1
def opRefused : Nat := 2
def opFailed : Nat := 3
def opAborted : Nat := 4
def opStateLost : Nat := 5
def opNoTarget : Nat := 6

/-- The operation ends with a status (R743, R746, R790, R791): its flags are set and the command that started it completes. -/
def State.opEnd (s : State) (status : Nat) : State :=
  match s.cfg.op with
  | none => s
  | some o =>
    let s1 := { s with cfg := { s.cfg with op := none, xfer := none } }
    let s2 := (s1.setFld CFG_CMD_BUSY 0).setFld CFG_CMD_STATUS status
    let moves := o.op = 3 || o.op = 5 || o.op = 6
    let s3 := if moves && (status = opFailed || status = opNoTarget) then s2.cfgFlag CFG_ERR_RELOC_FAIL (bitsOf o.arg 0 8)
      else if moves && status = opStateLost then s2.cfgFlag CFG_ERR_STATE_LOST (bitsOf o.arg 0 8) else s2
    let st : Word := BitVec.ofNat 32 status
    if o.op = 1 then s3.accDone 0x0200 stOk [st, s3.csr CFG_ERR_INFO]
    else if o.op = 6 ∧ s3.lts.readOnly then s3.accDone 0x0206 stHwFault [1, st]
    else s3.accDone (0x0200 + o.op) stOk
      (if o.op = 3 then [st, s3.csr CFG_PAUSE] else if o.op = 4 ∨ o.op = 5 then [st] else [st, s3.csr CFG_ERR_INFO])

/-! ### LOAD (R719) -/

/-- Acres of the image of a LOAD. -/
def opAcres (o : OpSt) : List Nat :=
  match o.image with
  | some im => im.segs.map (·.acre)
  | none => []

/-- The header of a LOAD's image has been read (R690, R719): it is refused, or its acres begin to quiesce. -/
def State.opHeader (s : State) (o : OpSt) (src : ImgSrc) (h : List Byte) : State :=
  let r := s.checkImage h none
  if r ≠ 0 then (s.cfgReason r 0 0).opEnd opRefused else
  let im := imageOf src h (s.imageKey h)
  if !im.partialImage then s.opEnd opRefused else
  let las := im.segs.map (·.acre)
  let s1 := { s with cfg := { s.cfg with staged := [] } }.acceptImage im
  las.foldl (fun t la => t.quiesce la) (s1.setOp { o with phase := .loads, image := some im, acres := las })

/-- The next stored segment of a LOAD is fetched, if the configuration master is free (R719, R1027). -/
def State.opFetch (s : State) (o : OpSt) : State :=
  match o.image with
  | none => s
  | some im =>
    if s.cfg.xfer.isSome then s else
    match nextSegment im.segs s.cfg.staged with
    | none => s
    | some g => match im.src with
      | .memory base => s.cfgXfer false (base + g.off) g.len []
      | _ => s.stageSegment g.acre (s.pushedBytes g.off g.len)

/-- STATUS of a LOAD whose acres have all been released or have failed (R743). -/
def State.loadStatus (s : State) (las : List Nat) : Nat :=
  let n := (las.filter fun la => s.acreState la = acRunning).length
  if n = las.length then opOk else if n = 0 then opFailed else opPartial

/-! ### Moves (R724-R734) -/

/-- A place of a host is free: no acre has been moved to it. -/
def State.placeFree (s : State) (pl : Nat) : Bool :=
  (List.range 32).all fun k => !(s.bit (CFG_RELOC_MAP_VALID k) &&
    placeKey (s.fld (CFG_RELOC_MAP_SITE k)) (s.fld (CFG_RELOC_MAP_PACRE k)) = pl)

/-- A site is in state SPARE (R50, R724). -/
def State.isSpare (s : State) (site : Nat) : Bool := isLogicSite site && s.fld (HUB_SITE_STAT_STATE 0 site) = 2

/-- The first free place of a site. -/
def State.freePlace (s : State) (site : Nat) : Option Nat :=
  ((List.range 4).map (placeKey site)).find? s.placeFree

/-- The target that the configuration master chooses (R734). -/
def State.chooseTarget (s : State) (row : Nat) : Option Nat :=
  let spares := logicSites.filter s.isSpare
  let hosts := spares.filter fun x => s.cfg.hosts.contains x
  ((hosts.filter fun x => x / 16 = row) ++ (hosts.filter fun x => x / 16 ≠ row) ++ (spares.filter fun x => !s.cfg.hosts.contains x)).findSome?
    s.freePlace

/-- A host has passed its BIST: it is powered and runs the package clocks in effect (R724). -/
def State.hostReady (s : State) (site : Nat) : State :=
  ({ s.resetLogicDie site with cfg := { s.cfg with hosts := s.cfg.hosts ++ [site] } }).loadClocks site

/-- The stop map routes an acre's stop to its new place (R731, R732, R749). -/
def State.mapStop (s : State) (la pl : Nat) : State :=
  let stop := 8 * (la / 4) + la % 4
  let used := (List.range 32).find? fun k => s.bit (CFG_RELOC_MAP_VALID k) && s.fld (CFG_RELOC_MAP_STOP k) = stop
  let k := used.getD (((List.range 32).find? fun k => !s.bit (CFG_RELOC_MAP_VALID k)).getD 31)
  let s1 := s.setFld (CFG_RELOC_MAP_STOP k) stop
  let s2 := (s1.setFld (CFG_RELOC_MAP_SITE k) (pl / 4)).setFld (CFG_RELOC_MAP_PACRE k) (pl % 4)
  let s3 := (s2.setFld (CFG_RELOC_MAP_VALID k) 1).setFld (CFG_ACRE_HOSTED la) 1
  (List.range 256).foldl (fun t f =>
    if flowValid (t.flow f) && (flowSrc (t.flow f) = stop || flowDst (t.flow f) = stop) then t.setFld (RNG_GFLOW_STATUS f) 2 else t) s3

/-- Step 1 of a move (R725): the retained segment is read from its source; a pushed image is not kept (log entry 56). The second part
says that the move has failed. -/
def State.moveSegment (s : State) (o : OpSt) : State × Bool :=
  match s.retainedSeg o.acre with
  | none => (s, true)
  | some r => match r.src with
    | .memory base => ((s.setOp { o with phase := .segment }).cfgXfer false (base + r.seg.off) r.seg.len [], false)
    | .flash _ => (s.setOp { o with phase := .segment }, false)
    | .pushed => (s, true)

/-- A move begins: step 0 where its host is not prepared, else step 1 (R725). -/
def State.moveBegin (s : State) (o : OpSt) (la pl : Nat) : State × Bool :=
  let o1 := { o with acre := la, target := pl, data := [], lost := false }
  if s.cfg.hosts.contains (pl / 4) then s.moveSegment o1 else (s.setOp { o1 with phase := .bist }, false)

/-- The acres of a retirement that have not moved become LOST and the die is power-gated (R735). -/
def State.retireEnd (s : State) (o : OpSt) : State :=
  let ld := bitsOf o.arg 0 6
  match s.siteOf ld with
  | none => s.opEnd opFailed
  | some site =>
    let stay := (List.range 4).map (4 * ld + ·) |>.filter fun la => s.acrePlace ld (la % 4) = some (placeKey site (la % 4))
    let s1 := stay.foldl (fun t la => t.acreGone la acLost) s
    let s2 := s1.resetLogicDie site
    s2.opEnd (if o.failed || !stay.isEmpty then opPartial else if o.anyLost then opStateLost else opOk)

/-- The next move of a retirement begins (R735): an acre that finds no target, or whose move cannot begin, is LOST. -/
def State.retireNext : Nat → State → OpSt → State
  | 0, s, o => s.retireEnd o
  | n + 1, s, o =>
    match o.acres with
    | [] => s.retireEnd o
    | la :: rest =>
      let o1 := { o with acres := rest }
      match s.chooseTarget ((s.siteOf (la / 4)).getD 0 / 16) with
      | none => State.retireNext n (s.acreGone la acLost) { o1 with failed := true }
      | some pl =>
        let r := s.moveBegin o1 la pl
        if r.2 then State.retireNext n (r.1.acreGone la acLost) { o1 with failed := true } else r.1

/-- A move ends: done, or with the status a RELOCATE would have (R725, R726, R730, R735). -/
def State.moveEnd (s : State) (o : OpSt) (status : Nat) : State :=
  let s1 := if status = opOk then s.setFld CFG_PAUSE_US (min ((s.now - o.began) / 1000) 0xFFFFFF) else s
  if o.op = 6 then
    if status = opOk then s1.retireNext 5 { o with anyLost := o.anyLost || o.lost }
    else (s1.acreGone o.acre acLost).retireNext 5 { o with failed := true }
  else s1.opEnd (if status = opOk then (if o.lost then opStateLost else opOk) else status)

/-- The retained segment has been read (R725 step 1, R726): the pause begins, or the move fails. -/
def State.moveFetched (s : State) (o : OpSt) (bytes : Option (List Byte)) : State :=
  match bytes, s.retainedSeg o.acre with
  | some bs, some r =>
    if segmentCheck r.key r.seg bs ≠ 0 || s.acreState o.acre ≠ acRunning then s.moveEnd o opFailed
    else (s.setOp { o with phase := .quiesce, data := bs.map (·, false), began := s.now }).quiesce o.acre
  | _, _ => s.moveEnd o opFailed

/-- Bushels and data memories move as well (R728). -/
def opBushels (o : OpSt) : Bool := o.arg.getLsbD 16

/-- Step 5 of a move: the source site is EMPTY and the target is loaded (R715, R725, R728). -/
def State.moveLoad (s : State) (o : OpSt) : State :=
  match s.acrePlace (o.acre / 4) (o.acre % 4), s.retainedSeg o.acre with
  | some src, some r =>
    ((s.emptyPlace src).setOp { o with phase := .load }).startLoad o.acre o.target r (o.data.map (·.1)) (opBushels o && !o.lost)
  | _, _ => s.moveEnd o opFailed

/-- Steps 3 and 4: the source is isolated and its state captured to CFG_BUF (R725, R728, R729). -/
def State.moveCapture (s : State) (o : OpSt) : State :=
  match s.acrePlace (o.acre / 4) (o.acre % 4) with
  | none => s.moveEnd o opFailed
  | some src =>
    let s1 := (s.pausePlace src).setAcre o.acre acCapturing
    let r := s1.capture src (opBushels o)
    (r.2.setOp { o with phase := .capture, tiles := s1.placeTiles src, ports := s1.placePorts src }).cfgXfer true o.buf r.1.length r.1

/-- Steps 7 and 8: the stop map changes and the target's release is due. -/
def State.moveRelease (s : State) (o : OpSt) : State :=
  ((s.mapStop o.acre o.target).setOp { o with phase := .release }).makeDue [o.acre]

/-! ### What follows an event -/

/-- The operation that runs takes account of the states its acres have reached (R719, R725, R735). -/
def State.opTurn (s : State) : State :=
  match s.cfg.op with
  | none => s
  | some o =>
    match o.phase with
    | .loads =>
      let left := o.acres.filter fun la => s.acreState la ≠ acLost
      let s1 := left.foldl (fun t la => t.quiesce la) (s.setOp { o with acres := left })
      if left.isEmpty && (opAcres o).all fun la => s1.acreState la ≠ acLoading then
        let ok := (opAcres o).filter fun la => s1.acreState la = acLoaded
        if ok.isEmpty then s1.opEnd (s1.loadStatus (opAcres o))
        else (s1.setOp { o with acres := [], phase := .release }).makeDue ok
      else s1
    | .load =>
      if s.acreState o.acre = acLoaded then
        if o.lost then s.moveRelease o
        else ((s.setAcre o.acre acRestoring).setOp { o with phase := .restore }).cfgXfer false o.buf (captureLen (opBushels o)) []
      else if s.acreState o.acre = acLoading then s else s.moveEnd o opFailed
    | .release =>
      if o.op = 1 then
        if (opAcres o).any fun la => s.acreState la = acLoaded || s.acreState la = acReleasing then s
        else s.opEnd (s.loadStatus (opAcres o))
      else if s.acreState o.acre = acRunning then s.moveEnd o opOk
      else if s.acreState o.acre = acFailed then s.moveEnd o opFailed else s
    | _ => s

/-- The transfer of the operation that runs has ended. -/
def State.opXferDone (s : State) (o : OpSt) (x : Xfer) : State :=
  let bytes : List Byte := x.got.map (·.1)
  let whole := x.left = 0 && x.fail.isNone
  match o.phase with
  | .header =>
    let n := hdrFull (leNat ((bytes.drop 12).take 4))
    let base := (s.csr64 CFG_SRC).toNat
    if !whole || leNat ((bytes.drop 12).take 4) < 1 || 192 < leNat ((bytes.drop 12).take 4) then s.opHeader o (.memory base) []
    else if bytes.length < n then
      { s with cfg := { s.cfg with xfer := some { Xfer.start (hubStop 0 11) 0x020 false false (base + bytes.length) (n - bytes.length) [] with
        got := x.got } } }
    else s.opHeader o (.memory base) bytes
  | .loads =>
    match o.image.bind fun im => nextSegment im.segs s.cfg.staged with
    | some g => (s.stageSegment g.acre (if whole then bytes else [])).opTurn
    | none => s
  | .segment => s.moveFetched o (if whole then some bytes else none)
  | .capture => (s.moveLoad { o with lost := o.lost || x.stopped || x.left ≠ 0 }).opTurn
  | .restore =>
    if whole then (s.restore o.target (opBushels o) o.tiles o.ports bytes).moveRelease o else s.moveRelease { o with lost := true }
  | .readback => s.opEnd (if x.stopped || x.left ≠ 0 then opFailed else opOk)
  | _ => s

/-- The operation that runs moves on as far as it can. -/
def State.cfgPump : Nat → State → State
  | 0, s => s
  | n + 1, s =>
    match s.cfg.op with
    | none => s
    | some o =>
      match s.cfg.xfer with
      | none => if o.phase = .loads && (o.image.bind fun im => nextSegment im.segs s.cfg.staged).isSome then
          State.cfgPump n ((s.opFetch o).opTurn) else s
      | some x =>
        let r := s.xferPump 4 x
        if r.1.ended then State.cfgPump n ({ r.2 with cfg := { r.2.cfg with xfer := none } }.opXferDone o r.1)
        else { r.2 with cfg := { r.2.cfg with xfer := some r.1 } }

/-! ### GO and aborts (R739-R741) -/

/-- Whether an acre is one that the operation acts on (R740). -/
def opActsOn (o : OpSt) (la : Nat) : Bool :=
  if o.op = 1 then (opAcres o).contains la else (o.op = 2 || o.op = 3 || o.op = 6) && o.acre = la && o.phase ≠ .readback

/-- OPERATION_ABORTED (R740): the operation ends with ABORTED; its acres within the scope, and those it leaves between states, are
EMPTY. -/
def State.opAbort (s : State) (scope : Nat → Bool) : State :=
  match s.cfg.op with
  | none => s
  | some o =>
    let gone := (List.range 192).filter fun la => opActsOn o la && (scope la ||
      !(s.acreState la = acRunning || s.acreState la = acEmpty || s.acreState la = acFailed || s.acreState la = acLost))
    let s1 := if o.op = 3 ∨ o.op = 6 then (if gone.isEmpty then s else s.emptyPlace o.target) else s
    (gone.foldl (fun t la => ((((t.putLoad la none).dropDue la).acreGone la acEmpty).setReason la 15)) s1).opEnd opAborted

/-- An operation has begun (R743). -/
def State.opBegin (s : State) (op : Nat) : State × OpSt :=
  let o : OpSt := ⟨op, s.csr CFG_ARG, (s.csr64 CFG_BUF).toNat, .header, none, [], bitsOf (s.csr CFG_ARG) 0 8, 0, [], s.now, [], [], false,
    false, false⟩
  ((((s.setFld CFG_CMD_REFUSED 0).setFld CFG_CMD_BUSY 1).setOp o), o)

/-- LOAD begins (R719, R788). -/
def State.beginLoad (s : State) : State :=
  let r := s.opBegin 1
  if (s.csr64 CFG_SRC).toNat = 2 ^ 64 - 1 then r.1.opHeader r.2 .pushed (if s.cfg.pushEnd then s.pushedHeader else [])
  else r.1.cfgXfer false (s.csr64 CFG_SRC).toNat 512 []

/-- UNLOAD begins (R715, R722): a RUNNING acre quiesces; one that holds no running image is EMPTY at once, but not a LOST one. -/
def State.beginUnload (s : State) : State :=
  let r := s.opBegin 2
  let la := r.2.acre
  let st := s.acreState la
  if 191 < la then r.1.opEnd opFailed
  else if st = acRunning then (r.1.setOp { r.2 with phase := .quiesce }).quiesce la
  else if st = acEmpty ∨ st = acFailed then (r.1.acreGone la acEmpty).opEnd opOk
  else r.1.opEnd opFailed

/-- RELOCATE begins (R725, R734). -/
def State.beginRelocate (s : State) : State :=
  let r := s.opBegin 3
  let la := r.2.acre
  let pl := if s.bit CFG_ARG_AUTO then s.chooseTarget ((s.siteOf (la / 4)).getD 0 / 16)
    else
      let t := placeKey (s.fld CFG_ARG_SITE) (s.fld CFG_ARG_TACRE)
      if s.isSpare (t / 4) && s.placeFree t then some t else none
  if 191 < la || s.acreState la ≠ acRunning || !s.bit (CFG_ACRE_RELOC la) then r.1.opEnd opFailed else
  match pl with
  | none => r.1.opEnd opNoTarget
  | some t =>
    let m := r.1.moveBegin r.2 la t
    if m.2 then m.1.moveEnd r.2 opFailed else m.1

/-- READBACK begins (R737). -/
def State.beginReadback (s : State) : State :=
  let r := s.opBegin 4
  let la := r.2.acre
  match s.acrePlace (la / 4) (la % 4) with
  | none => r.1.opEnd opFailed
  | some pl =>
    if 191 < la || s.acreState la = acLost then r.1.opEnd opFailed
    else
      let bs := s.readback la pl
      (r.1.setOp { r.2 with phase := .readback }).cfgXfer true r.2.buf bs.length bs

/-- HOST_PREP begins (R724). -/
def State.beginHostPrep (s : State) : State :=
  let r := s.opBegin 5
  let site := s.fld CFG_ARG_SITE
  if !s.isSpare site then r.1.opEnd opNoTarget
  else if s.cfg.hosts.contains site then r.1.opEnd opOk
  else r.1.setOp { r.2 with phase := .bist, target := placeKey site 0 }

/-- RETIRE begins (R735): the relocatable acres that the die runs move in ascending order. -/
def State.beginRetire (s : State) : State :=
  let r := s.opBegin 6
  let ld := bitsOf r.2.arg 0 6
  match s.siteOf ld with
  | none => r.1.opEnd opFailed
  | some site =>
    let s1 := r.1.setSite (fun h => HUB_SITE_STAT_STATE h site) 5
    let las := (List.range 4).map (4 * ld + ·) |>.filter fun la => s.acreState la = acRunning && s.bit (CFG_ACRE_RELOC la) &&
      s.acrePlace ld (la % 4) = some (placeKey site (la % 4))
    s1.retireNext 5 { r.2 with acres := las, phase := .segment }

/-- The operations by OP (R743). -/
def State.opGo (s : State) (op : Nat) : State :=
  State.cfgPump 200 (if op = 1 then s.beginLoad else if op = 2 then s.beginUnload else if op = 3 then s.beginRelocate
    else if op = 4 then s.beginReadback else if op = 5 then s.beginHostPrep else s.beginRetire)

/-- A RETIRE of the die whose acre a running RELOCATE moves aborts that relocation (R741). -/
def State.retireAborts (s : State) : Bool :=
  match s.cfg.op with
  | some o => o.op = 3 && o.acre / 4 = s.fld CFG_ARG_ACRE % 64
  | none => false

/-- A GO (R739, R741): a GO with NONE starts nothing. -/
def State.opStart (s : State) (op : Nat) : State :=
  if op = 6 ∧ s.retireAborts then
    match s.cfg.op with
    | some o =>
      let s1 := if s.acreState o.acre = acRunning then s.opEnd opAborted
        else (((s.emptyPlace o.target).putLoad o.acre none).dropDue o.acre |>.acreGone o.acre acLost).opEnd opAborted
      s1.opGo 6
    | none => s
  else if s.cfg.op.isSome || s.fld RST_STAT_STATE ≠ 1 then s.setFld CFG_CMD_REFUSED 1
  else if op = 0 ∨ 6 < op then s.setFld CFG_CMD_REFUSED 0
  else s.opGo op

/-- A write of CFG_CMD (R737, R742, R743). -/
def State.cfgCmdWrite (s : State) (mid : Nat) (v : Word) : State × Status :=
  if !s.levelS mid then (s, .errDenied) else
  let s1 := s.setFld CFG_CMD_OP (bitsOf v 0 4)
  if !v.getLsbD 4 then (s1, .ok)
  else if bitsOf v 0 4 = 4 ∧ s.acreState (s.fld CFG_ARG_ACRE) = acLoading then (s1, .errFenced)
  else (s1.opStart (bitsOf v 0 4), .ok)

/-- An operation whose host has failed its BIST ends once the retirement is stored (R33, R724, R991). -/
def State.storeTurn (s : State) : State :=
  match s.cfg.op with
  | some o => if o.phase = .store && s.lts.waits.isEmpty then (if o.op = 5 then s.opEnd opNoTarget else s.moveEnd o opNoTarget) else s
  | none => s

/-- A BIST of a host has ended (R724): it becomes a host, or is retired and the operation has no target. -/
def State.opBist (s : State) (o : OpSt) (pass : Bool) : State :=
  let site := o.target / 4
  if pass then
    let s1 := s.hostReady site
    if o.op = 5 then s1.opEnd opOk else
      let r := s1.moveSegment o
      if r.2 then r.1.moveEnd o opFailed else r.1
  else
    ((s.retireSite site).setOp { o with phase := .store }).storeTurn

/-- A step of operation `op`, if it is the one that runs. -/
def State.opStep (s : State) (op : Nat) (step : CfgStep) : State :=
  match step with
  | .go mid v => if bitsOf v 0 4 = op ∧ v.getLsbD 4 then (s.regWrite CFG_CMD fun s => s.cfgCmdWrite mid.toNat v) else s
  | st =>
    match s.cfg.op with
    | none => s
    | some o =>
      if o.op ≠ op || s.safe then s else
      State.cfgPump 200 (match st with
        | .bist pass => if o.phase = .bist then s.opBist o pass else s
        | .fetched data =>
          match s.retainedSeg o.acre with
          | some r => match r.src with
            | .flash _ => if o.phase = .segment then s.moveFetched o data else s
            | _ => s
          | none => s
        | .silent => if o.phase = .capture then
            ({ s with cfg := { s.cfg with xfer := none } }.moveLoad { o with lost := true }).opTurn else s
        | _ => s)

/-- CFG_OP_LOAD (R719, R739). -/
def execCfgOpLoad (step : CfgStep) (s : State) : Host.Outcome State Fault Refusal := .next (s.opStep 1 step)

/-- CFG_OP_UNLOAD (R722). -/
def execCfgOpUnload (step : CfgStep) (s : State) : Host.Outcome State Fault Refusal := .next (s.opStep 2 step)

/-- CFG_OP_RELOCATE (R725-R734). -/
def execCfgOpRelocate (step : CfgStep) (s : State) : Host.Outcome State Fault Refusal := .next (s.opStep 3 step)

/-- CFG_OP_READBACK (R737). -/
def execCfgOpReadback (step : CfgStep) (s : State) : Host.Outcome State Fault Refusal := .next (s.opStep 4 step)

/-- CFG_OP_HOST_PREP (R724). -/
def execCfgOpHostPrep (step : CfgStep) (s : State) : Host.Outcome State Fault Refusal := .next (s.opStep 5 step)

/-- CFG_OP_RETIRE (R735, R741). -/
def execCfgOpRetire (step : CfgStep) (s : State) : Host.Outcome State Fault Refusal := .next (s.opStep 6 step)

/-! ### Quiescence -/

/-- ISOLATION (R721): an acre is isolated at its place. -/
def State.isolateAcre (s : State) (la : Nat) : State :=
  match s.acrePlace (la / 4) (la % 4) with
  | some pl => (s.isolatePlace pl).setAcre la acIsolated
  | none => s

/-- What follows the quiescence of an acre: the operation or the reset that asked for it. -/
def State.quiesced (s : State) (la : Nat) : State :=
  match s.cfg.op with
  | some o =>
    if o.op = 2 && o.acre = la then ((s.isolateAcre la).acreGone la acEmpty).opEnd opOk
    else if (o.op = 3 || o.op = 6) && o.acre = la && o.phase = .quiesce then State.cfgPump 200 (s.moveCapture o)
    else if s.rst.running.contains (.acre la) then (s.isolateAcre la).makeDue [la]
    else s.isolateAcre la
  | none => if s.rst.running.contains (.acre la) then (s.isolateAcre la).makeDue [la] else s.isolateAcre la

/-- QUIESCENCE_END (R720-R722, R725, R939, R941). -/
def execQuiescenceEnd (acre : Fin 192) (s : State) : Host.Outcome State Fault Refusal :=
  .next (if s.acreState acre = acQuiescing && s.gatesQuiet acre && !s.safe then s.quiesced acre else s)

/-! ### Staging and loading -/

/-- The device is starting up, in one of phases `lo` to `hi`. -/
def State.inPhase (s : State) (lo hi : Nat) : Bool :=
  s.fld RST_STAT_STATE = 0 && lo ≤ s.fld RST_STAT_PHASE && s.fld RST_STAT_PHASE ≤ hi

/-- The loader's first use of the flash (R705): in 1S-1S-1S mode it reads the SFDP table, and takes 8D-8D-8D mode where the table
advertises it. A pushed image needs no flash. -/
def State.startXspi (s : State) (sfdp : Option Bool) : State :=
  if s.cfg.tried = 2 || s.cfg.xspi.isSome then s else { s with cfg := { s.cfg with xspi := sfdp } }

/-- IMAGE_STAGING (R707, R943, R1027): from the end of SP3, when the repair state and the capability set are known, the header is
fetched and judged; then the stored segments follow. `sfdp` is what the flash's SFDP table says, none when there is none; `data` is what
the flash returns, none when it cannot be read. Nothing is staged in a stacked SRAM that is SUSPENDED (R922). -/
def execImageStaging (sfdp : Option Bool) (data : Option (List Byte)) (s : State) : Host.Outcome State Fault Refusal :=
  .next (if !s.inPhase 4 6 || s.cfg.refusal ≠ 0 || (firstSource s.cfgMode).isNone then s else
    match s.cfg.image with
    | none =>
      let s1 := s.startXspi sfdp
      if s.sourceReady then s1.judgeImage (if s1.cfg.xspi.isNone then none else data) else s
    | some im => match nextSegment im.segs s.cfg.staged with
      | none => s
      | some g =>
        let bytes := if im.src = .pushed then some (s.pushedBytes g.off g.len) else data.map fun d => d.take g.len
        match bytes with
        | some bs => if s.fld (PWR_SRAM_LEVEL (g.acre / 96)) = 3 then s else (s.stageLines g.acre g.len).stageSegment g.acre bs
        | none => s)

/-- The load of an acre of the start-up image begins at its place. -/
def State.loadStaged (s : State) (la : Nat) : State :=
  match s.acrePlace (la / 4) (la % 4), s.retainedSeg la, s.stagedOf la with
  | some pl, some r, some bs => s.startLoad la pl r bs false
  | _, _, _ => s

/-- What follows the end of a load: the early acre is released, an operation goes on (R710, R719). -/
def State.loadEnded (s : State) (la : Nat) : State :=
  if s.acreState la = acLoaded && s.inPhase 5 6 && (s.cfg.image.map (·.early)) = some la then s.makeDue [la]
  else State.cfgPump 200 s.opTurn

/-- EARLY_ACRE_LOAD (R710). -/
def execEarlyAcreLoad (s : State) : Host.Outcome State Fault Refusal :=
  .next (match s.cfg.image with
    | some im => if s.inPhase 5 6 && s.acreState im.early = acEmpty && im.segs.any (fun g => g.acre = im.early) then
        (s.loadStaged im.early).loadEnded im.early else s
    | none => s)

/-- No lower acre of the same die waits for its load, and none is loading (R709). -/
def State.ldcFree (s : State) (la : Nat) (waiting : List Nat) : Bool :=
  !(waiting.any fun x => x / 4 = la / 4 && x < la) && !(s.cfg.loads.any fun l => l.acre / 4 = la / 4)

/-- ACRE_LOAD_BEGIN (R697, R709, R719, R1027). -/
def execAcreLoadBegin (acre : Fin 192) (s : State) : Host.Outcome State Fault Refusal :=
  let la := acre.val
  .next (if (s.stagedOf la).isNone then s else
    if s.inPhase 6 6 then
      match s.cfg.image with
      | some im =>
        let wait := (im.segs.map (·.acre)).filter fun x => x ≠ im.early && s.acreState x = acEmpty
        if wait.contains la && s.ldcFree la wait then (s.loadStaged la).loadEnded la else s
      | none => s
    else match s.cfg.op with
      | some o =>
        if o.op = 1 && o.phase = .loads && o.acres.contains la && s.ldcFree la o.acres && !s.safe &&
            (s.acreState la = acEmpty || s.acreState la = acIsolated || s.acreState la = acFailed) then
          ((s.setOp { o with acres := o.acres.filter (· ≠ la) }).loadStaged la).loadEnded la
        else s
      | none => s)

/-- FRAME_RECORD (R695-R698). -/
def execFrameRecord (acre : Fin 192) (s : State) : Host.Outcome State Fault Refusal :=
  .next (match s.loadOf acre with
    | some l => if s.safe then s else
        let s1 := s.frameRecord l
        if (s1.loadOf acre).isNone then s1.loadEnded acre else s1
    | none => s)

/-! ### Release -/

/-- STAGE1 (R683, R717, R958). -/
def execStage1 (acre : Fin 192) (s : State) : Host.Outcome State Fault Refusal :=
  let la := acre.val
  .next (if s.safe || !s.cfg.due.contains la || !s.rclkRuns la then s else
    match s.acrePlace (la / 4) (la % 4) with
    | none => s
    | some pl =>
      let s1 := ((s.dropDue la).setAcre la acReleasing).stage1 la pl
      { s1 with rst := { s1.rst with safeLow := false } })

/-- A stage of an acre's release may come: the acre is RELEASING, its place has the stage before, and RCLK runs. -/
def State.stageReady (s : State) (la stage : Nat) : Option Nat :=
  if s.safe || s.acreState la ≠ acReleasing || !s.rclkRuns la then none else
  match s.acrePlace (la / 4) (la % 4) with
  | some pl => if (s.place pl).stage = stage then some pl else none
  | none => none

/-- STAGE2 (R717). -/
def execStage2 (acre : Fin 192) (s : State) : Host.Outcome State Fault Refusal :=
  .next (match s.stageReady acre 1 with
    | some pl => s.stage2 pl
    | none => s)

/-- STAGE3 (R715, R717): the acre is RUNNING; an acre reset ends (R941). -/
def execStage3 (acre : Fin 192) (s : State) : Host.Outcome State Fault Refusal :=
  .next (match s.stageReady acre 2 with
    | some pl =>
      let s1 := (s.stageLast pl).setAcre acre acRunning
      let s2 := { s1 with rst := { s1.rst with running := s1.rst.running.filter (fun r => r ≠ ResetRun.acre acre.val) } }
      State.cfgPump 200 s2.opTurn
    | none => s)

/-- NO_CLOCK (R718): RCLK has not run for 1 ms. -/
def execNoClock (acre : Fin 192) (s : State) : Host.Outcome State Fault Refusal :=
  let la := acre.val
  .next (if s.safe || s.rclkRuns la || !(s.cfg.due.contains la || s.acreState la = acReleasing) then s else
    let s1 := (s.dropDue la).acreFail la 14 (la * 16384)
    let s2 := { s1 with rst := { s1.rst with running := s1.rst.running.filter (fun r => r ≠ ResetRun.acre la) } }
    State.cfgPump 200 s2.opTurn)

end Sys2Proof.Machine
end

