-- ==== Sys2Proof/Machine/Pcie.lean ====
section
/-! DEFINITION. PCIe of the port dies: inbound windows, outbound entries, links (R623-R632), and transceiver lanes (R620-R622). -/

namespace Sys2Proof.Machine

open Sys2Proof

/-- The stop of a port die's PCIe controller. -/
def pcieStop (p : Nat) : Nat := portStop p 1

/-! ### Lanes (R620-R622) -/

/-- The lanes of one PCIe link under a configuration word (R620, R638): its width, limited to its share. -/
def pcieLanes (cfg : Word) (n : Nat) : List Nat :=
  let bifur := bitsOf cfg 2 2
  let share := match bifur with | 1 => 8 | 2 => 4 | _ => 16
  let links := match bifur with | 1 => 2 | 2 => 4 | _ => 1
  let w := min share (2 ^ bitsOf cfg (8 + 3 * n) 3)
  let on := n < links ∧ cfg.getLsbD (4 + n) ∧ (cfg.getLsbD 1 ∨ n = 0)
  if cfg.getLsbD 0 ∧ on then (List.range w).map (share * n + ·) else []

/-- The lanes that PCIe links claim. -/
def pcieClaim (cfg : Word) : List Nat := (List.range 4).flatMap (pcieLanes cfg)

/-- The lanes that enabled MACs claim (R620). -/
def State.macClaim (s : State) (p : Nat) : List Nat := (List.range 4).filterMap fun m =>
  if s.bit (PRT_ETH_CFG_EN p m) then some (12 + m) else none

/-- PRT_LANE_STAT's claimant mask (R622). -/
def State.laneShow (s : State) (p : Nat) : State :=
  s.setFld (PRT_LANE_STAT_CLAIM p)
    ((pcieClaim (s.csr (PRT_PCIE_CFG p)) ++ s.macClaim p).foldl (fun n l => n ||| 2 ^ l) 0)

/-- A write of PRT_PCIE_CFG by Level S (R621, R638): while EN = 1 only EN changes. -/
def State.pcieCfgWrite (s : State) (p : Nat) (v : Word) : State :=
  let old := s.csr (PRT_PCIE_CFG p)
  let new := if old.getLsbD 0 then (old &&& 0xFFFFFFFE#32) ||| (v &&& 1#32) else v &&& 0x7FFFFF#32
  if (pcieClaim new).any (fun l => (s.macClaim p).contains l) then s.setFld (PRT_LANE_STAT_LANE_CONFLICT p) 1
  else (s.setCsr (PRT_PCIE_CFG p) new).laneShow p

/-- A write of PRT_ETH_CFG by Level S (R621). -/
def State.ethCfgWrite (s : State) (p m : Nat) (v : Word) : State :=
  if v.getLsbD 0 ∧ (pcieClaim (s.csr (PRT_PCIE_CFG p))).contains (12 + m) then s.setFld (PRT_LANE_STAT_LANE_CONFLICT p) 1
  else (s.setCsr (PRT_ETH_CFG p m) (v &&& 0xFFFF007F#32)).laneShow p

/-! ### Inbound windows (R626-R630) -/

/-- The window a BAR2 offset maps to, lowest first (R626). -/
def State.pcieWindow (s : State) (p o : Nat) : Option Nat :=
  (List.range 8).find? fun w =>
    let lo := (s.csr64 (PRT_PCIE_IB_OFF p w)).toNat
    s.bit (PRT_PCIE_IB_CFG_EN p w) && decide (lo ≤ o ∧ o < lo + 2 ^ s.fld (PRT_PCIE_IB_CFG_SIZE_LOG2 p w))

/-- The parts of a request that do not cross 256-byte boundaries (R627): offset within the request and length. -/
def pcieSplit (o len : Nat) : List (Nat × Nat) :=
  (List.range 18).filterMap fun i =>
    let lo := max o ((o / 256 + i) * 256)
    let hi := min (o + len) ((o / 256 + i + 1) * 256)
    if lo < hi then some (lo - o, hi - lo) else none

/-- A ring outcome without a ring transaction (R628). -/
def pcieNoWindow : Delivered := ⟨0, 0, .errTarget, .none, false, false, []⟩

/-- One part of an inbound request goes out (R626, R628, R629). -/
def State.pciePart (s : State) (p : Nat) (r : PcieReq) (off len : Nat) : PciePiece × State :=
  let o := r.off.toNat + off
  match s.pcieWindow p o with
  | none => (⟨off, len, o, none, some pcieNoWindow⟩, s)
  | some w =>
    let addr := (s.csr64 (PRT_PCIE_IB_TGT p w)).toNat + o - (s.csr64 (PRT_PCIE_IB_OFF p w)).toNat
    if r.write && s.bit (PRT_PCIE_IB_CFG_RO p w) then (⟨off, len, addr, none, some pcieNoWindow⟩, s)
    else match s.freeTag (pcieStop p) with
      | none => (⟨off, len, addr, none, some { pcieNoWindow with status := .errTimeout }⟩, s)
      | some tag =>
        let bs : List PByte := if r.write then ((r.data.drop off).take len).map fun b => (b, r.ep) else []
        let req : IssueReq :=
          { stop := BitVec.ofNat 9 (pcieStop p), tag := BitVec.ofNat 13 tag, mid := BitVec.ofNat 12 (0x300 + 16 * p + w),
            cls := if s.bit (PRT_PCIE_IB_CFG_CLASS p w) then .b else .p, opc := if r.write then 1 else 0,
            addr := BitVec.ofNat 48 addr, lenm1 := BitVec.ofNat 8 (len - 1), dbg := false,
            imm := if bs.length ≤ 8 then BitVec.ofNat 64 (leNat (bs.map Prod.fst)) else 0,
            poison := bs.length ≤ 8 && bs.any Prod.snd, data := if bs.length ≤ 8 then [] else packFlits bs }
        (⟨off, len, addr, some tag, none⟩, s.issue req)

/-- The inbound requests of a port die. -/
def State.pcieIn (s : State) (p : Nat) : List PcieIn := mapGet s.port.pcieIn [] p

/-- Put the inbound requests of a port die. -/
def State.setPcieIn (s : State) (p : Nat) (l : List PcieIn) : State :=
  { s with port := { s.port with pcieIn := mapSet s.port.pcieIn [] p l } }

/-- The PCIe outcome of a ring status (R628). -/
def pcieOutcome (st : Status) : PcieOutcome :=
  match st with
  | .ok | .poison => .successful
  | .errTarget => .unsupported
  | _ => .abort

/-- A part of an inbound request has its outcome (R628, R630). -/
def State.pciePieceDone (s : State) (p : Nat) (q : PcieIn) (c : PciePiece) : State :=
  let d := c.result.getD pcieNoWindow
  if q.write then
    if 2 ≤ statusCode d.status then
      let s1 := (s.setCsr64 (PRT_PCIE_ERR_ADDR p) (BitVec.ofNat 64 c.addr)).satInc (PRT_PCIE_CNT_WR_FAIL_CNT p)
      s1.portFlag (PRT_PCIE_ERR_WR_FAIL p) p 0x13 p sevUncorrected (BitVec.ofNat 64 c.addr) 0
    else s
  else s.send (.pcieCpl p q.id c.off (pcieOutcome d.status) (d.status = .poison)
    (if 2 ≤ statusCode d.status then [] else d.bytes.map Prod.fst))

/-- Ring completions reach the inbound requests of a port die; one that is whole is answered in address order (R627). -/
def State.pcieRun (s : State) (p : Nat) : State :=
  let stop := pcieStop p
  let fill (c : PciePiece) : PciePiece :=
    match c.tag, c.result with
    | some t, none => { c with result := s.inboxAt stop t }
    | _, _ => c
  let l := (s.pcieIn p).map fun q => { q with pieces := q.pieces.map fill }
  let s1 := l.foldl (fun t q => q.pieces.foldl (fun t c =>
    match c.tag, c.result with
    | some g, some _ => t.dropInbox stop g
    | _, _ => t) t) s
  let whole (q : PcieIn) : Bool := q.pieces.all fun c => c.result.isSome
  let s2 := (l.filter whole).foldl (fun t q => q.pieces.foldl (fun t c => t.pciePieceDone p q c) t) s1
  s2.setPcieIn p (l.filter fun q => !whole q)

/-- A BAR2 request (R626-R630). -/
def State.pcieBar2 (s : State) (p : Nat) (r : PcieReq) : State :=
  let q := (pcieSplit r.off.toNat (r.lenm1.toNat + 1)).foldl
    (fun (acc : List PciePiece × State) x =>
      let n := acc.2.pciePart p r x.1 x.2
      (acc.1 ++ [n.1], n.2)) ([], s)
  (q.2.setPcieIn p (q.2.pcieIn p ++ [⟨r.id, r.write, q.1⟩])).pcieRun p

/-- The endpoint takes requests of its host: enabled, in the endpoint role, link 0 up (R625, R638). -/
def State.pcieHost (s : State) (p : Nat) : Bool :=
  s.bit (PRT_PCIE_CFG_EN p) && !s.bit (PRT_PCIE_CFG_ROLE p) && (s.fld (PRT_PCIE_STAT_UP p)).testBit 0

/-! ### Outbound entries (R631, R632, R979) -/

/-- The outbound requests that wait at a port die. -/
def State.pcieOut (s : State) (p : Nat) : List PcieOut := mapGet s.port.pcieOut [] p

/-- Put the outbound requests of a port die. -/
def State.setPcieOut (s : State) (p : Nat) (l : List PcieOut) : State :=
  { s with port := { s.port with pcieOut := mapSet s.port.pcieOut [] p l } }

/-- The stop at which a port die's CSRs and data windows are reached. -/
def portCsrStop (p : Nat) : Nat := portStop p 5

/-- A ring request to the outbound window of a port die (R631, R632). The secondary bus number of a link stands in configuration
space, which the spec does not describe: Type 0 or 1 is a free value (log entry 3). -/
def State.pcieOutbound (s : State) (p : Nat) (k : ReqPkt) : State :=
  let x := k.addr.toNat % 0x1000000 - 0x800000
  let e := x / 0x100000
  let stop := portCsrStop p
  let link := s.fld (PRT_PCIE_OB_CFG_OB_LINK p e)
  let tgt := (s.csr64 (PRT_PCIE_OB_TGT p e)).toNat
  let cfg := s.bit (PRT_PCIE_OB_CFG_TYPE p e)
  if 1 < k.opc.toNat ∨ 4096 < k.addr.toNat % 4096 + reqLen k ∨ !s.bit (PRT_PCIE_OB_CFG_EN p e) ∨
      !(s.fld (PRT_PCIE_STAT_UP p)).testBit link then s.reply stop k .errTarget
  else
    let f := s.free
    let type1 : Bool := tgt / 2 ^ 24 % 256 ≠ bitsOf f.1 0 8
    let s1 := if cfg then f.2 else s
    let addr : DWord := if cfg then BitVec.ofNat 64 (tgt / 65536 % 65536 * 65536 + x % 0x1000)
      else BitVec.ofNat 64 (tgt / 0x100000 * 0x100000 + x % 0x100000)
    let hd := if cfg then some type1 else none
    if k.opc = 1 then
      let bs := reqBytes k
      (s1.send (.tlp p link 0 hd true addr (reqLen k) (bs.any Prod.snd) (bs.map Prod.fst))).reply stop k .ok
    else
      match lowestFree 1024 (s1.pcieOut p).length (fun t => !(s1.pcieOut p).any (fun o => o.tlpTag = t)) with
      | none => s
      | some t => (s1.setPcieOut p (s1.pcieOut p ++ [⟨t, link, k⟩])).send (.tlp p link t hd false addr (reqLen k) false [])

/-- The PCIe completion of an outbound read arrives (R632). -/
def State.pcieAnswer (s : State) (p tag : Nat) (st : PcieStatus) (ep : Bool) (data : List Byte) : State :=
  match (s.pcieOut p).find? (fun o => o.tlpTag = tag) with
  | none => s
  | some o =>
    let s1 := s.setPcieOut p ((s.pcieOut p).filter fun x => x.tlpTag ≠ tag)
    if st ≠ .sc then s1.reply (portCsrStop p) o.pkt .errTarget
    else
      let bs := (data ++ List.replicate (reqLen o.pkt) 0).take (reqLen o.pkt)
      if ep then s1.reply (portCsrStop p) o.pkt .poison .source false (bs.map fun b => (b, true))
      else s1.reply (portCsrStop p) o.pkt .ok .none false (bs.map fun b => (b, false))

/-- PCIE_OUTBOUND (R631, R632). -/
def execPcieOutbound (port : Fin 4) (ev : PcieOutEv) (s : State) : Host.Outcome State Fault Refusal :=
  .next (match ev with
    | .access k =>
      let r := s.arrive (portCsrStop port) k
      match r.1 with
      | some q => if 0x800000 ≤ q.addr.toNat % 0x1000000 then r.2.pcieOutbound port q else s
      | none => r.2
    | .answer tag st ep data => s.pcieAnswer port tag st ep data
    | .expire tag => s.setPcieOut port ((s.pcieOut port).filter fun x => x.tlpTag ≠ tag))

/-! ### Links and reset of the host (R624, R632) -/

/-- PCIE_LINK_DOWN (R632): a link leaves or regains L0 and L1. -/
def execPcieLinkDown (port link : Fin 4) (up : Bool) (speed : Fin 8) (ltssm : BitVec 6) (s : State) :
    Host.Outcome State Fault Refusal :=
  let f : Fld := ⟨PRT_PCIE_STAT port, 8 + link, 1⟩
  let s1 := (s.setBit f up).setFld ⟨PRT_PCIE_STAT port, 12 + 3 * link, 3⟩ speed
  let s2 := if link = 0 then s1.setFld (PRT_PCIE_STAT_LTSSM port) ltssm.toNat else s1
  .next (if s.bit f && !up then
    s2.portFlag (PRT_PCIE_ERR_LINK_DOWN port) port 0x13 port sevUncorrected (s2.csr64 (PRT_PCIE_ERR_ADDR port)) 0
  else s2)

/-- PCIE_PERST_N (R624): the release of PCIE_PERST_N starts the endpoint's Retry Status period, which SP3 ends. -/
def execPciePerstN (port : Fin 4) (s : State) : Host.Outcome State Fault Refusal :=
  .next { s with port := { s.port with
    retry := mapSet s.port.retry false port (!s.bit (PRT_PCIE_CFG_ROLE port) && s.fld RST_STAT_PHASE ≤ 3) } }

/-- PCIE_CONFIG_RETRY (R624): a configuration request meets the Retry Status period. -/
def execPcieConfigRetry (port : Fin 4) (s : State) : Host.Outcome State Fault Refusal :=
  .next (if mapGet s.port.retry false port && s.fld RST_STAT_PHASE ≤ 3 then s.send (.configRetry port) else s)

end Sys2Proof.Machine
end

