-- ==== Sys2Proof/Machine/Reset.lean ====
section
/-! DEFINITION. Resets (R928-R941, R961, R962): what each scope clears, the warm device reset, and the resets of a hub, a die and an
acre. -/

namespace Sys2Proof.Machine

open Sys2Proof

/-! ### What the resets keep (R932) -/

/-- CSR space of a key. -/
def keySpace (k : Nat) : Nat := k / 0x1000000

/-- Offset of a key in its CSR space. -/
def keyOff (k : Nat) : Nat := k % 0x1000000

/-- An offset lies in [lo, hi). -/
def within (off lo hi : Nat) : Bool := decide (lo ≤ off) && decide (off < hi)

/-- Registers that hold fuses, straps and what no scope clears: identities, the repair map's fused part, the trace memory and
RST_BIST_SITES, which SP2 clears (R38, R47, R948, R961). -/
def keptAlways (k : Nat) : Bool :=
  let sp := keySpace k
  let off := keyOff k
  (sp < 72 && (off = 0 || off = 4 || within off 0xC 0x18)) || (sp < 2 && within off 0x80 0xA0) ||
    (within sp 8 72 && decide (0x8000 ≤ off) && decide (off < 0x10000)) || (k = RST_BIST_SITES || k = RST_BIST_SITES + 4)

/-- Registers of the AO domain, which only an AO reset clears (R928, R932, R957, R1019). -/
def keptAo (k : Nat) : Bool := within k 0x7F1000 0x7F1014 || k = PWR_WAKE_CAUSE || k = RST_CAUSE || k = RST_LAST_SAFE

/-- Registers that a warm device reset keeps and a power-on reset clears: the MPE, the QE, the error log, SEQ_EXP and the safety
watchdog's control (R505, R598, R768, R842, R932). -/
def keptWarm (k : Nat) : Bool :=
  let off := keyOff k
  keySpace k < 2 && (within off 0x300000 0x318000 || within off 0x400000 0x480000 || within k 0x7E0000 0x7E0060 ||
    within k 0x720040 0x720060 || within k 0x760100 0x76010C)

/-- Registers of a power-on or warm reset after it (R932). -/
def State.resetAllRegs (s : State) (ao powerOn : Bool) : State :=
  let st := s.csr (CLK_STAT 0) &&& 0x74C#32
  let s1 := s.resetRegs fun k => !(keptAlways k || (!ao && keptAo k) || (!powerOn && keptWarm k))
  let s2 := (List.range 2).foldl (fun t h => (List.range 8).foldl (fun u i =>
    u.setCsr (HUB_REPAIR h i) (u.csr (HUB_REPAIR h i) &&& 0x7F7F#32 ||| 0x60000#32)) t) s1
  if ao then s2 else (s2.setCsr (CLK_STAT 0) st).setCsr (CLK_STAT 1) (st &&& 0xC#32)

/-- The error log, reports and injections (R932, R972, R985). -/
def ErrState.afterReset (e : ErrState) (ao powerOn : Bool) : ErrState where
  log := if powerOn then [] else e.log
  lastAppend := none
  reports := []
  fatals := if ao then [] else e.fatals
  injected := if powerOn then [] else e.injected.filter fun i => i.target ≤ 3
  wire := []

/-- Memory: DRAM, stacked SRAM and the MPE are kept by a warm reset; the security engine keeps its keys (R462, R464, R496, R505). -/
def MemState.afterReset (m : MemState) (powerOn : Bool) : MemState where
  dram := if powerOn then [] else m.dram
  dmc := []
  cxl := m.cxl
  cxlOut := []
  cxlPhys := []
  sram := if powerOn then [] else m.sram
  mpe := if powerOn then [] else mapAdjust MpeSt.init (fun _ => true) (fun x => { x with cache := [], wcb := [], pend := [], fence := [], waits := [], inGranule := false }) m.mpe
  keks := m.keks
  serving := .p
  sramWait := []

/-- Command transports: a power-on reset forgets them; the MC loses what it held in its memory (R786, R816, R932). -/
def CmdState.afterReset (c : CmdState) (ao powerOn : Bool) : CmdState where
  trs := if powerOn then [] else mapAdjust Transport.zero (fun _ => true) (fun t => { t with chal := none }) c.trs
  parked := []
  waiting := []
  accs := if ao then [] else c.accs
  xfer := none
  fails := if powerOn then 0 else c.fails
  keys := c.keys
  v2 := c.v2
  fenceIns := []
  grade2 := c.grade2
  epochOp := if ao then none else c.epochOp

/-- The configuration master: every acre is EMPTY and no image is known (R715, R932); fuses stay. -/
def CfgState.afterReset (c : CfgState) : CfgState := { CfgState.init with imgKeys := c.imgKeys, revoked := c.revoked }

/-- Resets, clocks and power: the AO domain keeps the calendar and the choice of its clock (R877, R1000). -/
def RstState.afterReset (r : RstState) (ao powerOn : Bool) (lost : BitVec 2) : RstState :=
  { RstState.init with
    powerOn := powerOn
    lost := if powerOn then 3 else r.lost ||| lost
    wdtFuse := r.wdtFuse
    calLoad := if ao then none else r.calLoad
    calSec := if ao then 0 else r.calSec
    calFrac := if ao then 0 else r.calFrac
    minutes := r.minutes
    onRc := !ao && r.onRc
    restart := none }

/-- Hubs whose DRAM was not put into self-refresh in time: the next reset treats it as lost (R871). -/
def State.refreshLost (s : State) : BitVec 2 := BitVec.ofBool (s.bit (CLK_ERR_REFRESH_LOST 1)) ++ BitVec.ofBool (s.bit (CLK_ERR_REFRESH_LOST 0))

/-- DRAM of a hub is lost (R464, R871). -/
def State.dropDram (s : State) (h : Nat) : State :=
  { s with
    mem := { s.mem with dram := mapDrop (fun key => key / 2 ^ 32 = h) s.mem.dram }
    errs := { s.errs with injected := s.errs.injected.filter fun i => !(i.target = 1 && i.key / 2 ^ 32 = h) } }

/-- Every domain but the AO domain, or every domain, loses its state (R932); `powerOn` says that power is lost, too. -/
def State.deviceClear (s : State) (ao powerOn : Bool) : State :=
  let lost := s.refreshLost
  let s1 := ((s.opAbort fun _ => true).levelsNone).cutCommands
  let s2 := s1.resetAllRegs ao powerOn
  let s3 : State := { s2 with
    latches := []
    errs := s2.errs.afterReset ao powerOn
    tb := TbState.init
    ring := RingState.init
    fab := FabState.init
    links := LinkState.init
    fwl := []
    fenced := false
    mem := s2.mem.afterReset powerOn
    qe := if powerOn then QeState.init else s2.qe
    port := PortState.init
    cmd := s2.cmd.afterReset ao powerOn
    cfg := s2.cfg.afterReset
    cpu := CpuState.init
    rst := s2.rst.afterReset ao powerOn lost }
  (List.range 2).foldl (fun t h => if lost.getLsbD h then t.dropDram h else t) s3

/-- A reset of the whole device (R928, R932): `ao` includes the AO domain, `powerOn` is any power-on reset, `cause` is CAUSE of
RST_CAUSE (R962), `phase` the start-up phase that follows. -/
def State.deviceReset (s : State) (ao powerOn : Bool) (cause phase : Nat) : State :=
  let s1 := ((s.deviceClear ao powerOn).setFld RST_STAT_PHASE phase).setCsr RST_CAUSE (BitVec.ofNat 32 (cause + 16 * s.safe.toNat))
  if s.rst.entry.isSome then s1.satInc PWR_REFUSE_CNT_ABORTED else s1

/-- PARK takes the power of everything but the AO domain, transit islands and link ends included (R28, R897); what can wake the
device stays: PWR_WAKE_EN, the wake timer, and the events latched so far (R905). -/
def State.parkOff (s : State) : State :=
  let s1 := s.deviceClear false true
  let s2 := (s1.setCsr PWR_WAKE_EN (s.csr PWR_WAKE_EN)).setCsr PWR_WTMR (s.csr PWR_WTMR)
  { s2 with rst := { s2.rst with parked := true, wakes := s.rst.wakes, timer := s.rst.timer } }

/-- The safety watchdog makes bit 6 of PWR_WAKE_EN read 1 while it is enabled (R909). -/
def State.watchWake (s : State) : State :=
  if s.bit WDT_SAFE_CTL_EN then s.setFld PWR_WAKE_EN_BITS (s.fld PWR_WAKE_EN_BITS ||| 0x40) else s

/-- PORST (R907, R928, R958): PORST_N low, or a wake from PARK, which runs start-up from SP1. -/
def execPorst (parkWake : Bool) (s : State) : Host.Outcome State Fault Refusal :=
  .next (if parkWake then (if s.rst.parked && s.rst.wakes ≠ 0 then s.deviceReset false true 3 1 else s)
    else s.deviceReset false true 2 0)

/-- AO_POR (R928, R953): VDD_AO rises into its range; the STARTUP_DLY straps are sampled. -/
def execAoPor (dly : BitVec 3) (s : State) : Host.Outcome State Fault Refusal :=
  .next ((s.deviceReset true true 0 0).setFld (CLK_STAT_STARTUP_DLY 0) dly.toNat)

/-- AO_BOR (R914): a brown-out resets the AO domain as at power-on and then sets AO_BOR. -/
def execAoBor (dly : BitVec 3) (s : State) : Host.Outcome State Fault Refusal :=
  .next (((s.deviceReset true true 1 0).setFld (CLK_STAT_STARTUP_DLY 0) dly.toNat).setFld PWR_WAKE_CAUSE_AO_BOR 1)

/-! ### The warm device reset (R931, R933-R935) -/

/-- A power-state entry that has not reached its state is abandoned and counts as aborted (R910). -/
def State.abandonEntry (s : State) : State :=
  match s.rst.entry with
  | some _ => ({ s with rst := { s.rst with entry := none }, fenced := false }.setFld PWR_STAT_STATE 0).satInc PWR_REFUSE_CNT_ABORTED
  | none => s

/-- A warm device reset begins: a narrower reset does not complete (R931), and each QE begins the sequence of R597. -/
def State.warmStart (s : State) (pin : Bool) : State :=
  if s.rst.warm then s else
  let s1 := { s with rst := { s.rst with warm := true, warmPin := pin, warmDone := 0, running := [] } }
  (List.range 2).foldl (fun t h => if t.hubClocked h && !t.rst.hubs.getLsbD h then t.qeWind h else t) s1

/-- WRST (R928, R958): WRST_N low for at least 1 us; ignored before the end of SP2. -/
def execWrst (s : State) : Host.Outcome State Fault Refusal :=
  .next (if s.rst.parked || s.fld RST_STAT_PHASE < 3 && !s.safe then s else s.warmStart true)

/-- Steps 1 to 3 of R933 end in a hub. -/
def State.quiesceHub (s : State) (h : Nat) : State :=
  if s.hubClocked h && !s.rst.hubs.getLsbD h then ((s.qeResetEnd h).mpeQuiesce h).dmcSleep h else s

/-- WARM_DEVICE_RESET (R933): a hub ends its steps 1 to 3, or, when both have, the reset is applied and start-up runs from SP1. -/
def execWarmDeviceReset (hub : Option (Fin 2)) (s : State) : Host.Outcome State Fault Refusal :=
  .next (if !s.rst.warm then s else
    match hub with
    | some h => if s.rst.warmDone.getLsbD h then s else
        let s1 := s.quiesceHub h
        { s1 with rst := { s1.rst with warmDone := s1.rst.warmDone ||| BitVec.twoPow 2 h } }
    | none => if s.rst.warmDone = 3 then s.deviceReset false false (if s.rst.warmPin then 4 else 5) 1 else s)

/-! ### Requests for a reset (R928-R930, R962) -/

/-- A reset runs (R930). -/
def State.resetRuns (s : State) : Bool := s.rst.warm || s.rst.hubs ≠ 0 || !s.rst.running.isEmpty

/-- A configuration operation runs on an acre or its die (R930). -/
def State.opOn (s : State) (la : Nat) : Bool :=
  match s.cfg.op with
  | some o => opActsOn o la || (o.op = 6 && bitsOf o.arg 0 6 = la / 4) || (4 ≤ o.op && o.op ≠ 6 && bitsOf o.arg 0 8 = la)
  | none => false

/-- The reset that SCOPE and TARGET name (R929); none where they name none. -/
def resetNamed (scope target : Nat) : Option ResetRun :=
  if scope = 2 then (if target < 2 then some (.hub target) else none)
  else if scope = 3 then
    (if target < 48 then some (.die target) else if 0x100 ≤ target ∧ target < 0x104 then some (.port (target - 0x100)) else none)
  else if scope = 4 then (if target < 192 then some (.acre target) else none)
  else none

/-- A reset of scopes 2-4 is refused (R930). -/
def State.resetRefused (s : State) (r : Option ResetRun) : Bool :=
  s.fld RST_STAT_STATE ≠ 1 || s.resetRuns ||
    (match r with
      | some (.acre a) => s.acreState a ≠ acRunning || s.opOn a
      | some _ => false
      | none => true)

/-- A reset of a scope is asked for (R928, R930, R962); the second part says that it is refused. Scopes other than 1-4 act as no
reset. -/
def State.resetAsk (s : State) (scope target : Nat) : State × Bool :=
  if scope = 1 then (s.warmStart false, false)
  else if scope = 0 ∨ 4 < scope then (s, false)
  else
    let r := resetNamed scope target
    if s.resetRefused r then (s.setFld RST_ERR_RST_REFUSED 1, true)
    else match r with
      | some x => ({ s with rst := { s.rst with running := s.rst.running ++ [x] } }, false)
      | none => (s, true)

/-- A write of RST_CTL (R962). -/
def State.rstCtlWrite (s : State) (mid : Nat) (v : Word) : State × Status :=
  if !s.levelS mid then (s, .errDenied) else
  let s1 := (s.setFld RST_CTL_SCOPE (bitsOf v 0 3)).setFld RST_CTL_TARGET (bitsOf v 4 9)
  if v.getLsbD 31 then ((s1.resetAsk (bitsOf v 0 3) (bitsOf v 4 9)).1, .ok) else (s1, .ok)

/-- RST_CTL_GO (R962). -/
def execRstCtlGo (mid : BitVec 12) (value : Word) (s : State) : Host.Outcome State Fault Refusal :=
  .next (s.regWrite RST_CTL fun s => s.rstCtlWrite mid.toNat value)

/-- A reset that runs ends. -/
def State.resetEnds (s : State) (r : ResetRun) : State :=
  { s with rst := { s.rst with running := s.rst.running.filter (· ≠ r) } }

/-! ### The link ends of a die -/

/-- The link ends on a hub (R351). -/
def hubEnds (h : Nat) : List (Nat × Bool) :=
  ((List.range 128).filter fun n => linkExists n && n / 64 = h).filterMap (fun n =>
    if (linkCols n).1 = 8 then some (n, false) else if (linkCols n).2 = 8 then some (n, true) else none) ++
    [(128, decide (h = 1)), (129 + h, false)]

/-- The link ends on a port die (R351). -/
def portEnds (p : Nat) : List (Nat × Bool) :=
  ((List.range 32).map (32 * p + ·)).filterMap fun n =>
    if !linkExists n then none else if (linkCols n).1 = 0 then some (n, false) else if (linkCols n).2 = 0 then some (n, true) else none

/-- The link ends of a die are reset (R354, R377, R379). -/
def State.resetLinkEnds (s : State) (l : List (Nat × Bool)) : State := l.foldl (fun t x => t.linkEndReset x.1 x.2) s

/-! ### The hub reset (R936-R938) -/

/-- Registers of H0 that its hub reset keeps beside those of R932: the state of the fabric, of links, of start-up and of the power
meters, and the port-die clock enables (R878, R936). -/
def keptHub0 (k : Nat) : Bool :=
  k = CFG_STAT || within k CFG_IMG_ID 0x700040 || within k 0x700100 0x703000 || within k 0x7C0000 0x7C0040 || within k 0x740020 0x740030 ||
    within k 0x110000 0x110400 || within k 0x111000 0x112000 || k = PWR_PKG || keptAo k

/-- Registers that a hub reset keeps. -/
def keptHub (k : Nat) : Bool :=
  let off := keyOff k
  off < 0x200 || keptAlways k || keptWarm k || off = keyOff (CLK_STAT 0) || within off 0x7A0040 0x7A0054 || (keySpace k = 0 && keptHub0 k)

/-- Logical dies are powered again (R917): each is reset and shows UNGATING until it is ready. -/
def State.ungateDies (s : State) (m : DWord) : State :=
  ((List.range 48).filter fun d => m.getLsbD d).foldl (fun t d =>
    match t.siteOf d with
    | some site =>
      let t1 := { t with rst := { t.rst with ungating := t.rst.ungating ++ [site] } }
      t1.setFld (LDC_PWR_UNGATING site) 1
    | none => t) s

/-- Processors of a hub are reset. -/
def State.resetCpus (s : State) (h : Nat) : State :=
  { s with
    cpu := { s.cpu with
      outs := s.cpu.outs.filter fun o => o.hart / 4 ≠ h
      harts := mapDrop (fun k => k / 4 = h) s.cpu.harts
      dms := mapDrop (fun k => k = h) s.cpu.dms
      sems := mapDrop (fun k => k / 64 = h) s.cpu.sems
      mcStop := s.cpu.mcStop &&& ~~~(BitVec.twoPow 2 h)
      nmi := s.cpu.nmi &&& ~~~(BitVec.twoPow 2 h)
      svc := s.cpu.svc && h ≠ 0
      wdtIrq := s.cpu.wdtIrq.filter fun i => i / 4 ≠ h
      lines := mapDrop (fun k => k / 2 ^ 42 = h) s.cpu.lines } }

/-- What the reset of H0 clears besides (R771, R778, R932, R936). -/
def State.resetHub0 (s : State) : State :=
  let s1 := ((s.opAbort fun _ => true).levelsNone.cutCommands).abandonEntry
  { s1 with
    tb := TbState.init
    ring := { s1.ring with shadow := [], active := [], flows := [], committing := none, clean := [] }
    cmd := { s1.cmd with trs := mapAdjust Transport.zero (fun _ => true) (fun t => { t with chal := none }) s1.cmd.trs, parked := [] }
    errs := { s1.errs with lastAppend := none }
    fenced := false }

/-- HUB_RESET (R932, R936, R937): steps 1-3 of R933, then the hub is reset. -/
def execHubReset (hub : Fin 2) (s : State) : Host.Outcome State Fault Refusal :=
  let h := hub.val
  .next (if !s.rst.running.contains (.hub h) || s.rst.warm || s.safe then s else
    let lost := s.bit (CLK_ERR_REFRESH_LOST h)
    let s1 := s.quiesceHub h
    let s2 := if h = 0 then s1.resetHub0.ungateDies (s1.csr64 PWR_DIE_GATE) else s1
    let s3 := (s2.resetRegs fun k => keySpace k = h && !keptHub k).resetCpus h
    let s4 := (s3.dropStops fun st => match stopKind st with | .hub x _ => x = h | _ => false).resetLinkEnds (hubEnds h)
    let s5 : State := { s4 with
      fwl := mapDrop (fun k => k = h) s4.fwl
      latches := s4.latches.filter fun l => keySpace l.key ≠ h
      tb := { s4.tb with followers := mapDrop (fun k => k = h) s4.tb.followers }
      mem := { s4.mem with
        dmc := mapDrop (fun k => k / 2 = h) s4.mem.dmc
        cxlOut := mapDrop (fun k => k / 2 = h) s4.mem.cxlOut
        cxlPhys := mapDrop (fun k => k / 2 = h) s4.mem.cxlPhys
        sramWait := mapSet s4.mem.sramWait [] h []
        mpe := mapSet s4.mem.mpe MpeSt.init h { s4.mpe h with pend := [], fence := [], waits := [], inGranule := false } }
      port := { s4.port with crc := mapDrop (fun k => k < 8 && k / 4 = h) s4.port.crc }
      rst := { s4.rst with
        hubs := s4.rst.hubs ||| BitVec.twoPow 2 h
        lost := if lost then s4.rst.lost ||| BitVec.twoPow 2 h else s4.rst.lost } }
    (if lost then s5.dropDram h else s5).resetEnds (.hub h))

/-- Fields of the board configuration record that a hub takes up (R950). -/
def State.hubFromBcr (s : State) (h : Nat) : State :=
  (s.setFld (DMC_HUB_CFG_CH_INTLV h) (bitsOf (s.bcrB (32 + h)) 0 2)).setFld (CXL_INTLV_MODE h) (bitsOf (s.bcrB (34 + h)) 0 2)

/-- A DDR5 channel is trained from its record; the flag says that one has FAILED (R414-R417). -/
def State.trainChannel (s : State) (ch : Nat) (t : ChanTrain) (bad : Bool) : State × Bool :=
  let r := s.dmcTrain ch (s.bcr (16 + 4 * ch)) t (s.rst.lost.getLsbD (ch / 2))
  (r.2, bad || !r.1)

/-- A CXL port is enabled as the record says and trained (R466, R950). -/
def State.trainCxl (s : State) (port : Nat) (t : CxlTrain) : State :=
  (s.cxlCtlWrite port (BitVec.ofNat 32 (bitsOf (s.bcrB (36 + port)) 0 2))).cxlTrained port t

/-- The memory of a hub is trained again and leaves self-refresh. -/
def State.trainHub (s : State) (h : Nat) (chans : Vector ChanTrain 2) (ports : Vector CxlTrain 2) : State × Bool :=
  let s1 := s.hubFromBcr h
  let r0 := s1.trainChannel (2 * h) chans[0] false
  let r1 := r0.1.trainChannel (2 * h + 1) chans[1] r0.2
  let s2 := ((r1.1.trainCxl (2 * h) ports[0]).trainCxl (2 * h + 1) ports[1]).mpeResume h
  ({ s2 with rst := { s2.rst with lost := s2.rst.lost &&& ~~~(BitVec.twoPow 2 h) } }, r1.2)

/-- CLK_PEN of a hub from the record (R879, R936). -/
def State.penFromBcr (s : State) (h : Nat) : State := s.setCsr (CLK_PEN h) (s.bcr (160 + 4 * h) &&& 0x7F#32)

/-- HUB_RESET_DONE (R879, R936, R938, R948, R991): the hub has booted and retrained its memory; its firmware starts. -/
def execHubResetDone (hub : Fin 2) (mbist : Bool) (chans : Vector ChanTrain 2) (ports : Vector CxlTrain 2) (s : State) :
    Host.Outcome State Fault Refusal :=
  let h := hub.val
  .next (if !s.rst.hubs.getLsbD h || s.safe then s else
    if !mbist then s.enterSafe 0xB else
    let r := (s.penFromBcr h).trainHub h chans ports
    if r.2 then r.1.enterSafe 0xF else
    let s1 := { r.1 with rst := { r.1.rst with hubs := r.1.rst.hubs &&& ~~~(BitVec.twoPow 2 h) } }
    (State.cfgPump 200 s1.storeReady.storeTurn).flushFatals.mcServe)

/-! ### Die and acre resets (R939-R941) -/

/-- The acres that hold their own place on a die (R25, R715). -/
def State.dieAcres (s : State) (ld : Nat) : List Nat :=
  match s.siteOf ld with
  | some site => ((List.range 4).map (4 * ld + ·)).filter fun la => s.acrePlace ld (la % 4) = some (placeKey site (la % 4))
  | none => []

/-- DIE_RESET (R716, R740, R932, R939): the RUNNING acres of the die quiesce; then the die is reset. -/
def execDieReset (die : Fin 48) (s : State) : Host.Outcome State Fault Refusal :=
  let ld := die.val
  .next (if !s.rst.running.contains (.die ld) || s.rst.warm || s.safe then s else
    match s.siteOf ld with
    | none => s.resetEnds (.die ld)
    | some site =>
      let las := s.dieAcres ld
      if las.any fun la => s.acreState la = acRunning then las.foldl (fun t la => t.quiesce la) s
      else if las.any fun la => s.acreState la = acQuiescing then s
      else
        let s1 := s.opAbort fun la => las.contains la
        let s2 := las.foldl (fun t la => ((t.putLoad la none).dropDue la).acreGone la acEmpty) s1
        let s3 := (s2.resetLogicDie site).resetEnds (.die ld)
        { s3 with rst := { s3.rst with running := s3.rst.running ++ [.bist ld] } })

/-- DIE_READY (R33, R147, R939): the BIST of the die ends. -/
def execDieReady (die : Fin 48) (pass : Bool) (s : State) : Host.Outcome State Fault Refusal :=
  let ld := die.val
  .next (if !s.rst.running.contains (.bist ld) then s else
    let s1 := s.resetEnds (.bist ld)
    match s.siteOf ld with
    | none => s1
    | some site =>
      if pass then s1.loadClocks site
      else (s.dieAcres ld).foldl (fun t la => t.acreGone la acLost) (s1.retireSite site))

/-- A port die's registers of the board configuration record (R940, R950). -/
def State.portFromBcr (s : State) (p : Nat) : State :=
  let s1 := (s.pcieCfgWrite p (s.bcr (48 + 4 * p))).setCsr (PRT_LANE_POL p) (s.bcr (64 + 4 * p))
  let s2 := (List.range 4).foldl (fun t m => t.ethCfgWrite p m (t.bcr (80 + 16 * p + 4 * m))) s1
  s2.setCsr (CLK_PRT_PEN p) (s2.bcr (144 + 4 * p) &&& 0xFFFF#32)

/-- The queues that the enabled VC and steering entries of a port die map, by hub (R655). -/
def State.intakeQueues (s : State) (p : Nat) : List (Nat × Nat) :=
  ((List.range 128).filterMap fun i =>
    if s.bit (PRT_INT_VC_EN p (i / 16) (i % 16)) then
      some (s.fld (PRT_INT_VC_HUB p (i / 16) (i % 16)), s.fld (PRT_INT_VC_QUEUE p (i / 16) (i % 16))) else none) ++
  (List.range 64).filterMap fun i =>
    if s.fld (PRT_ETH_STEER_KIND p (i / 16) (i % 16)) ≠ 0 then
      some (s.fld (PRT_ETH_STEER_HUB p (i / 16) (i % 16)), s.fld (PRT_ETH_STEER_QUEUE p (i / 16) (i % 16))) else none

/-- The intake unit of a port die is lost with its die (R666): its frames complete with ERR_FENCED, what they had in flight being lost, and
so do the armed buffers of the queues it feeds. -/
def State.intakeLost (s : State) (p : Nat) : State :=
  let s1 := (s.setFrames p ((s.frames p).map fun (f : Frame) => { f with writes := [], fenced := false })).fenceFrames p fun _ => true
  (s.intakeQueues p).foldl (fun t q => if t.qState q.1 q.2 = qRunning ∧ t.qType q.1 q.2 = 3 then t.dropArmed q.1 q.2 else t) s1

/-- What a port die held is lost with it; the buffers of its frames complete with ERR_FENCED (R666, R932). -/
def State.resetPort (s : State) (p : Nat) : State :=
  let s1 := s.intakeLost p
  let s2 := (s1.resetRegs fun k => keySpace k = 2 + p && !(keyOff k < 0x20)).setCsr (CLK_PRT_PEN p) 0
  let s3 := (s2.dropStops fun st => match stopKind st with | .port x _ => x = p | _ => false).resetLinkEnds (portEnds p)
  let o := s3.port
  { s3 with
    latches := s3.latches.filter fun l => keySpace l.key ≠ 2 + p
    tb := { s3.tb with followers := mapDrop (fun k => k = 2 + p) s3.tb.followers }
    rst := { s3.rst with
      readings := mapDrop (fun k => k / 4 = 2 + p) s3.rst.readings
      hotOnce := mapDrop (fun k => k / 4 = 2 + p) s3.rst.hotOnce }
    port := { o with
      pcieIn := mapDrop (fun k => k = p) o.pcieIn
      pcieOut := mapDrop (fun k => k = p) o.pcieOut
      retry := mapDrop (fun k => k = p) o.retry
      txmem := mapDrop (fun k => k / 16384 / 128 = p) o.txmem
      tx := mapDrop (fun k => k = p) o.tx
      txst := mapDrop (fun k => k / 4 = p) o.txst
      txSeq := mapDrop (fun k => k / 32 = p) o.txSeq
      gcl := mapDrop (fun k => k / 4 = p) o.gcl
      gclAt := mapDrop (fun k => k / 4 = p) o.gclAt
      frer := mapDrop (fun k => k / 32 = p) o.frer
      dropping := mapDrop (fun k => k = p) o.dropping
      dropCnt := mapDrop (fun k => k / 192 = p) o.dropCnt
      ctx := mapDrop (fun k => k / 2 = p) o.ctx
      crc := mapDrop (fun k => 8 ≤ k && (k - 8) / 2 = p) o.crc } }

/-- PORT_DIE_RESET (R50, R666, R878, R940): the die is reset, its BIST runs, and its configuration is loaded again. -/
def execPortDieReset (port : Fin 4) (pass : Bool) (s : State) : Host.Outcome State Fault Refusal :=
  let p := port.val
  .next (if !s.rst.running.contains (.port p) || s.rst.warm || s.safe then s else
    let s1 := (s.resetPort p).resetEnds (.port p)
    if pass then (s1.setSite (fun h => HUB_SITE_STAT_STATE h (16 * p)) 1).portFromBcr p
    else (s1.setSite (fun h => HUB_SITE_STAT_STATE h (16 * p)) 0).report 0 0x0D 0 0xD sevUncorrected (s1.csr64 RST_BIST_SITES) 0)

/-- ACRE_RESET (R941): the acre begins to quiesce; QUIESCENCE_END isolates it, asserts GSR and makes its release due. -/
def execAcreReset (acre : Fin 192) (s : State) : Host.Outcome State Fault Refusal :=
  .next (if s.rst.running.contains (.acre acre.val) && !s.rst.warm && !s.safe then s.quiesce acre else s)

end Sys2Proof.Machine
end

