-- ==== Sys2Proof/Machine/Startup.lean ====
section
/-! DEFINITION. Start-up phases SP0-SP7 (R20-R37, R703-R712, R853-R855, R889, R942-R949, R1010). A row of the table is the end of
its phase; what the outside finds out by then is its operand. -/

namespace Sys2Proof.Machine

open Sys2Proof

/-- The device is in phase `n` of a start-up that has not stopped. -/
def State.startPhase (s : State) (n : Nat) : Bool :=
  s.fld RST_STAT_STATE = 0 && s.fld RST_STAT_PHASE = n && !s.rst.parked && !s.rst.warm

/-- Phase `n` ends `us` microseconds after the start of the start-up, and phase `n + 1` begins (R942, R946). -/
def State.phaseEnd (s : State) (n : Nat) (us : BitVec 24) : State :=
  (s.setFld (RST_PTIME_US n) us.toNat).setFld RST_STAT_PHASE (n + 1)

/-- SP0 (R851, R942). -/
def execSp0 (us : BitVec 24) (s : State) : Host.Outcome State Fault Refusal :=
  .next (if s.startPhase 0 then
    ((s.setFld (CLK_STAT_RC_READY 0) 1).setFld (CLK_STAT_RC_READY 1) 1).phaseEnd 0 us else s)

/-! ### SP1 (R853-R855, R889) -/

/-- CLK_STAT of both hubs (R851, R882). -/
def State.showSources (s : State) (f : Sp1Find) : State :=
  (List.range 2).foldl (fun t h =>
    let t1 := (t.setBit (CLK_STAT_REF_READY h) (f.refReady.getLsbD h)).setBit (CLK_STAT_IOSC_READY h) (f.iosc.getLsbD h)
    ((t1.setBit (CLK_STAT_XTAL_READY h) f.xtal).setBit (CLK_STAT_HPLL_LOCK h) f.plls).setBit (CLK_STAT_CPLL_LOCK h) f.plls) s

/-- An event of the CLK block of a hub (R883, R987). -/
def State.clkErr (s : State) (h : Nat) (f : Fld) : State := s.raise f h 0x0B (0x800 * h) 0 sevUncorrected 0 (s.csr (CLK_STAT h))

/-- The AO domain runs on AO_RC: the calendar is coarse from then on (R877, R1002). -/
def State.aoOnRc (s : State) : State :=
  let s1 := ({ s with rst := { s.rst with onRc := true } }.setFld (CLK_STAT_AO_ON_RC 0) 1).setFld CAL_STAT_COARSE 1
  s1.clkErr 0 (CLK_ERR_XTAL_FAULT 0)

/-- SP1 (R854, R855, R889): start-up goes on, waits for a rail, or stops in SAFE. -/
def execSp1 (find : Sp1Find) (us : BitVec 24) (s : State) : Host.Outcome State Fault Refusal :=
  .next (if !s.startPhase 1 then s else
    let s1 := s.showSources find
    if find.refReady = 3 ∧ find.iosc = 3 ∧ find.plls then
      if find.rails then
        let s2 := s1.phaseEnd 1 us
        if find.xtal then s2 else s2.aoOnRc
      else s1
    else if find.iosc ≠ 3 then s1.enterSafe 5
    else if find.tripped then s1.enterSafe 3
    else if find.badFreq then s1.enterSafe 4
    else s1.enterSafe 3)

/-! ### SP2 (R842, R947-R949, R992, R1010) -/

/-- A site failed its BIST in this start-up (R948). -/
def State.bistSite (s : State) (site : Nat) : State :=
  s.setCsr64 RST_BIST_SITES (s.csr64 RST_BIST_SITES ||| BitVec.twoPow 64 site)

/-- A firmware unit boots (R1010), where `bad` lists the slots that fail their check: the slot it is to run, or the committed one where
that is PROVISIONAL, which makes the unit FAILED. The second part says that it could not boot; an MC may then still boot its other
slot (R951, FW_AUTH). -/
def State.bootUnit (s : State) (bad : List Nat) (u : Nat) : State × Bool :=
  let x := s.fwUnit u
  if !bad.contains (2 * u + x.active) then (s, false)
  else if x.state = .provisional then
    let s1 := (s.setFwUnit u { x with state := .failed, active := x.committed }).ltsWrite 2
    (s1, bad.contains (2 * u + x.committed))
  else (s, if u < 2 then bad.contains (2 * u + 1 - x.active) else true)

/-- Every unit boots; those that could not are remembered. -/
def State.bootUnits (s : State) (bad : List Nat) : State :=
  (List.range 10).foldl (fun t u =>
    let r := t.bootUnit bad u
    if r.2 then { r.1 with rst := { r.1.rst with noFw := r.1.rst.noFw ++ [u] } } else r.1) { s with rst := { s.rst with noFw := [] } }

/-- The lifetime store is read (R31, R32, R989, R992): after a power-on reset the counts not yet written are lost; power cycles and
warm resets are counted (R996). -/
def State.readStore (s : State) (bad : List Nat) : State :=
  let bump (w : Word) : Word := if w = 0xFFFFFFFF#32 then w else w + 1
  if s.rst.powerOn then
    let t := s.ltsLoad bad
    { t with lts := { t.lts with live := { t.lts.live with power := bump t.lts.live.power } } }
  else
    let t := s.ltsReload bad
    { t with lts := { t.lts with live := { t.lts.live with warm := bump t.lts.live.warm } } }

/-- Neither copy of the repair map can be read (R32). -/
def State.mapLost (s : State) (bad : List Nat) : Bool :=
  (match s.lts.place 0 1 with | some p => bad.contains p | none => true) &&
    (match s.lts.place 1 1 with | some p => bad.contains (64 + p) | none => true)

/-- REPAIR_MAP_LOST (R32, R987): the fused masks alone are used. -/
def State.repairLost (s : State) : State :=
  { s with lts := { s.lts with live := { s.lts.live with masks := [] } } }.report 0 1 0 0x100 sevUncorrected (s.csr64 (HUB_CPU_BERR_ADDR 0)) 0

/-- The board configuration record is chosen (R949). -/
def State.chooseBcr (s : State) : State :=
  if s.bcrOk (s.fwUnit 10).active then s
  else s.raise RST_ERR_BCR_FALLBACK 0 0x0D 0 1 sevCorrected (s.csr64 RST_BIST_SITES) 0

/-- Sites of the hubs a mask names fail their BIST. -/
def State.bistHubs (s : State) (m : BitVec 2) : State :=
  (List.range 2).foldl (fun t h => if m.getLsbD h then t.bistSite (24 + 16 * h) else t) s

/-- SP2 (R842, R942, R947-R949, R958, R992, R1010). -/
def execSp2 (find : Sp2Find) (us : BitVec 24) (s : State) : Host.Outcome State Fault Refusal :=
  .next (if !s.startPhase 2 then s else
    let s0 := (s.setCsr64 RST_BIST_SITES 0).setFld CFG_STAT_CFG_MODE find.mode.toNat
    let lost := s0.mapLost find.sectors
    let s1 := s0.readStore find.sectors
    let s2 := s1.bootUnits find.slots
    let hubBad := find.mbist ||| (if s.rst.powerOn then find.lbist else 0)
    let s3 := s2.bistHubs hubBad
    if s3.rst.noFw.contains 0 || s3.rst.noFw.contains 1 then s3.enterSafe 0x11
    else if hubBad ≠ 0 then s3.enterSafe 0xB
    else if s.rst.powerOn ∧ find.sram ≠ 0 then s3.enterSafe 0xC
    else
      let s4 := if lost then s3.repairLost else s3
      if !s4.bcrOk 0 && !s4.bcrOk 1 then s4.enterSafe 0xE
      else
        let s5 := s4.chooseBcr
        let s6 := (if s5.rst.powerOn then s5.setBit WDT_SAFE_CTL_EN (s5.bit WDT_SAFE_CTL_EN || s5.rst.wdtFuse) else s5).watchWake
        let s7 := { s6 with cfg := { s6.cfg with tried := (firstSource s6.cfgMode).getD 0 } }
        ((s7.phaseEnd 2 us).storeReady).flushFatals.mcServe)

/-! ### SP3 (R20-R32, R36, R43-R52, R139, R879, R948, R950) -/

/-- A die does not have the TYPE of its site (R18, R20, R40). -/
def State.siteMismatch (s : State) (f : Sp3Find) : Bool :=
  (List.range 64).any (fun site => match siteType site with
    | some t => bitsOf (s.csr (idKey site)) 0 8 ≠ t
    | none => false) ||
    f.types.any (fun x => match siteType x.1.val with | some t => x.2.toNat ≠ t | none => false) ||
    [f.x0, f.x1].any fun x => x ≠ 0 && (x.toNat < 0x10 || x = 0xFF)

/-- Port dies that fail: by their BIST, or because their firmware cannot boot (R948, R1010). -/
def State.portsBad (s : State) (f : Sp3Find) : BitVec 4 :=
  (List.range 4).foldl (fun m p => if s.rst.noFw.contains (6 + p) then m ||| BitVec.twoPow 4 p else m) f.ports

/-- The transit islands that fail enter the field-retirement masks (R29, R33) and are shown. -/
def State.islandsFailed (s : State) (m : DWord) : State :=
  (logicSites.filter fun site => m.getLsbD site).foldl (fun t site =>
    let hp := siteHalf site
    let t1 := t.setFieldMask hp.1 (t.fieldMask hp.1 ||| BitVec.twoPow 7 hp.2)
    t1.setSite (fun h => HUB_SITE_STAT_TI_FAIL h site) 1) s

/-- The repair map is applied (R23-R25, R36, R48-R52): placement, identities and states of every site. Acres that were LOST are EMPTY
again, and no host is prepared (R716, R733). -/
def State.applyMap (s : State) (f : Sp3Find) : State :=
  let s1 := (List.range 8).foldl (fun t half => t.placeHalf half) s
  let s2 := ((List.range 64).filter fun site => (siteType site).isSome).foldl (fun t site =>
    let t1 := t.copyIdentity site
    if site % 8 = 0 then t1.setSite (fun h => HUB_SITE_STAT_STATE h site) 1 else t1) s1
  let s3 := (s2.placeX 0 f.x0).placeX 1 f.x1
  let s4 := (List.range 32).foldl (fun t k => t.setCsr (CFG_RELOC_MAP k) 0) { s3 with cfg := { s3.cfg with hosts := [] } }
  (List.range 192).foldl (fun t la => if t.acreState la = acLost then t.acreGone la acEmpty else t) s4

/-- The capability sets are formed and the boundary channels selected (R26, R44, R45, R139). -/
def State.formCaps (s : State) : State :=
  let s1 := s.capsEffective
  let cap := s1.pkgCaps
  ((s1.setCsr (HUB_PKG_CAP 0) cap).setCsr (HUB_PKG_CAP 1) cap).applyChannels

/-- Rings close around the failed islands (R29, R351, R352). -/
def State.closeRings (s : State) : State :=
  let s1 := { s with ring := { s.ring with openRows := [] } }.setBit (LNK_STAT_IN_RING 128) true
  (List.range 4).foldl (fun t row => t.setRingPath row t.tiFailed) ((s1.ringUpdate 58).ringUpdate 59)

/-- The MC firmware takes up the board configuration record (R879, R950). -/
def State.takeBcr (s : State) : State :=
  let s1 := (s.penFromBcr 0).penFromBcr 1
  (List.range 4).foldl (fun t p =>
    (t.portFromBcr p).setFld (PRT_PCIE_BAR_BAR2_LOG2 p) (bitsOf (t.bcrB (168 + p)) 0 6)) s1

/-- SP3 (R942). -/
def execSp3 (find : Sp3Find) (us : BitVec 24) (s : State) : Host.Outcome State Fault Refusal :=
  .next (if !s.startPhase 3 then s else
    let ports := s.portsBad find
    if s.siteMismatch find then s.enterSafe 1
    else if ports ≠ 0 then
      ((List.range 4).foldl (fun t p => if ports.getLsbD p then t.bistSite (16 * p) else t) s).enterSafe 0xD
    else
      let s1 := if find.islands = 0 then s else (s.islandsFailed find.islands).ltsWrite 1
      if (List.range 4).any fun row => adjacentFailed row s1.tiFailed then s1.enterSafe 2
      else
        let s2 := s1.closeRings
        if s2.fld (LNK_STAT_STATE 128) = 6 || find.cut ≠ 0 || (List.range 4).any (fun row => s2.pathCut row s2.tiFailed) then
          s2.enterSafe 0x10
        else ((s2.applyMap find).formCaps.takeBcr).phaseEnd 3 us)

/-! ### SP4 (R33, R37, R948) -/

/-- Logic sites that fail: by their BIST, or because their firmware cannot boot (R1010). -/
def State.logicBad (s : State) (fails : DWord) : List Nat :=
  logicSites.filter fun site =>
    (fails.getLsbD site || s.rst.noFw.contains (2 + site / 16)) && !(s.fieldMask (siteHalf site).1).getLsbD (siteHalf site).2 &&
      s.fld (HUB_SITE_STAT_STATE 0 site) ≠ 3

/-- SP4_REPEAT (R37, R50, R962): the event of a repeat; every site is EMPTY until SP3 completes again. -/
def State.spRepeat (s : State) : State :=
  ((List.range 64).foldl (fun t site => t.setSite (fun h => HUB_SITE_STAT_STATE h site) 0) s).raise RST_ERR_SP4_REPEAT 0 0x0D 0 1
    sevUncorrected (s.csr64 RST_BIST_SITES) 0

/-- SP4 (R37, R942, R948): where sites fail, SP3 and SP4 repeat. -/
def execSp4 (fails : DWord) (us : BitVec 24) (s : State) : Host.Outcome State Fault Refusal :=
  .next (if !s.startPhase 4 then s else
    let bad := s.logicBad fails
    if bad.isEmpty then s.phaseEnd 4 us
    else (bad.foldl (fun t site => (t.bistSite site).retireSite site) s).spRepeat.setFld RST_STAT_PHASE 3)

/-! ### SP5 (R414-R417, R460, R466, R554, R944, R945) -/

/-- After a power-on reset every region register, key slot and root is zero (R944). -/
def State.zeroMpe (s : State) : State :=
  { s.resetRegs fun k => decide (keySpace k < 2) && within (keyOff k) 0x300000 0x318000 with mem := { s.mem with mpe := [] } }

/-- Start-up is over: the device runs (R942, R945). -/
def State.startDone (s : State) : State := (s.setFld RST_STAT_STATE 1).setFld RST_STAT_PHASE 8

/-- SP5 (R942, R944, R945). -/
def execSp5 (chans : Vector ChanTrain 4) (ports : Vector CxlTrain 4) (us : BitVec 24) (s : State) :
    Host.Outcome State Fault Refusal :=
  .next (if !s.startPhase 5 then s else
    let s1 := if s.rst.powerOn then s.zeroMpe else s
    let r0 := s1.trainHub 0 #v[chans[0], chans[1]] #v[ports[0], ports[1]]
    let r1 := r0.1.trainHub 1 #v[chans[2], chans[3]] #v[ports[2], ports[3]]
    if r0.2 || r1.2 then r1.1.enterSafe 0xF else
    let s2 := r1.1.phaseEnd 5 us
    if (firstSource s2.cfgMode).isSome then s2 else { s2 with rst := { s2.rst with safeLow := false } }.startDone)

/-! ### SP6 and SP7 (R703-R712) -/

/-- A refusal of the start-up image takes effect (R708, R943): the next source is taken, or start-up stops in SAFE. -/
def State.sourceRefused (s : State) : State :=
  let r := s.cfg.refusal
  let s1 := if r = 16 then s else s.cfgReason r 0 0
  match nextSource s.cfgMode s.cfg.tried r with
  | some n => { s1 with cfg := { s1.cfg with refusal := 0, tried := n } }.setFld CFG_STAT_FALLBACK 1
  | none => s1.enterSafe (if r = 16 then 0x110 else 0x100 + r)

/-- Every acre of the image has ended its load (R715). -/
def State.imageLoaded (s : State) (im : Image) : Bool := im.segs.all fun g => acLoaded ≤ s.acreState g.acre

/-- SP6 (R703, R708, R711, R942). -/
def execSp6 (us : BitVec 24) (s : State) : Host.Outcome State Fault Refusal :=
  .next (if !s.startPhase 6 then s
    else if s.cfg.refusal ≠ 0 then s.sourceRefused
    else match s.cfg.image with
      | none => s
      | some im =>
        if !s.imageLoaded im then s
        else if im.strict && im.segs.any (fun g => s.acreState g.acre = acFailed) then s.enterSafe 0x12
        else s.phaseEnd 6 us)

/-- SP7 (R712, R942): stage 1 of every LOADED acre begins; when every release has ended, the device runs. -/
def execSp7 (us : BitVec 24) (s : State) : Host.Outcome State Fault Refusal :=
  .next (if !s.startPhase 7 then s else
    let loaded := (List.range 192).filter fun la => s.acreState la = acLoaded
    if !loaded.isEmpty then s.makeDue loaded
    else if (List.range 192).any fun la => s.acreState la = acReleasing then s
    else
      let s1 := s.phaseEnd 7 us
      { s1 with cfg := { s1.cfg with staged := [], stagedLines := [] } }.startDone)

end Sys2Proof.Machine
end

