-- ==== Sys2Proof/Machine/Clock.lean ====
section
/-! DEFINITION. Clocks (R850-R886): sources and their monitors, REFCLK faults, switching of the hub domains, CPLL and dividers, and
the peripheral clock enables. -/

namespace Sys2Proof.Machine

open Sys2Proof

/-! ### REFCLK faults (R865-R875) -/

/-- REF_FAULT of both hubs follows REF_LOSS and REF_FREQ (R882). -/
def State.showFault (s : State) : State :=
  let f := (List.range 2).any fun h => s.bit (CLK_ERR_REF_LOSS h) || s.bit (CLK_ERR_REF_FREQ h)
  (s.setBit (CLK_STAT_REF_FAULT 0) f).setBit (CLK_STAT_REF_FAULT 1) f

/-- CLK_DOM of a hub: the sources selected are in effect; HOLDOVER follows the MC domain of H0 (R609, R859, R861). -/
def State.setDomains (s : State) (h sel : Nat) : State :=
  let s1 := s.setCsr (CLK_DOM h) (BitVec.ofNat 32 (sel % 16 + 256 * (sel % 16)))
  if h = 0 then s1.setFld TB_STAT_HOLDOVER (sel / 4 % 2) else s1

/-- IOSC_SWITCH (R868-R870): after a REFCLK fault the domains of a hub move to IOSC once it is READY; the hub then has a clock again,
raises CLK_NMI to its MC and puts its DDR5 into self-refresh. -/
def State.ioscSwitch (s : State) (h : Nat) : State :=
  if s.rst.faulted.getLsbD h && s.bit (CLK_STAT_IOSC_READY h) then
    let s1 := s.setDomains h 15
    let s2 := { s1 with rst := { s1.rst with
      faulted := s1.rst.faulted &&& ~~~(BitVec.twoPow 2 h), noRefresh := s1.rst.noRefresh &&& ~~~(BitVec.twoPow 2 h) } }
    ({ s2 with cpu := { s2.cpu with nmi := s2.cpu.nmi ||| BitVec.twoPow 2 h } }.send (.clkNmi h)).safeHub h |>.mcServe
  else s

/-- Hubs whose DDR5 is in use. -/
def State.dramRuns (s : State) : BitVec 2 :=
  let on (h : Nat) : Bool := s.fld (DMC_STAT_STATE h 0) = 2 || s.fld (DMC_STAT_STATE h 1) = 2
  BitVec.ofBool (on 1) ++ BitVec.ofBool (on 0)

/-- A detector of a hub has found a REFCLK fault (R865-R868): its flag is set, REFCLK is not READY, and once start-up has left SP1
the device enters SAFE and the hubs lose their clock until they run on IOSC. -/
def State.refFault (s : State) (h : Nat) (flag : Fld) (reason : Nat) : State :=
  let s1 := ((s.setFld flag 1).setFld (CLK_STAT_REF_READY h) 0).showFault
  if s.rst.parked || s.fld RST_STAT_PHASE < 2 || !s.bit (CLK_STAT_REF_READY h) then s1
  else
    let s2 := { s1 with rst := { s1.rst with faulted := 3, noRefresh := s1.rst.noRefresh ||| s1.dramRuns } }
    ((s2.enterSafe reason).ioscSwitch 0).ioscSwitch 1

/-- REF_LOSS (R865): no edge of REFCLK has come; the PLLs of the hub lose lock. -/
def execRefLoss (hub : Fin 2) (s : State) : Host.Outcome State Fault Refusal :=
  let h := hub.val
  let s1 := { s with rst := { s.rst with windows := mapSet s.rst.windows 0 h 0 } }
  .next ((s1.refFault h (CLK_ERR_REF_LOSS h) 3).setFld (CLK_STAT_HPLL_LOCK h) 0 |>.setFld (CLK_STAT_CPLL_LOCK h) 0)

/-- REF_FREQ (R851, R866): the end of a monitor window with its count of edges. -/
def execRefFreq (hub : Fin 2) (edges : BitVec 16) (s : State) : Host.Outcome State Fault Refusal :=
  let h := hub.val
  .next (if !s.bit (CLK_STAT_IOSC_READY h) || s.rst.parked then s
    else if s.fld (CLK_MON_LO h) ≤ edges.toNat ∧ edges.toNat ≤ s.fld (CLK_MON_HI h) then
      let n := min (mapGet s.rst.windows 0 h + 1) 2
      let s1 := { s with rst := { s.rst with windows := mapSet s.rst.windows 0 h n } }
      if n = 2 ∧ 2 ≤ s.fld RST_STAT_PHASE then s1.setFld (CLK_STAT_REF_READY h) 1 else s1
    else
      { s with rst := { s.rst with windows := mapSet s.rst.windows 0 h 0 } }.refFault h (CLK_ERR_REF_FREQ h) 4)

/-- IOSC_READY (R851, R868, R874). -/
def execIoscReady (hub : Fin 2) (s : State) : Host.Outcome State Fault Refusal :=
  .next (if s.rst.parked then s else (s.setFld (CLK_STAT_IOSC_READY hub) 1).ioscSwitch hub)

/-- REFRESH_LOST (R871): 16 ms have passed since the fault without self-refresh. -/
def execRefreshLost (hub : Fin 2) (s : State) : Host.Outcome State Fault Refusal :=
  .next (if s.rst.noRefresh.getLsbD hub then
    { s with rst := { s.rst with noRefresh := s.rst.noRefresh &&& ~~~(BitVec.twoPow 2 hub) } }.clkErr hub (CLK_ERR_REFRESH_LOST hub)
    else s)

/-- NO_CLOCK_TIMEOUT (R874): 2 ms have passed since the fault and IOSC is not READY: the reason becomes NO_CLOCK. -/
def execNoClockTimeout (hub : Fin 2) (s : State) : Host.Outcome State Fault Refusal :=
  .next (if s.safe && s.rst.faulted.getLsbD hub && !s.bit (CLK_STAT_IOSC_READY hub) && (s.reason = 3 || s.reason = 4) then
    ((s.setFld RST_STAT_REASON 5).setFld RST_LAST_SAFE_REASON 5).fatal 5 else s)

/-! ### Monitoring of IOSC and AO_XTAL (R876, R877) -/

/-- IOSC_CHECK (R876): a count more than 8 % away from 97,656. -/
def execIoscCheck (hub : Fin 2) (count : BitVec 32) (s : State) : Host.Outcome State Fault Refusal :=
  let h := hub.val
  .next (if s.hubClocked 0 && s.bit (CLK_STAT_IOSC_READY h) && (count.toNat * 100 < 97656 * 92 || 97656 * 108 < count.toNat * 100) then
    (s.setFld (CLK_STAT_IOSC_READY h) 0).clkErr h (CLK_ERR_IOSC_FAULT h) else s)

/-- XTAL_READY of both hubs. -/
def State.setXtal (s : State) (b : Bool) : State := (s.setBit (CLK_STAT_XTAL_READY 0) b).setBit (CLK_STAT_XTAL_READY 1) b

/-- XTAL_LOSS (R851, R877, R1002). -/
def execXtalLoss (s : State) : Host.Outcome State Fault Refusal :=
  .next (if s.bit (CLK_STAT_XTAL_READY 0) then (s.setXtal false).aoOnRc else s)

/-- XTAL_READY (R851): AO_XTAL measures well again. -/
def execXtalReady (s : State) : Host.Outcome State Fault Refusal :=
  .next (if 2 ≤ s.fld RST_STAT_PHASE || s.rst.parked then s.setXtal true else s)

/-- XTAL_RETURN (R877): AO_XTAL has been READY for 1 s; XTAL_FAULT stays. -/
def execXtalReturn (s : State) : Host.Outcome State Fault Refusal :=
  .next (if s.bit (CLK_STAT_XTAL_READY 0) && s.rst.onRc then
    { s with rst := { s.rst with onRc := false } }.setFld (CLK_STAT_AO_ON_RC 0) 0 else s)

/-! ### Switching (R860-R864) -/

/-- The source a SEL field names may be taken (R860): domain `i` is CPU, SBUS, MC or MPE. -/
def State.mayClock (s : State) (h i : Nat) (iosc : Bool) : Bool :=
  if iosc then s.bit (CLK_STAT_IOSC_READY h)
  else !s.bit (CLK_STAT_REF_FAULT h) && s.bit (if i < 2 then CLK_STAT_CPLL_LOCK h else CLK_STAT_HPLL_LOCK h)

/-- A write of CLK_DOM by Level S (R860, R864). -/
def State.domWrite (s : State) (h : Nat) (v : Word) : State :=
  if s.rst.faulted.getLsbD h then s.setFld (CLK_ERR_SW_REFUSED h) 1 else
  let ok (i : Nat) : Bool := s.mayClock h i (v.getLsbD i)
  let old := s.csr (CLK_DOM h)
  let sel := (List.range 4).foldl (fun n i => n + (if ok i then v.getLsbD i else old.getLsbD i).toNat * 2 ^ i) 0
  let s1 := s.setDomains h sel
  if (List.range 4).all ok then s1 else s1.setFld (CLK_ERR_SW_REFUSED h) 1

/-- CLK_DOM_WRITE (R860). -/
def execClkDomWrite (mid : BitVec 12) (hub : Fin 2) (value : Word) (s : State) : Host.Outcome State Fault Refusal :=
  .next (levelSWrite s mid (CLK_DOM hub) fun t => t.domWrite hub value)

/-- A write of CLK_CPLL by Level S (R862, R863, R884). -/
def State.cpllWrite (s : State) (h : Nat) (v : Word) : State :=
  let s1 := ((s.setFld (CLK_CPLL_CPU_DIV h) (bitsOf v 8 3)).setFld (CLK_CPLL_SBUS_DIV h) (bitsOf v 11 4)).setFld (CLK_CPLL_PBUS_DIV h)
    (bitsOf v 16 2)
  if bitsOf v 0 7 = s.fld (CLK_CPLL_CMULT h) then s1
  else if s.fld (CLK_DOM_CPU_SEL h) = 0 ∨ s.fld (CLK_DOM_SBUS_SEL h) = 0 then s1.setFld (CLK_ERR_CFG_REFUSED h) 1
  else
    let s2 := (s1.setFld (CLK_CPLL_CMULT h) (bitsOf v 0 7)).setFld (CLK_STAT_CPLL_LOCK h) 0
    { s2 with rst := { s2.rst with relock := s2.rst.relock ||| BitVec.twoPow 2 h } }

/-- CMULT_WRITE (R862). -/
def execCmultWrite (mid : BitVec 12) (hub : Fin 2) (value : Word) (s : State) : Host.Outcome State Fault Refusal :=
  .next (levelSWrite s mid (CLK_CPLL hub) fun t => t.cpllWrite hub value)

/-- DIV_WRITE (R863). -/
def execDivWrite (mid : BitVec 12) (hub : Fin 2) (value : Word) (s : State) : Host.Outcome State Fault Refusal :=
  .next (levelSWrite s mid (CLK_CPLL hub) fun t => t.cpllWrite hub value)

/-- CPLL_LOCK (R862): CPLL locks again; it needs REFCLK. -/
def execCpllLock (hub : Fin 2) (s : State) : Host.Outcome State Fault Refusal :=
  .next (if s.rst.relock.getLsbD hub && s.bit (CLK_STAT_REF_READY hub) then
    { s with rst := { s.rst with relock := s.rst.relock &&& ~~~(BitVec.twoPow 2 hub) } }.setFld (CLK_STAT_CPLL_LOCK hub) 1 else s)

/-- A write of CLK_ERR (R875): REF_LOSS and REF_FREQ stay while REFCLK is not READY. -/
def State.clkErrWrite (s : State) (h : Nat) (v : Word) : State :=
  let m := if s.bit (CLK_STAT_REF_READY h) then v else v &&& ~~~0x3#32
  (s.setCsr (CLK_ERR h) (s.csr (CLK_ERR h) &&& ~~~m)).showFault

/-! ### Peripheral clock enables (R878-R880) -/

/-- Peripherals of a hub in use, by their bits in CLK_PEN (R880). -/
def State.hubInUse (s : State) (h : Nat) : Word :=
  let qe := (s.qe.queues.any fun kv => kv.1 / 4096 = h && s.qState h (kv.1 % 4096) ≠ qDisabled) ||
    (s.regs.any fun kv => within kv.1 (0x400000 + hubSpace h) (0x480000 + hubSpace h) &&
      (List.range 4096).any fun q => kv.1 = QE_Q_STAT h q && s.qState h q ≠ qDisabled)
  let crc (u : Nat) : Bool := s.bit (HUB_CRC_CTL_BUSY h u) || s.bit (HUB_CRC_CTL_OWNED h u)
  let cxl (q : Nat) : Bool := s.bit (CXL_CTL_EN h q)
  BitVec.ofNat 32 (qe.toNat + (List.range 4).foldl (fun n u => n + (crc u).toNat * 2 ^ (1 + u)) 0 +
    (List.range 2).foldl (fun n q => n + (cxl q).toNat * 2 ^ (5 + q)) 0)

/-- Peripherals of a port die in use, by their bits in CLK_PRT_PEN. -/
def State.portInUse (s : State) (p : Nat) : Word :=
  let sum (n lo : Nat) (f : Nat → Bool) : Nat := (List.range n).foldl (fun a i => a + (f i).toNat * 2 ^ (lo + i)) 0
  BitVec.ofNat 32 (sum 4 0 (fun m => s.bit (PRT_ETH_CFG_EN p m)) + sum 8 4 (fun k => s.bit (PRT_INT_CTL_EN p k)) +
    sum 2 12 (fun t => s.bit (PRT_CTX_CFG_EN p t)) + sum 2 14 (fun u => s.bit (PRT_CRC_CTL_BUSY p u) || s.bit (PRT_CRC_CTL_OWNED p u)))

/-- A write of enables: one of a peripheral in use is not cleared (R880). GATE_REFUSED is that of the hub. -/
def State.penStore (s : State) (h key : Nat) (mask v use : Word) : State :=
  let old := s.csr key
  let kept := old &&& ~~~v &&& use
  let s1 := s.setCsr key ((v &&& mask) ||| kept)
  if kept = 0 then s1 else s1.setFld (CLK_ERR_GATE_REFUSED h) 1

/-- A write of CLK_PEN by Level S. -/
def State.penWrite (s : State) (h : Nat) (v : Word) : State := s.penStore h (CLK_PEN h) 0x7F#32 v (s.hubInUse h)

/-- A write of CLK_PRT_PEN by Level S. -/
def State.prtPenWrite (s : State) (p : Nat) (v : Word) : State := s.penStore 0 (CLK_PRT_PEN p) 0xFFFF#32 v (s.portInUse p)

end Sys2Proof.Machine
end

