-- ==== Sys2Proof/Machine/Power.lean ====
section
/-! DEFINITION. Supplies, the package power cap, power states and their wake events, die power gating, and thermal limits
(R887-R927). -/

namespace Sys2Proof.Machine

open Sys2Proof

/-- Set a flag of PWR_ERR and report it (R966, R987). -/
def State.pwrErr (s : State) (f : Fld) : State := s.raise f 0 0x0C 0 0 sevUncorrected 0 (s.csr PWR_STAT)

/-- The power controller of H0 runs: start-up has left SP1 and the device is not in PARK (R891, R897). -/
def State.powerRuns (s : State) : Bool := s.hubClocked 0

/-- A value outside [lo, hi] acts as the nearer limit. -/
def clampTo (lo hi n : Nat) : Nat := min hi (max lo n)

/-! ### Supplies and the package power (R890-R896) -/

/-- SUPPLY_UV (R890, R910): a rail monitor reports a rail below its range. The FATAL record of SAFE covers the flag. -/
def execSupplyUv (rail : Fin 10) (s : State) : Host.Outcome State Fault Refusal :=
  .next (if s.rst.parked || s.fld RST_STAT_PHASE < 2 then s
    else ((s.setFld PWR_ERR_SUPPLY_UV 1).setFld PWR_STAT_RAIL rail).enterSafe 6)

/-- The lowest throttle level allowed (R921). -/
def State.throttleFloor (s : State) : Nat := if s.bit PWR_STAT_HOT then 2 else 0

/-- The throttle level after a sample of `mw` (R893), where `low` samples in a row, this one included, lay below 95 % of CAP_W. -/
def nextLevel (level floor cap mw low : Nat) : Nat :=
  if cap < mw then min 4 (level + 1) else if 10 ≤ low then max floor (level - 1) else level

/-- POWER_SAMPLE (R891-R896): the package power of one 10 us period. -/
def execPowerSample (mw : BitVec 20) (s : State) : Host.Outcome State Fault Refusal :=
  let p := mw.toNat
  let cap := clampTo 20 190 (s.fld PWR_CAP_CAP_W) * 1000
  .next (if !s.powerRuns then s else
    let level := s.fld PWR_STAT_THR_LEVEL
    let low := if p * 100 < cap * 95 then min 10 (s.rst.below + 1) else 0
    let held := if level = 4 ∧ cap < p then s.rst.capped + 1 else 0
    let high := if 200000 < p then s.rst.above + 1 else 0
    let s1 : State := { s with rst := { s.rst with
      below := low, capped := if held = 1000 then 0 else held, above := if high = 100 then 0 else high } }
    let s2 := (s1.setFld PWR_PKG_MW p).setFld PWR_STAT_THR_LEVEL (nextLevel level s.throttleFloor cap p low)
    let s3 := if held = 1000 then s2.pwrErr PWR_ERR_CAP_EXCEEDED else s2
    if high = 100 then s3.enterSafe 8 else s3)

/-! ### Thermal sensors (R919-R923) -/

/-- TEMP and VALID of a sensor of a die, by CSR space (R924, R927). -/
def tempKey (die i : Nat) : Nat :=
  if die < 2 then PWR_TEMP die i else if die < 6 then PRT_TEMP (die - 2) i else LDC_TEMP (die - 8) i

/-- The die of a CSR space has a sensor `i` (R919). -/
def hasSensor (die i : Nat) : Bool :=
  if die < 2 then i < 4 else if die < 6 then i < 2 else 8 ≤ die && isLogicSite (die - 8) && i < 2

/-- Every sensor of the package (R919), by CSR space * 4 + number. -/
def allSensors : List Nat := (List.range 288).filter fun k => hasSensor (k / 4) (k % 4)

/-- The die of a CSR space is powered (R915). -/
def State.diePowered (s : State) (die : Nat) : Bool := die < 8 || !s.siteGated (die - 8)

/-- The valid readings. -/
def State.validTemps (s : State) : List Int :=
  allSensors.filterMap fun k =>
    let w := s.csr (tempKey (k / 4) (k % 4))
    if w.getLsbD 16 then some (signedOf 16 (bitsOf w 0 16)) else none

/-- The hold of R921 begins or ends with the valid readings `ts`. -/
def State.thermHot (s : State) (ts : List Int) : State :=
  let hot : Int := clampTo 90 125 (s.fld PWR_TLIM_HOT_C) * 10
  if ts.any (hot ≤ ·) then
    let s1 := if s.bit PWR_ERR_THERM_HOT then s else s.pwrErr PWR_ERR_THERM_HOT
    (s1.setFld PWR_STAT_HOT 1).setFld PWR_STAT_THR_LEVEL (max 2 (s1.fld PWR_STAT_THR_LEVEL))
  else if ts.all (· < hot - 30) then s.setFld PWR_STAT_HOT 0
  else s

/-- The level of a stacked SRAM at a temperature, where it was `level` (R922). -/
def sramLevel (level : Nat) (t : Int) : Nat :=
  let on (k : Nat) (th : Int) : Bool := th ≤ t || (k ≤ level && th - 30 < t)
  if on 3 1250 then 3 else if on 2 1150 then 2 else if on 1 1050 then 1 else 0

/-- The stacked SRAM above a hub follows the highest reported temperature of its sensors (R922). -/
def State.showSram (s : State) (h : Nat) : State :=
  let t := (List.range 4).foldl (fun (m : Int) i => max m (signedOf 16 (s.fld (PWR_TEMP_TEMP h i)))) (-0x8000)
  (s.setFld (PWR_SRAM_LEVEL h) (sramLevel (s.fld (PWR_SRAM_LEVEL h)) t)).sramResume h

/-- THERMAL_SAMPLE (R919-R922): a sensor takes a reading, in signed tenths of a degree. -/
def execThermalSample (die : Fin 72) (sensor : Fin 4) (temp : Half) (s : State) : Host.Outcome State Fault Refusal :=
  let k := 4 * die.val + sensor.val
  .next (if !s.powerRuns || !hasSensor die sensor || !s.diePowered die then s else
    let n := min 2 (mapGet s.rst.readings 0 k + 1)
    let s1 := { s with rst := { s.rst with readings := mapSet s.rst.readings 0 k n } }
    if n < 2 then s1 else
    let s2 := s1.setCsr (tempKey die sensor) (BitVec.ofNat 32 (temp.toNat + 0x10000))
    let trip : Bool := 1300 ≤ temp.toInt
    let again := trip && mapGet s.rst.hotOnce false k
    let s3 := { s2 with rst := { s2.rst with hotOnce := mapSet s2.rst.hotOnce false k trip } }
    let s4 := (if die.val < 2 then s3.showSram die else s3).thermHot s3.validTemps
    if again then s4.enterSafe 7 else s4)

/-! ### Entering a power state (R897-R903, R910) -/

/-- A WFI of the MC means a power-state entry: the device is in RUN and MODE names another state (R898). -/
def State.mayEnter (s : State) : Bool :=
  s.mcRuns && s.fld RST_STAT_STATE = 1 && !s.rst.asleep && s.rst.entry.isNone && s.fld PWR_MODE_MODE ≠ 0

/-- The ACCEPTED reply of a PWR_MODE command received over CMD-SPI has left its reply queue (R901). -/
def State.acceptedRead (s : State) : Bool :=
  !s.cmd.accs.any (fun a => a.cmd.op = 0x0500 && a.cmd.tr = 0 && a.result.isNone) || (s.tr 0).replies.isEmpty

/-- An interrupt is pending at an MC or a core with RUN = 1 (R905 bit 4). -/
def State.irqPending (s : State) (other : Bool) : Bool := other || s.errIrq || !s.cpu.wdtIrq.isEmpty

/-- Configuration does not stop STANDBY or PARK for an acre: it is RUNNING, EMPTY, FAILED or LOST (R899). -/
def State.acreQuiet (s : State) (la : Nat) : Bool :=
  let st := s.acreState la
  st = acRunning || st = acEmpty || st = acFailed || st = acLost

/-- The block of a hub's MPE runs a rekey, a reseal, or the enabling or disabling of a region (R899). -/
def State.mpeBusy (s : State) (h : Nat) : Bool :=
  s.fld (MPE_RKEY_STAT_STATE h) = 1 || s.bit (MPE_RESEAL_CTL_BUSY h) ||
    (List.range 16).any fun r => s.bit (MPE_RGN_CFG_INIT_BUSY h r) || s.bit (MPE_RGN_CFG_DISABLING h r)

/-- The units of port die `p` that are enabled (R899, PORT). -/
def State.portEnabled (s : State) (p u : Nat) : Bool :=
  if u < 8 then s.bit (PRT_INT_CTL_EN p u) else if u < 10 then s.bit (PRT_CTX_CFG_EN p (u - 8))
  else 16 ≤ u && s.bit (PRT_ETH_CFG_EN p (u - 16))

/-- The first unit of a block present in both hubs that fails: ascending UNIT, and H0 before H1 (log entry 180). -/
def firstUnit (n : Nat) (bad : Nat → Nat → Bool) : Option (Nat × Nat) :=
  ((List.range (2 * n)).map fun k => (k % 2, k / 2)).find? fun x => bad x.1 x.2

/-- The check of one block of R899: the hub and unit that fail it. -/
def State.powerCheck (s : State) (mode : Nat) (f : WfiFind) (block : Nat) : Option (Nat × Nat) :=
  let deep : Bool := decide (2 ≤ mode)
  match block with
  | 1 => if f.h1 then none else some (1, 0)
  | 2 => firstUnit 4 fun h c => (s.fld (HUB_CPU_CTL_RUN h)).testBit c && (deep || !f.cores.getLsbD (4 * h + c))
  | 3 => if deep then firstUnit 4096 fun h q => s.qState h q ≠ qDisabled else none
  | 4 => if !deep then none else if s.cfg.op.isSome then some (0, 0) else
      ((List.range 192).find? fun la => !s.acreQuiet la).map fun la => (0, la)
  | 5 => if deep then firstUnit 1 fun h _ => s.mpeBusy h else none
  | 6 => if deep then firstUnit 2 fun h c => s.bit (DMC_STAT_MIG_ACTIVE h c) else none
  | 7 => if deep then ((List.range 0x414).find? fun u => u / 256 < 4 && u % 256 < 20 && s.portEnabled (u / 256) (u % 256)).map fun u => (0, u)
      else none
  | 8 => if deep then ((List.range 4).find? fun q => s.bit (CXL_CTL_EN (q / 2) (q % 2))).map fun q => (q / 2, q) else none
  | 9 => if deep then firstUnit 4 fun h c => (s.hart (4 * h + c)).halted else none
  | 10 => if !deep then none else match firstUnit 4 fun h u => s.bit (HUB_CRC_CTL_OWNED h u) with
      | some x => some x
      | none => ((List.range 0x402).find? fun u => 0x100 ≤ u && u % 256 < 2 && s.bit (PRT_CRC_CTL_OWNED (u / 256 - 1) (u % 256))).map
          fun u => (0, u)
  | 11 => if mode = 1 ∧ (s.csr PWR_WAKE_EN).getLsbD 4 ∧ s.irqPending f.irq then some (0, 4) else none
  | _ => none

/-- The blocks of R899 in order: the first that fails, with its hub and unit. -/
def State.powerRefuser (s : State) (mode : Nat) (f : WfiFind) : Option (Nat × Nat × Nat) :=
  (List.range 12).findSome? fun b => (s.powerCheck mode f b).map fun x => (b, x.1, x.2)

/-- An entry is refused or aborted (R902): MODE is RUN again, the MC goes on and a PWR_MODE command ends. -/
def State.powerRefuse (s : State) (block hub unit : Nat) (abort : Bool) : State :=
  let w := BitVec.ofNat 32 (block + unit * 256 + hub * 0x100000 + abort.toNat * 0x200000 + 0x80000000)
  let s1 := (s.setCsr PWR_REFUSER w).satInc (if abort then PWR_REFUSE_CNT_ABORTED else PWR_REFUSE_CNT_REFUSED)
  let s2 := (s1.setFld PWR_MODE_MODE 0).setFld PWR_STAT_STATE 0
  ({ s2 with rst := { s2.rst with entry := none } }.accDone 0x0500 stState [w]).mcServe

/-- The commit point of an entry (R900, R903, COMMIT_POINT). -/
def State.powerCommit (s : State) : State :=
  match s.rst.entry with
  | some e => if e.committed then s else
      { s with fenced := s.fenced || decide (2 ≤ e.mode), rst := { s.rst with entry := some { e with committed := true } } }
  | none => s

/-- MC_WFI (R898-R902): the MC of H0 executes WFI; with MODE = RUN it is an ordinary one. -/
def execMcWfi (find : WfiFind) (s : State) : Host.Outcome State Fault Refusal :=
  .next (if !s.mayEnter || !s.acceptedRead then s else
    let mode := s.fld PWR_MODE_MODE
    let s1 := { s with rst := { s.rst with wakes := 0 } }
    match s1.powerRefuser mode find with
    | some (b, h, u) => s1.powerRefuse b h u (b = 11)
    | none =>
      let s2 := { s1 with rst := { s1.rst with entry := some ⟨mode, false⟩ } }.setFld PWR_STAT_STATE 4
      (if find.commit then s2.powerCommit else s2).mcServe)

/-! ### Wake events (R900, R901, R905-R909) -/

/-- An event reaches a state (R905): 1 IDLE, 2 STANDBY, 3 PARK. -/
def wakeReaches (event mode : Nat) : Bool :=
  match event with
  | 0 | 3 => true
  | 1 | 6 => mode ≤ 2
  | 2 => mode = 2
  | 4 => mode = 1
  | _ => false

/-- The state that is being entered or held, if the device is not in RUN. -/
def State.powerState (s : State) : Option Nat :=
  if s.rst.parked then some 3
  else match s.rst.entry with
    | some e => some e.mode
    | none => if s.rst.asleep && s.fld PWR_STAT_STATE ≠ 0 then some (if s.fenced then 2 else 1) else none

/-- A wake event is latched (R900): the first one since the WFI replaces the causes of the wake before. -/
def State.latchWake (s : State) (event : Nat) : State :=
  let old := if s.rst.wakes = 0 then s.csr PWR_WAKE_CAUSE &&& 0x20#32 else s.csr PWR_WAKE_CAUSE
  let s1 := s.setCsr PWR_WAKE_CAUSE (old ||| BitVec.twoPow 32 event)
  { s1 with rst := { s1.rst with wakes := s1.rst.wakes ||| BitVec.twoPow 8 event } }

/-- A wake event comes, before or after the commit point of an entry (R900, R902, R905). -/
def State.wakeEvent (s : State) (event : Nat) (committed : Bool) : State :=
  match s.powerState with
  | none => s
  | some mode =>
    if !(s.csr PWR_WAKE_EN).getLsbD event || !wakeReaches event mode then s
    else match s.rst.entry with
      | some e =>
        if e.committed || committed then s.powerCommit.latchWake event
        else s.powerRefuse 11 0 event true
      | none =>
        let s1 := s.latchWake event
        if s.rst.parked then s1 else s1.setFld PWR_STAT_STATE 5

/-- WAKE_EVENT (R900, R905, R906): an enabled event, long enough to count. -/
def execWakeEvent (event : Fin 8) (committed : Bool) (s : State) : Host.Outcome State Fault Refusal := .next (s.wakeEvent event committed)

/-- PWR_WTMR (R905): the wake timer expires. -/
def execPwrWtmr (committed : Bool) (s : State) : Host.Outcome State Fault Refusal :=
  .next (if s.rst.timer then { s with rst := { s.rst with timer := false } }.wakeEvent 3 committed else s)

/-- A write of PWR_WTMR by Level S starts the timer, or stops it with 0. -/
def State.wtmrWrite (s : State) (v : Word) : State :=
  { s with rst := { s.rst with timer := bitsOf v 0 24 ≠ 0 } }.setFld PWR_WTMR_MS (bitsOf v 0 24)

/-- A write of PWR_WAKE_EN by Level S (R905, R909): bit 5 names no event. -/
def State.wakeEnWrite (s : State) (v : Word) : State :=
  (s.setFld PWR_WAKE_EN_BITS (bitsOf ((v &&& 0x5F#32) ||| 1#32) 0 7)).watchWake

/-- STANDBY takes the power of CPLL and of the application clusters of both hubs (R897): CPLL loses lock and their caches their lines. -/
def State.clustersOff (s : State) : State :=
  let s1 := (s.setFld (CLK_STAT_CPLL_LOCK 0) 0).setFld (CLK_STAT_CPLL_LOCK 1) 0
  { s1 with cpu := { s1.cpu with lines := [] } }

/-- POWER_STATE_REACHED (R28, R897, R900, R907, R989): the entry reaches its state; wake events latched meanwhile start the wake. -/
def execPowerStateReached (s : State) : Host.Outcome State Fault Refusal :=
  .next (match s.rst.entry with
    | none => s
    | some e =>
      let s1 := s.powerCommit
      let s2 := { s1 with rst := { s1.rst with entry := none } }
      if e.mode = 3 then
        (([0, 5, 9, 10].foldl (fun t lsn => t.ltsWrite lsn) s2).accDone 0x0500 stOk []).parkOff
      else
        let s3 : State := { s2 with rst := { s2.rst with asleep := true } }
        let s4 := if e.mode = 2 then ((s3.dmcSleep 0).dmcSleep 1).clustersOff else s3
        s4.setFld PWR_STAT_STATE (if s.rst.wakes = 0 then e.mode else 5))

/-- DDR5 of a hub leaves self-refresh (R911). -/
def State.dmcWake (s : State) (h : Nat) : State :=
  (List.range 2).foldl (fun t c => if t.fld (DMC_STAT_STATE h c) = 3 then t.setFld (DMC_STAT_STATE h c) 2 else t) s

/-- CPLL of a hub locks again at the end of a wake from STANDBY, unless a change of CMULT keeps it from it (R862, R911). -/
def State.cpllBack (s : State) (h : Nat) : State :=
  s.setBit (CLK_STAT_CPLL_LOCK h) (!s.rst.relock.getLsbD h && s.bit (CLK_STAT_REF_READY h))

/-- WAKE_DONE (R903, R904, R911, R912): the wake from IDLE or STANDBY ends; the MC continues after its WFI. -/
def execWakeDone (s : State) : Host.Outcome State Fault Refusal :=
  .next (if s.rst.asleep && s.fld PWR_STAT_STATE = 5 then
    let s1 := if s.fenced then (((s.dmcWake 0).dmcWake 1).cpllBack 0).cpllBack 1 else s
    let s2 : State := { s1 with fenced := false, rst := { s1.rst with asleep := false } }
    ((s2.setFld PWR_STAT_STATE 0).accDone 0x0500 stOk []).mcServe
    else s)

/-! ### Die power gating (R915-R918) -/

/-- The bits of `v` that may be set (R916): every acre of the die is EMPTY, FAILED or LOST. -/
def State.gateable (s : State) (v : DWord) : DWord :=
  (List.range 48).foldl (fun m d =>
    if v.getLsbD d && (List.range 4).all (fun a =>
        let st := s.acreState (4 * d + a)
        st = acEmpty || st = acFailed || st = acLost) then m ||| BitVec.twoPow 64 d else m) 0

/-- Logical dies lose power: each is held in die reset (R915). -/
def State.gateDies (s : State) (m : DWord) : State :=
  ((List.range 48).filter fun d => m.getLsbD d).foldl (fun t d =>
    match t.siteOf d with
    | some site =>
      let t1 := t.resetLogicDie site
      { t1 with rst := { t1.rst with ungating := t1.rst.ungating.filter (· ≠ site) } }
    | none => t) s

/-- A write of PWR_DIE_GATE by Level S (R915-R917). -/
def State.dieGateWrite (s : State) (v : DWord) : State :=
  let old := s.csr64 PWR_DIE_GATE
  let v' := v &&& 0xFFFFFFFFFFFF#64
  let set := v' &&& ~~~old
  let ok := s.gateable set
  let s1 := if ok = set then s else s.setFld PWR_ERR_GATE_REFUSED 1
  ((s1.setCsr64 PWR_DIE_GATE ((old &&& v') ||| ok)).gateDies ok).ungateDies (old &&& ~~~v')

/-- PWR_DIE_GATE_WRITE (R10, R915-R917): one word of the register. -/
def execPwrDieGateWrite (mid : BitVec 12) (high : Bool) (value : Word) (s : State) : Host.Outcome State Fault Refusal :=
  let old := s.csr64 PWR_DIE_GATE
  let v : DWord := if high then value ++ old.setWidth 32 else (old >>> 32).setWidth 32 ++ value
  .next (levelSWrite s mid (if high then PWR_DIE_GATE + 4 else PWR_DIE_GATE) fun t =>
    (t.dropLatches mid.toNat [PWR_DIE_GATE + 4]).dieGateWrite v)

/-- UNGATING (R917): the die is powered, reset and ready, with every acre EMPTY. -/
def execUngating (die : Fin 48) (s : State) : Host.Outcome State Fault Refusal :=
  .next (match s.siteOf die with
    | none => s
    | some site =>
      if !s.rst.ungating.contains site then s else
      let s1 : State := { s with rst := { s.rst with ungating := s.rst.ungating.filter (· ≠ site) } }
      ((s1.dieAcres die).foldl (fun t la => t.acreGone la acEmpty) (s1.setFld (LDC_PWR_UNGATING site) 0)).loadClocks site)

end Sys2Proof.Machine
end

