-- ==== Sys2Proof/Machine/Cpu.lean ====
section
/-! DEFINITION. Hub processors: ring requests of the application cores, run control, the debug modules, triggers, semaphores and
watchdogs (R796-R849, R980). -/

namespace Sys2Proof.Machine

open Sys2Proof

/-- UNIT of a hub's blocks (R987). -/
def hubUnit (h : Nat) : Nat := 0x800 * h

/-! ### Ring requests of the application cores (R800-R806, R980) -/

/-- Master ID of a core (R800). -/
def State.coreMid (s : State) (i : Nat) (machine : Bool) : Nat :=
  0x40 + 16 * (i / 4) + 2 * (i % 4) + (machine && (s.fld (HUB_CPU_CTL_DELEG (i / 4))).testBit (i % 4)).toNat

/-- The caches of a hub may hold an address (R801). -/
def State.cacheable (s : State) (h a : Nat) : Bool :=
  match s.resolve a with
  | some d => d = hubStop h 5 || (d = hubStop h 6 && decide (a % 0x10000000 / 64 < s.rsvLine h))
  | none => false

/-- The ring operation of an access (R296, R803): an AMO on a cacheable address fetches its line. -/
def coreOpc (op : CoreOp) (cached : Bool) : BitVec 3 :=
  match op with
  | .store => 1
  | .amoSwap => if cached then 0 else 2
  | .amoAdd => if cached then 0 else 3
  | .load | .fetch | .amo | .lr | .sc => 0

/-- A request of a core, or of the L2 for it, goes out on the ring. -/
def State.coreIssue (s : State) (i : Nat) (mid : Nat) (opc : BitVec 3) (tag : BitVec 13) (addr : BitVec 48) (lenm1 : BitVec 8)
    (imm : DWord) (poison : Bool) (data : List DataFlit) : State :=
  let stop := hubStop (i / 4) 9
  if !s.tagFree stop tag.toNat || s.cpu.outs.any (fun o => o.hart / 4 = i / 4 && o.tag = tag.toNat) then s else
  let s1 := { s with cpu := { s.cpu with outs := s.cpu.outs ++ [CoreOut.mk i tag.toNat (opc = 1) addr] } }
  s1.issue {
    stop := BitVec.ofNat 9 stop, tag := tag, mid := BitVec.ofNat 12 mid, cls := .p, opc := opc, addr := addr, lenm1 := lenm1,
    dbg := false, imm := imm, poison := poison, data := data }

/-- A store or write-back of a core has failed (R804). -/
def State.busErr (s : State) (i : Nat) (addr : BitVec 48) : State :=
  let h := i / 4
  let a : DWord := addr.setWidth 64 ||| BitVec.ofNat 64 (i % 4 * 2 ^ 48)
  ((s.setHart i { s.hart i with buserr := true }).setCsr64 (HUB_CPU_BERR_ADDR h) a).raise (HUB_CPU_ERR_BUSERR h) h 0x01 (hubUnit h) 0
    sevUncorrected a 0

/-- The completion of a core's request arrives (R804, R806). A line of a cacheable address that arrives with OK is held by the L1 of the
core and by the L2 (R801); a poisoned one is not cached. -/
def State.coreFinish (s : State) (i tag : Nat) : State :=
  let stop := hubStop (i / 4) 9
  match s.cpu.outs.find? (fun o => o.hart = i && o.tag = tag), s.inboxAt stop tag with
  | some o, some d =>
    let s1 := { s with cpu := { s.cpu with outs := s.cpu.outs.filter (· ≠ o) } }.dropInbox stop tag
    let bad := decide (2 ≤ statusCode d.status)
    if o.store then
      let s2 := s1.send (.core i false d.status)
      if bad then s2.busErr i o.addr else s2
    else
      let a := o.addr.toNat
      let filled := if d.status = .ok && s1.cacheable (i / 4) a then
          s1.setHolders (i / 4) a (s1.cacheHolders (i / 4) a ||| BitVec.twoPow 5 (i % 4) ||| 0x10#5) else s1
      filled.send (.core i (d.status ≠ .ok) d.status)
  | _, _ => s

/-- A cache of a core or the L2 reports an error (R965, R980, R987). -/
def State.cacheErr (s : State) (i : Nat) (l2 ue : Bool) (addr : BitVec 48) : State :=
  s.report (i / 4) 0x0F (hubUnit (i / 4) + if l2 then 4 else i % 4) ue.toNat (if ue then sevUncorrected else sevCorrected)
    (addr.setWidth 64) 0

/-- An uncorrectable line leaves the cache that found the error (R980). -/
def State.cacheLose (s : State) (i : Nat) (l2 : Bool) (addr : BitVec 48) : State :=
  s.setHolders (i / 4) addr.toNat (s.cacheHolders (i / 4) addr.toNat &&& ~~~(BitVec.twoPow 5 (if l2 then 4 else i % 4)))

/-- An SC on a cacheable address stores into the cached line if its hart still holds the reservation, and ends it (R828). -/
def State.coreSc (s : State) (i a : Nat) : State :=
  let x := s.hart i
  (s.setHart i { x with reserved := none }).send (.coreSc i (decide (x.reserved = some (cacheKey (i / 4) a))))

/-- CORE_RING_ACCESS (R800-R806, R828, R980): an access goes out, or what has become of one. An LR reserves its line. -/
def execCoreRingAccess (core : Fin 8) (acc : CoreAcc) (s : State) : Host.Outcome State Fault Refusal :=
  let i := core.val
  .next (if !s.hubAnswers (i / 4) then s else
    match acc with
    | .issue op machine tag addr lenm1 imm poison data =>
      if !s.hartRuns i then s else
      let cached := s.cacheable (i / 4) addr.toNat
      if (op = .amo || op = .lr || op = .sc) && !cached then s.send (.coreFault i)
      else if op = .sc then s.coreSc i addr.toNat
      else (if op = .lr then s.setHart i { s.hart i with reserved := some (cacheKey (i / 4) addr.toNat) } else s).coreIssue i (s.coreMid i machine) (coreOpc op cached) tag addr lenm1 imm poison data
    | .finish tag => s.coreFinish i tag.toNat
    | .clean l2 ce addr => (if ce then s else s.cacheLose i l2 addr).cacheErr i l2 false addr
    | .dirty l2 tag addr data =>
      ((s.cacheLose i l2 addr).cacheErr i l2 true addr).coreIssue i (s.coreMid i false) 1 tag addr 63 0 false [⟨data.1, true⟩, ⟨data.2, true⟩])

/-! ### HUB_CPU_CTL (R805-R808) -/

/-- A write of HUB_CPU_CTL by Level S. -/
def State.cpuCtlWrite (s : State) (h : Nat) (v : Word) : State :=
  let old := s.fld (HUB_CPU_CTL_RUN h)
  let s1 := (s.setFld (HUB_CPU_CTL_RUN h) (bitsOf v 0 4)).setFld (HUB_CPU_CTL_DELEG h) (bitsOf v 8 4)
  (List.range 4).foldl (fun t c =>
    let was := old.testBit c
    let now := v.getLsbD c
    if now && !was then t.hartStart (4 * h + c) else if was && !now then t.hartReset (4 * h + c) else t) s1

/-- RUN (R805, R806). -/
def execRun (mid : BitVec 12) (hub : Fin 2) (value : Word) (s : State) : Host.Outcome State Fault Refusal :=
  .next (levelSWrite s mid (HUB_CPU_CTL hub) fun t => t.cpuCtlWrite hub value)

/-- DELEG (R807, R808). -/
def execDeleg (mid : BitVec 12) (hub : Fin 2) (value : Word) (s : State) : Host.Outcome State Fault Refusal :=
  .next (levelSWrite s mid (HUB_CPU_CTL hub) fun t => t.cpuCtlWrite hub value)

/-! ### Triggers and halt groups (R818-R826) -/

/-- The fabric is an input of the halt groups of both debug modules (R823). -/
def State.fabricHalt (s : State) : State :=
  let g0 := (s.dm 0).extHalt
  let g1 := (s.dm 1).extHalt
  let s1 := s.groupHalt g0 none
  if g1 = g0 then s1 else s1.groupHalt g1 none

/-- FABRIC_TRIGGER (R166, R169, R823): a rising edge of the die's fabric trigger, at the last instant. -/
def execFabricTrigger (site : Fin 64) (s : State) : Host.Outcome State Fault Refusal :=
  let s1 := if s.bit (LDC_TRACE_CTL_TEN_FAB site) then s.traceTrigger site 0 else s
  .next (if s.before.fabricTrigger site || !s.fabricTrigger site then s else if s.bit (LDC_TRACE_CTL_TRIG_OUT_EN site) then (s1.send (.trigger (8 + site))).fabricHalt else s1)

/-- tdata1 and tdata2 of a trigger. -/
def HartSt.trig (x : HartSt) (k : Nat) : DWord × DWord := (mapGet x.trigs 0 (2 * k), mapGet x.trigs 0 (2 * k + 1))

/-- Number of low bits a NAPOT pattern leaves open. -/
def napotBits : Nat → DWord → Nat
  | 0, _ => 0
  | n + 1, v => if v.getLsbD 0 then 1 + napotBits n (v >>> 1) else 1

/-- The comparison of an mcontrol6 trigger (R818, R819): its match value, tdata2 and the value compared. -/
def trigCompare (m : Nat) (t2 v : DWord) : Bool :=
  let low := v.setWidth 32 &&& (t2 >>> 32).setWidth 32 = t2.setWidth 32
  let high := (v >>> 32).setWidth 32 &&& (t2 >>> 32).setWidth 32 = t2.setWidth 32
  let napot := v >>> napotBits 64 t2 = t2 >>> napotBits 64 t2
  match m with
  | 0 => v = t2
  | 1 => napot
  | 2 => t2 ≤ v
  | 3 => v < t2
  | 4 => low
  | 5 => high
  | 8 => v ≠ t2
  | 9 => !napot
  | 12 => !low
  | 13 => !high
  | _ => false

/-- An mcontrol6 trigger matches an access. -/
def trigMatch (t : DWord × DWord) (exec load store : Bool) (mode : Nat) (vaddr value : DWord) : Bool :=
  bitsOf t.1 60 4 = 6 &&
    ((exec && t.1.getLsbD 2) || (load && t.1.getLsbD 0) || (store && t.1.getLsbD 1)) &&
    (if mode = 3 then t.1.getLsbD 6 else if mode = 1 then t.1.getLsbD 4 else mode = 0 && t.1.getLsbD 3) &&
    bitsOf t.1 16 3 = 0 && trigCompare (bitsOf t.1 7 4) t.2 (if t.1.getLsbD 21 then value else vaddr)

/-- The last triggers of the chains that fire, in order, where `p` says which triggers match (R821): `run` holds while every trigger
of the chain so far has matched. -/
def chainEnds (chain p : Nat → Bool) : Bool → List Nat → List Nat
  | _, [] => []
  | run, k :: ks =>
    let now := run && p k
    if chain k then chainEnds chain p now ks
    else if now then k :: chainEnds chain p true ks else chainEnds chain p true ks

/-- A trigger fires with its action (R818, R822, R824): 0 breakpoint exception, 1 Debug Mode (with dmode = 1), 8 external trigger
output 0. -/
def State.trigAction (s : State) (i : Nat) (t1 : DWord) (action : Nat) : State :=
  if action = 0 then s.send (.hartTrigger i 0)
  else if action = 1 then (if t1.getLsbD 59 then (s.send (.hartTrigger i 1)).haltWithGroup i else s)
  else if action = 8 then (s.send (.hartTrigger i 8)).groupHalt (s.hart i).haltGroup (some i)
  else s

/-- TRIGGER_FIRE (R818-R824): the triggers of a running hart see an access, or the event of a trigger of type 3, 4 or 5 comes. -/
def execTriggerFire (hart : Fin 8) (ev : TrigEv) (s : State) : Host.Outcome State Fault Refusal :=
  let i := hart.val
  let x := s.hart i
  .next (if !s.hartRuns i || x.halted then s else
    match ev with
    | .access exec load store mode vaddr value =>
      let ends := chainEnds (fun k => bitsOf (x.trig k).1 60 4 = 6 && (x.trig k).1.getLsbD 11)
        (fun k => trigMatch (x.trig k) exec load store mode.toNat vaddr value) true (List.range 8)
      ends.foldl (fun t k => t.trigAction i (x.trig k).1 (bitsOf (x.trig k).1 12 4)) s
    | .event k =>
      let t1 := (x.trig k).1
      let type := bitsOf t1 60 4
      if 3 ≤ type ∧ type ≤ 5 then s.trigAction i t1 (bitsOf t1 0 6) else s)

/-- HART_HALT (R824, R827, R828, R841): a running hart reaches an instruction boundary with a reason to halt; no hart does while the
JTAG transport holds less than FULL (R813). -/
def execHartHalt (hart : Fin 8) (s : State) : Host.Outcome State Fault Refusal :=
  .next (if s.jtagLevel = 2 then s.haltWithGroup hart else s)

/-- HART_RESUME (R824, R828, R830, R841): a halted hart that has been asked to resumes, and its group with it. -/
def execHartResume (hart : Fin 8) (s : State) : Host.Outcome State Fault Refusal :=
  let x := s.hart hart
  .next (if x.halted && x.resumereq then
    (s.setHart hart { x with resumereq := false, resumeack := true }).resumeWithGroup hart else s)

/-! ### Debug modules (R810-R813, R849) -/

/-- dmstatus (R811, R812): version 1.0, hasresethaltreq and impebreak; a hart whose core is in reset is unavailable. -/
def State.dmStatus (s : State) (h : Nat) : Word :=
  let i := 4 * h + (s.dm h).hart
  let x := s.hart i
  let two (b : Bool) (lo : Nat) : Nat := if b then 3 * 2 ^ lo else 0
  BitVec.ofNat 32 (3 + 0x20 + (if 1 ≤ s.jtagLevel then 0x80 else 0) + two (s.hartRuns i && x.halted) 8 + two (s.hartRuns i && !x.halted) 10 +
    two (!s.hartRuns i) 12 + two x.resumeack 16 + two x.havereset 18 + 0x400000)

/-- sbcs: version 1, 48-bit addresses, accesses of 8 to 64 bits (R811). -/
def DmSt.sbcs (d : DmSt) : Word :=
  BitVec.ofNat 32 (0x2000060F + d.sbbusyerr.toNat * 2 ^ 22 + (d.sbgo.isSome || d.sbtag.isSome).toNat * 2 ^ 21 + d.sbonaddr.toNat * 2 ^ 20 +
    d.sbaccess * 2 ^ 17 + d.sbauto.toNat * 2 ^ 16 + d.sbondata.toNat * 2 ^ 15 + d.sberror * 2 ^ 12)

/-- A system bus access is asked for (R811, R836): a size above 64 bits or an address that is not a multiple of the size is an
error. -/
def DmSt.sbStart (d : DmSt) (write : Bool) : DmSt :=
  if d.sberror ≠ 0 || d.sbbusyerr then d
  else if 3 < d.sbaccess then { d with sberror := 4 }
  else if d.sbaddr.toNat % 2 ^ d.sbaccess ≠ 0 then { d with sberror := 3 }
  else { d with sbgo := some write }

/-- A system bus access runs. -/
def DmSt.sbBusy (d : DmSt) : Bool := d.sbgo.isSome || d.sbtag.isSome

/-- dmcs2 as it reads: the group selected by hgselect and grouptype. -/
def State.dmcs2 (s : State) (h : Nat) : Word :=
  let d := s.dm h
  let x := s.hart (4 * h + d.hart)
  let g := if d.groupSel.getLsbD 0 then (if d.groupSel.getLsbD 11 then d.extResume else d.extHalt)
    else if d.groupSel.getLsbD 11 then x.resGroup else x.haltGroup
  d.groupSel ||| BitVec.ofNat 32 (g * 4)

/-- The registers of a debug module that a read shows. -/
def State.dmRead (s : State) (h reg : Nat) : Word :=
  let d := s.dm h
  if 0x04 ≤ reg ∧ reg < 0x06 then mapGet d.data 0 (reg - 4)
  else if 0x20 ≤ reg ∧ reg < 0x28 then mapGet d.progbuf 0 (reg - 0x20)
  else match reg with
    | 0x10 => BitVec.ofNat 32 (d.hart * 2 ^ 16 + d.active.toNat)
    | 0x11 => s.dmStatus h
    | 0x16 => BitVec.ofNat 32 (8 * 2 ^ 24 + d.cmderr * 2 ^ 8 + 2)
    | 0x1D => if h = 0 then 0x400 else 0
    | 0x32 => s.dmcs2 h
    | 0x38 => d.sbcs
    | 0x39 => d.sbaddr.setWidth 32
    | 0x3A => (d.sbaddr >>> 32).setWidth 32
    | 0x3C => d.sbdata.setWidth 32
    | 0x3D => (d.sbdata >>> 32).setWidth 32
    | 0x40 => (List.range 4).foldl (fun w c => if (s.hart (4 * h + c)).halted then w ||| BitVec.twoPow 32 c else w) 0
    | 0x70 => s.csr (DBG_HOLD h)
    | 0x71 => s.csr (DBG_SBA_STAT h)
    | 0x72 => BitVec.ofNat 32 s.jtagLevel
    | _ => 0

/-- What a read of a debug-module register does besides: a read of sbdata0 (R811). -/
def State.dmReadEffect (s : State) (h reg : Nat) : State :=
  let d := s.dm h
  if reg ≠ 0x3C then s
  else if d.sbBusy then s.setDm h { d with sbbusyerr := true }
  else if d.sbondata then s.setDm h (d.sbStart false) else s

/-- dmactive = 0 resets a debug module; what its harts were asked for is withdrawn. -/
def State.dmReset (s : State) (h : Nat) : State :=
  ((List.range 4).foldl (fun t c =>
    t.setHart (4 * h + c) { t.hart (4 * h + c) with haltreq := false, resumereq := false, resetHalt := false, haltGroup := 0, resGroup := 0 })
    s).setDm h DmSt.zero

/-- A write of dmcontrol. -/
def State.dmControl (s : State) (h : Nat) (v : Word) : State :=
  if !v.getLsbD 0 then s.dmReset h else
  let c := bitsOf v 16 2
  let s1 := s.setDm h { s.dm h with active := true, hart := c }
  let x := s1.hart (4 * h + c)
  let hr := v.getLsbD 31
  let rr := v.getLsbD 30 && !hr && x.halted
  s1.setHart (4 * h + c) { x with
    haltreq := hr, resumereq := rr || (x.resumereq && !hr), resumeack := x.resumeack && !(v.getLsbD 30 && !hr)
    havereset := x.havereset && !v.getLsbD 28, resetHalt := (x.resetHalt || v.getLsbD 3) && !v.getLsbD 2 }

/-- A write of dmcs2 (R811, R823, R824): groups 0-7. -/
def State.dmcs2Write (s : State) (h : Nat) (v : Word) : State :=
  let d := { s.dm h with groupSel := v &&& 0x801#32 }
  let g := bitsOf v 2 5
  let s1 := s.setDm h d
  if !v.getLsbD 1 || 7 < g then s1
  else if v.getLsbD 0 then
    (if bitsOf v 7 4 ≠ 0 then s1 else s1.setDm h (if v.getLsbD 11 then { d with extResume := g } else { d with extHalt := g }))
  else
    let x := s1.hart (4 * h + d.hart)
    s1.setHart (4 * h + d.hart) (if v.getLsbD 11 then { x with resGroup := g } else { x with haltGroup := g })

/-- The trigger a hart's tselect names. -/
def HartSt.tselect (x : HartSt) : Nat := (mapGet x.regs 0 0x7A0).toNat % 8

/-- A register of a halted hart: what the debugger has left there, or what it holds, which the model does not compute (log
entry 3). -/
def State.hartRegRead (s : State) (i reg : Nat) : DWord × State :=
  let x := s.hart i
  if reg = 0x1000 then (0, s)
  else if reg = 0x7A0 then (BitVec.ofNat 64 x.tselect, s)
  else if reg = 0x7A1 then ((x.trig x.tselect).1, s)
  else if reg = 0x7A2 then ((x.trig x.tselect).2, s)
  else match mapGet (x.regs.map fun kv => (kv.1, some kv.2)) none reg with
    | some v => (v, s)
    | none =>
      let r := s.free
      (r.1.setWidth 64, r.2.setHart i { x with regs := mapSet x.regs 0 reg (r.1.setWidth 64) })

/-- A register of a halted hart is written: dcsr holds stoptime, tdata1 and tdata2 are those of the trigger selected. -/
def State.hartRegWrite (s : State) (i reg : Nat) (v : DWord) : State :=
  let x := s.hart i
  if reg = 0x1000 then s
  else if reg = 0x7A1 then s.setHart i { x with trigs := mapSet x.trigs 0 (2 * x.tselect) v }
  else if reg = 0x7A2 then s.setHart i { x with trigs := mapSet x.trigs 0 (2 * x.tselect + 1) v }
  else
    let y := { x with regs := mapSet x.regs 0 reg v }
    s.setHart i (if reg = 0x7B0 then { y with stoptime := v.getLsbD 9 } else y)

/-- An abstract command: Access Register of a GPR, an FPR or a CSR, 32 or 64 bits wide; the program buffer leaves unknown values in the
registers (R811). -/
def State.dmCommand (s : State) (h : Nat) (v : Word) : State :=
  let d := s.dm h
  let i := 4 * h + d.hart
  let reg := bitsOf v 0 16
  let size := bitsOf v 20 3
  if d.cmderr ≠ 0 then s
  else if bitsOf v 24 8 ≠ 0 || size < 2 || 3 < size || 0x103F < reg || v.getLsbD 19 then s.setDm h { d with cmderr := 2 }
  else if !(s.hart i).halted then s.setDm h { d with cmderr := 4 }
  else
    let s1 := if !v.getLsbD 17 then s
      else if v.getLsbD 16 then
        let low := mapGet d.data 0 0
        let high : Word := if size = 3 then mapGet d.data 0 1 else if low.msb then 0xFFFFFFFF#32 else 0#32
        s.hartRegWrite i reg (high ++ low)
      else
        let r := s.hartRegRead i reg
        let low : Word := r.1.setWidth 32
        let data := mapSet d.data 0 0 low
        r.2.setDm h { d with data := if size = 3 then mapSet data 0 1 ((r.1 >>> 32).setWidth 32) else data }
    if v.getLsbD 18 then s1.setHart i { s1.hart i with regs := [] } else s1

/-- A write of DBG_HOLD (R841). -/
def State.holdWrite (s : State) (h : Nat) (v : Word) : State :=
  (List.range 4).foldl (fun t c =>
    let x := t.hart (4 * h + c)
    (t.setHart (4 * h + c) { x with wdtHeld := x.halted && v.getLsbD c && t.bit (WDT_CORE_CTL_EN h c) }).showHeld (4 * h + c))
    (s.setFld (DBG_HOLD_HOLD h) (bitsOf v 0 4))

/-- A write of a debug-module register. -/
def State.dmWrite (s : State) (h reg : Nat) (v : Word) : State :=
  let d := s.dm h
  if reg = 0x10 then s.dmControl h v
  else if reg = 0x70 then s.holdWrite h v
  else if !d.active then s
  else if 0x04 ≤ reg ∧ reg < 0x06 then s.setDm h { d with data := mapSet d.data 0 (reg - 4) v }
  else if 0x20 ≤ reg ∧ reg < 0x28 then s.setDm h { d with progbuf := mapSet d.progbuf 0 (reg - 0x20) v }
  else match reg with
    | 0x16 => s.setDm h { d with cmderr := d.cmderr &&& (7 - bitsOf v 8 3) }
    | 0x17 => s.dmCommand h v
    | 0x32 => s.dmcs2Write h v
    | 0x38 => s.setDm h { d with
        sbbusyerr := d.sbbusyerr && !v.getLsbD 22, sbonaddr := v.getLsbD 20, sbaccess := bitsOf v 17 3, sbauto := v.getLsbD 16
        sbondata := v.getLsbD 15, sberror := d.sberror &&& (7 - bitsOf v 12 3) }
    | 0x39 => if d.sbBusy then s.setDm h { d with sbbusyerr := true } else
        let e := { d with sbaddr := d.sbaddr.extractLsb' 32 16 ++ v }
        s.setDm h (if d.sbonaddr then e.sbStart false else e)
    | 0x3A => if d.sbBusy then s.setDm h { d with sbbusyerr := true } else s.setDm h { d with sbaddr := v.setWidth 16 ++ d.sbaddr.setWidth 32 }
    | 0x3C => if d.sbBusy then s.setDm h { d with sbbusyerr := true } else
        s.setDm h ({ d with sbdata := (d.sbdata >>> 32).setWidth 32 ++ v }.sbStart true)
    | 0x3D => if d.sbBusy then s.setDm h { d with sbbusyerr := true } else s.setDm h { d with sbdata := v ++ d.sbdata.setWidth 32 }
    | _ => s

/-- A DMI access that the debug level permits (R812, R813): dmstatus, hartinfo and nextdm are readable at NONE; OBSERVE reads the rest,
selects harts and sets up system bus reads; FULL does everything. -/
def dmiPermitted (level : Nat) (write : Bool) (reg : Nat) (v : Word) : Bool :=
  if !write then 1 ≤ level || reg = 0x11 || reg = 0x12 || reg = 0x1D
  else 2 ≤ level || (level = 1 && ((reg = 0x10 && v &&& 0xF000001E#32 = 0) || (0x37 ≤ reg && reg ≤ 0x3B)))

/-- DMI_ACCESS (R810-R813): the modules lie at DMI addresses 0x000 and 0x400. -/
def execDmiAccess (write : Bool) (addr : BitVec 12) (data : Word) (s : State) : Host.Outcome State Fault Refusal :=
  let h := addr.toNat / 0x400
  let reg := addr.toNat % 0x400
  .next (if !dmiPermitted s.jtagLevel write reg data then s.send (.dmi 2 0)
    else if 2 ≤ h || !s.hubAnswers h then s.send (.dmi 0 0)
    else if write then (s.dmWrite h reg data).send (.dmi 0 0)
    else (s.dmReadEffect h reg).send (.dmi 0 (s.dmRead h reg)))

/-- sberror for a completion status (R837). -/
def sbErrorOf (st : Status) : Nat :=
  match st with
  | .ok => 0
  | .errTimeout => 1
  | .errTarget => 2
  | .poison | .errDenied | .errFenced => 7

/-- A system bus access of a debug module has completed (R837). -/
def State.sbaTake (s : State) (h : Nat) (write : Bool) (c : Delivered) : State :=
  let d := s.dm h
  let w := BitVec.ofNat 32 (statusCode c.status + rsnCode c.rsn * 8 + c.late.toNat * 128 + c.peek.toNat * 256)
  let n := 2 ^ d.sbaccess
  let data : DWord := if write || 2 ≤ statusCode c.status then d.sbdata else
    BitVec.ofNat 64 (leNat ((c.bytes.take n).map Prod.fst) + d.sbdata.toNat / 2 ^ (8 * n) * 2 ^ (8 * n))
  let next := if d.sbauto && c.status = .ok then d.sbaddr + BitVec.ofNat 48 n else d.sbaddr
  ((s.dropInbox c.stop c.tag).setCsr (DBG_SBA_STAT h) w).setDm h
    { d with sbtag := none, sbdata := data, sbaddr := next, sberror := sbErrorOf c.status }

/-- SBA_ACCESS (R836, R837): the DAP of a hub sends the access that its debug module has asked for, or takes its completion. -/
def execSbaAccess (hub : Fin 2) (s : State) : Host.Outcome State Fault Refusal :=
  let h := hub.val
  let d := s.dm h
  let stop := hubStop h 10
  .next (if !s.hubAnswers h then s else
    match d.sbtag, d.sbgo with
    | some (tag, write), _ => (match s.inboxAt stop tag with
      | some c => s.sbaTake h write c
      | none => s)
    | none, some write => (match s.freeTag stop with
      | some tag =>
        (s.setDm h { d with sbgo := none, sbtag := some (tag, write) }).issue {
          stop := BitVec.ofNat 9 stop, tag := BitVec.ofNat 13 tag, mid := BitVec.ofNat 12 (0x030 + h), cls := .p
          opc := if write then 1 else 0, addr := d.sbaddr, lenm1 := BitVec.ofNat 8 (2 ^ d.sbaccess - 1), dbg := true
          imm := if write then d.sbdata &&& BitVec.ofNat 64 (2 ^ (8 * 2 ^ d.sbaccess) - 1) else 0, poison := false, data := [] }
      | none => s)
    | none, none => s)

/-! ### Semaphores (R831-R835) -/

/-- The owner of a semaphore. -/
def State.sem (s : State) (h n : Nat) : Option (BitVec 12) := mapGet s.cpu.sems none (64 * h + n)

/-- Give a semaphore to an owner, or free it. -/
def State.setSem (s : State) (h n : Nat) (o : Option (BitVec 12)) : State :=
  { s with cpu := { s.cpu with sems := mapSet s.cpu.sems none (64 * h + n) o } }

/-- A master ID of a halted hart (R832). -/
def State.midHalted (s : State) (mid : Nat) : Bool :=
  allHarts.any fun i => (s.hart i).halted && (mid = 0x40 + 16 * (i / 4) + 2 * (i % 4) || mid = 0x41 + 16 * (i / 4) + 2 * (i % 4))

/-- HUB_SEM as a master reads it (R831, R832, R846). -/
def State.semWord (s : State) (mid h n : Nat) : Word :=
  match s.sem h n with
  | none => 0
  | some o => BitVec.ofNat 32 ((decide (o.toNat = mid)).toNat + 2 + 4 * (s.midHalted o.toNat).toNat + o.toNat * 65536)

/-- A read of HUB_SEM: a free semaphore is acquired, unless the read has the debug attribute (R831, R835). -/
def State.semRead (s : State) (mid h n : Nat) (dbg : Bool) : Word × State :=
  let s1 := if (s.sem h n).isNone && !dbg then s.setSem h n (some (BitVec.ofNat 12 mid)) else s
  (s1.semWord mid h n, s1)

/-- HUB_SEM_READ (R831, R832, R835). -/
def execHubSemRead (mid : BitVec 12) (hub : Fin 2) (sem : Fin 64) (dbg : Bool) (s : State) : Host.Outcome State Fault Refusal :=
  .next (s.regRead (HUB_SEM hub sem) fun s =>
    let r := s.semRead mid.toNat hub sem dbg
    r.2.send (.readback (HUB_SEM hub sem) (r.1.setWidth 64) dbg))

/-- A semaphore is released by force and logged (R833, R834). -/
def State.semForce (s : State) (h n : Nat) (o : BitVec 12) (lease : Bool) : State :=
  (s.setSem h n none).setCsr (HUB_SEM_LOG h) (BitVec.ofNat 32 (n + 64 * lease.toNat + o.toNat * 65536 + 0x80000000))

/-- A write of HUB_SEM (R833). -/
def State.semWrite (s : State) (mid h n : Nat) : State × Status :=
  match s.sem h n with
  | some o =>
    if o.toNat = mid then (s.setSem h n none, .ok)
    else if s.levelS mid then (s.semForce h n o false, .ok)
    else (s.setFld (HUB_CPU_ERR_SEM_BAD_REL h) 1, .errDenied)
  | none => if s.levelS mid then (s, .ok) else (s.setFld (HUB_CPU_ERR_SEM_BAD_REL h) 1, .errDenied)

/-- HUB_SEM_WRITE (R833). -/
def execHubSemWrite (mid : BitVec 12) (hub : Fin 2) (sem : Fin 64) (s : State) : Host.Outcome State Fault Refusal :=
  .next (s.regWrite (HUB_SEM hub sem) fun s => s.semWrite mid.toNat hub sem)

/-- SEM_LEASE (R834): the owner of a semaphore has been halted for LEASE_US. -/
def execSemLease (hub : Fin 2) (sem : Fin 64) (s : State) : Host.Outcome State Fault Refusal :=
  let h := hub.val
  .next (match s.sem h sem with
    | some o =>
      if s.hubAnswers h && s.fld (HUB_SEM_LEASE_LEASE_US h) ≠ 0 && s.midHalted o.toNat then
        (s.semForce h sem o true).raise (HUB_CPU_ERR_SEM_LEASE h) h 0x01 (hubUnit h) 0 sevUncorrected (s.csr64 (HUB_CPU_BERR_ADDR h)) 0
      else s
    | none => s)

/-! ### Watchdogs (R838-R844) -/

/-- A core watchdog expires (R839): it sets EXPIRED, stops, and interrupts the MC. -/
def State.coreExpired (s : State) (i : Nat) : State :=
  let s1 := s.raise (WDT_CORE_STAT_EXPIRED (i / 4) (i % 4)) (i / 4) 0x0E (hubUnit (i / 4) + i % 4) 0 sevUncorrected 0 0
  { s1 with cpu := { s1.cpu with wdtIrq := if s1.cpu.wdtIrq.contains i then s1.cpu.wdtIrq else s1.cpu.wdtIrq ++ [i] } }.send (.wdtIrq i)

/-- A core watchdog counts: it is enabled and has not expired. -/
def State.coreCounts (s : State) (i : Nat) : Bool :=
  s.bit (WDT_CORE_CTL_EN (i / 4) (i % 4)) && !s.bit (WDT_CORE_STAT_EXPIRED (i / 4) (i % 4))

/-- A write of WDT_CORE_SVC (R838). -/
def State.coreService (s : State) (mid i : Nat) (v : Word) : State × Status :=
  let own := 0x40 + 16 * (i / 4) + 2 * (i % 4)
  if !(mid = own || mid = own + 1 || s.levelS mid) then (s, .errDenied)
  else if v ≠ 0x5A5A#32 && s.coreCounts i then (s.coreExpired i, .ok) else (s, .ok)

/-- WDT_CORE_SVC (R838). -/
def execWdtCoreSvc (mid : BitVec 12) (core : Fin 8) (value : Word) (s : State) : Host.Outcome State Fault Refusal :=
  .next (s.regWrite (WDT_CORE_SVC (core.val / 4) (core.val % 4)) fun s => s.coreService mid.toNat core value)

/-- A write of WDT_CORE_CTL by Level S (R839): EXPIRED and its interrupt end. -/
def State.coreCtlWrite (s : State) (i : Nat) (v : Word) : State :=
  let h := i / 4
  let c := i % 4
  let s1 := ((s.setFld (WDT_CORE_CTL_EN h c) (bitsOf v 0 1)).setFld (WDT_CORE_CTL_TIMEOUT_US h c) (bitsOf v 1 24)).setFld
    (WDT_CORE_STAT_EXPIRED h c) 0
  let x := s1.hart i
  let s2 := (s1.setHart i { x with wdtHeld := x.halted && (s1.fld (DBG_HOLD_HOLD h)).testBit c && v.getLsbD 0 }).showHeld i
  { s2 with cpu := { s2.cpu with wdtIrq := s2.cpu.wdtIrq.filter (· ≠ i) } }

/-- CORE_WDT_EXPIRED (R839-R841): a core watchdog that is not paused reaches 0. -/
def execCoreWdtExpired (core : Fin 8) (s : State) : Host.Outcome State Fault Refusal :=
  .next (if s.hubAnswers (core.val / 4) && s.coreCounts core && !(s.hart core).wdtHeld then s.coreExpired core else s)

/-- The safety watchdog expires (R844). -/
def State.safeWdt (s : State) : State := { s with cpu := { s.cpu with svc := false } }.enterSafe 10

/-- A write of WDT_SAFE_SVC by Level S (R843): `late`, the second word comes more than 100 us after the first; `closed`, the service
falls in the closed part of the period. -/
def State.safeService (s : State) (v : Word) (late closed : Bool) : State :=
  if !s.bit WDT_SAFE_CTL_EN then s
  else if s.cpu.svc then
    (if v = 0xA53C#32 && !late && !closed then { s with cpu := { s.cpu with svc := false } } else s.safeWdt)
  else if v = 0xC35A#32 && !closed then { s with cpu := { s.cpu with svc := true } } else s.safeWdt

/-- WDT_SAFE_SVC (R843). -/
def execWdtSafeSvc (mid : BitVec 12) (value : Word) (late closed : Bool) (s : State) : Host.Outcome State Fault Refusal :=
  .next (levelSWrite s mid WDT_SAFE_SVC fun t => t.safeService value late closed)

/-- A write of WDT_SAFE_CTL by Level S (R842, R848, R909). -/
def State.safeCtlWrite (s : State) (v : Word) : State :=
  if s.bit WDT_SAFE_CTL_EN then s
  else (((s.setFld WDT_SAFE_CTL_EN (bitsOf v 0 1)).setFld WDT_SAFE_CTL_TIMEOUT_MS (bitsOf v 1 14)).setFld WDT_SAFE_CTL_WINDOW
    (bitsOf v 15 2)).watchWake

/-- SAFE_WDT (R842, R844, R909): the safety watchdog reaches 0; it stops in PARK. -/
def execSafeWdt (s : State) : Host.Outcome State Fault Refusal :=
  .next (if s.bit WDT_SAFE_CTL_EN && !s.rst.parked then s.safeWdt else s)

end Sys2Proof.Machine
end

