-- ==== Sys2Proof/Machine/Life.lean ====
section
/-! DEFINITION. Delivery of error reports (R967-R973), recorded history, the calendar and firmware units (R988-R1021). -/

namespace Sys2Proof.Machine

open Sys2Proof

/-! ### Error reports (R966-R971) -/

/-- A report is that of an event. -/
def Report.isOf (r : Report) (block unit code : Nat) : Bool := r.entry.block = block && r.entry.unit = unit && r.entry.code = code

/-- ERROR_REPORT (R967-R971): the MSG packet of a report in flight completes, with OK where the collector runs and has taken it. -/
def execErrorReport (block : Byte) (unit : BitVec 12) (code : Half) (ok : Bool) (s : State) : Host.Outcome State Fault Refusal :=
  let hit (r : Report) : Bool := r.isOf block.toNat unit.toNat code.toNat && r.inFlight
  .next (match s.errs.reports.find? hit with
    | none => s
    | some r =>
      if ok && s.collectorRuns then
        { s with errs := { s.errs with reports := s.errs.reports.filter fun x => !hit x } }.collectCounted r.entry
      else { s with errs := { s.errs with reports := s.errs.reports.map fun (x : Report) => if hit x then { x with inFlight := false } else x } })

/-- ERROR_REPORT_RESEND (R968): 100 us later the block sends a pending report again. -/
def execErrorReportResend (block : Byte) (unit : BitVec 12) (code : Half) (s : State) : Host.Outcome State Fault Refusal :=
  let again (x : Report) : Report := if x.isOf block.toNat unit.toNat code.toNat then { x with inFlight := true } else x
  .next { s with errs := { s.errs with reports := s.errs.reports.map again } }

/-! ### Recorded history (R989, R996-R998) -/

/-- A 32-bit count goes up by one and saturates (R997). -/
def bumpWord (w : Word) : Word := if w = 0xFFFFFFFF#32 then w else w + 1

/-- The bin of a temperature in tenths of a degree (R997). -/
def tempBin (t : Int) : Nat := if 1300 ≤ t then 17 else if t < -400 then 0 else ((t + 400) / 100).toNat

/-- The CSR space of the die on a site, for hubs, port dies and logic dies (R18). -/
def siteDie (site : Nat) : Option Nat :=
  if site = 0x18 then some 0 else if site = 0x28 then some 1 else if site % 16 = 0 then some (2 + site / 16)
  else if isLogicSite site then some (8 + site) else none

/-- The highest reading of a die's sensors; one that is not valid counts as 125 degrees (R997). -/
def State.dieTemp (s : State) (die : Nat) : Int :=
  ((List.range 4).filter (hasSensor die)).foldl (fun (m : Int) i =>
    let w := s.csr (tempKey die i)
    max m (if w.getLsbD 16 then signedOf 16 (bitsOf w 0 16) else 1250)) (-0x8000)

/-- OPERATING_MINUTE (R996, R997): one more minute of operation; it does not count in PARK. -/
def execOperatingMinute (s : State) : Host.Outcome State Fault Refusal :=
  .next (if s.rst.parked then s else
    let h := (List.range 64).foldl (fun (m : Map Word) site =>
      match siteDie site with
      | some die =>
        if s.diePowered die then
          let k := 32 * site + tempBin (s.dieTemp die)
          mapSet m 0 k (bumpWord (mapGet m 0 k))
        else m
      | none => m) s.lts.live.hist
    { s with
      rst := { s.rst with minutes := s.rst.minutes + 1 }
      lts := { s.lts with live := { s.lts.live with minutes := bumpWord s.lts.live.minutes, hist := h } } })

/-- The sectors of the counts that volatile memory holds between writes (R989). -/
def countSectors : List Nat := [0, 5, 9, 10]

/-- LTS_PERIODIC_WRITE (R989, R990): every 60 operating minutes. -/
def execLtsPeriodicWrite (s : State) : Host.Outcome State Fault Refusal :=
  .next (if s.rst.minutes < 60 || !s.mcRuns then s else
    let s1 := countSectors.foldl (fun t lsn => t.ltsWrite lsn) s
    { s1 with rst := { s1.rst with minutes := 0 } })

/-- AGING_READING (R998): a powered die's firmware stores a reading, up to entry 119. -/
def execAgingReading (site : Fin 64) (ratio temp : Half) (s : State) : Host.Outcome State Fault Refusal :=
  let k := site.val
  .next (match siteDie k with
    | none => s
    | some die =>
      let n := mapGet s.lts.live.agingN 0 k
      if s.rst.parked || !s.diePowered die || 120 ≤ n then s else
      { s with lts := { s.lts with live := { s.lts.live with
        aging := mapSet s.lts.live.aging 0 (128 * k + n) (temp ++ ratio)
        agingN := mapSet s.lts.live.agingN 0 k (n + 1) } } }.ltsWrite (0xB + k / 8))

/-! ### The calendar (R1000-R1002) -/

/-- CAL_TICK (R1000-R1002): a tick of the AO clock. -/
def execCalTick (s : State) : Host.Outcome State Fault Refusal :=
  .next (match s.rst.calLoad with
    | some (sec, frac) =>
      ({ s with rst := { s.rst with calSec := sec, calFrac := frac, calLoad := none } }.setFld CAL_STAT_VALID 1).setBit CAL_STAT_COARSE s.rst.onRc
    | none =>
      let n := s.rst.calSec.toNat * 2 ^ 32 + s.rst.calFrac.toNat + if s.rst.onRc then 134218 else 131072
      { s with rst := { s.rst with calSec := BitVec.ofNat 64 (n / 2 ^ 32), calFrac := BitVec.ofNat 32 n } })

/-- A load of the calendar is asked for (R1001). -/
def State.calLoadAt (s : State) (sec : DWord) (frac : Word) : State := { s with rst := { s.rst with calLoad := some (sec, frac) } }

/-- A write of CAL_CTL by Level S: LOAD takes what has been written to CAL_SEC and CAL_FRAC. -/
def State.calCtlWrite (s : State) (v : Word) : State := if v.getLsbD 0 then s.calLoadAt (s.csr64 CAL_SEC) (s.csr CAL_FRAC) else s

/-- CAL_LOAD (R1001). -/
def execCalLoad (mid : BitVec 12) (value : Word) (s : State) : Host.Outcome State Fault Refusal :=
  .next (levelSWrite s mid CAL_CTL fun t => t.calCtlWrite value)

/-! ### Firmware units (R1003-R1015) -/

/-- The image of a slot of a firmware unit passes its check (R949, R1004). -/
def State.slotOk (s : State) (u sl : Nat) : Bool :=
  if u = 10 then s.bcrOk sl else
  let at_ (off n : Nat) : List Byte := (List.range n).map fun i => s.flashByte (slotBase u sl + off + i)
  let len := leNat (at_ 12 4)
  let pub := at_ 96 96
  let d := Config.sha384 pub
  leNat (at_ 0 4) = 0x57464C51 && leNat (at_ 4 1) = u && leNat (at_ 6 2) = 0 && leNat (at_ 20 28) = 0 && 288 + len ≤ 0x200000 &&
    bytesOf (Config.sha384 (at_ 288 len)) 48 = at_ 48 48 &&
    (List.range 4).any (fun i => mapGet s.cfg.imgKeys 0 i = d && d ≠ 0 && !s.cfg.revoked.getLsbD i) &&
    Config.ecdsaP384 pub (Config.sha384 (at_ 0 192)) (at_ 192 96) &&
    leWord (at_ 16 4) &&& ~~~(s.csr (HUB_PKG_CAP 0)) = 0

/-- A firmware unit restarts on a slot (R1007, R1008): while the MC of H0 restarts it serves nothing. -/
def State.fwRestart (s : State) (u : Nat) : State := { s with rst := { s.rst with restart := some u } }

/-- The unit that restarts runs its slot. -/
def State.fwStarted (s : State) : State := { s with rst := { s.rst with restart := none } }.mcServe

/-- FW_ACTIVATE is complete: the unit runs its new slot. -/
def State.fwRuns (s : State) : State := s.fwStarted.accDone 0x0701 stOk []

/-- NO_START (R1009): the unit does not run its new slot within 1 s of its restart and returns to its committed one. -/
def execNoStart (unit : Fin 10) (s : State) : Host.Outcome State Fault Refusal :=
  .next (if s.rst.restart = some unit.val then
    let x := s.fwUnit unit
    let s1 := (s.setFwUnit unit { x with state := .failed, active := x.committed }).ltsWrite 2
    (s1.accDone 0x0701 stHwFault [3]).fwStarted
    else s)

/-! ### Signature refusals (R1018, R1021) -/

/-- A write of LDC_SIG_ERR: 1 to VALID clears PEER, GATE and VALID; CNT keeps its count. -/
def State.sigErrWrite (s : State) (site : Nat) (v : Word) : State :=
  if v.getLsbD 31 then s.setCsr (LDC_SIG_ERR site) (s.csr (LDC_SIG_ERR site) &&& 0xFFFF#32) else s

/-- LDC_SIG_ERR_CLEAR (R13, R1021). -/
def execLdcSigErrClear (_mid : BitVec 12) (site : Fin 64) (value : Word) (s : State) : Host.Outcome State Fault Refusal :=
  .next (s.regWrite (LDC_SIG_ERR site) fun s => if s.siteGated site then (s, .errFenced) else (s.sigErrWrite site value, .ok))

end Sys2Proof.Machine
end

