-- ==== Sys2Proof/Machine/Inject.lean ====
section
/-! DEFINITION. Error injection (R983-R985). -/

namespace Sys2Proof.Machine

open Sys2Proof

/-- What an injection comes to: done, BUSY, or STATE with its reason. -/
inductive InjectEnd where
  | done (s : State)
  | busy
  | refused (reason : Nat)

/-- An error kind of a target (R983). -/
def injectKnown (target kind : Nat) : Bool :=
  match target with
  | 1 => 1 ≤ kind && kind ≤ 4
  | 2 => kind = 1 || kind = 2
  | 3 => 5 ≤ kind && kind ≤ 7
  | 4 | 5 => kind = 1 || kind = 2 || kind = 8
  | 6 => 9 ≤ kind && kind ≤ 13
  | 7 => kind = 14 || kind = 15
  | _ => false

/-- A stored location is tracked (R985). -/
def State.track (s : State) (target kind key : Nat) : State :=
  { s with errs := { s.errs with injected := s.errs.injected ++ [⟨target, kind, key⟩] } }

/-- A burst with one bit of one device flipped, or one bit in each of two (R983). -/
def burstFlip (kind : Nat) (b : Burst) : Burst := if kind = 1 then burstXorSym b 0 1 else burstXorSym (burstXorSym b 0 1) 4 1

/-- The hub a DDR5 or CXL address belongs to (R4). -/
def addrHub (a : Nat) : Nat := if inCxl a then (a - 0x001000000000) / 0x002000000000 else a / 0x000800000000

/-- The key of the burst that holds a DDR5 line, with its place and physical rank (R983). -/
def State.dramPlace (s : State) (a : Nat) : Option (Nat × LineLoc × Nat) :=
  if 0x001000000000 ≤ a then none else
  match s.locate (addrHub a) (memOffset (addrHub a) a) with
  | some l => (s.physRank l.ch l.rank).map fun k => (dramKey k l, l, k)
  | none => none

/-- Target 1 (R983): a line of DDR5, or commands to its rank. -/
def State.injectDram (s : State) (a kind : Nat) : InjectEnd :=
  match s.dramPlace a with
  | none => .refused 2
  | some (key, l, k) =>
    if kind = 3 ∨ kind = 4 then .done (s.setDmc l.ch { s.dmc l.ch with ca := (s.dmc l.ch).ca ++ [(k, decide (kind = 4), true)] })
    else .done ({ s with mem := { s.mem with dram := mapSet s.mem.dram 0 key (burstFlip kind (s.dramAt key)) } }.track 1 kind key)

/-- Target 2 (R983): a line of stacked SRAM. -/
def State.injectSram (s : State) (a kind : Nat) : InjectEnd :=
  if a < 0x008000000000 ∨ 0x008020000000 ≤ a then .refused 2 else
  let key := (a - 0x008000000000) / 0x10000000 * 2 ^ 22 + a % 0x10000000 / 64
  .done ({ s with mem := { s.mem with sram := mapSet s.mem.sram 0 key (burstFlip kind (mapGet s.mem.sram 0 key)) } }.track 2 kind key)

/-- The stored line at a DDR5 or CXL address with `m` exclusive-ored into its data, its code word whole (R984). -/
def State.xorLine (s : State) (a : Nat) (m : Line) : State :=
  if inCxl a then
    let x := s.cxlRoute (addrHub a) (memOffset (addrHub a) a)
    let v := s.cxlAt x
    { s with mem := { s.mem with cxl := mapSet s.mem.cxl ⟨0, false⟩ (x.1 * 2 ^ 30 + x.2 / 64) { v with data := v.data ^^^ m } } }
  else match s.dramPlace a with
    | some (key, _, _) =>
      { s with mem := { s.mem with dram := mapSet s.mem.dram 0 key (strongEncode ((strongDecode (s.dramAt key)).data ^^^ m)) } }
    | none => s

/-- The stored MAC of line `i` of a region with its lowest bit flipped (R519). -/
def State.flipMac (s : State) (h r i : Nat) : State :=
  if s.inlineMac h r then
    match s.dramPlace (s.lineAddr h r i) with
    | some (key, _, _) =>
      let o := lightDecode (s.dramAt key)
      { s with mem := { s.mem with dram := mapSet s.mem.dram 0 key (lightEncode o.data (o.mac ^^^ 1)) } }
    | none => s
  else s.xorLine (s.macLineAddr h r (i / 8)) (BitVec.twoPow 512 (64 * (i % 8)))

/-- Target 3 (R983, R985): copies of the L0 node of a line of an ENC_INT region, or its stored MAC. -/
def State.injectTree (s : State) (a kind : Nat) : InjectEnd :=
  let h := addrHub a
  if 0x005000000000 ≤ a then .refused 2 else
  match s.regionAt h a with
  | none => .refused 2
  | some r =>
    let i := (a - s.rgnBase h r) / 64
    let k := i / 32
    let fresh := match (s.lineNode h r i).1 with
      | .node n => nodeMinor n (i % 32) = 0 || nodeMinor n (i % 32) = lostMark
      | .broken => false
      | _ => true
    if s.rgnMode h r ≠ 2 || !s.installed h a then .refused 2
    else if fresh then .refused 3
    else if kind = 7 then .done ((s.flipMac h r i).track 3 kind (3 * 2 ^ 60 + 2 ^ 48 * h + s.lineAddr h r i))
    else
      let q := metaIndex (s.rgnLog h r) 0 k
      let m0 := s.metaAddr h r q 0
      let m1 := s.metaAddr h r q 1
      let s1 := (s.xorLine m0 1).track 3 kind (2 ^ 48 * h + m0)
      .done (if kind = 6 then (s1.xorLine m1 1).track 3 kind (2 ^ 48 * h + m1) else s1)

/-- The place of logical acre `a` of a logical die. -/
def State.injectPlace (s : State) (ld a : Nat) : Option (Nat × Nat) := (s.acrePlace ld a).map fun pl => (pl / 4, pl % 4)

/-- A bushel row marked poisoned (R202, R203). -/
def rowPoison (cfg : BitVec 64) (row : BitVec 109) : BitVec 109 :=
  if bshLight cfg then
    let r := (List.range (bshGroups cfg)).foldl (fun r j => rowPutGroup cfg r j (rowData cfg r j) true) row
    if bshGroup cfg = 8 then r else rowPut r 104 4 15
  else rowPut row 104 1 1

/-- Target 4 (R983): a row of a bushel. -/
def State.injectBushel (s : State) (loc kind : Nat) : InjectEnd :=
  let b := loc / 64 % 1024
  let row := loc / 2 ^ 16 % 1024
  match s.injectPlace (loc % 64) (b / 192) with
  | some (site, pa) =>
    if 768 ≤ b ∨ 2 ^ 26 ≤ loc then .refused 2 else
    let pb := 192 * pa + b % 192
    let old := s.bshRowAt site pb row
    let new := if kind = 8 then rowPoison (s.bshCfg site pb) old else old ^^^ (if kind = 1 then 1 else 3)
    .done ((s.setBshRow site pb row new).track 4 kind (bushelKey site pb * 1024 + row))
  | none => .refused 2

/-- Target 5 (R983): a data word of a MAC tile. -/
def State.injectTile (s : State) (loc kind : Nat) : InjectEnd :=
  let t := loc / 64 % 128
  match s.injectPlace (loc % 64) (t / 32) with
  | some (site, pa) =>
    if 2 ^ 22 ≤ loc then .refused 2 else
    let key := tmemKey site (32 * pa + t % 32) (loc / 2 ^ 21 % 2) (loc / 2 ^ 13 % 256)
    let old := s.tword key
    let new := if kind = 8 then old ||| BitVec.twoPow 105 104 else old ^^^ (if kind = 1 then 1 else 3)
    .done ({ s with fab := { s.fab with tmem := mapSet s.fab.tmem 0 key new } }.track 5 kind key)
  | none => .refused 2

/-- Targets 6 and 7 (R983, R984): the next COUNT flits or groups; the lane of kind 15 fails until the next training. -/
def State.injectWire (s : State) (target loc kind count : Nat) : InjectEnd :=
  if target = 6 && 60 ≤ loc || target = 7 && !(loc < 131 && linkExists loc) then .refused 2 else
  let s1 := { s with errs := { s.errs with wire := s.errs.wire ++ [(loc, kind, max 1 count)] } }
  .done (if s.injectedAt target loc then s1 else s1.track target kind loc)

/-- INJECT (R983-R985): at most 16 stored locations are tracked. -/
def State.inject (s : State) (target loc kind count : Nat) : InjectEnd :=
  if 16 ≤ (s.errs.injected.filter fun i => i.target ≤ 5).length then .busy
  else if !injectKnown target kind then .refused 1
  else match target with
    | 1 => s.injectDram loc kind
    | 2 => s.injectSram loc kind
    | 3 => s.injectTree loc kind
    | 4 => s.injectBushel loc kind
    | 5 => s.injectTile loc kind
    | _ => s.injectWire target loc kind count

end Sys2Proof.Machine
end

