-- ==== Sys2Proof/Machine/Command.lean ====
section
/-! DEFINITION. The commands of R788, each carried out when it is the next one the management controller takes up (R774-R791). -/

namespace Sys2Proof.Machine

open Sys2Proof

/-! ### How commands end -/

/-- The front command leaves the queue and is answered ACCEPTED (R775). -/
def State.acceptFront (s : State) (w : Waiting) : State := s.popWaiting.acceptedTo w none

/-- Carry out the front command, if its opcode is `op`, as one that answers ACCEPTED at once (R775): `g` starts its operation. -/
def State.cmdAccept (s : State) (op : Nat) (g : Waiting → State → State) : State :=
  match s.front op with
  | none => s
  | some w => g w (s.acceptFront w)

/-- An ACCEPTED command of `op` that nothing has ended. -/
def State.accRuns (s : State) (op : Nat) : Option Waiting :=
  (s.cmd.accs.find? fun a => a.cmd.op = op && a.result.isNone).map (·.cmd)

/-- The rights fence of FENCE_RIGHTS is complete: both engines are done and no request admitted by a firewall before GO is left (R400,
R788). -/
def State.rightsFenced (s : State) : Bool :=
  s.bit (MPE_FENCE_DONE 0) && s.bit (MPE_FENCE_DONE 1) &&
    s.cmd.fenceIns.all fun f => !(s.fwall f.1).ins.any fun i => i.tag = f.2.tag && i.x = f.2.x

/-- The operations of FENCE_RIGHTS, RESEAL_RANGE and FW_ACTIVATE have ended if nothing of them is left to do: a firmware unit that does
not fail its restart runs (R775, R1007). -/
def State.settleAccs (s : State) (op : Nat) : State :=
  if op = 0x0405 then (if s.rightsFenced then s.accDone op stOk [] else s)
  else if op = 0x0303 then
    (match s.accRuns op with
      | some w => if s.bit (MPE_RESEAL_CTL_BUSY (argAt w.args 0 % 2)) then s else s.accDone op stOk []
      | none => s)
  else if op = 0x0701 then (if s.rst.restart.isSome then s.fwRuns else s)
  else s

/-- COMMAND_COMPLETION (R775, R776, R778): the completion of an ACCEPTED command whose operation has ended is sent. -/
def execCommandCompletion (transport : Fin 7) (tag : BitVec 16) (s : State) : Host.Outcome State Fault Refusal :=
  let hit (a : Acc) : Bool := a.cmd.tr = transport.val && a.cmd.tag = tag.toNat
  .next (match s.cmd.accs.find? hit with
    | none => s
    | some a0 =>
      let s1 := if a0.result.isNone then s.settleAccs a0.cmd.op else s
      match s1.cmd.accs.find? hit with
      | some a => (match a.result with
        | some (st, res) =>
          if s1.mcRuns && s1.accEnded a then
            { s1 with cmd := { s1.cmd with accs := s1.cmd.accs.filter (· ≠ a) } }.showAccs.pushReply transport
              ⟨mkReply transport a.cmd.seq a.cmd.ver 1 st (replyWord1 tag.toNat res) res, .completion⟩
          else s1
        | none => s1)
      | none => s1)

/-- A word as a number of 32 bits. -/
def wordOf (n : Nat) : Word := BitVec.ofNat 32 n

/-- A 64-bit value as two words, low first (R788). -/
def twoWords (v : DWord) : List Word := [v.setWidth 32, (v >>> 32).setWidth 32]

/-- The parameter words from `i` on as bytes. -/
def argBytes (args : List Word) (i n : Nat) : List Byte := wordBytes ((args.drop i).take n)

/-! ### Information (0x00xx, 0x01xx, R788, R976) -/

/-- NOP (R788). -/
def execNop (s : State) : Host.Outcome State Fault Refusal := .next (s.cmdRun 0x0000 fun _ t => (.final stOk [], t))

/-- GET_ID (R1, R788). -/
def execGetId (s : State) : Host.Outcome State Fault Refusal :=
  .next (s.cmdRun 0x0001 fun _ t =>
    (.final stOk ([t.csr (HUB_PKG_CAP 0), wordOf (t.cmd.grade2.toNat + 2 * (!t.rst.xdies.isEmpty).toNat)] ++ twoWords (t.csr64 (HUB_SERIAL 0)) ++
      twoWords (t.csr64 CFG_IMG_ID)), t))

/-- GET_VERSION (R788, R1011). -/
def execGetVersion (s : State) : Host.Outcome State Fault Refusal :=
  .next (s.cmdRun 0x0002 fun _ t =>
    let n := t.epochN
    let a := (t.fwUnit 0).active
    let slots := (List.range 16).foldl (fun w u => w + (t.fwUnit u).active * 2 ^ u) 0
    (.final stOk [wordOf (t.versions + 3 * 2 ^ 8 + n.toNat * 2 ^ 16 + (decide (n ≠ t.lts.live.epoch)).toNat * 2 ^ 24), t.slotWord 0 a 8,
      t.slotWord 0 (1 - a) 8, wordOf slots], t))

/-- GET_STATE (R788). -/
def execGetState (s : State) : Host.Outcome State Fault Refusal := .next (s.cmdRun 0x0100 fun _ t => (.final stOk [t.csr RST_STAT], t))

/-- An error record as eight words (R966). -/
def ErrRec.words (e : ErrRec) : List Word :=
  twoWords e.time ++ [wordOf e.seq,
    wordOf (e.block % 2 ^ 8 + e.unit % 2 ^ 12 * 2 ^ 8 + e.code % 2 ^ 12 * 2 ^ 20),
    wordOf (e.code % 2 ^ 16 / 2 ^ 12 + e.sev % 4 * 2 ^ 4 + e.tsValid.toNat * 2 ^ 6 + e.inj.toNat * 2 ^ 7 + e.repeats % 256 * 2 ^ 8 +
      e.phase % 16 * 2 ^ 16)] ++ twoWords e.addr ++ [e.info]

/-- GET_ERRLOG (R976). -/
def execGetErrlog (s : State) : Host.Outcome State Fault Refusal :=
  .next (s.cmdRun 0x0101 fun w t =>
    let n := wordOf t.errs.log.length
    match t.errs.log[argAt w.args 0]? with
    | some e => (.final stOk (n :: e.words), t)
    | none => (.final stState [n], t))

/-- CLR_ERRLOG (R976). -/
def execClrErrlog (s : State) : Host.Outcome State Fault Refusal :=
  .next (s.cmdRun 0x0102 fun w t =>
    let log := t.errs.log.drop (argAt w.args 0)
    (.final stOk [], { t with errs := { t.errs with log := log } }.setFld HUB_ERR_STAT_COUNT log.length))

/-! ### Configuration (0x02xx, R706, R739, R788-R791) -/

/-- A GO of operation `op` for the command `code`; one that does not start ends the command with STATE. -/
def State.cfgGo (s : State) (op code : Nat) : State :=
  let s1 := (s.setFld CFG_CMD_OP op).opStart op
  if s1.bit CFG_CMD_REFUSED then s1.accDone code stState [] else s1

/-- CFG_LOAD (R719, R788, R790). -/
def execCfgLoad (s : State) : Host.Outcome State Fault Refusal :=
  .next (s.cmdAccept 0x0200 fun w t => (t.setCsr64 CFG_SRC (BitVec.ofNat 64 (argPair w.args 0))).cfgGo 1 0x0200)

/-- CFG_DATA (R706): a chunk of the pushed image; the first one after a last one begins another image. -/
def execCfgData (s : State) : Host.Outcome State Fault Refusal :=
  .next (s.cmdRun 0x0201 fun w t =>
    let off := argAt w.args 0 % 2 ^ 28
    let old := if t.cfg.pushEnd then [] else t.cfg.pushed
    let data := (argBytes w.args 1 252).zipIdx.foldl (fun m b => mapSet m 0 (off + b.2) b.1) old
    (.final stOk [], { t with cfg := { t.cfg with pushed := data, pushEnd := argAt w.args 0 / 2 ^ 31 = 1 } }))

/-- CFG_UNLOAD (R722, R788, R790). -/
def execCfgUnload (s : State) : Host.Outcome State Fault Refusal :=
  .next (s.cmdAccept 0x0202 fun w t => (t.setCsr CFG_ARG (wordOf (argAt w.args 0))).cfgGo 2 0x0202)

/-- CFG_RELOCATE (R725, R788, R790). -/
def execCfgRelocate (s : State) : Host.Outcome State Fault Refusal :=
  .next (s.cmdAccept 0x0203 fun w t =>
    ((t.setCsr CFG_ARG (wordOf (argAt w.args 0))).setCsr64 CFG_BUF (BitVec.ofNat 64 (argPair w.args 1))).cfgGo 3 0x0203)

/-- CFG_READBACK (R737, R788): an acre under load cannot be read. -/
def execCfgReadback (s : State) : Host.Outcome State Fault Refusal :=
  .next (s.cmdAccept 0x0204 fun w t =>
    let t1 := (t.setCsr CFG_ARG (wordOf (argAt w.args 0))).setCsr64 CFG_BUF (BitVec.ofNat 64 (argPair w.args 1))
    if t1.acreState (argAt w.args 0) = acLoading then t1.accDone 0x0204 stState [] else t1.cfgGo 4 0x0204)

/-- HOST_PREP (R724, R788). -/
def execHostPrep (s : State) : Host.Outcome State Fault Refusal :=
  .next (s.cmdAccept 0x0205 fun w t => (t.setCsr CFG_ARG (wordOf (argAt w.args 0))).cfgGo 5 0x0205)

/-- RETIRE_DIE (R33, R35, R735, R788, R791): the retirement is stored before the operation runs. -/
def execRetireDie (s : State) : Host.Outcome State Fault Refusal :=
  .next (s.cmdAccept 0x0206 fun w t =>
    let t1 := t.setCsr CFG_ARG (wordOf (argAt w.args 0))
    let t2 := match t1.siteOf (argAt w.args 0) with
      | some site => t1.retireSite site
      | none => t1
    t2.cfgGo 6 0x0206)

/-- CFG_STATUS (R788). -/
def execCfgStatus (s : State) : Host.Outcome State Fault Refusal :=
  .next (s.cmdRun 0x0207 fun _ t => (.final stOk [t.cfgStat, t.csr CFG_CMD, t.csr CFG_ERR_INFO, t.csr CFG_PAUSE], t))

/-! ### Memory (0x03xx, R772, R777, R788) -/

/-- The transfer of a MEM_READ or MEM_WRITE goes on as far as it can; when it has ended, the command is answered. -/
def State.memPump (s : State) : State :=
  match s.cmd.xfer with
  | none => s
  | some (w, x) =>
    let r := State.xferPump 6 s x
    if r.1.ended then
      let data := if x.write then [] else packWords32 (r.1.got.map (·.1))
      { r.2 with cmd := { r.2.cmd with xfer := none } }.answer w.tr w.seq w.ver w.tag stOk (r.1.result :: data)
        (4 * r.1.peek.toNat + 8 * r.1.late.toNat)
    else { r.2 with cmd := { r.2.cmd with xfer := some (w, r.1) } }

/-- A transfer of a command begins under the master ID of its transport (R750, R777). -/
def State.memStart (s : State) (op : Nat) : State :=
  match s.front op with
  | none => s
  | some w =>
    let s1 := s.popWaiting
    let write : Bool := op = 0x0301
    let x := Xfer.start (hubStop 0 12) (0x100 + tidOf w.tr) write w.dbg (argPair w.args 0) (argAt w.args 2)
      (if write then (argBytes w.args 3 253).take (argAt w.args 2) else [])
    { s1 with cmd := { s1.cmd with xfer := some (w, x) } }.memPump

/-- MEM_READ (R772, R777). -/
def execMemRead (s : State) : Host.Outcome State Fault Refusal := .next (s.memStart 0x0300)

/-- MEM_WRITE (R777). -/
def execMemWrite (s : State) : Host.Outcome State Fault Refusal := .next (s.memStart 0x0301)

/-- RANK_MIGRATE (R452, R788). -/
def execRankMigrate (s : State) : Host.Outcome State Fault Refusal :=
  .next (s.cmdRun 0x0302 fun w t =>
    let a := argAt w.args 0
    let h := a % 2
    let c := a / 2 % 2
    let v := t.csr (DMC_MIG h c) &&& 0x700#32 ||| wordOf (0x800 + a / 4 % 4 * 2 ^ 12)
    (.final stOk [], t.migCtlWrite (2 * h + c) v))

/-- RESEAL_RANGE (R530, R788). -/
def execResealRange (s : State) : Host.Outcome State Fault Refusal :=
  .next (s.cmdAccept 0x0303 fun w t =>
    let a := argAt w.args 0
    let h := a % 2
    let busy := t.bit (MPE_RESEAL_CTL_BUSY h)
    let t1 := (t.setCsr64 (MPE_RESEAL_BASE h) (BitVec.ofNat 64 (argPair w.args 1))).resealWrite h
      (wordOf (a / 2 % 16 + a / 32 % 64 * 16 + 0x400))
    if !busy && t1.bit (MPE_RESEAL_CTL_BUSY h) then t1 else t1.accDone 0x0303 stState [])

/-! ### Keys, rights and debug authorization (0x04xx, R505-R509, R786, R788, R792, R814-R817) -/

/-- MPE_KEY_CMD as the MC leaves it; MPE_KWRAP is cleared (R508, R565). -/
def State.keyCmdDone (s : State) (h slot op : Nat) : State := (s.clearKwrap h).setCsr (MPE_KEY_CMD h) (wordOf (slot + 32 * op))

/-- KEY_LOAD (R507, R509, R788). -/
def execKeyLoad (s : State) : Host.Outcome State Fault Refusal :=
  .next (s.cmdRun 0x0400 fun w t =>
    let h := argAt w.args 0 % 2
    let slot := argAt w.args 0 / 2 % 32
    let busy := t.slotBusy h slot
    let r := t.keyLoad h slot (argBytes w.args 1 18)
    (.final (if r.1 then stOk else if busy then stState else stDenied) [], r.2.keyCmdDone h slot 1))

/-- KEY_ERASE (R509, R788). -/
def execKeyErase (s : State) : Host.Outcome State Fault Refusal :=
  .next (s.cmdRun 0x0401 fun w t =>
    let h := argAt w.args 0 % 2
    let slot := argAt w.args 0 / 2 % 32
    if t.slotBusy h slot then (.final stState [], t.setFld (MPE_ERR_KEY_BUSY h) 1) else (.final stOk [], t.setKey h slot none))

/-- KEY_GENERATE (R507, R509, R788): `random` is the key pair that the security engine's generator gives. -/
def execKeyGenerate (random : BitVec 512) (s : State) : Host.Outcome State Fault Refusal :=
  .next (s.cmdRun 0x0402 fun w t =>
    let h := argAt w.args 0 % 2
    let slot := argAt w.args 0 / 2 % 32
    if t.slotBusy h slot then (.final stState [], t.setFld (MPE_ERR_KEY_BUSY h) 1)
    else (.final stOk (packWords32 (kwWrap (t.kek (1 + h)) (bytesOf random 64))), t.setKey h slot (some random)))

/-- RIGHTS_SET (R555, R788). -/
def execRightsSet (s : State) : Host.Outcome State Fault Refusal :=
  .next (s.cmdRun 0x0403 fun w t =>
    let a := argAt w.args 0
    let v : DWord := BitVec.ofNat 64 (argPair w.args 1) &&& 0x3FFFFFFFF#64
    (.final stOk [], (List.range 2).foldl (fun u h => if a.testBit h then u.setCsr64 (MPE_RIGHTS h (a / 2 ^ 16)) v else u) t))

/-- FWL_WINDOW (R399, R400, R788). -/
def execFwlWindow (s : State) : Host.Outcome State Fault Refusal :=
  .next (s.cmdRun 0x0404 fun w t =>
    let a := argAt w.args 0
    let cfg := wordOf (argAt w.args 3)
    let h := a % 2
    let t1 := (t.setCsr64 (FWL_WIN_BASE h (a / 2)) (BitVec.ofNat 64 (argPair w.args 1) &&& 0xFFFFFFFFF000#64)).fwlWinWrite h (a / 2) cfg
    (.final (if cfg.getLsbD 11 && !(t1.csr (FWL_WIN_CFG h (a / 2))).getLsbD 11 then stState else stOk) [], t1))

/-- FENCE_RIGHTS (R400, R559, R788, R808). -/
def execFenceRights (s : State) : Host.Outcome State Fault Refusal :=
  .next (s.cmdAccept 0x0405 fun _ t =>
    let t1 := (t.fenceGo 0 1).fenceGo 1 1
    { t1 with cmd := { t1.cmd with fenceIns := (List.range 2).flatMap fun h => (t1.fwall h).ins.map fun i => (h, i) } })

/-- DBG_CHALLENGE (R786, R788, R816): `nonce` is what the security engine draws. -/
def execDbgChallenge (nonce : BitVec 384) (s : State) : Host.Outcome State Fault Refusal :=
  .next (s.cmdRun 0x0406 fun w t =>
    if 8 ≤ t.cmd.fails then (.final stDenied [], t)
    else (.final stOk (packWords32 (bytesOf nonce 48) ++ twoWords (t.csr64 (HUB_SERIAL 0))),
      t.setTr w.tr { t.tr w.tr with chal := some ⟨argAt w.args 0, nonce⟩ }))

/-- What a signed DBG_RESPONSE covers (R792). -/
def State.challengeDigest (s : State) (nonce : BitVec 384) (level k : Nat) : BitVec 384 :=
  Config.sha384 (bytesOf nonce 48 ++ bytesOf (s.csr64 (HUB_SERIAL 0)) 8 ++ [BitVec.ofNat 8 level, BitVec.ofNat 8 (tidOf k)])

/-- DBG_RESPONSE (R786, R792, R814-R816): `late`, the challenge was issued 60 s or more before. -/
def execDbgResponse (late : Bool) (s : State) : Host.Outcome State Fault Refusal :=
  .next (s.cmdRun 0x0407 fun w t =>
    let a := argAt w.args 0
    let level := a % 4
    let idx := a / 256 % 16
    let key := mapGet t.cmd.keys DebugKey.blank idx
    let failed (u : State) : CmdEnd × State := (.final stDenied [], { u with cmd := { u.cmd with fails := u.cmd.fails + 1 } })
    if 3 < idx || key.pub = 0 || key.revoked then failed t else
    match (t.tr w.tr).chal with
    | none => failed t
    | some c =>
      if late then failed t else
      let t1 := t.setTr w.tr { t.tr w.tr with chal := none }
      if Config.ecdsaP384 (bytesOf key.pub 96) (t.challengeDigest c.nonce level w.tr) (argBytes w.args 1 24) then
        let held := max (t.fld (CMD_AUTH_LEVEL w.tr)) (min 2 (min level key.level))
        (.final stOk [wordOf held], t1.setLevel w.tr held)
      else failed t1)

/-- DBG_LOCK (R771, R788, R817). -/
def execDbgLock (s : State) : Host.Outcome State Fault Refusal := .next (s.cmdRun 0x0408 fun w t => (.final stOk [], t.setLevel w.tr 0))

/-- IMGKEY_PROGRAM (R690, R788). -/
def execImgkeyProgram (s : State) : Host.Outcome State Fault Refusal :=
  .next (s.cmdRun 0x0409 fun w t =>
    let i := argAt w.args 0 % 4
    if mapGet t.cfg.imgKeys 0 i ≠ 0 then (.final stState [], t)
    else (.final stOk [], { t with cfg := { t.cfg with
      imgKeys := mapSet t.cfg.imgKeys 0 i (BitVec.ofNat 384 (leNat (argBytes w.args 1 12))) } }))

/-- IMGKEY_REVOKE (R690, R788). -/
def execImgkeyRevoke (s : State) : Host.Outcome State Fault Refusal :=
  .next (s.cmdRun 0x040A fun w t =>
    let i := argAt w.args 0 % 4
    if (List.range 4).any fun j => j ≠ i && mapGet t.cfg.imgKeys 0 j ≠ 0 && !t.cfg.revoked.getLsbD j then
      (.final stOk [], { t with cfg := { t.cfg with revoked := t.cfg.revoked ||| BitVec.twoPow 4 i } })
    else (.final stState [], t))

/-- KEK_SET (R507, R690, R788). -/
def execKekSet (s : State) : Host.Outcome State Fault Refusal :=
  .next (s.cmdRun 0x040B fun w t =>
    match kwUnwrap (bytesOf Config.deviceKey 32) (argBytes w.args 1 10) with
    | some k => (.final stOk [], { t with mem := { t.mem with keks := mapSet t.mem.keks 0 (argAt w.args 0) (BitVec.ofNat 256 (leNat k)) } })
    | none => (.final stDenied [], t))

/-! ### Power and reset (0x05xx, R788, R891-R902, R928-R930) -/

/-- PWR_MODE (R788, R898, R901): MODE is written; the WFI that follows is MC_WFI. MODE = RUN ends at once. -/
def execPwrMode (s : State) : Host.Outcome State Fault Refusal :=
  .next (s.cmdAccept 0x0500 fun w t =>
    let m := argAt w.args 0 % 4
    let t1 := t.setFld PWR_MODE_MODE m
    if m = 0 then t1.accDone 0x0500 stOk [] else t1)

/-- PWR_STATUS (R788). -/
def execPwrStatus (s : State) : Host.Outcome State Fault Refusal :=
  .next (s.cmdRun 0x0501 fun _ t =>
    let hot := t.validTemps.foldl (fun (m : Option Int) x => some (max x (m.getD x))) none
    (.final stOk [wordOf (t.fld PWR_MODE_MODE), t.csr PWR_REFUSE_CNT, t.csr PWR_REFUSER, t.csr PWR_PKG, BitVec.ofInt 32 (hot.getD 1250)], t))

/-- PWR_CAP (R788, R924). -/
def execPwrCap (s : State) : Host.Outcome State Fault Refusal :=
  .next (s.cmdRun 0x0502 fun w t => (.final stOk [], t.setFld PWR_CAP_CAP_W (clampTo 20 190 (argAt w.args 0))))

/-- RESET (R788, R928, R930): the reply comes before the reset begins. -/
def execReset (s : State) : Host.Outcome State Fault Refusal :=
  .next (s.cmdRun 0x0503 fun w t =>
    let r := t.resetAsk (argAt w.args 0) (argAt w.args 1)
    (.final (if r.2 then stState else stOk) [], r.1))

/-! ### History and calendar (0x06xx, R34, R788, R995, R999-R1001) -/

/-- The code of a unit's state (R1005). -/
def FwState.code : FwState → Nat
  | .committed => 0
  | .staged => 1
  | .provisional => 2
  | .failed => 3

/-- A record of LT_READ (R999). -/
def State.ltRead (s : State) (kind i : Nat) : Option (List Word) :=
  let l := s.lts.live
  match kind with
  | 1 => if i = 0 then some [l.minutes, l.power, l.warm, l.safe] else none
  | 2 => if i < 64 then some ((List.range 18).map fun k => mapGet l.hist 0 (32 * i + k)) else none
  | 3 => if i / 128 < 64 && i % 128 < 120 then some [mapGet l.aging 0 i, wordOf (mapGet l.agingN 0 (i / 128))] else none
  | 4 => if i < 64 then some ((List.range 4).map fun k => mapGet l.errcnt 0 (4 * i + k)) else none
  | 5 => if i < 8 then some [(s.fieldMask i).setWidth 32] else none
  | 6 => if i < 4 then some [mapGet l.ranks noRanks i, mapGet l.migs 0 i] else none
  | 7 => if i < 16 then
      let x := s.fwUnit i
      let fw : Bool := i < 10
      some [wordOf (x.state.code + 4 * x.active + if fw then (s.slotEpoch i x.active).toNat * 256 else 0), if fw then s.slotWord i 0 8 else 0,
        if fw then s.slotWord i 1 8 else 0]
    else none
  | 8 => if i < 128 then
      let x := s.lts.sect i
      some [wordOf (x.lsn % 256), wordOf x.wcount, x.gen]
    else none
  | _ => none

/-- LT_READ (R788, R999). -/
def execLtRead (s : State) : Host.Outcome State Fault Refusal :=
  .next (s.cmdRun 0x0600 fun w t =>
    match t.ltRead (argAt w.args 0 % 256) (argAt w.args 0 / 256) with
    | some r => (.final stOk r, t)
    | none => (.final stState [], t))

/-- LT_STATUS (R788). -/
def execLtStatus (s : State) : Host.Outcome State Fault Refusal :=
  .next (s.cmdRun 0x0601 fun _ t =>
    (.final stOk [wordOf ((t.lts.spares 0).length + (t.lts.spares 1).length), wordOf t.lts.readOnly.toNat], t))

/-- REPAIR_CLEAR (R34, R788, R995). -/
def execRepairClear (s : State) : Host.Outcome State Fault Refusal :=
  .next (s.cmdRun 0x0602 fun w t =>
    let a := argAt w.args 0
    if t.lts.readOnly then (.final stHwFault [1], t)
    else (.final stOk [], (t.setFieldMask (a % 8) (t.fieldMask (a % 8) &&& ~~~BitVec.twoPow 7 (a / 16 % 8))).ltsWrite 1))

/-- CAL_GET (R788, R1000). -/
def execCalGet (s : State) : Host.Outcome State Fault Refusal :=
  .next (s.cmdRun 0x0603 fun _ t => (.final stOk (twoWords t.rst.calSec ++ [t.rst.calFrac]), t))

/-- CAL_SET (R788, R1001). -/
def execCalSet (s : State) : Host.Outcome State Fault Refusal :=
  .next (s.cmdRun 0x0604 fun w t => (.final stOk [], t.calLoadAt (BitVec.ofNat 64 (argPair w.args 0)) (wordOf (argAt w.args 2))))

/-! ### Firmware and epochs (0x07xx, R788, R995, R1003-R1015) -/

/-- The bytes of a unit's slot: flash for units 0-9, the lifetime store for unit 10 (R1003). -/
def State.slotPut (s : State) (u sl off : Nat) (bs : List Byte) : State :=
  if u = 10 then
    let m := bs.zipIdx.foldl (fun m b => mapSet m 0 (512 * sl + off + b.2) b.1) s.lts.live.bcr
    { s with lts := { s.lts with live := { s.lts.live with bcr := m } } }.ltsWrite (3 + sl)
  else { s with lts := { s.lts with flash := bs.zipIdx.foldl (fun m b => mapSet m 0 (slotBase u sl + off + b.2) b.1) s.lts.flash } }

/-- FW_WRITE (R995, R1003, R1006). -/
def execFwWrite (s : State) : Host.Outcome State Fault Refusal :=
  .next (s.cmdRun 0x0700 fun w t =>
    let u := argAt w.args 0
    let off := argAt w.args 1
    let bs := argBytes w.args 2 251
    let x := t.fwUnit u
    if 10 < u || x.state = .provisional || (if u = 10 then 512 else 0x200000) < off + bs.length then (.final stState [], t)
    else if u = 10 ∧ t.lts.readOnly then (.final stHwFault [1], t)
    else (.final stOk [], (t.slotPut u (1 - x.active) off bs).setFwUnit u { x with state := .staged }))

/-- FW_ACTIVATE is refused (R1003, R1007). -/
def State.activateRefused (s : State) (u : Nat) : Bool :=
  let x := s.fwUnit u
  let e := (s.slotEpoch u (1 - x.active)).toNat
  let c := s.lts.live.epoch.toNat
  10 < u || x.state ≠ .staged || !s.slotOk u (1 - x.active) ||
    (u < 10 && (!(e = c || e = c + 1) || (e = c + 1 && !(s.csr (HUB_PKG_CAP 0)).getLsbD 12)))

/-- FW_ACTIVATE (R780, R788, R995, R1007-R1009). -/
def execFwActivate (s : State) : Host.Outcome State Fault Refusal :=
  .next (s.cmdAccept 0x0701 fun w t =>
    let u := argAt w.args 0
    let x := t.fwUnit u
    if t.lts.readOnly then t.accDone 0x0701 stHwFault [1]
    else if t.activateRefused u then t.accDone 0x0701 stState []
    else
      let t1 := ((t.setFwUnit u { x with state := .provisional, active := 1 - x.active }).ltsWrite 2).setV2 true
      if u = 10 then t1.accDone 0x0701 stOk [] else t1.fwRestart u)

/-- EPOCH_COMMIT (R788, R1013). -/
def execEpochCommit (s : State) : Host.Outcome State Fault Refusal := .next (s.cmdAccept 0x0702 fun _ t => t.epochRun true)

/-- EPOCH_ROLLBACK (R788, R1014). -/
def execEpochRollback (s : State) : Host.Outcome State Fault Refusal := .next (s.cmdAccept 0x0703 fun _ t => t.epochRun false)

/-- MIN_EPOCH_SET (R788). -/
def execMinEpochSet (s : State) : Host.Outcome State Fault Refusal :=
  .next (s.cmdRun 0x0704 fun w t =>
    let n := argAt w.args 0
    if n < t.fld CFG_EPOCH_MIN_EPOCH || t.fld CFG_EPOCH_IMG_EPOCH < n then (.final stState [], t)
    else (.final stOk [], t.setFld CFG_EPOCH_MIN_EPOCH n))

/-- UPD_STATUS (R788, R1005). -/
def execUpdStatus (s : State) : Host.Outcome State Fault Refusal :=
  .next (s.cmdRun 0x0705 fun _ t => (.final stOk [wordOf ((List.range 16).foldl (fun n u => n + (t.fwUnit u).state.code * 4 ^ u) 0)], t))

/-! ### Test (0x08xx, R788, R983-R985) -/

/-- INJECT (R983-R985). -/
def execInject (s : State) : Host.Outcome State Fault Refusal :=
  .next (s.cmdRun 0x0800 fun w t =>
    match t.inject (argAt w.args 0) (argPair w.args 1) (argAt w.args 3 % 256) (argAt w.args 3 / 256) with
    | .done u => (.final stOk [], u)
    | .busy => (.final stBusy [], t)
    | .refused n => (.final stState [wordOf n], t))

/-- SELFTEST (R33, R788): `result` is the BIST result, 0 where the die passes. -/
def execSelftest (result : Word) (s : State) : Host.Outcome State Fault Refusal :=
  .next (s.cmdAccept 0x0801 fun w t =>
    let site := argAt w.args 0
    if !t.isSpare site then t.accDone 0x0801 stState []
    else if result = 0 then t.accDone 0x0801 stOk []
    else (t.retireSite site).accDone 0x0801 stHwFault [result])

/-- LOOPBACK (R788). -/
def execLoopback (s : State) : Host.Outcome State Fault Refusal := .next (s.cmdRun 0x0802 fun w t => (.final stOk w.args, t))

end Sys2Proof.Machine
end

