-- ==== Sys2Proof/Machine/Crc.lean ====
section
/-! DEFINITION. The CRC units of the hubs and port dies (R673-R679, R979). -/

namespace Sys2Proof.Machine

open Sys2Proof

/-- One bit of a reflected CRC register. -/
def crcBitR (poly reg : DWord) : DWord := if reg.getLsbD 0 then (reg >>> 1) ^^^ poly else reg >>> 1

/-- One bit of a CRC register of `w` bits that is not reflected. -/
def crcBitN (w : Nat) (poly reg : DWord) : DWord :=
  let r := (reg <<< 1) &&& BitVec.ofNat 64 (2 ^ w - 1)
  if reg.getLsbD (w - 1) then r ^^^ poly else r

/-- Apply a function `n` times. -/
def repeated (n : Nat) (f : DWord → DWord) (x : DWord) : DWord := (List.range n).foldl (fun r _ => f r) x

/-- One byte into the register of a polynomial (R673): 0 CRC32, 1 CRC32C, 2 CRC16_CCITT, 3 CRC64_ECMA. -/
def crcFeed (poly : Nat) (reg : DWord) (b : Byte) : DWord :=
  match poly with
  | 0 => repeated 8 (crcBitR 0xEDB88320) (reg ^^^ b.setWidth 64)
  | 1 => repeated 8 (crcBitR 0x82F63B78) (reg ^^^ b.setWidth 64)
  | 2 => repeated 8 (crcBitN 16 0x1021) (reg ^^^ (b.setWidth 64 <<< 8))
  | _ => repeated 8 (crcBitN 64 0x42F0E1EBA9EA3693) (reg ^^^ (b.setWidth 64 <<< 56))

/-- Width of a polynomial (R673). -/
def crcWidth (poly : Nat) : Nat := match poly with | 0 | 1 => 32 | 2 => 16 | _ => 64

/-- INIT of a polynomial (R673). -/
def crcInit (poly : Nat) : DWord := match poly with | 0 | 1 => 0xFFFFFFFF | 2 => 0xFFFF | _ => 0

/-- Final XOR of a polynomial (R673). -/
def crcFinal (poly : Nat) : DWord := match poly with | 0 | 1 => 0xFFFFFFFF | _ => 0

/-- The register a computation begins with: INIT XOR FOLD (R673). -/
def crcBegin (poly : Nat) (fold : DWord) : DWord := (crcInit poly ^^^ fold) &&& BitVec.ofNat 64 (2 ^ crcWidth poly - 1)

/-! ### Units -/

/-- The number of a unit in PortState. -/
def crcIndex : CrcUnit → Nat
  | .hub h u => 4 * h + u
  | .port p u => 8 + 2 * p + u

/-- CRC_CTL of a unit. -/
def crcCtl : CrcUnit → Nat
  | .hub h u => HUB_CRC_CTL h u
  | .port p u => PRT_CRC_CTL p u

/-- CRC_FOLD of a unit. -/
def crcFoldKey : CrcUnit → Nat
  | .hub h u => HUB_CRC_FOLD h u
  | .port p u => PRT_CRC_FOLD p u

/-- POLY, OWNED and OWNER of a unit (R679). -/
def crcPoly (u : CrcUnit) : Fld := ⟨crcCtl u, 0, 2⟩
def crcOwned (u : CrcUnit) : Fld := ⟨crcCtl u, 5, 1⟩
def crcOwner (u : CrcUnit) : Fld := ⟨crcCtl u, 16, 12⟩

/-- The computation of a unit. -/
def State.crc (s : State) (u : CrcUnit) : CrcSt := mapGet s.port.crc CrcSt.zero (crcIndex u)

/-- Change the computation of a unit. -/
def State.setCrc (s : State) (u : CrcUnit) (c : CrcSt) : State :=
  { s with port := { s.port with crc := mapSet s.port.crc CrcSt.zero (crcIndex u) c } }

/-- A master owns a unit. -/
def State.crcOwns (s : State) (u : CrcUnit) (mid : Nat) : Bool := s.bit (crcOwned u) && s.fld (crcOwner u) = mid

/-- START takes effect for a master (R674). -/
def State.crcStart (s : State) (u : CrcUnit) (mid poly : Nat) : State :=
  let s1 := ((s.setFld (crcPoly u) poly).setFld (crcOwned u) 1).setFld (crcOwner u) mid
  s1.setCrc u ⟨poly, crcBegin poly (s.csr64 (crcFoldKey u)), 0, none⟩

/-- A unit becomes free (R678). -/
def State.crcFree (s : State) (u : CrcUnit) : State := (s.setFld (crcOwned u) 0).setFld (crcOwner u) 0

/-- A write of CRC_CTL (R674, R678, R679). -/
def State.crcCtlWrite (s : State) (u : CrcUnit) (mid : Nat) (v : Word) : State × Status :=
  let may := !s.bit (crcOwned u) || s.crcOwns u mid
  if v.getLsbD 2 then
    if may then
      let s1 := s.crcStart u mid (bitsOf v 0 2)
      (if v.getLsbD 3 then s1.crcFree u else s1, .ok)
    else (s, .errDenied)
  else if v.getLsbD 3 then
    if s.crcOwns u mid || s.levelS mid then (s.crcFree u, .ok) else (s, .errDenied)
  else if may || s.levelS mid then (s.setFld (crcPoly u) (bitsOf v 0 2), .ok)
  else (s, .errDenied)

/-- A write of CRC_FOLD (R679): by OWNER, or by any master while the unit is free. -/
def State.crcFoldWrite (s : State) (u : CrcUnit) (mid key : Nat) (v : Word) : State × Status :=
  if !s.bit (crcOwned u) || s.crcOwns u mid then (s.setCsr key v, .ok) else (s, .errDenied)

/-- The CSR space, and the UNIT it reports, of a unit (R987). -/
def crcSpace : CrcUnit → Nat × Nat
  | .hub h _ => (h, 2048 * h)
  | .port p u => (2 + p, 0x100 + 2 * p + u)

/-- A write to a unit's data window (R675, R676, R979). -/
def State.crcData (s : State) (u : CrcUnit) (mid : Nat) (bs : List PByte) (rsn : PoisonRsn) : State × Status :=
  if !s.crcOwns u mid then (s, .errDenied)
  else
    let c := s.crc u
    let c1 : CrcSt := { c with reg := (bs.map Prod.fst).foldl (crcFeed c.poly) c.reg, count := c.count + BitVec.ofNat 64 bs.length }
    if bs.any Prod.snd then
      ((s.setCrc u { c1 with poison := some rsn }).report (crcSpace u).1 0x18 (crcSpace u).2 0 sevDeferred 0
        (BitVec.ofNat 32 (s.fld (crcOwner u))), .ok)
    else (s.setCrc u c1, .ok)

/-- CRC_RESULT (R677). -/
def State.crcResult (s : State) (u : CrcUnit) : DWord := (s.crc u).reg ^^^ crcFinal (s.crc u).poly

/-- CRC_START (R674). -/
def execCrcStart (mid : BitVec 12) (u : CrcUnit) (value : Word) (s : State) : Host.Outcome State Fault Refusal :=
  .next (s.regWrite (crcCtl u) fun s => s.crcCtlWrite u mid.toNat (value ||| 4#32))

/-- CRC_DATA_WRITE (R676): bytes in ascending address order, each with the poison of its half. -/
def execCrcDataWrite (mid : BitVec 12) (u : CrcUnit) (data : List (Byte × Bool)) (rsn : PoisonRsn) (s : State) :
    Host.Outcome State Fault Refusal :=
  .next (s.regWrite (crcCtl u) fun s => s.crcData u mid.toNat data rsn)

/-- RELEASE (R678). -/
def execRelease (mid : BitVec 12) (u : CrcUnit) (value : Word) (s : State) : Host.Outcome State Fault Refusal :=
  .next (s.regWrite (crcCtl u) fun s => s.crcCtlWrite u mid.toNat ((value &&& 0xFFFFFFFB#32) ||| 8#32))

end Sys2Proof.Machine
end

