-- ==== Sys2Proof/Machine/Intake.lean ====
section
/-! DEFINITION. The intake units of the port dies (R653-R666): buffers, lines, frame descriptors, and the meanings of the CSI-2
receive commands; and the CSI-2 transmit ports (R669-R672). -/

namespace Sys2Proof.Machine

open Sys2Proof

/-- The stop of a port die's intake unit. -/
def intakeStop (p : Nat) : Nat := portStop p 3

/-- Bytes of a frame's line table (R659). -/
def Frame.tableLen (f : Frame) : Nat := if f.table then (8 * f.maxLines + 63) / 64 * 64 else 0

/-- Offset of a frame's payload in its buffer (R659). -/
def Frame.start (f : Frame) : Nat := 64 + f.tableLen

/-- A range cut into writes of at most 256 bytes that do not cross 4 KiB boundaries (R658). -/
def writeChunks : Nat → Nat → Nat → List (Nat × Nat)
  | 0, _, _ => []
  | n + 1, a, len =>
    if len = 0 then [] else
    let k := min (min 256 len) (4096 - a % 4096)
    (a, k) :: writeChunks n (a + k) (len - k)

/-- One write of a frame goes out with its queue's MID and CLASS (R658). -/
def State.frameChunk (s : State) (p : Nat) (f : Frame) (addr : Nat) (bs : List PByte) : Frame × State :=
  match s.freeTag (intakeStop p) with
  | none => ({ f with fail := some (addr, .errTimeout) }, s)
  | some tag =>
    let req : IssueReq :=
      { stop := BitVec.ofNat 9 (intakeStop p), tag := BitVec.ofNat 13 tag,
        mid := BitVec.ofNat 12 (s.fld (QE_Q_MID_MID f.hub f.queue)), cls := s.qClass f.hub f.queue, opc := 1,
        addr := BitVec.ofNat 48 addr, lenm1 := BitVec.ofNat 8 (bs.length - 1), dbg := false,
        imm := if bs.length ≤ 8 then BitVec.ofNat 64 (leNat (bs.map Prod.fst)) else 0,
        poison := false, data := if bs.length ≤ 8 then [] else packFlits bs }
    ({ f with writes := f.writes ++ [(tag, addr)] }, s.issue req)

/-- Bytes of a frame go to an offset of its buffer: those beyond it are discarded, and nothing is written after a failure
(R663). -/
def State.frameWrite (s : State) (p : Nat) (f : Frame) (off : Nat) (bs : List Byte) : Frame × State :=
  let f1 := { f with trunc := f.trunc || decide (f.size < off + bs.length) }
  if f.fail.isSome || f.fenced then (f1, s) else
  let n := min bs.length (f.size - off)
  (writeChunks n (f.base + off) n).foldl
    (fun acc c => acc.2.frameChunk p acc.1 c.1 (((bs.drop (c.1 - f.base - off)).take c.2).map fun b => (b, false))) (f1, s)

/-- Little-endian bytes of a number (R9). -/
def leBytes (n w : Nat) : List Byte := (List.range w).map fun i => BitVec.ofNat 8 (n / 256 ^ i)

/-- ERR of a frame descriptor (R661). -/
def Frame.err (f : Frame) : Bool :=
  f.crcErrs ≠ 0 || f.eccCorr ≠ 0 || f.eccUnc ≠ 0 || f.dropped ≠ 0 || f.ended = .missing || f.trunc || f.overflow || f.tsLost ||
    f.fcsErr

/-- The frame descriptor (R661), with the frames its source has dropped since the previous one. -/
def Frame.descriptor (f : Frame) (drops : Nat) : BitVec 512 :=
  let sat (n : Nat) : Nat := min n 65535
  BitVec.ofNat 512 (f.fsTime.toNat + f.feTime.toNat * 2 ^ 64 + f.num % 65536 * 2 ^ 128 + f.vc * 2 ^ 144 +
    f.dt.getD 0 * 2 ^ 148 + f.src * 2 ^ 154 + f.valid.toNat * 2 ^ 159 + sat f.lines * 2 ^ 160 +
    min f.payload (f.size - f.start) % 2 ^ 24 * 2 ^ 176 + sat f.crcErrs * 2 ^ 200 + sat f.eccCorr * 2 ^ 216 + sat f.eccUnc * 2 ^ 232 +
    sat f.dropped * 2 ^ 248 + sat drops * 2 ^ 264 + f.firstBad.getD 0xFFFF % 65536 * 2 ^ 280 + f.err.toNat * 2 ^ 296 +
    (if f.ended = .missing then 2 ^ 297 else 0) + f.trunc.toNat * 2 ^ 298 + f.overflow.toNat * 2 ^ 299 + f.tsLost.toNat * 2 ^ 300 +
    f.fcsErr.toNat * 2 ^ 301)

/-- The status and DETAIL with which a frame completes its descriptor (R662). -/
def Frame.outcome (f : Frame) : Status × Nat :=
  match f.fail with
  | some (_, st) => (st, 2)
  | none => if f.trunc then (.errTarget, 6) else if f.ended = .missing then (.errTimeout, 0) else (.ok, 0)

/-- The key of a source's count of dropped frames (R661). -/
def dropKey (p src vc : Nat) : Nat := (p * 12 + src) * 16 + vc

/-- A completion reaches a frame's write. -/
def Frame.complete (f : Frame) (c : Delivered) : Frame :=
  match f.writes.find? (fun w => w.1 = c.tag) with
  | none => f
  | some w =>
    let fail := if 2 ≤ statusCode c.status ∧ (f.fail.all fun x => w.2 < x.1) then some (w.2, c.status) else f.fail
    { f with writes := f.writes.filter fun x => x.1 ≠ c.tag, fail := fail, late := f.late || c.late }

/-- A frame with nothing in flight moves on: it ends with its descriptor's record, or its frame descriptor goes out (R662). -/
def State.frameStep (s : State) (p : Nat) (f : Frame) : Option Frame × State :=
  let ts : Word := f.fsTime.setWidth 32
  if !f.writes.isEmpty then (some f, s)
  else if f.fenced then (none, s.qFinish f.hub f.queue f.index .errFenced 0 f.late 0 ts)
  else if f.ended = .running then (some f, s)
  else if f.closing || f.fail.isSome then
    let o := f.outcome
    let xfer := if f.fail.isSome then 0 else min f.size (f.start + f.payload)
    (none, s.qFinish f.hub f.queue f.index o.1 o.2 f.late xfer ts)
  else
    let k := dropKey p f.src f.vc
    let f0 := { f with trunc := f.trunc || decide (f.size < 64) }
    let r := s.frameWrite p f0 0 (bytesOf (f0.descriptor (mapGet s.port.dropCnt 0 k)) 64)
    let s1 := r.2
    (some { r.1 with closing := true }, { s1 with port := { s1.port with dropCnt := mapSet s1.port.dropCnt 0 k 0 } })

/-- OPEN_VC of the CSI-2 ports (R667). -/
def State.showOpen (s : State) (p : Nat) : State :=
  (List.range 8).foldl (fun t k =>
    let m := (t.frames p).foldl (fun m f => if f.src = k ∧ f.ended = .running ∧ !f.fenced then m ||| 2 ^ f.vc else m) 0
    t.setFld (PRT_INT_STAT_OPEN_VC p k) m) s

/-- One pass of the intake unit over its frames. -/
def State.intakePass (s : State) (p : Nat) : State :=
  let stop := intakeStop p
  let got := s.ring.inbox.filter fun c => c.stop = stop
  let fs := (s.frames p).map fun f => got.foldl Frame.complete f
  let s1 := got.foldl (fun t c => t.dropInbox stop c.tag) s
  let r := fs.foldl (fun (acc : List Frame × State) f =>
    let x := acc.2.frameStep p f
    (acc.1 ++ x.1.toList, x.2)) ([], s1)
  r.2.setFrames p r.1

/-- The intake unit goes on as far as its completions let it: a frame's writes, then its descriptor, then its record. -/
def State.intakeRun (s : State) (p : Nat) : State := (((s.intakePass p).intakePass p).intakePass p).showOpen p

/-! ### Frames (R655-R662) -/

/-- A queue's armed buffer (R656). -/
def State.armed (s : State) (h q : Nat) : Option QDesc :=
  if s.qState h q = qRunning ∧ s.qType h q = 3 then
    (s.queue h q).active.find? fun d => d.fetch.isNone && d.fin.isNone && !d.taken
  else none

/-- Device time at a port die, with VALID. -/
def State.portTime (s : State) (p : Nat) : DWord × Bool := s.dieTime (2 + p)

/-- A frame takes a queue's armed buffer (R656). -/
def State.takeBuffer (s : State) (h q : Nat) (index : BitVec 16) : State :=
  s.mapDescs h q fun (d : QDesc) => if d.index = index && d.fin.isNone then { d with taken := true } else d

/-- A frame as it begins in a buffer. -/
def Frame.begin (src vc h q : Nat) (d : QDesc) (t : DWord × Bool) : Frame :=
  { src := src, vc := vc, hub := h, queue := q, index := d.index, base := d.dst, size := d.len, table := false, maxLines := 0,
    fsTime := t.1, feTime := 0, valid := t.2, num := 0, dt := none, lines := 0, payload := 0, crcErrs := 0, eccCorr := 0,
    eccUnc := 0, dropped := 0, firstBad := none, trunc := false, overflow := false, tsLost := false, fcsErr := false, late := false,
    writes := [], fail := none, fenced := false, ended := .running, closing := false }

/-- A frame for which there is no buffer is dropped (R657, R661). -/
def State.countDrop (s : State) (p src vc : Nat) : State :=
  let k := dropKey p src vc
  { s with port := { s.port with dropCnt := mapSet s.port.dropCnt 0 k (mapGet s.port.dropCnt 0 k + 1) } }

/-- The end of a frame (R660, R662): its time, and zeros for the entries without a line and the padding. -/
def State.frameEnd (s : State) (p : Nat) (f : Frame) (how : FrameEnd) (time : DWord) (valid : Bool) : Frame × State :=
  let f1 := { f with ended := how, feTime := time, valid := f.valid && valid }
  let from_ := 64 + 8 * min f.lines f.maxLines
  if f.table && from_ < f1.start then s.frameWrite p f1 from_ (List.replicate (f1.start - from_) 0) else (f1, s)

/-- The open frame of a CSI-2 port and VC. -/
def Frame.isOpen (k vc : Nat) (f : Frame) : Bool := f.src = k && f.vc = vc && f.ended = .running && !f.fenced

/-- Change the open frame of a CSI-2 port and VC, if there is one. -/
def State.onFrame (s : State) (p k vc : Nat) (g : Frame → State → Frame × State) : State :=
  let r := (s.frames p).foldl (fun (acc : List Frame × State) f =>
    if f.isOpen k vc then
      let x := g f acc.2
      (acc.1 ++ [x.1], x.2)
    else (acc.1 ++ [f], acc.2)) ([], s)
  r.2.setFrames p r.1

/-- Set a flag of a CSI-2 port (R667, R987). -/
def State.intFlag (s : State) (p k : Nat) (f : Fld) (sev : Nat) : State :=
  s.portFlag f p 0x15 (8 * p + k) sev 0 (s.csr (PRT_INT_CNT p k))

/-- What a packet's header shows is flagged, and counted for the open frame of its VC; the packet is used unless its header is
uncorrectable (R653, R661). -/
def State.csiHeader (s : State) (p k vc : Nat) (h : CsiHdr) : State :=
  let s1 := if h.sot then s.intFlag p k (PRT_INT_ERR_SOT_ERR p k) sevUncorrected else s
  match h.ecc with
  | .clean => s1
  | .single => (s1.onFrame p k vc fun f t => ({ f with eccCorr := f.eccCorr + 1 }, t)).intFlag p k (PRT_INT_ERR_ECC_CORR p k)
      sevCorrected
  | .uncorrectable => (s1.onFrame p k vc fun f t => ({ f with eccUnc := f.eccUnc + 1 }, t)).intFlag p k
      (PRT_INT_ERR_ECC_UNCORR p k) sevUncorrected

/-- A frame of a CSI-2 VC that is open ends without FE (R662): FE_TIME then has no stated value (log entry 3). -/
def State.frameMissing (s : State) (p k vc : Nat) : State :=
  if (s.frames p).any (Frame.isOpen k vc) then
    let f := s.free
    ((f.2.onFrame p k vc fun x t => t.frameEnd p x .missing (f.1.setWidth 64) true).intFlag p k (PRT_INT_ERR_FE_MISSING p k)
      sevUncorrected)
  else s

/-- A frame that is being discarded is over. -/
def State.dropEnd (s : State) (p k vc : Nat) : State :=
  let l := mapGet s.port.dropping [] p
  { s with port := { s.port with dropping := mapSet s.port.dropping [] p (l.filter fun x => x ≠ (k, vc)) } }

/-- A frame begins on a VC (R655-R657). -/
def State.frameStart (s : State) (p k vc num : Nat) (corrected : Bool) : State :=
  let h := s.fld (PRT_INT_VC_HUB p k vc)
  let q := s.fld (PRT_INT_VC_QUEUE p k vc)
  match s.armed h q with
  | some d =>
    let f := { Frame.begin k vc h q d (s.portTime p) with
      table := s.bit (PRT_INT_VC_LINE_TS_EN p k vc), maxLines := s.fld (PRT_INT_VC_MAX_LINES p k vc), num := num,
      eccCorr := corrected.toNat }
    (s.takeBuffer h q d.index).setFrames p (s.frames p ++ [f])
  | none =>
    let s1 := (s.satInc (PRT_INT_VCDROP_CNT p k vc)).countDrop p k vc
    let l := mapGet s1.port.dropping [] p
    ({ s1 with port := { s1.port with dropping := mapSet s1.port.dropping [] p (l ++ [(k, vc)]) } }).intFlag p k
      (PRT_INT_ERR_NO_BUF p k) sevUncorrected

/-- A CSI-2 port and VC receive: both are enabled. -/
def State.vcOn (s : State) (p k vc : Nat) : Bool := s.bit (PRT_INT_CTL_EN p k) && s.bit (PRT_INT_VC_EN p k vc)

/-- FS (R655-R657, R662): a frame start. -/
def execFs (port : Fin 4) (k : Fin 8) (vc : Fin 16) (hdr : CsiHdr) (num : Half) (s : State) : Host.Outcome State Fault Refusal :=
  .next (if !s.bit (PRT_INT_CTL_EN port k) then s
    else if hdr.ecc = .uncorrectable then s.csiHeader port k vc hdr
    else
      let s1 := ((s.frameMissing port k vc).dropEnd port k vc).csiHeader port k vc hdr
      (if s1.vcOn port k vc then s1.frameStart port k vc num.toNat (hdr.ecc = .single) else s1).intakeRun port)

/-- A line of a frame (R660, R663, R664): its entry, its bytes, its counts. `kept` bytes found room in the port's buffer. -/
def State.frameLine (s : State) (p : Nat) (f : Frame) (dt : Nat) (data : List Byte) (crcOk : Bool) (kept : Nat) : Frame × State :=
  let t := s.portTime p
  let cut := decide (kept < data.length)
  let bad := !crcOk || cut
  let entry := (t.1.toNat % 2 ^ 32) + f.payload % 2 ^ 24 * 2 ^ 32 + (!crcOk).toNat * 2 ^ 56 + cut.toNat * 2 ^ 57
  let f1 := { f with dt := some (f.dt.getD dt), valid := f.valid && t.2, lines := f.lines + 1,
                     crcErrs := f.crcErrs + (!crcOk).toNat, dropped := f.dropped + cut.toNat, overflow := f.overflow || cut,
                     firstBad := if bad && f.firstBad.isNone then some f.lines else f.firstBad,
                     tsLost := f.tsLost || (f.table && decide (f.maxLines ≤ f.lines)) }
  let r := if f.table ∧ f.lines < f.maxLines then s.frameWrite p f1 (64 + 8 * f.lines) (leBytes entry 8) else (f1, s)
  let bs := data.take kept
  let r2 := r.2.frameWrite p r.1 (f.start + f.payload) bs
  ({ r2.1 with payload := f.payload + bs.length }, r2.2)

/-- LINE (R654, R660, R663-R665): a long packet. -/
def execLine (port : Fin 4) (k : Fin 8) (vc : Fin 16) (hdr : CsiHdr) (dt : BitVec 6) (data : List Byte) (crcOk : Bool) (kept : Nat)
    (s : State) : Host.Outcome State Fault Refusal :=
  .next (if !s.bit (PRT_INT_CTL_EN port k) then s
    else
      let s1 := s.csiHeader port k vc hdr
      if hdr.ecc = .uncorrectable || (mapGet s1.port.dropping [] port).contains (k.val, vc.val) then s1
      else if !(s1.frames port).any (Frame.isOpen k vc) then
        (s1.satInc (PRT_INT_CNT_NO_FS port k)).intFlag port k (PRT_INT_ERR_NO_FS port k) sevUncorrected
      else if dt.toNat < s1.fld (PRT_INT_VC_DT_LO port k vc) ∨ s1.fld (PRT_INT_VC_DT_HI port k vc) < dt.toNat then
        s1.satInc (PRT_INT_CNT_DT_FILTERED port k)
      else
        let s2 := s1.onFrame port k vc fun f t => t.frameLine port f dt.toNat data crcOk kept
        let s3 := if crcOk then s2 else s2.intFlag port k (PRT_INT_ERR_CRC_ERR port k) sevUncorrected
        (if kept < data.length then s3.intFlag port k (PRT_INT_ERR_OVERFLOW port k) sevUncorrected else s3).intakeRun port)

/-- FE (R662): a frame end. -/
def execFe (port : Fin 4) (k : Fin 8) (vc : Fin 16) (hdr : CsiHdr) (s : State) : Host.Outcome State Fault Refusal :=
  .next (if !s.bit (PRT_INT_CTL_EN port k) then s
    else
      let s1 := s.csiHeader port k vc hdr
      if hdr.ecc = .uncorrectable then s1
      else
        let t := s1.portTime port
        ((s1.dropEnd port k vc).onFrame port k vc fun f x => x.frameEnd port f .complete t.1 t.2).intakeRun port)

/-- FRAME_TO (R662): FRAME_TO ms have passed since FS. -/
def execFrameTo (port : Fin 4) (k : Fin 8) (vc : Fin 16) (s : State) : Host.Outcome State Fault Refusal :=
  .next (((s.frameMissing port k vc).dropEnd port k vc).intakeRun port)

/-- A write of a VC entry (R666, R668): frames of an entry that is disabled stop, and its queue's armed buffer completes. -/
def State.vcWrite (s : State) (p k vc key : Nat) (v : Word) : State :=
  let s1 := s.setCsr key v
  if s.bit (PRT_INT_VC_EN p k vc) && !s1.bit (PRT_INT_VC_EN p k vc) then
    let h := s.fld (PRT_INT_VC_HUB p k vc)
    let q := s.fld (PRT_INT_VC_QUEUE p k vc)
    let s2 := s1.fenceFrames p fun f => f.src = k && f.vc = vc
    (if s2.qState h q = qRunning ∧ s2.qType h q = 3 then s2.dropArmed h q else s2).showOpen p
  else s1

/-- A write of a steering entry (R640, R666). -/
def State.steerWrite (s : State) (p m e : Nat) (v : Word) : State :=
  let s1 := s.setCsr (PRT_ETH_STEER p m e) (v &&& 0xFFFF7FFF#32)
  if s.fld (PRT_ETH_STEER_KIND p m e) ≠ 0 ∧ s1.fld (PRT_ETH_STEER_KIND p m e) = 0 then
    let h := s.fld (PRT_ETH_STEER_HUB p m e)
    let q := s.fld (PRT_ETH_STEER_QUEUE p m e)
    let s2 := s1.fenceFrames p fun f => f.src = 8 + m && f.hub = h && f.queue = q
    if s2.qState h q = qRunning ∧ s2.qType h q = 3 then s2.dropArmed h q else s2
  else s1

/-! ### CSI-2 transmit ports (R669-R672) -/

/-- Change a transmit port. -/
def State.setCtx (s : State) (p t : Nat) (c : CtxSt) : State :=
  { s with port := { s.port with ctx := mapSet s.port.ctx CtxSt.zero (2 * p + t) c } }

/-- WC of a header word (R669). -/
def ctxWc (w : DWord) : Nat := bitsOf w 10 16

/-- Payload words of a header word: none for a short packet (R669). -/
def ctxWords (w : DWord) : Nat := if w.getLsbD 26 then 0 else (ctxWc w + 7) / 8

/-- A word reaches a transmit port (R669, R671). A header word that comes before a packet is whole begins a new one. -/
def CtxSt.word (c : CtxSt) (hdr : Bool) (w : DWord) : CtxSt × Option Nat :=
  if hdr then
    if !w.getLsbD 26 ∧ 16384 < ctxWc w then ({ c with filling := none, skip := true }, some 0)
    else if ctxWords w = 0 then ({ c with filling := none, skip := false, buf := c.buf ++ [(w, [])] }, none)
    else ({ c with filling := some (w, ctxWords w, []), skip := false }, none)
  else
    match c.filling with
    | some (h, n, ws) =>
      if n ≤ 1 then ({ c with filling := none, buf := c.buf ++ [(h, ws ++ [w])] }, none)
      else ({ c with filling := some (h, n - 1, ws ++ [w]) }, none)
    | none => if c.skip then (c, none) else (c, some 1)

/-- CTX_STREAM_WORD (R669, R671, R680): an edge of the clock of a transmit stream's group; a word moves where VALID and READY are both 1. -/
def execCtxStreamWord (port : Fin 4) (t : Fin 2) (same : Bool) (s : State) : Host.Outcome State Fault Refusal :=
  let w := 256 + 128 * t.val
  .next (match s.siteOf (12 * port) with
  | none => s
  | some site =>
    let pl := placeKey site 2
    let n := s.groupOf pl (8 * t.val) % 8
    if !s.groupClocked pl (8 * t.val) n then s else
    let s1 := s.edgeAt pl n same
    let o := s1.before
    if !o.portWire port (w + 64) || !o.ctxReady port t then s1 else
    let r := (s1.ctx port t).word (o.portWire port (w + 65))
      ((List.range 64).foldl (fun v i => if o.portWire port (w + i) then v ||| BitVec.twoPow 64 i else v) 0)
    let s2 := s1.setCtx port t r.1
    match r.2 with
    | some 0 => s2.raise (PRT_CTX_ERR_BAD_WC port t) (2 + port) 0x16 (2 * port + t) 0 sevUncorrected 0 0
    | some _ => s2.raise (PRT_CTX_ERR_BAD_SEQ port t) (2 + port) 0x16 (2 * port + t) 0 sevUncorrected 0 0
    | none => s2)

/-- CTX_PACKET_SEND (R670, R672): the oldest whole packet goes out on the lanes. -/
def execCtxPacketSend (port : Fin 4) (t : Fin 2) (s : State) : Host.Outcome State Fault Refusal :=
  let c := s.ctx port t
  .next (match c.buf with
    | [] => s
    | (h, ws) :: rest =>
      let short := h.getLsbD 26
      let dt := bitsOf h 0 6
      let skew := 1500 < s.fld (PRT_CTX_CFG_RATE_MBPS port t) && (!c.started || (short && dt = 0))
      let bytes := (ws.flatMap fun w => bytesOf w 8).take (ctxWc h)
      (s.setCtx port t { c with buf := rest, started := true }).send
        (.csiPacket port t skew (bitsOf h 6 4) dt (ctxWc h) (Config.csiEcc (h.setWidth 26)) (if short then [] else bytes)
          (if short then none else some (Config.csiCrc bytes))))

end Sys2Proof.Machine
end

