-- ==== Sys2Proof/Machine/Eth.lean ====
section
/-! DEFINITION. Ethernet of the port dies (R639-R652): receive steps, transmit slots and commits, gate control lists, frame
replication and elimination, and the meanings of their commands. -/

namespace Sys2Proof.Machine

open Sys2Proof

/-- Set a flag of a MAC (R652, R987). -/
def State.ethFlag (s : State) (p m : Nat) (f : Fld) : State :=
  s.portFlag f p 0x14 (4 * p + m) sevUncorrected 0 (s.csr (PRT_ETH_CNT p m))

/-- A MAC discards a received frame and counts it (R639, R652). -/
def State.ethDiscard (s : State) (p m : Nat) (f : Fld) : State := (s.satInc (PRT_ETH_CNT_DISCARD p m)).ethFlag p m f

/-- Two bytes of a frame, most significant first. -/
def beHalf (b : List Byte) (o : Nat) : Nat := (b.getD o 0).toNat * 256 + (b.getD (o + 1) 0).toNat

/-- A frame carries a VLAN tag. -/
def hasVlan (b : List Byte) : Bool := beHalf b 12 = 0x8100

/-- Offset of the EtherType after any VLAN tag (R640). -/
def typeOff (b : List Byte) : Nat := if hasVlan b then 16 else 12

/-- A signed byte. -/
def signedByte (n : Nat) : Int := signedOf 8 n

/-- A time moved by a signed number of ns. -/
def timeAdd (t : DWord) (d : Int) : DWord := t + BitVec.ofInt 64 d

/-! ### Stream recovery (R651) -/

/-- The stream entry a received frame matches, lowest first (R651). -/
def State.frerMatch (s : State) (p m : Nat) (b : List Byte) : Option Nat :=
  if hasVlan b ∧ beHalf b 16 = 0xF1C1 then
    (List.range 32).find? fun i =>
      s.bit (PRT_FRER_EN p i) && (s.fld (PRT_FRER_MACS p i)).testBit m && s.fld (PRT_FRER_VID p i) = beHalf b 14 % 4096
  else none

/-- The vector recovery algorithm of IEEE 802.1CB with a history length: whether the frame is passed on, and the state. -/
def FrerSt.recover (r : FrerSt) (hist : Nat) (seq : BitVec 16) : Bool × FrerSt :=
  if r.takeAny then (true, ⟨false, seq, true :: List.replicate (hist - 1) false⟩)
  else
    let d := (seq - r.seq).toInt
    if (hist : Int) ≤ d ∨ d ≤ -(hist : Int) then (false, r)
    else if d ≤ 0 then
      let i := d.natAbs
      if r.hist.getD i false then (false, r) else (true, { r with hist := r.hist.set i true })
    else (true, ⟨false, seq, (true :: List.replicate (d.natAbs - 1) false ++ r.hist).take hist⟩)

/-- The history length of a stream: 0 acts as 1 (R651). -/
def State.frerHist (s : State) (p i : Nat) : Nat := max 1 (s.fld (PRT_FRER_HIST p i))

/-- The recovery state of a stream. -/
def State.frer (s : State) (p i : Nat) : FrerSt := mapGet s.port.frer FrerSt.zero (32 * p + i)

/-- Change the recovery state of a stream. -/
def State.setFrer (s : State) (p i : Nat) (r : FrerSt) : State :=
  { s with port := { s.port with frer := mapSet s.port.frer FrerSt.zero (32 * p + i) r } }

/-! ### Receive (R639, R640) -/

/-- The steering entry that a frame matches (R639, R640). -/
def State.steer (s : State) (p m : Nat) (b : List Byte) : Option Nat :=
  (List.range 16).find? fun e =>
    let v := s.fld (PRT_ETH_STEER_VALUE p m e)
    match s.fld (PRT_ETH_STEER_KIND p m e) with
    | 1 => beHalf b (typeOff b) = v
    | 2 => hasVlan b && beHalf b 14 / 8192 = v % 8
    | 3 => true
    | _ => false

/-- A frame goes into the armed buffer of a queue (R656, R657, R659-R662). -/
def State.ethPlace (s : State) (p m h q : Nat) (b : List Byte) (fcsErr : Bool) (ago : Nat) : State :=
  match s.armed h q with
  | none => (s.countDrop p (8 + m) 0).ethDiscard p m (PRT_ETH_ERR_NO_BUF p m)
  | some d =>
    let t := s.portTime p
    let f0 := { Frame.begin (8 + m) 0 h q d
        (timeAdd t.1 (signedByte (s.fld (PRT_ETH_CFG_ING_OFF p m)) - ago), t.2) with fcsErr := fcsErr }
    let r := (s.takeBuffer h q d.index).frameWrite p f0 64 b
    let f1 := { r.1 with payload := b.length, ended := .complete, feTime := t.1 }
    (r.2.setFrames p (r.2.frames p ++ [f1])).intakeRun p

/-- Stream elimination and steering of a frame whose FCS is good or that is kept (R639, R651). -/
def State.ethSteer (s : State) (p m : Nat) (b : List Byte) (fcsErr : Bool) (ago : Nat) : State :=
  let go (t : State) (b : List Byte) : State :=
    match t.steer p m b with
    | none => t.ethDiscard p m (PRT_ETH_ERR_NO_MATCH p m)
    | some e => t.ethPlace p m (t.fld (PRT_ETH_STEER_HUB p m e)) (t.fld (PRT_ETH_STEER_QUEUE p m e)) b fcsErr ago
  match s.frerMatch p m b with
  | none => go s b
  | some i =>
    let r := (s.frer p i).recover (s.frerHist p i) (BitVec.ofNat 16 (beHalf b 20))
    let s1 := s.setFrer p i r.2
    if r.1 then go s1 (if s.bit (PRT_FRER_STRIP p i) then b.take 16 ++ b.drop 22 else b)
    else s1.ethDiscard p m (PRT_ETH_ERR_FRER_DISCARD p m)

/-- ETH_RX_FRAME (R639): a frame without its FCS has arrived, its first bit `ago` ns before. -/
def execEthRxFrame (port mac : Fin 4) (frame : List Byte) (fcsOk : Bool) (ago : Nat) (s : State) :
    Host.Outcome State Fault Refusal :=
  .next (if !s.bit (PRT_ETH_CFG_EN port mac) then s
    else if 9600 < frame.length then s.satInc (PRT_ETH_CNT_DISCARD port mac)
    else if !fcsOk && !s.bit (PRT_ETH_CFG_KEEP_BAD port mac) then s.ethDiscard port mac (PRT_ETH_ERR_FCS port mac)
    else (if fcsOk then s else s.ethFlag port mac (PRT_ETH_ERR_FCS port mac)).ethSteer port mac frame (!fcsOk) ago)

/-- FRER_RESET (R651): RESET_MS ms have passed without a frame of the stream. -/
def execFrerReset (port : Fin 4) (stream : Fin 32) (s : State) : Host.Outcome State Fault Refusal :=
  .next (s.setFrer port stream FrerSt.zero)

/-! ### Transmit slots (R641-R643, R648) -/

/-- The committed frames of a port die. -/
def State.tx (s : State) (p : Nat) : List EthFrame := mapGet s.port.tx [] p

/-- Put the committed frames of a port die. -/
def State.setTx (s : State) (p : Nat) (l : List EthFrame) : State :=
  { s with port := { s.port with tx := mapSet s.port.tx [] p l } }

/-- The status entries of a MAC, oldest first. -/
def State.txst (s : State) (p m : Nat) : List DWord := mapGet s.port.txst [] (4 * p + m)

/-- Put the status entries of a MAC. -/
def State.setTxst (s : State) (p m : Nat) (l : List DWord) : State :=
  { s with port := { s.port with txst := mapSet s.port.txst [] (4 * p + m) l } }

/-- A slot is free (R642): nothing committed on it and no status of it waiting. -/
def State.slotFree (s : State) (p m c i : Nat) : Bool :=
  !(s.tx p).any (fun f => f.mac = m && f.cls = c && f.slot = i) &&
    !(s.txst p m).any (fun e => bitsOf e 7 3 = c && bitsOf e 10 2 = i)

/-- A write to the TX windows at offset `o` within them (R619, R641, R642, R979). -/
def State.txWrite (s : State) (p o : Nat) (bs : List PByte) : State × Status :=
  let slot := p * 128 + o / 16384
  if bs.any Prod.snd || !s.slotFree p (o / 0x80000) (o / 0x10000 % 8) (o / 16384 % 4) then (s, .errTarget)
  else
    ({ s with port := { s.port with
        txmem := bs.zipIdx.foldl (fun m b => mapSet m 0 (slot * 16384 + o % 16384 + b.2) b.1.1) s.port.txmem } }, .ok)

/-- A read of the TX windows (R619). -/
def State.txRead (s : State) (p o n : Nat) : List Byte :=
  (List.range n).map fun i => mapGet s.port.txmem 0 (p * 128 * 16384 + o + i)

/-- RESULT of a frame whose copies have finished (R647, R648). -/
def EthFrame.result (f : EthFrame) : Nat :=
  if f.copies.all (fun c => c.2 = .sent) then 0
  else if f.copies.any (fun c => c.2 = .sent) then 1
  else if f.copies.any (fun c => c.2 = .linkDown) then 3 else 2

/-- Every copy has finished. -/
def EthFrame.finished (f : EthFrame) : Bool := f.copies.all fun c => c.2 ≠ .waiting && c.2 ≠ .sending

/-- The status entry of a finished frame (R648), with the EGRESS and TS_VALID of its copy on the MAC it was committed on. -/
def EthFrame.entry (f : EthFrame) (egress : Word) (valid : Bool) : DWord :=
  BitVec.ofNat 64 (f.tag + f.cls * 2 ^ 7 + f.slot * 2 ^ 10 + f.result * 2 ^ 12 + 2 ^ 15 + valid.toNat * 2 ^ 16 +
    egress.toNat * 2 ^ 32)

/-- A finished frame gives its status entry (R643). Where no copy left on its MAC, EGRESS and TS_VALID have no stated value (log
entry 3). -/
def State.txEntry (s : State) (p : Nat) (f : EthFrame) : State :=
  match f.egress with
  | some e => s.setTxst p f.mac (s.txst p f.mac ++ [f.entry e.1 e.2])
  | none =>
    let v := s.free
    v.2.setTxst p f.mac (s.txst p f.mac ++ [f.entry (v.1.setWidth 32) (v.1.getLsbD 32)])

/-- Finished frames leave the list and give their entries, in order. -/
def State.txFinish (s : State) (p : Nat) : State :=
  ((s.tx p).filter EthFrame.finished).foldl (fun t f => t.txEntry p f) (s.setTx p ((s.tx p).filter fun f => !f.finished))

/-- A write of PRT_ETH_COMMIT (R641, R646). -/
def State.ethCommit (s : State) (p m : Nat) (v : Word) : State × Status :=
  let len := bitsOf v 0 14 + 1
  let c := bitsOf v 14 3
  let i := bitsOf v 17 2
  let stream := bitsOf v 20 5
  if !s.slotFree p m c i || len < 14 || 9600 < len || !s.bit (PRT_ETH_CFG_EN p m) then
    (s.satInc (PRT_ETH_CNT_COMMIT_REJ p m), .errTarget)
  else if v.getLsbD 19 then
    let k := 32 * p + stream
    let seq := mapGet s.port.txSeq 0 k
    let macs := (List.range 4).filter fun x => (s.fld (PRT_FRER_MACS p stream)).testBit x
    let f : EthFrame := ⟨m, c, i, len, bitsOf v 25 7, some seq, macs.map fun x => (x, .waiting), none⟩
    let s1 := { s with port := { s.port with txSeq := mapSet s.port.txSeq 0 k (seq + 1) } }
    ((s1.setTx p (s1.tx p ++ [f])).txFinish p, .ok)
  else (s.setTx p (s.tx p ++ [⟨m, c, i, len, bitsOf v 25 7, none, [(m, .waiting)], none⟩]), .ok)

/-- ETH_COMMIT (R641). -/
def execEthCommit (mid : BitVec 12) (port mac : Fin 4) (value : Word) (s : State) : Host.Outcome State Fault Refusal :=
  .next (s.regWrite (PRT_ETH_COMMIT port mac)
    fun s => if s.levelS mid.toNat then s.ethCommit port mac value else (s, .errDenied))

/-- PRT_ETH_TXST as a read shows it (R643): the oldest entry, or VALID 0. -/
def State.txstWord (s : State) (p m : Nat) : DWord := (s.txst p m).headD 0

/-- A read of PRT_ETH_TXST without the debug attribute pops an entry (R643). -/
def State.txstPop (s : State) (p m : Nat) : State := s.setTxst p m (s.txst p m).tail

/-- ETH_TXST_POP (R643). -/
def execEthTxstPop (port mac : Fin 4) (dbg : Bool) (s : State) : Host.Outcome State Fault Refusal :=
  .next (s.regRead (PRT_ETH_TXST port mac) fun s =>
    (if dbg then s else s.txstPop port mac).send (.readback (PRT_ETH_TXST port mac) (s.txstWord port mac) dbg))

/-! ### Gates (R645, R649, R650) -/

/-- Entries of a gate list with the time each holds in a cycle (R649): the last is cut short or extended to the end. -/
def gclSpans : List Word → Nat → List (Nat × Nat)
  | [], _ => []
  | [e], left => [(bitsOf e 0 8, left)]
  | e :: es, left => (bitsOf e 0 8, min (bitsOf e 8 24) left) :: gclSpans es (left - min (bitsOf e 8 24) left)

/-- The gate list in operation on a MAC. -/
def State.gclRun (s : State) (p m : Nat) : GclRun := mapGet s.port.gcl ⟨0, 0, 0⟩ (4 * p + m)

/-- The spans of the list in operation. -/
def State.gclList (s : State) (p m : Nat) : List (Nat × Nat) :=
  let r := s.gclRun p m
  gclSpans ((List.range (min 64 r.len)).map fun i => s.csr (PRT_ETH_GCL p m (s.fld (PRT_ETH_STAT_OPER_BANK p m)) i)) r.cycle

/-- The time for which a class's gate stays open from the start of a list of spans. -/
def openRun (c : Nat) : List (Nat × Nat) → Nat
  | [] => 0
  | (g, d) :: r => if g.testBit c then d + openRun c r else 0

/-- The time for which a class's gate stays open from `pos` ns into a list of spans. -/
def openFrom (c : Nat) : List (Nat × Nat) → Nat → Nat
  | [], _ => 0
  | (g, d) :: r, pos => if pos < d then (if g.testBit c then d - pos + openRun c r else 0) else openFrom c r (pos - d)

/-- The longest open run of a class that begins with some span of the list. -/
def longestRun (c : Nat) : List (Nat × Nat) → Nat
  | [] => 0
  | x :: r => max (openRun c (x :: r)) (longestRun c r)

/-- Data rate of a MAC in Mb/s (R652). -/
def State.ethRate (s : State) (p m : Nat) : Nat :=
  match s.fld (PRT_ETH_CFG_MODE p m) with
  | 1 => 25000
  | 2 => match s.fld (PRT_ETH_CFG_USX_RATE p m) with | 0 => 1000 | 1 => 2500 | 2 => 5000 | _ => 10000
  | _ => 10000

/-- The time a frame takes on a MAC, in ns: preamble, frame, R-TAG where one is inserted, and FCS. -/
def State.ethTime (s : State) (p m : Nat) (f : EthFrame) : Nat :=
  let bits := 8 * (8 + f.len + (if f.seq.isSome then 6 else 0) + 4)
  (bits * 1000 + s.ethRate p m - 1) / s.ethRate p m

/-- What a class's gate says of a frame (R645): it may start, it must wait, or no window is long enough. -/
inductive GateSay where
  | go | wait | never
  deriving DecidableEq, Repr

/-- The gate of a frame's class on a MAC now (R645). -/
def State.gateSay (s : State) (p m : Nat) (f : EthFrame) : GateSay :=
  if !s.bit (PRT_ETH_CFG_QBV_EN p m) then .go else
  let l := s.gclList p m
  let n := s.ethTime p m f
  if l.any (fun x => 0 < x.2) && l.all (fun x => x.1.testBit f.cls || x.2 = 0) then .go
  else if longestRun f.cls (l ++ l) < n then .never
  else
    let r := s.gclRun p m
    let pos := (((s.portTime p).1.toNat : Int) - r.base) % r.cycle
    if n ≤ openFrom f.cls (l ++ l) pos.toNat then .go else .wait

/-- GCL_CTL: LEN, and CHANGE schedules a switch (R650). -/
def State.gclCtlWrite (s : State) (p m : Nat) (v : Word) : State :=
  let s1 := s.setFld (PRT_ETH_GCL_CTL_LEN p m) (bitsOf v 0 7)
  if !v.getLsbD 31 then s1
  else if s1.bit (PRT_ETH_STAT_CHANGE_PEND p m) then s1.portRefused (PRT_ETH_ERR_GCL_REFUSED p m)
  else
    let base := (s1.csr64 (PRT_ETH_BASE p m)).toNat
    let cyc := s1.fld (PRT_ETH_CYCLE_CYCLE_NS p m)
    let now := (s1.portTime p).1.toNat
    let at_ : Option Nat := if now ≤ base then some base
      else if cyc = 0 then none else some (base + (now - base + cyc - 1) / cyc * cyc)
    { s1 with port := { s1.port with gclAt := mapSet s1.port.gclAt none (4 * p + m) at_ } }.setFld
      (PRT_ETH_STAT_CHANGE_PEND p m) 1

/-- GCL_CHANGE (R650): a write of PRT_ETH_GCL_CTL with CHANGE = 1. -/
def execGclChange (mid : BitVec 12) (port mac : Fin 4) (value : Word) (s : State) : Host.Outcome State Fault Refusal :=
  .next (levelSWrite s mid (PRT_ETH_GCL_CTL port mac) fun s => s.gclCtlWrite port mac (value ||| 0x80000000#32))

/-- GCL_SWITCH (R650): the instant of a scheduled change has come. -/
def execGclSwitch (port mac : Fin 4) (s : State) : Host.Outcome State Fault Refusal :=
  let k := 4 * port.val + mac.val
  .next (match mapGet s.port.gclAt none k with
    | some t =>
      if s.bit (PRT_ETH_STAT_CHANGE_PEND port mac) && decide (t ≤ (s.portTime port).1.toNat) then
        let run : GclRun := ⟨s.fld (PRT_ETH_GCL_CTL_LEN port mac), s.fld (PRT_ETH_CYCLE_CYCLE_NS port mac),
          (s.csr64 (PRT_ETH_BASE port mac)).toNat⟩
        let s1 := { s with port := { s.port with gcl := mapSet s.port.gcl ⟨0, 0, 0⟩ k run, gclAt := mapSet s.port.gclAt none k none } }
        (s1.setFld (PRT_ETH_STAT_CHANGE_PEND port mac) 0).setFld (PRT_ETH_STAT_OPER_BANK port mac)
          (1 - s.fld (PRT_ETH_STAT_OPER_BANK port mac))
      else s
    | none => s)

/-- A write of a gate list entry: those of the operating bank take none (R650). -/
def State.gclEntryWrite (s : State) (p m b i : Nat) (v : Word) : State :=
  if b = s.fld (PRT_ETH_STAT_OPER_BANK p m) then s else s.setCsr (PRT_ETH_GCL p m b i) v

/-! ### Transmission (R644-R647) -/

/-- Change the copy of a frame on a MAC. -/
def EthFrame.setCopy (f : EthFrame) (m : Nat) (st : CopySt) : EthFrame :=
  { f with copies := f.copies.map fun c => if c.1 = m then (m, st) else c }

/-- Where the copy of a frame on a MAC stands. -/
def EthFrame.copyOn (f : EthFrame) (m : Nat) : Option CopySt := (f.copies.find? fun c => c.1 = m).map (·.2)

/-- The head frame of each class of a MAC, highest class first (R644). -/
def State.txHeads (s : State) (p m : Nat) : List EthFrame :=
  ([7, 6, 5, 4, 3, 2, 1, 0] : List Nat).filterMap fun c => (s.tx p).find? fun f => f.cls = c && f.copyOn m = some .waiting

/-- Replace a committed frame. -/
def State.setFrame (s : State) (p : Nat) (f g : EthFrame) : State := s.setTx p ((s.tx p).map fun x => if x = f then g else x)

/-- The bytes of a frame on the wire (R639, R646): its slot's bytes, the R-TAG where one is inserted, and the FCS. -/
def State.ethBytes (s : State) (p : Nat) (f : EthFrame) : List Byte :=
  let b := s.txRead p ((f.mac * 8 + f.cls) * 65536 + f.slot * 16384) f.len
  let o := typeOff b
  let t := match f.seq with
    | some q => b.take o ++ [0xF1, 0xC1, 0, 0, q.extractLsb' 8 8, q.extractLsb' 0 8] ++ b.drop o
    | none => b
  t ++ bytesOf (t.foldl (crcFeed 0) (crcBegin 0 0) ^^^ crcFinal 0) 4

/-- A head frame starts on a MAC: its egress timestamp is that of the MAC it was committed on (R610, R644, R648). -/
def State.txStart (s : State) (p m : Nat) (f : EthFrame) : State :=
  let t := s.portTime p
  let g := f.setCopy m .sending
  let g1 := if f.mac = m then
    { g with egress := some ((timeAdd t.1 (signedByte (s.fld (PRT_ETH_CFG_EGR_OFF p m)))).setWidth 32, t.2) } else g
  (s.setFrame p f g1).send (.ethFrame p m (s.ethBytes p f))

/-- ETH_TX_FRAME (R644-R647): the MAC takes its next head frame: the first class, from the highest, whose head may start or can
never start. -/
def execEthTxFrame (port mac : Fin 4) (s : State) : Host.Outcome State Fault Refusal :=
  .next (if (s.tx port).any (fun f => f.copyOn mac = some .sending) || !s.bit (PRT_ETH_CFG_EN port mac) then s
    else if !s.bit (PRT_ETH_STAT_LINK_UP port mac) then
      match (s.txHeads port mac).head? with
      | some f => (s.setFrame port f (f.setCopy mac .linkDown)).txFinish port
      | none => s
    else
      match (s.txHeads port mac).find? (fun f => s.gateSay port mac f ≠ .wait) with
      | some f =>
        if s.gateSay port mac f = .never then (s.setFrame port f (f.setCopy mac .noWindow)).txFinish port
        else s.txStart port mac f
      | none => s)

/-- ETH_TX_DONE (R643, R646): the copy in transmission on a MAC has been sent. -/
def execEthTxDone (port mac : Fin 4) (s : State) : Host.Outcome State Fault Refusal :=
  .next ((s.setTx port ((s.tx port).map fun f =>
    if f.copyOn mac = some .sending then f.setCopy mac .sent else f)).txFinish port)

/-- ETH_LINK_DOWN (R647, R652): a MAC's link goes down or comes up. -/
def execEthLinkDown (port mac : Fin 4) (up : Bool) (s : State) : Host.Outcome State Fault Refusal :=
  let was := s.bit (PRT_ETH_STAT_LINK_UP port mac)
  let s1 := s.setBit (PRT_ETH_STAT_LINK_UP port mac) up
  .next (if up then s1
    else
      let s2 := if was then s1.ethFlag port mac (PRT_ETH_ERR_LINK_DOWN port mac) else s1
      (s2.setTx port ((s2.tx port).map fun f =>
        match f.copyOn mac with
        | some .waiting | some .sending => f.setCopy mac .linkDown
        | _ => f)).txFinish port)

/-- QE_EVT_FIFO_POP (R588): a read of QE_EVT_FIFO. -/
def execQeEvtFifoPop (hub : Fin 2) (dbg : Bool) (s : State) : Host.Outcome State Fault Refusal :=
  .next (s.regRead (QE_EVT_FIFO hub) fun s =>
    (if dbg then s else s.qEvtPop hub).send (.readback (QE_EVT_FIFO hub) ((s.qEvtWord hub).setWidth 64) dbg))

end Sys2Proof.Machine
end

