-- ==== Sys2Proof/Machine/TimeBase.lean ====
section
/-! DEFINITION. The time base (R599-R611): ticks, adjustment and followers, and the meanings of their commands. -/

namespace Sys2Proof.Machine

open Sys2Proof

/-- Who may write TB_INCR, TB_ADJ_NS and TB_ADJ_CTL (R611, R616). -/
def State.tbWriter (s : State) (mid : Nat) : Bool :=
  s.levelS mid || (s.bit TB_PTP_PTP_EN && mid = s.fld TB_PTP_PTP_MID)

/-- Set a flag of TB_ERR and report it (R616, R987). -/
def State.tbFlag (s : State) (f : Fld) : State := s.raise f 0 0x09 0 0 sevUncorrected 0 (s.csr TB_ERR_STOP)

/-- BUSY and SLEWING follow the adjustment in progress (R603, R616). -/
def State.tbShow (s : State) : State :=
  (s.setBit TB_ADJ_CTL_BUSY (s.tb.step.isSome || s.tb.slew ≠ 0)).setBit TB_STAT_SLEWING (s.tb.slew ≠ 0)

/-- The part of TB_INCR that a tick may add or withhold: one in 10,000, 1,000, 100 or 20 (R603, R617). -/
def slewPart (rate : Nat) : Nat := match rate with | 0 => 10000 | 1 => 1000 | 2 => 100 | _ => 20

/-- What a tick adds for a slew of which `left` is still to apply (R603). -/
def slewDelta (left : Int) (incr rate : Nat) : Int :=
  let m : Int := (incr / slewPart rate : Nat)
  if m < left then m else if left < -m then -m else left

/-- What the next tick adds for the slew in progress. -/
def State.tbDelta (s : State) : Int := slewDelta s.tb.slew (s.csr64 TB_INCR).toNat (s.fld TB_ADJ_CTL_SLEW_RATE)

/-- A time moved by TB_INCR and a further amount. -/
def State.tbAdd (s : State) (t : BitVec 96) (d : Int) : BitVec 96 := t + BitVec.ofInt 96 ((s.csr64 TB_INCR).toNat + d)

/-- The time base runs: H0 has left reset in SP2 (R600). -/
def State.tbRuns (s : State) : Bool := 2 ≤ s.fld RST_STAT_PHASE

/-- TB_TICK (R599, R603). -/
def execTbTick (s : State) : Host.Outcome State Fault Refusal :=
  .next (if s.tbRuns then
    let d := s.tbDelta
    let tb := { s.tb with time := s.tbAdd s.tb.time (d + s.tb.step.getD 0), step := none, slew := s.tb.slew - d }
    { s with tb := tb }.tbShow
  else s)

/-- TB_INCR takes a value, clamped to 10 ns ± 1,000 ppm (R601). -/
def State.tbIncrWrite (s : State) (v : DWord) : State :=
  let n := bitsOf v 0 40
  let lo := 0x9FD70A3D7
  let hi := 0xA028F5C29
  if n < lo then (s.setCsr64 TB_INCR (BitVec.ofNat 64 lo)).tbFlag TB_ERR_INCR_CLAMP
  else if hi < n then (s.setCsr64 TB_INCR (BitVec.ofNat 64 hi)).tbFlag TB_ERR_INCR_CLAMP
  else s.setCsr64 TB_INCR (BitVec.ofNat 64 n)

/-- TB_INCR_WRITE (R601, R611). -/
def execTbIncrWrite (mid : BitVec 12) (value : DWord) (s : State) : Host.Outcome State Fault Refusal :=
  .next (s.regWrite TB_INCR fun s => if s.tbWriter mid.toNat then ((s.dropLatches mid.toNat [TB_INCR + 4]).tbIncrWrite value, .ok) else (s, .errDenied))

/-- A write of TB_ADJ_CTL by one who may (R603-R605, R617). -/
def State.tbAdjWrite (s : State) (v : Word) : State :=
  let s1 := s.setCsr TB_ADJ_CTL ((s.csr TB_ADJ_CTL &&& 0x20#32) ||| (v &&& 0x1E#32))
  let ns := signedOf 48 (bitsOf (s.csr64 TB_ADJ_NS) 0 48)
  let off : Int := ns * 2 ^ 32
  if !v.getLsbD 0 then s1
  else if s.bit TB_ADJ_CTL_BUSY then s1.setFld TB_ERR_ADJ_REFUSED 1
  else if v.getLsbD 1 then { s1 with tb := { s1.tb with slew := off } }.tbShow
  else if ns < 0 ∧ !v.getLsbD 4 then s1.setFld TB_ERR_ADJ_REFUSED 1
  else
    let s2 := if ns < 0 then s1.tbFlag TB_ERR_STEP_BACK else s1
    { s2 with tb := { s2.tb with step := some off } }.tbShow

/-- STEP (R603): GO with MODE 0. -/
def execStep (mid : BitVec 12) (value : Word) (s : State) : Host.Outcome State Fault Refusal :=
  .next (s.regWrite TB_ADJ_CTL
    fun s => if s.tbWriter mid.toNat then (s.tbAdjWrite ((value &&& 0x1C#32) ||| 1#32), .ok) else (s, .errDenied))

/-- SLEW (R603): GO with MODE 1. -/
def execSlew (mid : BitVec 12) (value : Word) (s : State) : Host.Outcome State Fault Refusal :=
  .next (s.regWrite TB_ADJ_CTL
    fun s => if s.tbWriter mid.toNat then (s.tbAdjWrite ((value &&& 0x1C#32) ||| 3#32), .ok) else (s, .errDenied))

/-! ### Followers (R606-R608) -/

/-- The follower of the die of a CSR space. -/
def State.follower (s : State) (sp : Nat) : Follower := mapGet s.tb.followers ⟨0, false, 0⟩ sp

/-- Change a follower. -/
def State.setFollower (s : State) (sp : Nat) (f : Follower) : State :=
  { s with tb := { s.tb with followers := mapSet s.tb.followers ⟨0, false, 0⟩ sp f } }

/-- FOLLOWER_TICK (R606): the follower of a die advances by the increment and slew. -/
def execFollowerTick (die : Fin 72) (s : State) : Host.Outcome State Fault Refusal :=
  .next (let f := s.follower die
    s.setFollower die { f with time := s.tbAdd f.time s.tbDelta })

/-- The stop ID of the follower of a die: that of its CSRs; a logic die that holds no logical die has none. -/
def State.followerStop (s : State) (sp : Nat) : Option Nat :=
  if sp < 2 then some (hubStop sp 16) else if sp < 6 then some (portStop (sp - 2) 5)
  else (s.ldOf (sp - 8)).map (fun d => 8 * d + 4)

/-- A follower misses a sync pulse (R608). -/
def State.syncMiss (s : State) (sp : Nat) : State :=
  let f := s.follower sp
  if 1 ≤ f.missed then
    let s1 := match s.followerStop sp with
      | some n => s.setCsr TB_ERR_STOP (BitVec.ofNat 32 (n + 2 ^ 31))
      | none => s
    (s1.setFollower sp { f with valid := false, missed := 2 }).tbFlag TB_ERR_SYNC_LOST
  else s.setFollower sp { f with missed := 1 }

/-- The CSR spaces of the dies that hold followers. -/
def followerDies : List Nat := (List.range 6) ++ ((List.range 64).filter isLogicSite).map (8 + ·)

/-- A hub carries the time base over its X link where TIME_SYNC was negotiated (R386). -/
def State.xSync (s : State) (h : Nat) : State :=
  if (mapGet s.links.maps LinkMap.zero (129 + h)).feats.getLsbD 3 && s.xLinkUp h then s.send (.xTime h s.tb.time) else s

/-- SYNC_PULSE (R386, R606, R608): each follower loads the time of the master, but for those that miss the pulse. -/
def execSyncPulse (missed : List (Fin 72)) (s : State) : Host.Outcome State Fault Refusal :=
  .next (if s.tbRuns then
    ((followerDies.foldl (fun t sp =>
      if missed.any (fun m => m.val = sp) then t.syncMiss sp else t.setFollower sp ⟨t.tb.time, true, 0⟩) s).xSync 0).xSync 1
  else s)

end Sys2Proof.Machine
end

