-- ==== Sys2Proof/Machine/CsrWrite.lean ====
section
/-! DEFINITION. Writes of registers over the ring: access codes, latches, Level S, and what each register's write does (R10-R15,
R1022 and the register tables). -/

namespace Sys2Proof.Machine

open Sys2Proof

/-! ### Words of registers -/

/-- The indexes that a byte distance from a row's base spells, outermost first. -/
def dimIndexes : List (Nat × Nat) → Nat → List Nat
  | [], _ => []
  | (_, st) :: ds, d => d / st :: dimIndexes ds (d % st)

/-- A register word as an access reaches it: its row, the word, its key, the number of its hub, port die or site, and its indexes. -/
structure RegHit where
  row  : RegRow
  word : Nat
  key  : Nat
  unit : Nat
  i    : Nat
  j    : Nat
  k    : Nat
  deriving DecidableEq, Repr

/-- The register word a key names. -/
def regHit (key : Nat) : Option RegHit :=
  (regAt key).map fun r =>
    let sp := key / 0x1000000
    let ix := dimIndexes r.1.dims (key % 0x1000000 - r.1.base)
    ⟨r.1, r.2, key, if sp < 2 then sp else if sp < 6 then sp - 2 else sp - 8, ix.getD 0 0, ix.getD 1 0, ix.getD 2 0⟩

/-- The part of a mask of a row that lies in the word. -/
def RegHit.mask (r : RegHit) (m : Nat) : Word := BitVec.ofNat 32 (m / 2 ^ (32 * r.word))

/-- A word of a 64-bit value. -/
def wordAt (v : DWord) (w : Nat) : Word := (v >>> (32 * w)).setWidth 32

/-- A 64-bit value with a word replaced. -/
def withWord (old : DWord) (w : Nat) (v : Word) : DWord :=
  if w = 0 then (old >>> 32).setWidth 32 ++ v else v ++ old.setWidth 32

/-! ### Access codes (R13) -/

/-- A word as its access codes let a write change it: `may` for RWS, bit 31 of a locked register for RWL. -/
def RegHit.stored (r : RegHit) (may : Bool) (old v : Word) : Word :=
  let take := r.mask r.row.rw ||| (if may then r.mask r.row.rws else 0) ||| (if old.getLsbD 31 then 0 else r.mask r.row.rwl) |||
    r.mask r.row.wo
  (((old &&& ~~~take) ||| (v &&& take)) ||| (v &&& r.mask r.row.w1s)) &&& ~~~(v &&& r.mask r.row.w1c)

/-- The write of a register without an effect of its own. -/
def State.csrStore (s : State) (r : RegHit) (may : Bool) (v : Word) : State := s.setCsr r.key (r.stored may (s.csr r.key) v)

/-- A write of a VALID bit with 1 clears the location register it belongs to, otherwise nothing. -/
def State.locClear (s : State) (low : Nat) (hit : Bool) : State := if hit then s.setCsr64 low 0 else s

/-- A write of a mailbox's status register (R635, R760): RDY and OVERRUN are cleared by 1. -/
def State.mbxStatWrite (s : State) (m : MbxKind) (v : Word) : State :=
  let s1 := if v.getLsbD 1 then s.mbxRdyClear m else s
  if v.getLsbD 2 then s1.setFld (mbxOverrun m) 0 else s1

/-- What a write gives that only Level S may do. -/
def State.onlyS (s t : State) (may : Bool) : Option (State × Status) := some (if may then (t, .ok) else (s, .errDenied))

/-! ### Registers whose write has an effect of its own -/

/-- Writes of the registers both hubs have; none for a register without an effect of its own. -/
def State.hubWrite (s : State) (mid : Nat) (may : Bool) (r : RegHit) (v : Word) : Option (State × Status) :=
  let h := r.unit
  let ok (t : State) : Option (State × Status) := some (t, .ok)
  match r.row.base with
  | 0x120000 => s.onlyS (s.fwlCtlWrite h v) may                                   -- FWL_CTL
  | 0x120108 => s.onlyS (s.fwlWinWrite h r.i v) may                               -- FWL_WIN_CFG
  | 0x200018 => ok (s.locClear (DMC_ERR_LOC h r.i) (r.word = 1 && v.getLsbD 5))   -- DMC_ERR_LOC
  | 0x200030 => s.onlyS (s.migCtlWrite (2 * h + r.i) v) may                       -- DMC_MIG
  | 0x240004 => s.onlyS (s.cxlCtlWrite (2 * h + r.i) v) may                       -- CXL_CTL
  | 0x300010 => ok (s.locClear (MPE_ERR_LOC h) (r.word = 1 && v.getLsbD 31))      -- MPE_ERR_LOC
  | 0x300020 => s.onlyS (s.keyCmdWrite h v) may                                   -- MPE_KEY_CMD
  | 0x3000A0 => s.onlyS (s.fenceGo h v) may                                       -- MPE_FENCE
  | 0x3000C0 => s.onlyS (s.rekeyWrite h v) may                                    -- MPE_RKEY_CTL
  | 0x3000D0 => s.onlyS (s.resealWrite h v) may                                   -- MPE_RESEAL_CTL
  | 0x300100 => s.onlyS (s.rgnWrite h r.i r.key (v &&& r.mask r.row.rws)) may     -- MPE_RGN_BASE
  | 0x300108 => s.onlyS (s.rgnCfgWrite h r.i v) may                               -- MPE_RGN_CFG
  | 0x30010C => s.onlyS (s.rgnKeysWrite h r.i v) may                              -- MPE_RGN_KEYS
  | 0x300110 => s.onlyS (s.rgnWrite h r.i r.key (v &&& r.mask r.row.rws)) may     -- MPE_RGN_META
  | 0x300118 => s.onlyS (s.rgnWrite h r.i r.key (v &&& r.mask r.row.rws)) may     -- MPE_RGN_MACB
  | 0x300120 => s.onlyS (s.rgnWrite h r.i r.key (v &&& r.mask r.row.rws)) may     -- MPE_RGN_SRAM
  | 0x440000 => s.onlyS (s.qBaseWrite h r.i false r.key (v &&& r.mask r.row.rws)) may   -- QE_Q_DBASE
  | 0x440008 => s.onlyS (s.qBaseWrite h r.i true r.key (v &&& r.mask r.row.rws)) may    -- QE_Q_CBASE
  | 0x440010 => some (s.qCfgBy may h r.i v)                                       -- QE_Q_CFG
  | 0x440018 => some (s.qDoorbell mid h r.i v)                                    -- QE_Q_PI
  | 0x44001C => some (s.qHeadWrite mid h r.i v)                                   -- QE_Q_CQH
  | 0x600000 => some (s.crcCtlWrite (.hub (Fin.ofNat 2 h) (Fin.ofNat 4 r.i)) mid v)             -- HUB_CRC_CTL
  | 0x600008 => some (s.crcFoldWrite (.hub (Fin.ofNat 2 h) (Fin.ofNat 4 r.i)) mid r.key v)      -- HUB_CRC_FOLD
  | 0x740004 => ok (s.clkErrWrite h v)                                            -- CLK_ERR
  | 0x740008 => s.onlyS (s.cpllWrite h v) may                                     -- CLK_CPLL
  | 0x74000C => s.onlyS (s.domWrite h v) may                                      -- CLK_DOM
  | 0x740014 => s.onlyS (s.penWrite h v) may                                      -- CLK_PEN
  | 0x760000 => s.onlyS (s.coreCtlWrite (4 * h + r.i) v) may                      -- WDT_CORE_CTL
  | 0x760004 => some (s.coreService mid (4 * h + r.i) v)                          -- WDT_CORE_SVC
  | 0x780000 => s.onlyS (s.cpuCtlWrite h v) may                                   -- HUB_CPU_CTL
  | 0x780100 => some (s.semWrite mid h r.i)                                       -- HUB_SEM
  | _ => none

/-- Writes of the registers only hub 0 has. -/
def State.hubZeroWrite (s : State) (mid : Nat) (may : Bool) (r : RegHit) (v : Word) : Option (State × Status) :=
  let ok (t : State) : Option (State × Status) := some (t, .ok)
  match r.row.base with
  | 0x100014 => if may then some (s.planWrite v) else some (s, .errDenied)        -- RNG_PLAN_ENTRY
  | 0x100018 => if may then some (s.planCmd (v.getLsbD 0) (v.getLsbD 1) (bitsOf v 16 6)) else some (s, .errDenied)   -- RNG_PLAN_CMD
  | 0x100100 =>                                                                   -- RNG_RATE
    let t := s.csrStore { r with row := { r.row with w1c := r.row.w1c &&& 0xFDFFFFFF } } may v
    ok (if v.getLsbD 25 then t.ringSlowClear r.i else t)
  | 0x110400 => if may then some (s.linkCtlWrite r.i v) else some (s, .errDenied) -- LNK_CTL
  | 0x500010 => s.onlyS (s.tbIncrWrite (withWord (s.csr64 TB_INCR) r.word v)) may -- TB_INCR
  | 0x500020 => s.onlyS (s.tbAdjWrite v) may                                      -- TB_ADJ_CTL
  | 0x700004 => some (s.cfgCmdWrite mid v)                                        -- CFG_CMD
  | 0x720084 => some (s.fabDoorbell mid v)                                        -- CMD_FAB_DB
  | 0x720088 => ok (s.mbxStatWrite .fabric v)                                     -- CMD_FAB_STAT
  | 0x721000 => some (if s.fabMay mid then (s.mbxReqWrite .fabric r.i v, .ok) else (s, .errDenied))   -- CMD_FAB_REQ
  | 0x740020 => s.onlyS (s.prtPenWrite r.i v) may                                 -- CLK_PRT_PEN
  | 0x760100 => s.onlyS (s.safeCtlWrite v) may                                    -- WDT_SAFE_CTL
  | 0x760104 =>                                                                   -- WDT_SAFE_SVC
    let f := s.free
    s.onlyS (f.2.safeService v (f.1.getLsbD 0) (f.1.getLsbD 1)) may
  | 0x7A0014 => s.onlyS (s.wakeEnWrite v) may                                     -- PWR_WAKE_EN
  | 0x7A001C => s.onlyS (s.wtmrWrite v) may                                       -- PWR_WTMR
  | 0x7A0030 => s.onlyS (s.dieGateWrite (withWord (s.csr64 PWR_DIE_GATE) r.word v)) may   -- PWR_DIE_GATE
  | 0x7C000C => some (s.rstCtlWrite mid v)                                        -- RST_CTL
  | 0x7F100C => s.onlyS (s.calCtlWrite v) may                                     -- CAL_CTL
  | _ => s.hubWrite mid may r v

/-- Writes of a port die's registers. -/
def State.portWrite (s : State) (mid : Nat) (may : Bool) (r : RegHit) (v : Word) : Option (State × Status) :=
  let p := r.unit
  let ok (t : State) : Option (State × Status) := some (t, .ok)
  match r.row.base with
  | 0x20000 => s.onlyS (s.pcieCfgWrite p v) may                                   -- PRT_PCIE_CFG
  | 0x40000 => ok (s.msixTableWrite p r.i v)                                      -- PRT_MSIX_TABLE
  | 0x41800 => ok s                                                               -- PRT_MBX_DB
  | 0x41804 => ok (s.mbxStatWrite (.pcie (Fin.ofNat 4 p)) v)                      -- PRT_MBX_STAT
  | 0x42000 => ok ((s.csrStore r may v).msixEdges s)                              -- PRT_MSIX_SRC
  | 0x80000 => s.onlyS (s.ethCfgWrite p r.i v) may                                -- PRT_ETH_CFG
  | 0x8000C => if may then some (s.ethCommit p r.i v) else some (s, .errDenied)   -- PRT_ETH_COMMIT
  | 0x80020 => s.onlyS (s.gclCtlWrite p r.i v) may                                -- PRT_ETH_GCL_CTL
  | 0x80040 => s.onlyS (s.steerWrite p r.i r.j v) may                             -- PRT_ETH_STEER
  | 0x80400 => s.onlyS (s.gclEntryWrite p r.i r.j r.k v) may                      -- PRT_ETH_GCL
  | 0xA0100 => s.onlyS (s.vcWrite p r.i r.j r.key (v &&& r.mask r.row.rws)) may   -- PRT_INT_VC
  | 0xD0000 => some (s.crcCtlWrite (.port (Fin.ofNat 4 p) (Fin.ofNat 2 r.i)) mid v)             -- PRT_CRC_CTL
  | 0xD0008 => some (s.crcFoldWrite (.port (Fin.ofNat 4 p) (Fin.ofNat 2 r.i)) mid r.key v)      -- PRT_CRC_FOLD
  | _ => none

/-- Writes of a logic die's registers. -/
def State.ldcWrite (s : State) (may : Bool) (r : RegHit) (v : Word) : Option (State × Status) :=
  let site := r.unit
  let ok (t : State) : Option (State × Status) := some (t, .ok)
  match r.row.base with
  | 0x240 => ok (s.localEnable site r.i (v.getLsbD 12))                           -- LDC_LCLK_CFG
  | 0x400 => ok (if s.bit (LDC_CUBIT_SNAP_REQ site) then s else s.csrStore r may v)  -- LDC_CUBIT_ADDR
  | 0x404 => if v.getLsbD 0 then some (s.snapReq site) else ok s                  -- LDC_CUBIT_SNAP
  | 0x500 => ok (s.probeCtlWrite site v)                                          -- LDC_PROBE_CTL
  | 0x508 => ok (s.traceCtlWrite site v)                                          -- LDC_TRACE_CTL
  | 0x600 => ok (s.probeSelWrite site r.i v)                                      -- LDC_PROBE_SEL
  | 0x780 => s.onlyS (s.diagWrite site v) may                                     -- LDC_BSH_DIAG_CTL
  | 0xA00 => ok (s.sigErrWrite site v)                                            -- LDC_SIG_ERR
  | _ => none

/-- The effect of a write that a master may make on a register. -/
def State.csrEffect (s : State) (mid : Nat) (may : Bool) (r : RegHit) (v : Word) : State × Status :=
  let own := match r.row.kind with
    | .hub => s.hubWrite mid may r v
    | .hubZero => s.hubZeroWrite mid may r v
    | .port => s.portWrite mid may r v
    | .ldc => s.ldcWrite may r v
    | .dbg => none
  own.getD (s.csrStore r may v, .ok)

/-! ### A write (R12, R13, R15, R1022) -/

/-- A master may write the RWS fields of a register: Level S, and the writer TB_PTP names for the time adjustment (R15, R617). -/
def State.rwsMay (s : State) (mid : Nat) (r : RegHit) : Bool :=
  s.levelS mid || (r.row.kind = .hubZero && decide (0x500010 ≤ r.row.base ∧ r.row.base ≤ 0x500020) && s.tbWriter mid)

/-- The latch keys a register owns: its high word, and what its low word latches beside it (R12). -/
def RegHit.latchKeys (r : RegHit) : List Nat :=
  let low := r.key - 4 * r.word
  if low = TB_NS then [TB_NS + 4, TB_FRAC] else if low = CAL_SEC then [CAL_SEC + 4, CAL_FRAC]
  else if r.row.wide then [low + 4] else []

/-- A write of a word that reaches its register: where it is reserved to Level S it has no effect for others; RWS fields keep their
values for others, with ERR_DENIED (R15). -/
def State.wordWrite (s : State) (mid : Nat) (r : RegHit) (v : Word) : State × Status :=
  let may := s.rwsMay mid r
  if r.row.levelS && !may then (s, .errDenied)
  else
    let x := (s.dropLatches mid r.latchKeys).csrEffect mid may r v
    (x.1, if x.2 = .ok && !may && r.row.rws ≠ 0 then .errDenied else x.2)

/-- The status of an access to a register by a master before it reaches it (R397, R411). -/
def State.accessCheck (s : State) (mid key : Nat) : Status :=
  let sp := key / 0x1000000
  let off := key % 0x1000000
  if sp < 2 ∧ 0x130000 ≤ off ∧ off < 0x140000 ∧ !(s.levelS mid || mid / 256 = 0xE + sp) then .errDenied else s.keyCheck key

/-- A 32-bit write of a word (R11, R15, R1022). -/
def State.csrWrite (s : State) (mid key : Nat) (v : Word) : State × Status :=
  match s.accessCheck mid key, regHit key with
  | .ok, some r => s.wordWrite mid r v
  | .ok, none => (s, .errTarget)
  | st, _ => (s, st)

/-- A 64-bit write of a register: both words in one step (R1022). TB_INCR and PWR_DIE_GATE judge the two words together; for every
other register the words are written one after the other, which no rule can tell apart. -/
def State.csrWrite64 (s : State) (mid key : Nat) (v : DWord) : State × Status :=
  match s.accessCheck mid key, regHit key with
  | .ok, some r =>
    if !r.row.wide || r.word ≠ 0 then (s, .errTarget)
    else if key = TB_INCR ∨ key = PWR_DIE_GATE then
      if !s.rwsMay mid r then (s, .errDenied)
      else if key = TB_INCR then ((s.dropLatches mid r.latchKeys).tbIncrWrite v, .ok)
      else ((s.dropLatches mid r.latchKeys).dieGateWrite v, .ok)
    else
      let a := s.wordWrite mid r (wordAt v 0)
      let b := a.1.wordWrite mid { r with word := 1, key := key + 4 } (wordAt v 1)
      (b.1, if a.2 = .ok then b.2 else a.2)
  | .ok, none => (s, .errTarget)
  | st, _ => (s, st)

/-- REGISTER_WRITE (R10-R15, R1022): a 32-bit write of a register word by a master. -/
def execRegisterWrite (mid : BitVec 12) (key : BitVec 32) (value : Word) (s : State) : Host.Outcome State Fault Refusal :=
  .next (if s.spaceAnswers (key.toNat / 0x1000000) then answerWrite key.toNat (s.csrWrite mid.toNat key.toNat value) else s)

end Sys2Proof.Machine
end

