-- ==== Sys2Proof/Machine/CsrRead.lean ====
section
/-! DEFINITION. Reads of registers over the ring: what each register shows, latches, and the reads that have a side effect (R10-R12,
R16 and the register tables). -/

namespace Sys2Proof.Machine

open Sys2Proof

/-! ### Registers that show something else than a stored word -/

/-- The count a watchdog shows, which the model does not keep: a free value within its timeout (log entry 3). -/
def State.remain (s : State) (timeout : Nat) : Nat × State :=
  let f := s.free
  (f.1.toNat % (timeout + 1), f.2)

/-- WDT_CORE_STAT (R839, R841): nothing remains of a watchdog that has expired or is off. -/
def State.coreStat (s : State) (h c : Nat) : Word × State :=
  let w := s.csr (WDT_CORE_STAT h c) &&& 0x3000000#32
  if s.coreCounts (4 * h + c) then
    let r := s.remain (s.fld (WDT_CORE_CTL_TIMEOUT_US h c))
    (w ||| BitVec.ofNat 32 r.1, r.2)
  else (w, s)

/-- WDT_SAFE_STAT (R842, R843): REMAIN_MS and OPEN follow a time the model does not keep (log entry 3). -/
def State.safeStat (s : State) : Word × State :=
  if s.bit WDT_SAFE_CTL_EN then
    let r := s.remain (s.fld WDT_SAFE_CTL_TIMEOUT_MS)
    let f := r.2.free
    (BitVec.ofNat 32 (r.1 + 16384 * (f.1.getLsbD 0).toNat), f.2)
  else (0, s)

/-- CMD_STAT (R784): commands outstanding, the always-on responder, the protocol versions. -/
def State.cmdStat (s : State) : Word :=
  BitVec.ofNat 32 (s.fld CMD_STAT_OUTSTANDING + 32 * (!s.mcRuns).toNat + 256 * s.versions)

/-- LDC_MT_HALTMAP (R268): the tiles of an acre in state ERROR. -/
def State.haltMap (s : State) (site a : Nat) : Word :=
  (List.range 32).foldl (fun w i => if (s.tile site (32 * a + i)).mode = .error then w ||| BitVec.twoPow 32 i else w) 0

/-- LDC_PWR (R892 levels 3 and 4): MT_THROTTLED while the throttle level reaches the tiles the die lets it reach. -/
def State.ldcPwr (s : State) (site : Nat) : Word :=
  putBits (s.csr (LDC_PWR site)) 1 1 (decide (3 ≤ s.fld PWR_STAT_THR_LEVEL) && s.csr (LDC_PWR_THR site) ≠ 0).toNat

/-- What a hub's register word shows. -/
def State.hubView (s : State) (mid : Nat) (r : RegHit) : Word × State :=
  let h := r.unit
  match r.row.base with
  | 0x120004 => (s.fwlStat h, s)
  | 0x130000 => (s.xIdWord h, s)
  | 0x130004 => (s.csr (HUB_PKG_CAP h), s)
  | 0x130008 => (s.csr (LNK_STAT (129 + h)), s)
  | 0x300004 => (s.mpeStat h, s)
  | 0x300040 => (0, s)
  | 0x400000 => (s.qeStat h, s)
  | 0x40000C => (s.qEvtWord h, s)
  | 0x440024 => (s.qStat h r.i, s)
  | 0x600010 => (wordAt (s.crcResult (.hub (Fin.ofNat 2 h) (Fin.ofNat 4 r.i))) r.word, s)
  | 0x600018 => (wordAt (s.crc (.hub (Fin.ofNat 2 h) (Fin.ofNat 4 r.i))).count r.word, s)
  | 0x760004 => (0, s)
  | 0x760008 => s.coreStat h r.i
  | 0x780004 => (s.cpuStat h, s)
  | 0x780100 => (s.semWord mid h r.i, s)
  | _ => (s.csr r.key, s)

/-- What a register word shows. -/
def State.view (s : State) (mid : Nat) (r : RegHit) : Word × State :=
  match r.row.kind with
  | .hub => s.hubView mid r
  | .hubZero =>
    match r.row.base with
    | 0x100014 => (s.planEntry, s)
    | 0x500000 => (wordAt (s.tb.time.extractLsb' 32 64) r.word, s)
    | 0x500008 => (s.tb.time.setWidth 32, s)
    | 0x700000 => (s.cfgStat, s)
    | 0x720000 => (s.cmdStat, s)
    | 0x720084 => (0, s)
    | 0x760108 => s.safeStat
    | 0x7E0040 => (((s.errs.log[s.fld HUB_ERR_IDX_IDX]?).map fun e => e.words.getD r.i 0).getD 0, s)
    | 0x7F0000 => (s.ltsStat, s)
    | 0x7F1000 => (wordAt s.rst.calSec r.word, s)
    | 0x7F1008 => (s.rst.calFrac, s)
    | _ => (s.csr r.key, s)
  | .port =>
    match r.row.base with
    | 0x41800 => (0, s)
    | 0x8000C => (0, s)
    | 0x80010 => (wordAt (s.txstWord r.unit r.i) r.word, s)
    | 0xD0010 => (wordAt (s.crcResult (.port (Fin.ofNat 4 r.unit) (Fin.ofNat 2 r.i))) r.word, s)
    | 0xD0018 => (wordAt (s.crc (.port (Fin.ofNat 4 r.unit) (Fin.ofNat 2 r.i))).count r.word, s)
    | _ => (s.csr r.key, s)
  | .ldc =>
    match r.row.base with
    | 0x408 => (s.snapQ r.unit, s)
    | 0x40C => (s.snapSt r.unit, s)
    | 0x410 => (s.snapStat r.unit, s)
    | 0x7A0 => (s.haltMap r.unit r.i, s)
    | 0x90C => (s.ldcPwr r.unit, s)
    | _ => (s.csr r.key, s)
  | .dbg => (s.csr r.key, s)

/-- The side effect of a read of an RS register, which the debug attribute suppresses (R16, R588, R643, R831). PRT_ETH_TXST, of 64 bits, pops
its FIFO at a read of its low word or of both, not of its high word alone: the spec does not say which (log entry 96). -/
def State.readEffect (s : State) (mid : Nat) (r : RegHit) : State :=
  match r.row.kind, r.row.base with
  | .hub, 0x40000C => s.qEvtPop r.unit
  | .hub, 0x780100 => (s.semRead mid r.unit r.i false).2
  | .port, 0x80010 => if r.word = 0 then s.txstPop r.unit r.i else s
  | _, _ => s

/-- The poison a read of CRC_RESULT returns with its value (R979). -/
def State.readPoison (s : State) (r : RegHit) : Option PoisonRsn :=
  match r.row.kind, r.row.base with
  | .hub, 0x600010 => (s.crc (.hub (Fin.ofNat 2 r.unit) (Fin.ofNat 4 r.i))).poison
  | .port, 0xD0010 => (s.crc (.port (Fin.ofNat 4 r.unit) (Fin.ofNat 2 r.i))).poison
  | _, _ => none

/-! ### A read (R11, R12, R16) -/

/-- What a completed access returns. -/
structure CsrRead where
  status : Status
  value  : DWord
  poison : Option PoisonRsn
  peek   : Bool
  deriving DecidableEq, Repr

/-- A read that ends without reaching a register. -/
def CsrRead.failed (st : Status) : CsrRead := ⟨st, 0, none, false⟩

/-- The latch of a master on a word. -/
def State.latchOf (s : State) (mid key : Nat) : Option Latch := s.latches.find? fun l => l.mid = mid && l.key = key

/-- The words that a read of a low word latches: keys and the values they show (R12). -/
def State.latchWords (s : State) (mid : Nat) (r : RegHit) : List Latch :=
  r.latchKeys.filterMap fun k => (regHit k).map fun q => ⟨mid, k, (s.view mid q).1⟩

/-- A 32-bit read of a register word. A latched word serves one read; a read of a low word latches the rest, in place of what was
latched; RS registers have their side effect unless the read has the debug attribute (R12, R16). A semaphore shows the state after an
acquisition (R831). -/
def State.wordRead (s : State) (mid : Nat) (r : RegHit) (dbg : Bool) : CsrRead × State :=
  match s.latchOf mid r.key with
  | some l => (⟨.ok, l.value.setWidth 64, s.readPoison r, false⟩, s.dropLatches mid [r.key])
  | none =>
    let s0 := if r.row.kind = .hub ∧ r.row.base = 0x780100 ∧ !dbg then s.readEffect mid r else s
    let v := s0.view mid r
    let s1 := if r.word = 0 ∧ r.latchKeys ≠ [] then
        let t := v.2.dropLatches mid r.latchKeys
        { t with latches := t.latches ++ s.latchWords mid r }
      else v.2
    (⟨.ok, v.1.setWidth 64, s.readPoison r, r.row.rs && dbg⟩, if dbg then s1 else s1.readEffect mid r)

/-- A 32-bit read by a master. -/
def State.csrRead (s : State) (mid key : Nat) (dbg : Bool) : CsrRead × State :=
  match s.accessCheck mid key, regHit key with
  | .ok, some r => s.wordRead mid r dbg
  | .ok, none => (CsrRead.failed .errTarget, s)
  | st, _ => (CsrRead.failed st, s)

/-- A 64-bit read by a master: both words as they stand, without a latch (R11, R12). -/
def State.csrRead64 (s : State) (mid key : Nat) (dbg : Bool) : CsrRead × State :=
  match s.accessCheck mid key, regHit key with
  | .ok, some r =>
    if !r.row.wide || r.word ≠ 0 then (CsrRead.failed .errTarget, s)
    else
      let v := s.view mid r
      let w := (s.view mid { r with word := 1, key := key + 4 }).1
      (⟨.ok, w ++ v.1, s.readPoison r, r.row.rs && dbg⟩, if dbg then s else s.readEffect mid r)
  | .ok, none => (CsrRead.failed .errTarget, s)
  | st, _ => (CsrRead.failed st, s)

/-- LOW_WORD_READ (R12): a 32-bit read by a master of the low word of a 64-bit register. -/
def execLowWordRead (mid : BitVec 12) (key : BitVec 32) (dbg : Bool) (s : State) : Host.Outcome State Fault Refusal :=
  let k := key.toNat
  .next (match regHit k with
    | none => s
    | some r =>
      if !r.row.wide || r.word ≠ 0 || !s.spaceAnswers (k / 0x1000000) then s
      else
        let x := s.csrRead mid.toNat k dbg
        if x.1.status = .ok then x.2.send (.readback k x.1.value x.1.peek) else answerWrite k (s, x.1.status))

end Sys2Proof.Machine
end

