-- ==== Sys2Proof/Machine/CubitOp.lean ====
section
/-! DEFINITION. The meanings of the cubit commands (R69-R74, R85, R93). -/

namespace Sys2Proof.Machine

open Sys2Proof

/-- An edge of a word-mode cubit whose active context holds operation `opc`. -/
def State.wordOpEdge (s : State) (opc : Nat) (site x y : Nat) (same : Bool) : State :=
  s.cubitAt site x y same fun o => !cubitBitMode (o.cubitCfg site x y) && o.cubitOpc site x y == opc

/-- PASS (R69, R85): an edge of a word-mode cubit whose active context holds opcode 0x00. -/
def execPass (site : Fin 64) (x y : Fin 128) (same : Bool) (s : State) : Host.Outcome State Fault Refusal :=
  .next (s.wordOpEdge 0x00 site x y same)

/-- LDK (R69, R85): an edge of a word-mode cubit whose active context holds opcode 0x01. -/
def execLdk (site : Fin 64) (x y : Fin 128) (same : Bool) (s : State) : Host.Outcome State Fault Refusal :=
  .next (s.wordOpEdge 0x01 site x y same)

/-- ADD (R70, R85): an edge of a word-mode cubit whose active context holds opcode 0x02. -/
def execAdd (site : Fin 64) (x y : Fin 128) (same : Bool) (s : State) : Host.Outcome State Fault Refusal :=
  .next (s.wordOpEdge 0x02 site x y same)

/-- ADC (R70, R85): an edge of a word-mode cubit whose active context holds opcode 0x03. -/
def execAdc (site : Fin 64) (x y : Fin 128) (same : Bool) (s : State) : Host.Outcome State Fault Refusal :=
  .next (s.wordOpEdge 0x03 site x y same)

/-- SUB (R70, R85): an edge of a word-mode cubit whose active context holds opcode 0x04. -/
def execSub (site : Fin 64) (x y : Fin 128) (same : Bool) (s : State) : Host.Outcome State Fault Refusal :=
  .next (s.wordOpEdge 0x04 site x y same)

/-- SBC (R70, R85): an edge of a word-mode cubit whose active context holds opcode 0x05. -/
def execSbc (site : Fin 64) (x y : Fin 128) (same : Bool) (s : State) : Host.Outcome State Fault Refusal :=
  .next (s.wordOpEdge 0x05 site x y same)

/-- CMP (R70, R85): an edge of a word-mode cubit whose active context holds opcode 0x06. -/
def execCmp (site : Fin 64) (x y : Fin 128) (same : Bool) (s : State) : Host.Outcome State Fault Refusal :=
  .next (s.wordOpEdge 0x06 site x y same)

/-- MINU (R69, R85): an edge of a word-mode cubit whose active context holds opcode 0x07. -/
def execMinu (site : Fin 64) (x y : Fin 128) (same : Bool) (s : State) : Host.Outcome State Fault Refusal :=
  .next (s.wordOpEdge 0x07 site x y same)

/-- MAXU (R69, R85): an edge of a word-mode cubit whose active context holds opcode 0x08. -/
def execMaxu (site : Fin 64) (x y : Fin 128) (same : Bool) (s : State) : Host.Outcome State Fault Refusal :=
  .next (s.wordOpEdge 0x08 site x y same)

/-- MINS (R69, R85): an edge of a word-mode cubit whose active context holds opcode 0x09. -/
def execMins (site : Fin 64) (x y : Fin 128) (same : Bool) (s : State) : Host.Outcome State Fault Refusal :=
  .next (s.wordOpEdge 0x09 site x y same)

/-- MAXS (R69, R85): an edge of a word-mode cubit whose active context holds opcode 0x0A. -/
def execMaxs (site : Fin 64) (x y : Fin 128) (same : Bool) (s : State) : Host.Outcome State Fault Refusal :=
  .next (s.wordOpEdge 0x0A site x y same)

/-- AND (R69, R85): an edge of a word-mode cubit whose active context holds opcode 0x0B. -/
def execAnd (site : Fin 64) (x y : Fin 128) (same : Bool) (s : State) : Host.Outcome State Fault Refusal :=
  .next (s.wordOpEdge 0x0B site x y same)

/-- OR (R69, R85): an edge of a word-mode cubit whose active context holds opcode 0x0C. -/
def execOr (site : Fin 64) (x y : Fin 128) (same : Bool) (s : State) : Host.Outcome State Fault Refusal :=
  .next (s.wordOpEdge 0x0C site x y same)

/-- XOR (R69, R85): an edge of a word-mode cubit whose active context holds opcode 0x0D. -/
def execXor (site : Fin 64) (x y : Fin 128) (same : Bool) (s : State) : Host.Outcome State Fault Refusal :=
  .next (s.wordOpEdge 0x0D site x y same)

/-- ANDN (R69, R85): an edge of a word-mode cubit whose active context holds opcode 0x0E. -/
def execAndn (site : Fin 64) (x y : Fin 128) (same : Bool) (s : State) : Host.Outcome State Fault Refusal :=
  .next (s.wordOpEdge 0x0E site x y same)

/-- SHL (R71, R85): an edge of a word-mode cubit whose active context holds opcode 0x0F. -/
def execShl (site : Fin 64) (x y : Fin 128) (same : Bool) (s : State) : Host.Outcome State Fault Refusal :=
  .next (s.wordOpEdge 0x0F site x y same)

/-- SHR (R71, R85): an edge of a word-mode cubit whose active context holds opcode 0x10. -/
def execShr (site : Fin 64) (x y : Fin 128) (same : Bool) (s : State) : Host.Outcome State Fault Refusal :=
  .next (s.wordOpEdge 0x10 site x y same)

/-- SAR (R71, R85): an edge of a word-mode cubit whose active context holds opcode 0x11. -/
def execSar (site : Fin 64) (x y : Fin 128) (same : Bool) (s : State) : Host.Outcome State Fault Refusal :=
  .next (s.wordOpEdge 0x11 site x y same)

/-- ROL (R71, R85): an edge of a word-mode cubit whose active context holds opcode 0x12. -/
def execRol (site : Fin 64) (x y : Fin 128) (same : Bool) (s : State) : Host.Outcome State Fault Refusal :=
  .next (s.wordOpEdge 0x12 site x y same)

/-- ROR (R71, R85): an edge of a word-mode cubit whose active context holds opcode 0x13. -/
def execRor (site : Fin 64) (x y : Fin 128) (same : Bool) (s : State) : Host.Outcome State Fault Refusal :=
  .next (s.wordOpEdge 0x13 site x y same)

/-- SEL (R69, R85): an edge of a word-mode cubit whose active context holds opcode 0x14. -/
def execSel (site : Fin 64) (x y : Fin 128) (same : Bool) (s : State) : Host.Outcome State Fault Refusal :=
  .next (s.wordOpEdge 0x14 site x y same)

/-- PACK (R69, R85): an edge of a word-mode cubit whose active context holds opcode 0x15. -/
def execPack (site : Fin 64) (x y : Fin 128) (same : Bool) (s : State) : Host.Outcome State Fault Refusal :=
  .next (s.wordOpEdge 0x15 site x y same)

/-- UNPKL (R69, R85): an edge of a word-mode cubit whose active context holds opcode 0x16. -/
def execUnpkl (site : Fin 64) (x y : Fin 128) (same : Bool) (s : State) : Host.Outcome State Fault Refusal :=
  .next (s.wordOpEdge 0x16 site x y same)

/-- UNPKH (R69, R85): an edge of a word-mode cubit whose active context holds opcode 0x17. -/
def execUnpkh (site : Fin 64) (x y : Fin 128) (same : Bool) (s : State) : Host.Outcome State Fault Refusal :=
  .next (s.wordOpEdge 0x17 site x y same)

/-- RESERVED_OPC (R74): an edge of a word-mode cubit whose active context holds a reserved opcode. -/
def execReservedOpc (site : Fin 64) (x y : Fin 128) (same : Bool) (s : State) : Host.Outcome State Fault Refusal :=
  .next (s.cubitAt site x y same fun o => !cubitBitMode (o.cubitCfg site x y) && decide (0x18 ≤ o.cubitOpc site x y))

/-- SYNCHRONOUS_CLEAR (R85): an edge of a word-mode cubit with CLR_EN = 1 and CTL1 = 1. -/
def execSynchronousClear (site : Fin 64) (x y : Fin 128) (same : Bool) (s : State) : Host.Outcome State Fault Refusal :=
  .next (s.cubitAt site x y same fun o => !cubitBitMode (o.cubitCfg site x y) && cubitClrEn (o.cubitCfg site x y) &&
    (o.cubitIn site x y).ctl.getLsbD 1)

/-- GRAIN_EDGE (R93): an edge of a bit-mode cubit. -/
def execGrainEdge (site : Fin 64) (x y : Fin 128) (same : Bool) (s : State) : Host.Outcome State Fault Refusal :=
  .next (s.cubitAt site x y same fun o => cubitBitMode (o.cubitCfg site x y))

end Sys2Proof.Machine
end

