-- ==== Sys2Proof/Machine/HostPort.lean ====
section
/-! DEFINITION. The MAC-tile host port: data memories, instruction memory and the registers of a tile (R258-R266). -/

namespace Sys2Proof.Machine

open Sys2Proof

/-! ### Memories (R259, R260) -/

/-- Bytes put into coded bytes, from byte `lo` on (R186). -/
def codedPut (old : BitVec 104) (lo : Nat) (bs : List Byte) : BitVec 104 :=
  bs.zipIdx.foldl (fun w b =>
    let at0 := 13 * (lo + b.2)
    (w &&& ~~~(BitVec.ofNat 104 (8191 * 2 ^ at0))) ||| ((secEncode b.1).setWidth 104 <<< at0)) old

/-- Read the 8-byte word at byte offset 8 × `w` of a tile: MEM0, MEM1, then IMEM. Its data, whether it is poisoned or
uncorrectable, and the state with the errors counted (R254, R260). -/
def State.tileMemRead (s : State) (site t w : Nat) : DWord × Bool × State :=
  if w < 512 then s.tileRead site t (w / 256) (w % 256)
  else
    let o := secDecode8 (s.iword site t (w - 512))
    (o.data, o.ue, s.tileCount site t o.ce o.ue false false)

/-- Write bytes `lo` on of that word: a 4-byte write leaves an unpoisoned write's poison bit as it was (R260). -/
def State.tileMemWrite (s : State) (site t w lo : Nat) (bs : List PByte) : State :=
  let data := bs.map Prod.fst
  if w < 512 then
    let k := tmemKey site t (w / 256) (w % 256)
    let old := s.tword k
    let poison := bs.any Prod.snd || (bs.length ≠ 8 && old.getLsbD 104)
    s.setTword k ((codedPut (old.setWidth 104) lo data).setWidth 105 ||| (if poison then BitVec.twoPow 105 104 else 0))
  else
    let k := tileKey site t * 32 + (w - 512)
    { s with fab := { s.fab with imem := mapSet s.fab.imem 0 k (codedPut (mapGet s.fab.imem 0 k) lo data) } }

/-- A packet's bytes by the 8-byte words they lie in: each word's number, its first byte and its bytes. -/
def byWords (off : Nat) (bs : List PByte) : List (Nat × Nat × List PByte) :=
  (List.range ((off + bs.length + 7) / 8 - off / 8)).map fun i =>
    let w := off / 8 + i
    let lo := if i = 0 then off % 8 else 0
    (w, lo, (bs.drop (8 * w + lo - off)).take (8 - lo))

/-- A host access to a tile's memories (R259, R260, R262). Of a packet of several words, each 8-byte word is one access for CE_CNT and UE_CNT
(log entry 105). -/
def State.tileMem (s : State) (stop : Nat) (p : ReqPkt) (site t off : Nat) : State :=
  let len := reqLen p
  if p.opc = 0 then
    let ws := (byWords off (List.replicate len (0, false))).map (·.1)
    let x := ws.foldl (fun (acc : List PByte × State) w =>
      let y := acc.2.tileMemRead site t w
      (acc.1 ++ (bytesOf y.1 8).map (fun b => (b, y.2.1)), y.2.2)) ([], s)
    let bs := (x.1.drop (off % 8)).take len
    if bs.any Prod.snd then x.2.reply stop p .poison .fabric false bs else x.2.reply stop p .ok .none false bs
  else
    let bs := reqBytes p
    let held := !(s.tile site t).mode.halted
    if (bs.zipIdx.any fun b => 0x1000 ≤ off + b.2 && (b.1.2 || held)) then s.reply stop p .errTarget
    else ((byWords off bs).foldl (fun u x => u.tileMemWrite site t x.1 x.2.1 x.2.2) s).reply stop p .ok

/-! ### Registers (R258, R264-R266) -/

/-- STATE of LDC_MT_STAT (R265). -/
def TileMode.code : TileMode → Nat
  | .idle => 0 | .run => 1 | .wait => 2 | .done => 3 | .stopped => 4 | .error => 5

/-- LDC_MT_AGCFG of a generator (R258). -/
def AddrGen.cfg (g : AddrGen) : Word := g.mode.setWidth 8 ++ g.modM1 ++ g.stride ++ g.base

/-- A register word of a tile, if the offset names one. -/
def TileSt.reg (x : TileSt) (off : Nat) : Option Word :=
  match off with
  | 0x1800 => some x.ctl
  | 0x1804 => some (BitVec.ofNat 32 (x.mode.code + 8 * x.pc + 256 * x.loops.length + 1024 * x.waitOn))
  | 0x1808 => some (x.err.setWidth 32)
  | 0x180C => some (BitVec.ofNat 32 (x.e.toNat + 256 * x.be.toNat + 32768 * x.poisBe.toNat))
  | 0x1830 => some (wordAt x.acc0 0)
  | 0x1834 => some (wordAt x.acc0 1)
  | 0x1838 => some (wordAt x.acc1 0)
  | 0x183C => some (wordAt x.acc1 1)
  | 0x1840 => some x.ecnt
  | _ =>
    if 0x1810 ≤ off ∧ off < 0x1830 ∧ off % 4 = 0 then
      let g := x.ag ((off - 0x1810) / 8)
      some (if off % 8 = 0 then g.cfg else g.offset.setWidth 32)
    else none

/-- The latch key of a tile's register (R12, R258). -/
def tileRegKey (site t off : Nat) : Nat := 0x100000000 + tileKey site t * 0x2000 + off

/-- The bits of a generator as the host writes them, kept for READBACK (R258, R737). Under GSR the generators hold their image values, and
a write changes nothing (R255). -/
def State.agWrite (s : State) (site t n : Nat) (g : AddrGen) : State :=
  let pl := tilePlace site t
  if !(s.place pl).gsrOff then s else
  let old := s.frame pl (hostAgIndex (t % 32))
  let v : BitVec 4096 := ((g.offset.setWidth 32 ++ g.cfg : DWord).setWidth 4096) <<< (64 * n)
  let m : BitVec 4096 := BitVec.ofNat 4096 ((2 ^ 64 - 1) * 2 ^ (64 * n))
  (s.setTile site t ((s.tile site t).setAg n g)).setFrameBits pl (hostAgIndex (t % 32)) ((old &&& ~~~m) ||| v)

/-- A write of START_PC (R264): under GSR the PC follows it (R255). -/
def State.startPcWrite (s : State) (site t : Nat) (v : Word) : State :=
  let x := s.tile site t
  let ctl := (x.ctl &&& 0xFFFFE0FF#32) ||| (v &&& 0x1F00#32)
  s.setTile site t { x with ctl := ctl, pc := if (s.place (tilePlace site t)).gsrOff then x.pc else bitsOf ctl 8 5 }

/-- A write of a register word of a tile (R246-R248, R258, R262, R264, R266). Of one write of LDC_MT_CTL, START_PC takes effect first, then
GO, RESUME and STOP in this order, which the spec does not give (log entry 104). -/
def State.tileRegWrite (s : State) (site t off : Nat) (v : Word) : State × Status :=
  let x := s.tile site t
  match off with
  | 0x1800 =>
    let s1 := s.startPcWrite site t v
    let s2 := if v.getLsbD 0 then s1.tileGo site t else s1
    let s3 := if v.getLsbD 2 then s2.tileResume site t else s2
    (if v.getLsbD 1 then s3.tileStop site t else s3, .ok)
  | 0x1808 => (s.setTile site t { x with err := x.err &&& ~~~(v.setWidth 6) }, .ok)
  | _ =>
    if 0x1810 ≤ off ∧ off < 0x1830 then
      let n := (off - 0x1810) / 8
      let g := x.ag n
      if !x.mode.halted then (s, .errTarget)
      else if off % 8 = 0 then
        (s.agWrite site t n { g with base := v.setWidth 8, stride := (v >>> 8).setWidth 8, modM1 := (v >>> 16).setWidth 8,
                                     mode := (v >>> 24).setWidth 2 }, .ok)
      else (s.agWrite site t n { g with offset := v.setWidth 8 }, .ok)
    else (s, .ok)

/-- A host access to a tile's registers: as R10 to R12 have it for CSRs (R258). -/
def State.tileReg (s : State) (stop : Nat) (p : ReqPkt) (site t off : Nat) : State :=
  let len := reqLen p
  let mid := p.mid.toNat
  let x := s.tile site t
  let wide := off = 0x1830 ∨ off = 0x1838
  let key (o : Nat) : Nat := tileRegKey site t o
  match x.reg off with
  | none => s.reply stop p .errTarget
  | some w =>
    if len = 8 ∧ wide then
      if p.opc = 0 then s.reply stop p .ok .none false ((bytesOf (if off = 0x1830 then x.acc0 else x.acc1) 8).map fun b => (b, false))
      else if (reqBytes p).any Prod.snd then s.reply stop p .errTarget
      else (s.dropLatches mid [key (off + 4)]).reply stop p .ok
    else if len ≠ 4 ∨ off % 4 ≠ 0 then s.reply stop p .errTarget
    else if p.opc = 0 then
      let answer (s : State) (v : Word) : State := s.reply stop p .ok .none false ((bytesOf v 4).map fun b => (b, false))
      match s.latchOf mid (key off) with
      | some l => answer (s.dropLatches mid [key off]) l.value
      | none =>
        if wide then
          let t1 := s.dropLatches mid [key (off + 4)]
          answer { t1 with latches := t1.latches ++ [Latch.mk mid (key (off + 4)) ((x.reg (off + 4)).getD 0)] } w
        else answer s w
    else if (reqBytes p).any Prod.snd then s.reply stop p .errTarget
    else
      let r := (s.dropLatches mid [key off, key (off + 4)]).tileRegWrite site t off (leWord ((reqBytes p).map Prod.fst))
      r.1.reply stop p r.2

/-- A request that reached the host port of a logical die's MAC tiles (R258, R259, R263, R298). -/
def State.tileServe (s : State) (stop : Nat) (p : ReqPkt) : State :=
  let site := (s.siteOf (stop / 8)).getD 0
  let a := p.addr.toNat % 0x40000000 - 0x3F000000
  let t := a / 0x2000
  let off := a % 0x2000
  let len := reqLen p
  if !s.tileOpen site t then s.reply stop p .errFenced
  else if 1 < p.opc.toNat ∨ 4096 < p.addr.toNat % 4096 + len then s.reply stop p .errTarget
  else if off < 0x1100 then
    if off % 4 ≠ 0 ∨ len % 4 ≠ 0 ∨ 0x1100 < off + len then s.reply stop p .errTarget else s.tileMem stop p site t off
  else s.tileReg stop p site t off

end Sys2Proof.Machine
end

