-- ==== Sys2Proof/Machine/Serve.lean ====
section
/-! DEFINITION. Requests that reach their target stop, and completions that reach their requester (R296-R300, R306, R618, R619,
R625-R634). -/

namespace Sys2Proof.Machine

open Sys2Proof

/-! ### CSR stops (R10-R16, R298) -/

/-- A CSR read is answered (R16, R299, R979). -/
def State.answerRead (s : State) (stop : Nat) (p : ReqPkt) (r : CsrRead) : State :=
  if r.status ≠ .ok then s.reply stop p r.status
  else
    let bs := (bytesOf r.value (reqLen p)).map fun b => (b, r.poison.isSome)
    match r.poison with
    | some x => s.reply stop p .poison x r.peek bs
    | none => s.reply stop p .ok .none r.peek bs

/-- A read of 4 or 8 bytes by the master of a request. -/
def State.csrReadLen (s : State) (p : ReqPkt) (key : Nat) (dbg : Bool) : CsrRead × State :=
  if reqLen p = 4 then s.csrRead p.mid.toNat key dbg else s.csrRead64 p.mid.toNat key dbg

/-- A write of 4 or 8 bytes by the master of a request. -/
def State.csrWriteLen (s : State) (p : ReqPkt) (key v : Nat) : State × Status :=
  if reqLen p = 4 then s.csrWrite p.mid.toNat key (BitVec.ofNat 32 v) else s.csrWrite64 p.mid.toNat key (BitVec.ofNat 64 v)

/-- A request to a register (R11, R13, R298): atomics only at hub CSR stops. A poisoned operand reaches no register (log entry 61); a
compare-and-swap that fails writes nothing. -/
def State.csrServe (s : State) (stop : Nat) (p : ReqPkt) (key : Nat) (atomics : Bool) : State :=
  let len := reqLen p
  if !((len = 4 && key % 4 = 0) || (len = 8 && key % 8 = 0)) || 5 ≤ p.opc.toNat || (2 ≤ p.opc.toNat && !atomics) then
    s.reply stop p .errTarget
  else if p.opc = 0 then
    let x := s.csrReadLen p key p.dbg
    x.2.answerRead stop p x.1
  else if p.poison || (reqBytes p).any Prod.snd || p.data.any (·.poison) then s.reply stop p .errTarget
  else if p.opc = 1 then
    let x := s.csrWriteLen p key (leNat ((reqBytes p).map Prod.fst))
    x.1.reply stop p x.2
  else
    let x := s.csrReadLen p key false
    if x.1.status ≠ .ok then x.2.reply stop p x.1.status
    else if casMisses p len x.1.value.toNat then x.2.answerRead stop p x.1
    else
      let y := x.2.csrWriteLen p key (atomicNew p len x.1.value.toNat)
      if y.2 = .ok then y.1.answerRead stop p x.1 else y.1.reply stop p y.2

/-! ### Data windows (R619) -/

/-- Bytes whose values the spec does not give (log entry 3). -/
def State.freeBytes (s : State) : Nat → List Byte × State
  | 0 => ([], s)
  | n + 1 =>
    let f := s.free
    let r := f.2.freeBytes n
    (bytesOf f.1 64 ++ r.1, r.2)

/-- A request to the data window of a CRC unit (R619, R675, R676, R878, R979). What a read returns is not stated. -/
def State.crcServe (s : State) (stop : Nat) (p : ReqPkt) (u : CrcUnit) (key : Nat) : State :=
  if s.penOff key || 1 < p.opc.toNat then s.reply stop p .errTarget
  else if p.opc = 0 then
    let f := s.freeBytes 4
    f.2.reply stop p .ok .none false ((f.1.take (reqLen p)).map fun b => (b, false))
  else
    let x := s.crcData u p.mid.toNat (reqBytes p) .source
    x.1.reply stop p x.2

/-- A request to the CSR space and windows of a port die (R618, R619, R631). -/
def State.portServe (s : State) (stop port : Nat) (p : ReqPkt) : State :=
  let off := p.addr.toNat % 0x1000000
  if 0x400000 ≤ off ∧ off < 0x600000 then
    if p.opc = 0 then s.reply stop p .ok .none false ((s.txRead port (off - 0x400000) (reqLen p)).map fun b => (b, false))
    else if p.opc = 1 then
      let x := s.txWrite port (off - 0x400000) (reqBytes p)
      x.1.reply stop p x.2
    else s.reply stop p .errTarget
  else if 0x600000 ≤ off ∧ off < 0x602000 then
    s.crcServe stop p (.port (Fin.ofNat 4 port) (Fin.ofNat 2 ((off - 0x600000) / 0x1000))) ((2 + port) * 0x1000000 + off)
  else if 0x800000 ≤ off then s.pcieOutbound port p
  else s.csrServe stop p ((2 + port) * 0x1000000 + off) false

/-- A request to the CSR space of a hub: its registers, its CRC data windows and, in hub 0, the host windows (R5, R619, R733). -/
def State.hubServe (s : State) (stop h : Nat) (p : ReqPkt) : State :=
  let off := p.addr.toNat % 0x1000000
  if 0x610000 ≤ off ∧ off < 0x614000 then
    s.crcServe stop p (.hub (Fin.ofNat 2 h) (Fin.ofNat 4 ((off - 0x610000) / 0x1000))) (h * 0x1000000 + off)
  else if h = 0 ∧ 0x800000 ≤ off then
    match s.hostKey off with
    | some key => s.csrServe stop p key false
    | none => s.reply stop p .errTarget
  else s.csrServe stop p (h * 0x1000000 + off) true

/-! ### Messages (R296, R298) -/

/-- The MSG bit of a die's effective capabilities (R43). -/
def State.hasMsg (s : State) (stop : Nat) : Bool :=
  match stopKind stop with
  | .logic d _ => (s.csr (LDC_CAP_EFF ((s.siteOf d).getD 0))).getLsbD 2
  | .hub h _ => (s.csr (HUB_CAP_EFF h)).getLsbD 2
  | .port p _ => (s.csr (PRT_CAP_EFF p)).getLsbD 2
  | _ => false

/-- How a stop turns a message away; OK where it takes it: fences and gate enables hold for messages as for other requests. -/
def State.msgCheck (s : State) (stop : Nat) (p : ReqPkt) : Status :=
  if reqBad p || !s.hasMsg stop then .errTarget
  else match stopKind stop with
    | .logic d j =>
      if j < 4 then
        let gate := p.addr.toNat % 0x40000000 / 0x02000000
        if s.gateShut d gate then .errFenced else if !s.gateEnabled d gate then .errTarget else .ok
      else if j = 4 then (if s.siteGated ((s.siteOf d).getD 0) then .errFenced else .ok)
      else if s.tileOpen ((s.siteOf d).getD 0) (p.addr.toNat % 0x40000 / 0x2000) then .ok else .errFenced
    | .hub _ k => if (k = 5 || k = 6) && s.fenced then .errFenced else .ok
    | _ => .ok

/-- A message is put at the end of its stop's queue (R296). -/
def State.msgServe (s : State) (stop : Nat) (p : ReqPkt) : State :=
  match s.msgCheck stop p with
  | .ok => { s with ring := { s.ring with msgs := s.ring.msgs ++ [(stop, p.src.toNat, reqBytes p)] } }.reply stop p .ok
  | st => s.reply stop p st

/-! ### Requests (R287, R298) -/

/-- A request that a stop has accepted is served. -/
def State.targetServe (s : State) (stop : Nat) (p : ReqPkt) : State :=
  match stopKind stop with
  | .hub h 14 => s.fwlTake h (s.freeXtag h) p
  | kind =>
    if p.opc = 5 then s.msgServe stop p
    else match kind with
      | .logic d j =>
        if j < 4 then s.gateRequest stop p
        else if reqBad p then s.reply stop p .errTarget
        else if j = 4 then s.csrServe stop p ((8 + (s.siteOf d).getD 0) * 0x1000000 + p.addr.toNat % 0x100000) false
        else s.tileServe stop p
      | .hub h 5 => s.mpeServe h stop p
      | .hub h 6 => s.sramServe h stop p
      | .hub h 16 => if reqBad p then s.reply stop p .errTarget else s.hubServe stop h p
      | .port port 5 => if reqBad p then s.reply stop p .errTarget else s.portServe stop port p
      | _ => s

/-- A stop takes packets: its die answers. -/
def State.stopAnswers (s : State) (stop : Nat) : Bool :=
  match stopKind stop with
  | .reserved => false
  | .third x _ => s.hubAnswers x
  | _ => s.spaceAnswers (s.stopSpace stop)

/-- A request packet with an operation arrives at a stop. One with a reserved OPC counts as a READ, to be refused (R298). -/
def State.request (s : State) (op stop : Nat) (p : ReqPkt) : State :=
  if !(p.opc.toNat = op || (op = 0 && 6 ≤ p.opc.toNat)) || !s.stopAnswers stop then s
  else match s.arrive stop p with
    | (some q, t) => t.targetServe stop q
    | (none, t) => t

/-- READ (R296). -/
def execRead (stop : Fin 512) (p : ReqPkt) (s : State) : Host.Outcome State Fault Refusal := .next (s.request 0 stop p)

/-- WRITE (R296). -/
def execWrite (stop : Fin 512) (p : ReqPkt) (s : State) : Host.Outcome State Fault Refusal := .next (s.request 1 stop p)

/-- SWAP (R296). -/
def execSwap (stop : Fin 512) (p : ReqPkt) (s : State) : Host.Outcome State Fault Refusal := .next (s.request 2 stop p)

/-- FADD (R296). -/
def execFadd (stop : Fin 512) (p : ReqPkt) (s : State) : Host.Outcome State Fault Refusal := .next (s.request 3 stop p)

/-- CAS (R296). -/
def execCas (stop : Fin 512) (p : ReqPkt) (s : State) : Host.Outcome State Fault Refusal := .next (s.request 4 stop p)

/-- MSG (R296, R298). -/
def execMsg (stop : Fin 512) (p : ReqPkt) (s : State) : Host.Outcome State Fault Refusal := .next (s.request 5 stop p)

/-- MT_HOST_ACCESS (R258, R259): a READ or WRITE that arrives at the host port of a logical die's MAC tiles. -/
def execMtHostAccess (stop : Fin 512) (p : ReqPkt) (s : State) : Host.Outcome State Fault Refusal :=
  .next (match stopKind stop with
    | .logic _ 5 => s.request p.opc.toNat stop p
    | _ => s)

/-! ### Completions (R306-R312) -/

/-- An engine inside the device that waits for completions goes on. -/
def State.afterDeliver (s : State) (stop : Nat) : State :=
  match stopKind stop with
  | .port p 1 => s.pcieRun p
  | .port p 3 => s.intakeRun p
  | .hub 0 11 => State.cfgPump 200 s
  | .hub 0 12 => s.memPump
  | _ => s

/-- REQUEST_ISSUE (R287, R304-R319). A request of a tag that waits goes out when a slot comes. -/
def execRequestIssue (r : IssueReq) (s : State) : Host.Outcome State Fault Refusal := .next ((s.issue r).afterDeliver r.stop.toNat)

/-- COMPLETION (R306). -/
def execCompletion (stop : Fin 512) (p : CplPkt) (s : State) : Host.Outcome State Fault Refusal :=
  .next ((s.complete stop p).afterDeliver stop)

/-- TRANSACTION_TIMEOUT (R311, R312, R392). -/
def execTransactionTimeout (stop : Fin 512) (tag : Fin 8192) (s : State) : Host.Outcome State Fault Refusal :=
  .next ((s.timedOut stop tag).afterDeliver stop)

/-! ### Inbound PCIe requests (R625-R634) -/

/-- A word of BAR0 as the host reads it; none where BAR0 has no register. -/
def State.bar0Word (s : State) (p o : Nat) : Option Word :=
  if o < 0x400 then some (s.csr (PRT_MSIX_TABLE p (o / 4)))
  else if 0x800 ≤ o ∧ o < 0x808 then some (s.csr (PRT_MSIX_PBA p ((o - 0x800) / 4)))
  else if 0x1000 ≤ o ∧ o < 0x1400 then some (s.csr (PRT_MBX_REQ p ((o - 0x1000) / 4)))
  else if 0x1400 ≤ o ∧ o < 0x1800 then some (s.csr (PRT_MBX_RSP p ((o - 0x1400) / 4)))
  else if o / 4 = 0x600 then some 0
  else if o / 4 = 0x601 then some (s.csr (PRT_MBX_STAT p))
  else if 0x2000 ≤ o ∧ o < 0x2100 then some (s.csr (PRT_MSIX_SRC p ((o - 0x2000) / 4)))
  else none

/-- A host write of a word of BAR0 (R625, R633-R636): read-only words, and PRT_MSIX_SRC, which only Level S writes, keep their values. -/
def State.bar0Put (s : State) (p o : Nat) (v : Word) : State :=
  let m : MbxKind := .pcie (Fin.ofNat 4 p)
  if o < 0x400 then s.msixTableWrite p (o / 4) v
  else if 0x1000 ≤ o ∧ o < 0x1400 then s.mbxReqWrite m ((o - 0x1000) / 4) v
  else if o / 4 = 0x600 then s.mbxDoorbell m v
  else if o / 4 = 0x601 then s.mbxStatWrite m v
  else s

/-- A word with the bytes of a request that lie in it: the others keep what they read, in the status and doorbell words they are 0. -/
def bar0Merge (old : Word) (o off : Nat) (data : List Byte) : Word :=
  leWord ((List.range 4).map fun i =>
    if off ≤ o + i then (data[o + i - off]?).getD (if o / 4 = 0x601 then 0 else byteOf old i)
    else if o / 4 = 0x601 then 0 else byteOf old i)

/-- The BAR0 words a request touches. -/
def bar0Words (off len : Nat) : List Nat := (List.range ((off + len + 3) / 4 - off / 4)).map fun i => 4 * (off / 4 + i)

/-- A BAR0 request (R625): a poisoned write has no effect, an offset without a register is an Unsupported Request (log entry 62). -/
def State.pcieBar0 (s : State) (p : Nat) (r : PcieReq) : State :=
  let off := r.off.toNat
  let len := r.lenm1.toNat + 1
  if r.write then
    if r.ep then s
    else (bar0Words off len).foldl (fun t o => match t.bar0Word p o with
      | some w => t.bar0Put p o (bar0Merge w o off (r.data.take len))
      | none => t) s
  else
    match (bar0Words off len).mapM (s.bar0Word p) with
    | some ws => s.send (.pcieCpl p r.id 0 .successful false (((ws.flatMap fun w => bytesOf w 4).drop (off % 4)).take len))
    | none => s.send (.pcieCpl p r.id 0 .unsupported false [])

/-- PCIE_INBOUND (R625-R630). -/
def execPcieInbound (port : Fin 4) (r : PcieReq) (s : State) : Host.Outcome State Fault Refusal :=
  .next (if !s.pcieHost port then s
    else if !r.bar2 then s.pcieBar0 port r
    else if r.off.toNat + r.lenm1.toNat < 2 ^ s.fld (PRT_PCIE_BAR_BAR2_LOG2 port) then s.pcieBar2 port r
    else s)

end Sys2Proof.Machine
end

