-- ==== Sys2Proof/Machine/Dispatch.lean ====
section
/-! DEFINITION. The dispatch: one arm for each command, each one call of that command's meaning. -/

namespace Sys2Proof.Machine

open Sys2Proof

/-- The effect of one command on everything but the queue. -/
def exec (i : Instr) (s : State) : Host.Outcome State Fault Refusal :=
  match i with
  | .registerWrite mid key value => Sys2Proof.Machine.execRegisterWrite mid key value s
  | .lowWordRead mid key dbg => Sys2Proof.Machine.execLowWordRead mid key dbg s
  | .porst parkWake => Sys2Proof.Machine.execPorst parkWake s
  | .aoPor dly => Sys2Proof.Machine.execAoPor dly s
  | .sp0 us => Sys2Proof.Machine.execSp0 us s
  | .sp1 find us => Sys2Proof.Machine.execSp1 find us s
  | .sp2 find us => Sys2Proof.Machine.execSp2 find us s
  | .sp3 find us => Sys2Proof.Machine.execSp3 find us s
  | .sp4 fails us => Sys2Proof.Machine.execSp4 fails us s
  | .sp5 chans ports us => Sys2Proof.Machine.execSp5 chans ports us s
  | .sp6 us => Sys2Proof.Machine.execSp6 us s
  | .sp7 us => Sys2Proof.Machine.execSp7 us s
  | .imageStaging sfdp data => Sys2Proof.Machine.execImageStaging sfdp data s
  | .earlyAcreLoad => Sys2Proof.Machine.execEarlyAcreLoad s
  | .acreLoadBegin acre => Sys2Proof.Machine.execAcreLoadBegin acre s
  | .frameRecord acre => Sys2Proof.Machine.execFrameRecord acre s
  | .stage1 acre => Sys2Proof.Machine.execStage1 acre s
  | .stage2 acre => Sys2Proof.Machine.execStage2 acre s
  | .stage3 acre => Sys2Proof.Machine.execStage3 acre s
  | .noClock acre => Sys2Proof.Machine.execNoClock acre s
  | .pass site x y same => Sys2Proof.Machine.execPass site x y same s
  | .ldk site x y same => Sys2Proof.Machine.execLdk site x y same s
  | .add site x y same => Sys2Proof.Machine.execAdd site x y same s
  | .adc site x y same => Sys2Proof.Machine.execAdc site x y same s
  | .sub site x y same => Sys2Proof.Machine.execSub site x y same s
  | .sbc site x y same => Sys2Proof.Machine.execSbc site x y same s
  | .cmp site x y same => Sys2Proof.Machine.execCmp site x y same s
  | .minu site x y same => Sys2Proof.Machine.execMinu site x y same s
  | .maxu site x y same => Sys2Proof.Machine.execMaxu site x y same s
  | .mins site x y same => Sys2Proof.Machine.execMins site x y same s
  | .maxs site x y same => Sys2Proof.Machine.execMaxs site x y same s
  | .and site x y same => Sys2Proof.Machine.execAnd site x y same s
  | .or site x y same => Sys2Proof.Machine.execOr site x y same s
  | .xor site x y same => Sys2Proof.Machine.execXor site x y same s
  | .andn site x y same => Sys2Proof.Machine.execAndn site x y same s
  | .shl site x y same => Sys2Proof.Machine.execShl site x y same s
  | .shr site x y same => Sys2Proof.Machine.execShr site x y same s
  | .sar site x y same => Sys2Proof.Machine.execSar site x y same s
  | .rol site x y same => Sys2Proof.Machine.execRol site x y same s
  | .ror site x y same => Sys2Proof.Machine.execRor site x y same s
  | .sel site x y same => Sys2Proof.Machine.execSel site x y same s
  | .pack site x y same => Sys2Proof.Machine.execPack site x y same s
  | .unpkl site x y same => Sys2Proof.Machine.execUnpkl site x y same s
  | .unpkh site x y same => Sys2Proof.Machine.execUnpkh site x y same s
  | .reservedOpc site x y same => Sys2Proof.Machine.execReservedOpc site x y same s
  | .synchronousClear site x y same => Sys2Proof.Machine.execSynchronousClear site x y same s
  | .grainEdge site x y same => Sys2Proof.Machine.execGrainEdge site x y same s
  | .cubitSnapReq site => Sys2Proof.Machine.execCubitSnapReq site s
  | .cubitSnapshot site same => Sys2Proof.Machine.execCubitSnapshot site same s
  | .stale site => Sys2Proof.Machine.execStale site s
  | .chanSlip site edge line drop => Sys2Proof.Machine.execChanSlip site edge line drop s
  | .pclkUnlock site n => Sys2Proof.Machine.execPclkUnlock site n s
  | .pclkRelock site n => Sys2Proof.Machine.execPclkRelock site n s
  | .lclkEnWrite site m value => Sys2Proof.Machine.execLclkEnWrite site m value s
  | .probeSelWrite site lane value => Sys2Proof.Machine.execProbeSelWrite site lane value s
  | .probeLaneChange site lane same => Sys2Proof.Machine.execProbeLaneChange site lane same s
  | .probeCtlWrite site value => Sys2Proof.Machine.execProbeCtlWrite site value s
  | .traceArm site value => Sys2Proof.Machine.execTraceArm site value s
  | .traceEntryWrite site same => Sys2Proof.Machine.execTraceEntryWrite site same s
  | .swTrig site => Sys2Proof.Machine.execSwTrig site s
  | .fabricTrigger site => Sys2Proof.Machine.execFabricTrigger site s
  | .networkTrigger site second => Sys2Proof.Machine.execNetworkTrigger site second s
  | .stopped site => Sys2Proof.Machine.execStopped site s
  | .bushelRead site bushel e => Sys2Proof.Machine.execBushelRead site bushel e s
  | .bushelWrite site bushel e => Sys2Proof.Machine.execBushelWrite site bushel e s
  | .clear site bushel e => Sys2Proof.Machine.execClear site bushel e s
  | .scrubRow site bushel same => Sys2Proof.Machine.execScrubRow site bushel same s
  | .scrubWriteBack site bushel same => Sys2Proof.Machine.execScrubWriteBack site bushel same s
  | .diagGo mid site value => Sys2Proof.Machine.execDiagGo mid site value s
  | .diagAccess site same => Sys2Proof.Machine.execDiagAccess site same s
  | .diagTimeout site => Sys2Proof.Machine.execDiagTimeout site s
  | .go site tile fgo => Sys2Proof.Machine.execGo site tile fgo s
  | .stop site tile => Sys2Proof.Machine.execStop site tile s
  | .tileStopHalt site tile => Sys2Proof.Machine.execTileStopHalt site tile s
  | .resume site tile => Sys2Proof.Machine.execResume site tile s
  | .mtNop site tile => Sys2Proof.Machine.execMtNop site tile s
  | .mul site tile => Sys2Proof.Machine.execMul site tile s
  | .mac site tile => Sys2Proof.Machine.execMac site tile s
  | .msu site tile => Sys2Proof.Machine.execMsu site tile s
  | .clra site tile => Sys2Proof.Machine.execClra site tile s
  | .lda site tile => Sys2Proof.Machine.execLda site tile s
  | .mova site tile => Sys2Proof.Machine.execMova site tile s
  | .movac site tile => Sys2Proof.Machine.execMovac site tile s
  | .movx site tile => Sys2Proof.Machine.execMovx site tile s
  | .norm site tile => Sys2Proof.Machine.execNorm site tile s
  | .exp site tile => Sys2Proof.Machine.execExp site tile s
  | .bexp site tile => Sys2Proof.Machine.execBexp site tile s
  | .setbe site tile => Sys2Proof.Machine.execSetbe site tile s
  | .movbe site tile => Sys2Proof.Machine.execMovbe site tile s
  | .rep site tile => Sys2Proof.Machine.execRep site tile s
  | .setag site tile => Sys2Proof.Machine.execSetag site tile s
  | .halt site tile => Sys2Proof.Machine.execHalt site tile s
  | .streamWord site tile stream data poison => Sys2Proof.Machine.execStreamWord site tile stream data poison s
  | .mtHostAccess stop p => Sys2Proof.Machine.execMtHostAccess stop p s
  | .read stop p => Sys2Proof.Machine.execRead stop p s
  | .write stop p => Sys2Proof.Machine.execWrite stop p s
  | .swap stop p => Sys2Proof.Machine.execSwap stop p s
  | .fadd stop p => Sys2Proof.Machine.execFadd stop p s
  | .cas stop p => Sys2Proof.Machine.execCas stop p s
  | .msg stop p => Sys2Proof.Machine.execMsg stop p s
  | .incompleteTimeout stop src lane cls => Sys2Proof.Machine.execIncompleteTimeout stop src lane cls s
  | .requestIssue r => Sys2Proof.Machine.execRequestIssue r s
  | .flitAtStop p => Sys2Proof.Machine.execFlitAtStop p s
  | .completion stop p => Sys2Proof.Machine.execCompletion stop p s
  | .transactionTimeout stop tag => Sys2Proof.Machine.execTransactionTimeout stop tag s
  | .tagRelease stop tag => Sys2Proof.Machine.execTagRelease stop tag s
  | .rateWindow ring advances => Sys2Proof.Machine.execRateWindow ring advances s
  | .ringSlowClear mid ring => Sys2Proof.Machine.execRingSlowClear mid ring s
  | .planEntryWrite mid entry => Sys2Proof.Machine.execPlanEntryWrite mid entry s
  | .commit mid ring copyFirst => Sys2Proof.Machine.execCommit mid ring copyFirst s
  | .copy mid ring => Sys2Proof.Machine.execCopy mid ring s
  | .planActive => Sys2Proof.Machine.execPlanActive s
  | .transitIslandFail site => Sys2Proof.Machine.execTransitIslandFail site s
  | .trsp ld gate m => Sys2Proof.Machine.execTrsp ld gate m s
  | .gateTreqTimeout ld gate htag => Sys2Proof.Machine.execGateTreqTimeout ld gate htag s
  | .ireq ld gate tag m => Sys2Proof.Machine.execIreq ld gate tag m s
  | .dataGroup link at1 group => Sys2Proof.Machine.execDataGroup link at1 group s
  | .ack link at1 seq => Sys2Proof.Machine.execAck link at1 seq s
  | .nak link at1 seq => Sys2Proof.Machine.execNak link at1 seq s
  | .replay link at1 seq count peerReset => Sys2Proof.Machine.execReplay link at1 seq count peerReset s
  | .ackTimer link at1 => Sys2Proof.Machine.execAckTimer link at1 s
  | .ackTimeout link at1 => Sys2Proof.Machine.execAckTimeout link at1 s
  | .strobeLoss link at1 => Sys2Proof.Machine.execStrobeLoss link at1 s
  | .strobesSeen link => Sys2Proof.Machine.execStrobesSeen link s
  | .calibrate link end0 end1 silent => Sys2Proof.Machine.execCalibrate link end0 end1 silent s
  | .map link at0 at1 offer => Sys2Proof.Machine.execMap link at0 at1 offer s
  | .confirm link => Sys2Proof.Machine.execConfirm link s
  | .peerAbsent link => Sys2Proof.Machine.execPeerAbsent link s
  | .retrainAttempt link => Sys2Proof.Machine.execRetrainAttempt link s
  | .retrain mid link => Sys2Proof.Machine.execRetrain mid link s
  | .fwlInboundRequest hub tag x => Sys2Proof.Machine.execFwlInboundRequest hub tag x s
  | .fwlRateTick hub => Sys2Proof.Machine.execFwlRateTick hub s
  | .fwlInboundCompletion hub x => Sys2Proof.Machine.execFwlInboundCompletion hub x s
  | .fwlOutboundRequest hub xtag p => Sys2Proof.Machine.execFwlOutboundRequest hub xtag p s
  | .fence mid hub value => Sys2Proof.Machine.execFence mid hub value s
  | .badWindow mid hub window value => Sys2Proof.Machine.execBadWindow mid hub window value s
  | .dmcLineRead hub addr light flips cls now slots => Sys2Proof.Machine.execDmcLineRead hub addr light flips cls now slots s
  | .dmcLineWrite hub w now slots => Sys2Proof.Machine.execDmcLineWrite hub w now slots s
  | .readModifyWrite hub w now slots => Sys2Proof.Machine.execReadModifyWrite hub w now slots s
  | .drfmsb ch sc rank ba => Sys2Proof.Machine.execDrfmsb ch sc rank ba s
  | .refreshInterval ch => Sys2Proof.Machine.execRefreshInterval ch s
  | .refsb ch sc rank ba => Sys2Proof.Machine.execRefsb ch sc rank ba s
  | .mr4Read ch double => Sys2Proof.Machine.execMr4Read ch double s
  | .rowIdleClose ch sc rank bank => Sys2Proof.Machine.execRowIdleClose ch sc rank bank s
  | .caRetry ch rank persist cmd => Sys2Proof.Machine.execCaRetry ch rank persist cmd s
  | .start mid ch value => Sys2Proof.Machine.execStart mid ch value s
  | .migrationLineCopy ch flips => Sys2Proof.Machine.execMigrationLineCopy ch flips s
  | .cxlRequest hub tag read w => Sys2Proof.Machine.execCxlRequest hub tag read w s
  | .drs port tag poison data => Sys2Proof.Machine.execDrs port tag poison data s
  | .cxlLinkDown port ide => Sys2Proof.Machine.execCxlLinkDown port ide s
  | .cxlEn mid port value t => Sys2Proof.Machine.execCxlEn mid port value t s
  | .cxlFenceClear mid port value => Sys2Proof.Machine.execCxlFenceClear mid port value s
  | .wcbHoldExpiry hub => Sys2Proof.Machine.execWcbHoldExpiry hub s
  | .treeScrub hub upsets => Sys2Proof.Machine.execTreeScrub hub upsets s
  | .mpeKeyLoad mid hub value => Sys2Proof.Machine.execMpeKeyLoad mid hub value s
  | .mpeKeyErase mid hub value => Sys2Proof.Machine.execMpeKeyErase mid hub value s
  | .regionEnable mid hub region value => Sys2Proof.Machine.execRegionEnable mid hub region value s
  | .initBusy hub region => Sys2Proof.Machine.execInitBusy hub region s
  | .disabling mid hub region value => Sys2Proof.Machine.execDisabling mid hub region value s
  | .regionDisabled hub region => Sys2Proof.Machine.execRegionDisabled hub region s
  | .resealGo mid hub value => Sys2Proof.Machine.execResealGo mid hub value s
  | .resealDone hub => Sys2Proof.Machine.execResealDone hub s
  | .rekeyStart mid hub value => Sys2Proof.Machine.execRekeyStart mid hub value s
  | .rekeyGranule hub upto => Sys2Proof.Machine.execRekeyGranule hub upto s
  | .mpeFenceGo mid hub value => Sys2Proof.Machine.execMpeFenceGo mid hub value s
  | .mpeFenceDone hub => Sys2Proof.Machine.execMpeFenceDone hub s
  | .doorbell mid hub q value => Sys2Proof.Machine.execDoorbell mid hub q value s
  | .cqhWrite mid hub q value => Sys2Proof.Machine.execCqhWrite mid hub q value s
  | .descriptorFetch hub q tag => Sys2Proof.Machine.execDescriptorFetch hub q tag s
  | .qeTransactionIssue hub tag pick => Sys2Proof.Machine.execQeTransactionIssue hub tag pick s
  | .qeTransactionDone hub tag => Sys2Proof.Machine.execQeTransactionDone hub tag s
  | .completionRecordWrite hub q tag => Sys2Proof.Machine.execCompletionRecordWrite hub q tag s
  | .qeCqErr hub q => Sys2Proof.Machine.execQeCqErr hub q s
  | .queueEnable mid hub q cfg => Sys2Proof.Machine.execQueueEnable mid hub q cfg s
  | .queueDisable mid hub q cfg => Sys2Proof.Machine.execQueueDisable mid hub q cfg s
  | .queueResume mid hub q cfg => Sys2Proof.Machine.execQueueResume mid hub q cfg s
  | .retry mid hub q cfg => Sys2Proof.Machine.execRetry mid hub q cfg s
  | .qeEvtFifoPop hub dbg => Sys2Proof.Machine.execQeEvtFifoPop hub dbg s
  | .tbTick => Sys2Proof.Machine.execTbTick s
  | .tbIncrWrite mid value => Sys2Proof.Machine.execTbIncrWrite mid value s
  | .step mid value => Sys2Proof.Machine.execStep mid value s
  | .slew mid value => Sys2Proof.Machine.execSlew mid value s
  | .syncPulse missed => Sys2Proof.Machine.execSyncPulse missed s
  | .followerTick die => Sys2Proof.Machine.execFollowerTick die s
  | .pcieInbound port r => Sys2Proof.Machine.execPcieInbound port r s
  | .pcieOutbound port ev => Sys2Proof.Machine.execPcieOutbound port ev s
  | .pcieConfigRetry port => Sys2Proof.Machine.execPcieConfigRetry port s
  | .mbxDoorbell port value => Sys2Proof.Machine.execMbxDoorbell port value s
  | .mbxReply mbx => Sys2Proof.Machine.execMbxReply mbx s
  | .rdyClear transport => Sys2Proof.Machine.execRdyClear transport s
  | .ethRxFrame port mac frame fcsOk ago => Sys2Proof.Machine.execEthRxFrame port mac frame fcsOk ago s
  | .frerReset port stream => Sys2Proof.Machine.execFrerReset port stream s
  | .ethCommit mid port mac value => Sys2Proof.Machine.execEthCommit mid port mac value s
  | .ethTxFrame port mac => Sys2Proof.Machine.execEthTxFrame port mac s
  | .ethTxDone port mac => Sys2Proof.Machine.execEthTxDone port mac s
  | .ethTxstPop port mac dbg => Sys2Proof.Machine.execEthTxstPop port mac dbg s
  | .gclChange mid port mac value => Sys2Proof.Machine.execGclChange mid port mac value s
  | .gclSwitch port mac => Sys2Proof.Machine.execGclSwitch port mac s
  | .fs port k vc hdr num => Sys2Proof.Machine.execFs port k vc hdr num s
  | .line port k vc hdr dt data crcOk kept => Sys2Proof.Machine.execLine port k vc hdr dt data crcOk kept s
  | .fe port k vc hdr => Sys2Proof.Machine.execFe port k vc hdr s
  | .frameTo port k vc => Sys2Proof.Machine.execFrameTo port k vc s
  | .ctxStreamWord port t same => Sys2Proof.Machine.execCtxStreamWord port t same s
  | .ctxPacketSend port t => Sys2Proof.Machine.execCtxPacketSend port t s
  | .crcStart mid unit value => Sys2Proof.Machine.execCrcStart mid unit value s
  | .crcDataWrite mid unit data rsn => Sys2Proof.Machine.execCrcDataWrite mid unit data rsn s
  | .release mid unit value => Sys2Proof.Machine.execRelease mid unit value s
  | .cfgOpLoad step => Sys2Proof.Machine.execCfgOpLoad step s
  | .quiescenceEnd acre => Sys2Proof.Machine.execQuiescenceEnd acre s
  | .cfgOpUnload step => Sys2Proof.Machine.execCfgOpUnload step s
  | .cfgOpRelocate step => Sys2Proof.Machine.execCfgOpRelocate step s
  | .cfgOpReadback step => Sys2Proof.Machine.execCfgOpReadback step s
  | .cfgOpHostPrep step => Sys2Proof.Machine.execCfgOpHostPrep step s
  | .cfgOpRetire step => Sys2Proof.Machine.execCfgOpRetire step s
  | .cfgCheck acre => Sys2Proof.Machine.execCfgCheck acre s
  | .writeFrame bytes early => Sys2Proof.Machine.execWriteFrame bytes early s
  | .readFrame full early => Sys2Proof.Machine.execReadFrame full early s
  | .frameErr first => Sys2Proof.Machine.execFrameErr first s
  | .cmdpktUpdateDr word last => Sys2Proof.Machine.execCmdpktUpdateDr word last s
  | .cmdpktCaptureDr => Sys2Proof.Machine.execCmdpktCaptureDr s
  | .fabDoorbell mid value => Sys2Proof.Machine.execFabDoorbell mid value s
  | .commandCompletion transport tag => Sys2Proof.Machine.execCommandCompletion transport tag s
  | .nop => Sys2Proof.Machine.execNop s
  | .getId => Sys2Proof.Machine.execGetId s
  | .getVersion => Sys2Proof.Machine.execGetVersion s
  | .getState => Sys2Proof.Machine.execGetState s
  | .getErrlog => Sys2Proof.Machine.execGetErrlog s
  | .clrErrlog => Sys2Proof.Machine.execClrErrlog s
  | .cfgLoad => Sys2Proof.Machine.execCfgLoad s
  | .cfgData => Sys2Proof.Machine.execCfgData s
  | .cfgUnload => Sys2Proof.Machine.execCfgUnload s
  | .cfgRelocate => Sys2Proof.Machine.execCfgRelocate s
  | .cfgReadback => Sys2Proof.Machine.execCfgReadback s
  | .hostPrep => Sys2Proof.Machine.execHostPrep s
  | .retireDie => Sys2Proof.Machine.execRetireDie s
  | .cfgStatus => Sys2Proof.Machine.execCfgStatus s
  | .memRead => Sys2Proof.Machine.execMemRead s
  | .memWrite => Sys2Proof.Machine.execMemWrite s
  | .rankMigrate => Sys2Proof.Machine.execRankMigrate s
  | .resealRange => Sys2Proof.Machine.execResealRange s
  | .keyLoad => Sys2Proof.Machine.execKeyLoad s
  | .keyErase => Sys2Proof.Machine.execKeyErase s
  | .keyGenerate random => Sys2Proof.Machine.execKeyGenerate random s
  | .rightsSet => Sys2Proof.Machine.execRightsSet s
  | .fwlWindow => Sys2Proof.Machine.execFwlWindow s
  | .fenceRights => Sys2Proof.Machine.execFenceRights s
  | .dbgChallenge nonce => Sys2Proof.Machine.execDbgChallenge nonce s
  | .dbgResponse late => Sys2Proof.Machine.execDbgResponse late s
  | .dbgLock => Sys2Proof.Machine.execDbgLock s
  | .imgkeyProgram => Sys2Proof.Machine.execImgkeyProgram s
  | .imgkeyRevoke => Sys2Proof.Machine.execImgkeyRevoke s
  | .kekSet => Sys2Proof.Machine.execKekSet s
  | .pwrMode => Sys2Proof.Machine.execPwrMode s
  | .pwrStatus => Sys2Proof.Machine.execPwrStatus s
  | .pwrCap => Sys2Proof.Machine.execPwrCap s
  | .reset => Sys2Proof.Machine.execReset s
  | .ltRead => Sys2Proof.Machine.execLtRead s
  | .ltStatus => Sys2Proof.Machine.execLtStatus s
  | .repairClear => Sys2Proof.Machine.execRepairClear s
  | .calGet => Sys2Proof.Machine.execCalGet s
  | .calSet => Sys2Proof.Machine.execCalSet s
  | .fwWrite => Sys2Proof.Machine.execFwWrite s
  | .fwActivate => Sys2Proof.Machine.execFwActivate s
  | .noStart unit => Sys2Proof.Machine.execNoStart unit s
  | .epochCommit => Sys2Proof.Machine.execEpochCommit s
  | .epochRollback => Sys2Proof.Machine.execEpochRollback s
  | .minEpochSet => Sys2Proof.Machine.execMinEpochSet s
  | .updStatus => Sys2Proof.Machine.execUpdStatus s
  | .inject => Sys2Proof.Machine.execInject s
  | .selftest result => Sys2Proof.Machine.execSelftest result s
  | .loopback => Sys2Proof.Machine.execLoopback s
  | .mcLockstep hub => Sys2Proof.Machine.execMcLockstep hub s
  | .coreRingAccess core acc => Sys2Proof.Machine.execCoreRingAccess core acc s
  | .run mid hub value => Sys2Proof.Machine.execRun mid hub value s
  | .deleg mid hub value => Sys2Proof.Machine.execDeleg mid hub value s
  | .mcWfi find => Sys2Proof.Machine.execMcWfi find s
  | .dmiAccess write addr data => Sys2Proof.Machine.execDmiAccess write addr data s
  | .sbaAccess hub => Sys2Proof.Machine.execSbaAccess hub s
  | .triggerFire hart ev => Sys2Proof.Machine.execTriggerFire hart ev s
  | .hartHalt hart => Sys2Proof.Machine.execHartHalt hart s
  | .hartResume hart => Sys2Proof.Machine.execHartResume hart s
  | .hubSemRead mid hub sem dbg => Sys2Proof.Machine.execHubSemRead mid hub sem dbg s
  | .hubSemWrite mid hub sem => Sys2Proof.Machine.execHubSemWrite mid hub sem s
  | .semLease hub sem => Sys2Proof.Machine.execSemLease hub sem s
  | .wdtCoreSvc mid core value => Sys2Proof.Machine.execWdtCoreSvc mid core value s
  | .coreWdtExpired core => Sys2Proof.Machine.execCoreWdtExpired core s
  | .wdtSafeSvc mid value late closed => Sys2Proof.Machine.execWdtSafeSvc mid value late closed s
  | .safeWdt => Sys2Proof.Machine.execSafeWdt s
  | .refLoss hub => Sys2Proof.Machine.execRefLoss hub s
  | .refFreq hub edges => Sys2Proof.Machine.execRefFreq hub edges s
  | .ioscReady hub => Sys2Proof.Machine.execIoscReady hub s
  | .refreshLost hub => Sys2Proof.Machine.execRefreshLost hub s
  | .noClockTimeout hub => Sys2Proof.Machine.execNoClockTimeout hub s
  | .ioscCheck hub count => Sys2Proof.Machine.execIoscCheck hub count s
  | .xtalLoss => Sys2Proof.Machine.execXtalLoss s
  | .xtalReturn => Sys2Proof.Machine.execXtalReturn s
  | .clkDomWrite mid hub value => Sys2Proof.Machine.execClkDomWrite mid hub value s
  | .cmultWrite mid hub value => Sys2Proof.Machine.execCmultWrite mid hub value s
  | .cpllLock hub => Sys2Proof.Machine.execCpllLock hub s
  | .divWrite mid hub value => Sys2Proof.Machine.execDivWrite mid hub value s
  | .powerSample mw => Sys2Proof.Machine.execPowerSample mw s
  | .supplyUv rail => Sys2Proof.Machine.execSupplyUv rail s
  | .thermalSample die sensor temp => Sys2Proof.Machine.execThermalSample die sensor temp s
  | .powerStateReached => Sys2Proof.Machine.execPowerStateReached s
  | .wakeEvent event committed => Sys2Proof.Machine.execWakeEvent event committed s
  | .pwrWtmr committed => Sys2Proof.Machine.execPwrWtmr committed s
  | .wakeDone => Sys2Proof.Machine.execWakeDone s
  | .aoBor dly => Sys2Proof.Machine.execAoBor dly s
  | .pwrDieGateWrite mid high value => Sys2Proof.Machine.execPwrDieGateWrite mid high value s
  | .ungating die => Sys2Proof.Machine.execUngating die s
  | .wrst => Sys2Proof.Machine.execWrst s
  | .warmDeviceReset hub => Sys2Proof.Machine.execWarmDeviceReset hub s
  | .hubReset hub => Sys2Proof.Machine.execHubReset hub s
  | .hubResetDone hub mbist chans ports => Sys2Proof.Machine.execHubResetDone hub mbist chans ports s
  | .dieReset die => Sys2Proof.Machine.execDieReset die s
  | .dieReady die pass => Sys2Proof.Machine.execDieReady die pass s
  | .portDieReset port pass => Sys2Proof.Machine.execPortDieReset port pass s
  | .acreReset acre => Sys2Proof.Machine.execAcreReset acre s
  | .rstCtlGo mid value => Sys2Proof.Machine.execRstCtlGo mid value s
  | .errorReport block unit code ok => Sys2Proof.Machine.execErrorReport block unit code ok s
  | .errorReportResend block unit code => Sys2Proof.Machine.execErrorReportResend block unit code s
  | .operatingMinute => Sys2Proof.Machine.execOperatingMinute s
  | .ltsPeriodicWrite => Sys2Proof.Machine.execLtsPeriodicWrite s
  | .agingReading site ratio temp => Sys2Proof.Machine.execAgingReading site ratio temp s
  | .calTick => Sys2Proof.Machine.execCalTick s
  | .calLoad mid value => Sys2Proof.Machine.execCalLoad mid value s
  | .ldcSigErrClear mid site value => Sys2Proof.Machine.execLdcSigErrClear mid site value s
  | .xtalReady => Sys2Proof.Machine.execXtalReady s
  | .pcieLinkDown port link up speed ltssm => Sys2Proof.Machine.execPcieLinkDown port link up speed ltssm s
  | .pciePerstN port => Sys2Proof.Machine.execPciePerstN port s
  | .ethLinkDown port mac up => Sys2Proof.Machine.execEthLinkDown port mac up s
  | .peerSideReset hub => Sys2Proof.Machine.execPeerSideReset hub s

end Sys2Proof.Machine
end

