-- ==== Sys2Proof/WellFormed.lean ====
section
/-! DEFINITION. Well-formed commands: the relations between the operands of a command that their types do not state. The machine
gives every command a meaning; these say which operands an outside that follows the spec can present. -/

namespace Sys2Proof

/-- DATA flits that a request carries (R296, R297): for a write or message of more than 8 bytes, and one for CAS. -/
def reqFlits (opc : BitVec 3) (lenm1 : BitVec 8) : Nat :=
  if opc = 4 then 1 else if (opc = 1 ∨ opc = 5) ∧ 8 ≤ lenm1.toNat then (lenm1.toNat + 32) / 32 else 0

/-- Data words that an IREQ request carries (R334): those of a write, one operand word of an atomic, two of CAS. -/
def ireqWords (opc : BitVec 3) (lenm1 : BitVec 8) : Nat :=
  if opc = 4 then 2 else if opc = 2 ∨ opc = 3 then 1 else if opc = 1 ∨ opc = 5 then (lenm1.toNat + 8) / 8 else 0

/-- A whole request packet has the flits its operation calls for. -/
def ReqPkt.wf (p : ReqPkt) : Bool := !p.complete || p.data.length = reqFlits p.opc p.lenm1

/-- A whole completion packet carries no DATA flits, or those its length calls for (R299). -/
def CplPkt.wf (p : CplPkt) : Bool := !p.complete || p.data = [] || p.data.length = (p.lenm1.toNat + 32) / 32

/-- A request to issue has the flits its operation calls for. -/
def IssueReq.wf (r : IssueReq) : Bool := r.data.length = reqFlits r.opc r.lenm1

/-- A request of the third-party die has the flits its operation calls for (R388). -/
def XReq.wf (x : XReq) : Bool := x.data.length = reqFlits x.opc x.lenm1

/-- A host's write carries its bytes, a read none; BAR0 holds 16 KiB (R625). -/
def PcieReq.wf (r : PcieReq) : Bool :=
  r.data.length = (if r.write then r.lenm1.toNat + 1 else 0) && (r.bar2 || r.off.toNat + r.lenm1.toNat < 16384)

/-- A payload is checked in four groups (R289). -/
def SlotPass.wf (p : SlotPass) : Bool := p.pay.length = 4

/-- A request of the fabric has the words its operation calls for. -/
def IreqMsg.wf (m : IreqMsg) : Bool := m.data.length = ireqWords m.opc m.lenm1

/-- The relations that a command's operands meet. A command without one is always well-formed. -/
def Instr.wf : Instr → Bool
  | .mtHostAccess _ p => p.wf && p.opc.toNat ≤ 1
  | .read _ p => p.wf && (p.opc.toNat = 0 || 6 ≤ p.opc.toNat)
  | .write _ p => p.wf && p.opc.toNat = 1
  | .swap _ p => p.wf && p.opc.toNat = 2
  | .fadd _ p => p.wf && p.opc.toNat = 3
  | .cas _ p => p.wf && p.opc.toNat = 4
  | .msg _ p => p.wf && p.opc.toNat = 5
  | .fwlOutboundRequest _ _ p => p.wf
  | .pcieOutbound _ (.access p) => p.wf
  | .requestIssue r => r.wf
  | .completion _ p => p.wf
  | .flitAtStop p => p.wf
  | .ireq _ _ _ m => m.wf
  | .fwlInboundRequest _ _ x => x.wf
  | .pcieInbound _ r => r.wf
  | .crcDataWrite _ _ data _ => 1 ≤ data.length && data.length ≤ 256
  | .line _ _ _ _ _ data _ kept => kept ≤ data.length
  | .syncPulse missed => missed.Nodup
  | _ => true

end Sys2Proof
end

