-- ==== Sys2Proof/Safety.lean ====
section
/-! DEFINITION. What statements use to speak of runs: canonical stores, queues of well-formed commands, and what a command leaves
alone. -/

namespace Sys2Proof.Machine

open Sys2Proof

/-- The register store is in canonical form: keys rise, and no listed word equals what its key reads as unlisted. -/
def State.regsOk (s : State) : Bool := mapWf csrDefault s.regs

/-- Every command that waits is well-formed. -/
def State.queueOk (s : State) : Bool := s.pending.all Instr.wf

/-- A command changes no register but those whose keys `p` names. -/
def SameRegs (p : Nat → Bool) (s t : State) : Prop := ∀ key, p key = false → t.csr key = s.csr key

/-- Two states agree on everything but the registers and what the device has sent. -/
def SameButRegsOut (s t : State) : Prop := t = { s with regs := t.regs, out := t.out }

/-- A commanded edge of a cubit's clock comes: its die is a logic die, the clock runs, and it rises at the instant whose state is `t`
(R58, R149-R153). -/
structure CubitEdge (s : State) (site : Fin 64) (x y : Fin 128) (same : Bool) (t : State) : Prop where
  logic : isLogicSite site = true
  runs  : s.clockRuns site (cubitClkSel (s.cubitCfg site x y)) = true
  now   : s.edgeAt (placeKey site (cubitAcre x y)) (cubitClkSel (s.cubitCfg site x y)) same = t
  rises : t.clockEdge (placeKey site (cubitAcre x y)) (cubitClkSel (s.cubitCfg site x y)) = true

/-- At that instant GSR is released for the cubit's clock, and no snapshot of the cubit waits (R85, R107, R155, R157). -/
structure CubitFree (t : State) (site : Fin 64) (x y : Fin 128) : Prop where
  clocked : t.acreClocked (placeKey site (cubitAcre x y)) = true
  clear   : t.gsrHolds (placeKey site (cubitAcre x y)) (cubitClkSel (t.cubitCfg site x y)) = false
  snap    : t.snapWaits site x y = false

/-- An idle cycle of a bushel's port B comes: its die is a logic die, its acre's clocks are not held, the clock runs, and it rises at the
instant whose state is `t` (R208, R209, R214). -/
structure IdleB (s : State) (site : Fin 64) (bushel : Nat) (same : Bool) (t : State) : Prop where
  logic : isLogicSite site = true
  free  : s.clocksHeld (placeKey site (bushel / 192)) = false
  runs  : s.clockRuns site (s.bshClk site bushel true) = true
  now   : s.edgeAt (placeKey site (bushel / 192)) (s.bshClk site bushel true) same = t
  rises : t.clockEdge (placeKey site (bushel / 192)) (s.bshClk site bushel true) = true

/-- The 24 word-mode operations as commands, by opcode (R69). -/
def wordCommand (n : Fin 24) (site : Fin 64) (x y : Fin 128) (same : Bool) : Instr :=
  match n.val with
  | 0 => .pass site x y same
  | 1 => .ldk site x y same
  | 2 => .add site x y same
  | 3 => .adc site x y same
  | 4 => .sub site x y same
  | 5 => .sbc site x y same
  | 6 => .cmp site x y same
  | 7 => .minu site x y same
  | 8 => .maxu site x y same
  | 9 => .mins site x y same
  | 10 => .maxs site x y same
  | 11 => .and site x y same
  | 12 => .or site x y same
  | 13 => .xor site x y same
  | 14 => .andn site x y same
  | 15 => .shl site x y same
  | 16 => .shr site x y same
  | 17 => .sar site x y same
  | 18 => .rol site x y same
  | 19 => .ror site x y same
  | 20 => .sel site x y same
  | 21 => .pack site x y same
  | 22 => .unpkl site x y same
  | _ => .unpkh site x y same

/-- The 17 MAC-tile operations as commands, by opcode (R229). -/
def tileCommand (n : Fin 17) (site : Fin 64) (tile : Fin 128) : Instr :=
  match n.val with
  | 0 => .mtNop site tile
  | 1 => .mul site tile
  | 2 => .mac site tile
  | 3 => .msu site tile
  | 4 => .clra site tile
  | 5 => .lda site tile
  | 6 => .mova site tile
  | 7 => .movac site tile
  | 8 => .movx site tile
  | 9 => .norm site tile
  | 10 => .exp site tile
  | 11 => .bexp site tile
  | 12 => .setbe site tile
  | 13 => .movbe site tile
  | 14 => .rep site tile
  | 15 => .setag site tile
  | _ => .halt site tile

end Sys2Proof.Machine
end

