-- ==== Sys2Proof/Certificates/Slice0/Obligations.lean ====
section
/-! DEFINITION. The statements about the model, for the provers. Each docstring says what its statement claims. -/

open Sys2Proof Sys2Proof.Machine

/-- For every command `c`, queue `rest` and state `s`: a step of `s` with `c` in front of `rest` is `exec c` on `s` with `rest`. The
queue is the model's own (log entry 1). -/
def Obligations.StepRunsFrontCommand : Prop :=
  ∀ (c : Instr) (rest : List Instr) (s : State), step { s with pending := c :: rest } = exec c { s with pending := rest }

/-- A step with no command waiting answers the same state: the device's ticks and timers are commands of their own, which is the
model's choice (log entry 1). -/
def Obligations.IdleStepChangesNothing : Prop := ∀ s : State, s.pending = [] → step s = .next s

/-- Every command, with every operand and in every state, answers a next state: none ends in a fault or a refusal. -/
def Obligations.EveryCommandAnswersNext : Prop := ∀ (c : Instr) (s : State), ∃ t : State, exec c s = .next t

/-- For every state `s`: if a step answers `t`, the queue of `t` is the queue of `s` without its front command; so if every waiting
command of `s` is well-formed, every waiting command of `t` is. No command adds to the queue or takes from it. -/
def Obligations.EveryStepTakesOneCommand : Prop :=
  ∀ s t : State, step s = .next t → t.pending = s.pending.tail ∧ (s.queueOk → t.queueOk)

/-- For every state `s` whose register store is canonical (keys rise strictly, and no listed word equals what its key reads as after a
reset): if a step answers `t`, the register store of `t` is canonical. Equal register contents are then equal data. -/
def Obligations.RegisterStoreStaysCanonical : Prop := ∀ s t : State, s.regsOk → step s = .next t → t.regsOk

/-- The state after reset has a canonical register store, no waiting command, nothing sent and every memory unlisted. -/
def Obligations.ResetStoreCanonicalQueueEmpty : Prop :=
  State.reset.regsOk ∧ State.reset.queueOk ∧ State.reset.pending = [] ∧ State.reset.out = [] ∧ State.reset.regs = []

/-- For each of the 24 word-mode operations (PASS to UNPKH, `wordCommand`): a commanded edge of a cubit's clock that comes at the instant
`t`, where the cubit is free and before which (`o`) it is a word-mode cubit whose active context holds that opcode, with neither a clear nor
a hold, answers `t` with Y shown and the cubit holding what the context's writes give (`wordCommit` of the cycle that its inputs and the
cubit below form). -/
def Obligations.WordOperationCommits : Prop :=
  ∀ (n : Fin 24) (site : Fin 64) (x y : Fin 128) (same : Bool) (s t o : State) (cfg : BitVec 512) (c : CubitSt) (i : CubitIn) (r : WordCycle),
    CubitEdge s site x y same t → CubitFree t site x y → t.before = o → o.cubitCfg site x y = cfg → o.cubit site x y = c →
    o.cubitIn site x y = i → wordCycle cfg c i (o.fromBelow site x y) = r →
    cubitBitMode cfg = false → o.cubitOpc site x y = n →
    (cubitClrEn cfg && i.ctl.getLsbD 1) = false → (cubitWceEn cfg && !i.ctl.getLsbD 0) = false →
    exec (wordCommand n site x y same) s = .next
      ((t.send (.cubitY (cubitKey site x y) (wordY (cubitWord cfg c.ctr.val) r))).putCubit site x y (wordCommit cfg c i.ctl r))

/-- At a commanded edge of a free cubit, with the state before it `o`: an edge of a word-mode cubit with CLR_EN and CTL1 restores its
initial values; an enabled edge whose context holds a reserved opcode commits with neither ST nor F written; an edge of a bit-mode cubit
loads its sixteen flip-flops. -/
def Obligations.ClearReservedAndGrainEdges : Prop :=
  ∀ (site : Fin 64) (x y : Fin 128) (same : Bool) (s t o : State) (cfg : BitVec 512) (c : CubitSt) (i : CubitIn) (r : WordCycle),
    CubitEdge s site x y same t → CubitFree t site x y → t.before = o → o.cubitCfg site x y = cfg → o.cubit site x y = c →
    o.cubitIn site x y = i → wordCycle cfg c i (o.fromBelow site x y) = r →
    (cubitBitMode cfg = false → (cubitClrEn cfg && i.ctl.getLsbD 1) = true → exec (.synchronousClear site x y same) s = .next
      ((t.send (.cubitY (cubitKey site x y) (wordY (cubitWord cfg c.ctr.val) r))).putCubit site x y (wordInit cfg))) ∧
    (cubitBitMode cfg = false → 0x18 ≤ o.cubitOpc site x y → (cubitClrEn cfg && i.ctl.getLsbD 1) = false →
      (cubitWceEn cfg && !i.ctl.getLsbD 0) = false → ∃ c' : CubitSt, exec (.reservedOpc site x y same) s = .next
        ((t.send (.cubitY (cubitKey site x y) (wordY (cubitWord cfg c.ctr.val) r))).putCubit site x y c') ∧
        c'.st = c.st ∧ c'.flags = c.flags ∧ c'.q = wordQ (cubitWord cfg c.ctr.val) c r) ∧
    (∀ g, cubitBitMode cfg = true → grainsRun cfg i (grainCin cfg (o.fromBelow site x y).1) 16 = g →
      exec (.grainEdge site x y same) s = .next
        ((t.send (.cubitY (cubitKey site x y) g.1)).putCubit site x y { c with q := grainsLoad cfg i.ctl c.q g.1 }))

/-- For every A, B and carry in: of the sum A + B + cin (B inverted for SUB, SBC, CMP; carry in 0 for ADD and 1 for SUB), C is the carry
out of bit 15, V says that the sum of the signed operands and the carry lies outside the signed range, N is bit 15 and Z says that the sum
is zero; so SUB gives C = 1 exactly when B does not exceed A. -/
def Obligations.AdderResultAndFlags : Prop := ∀ (a b k : Half) (cin cond : Bool),
  let adds (op : Nat) (x : Half) (ci : Bool) : Prop :=
    let o := wordOp op a b k cin cond
    let sum : Half := BitVec.ofNat 16 (a.toNat + x.toNat + ci.toNat)
    let signed : Int := a.toInt + x.toInt + ci.toNat
    o.flags.getLsbD 0 = decide (2 ^ 16 ≤ a.toNat + x.toNat + ci.toNat) ∧
    o.flags.getLsbD 1 = decide (sum = 0) ∧ o.flags.getLsbD 2 = sum.msb ∧
    o.flags.getLsbD 3 = decide (signed < -32768 ∨ 32767 < signed) ∧ o.prod = 15
  adds 0x02 b false ∧ adds 0x03 b cin ∧ adds 0x04 (~~~b) true ∧ adds 0x05 (~~~b) cin ∧ adds 0x06 (~~~b) cin ∧
  (wordOp 0x02 a b k cin cond).res = a + b ∧ (wordOp 0x04 a b k cin cond).res = a - b ∧ (wordOp 0x06 a b k cin cond).res = a ∧
  ((wordOp 0x04 a b k cin cond).flags.getLsbD 0 = decide (b.toNat ≤ a.toNat))

/-- For every A and B with s = B[3:0] not 0: C is A[16 - s] for SHL, A[s - 1] for SHR and SAR, RES[0] for ROL and RES[15] for ROR, and is
produced; with s = 0 the result is A and C is not among the flags produced. -/
def Obligations.ShiftAndRotateCarry : Prop := ∀ (a b k : Half) (cin cond : Bool) (op : Nat), 0x0F ≤ op → op ≤ 0x13 →
  let o := wordOp op a b k cin cond
  let n := b.toNat % 16
  (n = 0 → o.res = a ∧ o.prod.getLsbD 0 = false) ∧
  (n ≠ 0 → o.prod.getLsbD 0 = true ∧
    o.flags.getLsbD 0 = (if op = 0x0F then a.getLsbD (16 - n) else if op = 0x12 then o.res.getLsbD 0
      else if op = 0x13 then o.res.getLsbD 15 else a.getLsbD (n - 1)))

/-- For every word-mode operation other than CMP and all operands: Z and N are produced, Z says that the result is zero, N is its bit 15. -/
def Obligations.ZeroAndSignOfEveryResult : Prop := ∀ (op : Nat) (a b k : Half) (cin cond : Bool), op < 0x18 → op ≠ 0x06 →
  let o := wordOp op a b k cin cond
  o.flags.getLsbD 1 = decide (o.res = 0) ∧ o.flags.getLsbD 2 = o.res.getLsbD 15 ∧ o.prod.getLsbD 1 = true ∧ o.prod.getLsbD 2 = true

/-- For every state, site and column: a cubit whose row is a multiple of 64 takes carry 0 and zero 1 from below. -/
def Obligations.NoChainAcrossAcres : Prop :=
  ∀ (s : State) (site x y : Nat), y % 64 = 0 → s.fromBelow site x y = (false, true)

/-- With a running clock where it needs one: a pending snapshot of the addressed cubit is taken at its edge, or without one as STALE, and shows
DONE with the cubit's state; a slip of a centered crossing is flagged, counted and centered again; a PLL's lock goes and comes back; a waiting
probe lane changes at its edge; an edge of the probe clock samples the lanes, and with the trace armed stores the oldest sample at WPTR; a
rising fabric trigger reaches the trace and, where enabled, the network; POST entries after a trigger stop the trace. -/
def Obligations.FabricPathCommands : Prop := ∀ (site : Fin 64) (s : State) (same : Bool) (lane : Fin 64),
  (∀ (x y : Fin 128) (t : State), s.fld (LDC_CUBIT_ADDR_X site) = x → s.fld (LDC_CUBIT_ADDR_Y site) = y → CubitEdge s site x y same t →
    t.snapWaits site x y = true → ∃ u : State, exec (.cubitSnapshot site same) s = .next u ∧ u.bit (LDC_CUBIT_SNAP_REQ site) = false ∧
      u.bit (LDC_CUBIT_SNAP_DONE site) = true ∧ u.bit (LDC_CUBIT_SNAP_STALE site) = false ∧
      (u.snap site).cubit = u.cubit site x y ∧ (u.snap site).ctl = (t.before.cubitIn site x y).ctl) ∧
  (s.bit (LDC_CUBIT_SNAP_REQ site) = true → ∃ u : State, exec (.stale site) s = .next u ∧ u.bit (LDC_CUBIT_SNAP_REQ site) = false ∧
    u.bit (LDC_CUBIT_SNAP_DONE site) = true ∧ u.bit (LDC_CUBIT_SNAP_STALE site) = true ∧
    (u.snap site).cubit = s.cubit site (s.fld (LDC_CUBIT_ADDR_X site)) (s.fld (LDC_CUBIT_ADDR_Y site))) ∧
  (∀ (edge : Fin 4) (line : Fin 32) (drop : Bool) (src : CrossSrc) (k : Nat), k = chanKey (edgeGroup site edge line).1 (edgeGroup site edge line).2 →
    s.crossSrc (edgeGroup site edge line).1 (decide (2 ≤ edge.val)) = some src → (s.chan k).rd = (s.chan k).wr - 2 →
    ∃ u : State, exec (.chanSlip site edge line drop) s = .next u ∧ u.bit (LDC_FAB_ERR_CHAN_SLIP site) = true ∧
      u.fld (LDC_CHAN_SLIP_CNT_CNT site) = min (s.fld (LDC_CHAN_SLIP_CNT_CNT site) + 1) (2 ^ (LDC_CHAN_SLIP_CNT_CNT site).w - 1) ∧
      (u.chan k).rd = (u.chan k).wr - 2) ∧
  (∀ n : Fin 8, s.bit (LDC_PCLK_CFG_LOCK site n) = true → exec (.pclkUnlock site n) s =
    .next ((s.setFld (LDC_PCLK_CFG_LOCK site n) 0).raiseFab (LDC_FAB_ERR_PCLK_UNLOCK site) site)) ∧
  (∀ n : Fin 8, s.bit (LDC_PCLK_CFG_EN site n) = true → s.fld (LDC_PCLK_CFG_ODIV site n) ≠ 0 → exec (.pclkRelock site n) s =
    .next ((s.setFld (LDC_PCLK_CFG_LOCK site n) 1).centerGroups fun pl i => pl / 4 = site && s.groupOf pl i = 8 + n.val)) ∧
  (∀ t : State, s.clockRuns site (s.probeClock site) = true → s.edgeAt (placeKey site 0) (s.probeClock site) same = t →
    (lane.val ∈ (t.probe site).pend → exec (.probeLaneChange site lane same) s = .next
      ((t.setProbe site { t.probe site with
        pend := (t.probe site).pend.filter (· ≠ lane.val)
        src := mapSet (t.probe site).src 0 lane (t.csr (LDC_PROBE_SEL site lane)) }).setBit
          (LDC_PROBE_STAT_SEL_PENDING site) (!((t.probe site).pend.filter (· ≠ lane.val)).isEmpty))) ∧
    (t.bit (LDC_PROBE_CTL_DEST site) = false → t.bit (LDC_TRACE_CTL_ARM site) = true → (t.probe site).trigs = [] → (t.probe site).left = none →
      t.fld (LDC_TRACE_STAT_WPTR site) < 1023 → ∃ u : State, exec (.traceEntryWrite site same) s = .next u ∧
        u.csr64 (LDC_TRACE_MEM site (t.fld (LDC_TRACE_STAT_WPTR site))) = (t.probe site).pipe[2] ∧
        u.fld (LDC_TRACE_STAT_WPTR site) = t.fld (LDC_TRACE_STAT_WPTR site) + 1 ∧ (u.probe site).pipe[0] = t.before.lanes site)) ∧
  (s.before.fabricTrigger site = false → s.fabricTrigger site = true → s.bit (LDC_TRACE_CTL_TEN_FAB site) = true →
    exec (.fabricTrigger site) s = .next (if s.bit (LDC_TRACE_CTL_TRIG_OUT_EN site) then
      ((s.traceTrigger site 0).send (.trigger (8 + site))).fabricHalt else s.traceTrigger site 0)) ∧
  (s.bit (LDC_TRACE_CTL_ARM site) = true → (s.probe site).left = some 0 → exec (.stopped site) s = .next
    (((s.setFld (LDC_TRACE_STAT_STOPPED site) 1).setFld (LDC_TRACE_CTL_ARM site) 0).setProbe site { s.probe site with left := none }))

/-- Where the die answers and the access reaches the register: LCLK_EN_WRITE gives EN the bit written; PROBE_SEL_WRITE leaves the lane's change
pending; PROBE_CTL_WRITE changes the probe path and decides the owner of the pins; TRACE_ARM clears the status and arms; CUBIT_SNAP_REQ begins
a request when none is pending and the acre is not held; DIAG_GO by Level S of an existing bushel outside a load makes the port BUSY. Each
completes OK. -/
def Obligations.FabricRegisterWritesApply : Prop := ∀ (site lane : Fin 64) (m : Fin 16) (value : Word) (mid : BitVec 12) (s : State),
  (s.regReached (LDC_LCLK_CFG site m) = true → ∃ u : State, exec (.lclkEnWrite site m value) s = .next (u.send (.wrote (LDC_LCLK_CFG site m) .ok)) ∧
    u.bit (LDC_LCLK_CFG_EN site m) = value.getLsbD 12 ∧ u.out = s.out) ∧
  (s.regReached (LDC_PROBE_SEL site lane) = true → ∃ u : State, exec (.probeSelWrite site lane value) s =
    .next (u.send (.wrote (LDC_PROBE_SEL site lane) .ok)) ∧ lane.val ∈ (u.probe site).pend ∧ (u.probe site).src = (s.probe site).src ∧
    u.bit (LDC_PROBE_STAT_SEL_PENDING site) = true ∧ u.csr (LDC_PROBE_SEL site lane) = value &&& 0x8007FFFF#32) ∧
  (s.regReached (LDC_PROBE_CTL site) = true → exec (.probeCtlWrite site value) s =
    .next ((s.probeCtlWrite site value).send (.wrote (LDC_PROBE_CTL site) .ok))) ∧
  (s.regReached (LDC_TRACE_CTL site) = true → ∃ u : State, exec (.traceArm site value) s = .next (u.send (.wrote (LDC_TRACE_CTL site) .ok)) ∧
    u.bit (LDC_TRACE_CTL_ARM site) = true ∧ u.csr (LDC_TRACE_STAT site) = 0 ∧ (u.probe site).left = none) ∧
  (s.regReached (LDC_CUBIT_SNAP site) = true → s.bit (LDC_CUBIT_SNAP_REQ site) = false →
    s.acreHeld site (cubitAcre (s.fld (LDC_CUBIT_ADDR_X site)) (s.fld (LDC_CUBIT_ADDR_Y site))) = false →
    exec (.cubitSnapReq site) s = .next ((((s.setFld (LDC_CUBIT_SNAP_DONE site) 0).setFld (LDC_CUBIT_SNAP_STALE site) 0).setFld
      (LDC_CUBIT_SNAP_REQ site) 1).send (.wrote (LDC_CUBIT_SNAP site) .ok))) ∧
  (s.regReached (LDC_BSH_DIAG_CTL site) = true → s.levelS mid.toNat = true → s.bit (LDC_BSH_DIAG_CTL_BUSY site) = false → bitsOf value 0 10 < 768 →
    (s.place (placeKey site (bitsOf value 0 10 / 192))).loading = false → ∃ u : State, exec (.diagGo mid site value) s =
      .next (u.send (.wrote (LDC_BSH_DIAG_CTL site) .ok)) ∧ u.bit (LDC_BSH_DIAG_CTL_BUSY site) = true ∧
      mapGet u.fab.diags 0 site = value ||| 0x200000#32 ∧ u.fab.rows = s.fab.rows)

/-- A software trigger, where the register answers, and a network trigger that is enabled leave a trigger that waits for the next probe-clock
edge, or for the one after it. At an edge of the running probe clock with a trigger due: if the trace is armed and not yet triggered, TRIGGERED
reads 1 and TRIG_PTR the entry that is written, and POST more entries follow it; if not, TRIGGERED and TRIG_PTR are as they were. POST counts as
it stands at that edge (log entry 100). -/
def Obligations.TraceTriggersOnce : Prop := ∀ (site : Fin 64) (second same : Bool) (s t : State),
  (s.regReached (LDC_TRACE_CTL site) = true → ∃ u : State, exec (.swTrig site) s = .next (u.send (.wrote (LDC_TRACE_CTL site) .ok)) ∧
    u.regs = s.regs ∧ 0 ∈ (u.probe site).trigs) ∧
  (s.bit (LDC_TRACE_CTL_TEN_NET site) = true → ∃ u : State, exec (.networkTrigger site second) s = .next u ∧ u.regs = s.regs ∧
    second.toNat ∈ (u.probe site).trigs ∧ site.val ∈ u.fab.trigIn) ∧
  (s.clockRuns site (s.probeClock site) = true → s.edgeAt (placeKey site 0) (s.probeClock site) same = t → 0 ∈ (t.probe site).trigs →
    ∃ u : State, exec (.traceEntryWrite site same) s = .next u ∧
      (t.bit (LDC_TRACE_CTL_ARM site) = true → t.bit (LDC_TRACE_STAT_TRIGGERED site) = false → t.bit (LDC_PROBE_CTL_DEST site) = false →
        u.bit (LDC_TRACE_STAT_TRIGGERED site) = true ∧ u.fld (LDC_TRACE_STAT_TRIG_PTR site) = t.fld (LDC_TRACE_STAT_WPTR site) ∧
        (u.probe site).left = some (t.fld (LDC_TRACE_CTL_POST site))) ∧
      (t.bit (LDC_TRACE_CTL_ARM site) = false ∨ t.bit (LDC_TRACE_STAT_TRIGGERED site) = true →
        u.bit (LDC_TRACE_STAT_TRIGGERED site) = t.bit (LDC_TRACE_STAT_TRIGGERED site) ∧
        u.fld (LDC_TRACE_STAT_TRIG_PTR site) = t.fld (LDC_TRACE_STAT_TRIG_PTR site)))

/-- At a bushel whose clocks run (`bshClocked`), a read edge, a write edge and an edge with CLEAR act on it once the edges of its clocks have
come (`t`), with what falls on a port whose divided clock has no edge there left out. At an idle cycle of its port B (`IdleB`, at the instant
`t`) an enabled scrub takes the row in turn, a corrected row that waits is written back with its valid bit kept, and a busy diagnostic access
is carried out; with none within 10 µs it times out with DIAG_TIMEOUT. -/
def Obligations.BushelCommandsAct : Prop := ∀ (site : Fin 64) (bushel : Fin 768) (e : BshEdge) (same : Bool) (s t : State),
  (s.bshClocked site bushel e = true → s.bshClocks site bushel e = t →
    (s.bshHas site bushel e false = true → exec (.bushelRead site bushel e) s = .next (t.bushelEdge site bushel (t.bshTaken site bushel e))) ∧
    (s.bshHas site bushel e true = true → exec (.bushelWrite site bushel e) s = .next (t.bushelEdge site bushel (t.bshTaken site bushel e))) ∧
    (e.clear = true → exec (.clear site bushel e) s = .next (t.bushelEdge site bushel (t.bshTaken site bushel e)))) ∧
  (IdleB s site bushel same t →
    (s.bit (LDC_BSH_SCRUB_EN site (bushel / 192)) = true → exec (.scrubRow site bushel same) s = .next (t.scrubRow site bushel)) ∧
    (∀ r v w, (s.bsh site bushel).back = some w → (t.bsh site bushel).back = some (r, v) → exec (.scrubWriteBack site bushel same) s = .next
      ((t.setBshRow site bushel r (t.bshRowAt site bushel r &&& BitVec.twoPow 109 108 ||| v.setWidth 109)).setBsh site bushel
        { t.bsh site bushel with back := none })) ∧
    (s.bit (LDC_BSH_DIAG_CTL_BUSY site) = true → s.diagBushel site = bushel → exec (.diagAccess site same) s =
      .next (t.diagPerform site (mapGet t.fab.diags 0 site)))) ∧
  (s.bit (LDC_BSH_DIAG_CTL_BUSY site) = true → ∃ u : State, exec (.diagTimeout site) s = .next u ∧
    u.regs = (((s.setFld (LDC_BSH_DIAG_CTL_GO site) 0).setFld (LDC_BSH_DIAG_CTL_BUSY site) 0).setFld (LDC_BSH_ERR_DIAG_TIMEOUT site) 1).regs ∧
    u.fab.rows = s.fab.rows)

/-- BUSHEL_READ, BUSHEL_WRITE, CLEAR, SCRUB_WRITE_BACK and DIAG_ACCESS on a site change no DRAM, SRAM or CXL line, no queue, no link, no
device time, nothing of the ring network and nothing of the lifetime store; SCRUB_WRITE_BACK changes no row but the one that waits, of its
own bushel, and sends nothing. -/
def Obligations.BushelFrame : Prop := ∀ (site : Fin 64) (bushel : Fin 768) (e : BshEdge) (same : Bool) (s t : State),
  (exec (.bushelRead site bushel e) s = .next t ∨ exec (.bushelWrite site bushel e) s = .next t ∨ exec (.clear site bushel e) s = .next t ∨
    exec (.scrubWriteBack site bushel same) s = .next t ∨ exec (.diagAccess site same) s = .next t →
    t.mem = s.mem ∧ t.qe = s.qe ∧ t.links = s.links ∧ t.tb = s.tb ∧ t.ring = s.ring ∧ t.lts = s.lts) ∧
  (exec (.scrubWriteBack site bushel same) s = .next t → t.out = s.out ∧ t.fab.cubits = s.fab.cubits ∧ t.fab.frames = s.fab.frames ∧
    ∀ site' b' r', bushelKey site' b' ≠ bushelKey site bushel → r' < 1024 →
      (∀ r v, ((s.edgeAt (placeKey site (bushel / 192)) (s.bshClk site bushel true) same).bsh site bushel).back = some (r, v) → r < 1024) →
      t.bshRowAt site' b' r' = s.bshRowAt site' b' r')

/-- For each of the 17 MAC-tile operations (NOP to HALT, `tileCommand`): a running tile whose instruction word, read without an
uncorrectable error, is that operation, legal and with no stream to wait for, counts the fetch and carries it out: HALT ends the program,
REP within its rules opens a loop, any other operation reads its operands, has its effect and moves on. -/
def Obligations.TileOperationRuns : Prop := ∀ (n : Fin 17) (site : Fin 64) (tile : Fin 128) (s s1 : State) (o : SecWord) (w : DWord) (x : TileSt),
  s.tileRuns site tile = true → secDecode8 (s.iword site tile (s.tile site tile).pc) = o → o.ue = false → o.data = w →
  tiOp w = n → tiIllegal w = false →
  s1 = (if (s.tile site tile).mode = .run then s.tileCount site tile o.ce o.ue false false else s) → s1.tile site tile = x → x.waits w = 0 →
  (n = 14 → repBad x w = false) →
  exec (tileCommand n site tile) s = .next
    (if n = 16 then s1.setTile site tile { x with mode := .done, waitOn := 0 }
    else if n = 14 then s1.setTile site tile
      { x with loops := ⟨x.pc + 1, tiEnd w, tiImm w % 4096 + 1⟩ :: x.loops, pc := (x.pc + 1) % 32, mode := .run, waitOn := 0 }
    else
      let ops := s1.tileOperands site tile w
      let s2 := ops.state.tileEffect site tile w ops
      s2.setTile site tile (((s2.tile site tile).advance w).next))

/-- GO at a halted tile under release begins at START_PC with no loops; STOP of a running tile asks it to stop, and at the next boundary
it is STOPPED; RESUME of a stopped tile runs it; a stream word enters an input buffer with room for it, and the oldest word of OS leaves. -/
def Obligations.TileControlAndStreams : Prop := ∀ (site : Fin 64) (tile : Fin 128) (s : State) (x : TileSt) (data : BitVec 48) (poison : Bool),
  s.tile site tile = x →
  (s.acreClocked (tilePlace site tile) = true → x.mode.halted = true → exec (.go site tile true) s = .next
    (s.setTile site tile { x with loops := [], pc := bitsOf x.ctl 8 5, mode := .run, waitOn := 0, stopReq := false })) ∧
  (s.tileOpen site tile = true → x.mode.halted = false → exec (.stop site tile) s = .next (s.setTile site tile { x with stopReq := true })) ∧
  (x.stopReq = true → x.mode.halted = false → exec (.tileStopHalt site tile) s = .next
    (s.setTile site tile { x with mode := .stopped, stopReq := false, waitOn := 0 })) ∧
  (s.tileOpen site tile = true → x.mode = .stopped → exec (.resume site tile) s = .next
    (s.setTile site tile { x with mode := .run, stopReq := false })) ∧
  (s.acreClocked (tilePlace site tile) = true → s.clockRuns site (bitsOf x.ctl 13 3) = true →
    (x.is0.length < 4 → exec (.streamWord site tile .is0 data poison) s = .next (s.setTile site tile { x with is0 := x.is0 ++ [(data, poison)] })) ∧
    (x.is1.length < 4 → exec (.streamWord site tile .is1 data poison) s = .next (s.setTile site tile { x with is1 := x.is1 ++ [(data, poison)] })) ∧
    (∀ d p q, x.os = (d, p) :: q → exec (.streamWord site tile .os data poison) s = .next
      ((s.setTile site tile { x with os := q }).send (.tileWord (tileKey site tile) d p))))

/-- An operation of a tile that answers `t` changes no other tile and no data word of another tile; every register, memory, queue, link,
ring, time and store of the device is as it was, and nothing is sent. -/
def Obligations.TileCommandFrame : Prop := ∀ (n : Fin 17) (site : Fin 64) (tile : Fin 128) (s t : State),
  exec (tileCommand n site tile) s = .next t →
  (∀ site' tile', tileKey site' tile' ≠ tileKey site tile → t.tile site' tile' = s.tile site' tile') ∧
  (∀ key, key / 512 ≠ tileKey site tile → t.tword key = s.tword key) ∧
  t.regs = s.regs ∧ t.out = s.out ∧ t.fab.rows = s.fab.rows ∧ t.fab.cubits = s.fab.cubits ∧ t.fab.frames = s.fab.frames ∧
  t.mem = s.mem ∧ t.qe = s.qe ∧ t.links = s.links ∧ t.ring = s.ring ∧ t.tb = s.tb ∧ t.lts = s.lts ∧ t.cfg = s.cfg ∧ t.cpu = s.cpu

/-- For each of the six operations of CFG_CMD, as GO written by Level S where the register answers, with the operation in OP, in a RUNNING
device in which no operation runs: it begins (`opGo`) and the write completes OK (READBACK of an acre that is not loading). So UNLOAD of a
RUNNING acre leaves it QUIESCING with BUSY set; UNLOAD of an EMPTY or FAILED acre leaves it EMPTY and ends with status OK. -/
def Obligations.ConfigurationOperationsStart : Prop := ∀ (mid : BitVec 12) (v : Word) (n : Nat) (s t : State),
  s.regReached CFG_CMD = true → s.levelS mid.toNat = true → bitsOf v 0 4 = n → v.getLsbD 4 = true →
  (n = 4 → s.acreState (s.fld CFG_ARG_ACRE) ≠ acLoading) → s.cfg.op = none → s.fld RST_STAT_STATE = 1 →
  t = (s.setFld CFG_CMD_OP n).opGo n →
  (n = 1 → exec (.cfgOpLoad (.go mid v)) s = .next (t.send (.wrote CFG_CMD .ok))) ∧
  (n = 2 → exec (.cfgOpUnload (.go mid v)) s = .next (t.send (.wrote CFG_CMD .ok))) ∧
  (n = 3 → exec (.cfgOpRelocate (.go mid v)) s = .next (t.send (.wrote CFG_CMD .ok))) ∧
  (n = 4 → exec (.cfgOpReadback (.go mid v)) s = .next (t.send (.wrote CFG_CMD .ok))) ∧
  (n = 5 → exec (.cfgOpHostPrep (.go mid v)) s = .next (t.send (.wrote CFG_CMD .ok))) ∧
  (n = 6 → exec (.cfgOpRetire (.go mid v)) s = .next (t.send (.wrote CFG_CMD .ok))) ∧
  (n = 2 → s.fld CFG_ARG_ACRE ≤ 191 → s.cfg.xfer = none → s.acreState (s.fld CFG_ARG_ACRE) = acRunning →
    t.acreState (s.fld CFG_ARG_ACRE) = acQuiescing ∧ t.bit CFG_CMD_BUSY = true) ∧
  (n = 2 → s.fld CFG_ARG_ACRE ≤ 191 → s.acreState (s.fld CFG_ARG_ACRE) = acEmpty ∨ s.acreState (s.fld CFG_ARG_ACRE) = acFailed →
    t.acreState (s.fld CFG_ARG_ACRE) = acEmpty ∧ t.bit CFG_CMD_BUSY = false ∧ t.fld CFG_CMD_STATUS = opOk)

/-- Outside SAFE, each under the state its rule names: the image header is judged; the early acre loads; an EMPTY, ISOLATED or FAILED acre of
an operation's list loads; a frame of a load in progress is taken; the release goes through stages 1, 2 and 3, the last making the acre
RUNNING; a quiet acre ends its quiescence; an acre without RCLK fails with reason 14; a RUNNING acre whose CRC differs is marked upset. -/
def Obligations.AcreCommandsAct : Prop := ∀ (acre : Fin 192) (s : State) (sfdp : Option Bool) (data : Option (List Byte)), s.safe = false →
  (∀ s1 : State, s.inPhase 4 6 = true → s.cfg.refusal = 0 → (firstSource s.cfgMode).isSome → s.cfg.image = none → s.sourceReady = true →
    s1 = s.startXspi sfdp → exec (.imageStaging sfdp data) s = .next (s1.judgeImage (if s1.cfg.xspi.isNone then none else data))) ∧
  (∀ im, s.cfg.image = some im → s.inPhase 5 6 = true → s.acreState im.early = acEmpty → im.segs.any (fun g => g.acre = im.early) = true →
    exec .earlyAcreLoad s = .next ((s.loadStaged im.early).loadEnded im.early)) ∧
  (∀ o, (s.stagedOf acre).isSome → s.inPhase 6 6 = false → s.cfg.op = some o → o.op = 1 → o.phase = .loads → acre.val ∈ o.acres →
    s.ldcFree acre o.acres = true → (s.acreState acre = acEmpty ∨ s.acreState acre = acIsolated ∨ s.acreState acre = acFailed) →
    exec (.acreLoadBegin acre) s = .next (((s.setOp { o with acres := o.acres.filter (· ≠ acre.val) }).loadStaged acre).loadEnded acre)) ∧
  (∀ l, s.loadOf acre = some l → exec (.frameRecord acre) s = .next
    (if ((s.frameRecord l).loadOf acre).isNone then (s.frameRecord l).loadEnded acre else s.frameRecord l)) ∧
  (∀ pl, acre.val ∈ s.cfg.due → s.rclkRuns acre = true → s.acrePlace (acre / 4) (acre % 4) = some pl →
    exec (.stage1 acre) s = .next { ((s.dropDue acre).setAcre acre acReleasing).stage1 acre pl with
      rst := { (((s.dropDue acre).setAcre acre acReleasing).stage1 acre pl).rst with safeLow := false } }) ∧
  (∀ pl, s.stageReady acre 1 = some pl → exec (.stage2 acre) s = .next (s.setPlace pl { s.place pl with stage := 2 })) ∧
  (∀ pl, s.stageReady acre 2 = some pl → s.cfg.op = none → ∃ u : State, exec (.stage3 acre) s = .next u ∧ u.acreState acre = acRunning ∧
    (u.place pl).stage = 3 ∧ ResetRun.acre acre ∉ u.rst.running) ∧
  (s.rclkRuns acre = false → (acre.val ∈ s.cfg.due ∨ s.acreState acre = acReleasing) → s.cfg.op = none → ∃ u : State,
    exec (.noClock acre) s = .next u ∧ u.regs = ((s.dropDue acre).acreFail acre 14 (acre * 16384)).regs ∧ acre.val ∉ u.cfg.due) ∧
  (s.acreState acre = acQuiescing → s.gatesQuiet acre = true → exec (.quiescenceEnd acre) s = .next (s.quiesced acre) ∧
    (s.cfg.op = none → ResetRun.acre acre ∉ s.rst.running → s.quiesced acre = s.isolateAcre acre)) ∧
  (∀ pl r, s.acrePlace (acre / 4) (acre % 4) = some pl → s.retainedSeg acre = some r → s.bit CFG_CHECK_EN = true →
    s.acreState acre = acRunning → s.checkCrc pl ≠ r.seg.crc →
    exec (.cfgCheck acre) s = .next ((s.setFld (CFG_ACRE_UPSET acre) 1).cfgFlag CFG_ERR_CFG_UPSET acre))

/-- In a start-up that is in the phase: SP0 with the RC oscillators, SP1 with every source and rail good, SP2 with good self-tests, firmware
and board configuration, SP3 with matching sites, SP4 without failing logic sites, SP5 with trained memory, SP6 with every
segment loaded and SP7 with every acre released end in `phaseEnd` of their phase: PTIME shows the time and PHASE the next phase. Where a ring
cannot close or the spine link is down, SP3 ends in SAFE with reason 16. -/
def Obligations.StartupPhasesEnd : Prop := ∀ (s : State) (us : BitVec 24),
  (s.startPhase 0 = true → exec (.sp0 us) s = .next (((s.setFld (CLK_STAT_RC_READY 0) 1).setFld (CLK_STAT_RC_READY 1) 1).phaseEnd 0 us)) ∧
  (∀ f : Sp1Find, s.startPhase 1 = true → f.refReady = 3 → f.iosc = 3 → f.plls = true → f.rails = true → exec (.sp1 f us) s = .next
    (if f.xtal then (s.showSources f).phaseEnd 1 us else ((s.showSources f).phaseEnd 1 us).aoOnRc)) ∧
  (∀ (f : Sp2Find) (s0 s3 s5 s6 : State), s.startPhase 2 = true → f.mbist = 0 → f.lbist = 0 → f.sram = 0 →
    s0 = (s.setCsr64 RST_BIST_SITES 0).setFld CFG_STAT_CFG_MODE f.mode.toNat → s0.mapLost f.sectors = false →
    s3 = ((s0.readStore f.sectors).bootUnits f.slots).bistHubs 0 → 0 ∉ s3.rst.noFw → 1 ∉ s3.rst.noFw → s3.bcrOk 0 = true → s5 = s3.chooseBcr →
    s6 = (if s5.rst.powerOn then s5.setBit WDT_SAFE_CTL_EN (s5.bit WDT_SAFE_CTL_EN || s5.rst.wdtFuse) else s5).watchWake →
    exec (.sp2 f us) s = .next (((State.phaseEnd { s6 with cfg := { s6.cfg with tried := (firstSource s6.cfgMode).getD 0 } } 2 us).storeReady).flushFatals.mcServe)) ∧
  (∀ f : Sp3Find, s.startPhase 3 = true → s.siteMismatch f = false → s.portsBad f = 0 → f.islands = 0 → f.cut = 0 →
    (∀ row < 4, adjacentFailed row s.tiFailed = false) → exec (.sp3 f us) s = .next
      (if s.closeRings.fld (LNK_STAT_STATE 128) = 6 ∨ ((List.range 4).any fun row => s.closeRings.pathCut row s.closeRings.tiFailed) = true then
        s.closeRings.enterSafe 16 else ((s.closeRings.applyMap f).formCaps.takeBcr).phaseEnd 3 us)) ∧
  (∀ fails : DWord, s.startPhase 4 = true → s.logicBad fails = [] → exec (.sp4 fails us) s = .next (s.phaseEnd 4 us)) ∧
  (∀ (chans : Vector ChanTrain 4) (ports : Vector CxlTrain 4) (r0 r1 : State × Bool), s.startPhase 5 = true →
    r0 = (if s.rst.powerOn then s.zeroMpe else s).trainHub 0 #v[chans[0], chans[1]] #v[ports[0], ports[1]] → r0.2 = false →
    r1 = r0.1.trainHub 1 #v[chans[2], chans[3]] #v[ports[2], ports[3]] → r1.2 = false →
    (firstSource (r1.1.phaseEnd 5 us).cfgMode).isSome → exec (.sp5 chans ports us) s = .next (r1.1.phaseEnd 5 us)) ∧
  (∀ im, s.startPhase 6 = true → s.cfg.refusal = 0 → s.cfg.image = some im → s.imageLoaded im = true → im.strict = false →
    exec (.sp6 us) s = .next (s.phaseEnd 6 us)) ∧
  (s.startPhase 7 = true → (∀ la < 192, s.acreState la ≠ acLoaded ∧ s.acreState la ≠ acReleasing) → ∃ u : State, exec (.sp7 us) s = .next u.startDone ∧
    u.regs = (s.phaseEnd 7 us).regs)

/-- In every state whose start-up is in phase 7 with every acre released, SP7 leaves RST_STAT with STATE 1 and PHASE 8, the time of phase 7
in RST_PTIME, and no acre's state changed. -/
def Obligations.StartDoneMeansRunning : Prop := ∀ (s : State) (us : BitVec 24), s.startPhase 7 = true →
  (∀ la < 192, s.acreState la ≠ acLoaded ∧ s.acreState la ≠ acReleasing) → ∃ t : State, exec (.sp7 us) s = .next t ∧
    t.fld RST_STAT_STATE = 1 ∧ t.fld RST_STAT_PHASE = 8 ∧ t.fld (RST_PTIME_US 7) = us.toNat ∧ (∀ la < 192, t.acreState la = s.acreState la) ∧ t.safe = false

/-- PORST_N low, a wake from PARK and the AO power-on and brown-out resets reset the device (`deviceReset`), with AO_BOR set after a brown-out.
A device reset leaves its cause in RST_CAUSE, PHASE at the phase that start-up goes on from, no acre but EMPTY ones, no command waiting in the
MC and the fabric, rings and links as at reset; a power-on reset empties DRAM, stacked SRAM and the queues. WRST from the end of SP2 on, or in
SAFE, starts a warm reset, whose hubs quiesce and which then applies; a write of RST_CTL by Level S that asks for one completes OK; hub, die,
port-die and acre resets in progress are carried out. -/
def Obligations.ResetCommandsAct : Prop := ∀ (s : State),
  (exec (.porst false) s = .next (s.deviceReset false true 2 0)) ∧
  (s.rst.parked = true → s.rst.wakes ≠ 0 → exec (.porst true) s = .next (s.deviceReset false true 3 1)) ∧
  (∀ dly, exec (.aoPor dly) s = .next ((s.deviceReset true true 0 0).setFld (CLK_STAT_STARTUP_DLY 0) dly.toNat)) ∧
  (∀ dly, exec (.aoBor dly) s = .next (((s.deviceReset true true 1 0).setFld (CLK_STAT_STARTUP_DLY 0) dly.toNat).setFld PWR_WAKE_CAUSE_AO_BOR 1)) ∧
  (∀ (ao powerOn : Bool) (cause phase : Nat) (u : State), u = s.deviceReset ao powerOn cause phase → cause < 16 → phase < 16 →
    u.csr RST_CAUSE = BitVec.ofNat 32 (cause + 16 * s.safe.toNat) ∧ u.fld RST_STAT_PHASE = phase ∧ u.safe = false ∧
    u.cmd.waiting = [] ∧ u.cfg.op = none ∧ u.fab = FabState.init ∧ u.links = LinkState.init ∧ u.ring = RingState.init ∧ u.rst.powerOn = powerOn ∧
    (powerOn = true → u.mem.dram = [] ∧ u.mem.sram = [] ∧ u.qe = QeState.init ∧ u.errs.log = [])) ∧
  (s.rst.parked = false → (3 ≤ s.fld RST_STAT_PHASE ∨ s.safe = true) → exec .wrst s = .next (s.warmStart true)) ∧
  (∀ h : Fin 2, s.rst.warm = true → s.rst.warmDone.getLsbD h = false → exec (.warmDeviceReset (some h)) s = .next
    { s.quiesceHub h with rst := { (s.quiesceHub h).rst with warmDone := (s.quiesceHub h).rst.warmDone ||| BitVec.twoPow 2 h } }) ∧
  (s.rst.warm = true → s.rst.warmDone = 3 → exec (.warmDeviceReset none) s = .next (s.deviceReset false false (if s.rst.warmPin then 4 else 5) 1)) ∧
  (∀ mid v, s.regReached RST_CTL = true → s.levelS (BitVec.toNat mid) = true → v.getLsbD 31 = true → exec (.rstCtlGo mid v) s = .next
    (((((s.setFld RST_CTL_SCOPE (bitsOf v 0 3)).setFld RST_CTL_TARGET (bitsOf v 4 9)).resetAsk (bitsOf v 0 3) (bitsOf v 4 9)).1).send (.wrote RST_CTL .ok))) ∧
  (∀ h : Fin 2, ResetRun.hub h ∈ s.rst.running → s.rst.warm = false → s.safe = false →
    ∃ u : State, exec (.hubReset h) s = .next (u.resetEnds (.hub h)) ∧ u.rst.hubs.getLsbD h = true) ∧
  (∀ (h : Fin 2) (chans : Vector ChanTrain 2) (ports : Vector CxlTrain 2) (u : State), s.rst.hubs.getLsbD h = true → s.safe = false →
    ((s.penFromBcr h).trainHub h chans ports).2 = false → u = { ((s.penFromBcr h).trainHub h chans ports).1 with
      rst := { ((s.penFromBcr h).trainHub h chans ports).1.rst with
        hubs := ((s.penFromBcr h).trainHub h chans ports).1.rst.hubs &&& ~~~(BitVec.twoPow 2 h) } } →
    exec (.hubResetDone h true chans ports) s = .next (State.cfgPump 200 u.storeReady.storeTurn).flushFatals.mcServe ∧ u.rst.hubs.getLsbD h = false) ∧
  (∀ (die : Fin 48) (site : Nat), ResetRun.die die ∈ s.rst.running → s.rst.warm = false → s.safe = false → s.siteOf die = some site →
    (∀ la ∈ s.dieAcres die, s.acreState la ≠ acRunning ∧ s.acreState la ≠ acQuiescing) →
    ∃ u : State, exec (.dieReset die) s = .next { (u.resetLogicDie site).resetEnds (.die die) with
      rst := { ((u.resetLogicDie site).resetEnds (.die die)).rst with
        running := ((u.resetLogicDie site).resetEnds (.die die)).rst.running ++ [.bist die] } }) ∧
  (∀ (die : Fin 48) (site : Nat), ResetRun.bist die ∈ s.rst.running → s.siteOf die = some site →
    exec (.dieReady die true) s = .next ((s.resetEnds (.bist die)).loadClocks site)) ∧
  (∀ port : Fin 4, ResetRun.port port ∈ s.rst.running → s.rst.warm = false → s.safe = false →
    exec (.portDieReset port true) s = .next
      ((((s.resetPort port).resetEnds (.port port)).setSite (fun h => HUB_SITE_STAT_STATE h (16 * port)) 1).portFromBcr port)) ∧
  (∀ acre : Fin 192, ResetRun.acre acre ∈ s.rst.running → s.rst.warm = false → s.safe = false → exec (.acreReset acre) s = .next (s.quiesce acre))

/-- REF_LOSS sets its flag and the PLLs lose lock; REF_FREQ counts good windows while the source is judged; IOSC_READY, XTAL_READY, XTAL_LOSS,
XTAL_RETURN and CPLL_LOCK show the source's state; REFRESH_LOST, IOSC_CHECK outside its range and NO_CLOCK_TIMEOUT raise their flags; CLK_DOM,
CMULT and DIV written by Level S where the register answers are applied and complete OK. -/
def Obligations.ClockEventsAct : Prop := ∀ (hub : Fin 2) (s : State) (mid : BitVec 12) (value : Word) (count : BitVec 32) (edges : BitVec 16),
  (exec (.refLoss hub) s = .next (((State.refFault { s with rst := { s.rst with windows := mapSet s.rst.windows 0 hub 0 } } hub
    (CLK_ERR_REF_LOSS hub) 3).setFld (CLK_STAT_HPLL_LOCK hub) 0).setFld (CLK_STAT_CPLL_LOCK hub) 0)) ∧
  (s.bit (CLK_STAT_IOSC_READY hub) = true → s.rst.parked = false → s.fld (CLK_MON_LO hub) ≤ edges.toNat → edges.toNat ≤ s.fld (CLK_MON_HI hub) →
    2 ≤ s.fld RST_STAT_PHASE → 1 ≤ mapGet s.rst.windows 0 hub → ∃ u : State, exec (.refFreq hub edges) s = .next (u.setFld (CLK_STAT_REF_READY hub) 1) ∧ u.regs = s.regs) ∧
  (s.bit (CLK_STAT_IOSC_READY hub) = true → s.rst.parked = false → edges.toNat < s.fld (CLK_MON_LO hub) ∨ s.fld (CLK_MON_HI hub) < edges.toNat →
    exec (.refFreq hub edges) s = .next (State.refFault { s with rst := { s.rst with windows := mapSet s.rst.windows 0 hub 0 } } hub (CLK_ERR_REF_FREQ hub) 4)) ∧
  (s.rst.parked = false → exec (.ioscReady hub) s = .next ((s.setFld (CLK_STAT_IOSC_READY hub) 1).ioscSwitch hub)) ∧
  (s.rst.noRefresh.getLsbD hub = true → ∃ u : State, exec (.refreshLost hub) s = .next (State.clkErr u hub (CLK_ERR_REFRESH_LOST hub)) ∧ u.regs = s.regs ∧
    u.rst.noRefresh.getLsbD hub = false) ∧
  (s.safe = true → s.rst.faulted.getLsbD hub = true → s.bit (CLK_STAT_IOSC_READY hub) = false → s.reason = 3 ∨ s.reason = 4 →
    exec (.noClockTimeout hub) s = .next (((s.setFld RST_STAT_REASON 5).setFld RST_LAST_SAFE_REASON 5).fatal 5)) ∧
  (s.hubClocked 0 = true → s.bit (CLK_STAT_IOSC_READY hub) = true → 97656 * 108 < count.toNat * 100 ∨ count.toNat * 100 < 97656 * 92 →
    exec (.ioscCheck hub count) s = .next ((s.setFld (CLK_STAT_IOSC_READY hub) 0).clkErr hub (CLK_ERR_IOSC_FAULT hub))) ∧
  (s.bit (CLK_STAT_XTAL_READY 0) = true → exec .xtalLoss s = .next (s.setXtal false).aoOnRc) ∧
  (s.rst.parked = true ∨ 2 ≤ s.fld RST_STAT_PHASE → exec .xtalReady s = .next (s.setXtal true)) ∧
  (s.bit (CLK_STAT_XTAL_READY 0) = true → s.rst.onRc = true →
    exec .xtalReturn s = .next (State.setFld { s with rst := { s.rst with onRc := false } } (CLK_STAT_AO_ON_RC 0) 0)) ∧
  (s.rst.relock.getLsbD hub = true → s.bit (CLK_STAT_REF_READY hub) = true → ∃ u : State, exec (.cpllLock hub) s = .next (State.setFld u (CLK_STAT_CPLL_LOCK hub) 1) ∧
    u.regs = s.regs ∧ u.rst.relock.getLsbD hub = false) ∧
  (s.levelS mid.toNat = true → s.regReached (CLK_DOM hub) = true → exec (.clkDomWrite mid hub value) s = .next ((s.domWrite hub value).send (.wrote (CLK_DOM hub) .ok))) ∧
  (s.levelS mid.toNat = true → s.regReached (CLK_CPLL hub) = true →
    exec (.cmultWrite mid hub value) s = .next ((s.cpllWrite hub value).send (.wrote (CLK_CPLL hub) .ok)) ∧
    exec (.divWrite mid hub value) s = .next ((s.cpllWrite hub value).send (.wrote (CLK_CPLL hub) .ok)))

/-- SUPPLY_UV of a powered device enters SAFE with reason 6; a power sample shows the power and sets the throttle level; a thermal sample of
a sensor that has settled shows its reading; an MC_WFI that nothing refuses enters the mode; an enabled wake event and the timer wake the
device, or abort an entry before its commit point; the entry reaches its state and the wake ends; PWR_DIE_GATE written by Level S gates dies;
an ungated die is ready with empty acres; a package transit island that fails is bypassed. -/
def Obligations.PowerEventsAct : Prop := ∀ (s : State),
  (∀ rail, s.rst.parked = false → 2 ≤ s.fld RST_STAT_PHASE → exec (.supplyUv rail) s =
    .next (((s.setFld PWR_ERR_SUPPLY_UV 1).setFld PWR_STAT_RAIL rail).enterSafe 6)) ∧
  (∀ (mw : BitVec 20) (cap low : Nat), s.powerRuns = true → mw.toNat ≤ 200000 → (s.fld PWR_STAT_THR_LEVEL ≠ 4 ∨ s.rst.capped < 999) →
    cap = clampTo 20 190 (s.fld PWR_CAP_CAP_W) * 1000 → low = (if mw.toNat * 100 < cap * 95 then min 10 (s.rst.below + 1) else 0) →
    ∃ u : State, exec (.powerSample mw) s = .next u ∧ u.regs = ((s.setFld PWR_PKG_MW mw.toNat).setFld PWR_STAT_THR_LEVEL
      (nextLevel (s.fld PWR_STAT_THR_LEVEL) s.throttleFloor cap mw.toNat low)).regs ∧ u.rst.below = low) ∧
  (∀ (die : Fin 72) (sensor : Fin 4) (temp : Half), s.powerRuns = true → hasSensor die sensor = true → s.diePowered die = true →
    1 ≤ mapGet s.rst.readings 0 (4 * die.val + sensor.val) → temp.toInt < 1300 → ∃ u : State, exec (.thermalSample die sensor temp) s =
      .next (State.thermHot (if die.val < 2 then u.showSram die else u) u.validTemps) ∧
      u.regs = (s.setCsr (tempKey die sensor) (BitVec.ofNat 32 (temp.toNat + 0x10000))).regs) ∧
  (∀ find, s.mayEnter = true → s.acceptedRead = true → State.powerRefuser { s with rst := { s.rst with wakes := 0 } } (s.fld PWR_MODE_MODE) find = none →
    ∃ u : State, exec (.mcWfi find) s = .next (State.mcServe u) ∧ u.rst.entry = some ⟨s.fld PWR_MODE_MODE, find.commit⟩ ∧
      u.regs = (s.setFld PWR_STAT_STATE 4).regs) ∧
  (∀ (event : Fin 8) (committed : Bool) (mode : Nat), s.powerState = some mode → (s.csr PWR_WAKE_EN).getLsbD event = true → wakeReaches event mode = true →
    (s.rst.entry = none → exec (.wakeEvent event committed) s = .next
      (if s.rst.parked then s.latchWake event else (s.latchWake event).setFld PWR_STAT_STATE 5)) ∧
    (∀ m, s.rst.entry = some ⟨m, false⟩ → exec (.wakeEvent event committed) s = .next
      (if committed then s.powerCommit.latchWake event else s.powerRefuse 11 0 event true))) ∧
  (∀ mode committed, s.rst.timer = true → s.powerState = some mode → (s.csr PWR_WAKE_EN).getLsbD 3 = true →
    s.rst.entry = none → s.rst.parked = false →
    exec (.pwrWtmr committed) s = .next ((State.latchWake { s with rst := { s.rst with timer := false } } 3).setFld PWR_STAT_STATE 5)) ∧
  (∀ e, s.rst.entry = some e → e.mode = 1 ∨ e.mode = 2 → ∃ u : State, exec .powerStateReached s = .next u ∧
    u.fld PWR_STAT_STATE = (if s.rst.wakes = 0 then e.mode else 5) ∧ u.rst.asleep = true ∧ u.rst.entry = none ∧ (e.mode = 2 → u.fenced = true)) ∧
  (∀ e, s.rst.entry = some e → e.mode = 3 → ∃ u : State, exec .powerStateReached s = .next u ∧ u.rst.parked = true ∧ u.rst.wakes = s.rst.wakes ∧
    u.mem.dram = []) ∧
  (s.rst.asleep = true → s.fld PWR_STAT_STATE = 5 → ∃ u : State, exec .wakeDone s =
    .next (((State.setFld u PWR_STAT_STATE 0).accDone 0x0500 stOk []).mcServe) ∧ u.fenced = false ∧ u.rst.asleep = false ∧
      (s.fenced = false → u.regs = s.regs)) ∧
  (∀ mid value, s.levelS (BitVec.toNat mid) = true → s.regReached PWR_DIE_GATE = true → exec (.pwrDieGateWrite mid false value) s =
    .next ((State.dieGateWrite (s.dropLatches mid.toNat [PWR_DIE_GATE + 4]) ((s.csr64 PWR_DIE_GATE >>> 32).setWidth 32 ++ value)).send
      (.wrote PWR_DIE_GATE .ok))) ∧
  (∀ (die : Fin 48) (site : Nat) (s1 : State), s.siteOf die = some site → site ∈ s.rst.ungating →
    s1 = { s with rst := { s.rst with ungating := s.rst.ungating.filter (· ≠ site) } } → exec (.ungating die) s =
      .next (((s1.dieAcres die).foldl (fun t la => t.acreGone la acEmpty) (s1.setFld (LDC_PWR_UNGATING site) 0)).loadClocks site)) ∧
  (∀ (site : Fin 64) (row : Nat) (s1 s2 : State), isLogicSite site = true → s.tiFailed site = false → 4 ≤ s.fld RST_STAT_PHASE → row = site.val / 16 →
    s1 = ((s.islandLost site).setSite (fun h => HUB_SITE_STAT_TI_FAIL h site) 1).markSlow (54 + row) → adjacentFailed row s1.tiFailed = false →
    s2 = s1.setRingPath row s1.tiFailed → s2.pathCut row s2.tiFailed = false → (s2.retireSite site).ldOf site = none →
    exec (.transitIslandFail site) s = .next (s2.retireSite site))

/-- A line read of a place of the DRAM that its write queue does not hold joins the queue of its sub-channel, whose command slots then pass, and
one that the write queue holds is answered at once; a line read of no place is answered at once; a write with a whole mask, and one with a
partial mask, joins the write queue likewise; an open row that is idle closes; a passed tREFI makes each bank index's refresh due once more; a
due refresh whose bank index has neither an open row nor a queued request is sent; MR4 shows the rate; a CA error awaits the next command of
the rank, and the command it names is repeated with it; Level S starts a migration and a line of it is copied. -/
def Obligations.MemoryControllerCommandsAct : Prop := ∀ (s : State) (hub : Fin 2) (ch : Fin 4) (sc : Fin 2) (rank ba : Fin 4) (bank : Fin 32) (now slots : Nat),
  (∀ (addr : BitVec 48) (light : Bool) (flips : BitVec 640) (cls : TClass) (u : State), u = s.flipDram hub addr.toNat flips →
    (u.dmcPlace hub addr.toNat = none → exec (.dmcLineRead hub addr light flips cls now slots) s =
      .next (answerLine hub addr.toNat (u.readNow hub addr.toNat (if light then .light else .strong)))) ∧
    (∀ (l : LineLoc) (v : State), u.dmcPlace hub addr.toNat = some l →
      (∀ r : LineRes, (u.dmcClock l.ch now).readQueued l (addr.toNat / 64) = (some r, v) → exec (.dmcLineRead hub addr light flips cls now slots) s =
        .next ((answerLine hub addr.toNat (r, v)).dmcSlots l.ch l.sc slots)) ∧
      ((u.dmcClock l.ch now).readQueued l (addr.toNat / 64) = (none, v) → exec (.dmcLineRead hub addr light flips cls now slots) s =
        .next (v.dmcArrive l ⟨addr, none, light, cls, now⟩ slots)))) ∧
  (∀ (w : LineWrite) (c : Instr), c = (if w.mask = 0xFFFFFFFFFFFFFFFF#64 then .dmcLineWrite hub w now slots else .readModifyWrite hub w now slots) →
    (s.dmcPlace hub w.addr.toNat = none → exec c s = .next (answerStored hub w.addr.toNat (s.writeNow hub w))) ∧
    (∀ l : LineLoc, s.dmcPlace hub w.addr.toNat = some l → exec c s =
      .next ((s.dmcClock l.ch now).dmcArrive l ⟨w.addr, some w, w.light, .p, now⟩ slots))) ∧
  (exec (.drfmsb ch sc rank ba) s = .next (s.serviceRow ch sc rank ba)) ∧
  (s.dmcReady ch = true → ∃ u : State, exec (.refreshInterval ch) s = .next (u.showUrgent ch) ∧ u.regs = s.regs ∧
    ∀ k < 32, k % 4 < 2 ^ s.baBits ch → s.rankLive ch (k / 4 % 4) = true → mapGet (u.dmc ch).due 0 k = mapGet (s.dmc ch).due 0 k + 1) ∧
  (mapGet (s.dmc ch).due 0 (indexKey sc rank ba) ≠ 0 → s.dmcReady ch = true → s.queuedAt ch sc rank ba = false →
    ((s.dmc ch).banks.any fun kv => bankOfIndex sc rank ba kv.1 && kv.2.row.isSome) = false →
    ∃ u : State, exec (.refsb ch sc rank ba) s = .next (u.send (.refresh ch sc rank ba .refsb)) ∧ u.mem.dram = s.mem.dram) ∧
  (∀ double, s.dmcReady ch = true → exec (.mr4Read ch double) s = .next (s.setDmc ch { s.dmc ch with double := double })) ∧
  (∀ b, mapGet (s.dmc ch).banks BankSt.init ((sc.val * 4 + rank.val) * 32 + bank.val) = b → b.row ≠ none →
    exec (.rowIdleClose ch sc rank bank) s = .next (s.setDmc ch { s.dmc ch with
      banks := mapSet (s.dmc ch).banks BankSt.init ((sc.val * 4 + rank.val) * 32 + bank.val) { b with row := none } })) ∧
  (∀ (persist : Bool) (u : State), s.dmcReady ch = true → u = s.setDmc ch { s.dmc ch with ca := (rank.val, persist, false) :: (s.dmc ch).ca } →
    exec (.caRetry ch rank persist .next) s = .next u ∧
    (∀ (w : LineWrite) (l : LineLoc), s.locate (ch.val / 2) w.addr.toNat = some l → l.ch = ch.val → s.physRank ch l.rank = some rank.val →
      exec (.caRetry ch rank persist (.write w)) s = .next (answerStored (ch.val / 2) w.addr.toNat (u.writeNow (ch.val / 2) w)))) ∧
  (∀ mid value, s.levelS (BitVec.toNat mid) = true → s.regReached (DMC_MIG (ch.val / 2) (ch.val % 2)) = true →
    exec (.start mid ch value) s = .next ((s.migCtlWrite ch value).send (.wrote (DMC_MIG (ch.val / 2) (ch.val % 2)) .ok))) ∧
  (∀ flips, s.bit (DMC_STAT_MIG_ACTIVE (ch.val / 2) (ch.val % 2)) = true → s.dmcReady ch = true →
    exec (.migrationLineCopy ch flips) s = .next (s.migCopy ch flips))

/-- A request with a tag that is free on a port that carries the address is sent and outstanding; the response of an outstanding tag answers
its line, a poisoned one with POISON and its count; a link in use that goes down is fenced and reported; CXL_CTL written by Level S where the
register answers applies; the end of a training is taken. -/
def Obligations.CxlCommandsAct : Prop := ∀ (s : State) (hub : Fin 2) (port : Fin 4) (tag : BitVec 16) (mid : BitVec 12) (value : Word) (t : CxlTrain),
  (∀ (w : LineWrite) (x : _), s.cxlRoute hub w.addr.toNat = x → (s.cxlOuts x.1).any (fun o => o.tag = tag.toNat) = false → s.cxlCarries x = true →
    exec (.cxlRequest hub tag true w) s = .next ((s.setCxlOuts x.1 (s.cxlOuts x.1 ++ [⟨tag.toNat, w.addr.toNat⟩])).send
      (.cxl x.1 tag.toNat true x.2 0 0 false)) ∧
    exec (.cxlRequest hub tag false w) s = .next ((s.setCxlOuts x.1 (s.cxlOuts x.1 ++ [⟨tag.toNat, w.addr.toNat⟩])).send
      (.cxl x.1 tag.toNat false x.2 w.mask w.data (decide (w.poison ≠ 0))))) ∧
  (∀ o data, (s.cxlOuts port).find? (fun o => o.tag = tag.toNat) = some o →
    exec (.drs port tag false data) s = .next ((s.setCxlOuts port ((s.cxlOuts port).filter (· ≠ o))).send (.line (port.val / 2) o.addr .ok .none data 0)) ∧
    exec (.drs port tag true data) s = .next
      (((s.setCxlOuts port ((s.cxlOuts port).filter (· ≠ o))).cxlPoison port).send (.line (port.val / 2) o.addr .poison .memUe data 0))) ∧
  (s.cxlPhys port = 2 → exec (.cxlLinkDown port false) s =
    .next (((s.cxlFence port).setCxlPhys port 0).cxlErr port (CXL_ERR_LINK_DOWN (port.val / 2) (port.val % 2)) sevUncorrected) ∧
    exec (.cxlLinkDown port true) s = .next (((s.cxlFence port).setFld (CXL_STAT_IDE (port.val / 2) (port.val % 2)) 2).cxlErr port
      (CXL_ERR_IDE_FAIL (port.val / 2) (port.val % 2)) sevUncorrected)) ∧
  (exec (.cxlEn mid port none t) s = .next (s.cxlTrained port t)) ∧
  (s.levelS mid.toNat = true → s.regReached (CXL_CTL (port.val / 2) (port.val % 2)) = true →
    exec (.cxlEn mid port (some value) t) s =
      .next (((s.cxlCtlWrite port value).send (.wrote (CXL_CTL (port.val / 2) (port.val % 2)) .ok)).cxlTrained port t) ∧
    exec (.cxlFenceClear mid port value) s = .next ((s.cxlCtlWrite port value).send (.wrote (CXL_CTL (port.val / 2) (port.val % 2)) .ok)))

/-- The writes of the engine's registers by Level S, where the register answers, apply and complete OK; a region being initialised ends with
a zero root and EN; a region being disabled ends with EN clear; a reseal in progress runs; a rekey granule advances; the oldest write-cache
entry is written; the tree scrub takes the next node; a fence whose requests have completed is DONE. -/
def Obligations.ProtectionEngineCommandsAct : Prop := ∀ (s : State) (hub : Fin 2) (region : Fin 16) (mid : BitVec 12) (value : Word),
  (s.levelS mid.toNat = true →
    (s.regReached (MPE_RGN_CFG hub region) = true →
      exec (.regionEnable mid hub region value) s = .next ((s.rgnCfgWrite hub region value).send (.wrote (MPE_RGN_CFG hub region) .ok)) ∧
      exec (.disabling mid hub region value) s = .next ((s.rgnCfgWrite hub region value).send (.wrote (MPE_RGN_CFG hub region) .ok))) ∧
    (s.regReached (MPE_KEY_CMD hub) = true →
      exec (.mpeKeyLoad mid hub value) s = .next ((s.keyCmdWrite hub value).send (.wrote (MPE_KEY_CMD hub) .ok)) ∧
      exec (.mpeKeyErase mid hub value) s = .next ((s.keyCmdWrite hub value).send (.wrote (MPE_KEY_CMD hub) .ok))) ∧
    (s.regReached (MPE_RESEAL_CTL hub) = true →
      exec (.resealGo mid hub value) s = .next ((s.resealWrite hub value).send (.wrote (MPE_RESEAL_CTL hub) .ok))) ∧
    (s.regReached (MPE_RKEY_CTL hub) = true →
      exec (.rekeyStart mid hub value) s = .next ((s.rekeyWrite hub value).send (.wrote (MPE_RKEY_CTL hub) .ok))) ∧
    (s.regReached (MPE_FENCE hub) = true → exec (.mpeFenceGo mid hub value) s = .next ((s.fenceGo hub value).send (.wrote (MPE_FENCE hub) .ok)))) ∧
  (s.bit (MPE_RGN_CFG_INIT_BUSY hub region) = true → ∃ u : State, exec (.initBusy hub region) s =
    .next (((u.setCsr (MPE_RGN_STAT hub region) 0).setFld (MPE_RGN_CFG_EN hub region) 1).setFld (MPE_RGN_CFG_INIT_BUSY hub region) 0) ∧
    u.mem.dram = s.mem.dram ∧ mapGet (u.mpe hub).roots 0 region = 0 ∧ (u.mpe hub).cache.all (fun e => e.region ≠ region.val) = true) ∧
  (s.bit (MPE_RGN_CFG_DISABLING hub region) = true → exec (.regionDisabled hub region) s =
    .next (((((s.wcbFlush hub fun e => e.region = region.val).flushCache hub fun e => e.region = region.val).cacheDrop hub
      fun e => e.region = region.val).setFld (MPE_RGN_CFG_EN hub region) 0).setFld (MPE_RGN_CFG_DISABLING hub region) 0)) ∧
  (∀ r base log, (s.mpe hub).reseal = some (r, base, log) → exec (.resealDone hub) s =
    .next ((s.setMpe hub { s.mpe hub with reseal := none }).resealRun hub r base log)) ∧
  (∀ upto, s.fld (MPE_RKEY_STAT_STATE hub) = 1 → s.bit (MPE_STAT_QUIESCED hub) = false → exec (.rekeyGranule hub upto) s = .next (s.rekeyGranule hub upto)) ∧
  (∀ e rest, (s.mpe hub).wcb = e :: rest → exec (.wcbHoldExpiry hub) s =
    .next ((s.wcbWrite hub e).trim hub (((s.wcbWrite hub e).mpe hub).cache.length + 8))) ∧
  (∀ upsets x p v t, v = s.upsetCache hub upsets → v.bit (MPE_CTL_TSCRUB_EN hub) = true → (v.scrubList hub).find? (fun x => (v.mpe hub).scrub < x) = some x →
    (v.setMpe hub { v.mpe hub with scrub := x }).getNode hub (x / 2 ^ 24) (4 - x / 2 ^ 20 % 16) (x % 2 ^ 20 / 32) = (.node p, t) →
    nodeMinor p (x % 2 ^ 20 % 32) ≠ lostMark → (t.sramRead hub (t.nodeLine hub (x / 2 ^ 24) (x / 2 ^ 20 % 16) (x % 2 ^ 20))).1.status = .ok →
    (t.sramRead hub (t.nodeLine hub (x / 2 ^ 24) (x / 2 ^ 20 % 16) (x % 2 ^ 20))).1.data = 0 →
    exec (.treeScrub hub upsets) s = .next (t.sramRead hub (t.nodeLine hub (x / 2 ^ 24) (x / 2 ^ 20 % 16) (x % 2 ^ 20))).2) ∧
  (s.bit (MPE_FENCE_DONE hub) = false → s.fenceMet hub = true → exec (.mpeFenceDone hub) s =
    .next ((s.setFld (MPE_FENCE_DONE hub) 1).setMpe hub { s.mpe hub with fence := [] }))

/-- A request of the third-party die with a tag not in use on a link that is up is admitted; a rate tick refills every window's bucket and drains
held requests; a completion that matches a request is returned to its requester, from the stop of the die it came from, and the next held
request goes out; an outbound request takes its tag, or a free one where that is in use; FWL_CTL and FWL_WIN_CFG written by Level S where they
answer apply. -/
def Obligations.FirewallCommandsAct : Prop := ∀ (s : State) (hub : Fin 2) (mid : BitVec 12) (value : Word),
  (∀ (tag : BitVec 13) (x : XReq), (s.fwall hub).ins.any (fun i => i.tag = tag.toNat && i.x.j = x.j) = false → s.xLinkUp hub = true →
    exec (.fwlInboundRequest hub tag x) s = .next (s.fwlAdmit hub tag.toNat x (fun w => (s.fwall hub).ins.any fun i => i.held && s.fwlWindow hub i.x = some w))) ∧
  (∃ b, exec (.fwlRateTick hub) s = .next ((s.setFwall hub { s.fwall hub with buckets := b }).fwlDrain hub ((s.fwall hub).ins.filter (fun i => i.held))) ∧
    ∀ w < 64, mapGet b 0 w = min (rateOf (s.csr (FWL_WIN_CFG hub w))) (mapGet (s.fwall hub).buckets 0 w + rateOf (s.csr (FWL_WIN_CFG hub w)))) ∧
  (∀ (x : XCpl) (o : FwlOut), s.fwlFenced hub = false → (s.fwall hub).outs.find? (fun o => o.xtag = x.tag.toNat) = some o → x.status = 0 →
    exec (.fwlInboundCompletion hub x) s = .next (State.fwlNext ((s.setFwall hub { s.fwall hub with outs := (s.fwall hub).outs.filter (fun k => k ≠ o) }).reply
      (480 + 16 * hub.val + x.j.toNat) { o.pkt with late := o.pkt.late || x.late } .ok (rsnOf x.rsn.toNat) false
      (if o.pkt.opc = 1 ∨ o.pkt.opc = 5 then [] else x.bytes.take (reqLen o.pkt))) hub)) ∧
  (∀ (xtag : BitVec 13) (p q : ReqPkt) (t : State), s.arrive (hubStop hub 14) p = (some q, t) →
    ((s.fwall hub).outs.any (fun o => o.xtag = xtag.toNat) = false → exec (.fwlOutboundRequest hub xtag p) s = .next (t.fwlOutbound hub xtag.toNat q)) ∧
    (∀ n, (s.fwall hub).outs.any (fun o => o.xtag = xtag.toNat) = true → s.freeXtag hub = some n →
      exec (.fwlOutboundRequest hub xtag p) s = .next (t.fwlOutbound hub n q))) ∧
  (s.levelS mid.toNat = true → s.regReached (FWL_CTL hub) = true → exec (.fence mid hub value) s = .next ((s.fwlCtlWrite hub value).send (.wrote (FWL_CTL hub) .ok))) ∧
  (∀ window : Fin 64, s.levelS mid.toNat = true → s.regReached (FWL_WIN_CFG hub window) = true →
    exec (.badWindow mid hub window value) s = .next ((s.fwlWinWrite hub window value).send (.wrote (FWL_WIN_CFG hub window) .ok)))

/-- A running core's cacheable access is issued and its completion taken; HUB_CPU_CTL written by Level S starts and delegates cores; a
permitted debug access to a hub that answers reads or writes its module; a system bus access goes out and its completion is taken; an event
trigger acts; a hart halts under FULL debug and a halted hart asked to resume resumes; watchdog services and expiries and the lockstep and
lease events act. -/
def Obligations.ProcessorCommandsAct : Prop := ∀ (s : State) (hub : Fin 2) (core : Fin 8) (mid : BitVec 12) (value : Word),
  (∀ tag, s.hubAnswers (core.val / 4) = true → exec (.coreRingAccess core (.finish tag)) s = .next (s.coreFinish core tag.toNat)) ∧
  (∀ op machine tag addr lenm1 imm poison data, s.hubAnswers (core.val / 4) = true → s.hartRuns core = true →
    (op = .load ∨ op = .store ∨ op = .fetch → exec (.coreRingAccess core (.issue op machine tag addr lenm1 imm poison data)) s =
      .next (s.coreIssue core (s.coreMid core machine) (coreOpc op (s.cacheable (core.val / 4) addr.toNat)) tag addr lenm1 imm poison data)) ∧
    (op = .amo ∨ op = .lr ∨ op = .sc → s.cacheable (core.val / 4) addr.toNat = false →
      exec (.coreRingAccess core (.issue op machine tag addr lenm1 imm poison data)) s = .next (s.send (.coreFault core)))) ∧
  (s.levelS mid.toNat = true → s.regReached (HUB_CPU_CTL hub) = true →
    exec (.run mid hub value) s = .next ((s.cpuCtlWrite hub value).send (.wrote (HUB_CPU_CTL hub) .ok)) ∧
    exec (.deleg mid hub value) s = .next ((s.cpuCtlWrite hub value).send (.wrote (HUB_CPU_CTL hub) .ok))) ∧
  (∀ (addr : BitVec 12) (data : Word), dmiPermitted s.jtagLevel true (addr.toNat % 0x400) data = true → addr.toNat / 0x400 = hub.val → s.hubAnswers hub = true →
    exec (.dmiAccess true addr data) s = .next ((s.dmWrite hub (addr.toNat % 0x400) data).send (.dmi 0 0))) ∧
  (∀ tag c write, s.hubAnswers hub = true → (s.dm hub).sbtag = some (tag, write) → s.inboxAt (hubStop hub 10) tag = some c →
    exec (.sbaAccess hub) s = .next (s.sbaTake hub write c)) ∧
  (∀ (k : Fin 8) (t1 : DWord), s.hartRuns core = true → (s.hart core).halted = false → ((s.hart core).trig k).1 = t1 → 3 ≤ bitsOf t1 60 4 → bitsOf t1 60 4 ≤ 5 →
    exec (.triggerFire core (.event k)) s = .next (s.trigAction core t1 (bitsOf t1 0 6))) ∧
  (s.jtagLevel = 2 → exec (.hartHalt core) s = .next (s.haltWithGroup core)) ∧
  ((s.hart core).halted = true → (s.hart core).resumereq = true → exec (.hartResume core) s =
    .next ((s.setHart core { s.hart core with resumereq := false, resumeack := true }).resumeWithGroup core)) ∧
  (∀ (sem : Fin 64) (o : BitVec 12), s.sem hub sem = some o → s.hubAnswers hub = true → s.fld (HUB_SEM_LEASE_LEASE_US hub) ≠ 0 → s.midHalted o.toNat = true →
    exec (.semLease hub sem) s = .next ((s.semForce hub sem o true).raise (HUB_CPU_ERR_SEM_LEASE hub) hub 0x01 (hubUnit hub) 0 sevUncorrected
      (s.csr64 (HUB_CPU_BERR_ADDR hub)) 0)) ∧
  (∀ t, s.regReached (WDT_CORE_SVC (core.val / 4) (core.val % 4)) = true → s.coreService mid.toNat core value = (t, .ok) →
    exec (.wdtCoreSvc mid core value) s = .next (t.send (.wrote (WDT_CORE_SVC (core.val / 4) (core.val % 4)) .ok))) ∧
  (s.hubAnswers (core.val / 4) = true → s.coreCounts core = true → (s.hart core).wdtHeld = false → exec (.coreWdtExpired core) s = .next (s.coreExpired core)) ∧
  (∀ late closed, s.levelS mid.toNat = true → s.regReached WDT_SAFE_SVC = true →
    exec (.wdtSafeSvc mid value late closed) s = .next ((s.safeService value late closed).send (.wrote WDT_SAFE_SVC .ok))) ∧
  (s.bit WDT_SAFE_CTL_EN = true → s.rst.parked = false → exec .safeWdt s = .next s.safeWdt) ∧
  (∃ u : State, exec (.mcLockstep hub) s = .next (u.enterSafe 9) ∧ u.regs = (s.setFld (HUB_CPU_ERR_LOCKSTEP hub) 1).regs ∧ u.cpu.mcStop.getLsbD hub = true)

/-- On an enabled interface with correctable headers: a frame start ends a frame left open and starts the next on a channel that is on; a
line of an open frame in the accepted types joins it; a frame end completes it; a timeout marks it missing. At an edge of the clock of its
wires a stream word, with VALID on them and the port READY, joins the transmit buffer, and the oldest whole packet is sent. -/
def Obligations.IntakeAndTransmitAct : Prop := ∀ (s : State) (port : Fin 4) (k : Fin 8) (vc : Fin 16) (hdr : CsiHdr) (t : Fin 2),
  (s.bit (PRT_INT_CTL_EN port k) = true → hdr.ecc ≠ .uncorrectable →
    (∀ (num : Half) (u : State), u = ((s.frameMissing port k vc).dropEnd port k vc).csiHeader port k vc hdr →
      u.vcOn port k vc = true → exec (.fs port k vc hdr num) s = .next ((u.frameStart port k vc num.toNat (decide (hdr.ecc = .single))).intakeRun port)) ∧
    (∀ (dt : BitVec 6) (data : List Byte) (u : State), u = s.csiHeader port k vc hdr →
      (mapGet u.port.dropping [] port).contains (k.val, vc.val) = false → (u.frames port).any (Frame.isOpen k vc) = true →
      u.fld (PRT_INT_VC_DT_LO port k vc) ≤ dt.toNat → dt.toNat ≤ u.fld (PRT_INT_VC_DT_HI port k vc) →
      exec (.line port k vc hdr dt data true data.length) s =
        .next ((u.onFrame port k vc fun f x => x.frameLine port f dt.toNat data true data.length).intakeRun port)) ∧
    (∀ u : State, u = s.csiHeader port k vc hdr → exec (.fe port k vc hdr) s =
      .next (((u.dropEnd port k vc).onFrame port k vc fun f x => x.frameEnd port f .complete (u.portTime port).1 (u.portTime port).2).intakeRun port))) ∧
  (exec (.frameTo port k vc) s = .next (((s.frameMissing port k vc).dropEnd port k vc).intakeRun port)) ∧
  (∀ (same : Bool) (site w n : Nat) (u o : State), s.siteOf (12 * port) = some site → w = 256 + 128 * t.val →
    n = s.groupOf (placeKey site 2) (8 * t.val) % 8 → s.groupClocked (placeKey site 2) (8 * t.val) n = true → u = s.edgeAt (placeKey site 2) n same →
    o = u.before → o.portWire port (w + 64) = true → o.ctxReady port t = true → ∀ v : DWord,
    v = (List.range 64).foldl (fun v i => if o.portWire port (w + i) then v ||| BitVec.twoPow 64 i else v) 0 →
    ((u.ctx port t).word (o.portWire port (w + 65)) v).2 = none →
    exec (.ctxStreamWord port t same) s = .next (u.setCtx port t ((u.ctx port t).word (o.portWire port (w + 65)) v).1)) ∧
  (∀ h ws rest, (s.ctx port t).buf = (h, ws) :: rest → ∃ (skew : Bool) (bytes : List Byte) (crc : Option Half), exec (.ctxPacketSend port t) s =
    .next ((s.setCtx port t { s.ctx port t with buf := rest, started := true }).send (.csiPacket port t skew (bitsOf h 6 4) (bitsOf h 0 6) (ctxWc h)
      (Config.csiEcc (h.setWidth 26)) bytes crc)) ∧
    (h.getLsbD 26 = true → bytes = [] ∧ crc = none) ∧
    (h.getLsbD 26 = false → bytes = (ws.flatMap fun w => bytesOf w 8).take (ctxWc h) ∧ crc = some (Config.csiCrc bytes)))

/-- On an enabled MAC a good frame within the length limit is steered; the MAC takes a head frame whose gate is open; a copy in transmission
ends as sent; COMMIT and CHANGE written by Level S apply; a due gate change switches the list; a status word is read and leaves; a stream's
recovery is reset; a link goes up or down. -/
def Obligations.EthernetCommandsAct : Prop := ∀ (s : State) (port mac : Fin 4) (mid : BitVec 12) (value : Word),
  (∀ frame ago, s.bit (PRT_ETH_CFG_EN port mac) = true → frame.length ≤ 9600 →
    exec (.ethRxFrame port mac frame true ago) s = .next (s.ethSteer port mac frame false ago)) ∧
  (∀ stream : Fin 32, exec (.frerReset port stream) s = .next (s.setFrer port stream FrerSt.zero)) ∧
  (s.levelS mid.toNat = true → s.regReached (PRT_ETH_COMMIT port mac) = true → (s.ethCommit port mac value).2 = .ok →
    exec (.ethCommit mid port mac value) s = .next ((s.ethCommit port mac value).1.send (.wrote (PRT_ETH_COMMIT port mac) .ok))) ∧
  (∀ f, (s.tx port).any (fun f => f.copyOn mac = some .sending) = false → s.bit (PRT_ETH_CFG_EN port mac) = true →
    s.bit (PRT_ETH_STAT_LINK_UP port mac) = true → (s.txHeads port mac).find? (fun f => s.gateSay port mac f ≠ .wait) = some f →
    s.gateSay port mac f ≠ .never → exec (.ethTxFrame port mac) s = .next (s.txStart port mac f)) ∧
  (exec (.ethTxDone port mac) s = .next ((s.setTx port ((s.tx port).map fun f =>
    if f.copyOn mac = some .sending then f.setCopy mac .sent else f)).txFinish port)) ∧
  (∀ dbg, s.regReached (PRT_ETH_TXST port mac) = true → exec (.ethTxstPop port mac dbg) s =
    .next ((if dbg then s else s.txstPop port mac).send (.readback (PRT_ETH_TXST port mac) (s.txstWord port mac) dbg))) ∧
  (s.levelS mid.toNat = true → s.regReached (PRT_ETH_GCL_CTL port mac) = true →
    exec (.gclChange mid port mac value) s = .next ((s.gclCtlWrite port mac (value ||| 0x80000000#32)).send (.wrote (PRT_ETH_GCL_CTL port mac) .ok))) ∧
  (∀ t, mapGet s.port.gclAt none (4 * port.val + mac.val) = some t → s.bit (PRT_ETH_STAT_CHANGE_PEND port mac) = true →
    t ≤ (s.portTime port).1.toNat → ∃ u : State, exec (.gclSwitch port mac) s = .next ((State.setFld u (PRT_ETH_STAT_CHANGE_PEND port mac) 0).setFld
      (PRT_ETH_STAT_OPER_BANK port mac) (1 - s.fld (PRT_ETH_STAT_OPER_BANK port mac))) ∧ u.regs = s.regs) ∧
  (exec (.ethLinkDown port mac true) s = .next (s.setBit (PRT_ETH_STAT_LINK_UP port mac) true))

/-- Where the unit answers: START by any master of a free unit makes it the owner with the register of the polynomial chosen and count 0; a
data write by the owner without poison feeds the bytes in order and counts them; by another master it completes ERR_DENIED and changes
nothing; RELEASE by the owner completes OK with OWNED clear. -/
def Obligations.CrcUnitResults : Prop := ∀ (s : State) (u : CrcUnit) (mid : BitVec 12) (value : Word) (bs : List Byte),
  s.regReached (crcCtl u) = true →
  (s.bit (crcOwned u) = false → value.getLsbD 3 = false → ∃ t : State, exec (.crcStart mid u value) s = .next (t.send (.wrote (crcCtl u) .ok)) ∧
    t = s.crcStart u mid.toNat (bitsOf (value ||| 4#32) 0 2) ∧ (t.crc u).poly = bitsOf (value ||| 4#32) 0 2 ∧ (t.crc u).count = 0) ∧
  (s.crcOwns u mid.toNat = true → ∃ t : State, exec (.crcDataWrite mid u (bs.map fun b => (b, false)) .source) s = .next (t.send (.wrote (crcCtl u) .ok)) ∧
    (t.crc u).reg = bs.foldl (crcFeed (s.crc u).poly) (s.crc u).reg ∧ (t.crc u).count = (s.crc u).count + BitVec.ofNat 64 bs.length ∧ t.regs = s.regs) ∧
  (s.crcOwns u mid.toNat = false → exec (.crcDataWrite mid u (bs.map fun b => (b, false)) .source) s = .next (s.send (.wrote (crcCtl u) .errDenied))) ∧
  (s.crcOwns u mid.toNat = true → ∃ t : State, exec (.release mid u value) s = .next (t.send (.wrote (crcCtl u) .ok)) ∧ t.bit (crcOwned u) = false)

/-- Where the register answers: a doorbell and a CQH write by the owner or Level S within the size complete OK and store the index; EN, RESUME
and RETRY written by Level S are taken, and RESUME and RETRY act also for another master; a posted descriptor is fetched; the queue whose turn it is issues; a completed transaction is applied;
a due record goes out, and its failure stops the queue in ERROR; an event is read and leaves. -/
def Obligations.QueueCommandsAct : Prop := ∀ (s : State) (hub : Fin 2) (q : Fin 4096) (tag : Fin 8192) (mid : BitVec 12) (value : Word),
  (s.qOwner mid.toNat hub q = true → s.regReached (QE_Q_PI hub q) = true →
    ((value.setWidth 16 : BitVec 16) - s.qCi hub q).toNat ≤ 2 ^ s.qSize hub q →
    (s.qPi hub q - s.qCi hub q).toNat ≤ ((value.setWidth 16 : BitVec 16) - s.qCi hub q).toNat →
    exec (.doorbell mid hub q value) s = .next ((s.setFld (QE_Q_PI_PI hub q) (value.setWidth 16 : BitVec 16).toNat).send (.wrote (QE_Q_PI hub q) .ok))) ∧
  (s.qOwner mid.toNat hub q = true → s.regReached (QE_Q_CQH hub q) = true →
    (s.qCt hub q - (value.setWidth 16 : BitVec 16)).toNat ≤ 2 ^ s.qSize hub q →
    exec (.cqhWrite mid hub q value) s = .next ((s.setFld (QE_Q_CQH_CH hub q) (value.setWidth 16 : BitVec 16).toNat).send (.wrote (QE_Q_CQH hub q) .ok))) ∧
  (s.regReached (QE_Q_CFG hub q) = true → s.levelS mid.toNat = true →
    exec (.queueEnable mid hub q value) s = .next ((s.qCfgWrite hub q (value ||| 1#32)).send (.wrote (QE_Q_CFG hub q) .ok)) ∧
    exec (.queueDisable mid hub q value) s = .next ((s.qCfgWrite hub q (value &&& 0xFFFFFFFE#32)).send (.wrote (QE_Q_CFG hub q) .ok)) ∧
    exec (.queueResume mid hub q value) s = .next ((s.qCfgWrite hub q (value ||| 0x40001#32)).send (.wrote (QE_Q_CFG hub q) .ok)) ∧
    exec (.retry mid hub q value) s = .next ((s.qCfgWrite hub q (value ||| 0x80001#32)).send (.wrote (QE_Q_CFG hub q) .ok))) ∧
  (s.qMayFetch hub q = true → s.tagFree (qeStop hub) tag = true → exec (.descriptorFetch hub q tag) s =
    .next (((s.setQueue hub q { s.queue hub q with active := (s.queue hub q).active ++ [QDesc.fetching (s.qCi hub q) tag] }).setFld
      (QE_Q_IDX_CI hub q) (s.qCi hub q + 1).toNat).qRequest hub q tag 0
        ((s.csr64 (QE_Q_DBASE hub q)).toNat + 32 * ((s.qCi hub q).toNat % 2 ^ s.qSize hub q)) 32 [])) ∧
  (∀ (pick q' left pos : Nat) (k : QChunk) (c : QSched) (write : Bool), s.tagFree (qeStop hub) tag = true → s.qeOutstanding hub < 1024 → s.qTurn hub = some (q', left, c) →
    (s.qReady hub q')[pick % (s.qReady hub q').length]? = some (pos, write, k) → ∃ u : State, exec (.qeTransactionIssue hub tag pick) s =
      .next (u.qIssue hub q' tag pos write k) ∧ u.regs = s.regs ∧ u.qe.queues = s.qe.queues) ∧
  (s.regReached (QE_Q_CFG hub q) = true → s.levelS mid.toNat = false →
    (s.qState hub q = qStopped → exec (.queueResume mid hub q value) s =
      .next (((s.setQueue hub q { s.queue hub q with stopAfter := false }).qEnter hub q qRunning).send (.wrote (QE_Q_CFG hub q) .errDenied))) ∧
    (s.qState hub q = qError → exec (.retry mid hub q value) s =
      .next ((s.setQueue hub q { s.queue hub q with retry := true }).send (.wrote (QE_Q_CFG hub q) .errDenied)))) ∧
  (∀ c kv, s.inboxAt (qeStop hub) tag = some c →
    s.qe.queues.find? (fun kv => kv.1 / 4096 = hub.val && kv.2.active.any (·.hasTag tag)) = some kv →
    exec (.qeTransactionDone hub tag) s = .next ((s.dropInbox (qeStop hub) tag).qApply hub (kv.1 % 4096) c)) ∧
  ((s.queue hub q).writing = none → exec (.completionRecordWrite hub q tag) s = .next (s.qWriteRecord hub q tag)) ∧
  (∀ t bits c, (s.queue hub q).writing = some (t, bits) → s.inboxAt (qeStop hub) t = some c → c.status ≠ .ok →
    ∃ u : State, exec (.qeCqErr hub q) s = .next (u.qEnter hub q qError)) ∧
  (∀ dbg, s.regReached (QE_EVT_FIFO hub) = true → exec (.qeEvtFifoPop hub dbg) s =
    .next ((if dbg then s else s.qEvtPop hub).send (.readback (QE_EVT_FIFO hub) ((s.qEvtWord hub).setWidth 64) dbg)))

/-- From SP2 on: a tick moves the master's time by TB_INCR plus the slew taken in it plus a pending step, which it uses up; a follower's
tick moves it by TB_INCR and the slew alone, master and other followers as before; after a sync pulse that no die misses every follower
is valid with the master's time. -/
def Obligations.TimeBaseTicks : Prop := ∀ (s : State), s.tbRuns = true →
  (∃ t : State, exec .tbTick s = .next t ∧
    t.tb.time = s.tb.time + BitVec.ofInt 96 ((s.csr64 TB_INCR).toNat + (s.tbDelta + s.tb.step.getD 0)) ∧ t.tb.step = none ∧
    t.tb.slew = s.tb.slew - s.tbDelta ∧ t.tb.followers = s.tb.followers) ∧
  (∀ die : Fin 72, ∃ t : State, exec (.followerTick die) s = .next t ∧ t.tb.time = s.tb.time ∧ t.regs = s.regs ∧ t.out = s.out ∧
    (t.follower die).time = (s.follower die).time + BitVec.ofInt 96 ((s.csr64 TB_INCR).toNat + s.tbDelta) ∧
    ∀ d : Nat, d ≠ die.val → t.follower d = s.follower d) ∧
  (∃ t : State, exec (.syncPulse []) s = .next t ∧ t.tb.time = s.tb.time ∧ t.regs = s.regs ∧
    ∀ sp ∈ followerDies, (t.follower sp).time = s.tb.time ∧ (t.follower sp).valid = true)

/-- Where the register answers and the master may write it: TB_INCR takes its clamped value; STEP and SLEW write the adjustment. Each
completes OK. -/
def Obligations.TimeBaseWritesApply : Prop := ∀ (s : State) (mid : BitVec 12), s.tbWriter mid.toNat = true →
  (∀ v, s.regReached TB_INCR = true →
    exec (.tbIncrWrite mid v) s = .next (((s.dropLatches mid.toNat [TB_INCR + 4]).tbIncrWrite v).send (.wrote TB_INCR .ok))) ∧
  (∀ v, s.regReached TB_ADJ_CTL = true →
    exec (.step mid v) s = .next ((s.tbAdjWrite ((v &&& 0x1C#32) ||| 1#32)).send (.wrote TB_ADJ_CTL .ok)) ∧
    exec (.slew mid v) s = .next ((s.tbAdjWrite ((v &&& 0x1C#32) ||| 3#32)).send (.wrote TB_ADJ_CTL .ok)))

/-- For every value written by a permitted master to a time base that answers: below 0x9_FD70_A3D7 TB_INCR reads that limit and INCR_CLAMP
reads 1; above 0xA_028F_5C29 TB_INCR reads that one and INCR_CLAMP reads 1; between them TB_INCR reads what was written (its low 40 bits)
and INCR_CLAMP is as before. -/
def Obligations.IncrementIsClamped : Prop := ∀ (s : State) (mid : BitVec 12) (v : DWord), s.tbWriter mid.toNat = true → s.regReached TB_INCR = true →
  ∃ t : State, exec (.tbIncrWrite mid v) s = .next t ∧
    (bitsOf v 0 40 < 0x9FD70A3D7 → (t.csr64 TB_INCR).toNat = 0x9FD70A3D7 ∧ t.bit TB_ERR_INCR_CLAMP = true) ∧
    (0xA028F5C29 < bitsOf v 0 40 → (t.csr64 TB_INCR).toNat = 0xA028F5C29 ∧ t.bit TB_ERR_INCR_CLAMP = true) ∧
    (0x9FD70A3D7 ≤ bitsOf v 0 40 → bitsOf v 0 40 ≤ 0xA028F5C29 → (t.csr64 TB_INCR).toNat = bitsOf v 0 40 ∧
      t.fld TB_ERR_INCR_CLAMP = s.fld TB_ERR_INCR_CLAMP)

/-- On a link that carries groups, a data group whose check agrees and that is the one expected is taken and handed on. On a link that is up:
an ACK frees the groups it names; a NAK frees and replays; a REPLAY ends waiting; the timers acknowledge or retrain. In training: DETECT goes on
when strobes are seen, CALIBRATE and MAP take their marks and the offer, CONFIRM brings the link into service at full or reduced width, or DOWN;
an absent peer takes it down. RETRAIN by Level S and a scheduled attempt retrain it; the peer's reset is taken. -/
def Obligations.LinkCommandsAct : Prop := ∀ (s : State) (link : Fin 131) (at1 : Bool) (x : LinkEnd), s.linkEnd link at1 = x →
  (∀ group : BitVec 352, s.linkCarries link = true → group.getLsbD 328 = false → x.waiting = false → lcrc group = group.extractLsb' 336 16 →
    x.expect.getD (bitsOf group 329 7) = bitsOf group 329 7 → x.toDrop = 0 → x.unacked < 15 →
    exec (.dataGroup link at1 group) s = .next (((s.setLinkEnd link at1 { x with
      expect := some ((bitsOf group 329 7 + 1) % 128), unacked := x.unacked + 1, toDrop := 0 }).send
        (.linkFlit link at1 (group.extractLsb' 0 328))).slotOff link (!at1) (bitsOf group 329 7) false)) ∧
  (∀ seq : Fin 128, s.linkUp link = true → exec (.ack link at1 seq) s = .next (s.setLinkEnd link at1 { x.freed seq with naks := (0, 0) })) ∧
  (∀ seq : Fin 128, s.linkUp link = true → x.naks.1 ≠ seq.val → exec (.nak link at1 seq) s =
    .next ((s.setLinkEnd link at1 { x.freed seq with naks := (seq.val, 1) }).linkReplay link at1)) ∧
  (∀ seq count, s.linkUp link = true → exec (.replay link at1 seq count false) s =
    .next ((s.setLinkEnd link at1 { x with waiting := false, toDrop := 0 }).linkReplayed link)) ∧
  (s.linkUp link = true → 0 < x.unacked → exec (.ackTimer link at1) s = .next (s.linkAck link at1)) ∧
  (s.linkUp link = true → x.buf ≠ [] → exec (.ackTimeout link at1) s = .next (s.linkRetrain link 1)) ∧
  (linkExists link = true → s.fld (LNK_STAT_STATE link) ≠ 6 → exec (.strobeLoss link at1) s =
    .next ((s.setLinkEnd link at1 { x with naks := (0, 0) }).linkRetrain link 0)) ∧
  (linkExists link = true → s.fld (LNK_STAT_STATE link) = 0 → exec (.strobesSeen link) s = .next (s.setFld (LNK_STAT_STATE link) 1)) ∧
  (∀ (end0 end1 : LaneMarks) (silent : BitVec 4), s.fld (LNK_STAT_STATE link) = 1 → exec (.calibrate link end0 end1 silent) s =
    .next ((s.setLinkMap link { s.linkMap link with
      end0 := { end0 with rx := rxMarks end0.rx (silent.getLsbD 2) (silent.getLsbD 3) },
      end1 := { end1 with rx := rxMarks end1.rx (silent.getLsbD 0) (silent.getLsbD 1) }, silent := silent }).setFld (LNK_STAT_STATE link) 2)) ∧
  (∀ at0 at1' offer o, s.fld (LNK_STAT_STATE link) = 2 → offerOf link offer = o → topBit (o.widths &&& hubOffer.widths) ≠ 0 →
    topBit (o.rates &&& hubOffer.rates) ≠ 0 → o.major = 2 → ∃ t : State, exec (.map link at0 at1' offer) s = .next t ∧
      t.fld (LNK_STAT_STATE link) = 3 ∧ (t.linkMap link).width = topBit (o.widths &&& hubOffer.widths) ∧
      (t.linkMap link).repair = o.repair ∧ (t.linkMap link).feats = o.feats &&& hubOffer.feats ∧ t.mem = s.mem ∧ t.out = s.out) ∧
  (∀ (m : LinkMap) (h u : BitVec 68 × BitVec 68) (c : Nat), s.fld (LNK_STAT_STATE link) = 3 → s.linkMap link = m → usable m.end0 m.seen0 true = h →
    laneHash h = laneHash (usable m.end1 m.seen1 false) → u = (if m.repair then h else noSpares h) → c = min (laneCount u.1) (laneCount u.2) →
    (64 ≤ c → exec (.confirm link) s = .next ((s.putLaneMap link h).linkInService link 4 m.width 0
      (max (sparesUsed u.1 (widthLanes m.width)) (sparesUsed u.2 (widthLanes m.width))))) ∧
    (32 ≤ c → c < 64 → exec (.confirm link) s = .next ((s.putLaneMap link h).linkInService link 5 (min 2 m.width) 1
      (max (sparesUsed u.1 (widthLanes (min 2 m.width))) (sparesUsed u.2 (widthLanes (min 2 m.width)))))) ∧
    (c < 32 → exec (.confirm link) s = .next ((s.putLaneMap link h).linkDown link 4))) ∧
  (linkExists link = true → s.fld (LNK_STAT_STATE link) = 0 → link.val < 129 → exec (.peerAbsent link) s = .next (s.linkDown link 3)) ∧
  (s.fld (LNK_STAT_STATE link) = 5 → s.fld (LNK_STAT_ATTEMPTS link) < 3 → exec (.retrainAttempt link) s =
    .next ((s.setFld (LNK_STAT_ATTEMPTS link) (s.fld (LNK_STAT_ATTEMPTS link) + 1)).linkRetrain link 1)) ∧
  (∀ mid, s.levelS (BitVec.toNat mid) = true → s.regReached (LNK_CTL link) = true → (s.linkCtlWrite link 1).2 = .ok →
    exec (.retrain mid link) s = .next ((s.linkCtlWrite link 1).1.send (.wrote (LNK_CTL link) .ok))) ∧
  (∀ hub : Fin 2, exec (.peerSideReset hub) s = .next (s.linkEndReset (129 + hub) true))

/-- A request of a free tag whose address resolves to no stop is delivered ERR_TARGET, and one whose stop a path in service reaches waits at
its source; a matching completion is delivered and its tag is free; a transaction's timer delivers ERR_TIMEOUT and holds its tag. At a stop a
slot's flit is checked, taken off, the slot filled and sent on. An incomplete packet held too long is dropped; a rate window shows its rate; the
plan registers written by Level S apply and a committed plan becomes active; a held tag is released; a fabric gate answers, times out or
issues. -/
def Obligations.RingCommandsAct : Prop := ∀ (s : State) (mid : BitVec 12),
  (∀ r : IssueReq, s.txn r.stop.toNat r.tag.toNat = none →
    (s.resolve r.addr.toNat = none →
      exec (.requestIssue r) s = .next ((s.deliver r.stop.toNat r.tag.toNat .errTarget).afterDeliver r.stop.toNat)) ∧
    (∀ dst, s.resolve r.addr.toNat = some dst → issueClass r.stop.toNat r.cls ≠ .g → s.path r.stop.toNat dst 0 ≠ [] →
      (s.path r.stop.toNat dst 0).any (fun l => s.bit (RNG_RATE_DOWN l.ring)) = false → exec (.requestIssue r) s =
        .next (State.afterDeliver { s with ring := { s.ring with
          txns := s.ring.txns ++ [⟨issuePacket r dst (issueClass r.stop.toNat r.cls) none, false, false, none⟩] } } r.stop.toNat))) ∧
  (∀ (stop : Fin 512) (p : CplPkt) (u : State) (t : Txn), s.lostOnWay p.src.toNat stop 1 = false → p.complete = true → p.dst.toNat = stop.val →
    s.dropIncomplete stop p.src.toNat p.lane p.cls = u → u.txn stop p.tag.toNat = some t → t.sent = true → t.gaveUp = false →
    cplCrc t.pkt.addr p = p.crc → p.seq = t.pkt.seq → p.status = .ok → t.pkt.opc = 1 → exec (.completion stop p) s =
      .next (((((u.dropTxn stop p.tag.toNat).deliver stop p.tag.toNat .ok p.rsn
        (p.late || (u.dropTxn stop p.tag.toNat).lateHere p.src.toNat stop 1) p.peek p.imm p.data).flowFree t.flow)).afterDeliver stop)) ∧
  (∀ (stop : Fin 512) (tag : Fin 8192) (t : Txn), s.txn stop tag = some t → t.gaveUp = false → t.sent = true → exec (.transactionTimeout stop tag) s =
    .next (((s.mapTxn stop tag fun t => { t with gaveUp := true }).deliver stop tag .errTimeout).afterDeliver stop)) ∧
  (∀ (p : SlotPass) (nd : RingNode) (stop : Nat) (c t f : State × RingSlot), s.ringNode p.ring p.lane p.pos = some nd → nd.stop = some stop →
    s.slotArrives p = true → (s.crossing p.ring p.lane nd.col p.pos).any (fun l => !s.linkAccepts l.1 l.2) = false →
    c = s.checkSlot nd.space p.ring (s.slot p.ring p.lane p.slot) p.hdr p.pay → t = c.1.takeOff stop p.ring c.2 → f = t.1.fillSlot stop p t.2 →
    exec (.flitAtStop p) s = .next (f.1.slotOut (some stop) p f.2 (s.crossing p.ring p.lane nd.col p.pos))) ∧
  (∀ stop src lane cls, exec (.incompleteTimeout stop src lane cls) s = .next (s.dropIncomplete stop src lane cls)) ∧
  (∀ (ring : Fin 60) (n : Nat), n < 1500 → ∃ u : State, u = { s with ring := { s.ring with
      slowWin := s.ring.slowWin.filter (· ≠ ring.val) ++ [ring.val] } } ∧ exec (.rateWindow ring n) s =
    .next (((u.setFld (RNG_RATE_RATE ring) n).setFld (RNG_RATE_MIN_RATE ring) (min n (s.fld (RNG_RATE_MIN_RATE ring)))).markSlow ring)) ∧
  (s.levelS mid.toNat = true →
    (∀ ring : Fin 60, s.regReached (RNG_RATE ring) = true → exec (.ringSlowClear mid ring) s = .next ((s.ringSlowClear ring).send (.wrote (RNG_RATE ring) .ok))) ∧
    (∀ entry, s.regReached RNG_PLAN_ENTRY = true → (s.planWrite entry).2 = .ok →
      exec (.planEntryWrite mid entry) s = .next ((s.planWrite entry).1.send (.wrote RNG_PLAN_ENTRY .ok))) ∧
    (∀ ring : Fin 64, s.regReached RNG_PLAN_CMD = true → (s.planCmd true false ring).2 = .ok →
      exec (.commit mid ring false) s = .next ((s.planCmd true false ring).1.send (.wrote RNG_PLAN_CMD .ok))) ∧
    (∀ ring : Fin 64, s.regReached RNG_PLAN_CMD = true → (s.planCmd false true ring).2 = .ok →
      exec (.copy mid ring) s = .next ((s.planCmd false true ring).1.send (.wrote RNG_PLAN_CMD .ok)))) ∧
  (∀ r, (s.ring.committing = some (r, .copy) → exec .planActive s =
      .next (State.setFld { s with ring := { s.ring with committing := none } } RNG_PLAN_CMD_BUSY 0)) ∧
    (s.ring.committing = some (r, .commit) → ∃ u : State, exec .planActive s = .next (u.flowsLost r) ∧ u.ring.active = planCopy r s.ring.shadow s.ring.active ∧
      u.ring.committing = none ∧ u.mem = s.mem)) ∧
  (∀ (stop : Fin 512) (tag : Fin 8192) t, s.txn stop tag = some t → t.gaveUp = true → ∃ u : State, u = (s.dropTxn stop tag).flowFree t.flow ∧
    exec (.tagRelease stop tag) s = .next { u with ring := { u.ring with released := u.ring.released ++ [(stop.val, tag.val, t.pkt.seq)] } }) ∧
  (∀ (ld : Fin 48) (gate : Fin 16) (m : TrspMsg) (q : TreqOut), s.ring.treq.find? (fun q => q.ld = ld.val ∧ q.gate = gate.val ∧ q.htag = m.htag.toNat) = some q →
    s.gateFenced ld gate = false → s.gateEnabled ld gate = true → m.status = 0 → q.pkt.opc = 1 → m.data = [] → q.late = false →
    exec (.trsp ld gate m) s = .next ((State.reply { s with ring := { s.ring with treq := s.ring.treq.filter (fun x => x ≠ q) } }
      (gateStop ld gate) q.pkt .ok).gateNext ld gate)) ∧
  (∀ (ld : Fin 48) (gate : Fin 16) (htag : Fin 64) (q : TreqOut),
    s.ring.treq.find? (fun q => q.ld = ld.val ∧ q.gate = gate.val ∧ q.htag = htag.val ∧ !q.late) = some q →
    exec (.gateTreqTimeout ld gate htag) s = .next (State.reply { s with ring := { s.ring with
      treq := s.ring.treq.map fun x => if x = q then { x with late := true } else x } } (gateStop ld gate) q.pkt .errTimeout)) ∧
  (∀ (ld : Fin 48) (gate : Fin 16) (tag : BitVec 13) (m : IreqMsg), s.gateShut ld gate = false → s.gateEnabled ld gate = true →
    s.ring.ireq.any (fun q => q.ld = ld.val ∧ q.gate = gate.val ∧ q.htag = m.htag.toNat) = false → bitsOf tag 11 2 = gate % 4 →
    s.txn (gateStop ld gate) tag.toNat = none → s.acreOf m.addr.toNat = none → exec (.ireq ld gate tag m) s =
      .next (State.issue { s with ring := { s.ring with ireq := s.ring.ireq ++ [IreqOut.mk ld gate m.htag.toNat tag.toNat] } } (ireqIssue ld gate tag m)))

/-- For each of READ, WRITE, SWAP, FADD, CAS and MSG, and for a host access of MAC tiles: a packet of that operation at a stop that answers,
which the arrival checks pass (`arrive` gives it), is served by the stop's target. A MSG whose checks pass joins the stop's messages and is
answered OK. -/
def Obligations.RequestsAreServed : Prop := ∀ (s t : State) (stop : Fin 512) (p q : ReqPkt), s.stopAnswers stop = true → s.arrive stop p = (some q, t) →
  (p.opc = 0 → exec (.read stop p) s = .next (t.targetServe stop q)) ∧
  (p.opc = 1 → exec (.write stop p) s = .next (t.targetServe stop q)) ∧
  (p.opc = 2 → exec (.swap stop p) s = .next (t.targetServe stop q)) ∧
  (p.opc = 3 → exec (.fadd stop p) s = .next (t.targetServe stop q)) ∧
  (p.opc = 4 → exec (.cas stop p) s = .next (t.targetServe stop q)) ∧
  (p.opc = 5 → exec (.msg stop p) s = .next (t.targetServe stop q)) ∧
  (∀ d, stopKind stop = .logic d 5 → exec (.mtHostAccess stop p) s = .next (t.targetServe stop q)) ∧
  (∀ h j, stopKind stop = .hub h j → j ≠ 14 → q.opc = 5 → t.msgCheck stop q = .ok → t.targetServe stop q =
    State.reply { t with ring := { t.ring with msgs := t.ring.msgs ++ [(stop.val, q.src.toNat, reqBytes q)] } } stop q .ok)

/-- A host access of BAR0 and BAR2 within their size is served where the port hosts; outbound answers and link events are taken; a retried
configuration request is answered. CMD-SPI frames, JTAG words, mailbox doorbells, replies and clears act on their transport; the completion of
an ended operation is sent while the MC runs. -/
def Obligations.HostCommandsAct : Prop := ∀ (s : State) (port : Fin 4) (mid : BitVec 12) (value : Word),
  (∀ r, s.pcieHost port = true → r.bar2 = false → exec (.pcieInbound port r) s = .next (s.pcieBar0 port r)) ∧
  (∀ r, s.pcieHost port = true → r.bar2 = true → r.off.toNat + r.lenm1.toNat < 2 ^ s.fld (PRT_PCIE_BAR_BAR2_LOG2 port) →
    exec (.pcieInbound port r) s = .next (s.pcieBar2 port r)) ∧
  (∀ tag st ep data, exec (.pcieOutbound port (.answer tag st ep data)) s = .next (s.pcieAnswer port tag st ep data)) ∧
  (mapGet s.port.retry false port = true → s.fld RST_STAT_PHASE ≤ 3 → exec (.pcieConfigRetry port) s = .next (s.send (.configRetry port))) ∧
  (∀ (speed : Fin 8) (ltssm : BitVec 6), exec (.pcieLinkDown port 0 true speed ltssm) s = .next (((s.setBit ⟨PRT_PCIE_STAT port, 8, 1⟩ true).setFld
    ⟨PRT_PCIE_STAT port, 12, 3⟩ speed).setFld (PRT_PCIE_STAT_LTSSM port) ltssm.toNat)) ∧
  (∃ t : State, exec (.pciePerstN port) s = .next t ∧ mapGet t.port.retry false port = (!s.bit (PRT_PCIE_CFG_ROLE port) && decide (s.fld RST_STAT_PHASE ≤ 3)) ∧
    t.regs = s.regs ∧ t.out = s.out) ∧
  (s.bit (mbxBusy (.pcie port)) = false → exec (.mbxDoorbell port value) s = .next ((s.setFld (mbxBusy (.pcie port)) 1).deliverPacket (mbxIndex (.pcie port))
    ((List.range (min 256 (bitsOf value 0 9))).map fun i => s.csr (mbxReq (.pcie port) i)))) ∧
  (s.regReached CMD_FAB_DB = true → s.fabMay mid.toNat = true → exec (.fabDoorbell mid value) s = .next ((s.mbxDoorbell .fabric value).send (.wrote CMD_FAB_DB .ok))) ∧
  (∀ mbx p rest, (s.tr (mbxIndex mbx)).replies = p :: rest → s.bit (mbxRdy mbx) = false → ∃ u : State, exec (.mbxReply mbx) s = .next (u.msixEdges s) ∧
    (u.tr (mbxIndex mbx)).replies = rest) ∧
  (∀ mbx, s.bit (mbxRdy mbx) = true → exec (.rdyClear mbx) s = .next (if (s.tr (mbxIndex mbx)).shown = .final then
    (s.setFld (mbxRdy mbx) 0).setFld (mbxBusy mbx) 0 else s.setFld (mbxRdy mbx) 0)) ∧
  (∀ bytes, s.spiDeaf false = false → bytes.head? = some 0xC0#8 → (s.tr 0).busy = false → exec (.writeFrame bytes false) s =
    .next ((s.setTr 0 { s.tr 0 with busy := true }).deliverPacket 0 (packWords32 bytes))) ∧
  (∀ p rest, s.spiDeaf false = false → (s.tr 0).replies = p :: rest → exec (.readFrame true false) s =
    .next ((s.setTr 0 { s.tr 0 with overrun := false, replies := rest }).send (.spi s.spiStatus p.words))) ∧
  (∀ first : Byte, first ≠ 0xC0 → first ≠ 0x0F → exec (.frameErr first) s = .next (s.satInc CMD_FRAME_ERR_FRAME_ERR)) ∧
  (s.rst.parked = false → exec (.cmdpktUpdateDr value false) s = .next (s.setTr 1 { s.tr 1 with inbuf := (s.tr 1).inbuf ++ [value] }) ∧
    exec (.cmdpktUpdateDr value true) s = .next ((s.setTr 1 { s.tr 1 with inbuf := [] }).deliverPacket 1 ((s.tr 1).inbuf ++ [value]))) ∧
  (∀ p rest, (s.tr 1).replies = p :: rest → (s.tr 1).taken + 1 ≠ p.words.length → exec .cmdpktCaptureDr s =
    .next ((s.setTr 1 { s.tr 1 with taken := (s.tr 1).taken + 1 }).send (.jtag true (p.words.getD (s.tr 1).taken 0)))) ∧
  (∀ (transport : Fin 7) (tag : BitVec 16) (a : Acc) (st : Nat) (res : List Word),
    s.cmd.accs.find? (fun a => a.cmd.tr = transport.val && a.cmd.tag = tag.toNat) = some a → a.result = some (st, res) → s.mcRuns = true → s.accEnded a = true →
    exec (.commandCompletion transport tag) s = .next ((State.showAccs { s with cmd := { s.cmd with accs := s.cmd.accs.filter (· ≠ a) } }).pushReply transport
      ⟨mkReply transport a.cmd.seq a.cmd.ver 1 st (replyWord1 tag.toNat res) res, .completion⟩))

/-- A report in flight that the collector takes joins the log; a report that waits is sent again; a minute of operation and a calendar tick
count; every 60 minutes the store is written; an aging reading is stored; Level S loads the calendar; a firmware unit that does not start
returns to its committed slot; an LDC's signature error flags are cleared. -/
def Obligations.LifetimeAndReportCommandsAct : Prop := ∀ (s : State) (block : Byte) (unit : BitVec 12) (code : Half) (mid : BitVec 12) (value : Word),
  (∀ r : Report, s.errs.reports.find? (fun r => r.isOf block.toNat unit.toNat code.toNat && r.inFlight) = some r → s.collectorRuns = true →
    ∃ u : State, exec (.errorReport block unit code true) s = .next (u.collectCounted r.entry) ∧ u.regs = s.regs ∧ u.errs.log = s.errs.log) ∧
  (∃ t : State, exec (.errorReportResend block unit code) s = .next t ∧ t.regs = s.regs ∧ t.errs.log = s.errs.log ∧
    ∀ x ∈ t.errs.reports, x.isOf block.toNat unit.toNat code.toNat = true → x.inFlight = true) ∧
  (s.rst.parked = false → ∃ t : State, exec .operatingMinute s = .next t ∧ t.rst.minutes = s.rst.minutes + 1 ∧ t.lts.live.minutes = bumpWord s.lts.live.minutes ∧
    t.regs = s.regs ∧ t.mem = s.mem) ∧
  (60 ≤ s.rst.minutes → s.mcRuns = true → ∃ t : State, exec .ltsPeriodicWrite s = .next t ∧ t.rst.minutes = 0 ∧
    t.lts = (countSectors.foldl (fun u lsn => u.ltsWrite lsn) s).lts) ∧
  (∀ (site : Fin 64) (die : Nat) (ratio temp : Half), siteDie site = some die → s.rst.parked = false → s.diePowered die = true →
    mapGet s.lts.live.agingN 0 site < 120 → ∃ u : State, exec (.agingReading site ratio temp) s = .next (u.ltsWrite (0xB + site / 8)) ∧
      u.lts.live.agingN = mapSet s.lts.live.agingN 0 site (mapGet s.lts.live.agingN 0 site + 1)) ∧
  (s.rst.calLoad = none → s.rst.onRc = false → ∃ t : State, exec .calTick s = .next t ∧ t.regs = s.regs ∧
    t.rst.calSec.toNat * 2 ^ 32 + t.rst.calFrac.toNat = (s.rst.calSec.toNat * 2 ^ 32 + s.rst.calFrac.toNat + 131072) % 2 ^ 96) ∧
  (s.levelS mid.toNat = true → s.regReached CAL_CTL = true → exec (.calLoad mid value) s = .next ((s.calCtlWrite value).send (.wrote CAL_CTL .ok))) ∧
  (∀ u : Fin 10, s.rst.restart = some u.val → exec (.noStart u) s = .next ((((s.setFwUnit u { s.fwUnit u with
    state := .failed, active := (s.fwUnit u).committed }).ltsWrite 2).accDone 0x0701 stHwFault [3]).fwStarted)) ∧
  (∀ site : Fin 64, s.regReached (LDC_SIG_ERR site) = true → s.siteGated site = false → exec (.ldcSigErrClear mid site value) s =
    .next ((s.sigErrWrite site value).send (.wrote (LDC_SIG_ERR site) .ok)))

/-- In a space that answers, REGISTER_WRITE carries out the write and sends its status; LOW_WORD_READ of the low word of a 64-bit register
that completes OK sends the value read. -/
def Obligations.RegisterAccessesAct : Prop := ∀ (s : State) (mid : BitVec 12) (key : BitVec 32), s.spaceAnswers (key.toNat / 0x1000000) = true →
  (∀ value, (s.csrWrite mid.toNat key.toNat value).2 = .ok → exec (.registerWrite mid key value) s =
    .next ((s.csrWrite mid.toNat key.toNat value).1.send (.wrote key.toNat .ok))) ∧
  (∀ r dbg, regHit key.toNat = some r → r.row.wide = true → r.word = 0 → (s.csrRead mid.toNat key.toNat dbg).1.status = .ok →
    exec (.lowWordRead mid key dbg) s = .next ((s.csrRead mid.toNat key.toNat dbg).2.send
      (.readback key.toNat (s.csrRead mid.toNat key.toNat dbg).1.value (s.csrRead mid.toNat key.toNat dbg).1.peek)))

/-- Where the register answers, for a read without the debug attribute: of a free semaphore it makes the reader its owner, changes no other
semaphore and reads GOT = 1; by the owner it reads GOT = 1 and changes no semaphore; by any other master it reads GOT = 0 and the owner's
master ID and changes no semaphore. -/
def Obligations.SemaphoreReadAcquires : Prop := ∀ (s : State) (mid o : BitVec 12) (hub : Fin 2) (sem : Fin 64), s.regReached (HUB_SEM hub sem) = true →
  (s.sem hub sem = none → ∃ (t : State) (v : DWord), exec (.hubSemRead mid hub sem false) s = .next t ∧ t.sem hub sem = some mid ∧
    (∀ n < 64, n ≠ sem.val → t.sem hub n = s.sem hub n) ∧ t.regs = s.regs ∧
    t.out = s.out ++ [.readback (HUB_SEM hub sem) v false] ∧ v.toNat % 2 = 1) ∧
  (s.sem hub sem = some mid → ∃ (t : State) (v : DWord), exec (.hubSemRead mid hub sem false) s = .next t ∧ t.cpu = s.cpu ∧ t.regs = s.regs ∧
    t.out = s.out ++ [.readback (HUB_SEM hub sem) v false] ∧ v.toNat % 2 = 1) ∧
  (s.sem hub sem = some o → o ≠ mid → ∃ (t : State) (v : DWord), exec (.hubSemRead mid hub sem false) s = .next t ∧ t.cpu = s.cpu ∧ t.regs = s.regs ∧
    t.out = s.out ++ [.readback (HUB_SEM hub sem) v false] ∧ v.toNat % 2 = 0 ∧ v.toNat / 65536 = o.toNat)

/-- Where the register answers: a write by the owner completes OK with the semaphore free; by Level S, not its owner, it completes OK with
the semaphore free and HUB_SEM_LOG holding its number and owner as valid; by any other master it completes ERR_DENIED, no semaphore
changes and SEM_BAD_REL reads 1. -/
def Obligations.SemaphoreWriteReleases : Prop := ∀ (s : State) (mid o : BitVec 12) (hub : Fin 2) (sem : Fin 64), s.regReached (HUB_SEM hub sem) = true →
  (s.sem hub sem = some mid → ∃ t : State, exec (.hubSemWrite mid hub sem) s = .next t ∧ t.sem hub sem = none ∧ t.regs = s.regs ∧
    t.out = s.out ++ [.wrote (HUB_SEM hub sem) .ok]) ∧
  (s.sem hub sem = some o → o ≠ mid → s.levelS mid.toNat = true → ∃ t : State, exec (.hubSemWrite mid hub sem) s = .next t ∧ t.sem hub sem = none ∧
    t.csr (HUB_SEM_LOG hub) = BitVec.ofNat 32 (sem.val + o.toNat * 65536 + 0x80000000) ∧ t.out = s.out ++ [.wrote (HUB_SEM hub sem) .ok]) ∧
  (s.sem hub sem ≠ some mid → s.levelS mid.toNat = false → ∃ t : State, exec (.hubSemWrite mid hub sem) s = .next t ∧ t.cpu = s.cpu ∧
    t.bit (HUB_CPU_ERR_SEM_BAD_REL hub) = true ∧ t.out = s.out ++ [.wrote (HUB_SEM hub sem) .errDenied])

/-- For each command below that writes a register which only Level S writes: by a master that is not Level S, where the register answers, the
next state is the same but for the ERR_DENIED that is sent. (Of QE_Q_CFG the fields apart from RESUME and RETRY, which act for every master.) -/
def Obligations.WritesBelowLevelSAreDenied : Prop :=
  ∀ (s : State) (mid : BitVec 12) (hub : Fin 2) (region : Fin 16) (ch : Fin 4) (window ring : Fin 60) (q : Fin 4096) (value : Word) (site : Fin 64)
    (c : Instr) (key : Nat), s.levelS mid.toNat = false → s.regReached key = true →
  (c, key) ∈ [
    (Instr.clkDomWrite mid hub value, CLK_DOM hub), (.cmultWrite mid hub value, CLK_CPLL hub), (.divWrite mid hub value, CLK_CPLL hub),
    (.run mid hub value, HUB_CPU_CTL hub), (.deleg mid hub value, HUB_CPU_CTL hub), (.wdtSafeSvc mid value false false, WDT_SAFE_SVC),
    (.regionEnable mid hub region value, MPE_RGN_CFG hub region), (.disabling mid hub region value, MPE_RGN_CFG hub region),
    (.mpeKeyLoad mid hub value, MPE_KEY_CMD hub), (.mpeKeyErase mid hub value, MPE_KEY_CMD hub), (.resealGo mid hub value, MPE_RESEAL_CTL hub),
    (.rekeyStart mid hub value, MPE_RKEY_CTL hub), (.mpeFenceGo mid hub value, MPE_FENCE hub),
    (.start mid ch value, DMC_MIG (ch.val / 2) (ch.val % 2)), (.cxlFenceClear mid ch value, CXL_CTL (ch.val / 2) (ch.val % 2)),
    (.fence mid hub value, FWL_CTL hub), (.badWindow mid hub ⟨window, by omega⟩ value, FWL_WIN_CFG hub window),
    (.queueEnable mid hub q (value &&& 0x3FFFF#32), QE_Q_CFG hub q), (.queueDisable mid hub q (value &&& 0x3FFFF#32), QE_Q_CFG hub q),
    (.gclChange mid ch ch value, PRT_ETH_GCL_CTL ch ch), (.ethCommit mid ch ch value, PRT_ETH_COMMIT ch ch),
    (.diagGo mid site value, LDC_BSH_DIAG_CTL site), (.ringSlowClear mid ring, RNG_RATE ring), (.planEntryWrite mid value, RNG_PLAN_ENTRY),
    (.commit mid site false, RNG_PLAN_CMD), (.copy mid site, RNG_PLAN_CMD), (.calLoad mid value, CAL_CTL)] →
  exec c s = .next (s.send (.wrote key .errDenied))

/-- For a 64-bit register whose read latches its high word, in a space that answers: after a LOW_WORD_READ by a master, not a debug read, that
completes OK and finds no latch of its own for that word, the master holds a latch of the high word, and every other master's latches are
as they were. -/
def Obligations.HighWordLatchIsPerMaster : Prop := ∀ (s : State) (mid : BitVec 12) (key : BitVec 32) (r q : RegHit),
  s.spaceAnswers (key.toNat / 0x1000000) = true → regHit key.toNat = some r → r.row.wide = true → r.word = 0 →
  key.toNat + 4 ∈ r.latchKeys → regHit (key.toNat + 4) = some q → s.accessCheck mid.toNat key.toNat = .ok → s.latchOf mid.toNat r.key = none →
  ∃ t : State, exec (.lowWordRead mid key false) s = .next t ∧ (∃ l ∈ t.latches, l.mid = mid.toNat ∧ l.key = key.toNat + 4) ∧
    ∀ m k, m ≠ mid.toNat → t.latchOf m k = s.latchOf m k

/-- After reset: start-up is in phase SP0, STARTING; TB_INCR is 10 ns; MIN_RATE reads 4095 slots/s; the throttle thresholds, the power cap and the
clock monitor limits read their table values; every acre is EMPTY. Fuse and strap values are the model's choice (log entry 4) and not stated. -/
def Obligations.ResetRegisterValues : Prop :=
  State.reset.fld RST_STAT_PHASE = 0 ∧ State.reset.fld RST_STAT_STATE = 0 ∧ State.reset.csr64 TB_INCR = 0xA00000000#64 ∧
  (∀ ring < 60, State.reset.fld (RNG_RATE_MIN_RATE ring) = 4095) ∧ State.reset.fld PWR_CAP_CAP_W = 190 ∧
  (∀ la < 192, State.reset.acreState la = acEmpty) ∧ (∀ la < 192, State.reset.loadOf la = none) ∧ State.reset.safe = false

/-- A whole or partial line write that its sub-channel's queue has room for only joins the queue while no command slot passes. A request that
is served changes no DRAM line other than the copies of the line it addresses in the ranks of its channel; where its address names no line, it
changes none. Stacked SRAM, CXL memory, the ring network and the fabric are as before. -/
def Obligations.DramLineFrame : Prop := ∀ (s : State) (hub : Fin 2),
  (∀ (w : LineWrite) (now : Nat) (l : LineLoc) (u : State), s.dmcPlace hub w.addr.toNat = some l →
    ((s.dmcQueue l.ch l.sc).filter fun x => x.isRead = false).length < 64 →
    u = (s.dmcClock l.ch now).setDmcQueue l.ch l.sc (s.dmcQueue l.ch l.sc ++ [⟨w.addr, some w, w.light, .p, now⟩]) →
    (w.mask = 0xFFFFFFFFFFFFFFFF#64 → exec (.dmcLineWrite hub w now 0) s = .next u) ∧
    (w.mask ≠ 0xFFFFFFFFFFFFFFFF#64 → exec (.readModifyWrite hub w now 0) s = .next u) ∧ u.mem.dram = s.mem.dram) ∧
  (∀ (r : DmcReq) (t : State), s.serveReq hub r = t →
    (s.locate hub r.addr.toNat = none → t.mem.dram = s.mem.dram) ∧
    (∀ l key, s.locate hub r.addr.toNat = some l → (∀ k < 4, key ≠ dramKey k l) → t.dramAt key = s.dramAt key) ∧
    t.mem.sram = s.mem.sram ∧ t.mem.cxl = s.mem.cxl ∧ t.ring = s.ring ∧ t.fab = s.fab)

/-- With 512 records in the log, for a report that is neither masked nor joined to the newest record: if some record's severity is below the
report's, the first such record is gone, the new one stands last and 512 records remain; if none is, the log is as before, LOST_CNT has
counted (up to its maximum) and LOST reads 1. -/
def Obligations.FullErrorLogReplaces : Prop := ∀ (s : State) (e n : ErrRec), s.errs.log.length = 512 → s.errs.log.getLast? = some n →
  ¬ (e.sev = sevCorrected ∧ (s.csr64 HUB_ERR_CMASK).getLsbD e.block) →
  ¬ (n.block = e.block ∧ n.unit = e.unit ∧ n.code = e.code ∧ n.addr = e.addr) →
  (∀ before x after, s.errs.log = before ++ x :: after → (∀ y ∈ before, e.sev ≤ y.sev) → x.sev < e.sev →
    ∃ seq, (s.collect e).errs.log = before ++ after ++ [{ e with seq := seq }] ∧ (s.collect e).errs.log.length = 512) ∧
  ((∀ y ∈ s.errs.log, e.sev ≤ y.sev) → (s.collect e).errs.log = s.errs.log ∧ (s.collect e).bit HUB_ERR_PEND_LOST = true ∧
    (s.collect e).fld HUB_ERR_STAT_LOST_CNT = min (s.fld HUB_ERR_STAT_LOST_CNT + 1) (2 ^ HUB_ERR_STAT_LOST_CNT.w - 1))

/-- In a state whose acre has GSR asserted: every cubit of the acre has Q = Q_INIT, and in word mode ST = ST_INIT, zero flags and the start
context; after any edge command of any cubit this is still so. -/
def Obligations.GsrHoldsCubits : Prop := ∀ (s t : State) (site site' : Fin 64) (acre : Nat) (n : Fin 24) (x y : Fin 128) (same : Bool),
  (s.place (placeKey site acre)).gsrOff = false →
  (t = s ∨ exec (wordCommand n site' x y same) s = .next t ∨ exec (.grainEdge site' x y same) s = .next t ∨
    exec (.synchronousClear site' x y same) s = .next t ∨ exec (.reservedOpc site' x y same) s = .next t) →
  ∀ i j : Nat, cubitAcre i j = acre →
    (t.cubit site i j).q = cubitQInit (s.cubitCfg site i j) ∧ (cubitBitMode (s.cubitCfg site i j) = false →
      (t.cubit site i j).ctr.val = cubitStart (s.cubitCfg site i j) ∧
      ∀ k : Fin 8, (t.cubit site i j).st[k] = cubitStInit (s.cubitCfg site i j) k ∧ (t.cubit site i j).flags[k] = 0)

/-- When NOP, GET_ID, GET_VERSION, GET_STATE, CFG_STATUS, PWR_STATUS, LT_STATUS, CAL_GET, UPD_STATUS or LOOPBACK stands first with the MC
running, it leaves the queue, counts as executed and is answered OK with its result words; nothing else changes. -/
def Obligations.QueryCommandsReply : Prop := ∀ (s t : State) (w : Waiting), t = s.popWaiting →
  (s.front 0x0000 = some w → exec .nop s = .next (t.answerTo w 0 [])) ∧
  (s.front 0x0001 = some w → exec .getId s = .next (t.answerTo w 0
    ([t.csr (HUB_PKG_CAP 0), wordOf (t.cmd.grade2.toNat + 2 * (!t.rst.xdies.isEmpty).toNat)] ++ twoWords (t.csr64 (HUB_SERIAL 0)) ++
      twoWords (t.csr64 CFG_IMG_ID)))) ∧
  (s.front 0x0002 = some w → exec .getVersion s = .next (t.answerTo w 0
    [wordOf (t.versions + 3 * 2 ^ 8 + t.epochN.toNat * 2 ^ 16 + (decide (t.epochN ≠ t.lts.live.epoch)).toNat * 2 ^ 24),
      t.slotWord 0 (t.fwUnit 0).active 8, t.slotWord 0 (1 - (t.fwUnit 0).active) 8,
      wordOf ((List.range 16).foldl (fun w u => w + (t.fwUnit u).active * 2 ^ u) 0)])) ∧
  (s.front 0x0100 = some w → exec .getState s = .next (t.answerTo w 0 [t.csr RST_STAT])) ∧
  (s.front 0x0207 = some w → exec .cfgStatus s = .next (t.answerTo w 0 [t.cfgStat, t.csr CFG_CMD, t.csr CFG_ERR_INFO, t.csr CFG_PAUSE])) ∧
  (s.front 0x0501 = some w → t.validTemps = [] → exec .pwrStatus s = .next (t.answerTo w 0
    [wordOf (t.fld PWR_MODE_MODE), t.csr PWR_REFUSE_CNT, t.csr PWR_REFUSER, t.csr PWR_PKG, 1250])) ∧
  (s.front 0x0601 = some w → exec .ltStatus s = .next (t.answerTo w 0
    [wordOf ((t.lts.spares 0).length + (t.lts.spares 1).length), wordOf s.lts.readOnly.toNat])) ∧
  (s.front 0x0603 = some w → exec .calGet s = .next (t.answerTo w 0 (twoWords s.rst.calSec ++ [s.rst.calFrac]))) ∧
  (s.front 0x0705 = some w → exec .updStatus s = .next (t.answerTo w 0
    [wordOf ((List.range 16).foldl (fun n u => n + (t.fwUnit u).state.code * 4 ^ u) 0)])) ∧
  (s.front 0x0802 = some w → exec .loopback s = .next (t.answerTo w 0 w.args))

/-- CFG_LOAD, CFG_UNLOAD, CFG_RELOCATE, CFG_READBACK of an acre that is not loading, HOST_PREP and RETIRE_DIE, standing first with the
MC running, are answered ACCEPTED; their parameters go to CFG_SRC, CFG_ARG and CFG_BUF, and the configuration master takes the
operation. RETIRE_DIE retires the die's site before its operation runs. CFG_DATA keeps the chunk and is answered OK. -/
def Obligations.ConfigCommandsStart : Prop := ∀ (s : State) (w : Waiting),
  (s.front 0x0200 = some w → exec .cfgLoad s = .next (((s.acceptFront w).setCsr64 CFG_SRC (BitVec.ofNat 64 (argPair w.args 0))).cfgGo 1 0x0200)) ∧
  (s.front 0x0201 = some w → s.cfg.pushEnd = false → exec .cfgData s = .next (State.answerTo { s.popWaiting with cfg := { s.cfg with
    pushed := (argBytes w.args 1 252).zipIdx.foldl (fun m b => mapSet m 0 (argAt w.args 0 % 2 ^ 28 + b.2) b.1) s.cfg.pushed,
    pushEnd := argAt w.args 0 / 2 ^ 31 = 1 } } w 0 [])) ∧
  (s.front 0x0202 = some w → exec .cfgUnload s = .next (((s.acceptFront w).setCsr CFG_ARG (wordOf (argAt w.args 0))).cfgGo 2 0x0202)) ∧
  (s.front 0x0203 = some w → exec .cfgRelocate s =
    .next ((((s.acceptFront w).setCsr CFG_ARG (wordOf (argAt w.args 0))).setCsr64 CFG_BUF (BitVec.ofNat 64 (argPair w.args 1))).cfgGo 3 0x0203)) ∧
  (s.front 0x0204 = some w →
    (((s.acceptFront w).setCsr CFG_ARG (wordOf (argAt w.args 0))).setCsr64 CFG_BUF (BitVec.ofNat 64 (argPair w.args 1))).acreState (argAt w.args 0) ≠ acLoading →
    exec .cfgReadback s =
      .next ((((s.acceptFront w).setCsr CFG_ARG (wordOf (argAt w.args 0))).setCsr64 CFG_BUF (BitVec.ofNat 64 (argPair w.args 1))).cfgGo 4 0x0204)) ∧
  (s.front 0x0205 = some w → exec .hostPrep s = .next (((s.acceptFront w).setCsr CFG_ARG (wordOf (argAt w.args 0))).cfgGo 5 0x0205)) ∧
  (∀ site, s.front 0x0206 = some w → ((s.acceptFront w).setCsr CFG_ARG (wordOf (argAt w.args 0))).siteOf (argAt w.args 0) = some site →
    exec .retireDie s = .next ((((s.acceptFront w).setCsr CFG_ARG (wordOf (argAt w.args 0))).retireSite site).cfgGo 6 0x0206))

/-- When it stands first with the MC running: MEM_READ and MEM_WRITE leave the queue and begin a transfer from stop 12 of H0 with the
master ID of their transport, at their address and length; RANK_MIGRATE writes the rank to the channel's DMC_MIG and is answered OK;
RESEAL_RANGE of an engine that is free and takes the range is answered ACCEPTED and the engine is busy. -/
def Obligations.MemoryAndRankCommandsRun : Prop := ∀ (s : State) (w : Waiting),
  (s.front 0x0300 = some w → exec .memRead s = .next (State.memPump { s.popWaiting with cmd := { s.popWaiting.cmd with
    xfer := some (w, Xfer.start (hubStop 0 12) (0x100 + tidOf w.tr) false w.dbg (argPair w.args 0) (argAt w.args 2) []) } })) ∧
  (s.front 0x0301 = some w → exec .memWrite s = .next (State.memPump { s.popWaiting with cmd := { s.popWaiting.cmd with
    xfer := some (w, Xfer.start (hubStop 0 12) (0x100 + tidOf w.tr) true w.dbg (argPair w.args 0) (argAt w.args 2)
      ((argBytes w.args 3 253).take (argAt w.args 2))) } })) ∧
  (∀ v, s.front 0x0302 = some w → v = s.popWaiting.csr (DMC_MIG (argAt w.args 0 % 2) (argAt w.args 0 / 2 % 2)) &&& 0x700#32 ||| wordOf (0x800 + argAt w.args 0 / 4 % 4 * 2 ^ 12) →
    exec .rankMigrate s = .next ((s.popWaiting.migCtlWrite (2 * (argAt w.args 0 % 2) + argAt w.args 0 / 2 % 2) v).answerTo w 0 [])) ∧
  (∀ h t, s.front 0x0303 = some w → argAt w.args 0 % 2 = h →
    t = ((s.acceptFront w).setCsr64 (MPE_RESEAL_BASE h) (BitVec.ofNat 64 (argPair w.args 1))).resealWrite h
      (wordOf (argAt w.args 0 / 2 % 16 + argAt w.args 0 / 32 % 64 * 16 + 0x400)) →
    (s.acceptFront w).bit (MPE_RESEAL_CTL_BUSY h) = false → t.bit (MPE_RESEAL_CTL_BUSY h) →
    exec .resealRange s = .next t)

/-- When it stands first with the MC running, and the slot is not used by a region: KEY_ERASE makes the slot hold no key; KEY_GENERATE
makes it hold the drawn pair and returns it wrapped; KEY_LOAD answers OK if the blob unwraps and DENIED if not. RIGHTS_SET, FWL_WINDOW of
a window whose enable is granted and FENCE_RIGHTS have their effect; KEK_SET stores the key if the blob unwraps and answers DENIED if not. -/
def Obligations.KeyCommandsRun : Prop := ∀ (s : State) (w : Waiting) (random : BitVec 512) (h slot : Nat),
  argAt w.args 0 % 2 = h → argAt w.args 0 / 2 % 32 = slot →
  (s.front 0x0400 = some w → s.popWaiting.slotBusy h slot = false → ∃ t ok, s.popWaiting.keyLoad h slot (argBytes w.args 1 18) = (ok, t) ∧
    exec .keyLoad s = .next ((t.keyCmdDone h slot 1).answerTo w (if ok then 0 else stDenied) [])) ∧
  (s.front 0x0401 = some w → s.popWaiting.slotBusy h slot = false → exec .keyErase s = .next ((s.popWaiting.setKey h slot none).answerTo w 0 [])) ∧
  (s.front 0x0402 = some w → s.popWaiting.slotBusy h slot = false → exec (.keyGenerate random) s =
    .next ((s.popWaiting.setKey h slot (some random)).answerTo w 0 (packWords32 (kwWrap (s.popWaiting.kek (1 + h)) (bytesOf random 64))))) ∧
  (s.front 0x0403 = some w → exec .rightsSet s = .next (((List.range 2).foldl (fun u i => if (argAt w.args 0).testBit i then
    u.setCsr64 (MPE_RIGHTS i (argAt w.args 0 / 2 ^ 16)) (BitVec.ofNat 64 (argPair w.args 1) &&& 0x3FFFFFFFF#64) else u) s.popWaiting).answerTo w 0 [])) ∧
  (∀ t, s.front 0x0404 = some w →
    t = (s.popWaiting.setCsr64 (FWL_WIN_BASE h (argAt w.args 0 / 2)) (BitVec.ofNat 64 (argPair w.args 1) &&& 0xFFFFFFFFF000#64)).fwlWinWrite h
      (argAt w.args 0 / 2) (wordOf (argAt w.args 3)) →
    (t.csr (FWL_WIN_CFG h (argAt w.args 0 / 2))).getLsbD 11 → exec .fwlWindow s = .next (t.answerTo w 0 [])) ∧
  (∀ t, s.front 0x0405 = some w → t = ((s.acceptFront w).fenceGo 0 1).fenceGo 1 1 → exec .fenceRights s = .next { t with
    cmd := { t.cmd with fenceIns := (List.range 2).flatMap fun h => (t.fwall h).ins.map fun i => (h, i) } }) ∧
  (s.front 0x040B = some w → exec .kekSet s = .next (match kwUnwrap (bytesOf Config.deviceKey 32) (argBytes w.args 1 10) with
    | some k => State.answerTo { s.popWaiting with mem := { s.mem with
        keks := mapSet s.mem.keks 0 (argAt w.args 0) (BitVec.ofNat 256 (leNat k)) } } w 0 []
    | none => s.popWaiting.answerTo w stDenied []))

/-- When it stands first with the MC running: DBG_CHALLENGE below 8 failures keeps the challenge and returns the nonce and the serial;
DBG_RESPONSE with a key that is not revoked drops the challenge and sets the transport's level if the signature checks; DBG_LOCK sets it to 0; IMGKEY_PROGRAM of a
blank key stores it; IMGKEY_REVOKE revokes a key when another usable one stays. -/
def Obligations.DebugAndImageKeyCommandsRun : Prop := ∀ (s : State) (w : Waiting) (nonce : BitVec 384),
  (s.front 0x0406 = some w → s.cmd.fails < 8 → exec (.dbgChallenge nonce) s =
    .next ((s.popWaiting.setTr w.tr { s.popWaiting.tr w.tr with chal := some ⟨argAt w.args 0, nonce⟩ }).answerTo w 0
      (packWords32 (bytesOf nonce 48) ++ twoWords (s.popWaiting.csr64 (HUB_SERIAL 0))))) ∧
  (∀ key c held, s.front 0x0407 = some w → key = mapGet s.cmd.keys DebugKey.blank (argAt w.args 0 / 256 % 16) →
    argAt w.args 0 / 256 % 16 ≤ 3 → key.pub ≠ 0 → key.revoked = false → (s.popWaiting.tr w.tr).chal = some c →
    Config.ecdsaP384 (bytesOf key.pub 96) (s.popWaiting.challengeDigest c.nonce (argAt w.args 0 % 4) w.tr) (argBytes w.args 1 24) = true →
    held = max (s.popWaiting.fld (CMD_AUTH_LEVEL w.tr)) (min 2 (min (argAt w.args 0 % 4) key.level)) →
    exec (.dbgResponse false) s = .next (((s.popWaiting.setTr w.tr { s.popWaiting.tr w.tr with chal := none }).setLevel w.tr held).answerTo w 0
      [wordOf held])) ∧
  (s.front 0x0408 = some w → exec .dbgLock s = .next ((s.popWaiting.setLevel w.tr 0).answerTo w 0 [])) ∧
  (s.front 0x0409 = some w → mapGet s.cfg.imgKeys 0 (argAt w.args 0 % 4) = 0 → exec .imgkeyProgram s =
    .next (State.answerTo { s.popWaiting with cfg := { s.cfg with
      imgKeys := mapSet s.cfg.imgKeys 0 (argAt w.args 0 % 4) (BitVec.ofNat 384 (leNat (argBytes w.args 1 12))) } } w 0 [])) ∧
  (∀ j < 4, s.front 0x040A = some w → j ≠ argAt w.args 0 % 4 → mapGet s.cfg.imgKeys 0 j ≠ 0 → s.cfg.revoked.getLsbD j = false →
    exec .imgkeyRevoke s = .next (State.answerTo { s.popWaiting with cfg := { s.cfg with
      revoked := s.cfg.revoked ||| BitVec.twoPow 4 (argAt w.args 0 % 4) } } w 0 []))

/-- When it stands first with the MC running: GET_ERRLOG of a held record returns the count and its words; CLR_ERRLOG drops the oldest
records and shows the count; PWR_MODE of a low-power mode is ACCEPTED and writes MODE; PWR_CAP stores the clamped cap; RESET that is not
refused is answered OK before it begins; LT_READ returns the words; REPAIR_CLEAR clears the field mask bit and writes the store; CAL_SET
gives the clock its next value. -/
def Obligations.LogPowerAndCalendarCommandsRun : Prop := ∀ (s : State) (w : Waiting),
  (∀ e, s.front 0x0101 = some w → s.errs.log[argAt w.args 0]? = some e →
    exec .getErrlog s = .next (s.popWaiting.answerTo w 0 (wordOf s.errs.log.length :: e.words))) ∧
  (s.front 0x0102 = some w → exec .clrErrlog s = .next ((State.setFld { s.popWaiting with errs := { s.errs with
    log := s.errs.log.drop (argAt w.args 0) } } HUB_ERR_STAT_COUNT (s.errs.log.drop (argAt w.args 0)).length).answerTo w 0 [])) ∧
  (s.front 0x0500 = some w → argAt w.args 0 % 4 ≠ 0 → exec .pwrMode s = .next ((s.acceptFront w).setFld PWR_MODE_MODE (argAt w.args 0 % 4))) ∧
  (s.front 0x0502 = some w → exec .pwrCap s = .next ((s.popWaiting.setFld PWR_CAP_CAP_W (clampTo 20 190 (argAt w.args 0))).answerTo w 0 [])) ∧
  (s.front 0x0503 = some w → (s.popWaiting.resetAsk (argAt w.args 0) (argAt w.args 1)).2 = false →
    exec .reset s = .next ((s.popWaiting.resetAsk (argAt w.args 0) (argAt w.args 1)).1.answerTo w 0 [])) ∧
  (∀ r, s.front 0x0600 = some w → s.popWaiting.ltRead (argAt w.args 0 % 256) (argAt w.args 0 / 256) = some r →
    exec .ltRead s = .next (s.popWaiting.answerTo w 0 r)) ∧
  (s.front 0x0602 = some w → s.lts.readOnly = false → exec .repairClear s = .next (((s.popWaiting.setFieldMask (argAt w.args 0 % 8)
    (s.popWaiting.fieldMask (argAt w.args 0 % 8) &&& ~~~BitVec.twoPow 7 (argAt w.args 0 / 16 % 8))).ltsWrite 1).answerTo w 0 [])) ∧
  (s.front 0x0604 = some w → exec .calSet s =
    .next ((s.popWaiting.calLoadAt (BitVec.ofNat 64 (argPair w.args 0)) (wordOf (argAt w.args 2))).answerTo w 0 []))

/-- When it stands first with the MC running and the lifetime store takes writes: FW_WRITE within the slot stages the bytes in the slot
that is not active; FW_ACTIVATE that is not refused makes it active and provisional, and restarts the
unit (a board configuration record ends the command at once); EPOCH_COMMIT and EPOCH_ROLLBACK settle the provisional
units; MIN_EPOCH_SET between the present values stores it; INJECT that is possible is answered OK; SELFTEST of a spare completes. -/
def Obligations.FirmwareAndTestCommandsRun : Prop := ∀ (s : State) (w : Waiting) (result : Word), s.lts.readOnly = false →
  (s.front 0x0700 = some w → argAt w.args 0 < 10 → (s.popWaiting.fwUnit (argAt w.args 0)).state ≠ .provisional →
    argAt w.args 1 + (argBytes w.args 2 251).length ≤ 0x200000 →
    exec .fwWrite s = .next (((s.popWaiting.slotPut (argAt w.args 0) (1 - (s.popWaiting.fwUnit (argAt w.args 0)).active) (argAt w.args 1)
      (argBytes w.args 2 251)).setFwUnit (argAt w.args 0) { s.popWaiting.fwUnit (argAt w.args 0) with state := .staged }).answerTo w 0 [])) ∧
  (∀ u t, s.front 0x0701 = some w → argAt w.args 0 = u → (s.acceptFront w).lts.readOnly = false →
    (s.acceptFront w).activateRefused u = false → t = (((s.acceptFront w).setFwUnit u { (s.acceptFront w).fwUnit u with
      state := .provisional, active := 1 - ((s.acceptFront w).fwUnit u).active }).ltsWrite 2).setV2 true →
    exec .fwActivate s = .next (if u = 10 then t.accDone 0x0701 stOk [] else t.fwRestart u)) ∧
  (∀ t, s.front 0x0702 = some w → t = s.acceptFront w → t.rst.hubs = 0 → t.lts.readOnly = false →
    (∀ u < 10, (t.fwUnit u).state ≠ .failed ∧ ¬ t.slotEpoch u (t.fwUnit u).active < t.epochN) →
    exec .epochCommit s = .next ((((State.mapUnits { t with lts := { t.lts with live := { t.lts.live with epoch := t.epochN } } }
      fun x => if x.state = .provisional then { x with state := .committed, committed := x.active } else x).ltsWrite 2).setV2 false).accDone
        0x0702 stOk [])) ∧
  (∀ t, s.front 0x0703 = some w → t = s.acceptFront w → t.rst.hubs = 0 → t.lts.readOnly = false → t.cmd.v2 = true →
    exec .epochRollback s = .next ((((t.mapUnits fun x => if x.state = .provisional then
      { x with state := .committed, active := x.committed } else x).ltsWrite 2).setV2 false).accDone 0x0703 stOk [])) ∧
  (s.front 0x0704 = some w → s.popWaiting.fld CFG_EPOCH_MIN_EPOCH ≤ argAt w.args 0 → argAt w.args 0 ≤ s.popWaiting.fld CFG_EPOCH_IMG_EPOCH →
    exec .minEpochSet s = .next ((s.popWaiting.setFld CFG_EPOCH_MIN_EPOCH (argAt w.args 0)).answerTo w 0 [])) ∧
  (∀ u, s.front 0x0800 = some w → s.popWaiting.inject (argAt w.args 0) (argPair w.args 1) (argAt w.args 3 % 256) (argAt w.args 3 / 256) = .done u →
    exec .inject s = .next (u.answerTo w 0 [])) ∧
  (s.front 0x0801 = some w → (s.acceptFront w).isSpare (argAt w.args 0) = true →
    exec (.selftest result) s = .next (if result = 0 then (s.acceptFront w).accDone 0x0801 stOk []
      else ((s.acceptFront w).retireSite (argAt w.args 0)).accDone 0x0801 stHwFault [result]))
end

