-- ==== Sys2Proof/Laws/Store.lean ====
section
/-! SUPPORT. The laws of sparse stores: reading after writing, and that every operation keeps the canonical form. -/

namespace Sys2Proof.Machine

open Sys2Proof

variable {α : Type}

/-! ### Reading after writing -/

theorem mapFind_mapDel_same (m : Map α) (k : Nat) : mapFind (mapDel m k) k = none := by
  induction m with
  | nil => rfl
  | cons e m ih =>
    obtain ⟨k', v⟩ := e
    by_cases h : k' = k <;> simp [mapDel, mapFind, h, ih]

theorem mapFind_mapDel_ne (m : Map α) {k j : Nat} (hj : j ≠ k) : mapFind (mapDel m k) j = mapFind m j := by
  induction m with
  | nil => rfl
  | cons e m ih =>
    obtain ⟨k', v⟩ := e
    by_cases h : k' = k
    · subst h; simp [mapDel, mapFind, ih, Ne.symm hj]
    · simp only [mapDel, if_neg h, mapFind, ih]

theorem mapFind_mapPut_same (m : Map α) (k : Nat) (v : α) : mapFind (mapPut m k v) k = some v := by
  induction m with
  | nil => simp [mapPut, mapFind]
  | cons e m ih =>
    obtain ⟨k', v'⟩ := e
    simp only [mapPut]
    split
    · simp [mapFind]
    · split
      · simp [mapFind]
      · simp [mapFind, *]

theorem mapFind_mapPut_ne (m : Map α) {k j : Nat} (v : α) (hj : j ≠ k) : mapFind (mapPut m k v) j = mapFind m j := by
  induction m with
  | nil => simp [mapPut, mapFind, Ne.symm hj]
  | cons e m ih =>
    obtain ⟨k', v'⟩ := e
    simp only [mapPut]
    split
    · rename_i h; subst h; simp [mapFind, Ne.symm hj]
    · split
      · simp [mapFind, Ne.symm hj]
      · by_cases h2 : k' = j <;> simp [mapFind, h2, ih]

/-- A read of the key written gives the value written. -/
theorem mapGet_mapSet_same [DecidableEq α] (m : Map α) (d v : α) (k : Nat) : mapGet (mapSet m d k v) d k = v := by
  simp only [mapSet]
  split
  · rename_i h; simp [mapGet, mapFind_mapDel_same, h]
  · simp [mapGet, mapFind_mapPut_same]

/-- A write leaves every other key alone. -/
theorem mapGet_mapSet_ne [DecidableEq α] (m : Map α) (d d' v : α) {k j : Nat} (h : j ≠ k) :
    mapGet (mapSet m d k v) d' j = mapGet m d' j := by
  simp only [mapSet]
  split
  · simp [mapGet, mapFind_mapDel_ne m h]
  · simp [mapGet, mapFind_mapPut_ne m v h]

theorem mapFind_mapDrop (p : Nat → Bool) (m : Map α) (k : Nat) : mapFind (mapDrop p m) k = if p k then none else mapFind m k := by
  induction m with
  | nil => simp [mapDrop, mapFind]
  | cons e m ih =>
    obtain ⟨k', v⟩ := e
    simp only [mapDrop] at ih
    by_cases hp : p k' = true
    · by_cases h : k' = k
      · subst h; simp [mapDrop, hp, ih]
      · simp [mapDrop, mapFind, hp, h, ih]
    · by_cases h : k' = k
      · subst h; simp [mapDrop, mapFind, hp]
      · simp [mapDrop, mapFind, hp, h, ih]

/-- What is forgotten reads as unlisted; the rest as before. -/
theorem mapGet_mapDrop (p : Nat → Bool) (m : Map α) (d : α) (k : Nat) :
    mapGet (mapDrop p m) d k = if p k then d else mapGet m d k := by
  simp only [mapGet, mapFind_mapDrop]; split <;> simp

/-- Changing every entry by its key: a key reads as its changed value. -/
theorem mapGet_mapWith [DecidableEq α] (m : Map α) (d : α) (f : Nat → α → α) (k : Nat) (hd : f k d = d) :
    mapGet (mapWith d f m) d k = f k (mapGet m d k) := by
  induction m with
  | nil => simp [mapWith, mapGet, mapFind, hd]
  | cons e m ih =>
    obtain ⟨k', v⟩ := e
    by_cases h : k' = k
    · subst h
      by_cases hf : f k' v = d <;> simp [mapWith, mapGet, mapFind, hf, mapFind_mapDel_same]
    · by_cases hf : f k' v = d
      · simpa [mapWith, mapGet, mapFind, hf, h, mapFind_mapDel_ne _ (Ne.symm h)] using ih
      · simpa [mapWith, mapGet, mapFind, hf, h] using ih

/-! ### The canonical form -/

variable [DecidableEq α] {d : Nat → α}

/-- Every key of the store is above a bound. -/
def mapAbove (b : Option Nat) (k : Nat) : Prop := ∀ x, b = some x → x < k

theorem mapWfFrom_cons {b : Option Nat} {k : Nat} {v : α} {m : Map α} :
    mapWfFrom d b ((k, v) :: m) = true ↔ mapAbove b k ∧ v ≠ d k ∧ mapWfFrom d (some k) m = true := by
  cases b <;> simp [mapWfFrom, mapAbove, and_assoc]

theorem mapWfFrom_weaken {b b' : Option Nat} {m : Map α} (h : mapWfFrom d b m = true)
    (hb : ∀ k, mapAbove b k → mapAbove b' k) : mapWfFrom d b' m = true := by
  cases m with
  | nil => rfl
  | cons e m =>
    obtain ⟨k, v⟩ := e
    rw [mapWfFrom_cons] at h ⊢
    exact ⟨hb k h.1, h.2⟩

theorem mapWfFrom_tail {b : Option Nat} {k : Nat} {v : α} {m : Map α} (h : mapWfFrom d b ((k, v) :: m) = true) :
    mapWfFrom d b m = true := by
  rw [mapWfFrom_cons] at h
  refine mapWfFrom_weaken h.2.2 fun x hx y hy => ?_
  have := h.1 y hy
  have := hx k rfl
  omega

theorem mapWfFrom_mapDel {b : Option Nat} {m : Map α} (k : Nat) (h : mapWfFrom d b m = true) : mapWfFrom d b (mapDel m k) = true := by
  induction m generalizing b with
  | nil => rfl
  | cons e m ih =>
    obtain ⟨k', v⟩ := e
    simp only [mapDel]
    split
    · exact ih (mapWfFrom_tail h)
    · rw [mapWfFrom_cons] at h ⊢
      exact ⟨h.1, h.2.1, ih h.2.2⟩

theorem mapWfFrom_mapPut {b : Option Nat} {m : Map α} {k : Nat} {v : α} (hk : mapAbove b k) (hv : v ≠ d k)
    (h : mapWfFrom d b m = true) : mapWfFrom d b (mapPut m k v) = true := by
  induction m generalizing b with
  | nil => exact mapWfFrom_cons.2 ⟨hk, hv, rfl⟩
  | cons e m ih =>
    obtain ⟨k', v'⟩ := e
    rw [mapWfFrom_cons] at h
    simp only [mapPut]
    split
    · rename_i e; subst e
      exact mapWfFrom_cons.2 ⟨hk, hv, h.2.2⟩
    · split
      · rename_i hlt
        refine mapWfFrom_cons.2 ⟨hk, hv, mapWfFrom_cons.2 ⟨?_, h.2⟩⟩
        intro x hx; cases hx; exact hlt
      · rename_i hne hge
        refine mapWfFrom_cons.2 ⟨h.1, h.2.1, ih ?_ h.2.2⟩
        intro x hx; cases hx; omega

/-- A write keeps the canonical form. -/
theorem mapWf_mapSet {m : Map α} (k : Nat) (v : α) (h : mapWf d m = true) : mapWf d (mapSet m (d k) k v) = true := by
  unfold mapSet mapWf at *
  split
  · exact mapWfFrom_mapDel k h
  · exact mapWfFrom_mapPut (by intro x hx; cases hx) ‹_› h

theorem mapWfFrom_mapDrop {b : Option Nat} {m : Map α} (p : Nat → Bool) (h : mapWfFrom d b m = true) :
    mapWfFrom d b (mapDrop p m) = true := by
  induction m generalizing b with
  | nil => rfl
  | cons e m ih =>
    obtain ⟨k, v⟩ := e
    by_cases hp : p k = true
    · have := ih (mapWfFrom_tail h); simpa [mapDrop, hp] using this
    · rw [mapWfFrom_cons] at h
      have h2 := ih h.2.2
      simp only [mapDrop] at h2
      simp only [mapDrop, List.filter, hp]
      simp only [Bool.not_false]
      exact mapWfFrom_cons.2 ⟨h.1, h.2.1, h2⟩

/-- Forgetting keys keeps the canonical form. -/
theorem mapWf_mapDrop {m : Map α} (p : Nat → Bool) (h : mapWf d m = true) : mapWf d (mapDrop p m) = true := mapWfFrom_mapDrop p h

end Sys2Proof.Machine
end

