-- ==== Sys2Proof/Laws/Edge.lean ====
section
/-! SUPPORT. What the clock edges of an instant can change (`State.edgeAt`), said once: crossings, dividers, synchronizers and output
registers, the slip flag and counter, what the wires were before, and the free values taken. -/

namespace Sys2Proof.Machine

open Sys2Proof

/-- Two states of a physical acre differ in their synchronizers at most. -/
def PlaceSt.SameHold (p q : PlaceSt) : Prop :=
  q.gsrOff = p.gsrOff ∧ q.stage = p.stage ∧ q.loading = p.loading ∧ q.clamped = p.clamped

/-- `t` is `s` after clock edges: nothing else has changed, and no acre's load, clamps, GSR or stage has. -/
def EdgeOf (s t : State) : Prop :=
  (∃ regs errs ctr places chans divs past past2 nowEdge trigIn bushels, t = { s with
    regs := regs, errs := errs, freeCtr := ctr, fab := { s.fab with
      places := places, chans := chans, divs := divs, past := past, past2 := past2, nowEdge := nowEdge, trigIn := trigIn
      bushels := bushels } }) ∧
  ∀ pl, (s.place pl).SameHold (t.place pl)

theorem PlaceSt.SameHold.refl (p : PlaceSt) : p.SameHold p := ⟨rfl, rfl, rfl, rfl⟩

theorem PlaceSt.SameHold.trans {p q r : PlaceSt} (h : p.SameHold q) (g : q.SameHold r) : p.SameHold r :=
  ⟨g.1.trans h.1, g.2.1.trans h.2.1, g.2.2.1.trans h.2.2.1, g.2.2.2.trans h.2.2.2⟩

theorem EdgeOf.refl (s : State) : EdgeOf s s :=
  ⟨⟨_, _, _, _, _, _, _, _, _, _, _, rfl⟩, fun _ => .refl _⟩

theorem EdgeOf.trans {s t u : State} (h : EdgeOf s t) (g : EdgeOf t u) : EdgeOf s u := by
  obtain ⟨⟨_, _, _, _, _, _, _, _, _, _, _, rfl⟩, hp⟩ := h
  obtain ⟨⟨_, _, _, _, _, _, _, _, _, _, _, rfl⟩, gp⟩ := g
  exact ⟨⟨_, _, _, _, _, _, _, _, _, _, _, rfl⟩, fun pl => (hp pl).trans (gp pl)⟩

/-- A step that changes those fields alone, and not the places. -/
theorem EdgeOf.of {s t : State} (h : ∃ regs errs ctr chans divs past past2 nowEdge trigIn bushels, t = { s with
    regs := regs, errs := errs, freeCtr := ctr, fab := { s.fab with
      chans := chans, divs := divs, past := past, past2 := past2, nowEdge := nowEdge, trigIn := trigIn, bushels := bushels } }) :
    EdgeOf s t := by
  obtain ⟨_, _, _, _, _, _, _, _, _, _, rfl⟩ := h
  exact ⟨⟨_, _, _, _, _, _, _, _, _, _, _, rfl⟩, fun _ => .refl _⟩

theorem EdgeOf.foldl {α : Type} {f : State → α → State} {l : List α} {s : State} (hf : ∀ t a, EdgeOf t (f t a)) :
    EdgeOf s (l.foldl f s) := by
  induction l generalizing s with
  | nil => exact .refl _
  | cons a l ih => exact (hf s a).trans ih

theorem State.newInstant_edge (s : State) : EdgeOf s s.newInstant := .of ⟨_, _, _, _, _, _, _, _, _, _, rfl⟩

theorem State.countDividers_edge (s : State) (n : Nat) : EdgeOf s (s.countDividers n) := .of ⟨_, _, _, _, _, _, _, _, _, _, rfl⟩

theorem State.flagSlip_edge (s : State) (site edge : Nat) : EdgeOf s (s.flagSlip site edge) := .of ⟨_, _, _, _, _, _, _, _, _, _, rfl⟩

theorem State.setChan_edge (s : State) (k : Nat) (c : ChanSt) : EdgeOf s (s.setChan k c) := .of ⟨_, _, _, _, _, _, _, _, _, _, rfl⟩

theorem State.chanEdge_edge (s : State) (pl i : Nat) (bridge : Bool) (v : Option DWord) (capture : Bool) :
    EdgeOf s (s.chanEdge pl i bridge v capture) := by
  unfold State.chanEdge
  extract_lets
  split
  · exact (s.setChan_edge _ _).trans (State.flagSlip_edge _ _ _)
  · exact s.setChan_edge _ _

theorem State.groupEdges_edge (s : State) (n pl : Nat) : EdgeOf s (s.groupEdges n pl) := by
  refine EdgeOf.foldl fun t i => ?_
  extract_lets
  split
  · exact .refl _
  · split
    · exact .refl _
    · rename_i src _
      extract_lets
      have h (a : Bool) (b : Option DWord) (c : Prop) [Decidable c] :
          EdgeOf t (if c then t.chanEdge pl i a b true else t) := by
        split
        · exact t.chanEdge_edge _ _ _ _ _
        · exact .refl _
      cases src with
      | acre q => exact h _ _ _
      | port p => exact (h _ _ _).trans (State.setChan_edge _ _ _)

theorem State.domainEdges_edge (s : State) (hit : Nat → Nat → Bool) : EdgeOf s (s.domainEdges hit) := by
  refine ⟨⟨_, _, _, _, _, _, _, _, _, _, _, rfl⟩, fun pl => ?_⟩
  have e : (s.domainEdges hit).place pl = _ := mapGet_mapWith _ _ _ _ (by simp [PlaceSt.zero])
  rw [e]
  change (s.place pl).SameHold (if (s.place pl).gsrOff && decide ((s.place pl).stage = 3) then _ else s.place pl)
  split
  · exact ⟨rfl, rfl, rfl, rfl⟩
  · exact .refl _

theorem State.packageEdge_edge (s : State) (n : Nat) : EdgeOf s (s.packageEdge n) := by
  unfold State.packageEdge
  split
  · exact .refl _
  · have h : EdgeOf s { s with fab := { s.fab with nowEdge := s.fab.nowEdge ++ [n] } } := .of ⟨_, _, _, _, _, _, _, _, _, _, rfl⟩
    exact ((h.trans (State.countDividers_edge _ n)).trans (EdgeOf.foldl fun t pl => t.groupEdges_edge n pl)).trans
      (State.domainEdges_edge _ _)

theorem State.fabricEdge_edge (s : State) (pl m : Nat) : EdgeOf s (s.fabricEdge pl m) := by
  unfold State.fabricEdge
  extract_lets
  split
  · exact .refl _
  · exact EdgeOf.trans (.of ⟨_, _, _, _, _, _, _, _, _, _, rfl⟩) (State.domainEdges_edge _ _)

/-- What a commanded clock edge changes besides what the command names. -/
theorem State.edgeAt_edge (s : State) (pl sel : Nat) (same : Bool) : EdgeOf s (s.edgeAt pl sel same) := by
  unfold State.edgeAt
  extract_lets s1
  have h1 : EdgeOf s s1 := by
    simp only [s1]
    split
    · exact .refl _
    · exact s.newInstant_edge
  refine h1.trans ?_
  split
  · exact s1.packageEdge_edge _
  · split
    · exact .refl _
    · split
      · exact s1.fabricEdge_edge _ _
      · exact s1.packageEdge_edge _

/-- An acre stays held by GSR, or released, at clock edges. -/
theorem EdgeOf.gsrOff {s t : State} (h : EdgeOf s t) (pl : Nat) : (t.place pl).gsrOff = (s.place pl).gsrOff := (h.2 pl).1

/-- A cubit held by GSR shows its initial values after clock edges as before them. -/
theorem EdgeOf.cubitCfg {s t : State} (h : EdgeOf s t) (site x y : Nat) : t.cubitCfg site x y = s.cubitCfg site x y := by
  obtain ⟨⟨_, _, _, _, _, _, _, _, _, _, _, rfl⟩, _⟩ := h
  rfl

end Sys2Proof.Machine
end

