-- ==== Sys2Proof/Laws/Keeps.lean ====
section
/-! SUPPORT. What every operation keeps: the queue of waiting commands as it was, and the register store in its canonical form
(`Keeps`), said once for every operation and every command's meaning, so that a proof over all commands cites one lemma for each.
The register store is written by `State.setCsr` and `State.resetRegs` alone; the other operations only call them. -/

namespace Sys2Proof.Machine

open Sys2Proof

set_option maxRecDepth 4000

/-- `t` has the queue of `r`, and a canonical register store if `r` has one. -/
structure Keeps (r t : State) : Prop where
  queue : t.pending = r.pending
  regs  : r.regsOk = true → t.regsOk = true

/-- A state keeps itself. -/
theorem Keeps.self {r : State} : Keeps r r := ⟨rfl, id⟩

/-- Changing other fields than the register store and the queue. -/
theorem Keeps.upd {r s : State} (h : Keeps r s) {a : List Latch} {b : List Out} {c : Nat} {d : ErrState} {e : TbState} {f : RingState}
    {g : FabState} {i : LinkState} {j : Map FwlSt} {k : Bool} {l : MemState} {m : QeState} {n : PortState} {o : LtsState} {p : CmdState}
    {q : CfgState} {u : CpuState} {v : RstState} :
    Keeps r ⟨s.regs, a, b, c, d, e, f, g, i, j, k, l, m, n, o, p, q, u, v, s.pending⟩ := ⟨h.queue, h.regs⟩

/-- A fold of steps that each keep. -/
theorem Keeps.foldl {r : State} {α : Type} {f : State → α → State} {l : List α} {s : State} (h : Keeps r s)
    (hf : ∀ t a, Keeps r t → Keeps r (f t a)) : Keeps r (l.foldl f s) := by
  induction l generalizing s with
  | nil => exact h
  | cons a l ih => exact ih (hf s a h)

theorem Keeps.foldl1 {r : State} {α β : Type} {f : State × β → α → State × β} {l : List α} {s : State × β} (h : Keeps r s.1)
    (hf : ∀ t a, Keeps r t.1 → Keeps r (f t a).1) : Keeps r (l.foldl f s).1 := by
  induction l generalizing s with
  | nil => exact h
  | cons a l ih => exact ih (hf s a h)

theorem Keeps.foldl2 {r : State} {α β : Type} {f : β × State → α → β × State} {l : List α} {s : β × State} (h : Keeps r s.2)
    (hf : ∀ t a, Keeps r t.2 → Keeps r (f t a).2) : Keeps r (l.foldl f s).2 := by
  induction l generalizing s with
  | nil => exact h
  | cons a l ih => exact ih (hf s a h)

/-- The state in a pair that a name was given to. -/
theorem Keeps.fst {r : State} {β : Type} {p : State × β} {t : State} {b : β} (e : p = (t, b)) (h : Keeps r p.1) : Keeps r t := by subst e; exact h
theorem Keeps.snd {r : State} {β : Type} {p : β × State} {t : State} {b : β} (e : p = (b, t)) (h : Keeps r p.2) : Keeps r t := by subst e; exact h
theorem Keeps.trd {r : State} {β γ : Type} {p : β × γ × State} {t : State} {b : β} {c : γ} (e : p = (b, c, t)) (h : Keeps r p.2.2) : Keeps r t := by
  subst e; exact h

/-- A state that a name was given to. -/
theorem Keeps.cast {r s t : State} (e : s = t) (h : Keeps r t) : Keeps r s := e ▸ h
theorem Keeps.cast1 {β : Type} {r : State} {s t : State × β} (e : s = t) (h : Keeps r t.1) : Keeps r s.1 := e ▸ h
theorem Keeps.cast2 {β : Type} {r : State} {s t : β × State} (e : s = t) (h : Keeps r t.2) : Keeps r s.2 := e ▸ h
theorem Keeps.cast3 {β γ : Type} {r : State} {s t : β × γ × State} (e : s = t) (h : Keeps r t.2.2) : Keeps r s.2.2 := e ▸ h

theorem Keeps.cast4 {r : State} {s t : TileOps} (e : s = t) (h : Keeps r t.state) : Keeps r s.state := e ▸ h
theorem Keeps.elim {α : Type} {r b : State} {f : α → State} {o : Option α} (h : Keeps r b) (hf : ∀ a, Keeps r (f a)) : Keeps r (o.elim b f) := by
  cases o with
  | none => exact h
  | some a => exact hf a
theorem Keeps.ite {c : Prop} [Decidable c] {r a b : State} (ha : Keeps r a) (hb : Keeps r b) : Keeps r (if c then a else b) := by
  split <;> assumption
theorem Keeps.next {r t : State} (h : Keeps r t) : ∀ q, (Host.Outcome.next t : Host.Outcome State Fault Refusal) = .next q → Keeps r q :=
  fun _ e => Host.Outcome.next.inj e ▸ h
theorem Keeps.none {α : Type} {P : α → Prop} : ∀ q, (Option.none : Option α) = Option.some q → P q := fun _ h => nomatch h
theorem Keeps.some {r t : State} (h : Keeps r t) : ∀ q, Option.some t = Option.some q → Keeps r q := fun _ e => Option.some.inj e ▸ h
theorem Keeps.some1 {r : State} {β : Type} {t : State × β} (h : Keeps r t.1) : ∀ q, Option.some t = Option.some q → Keeps r q.1 := fun _ e => Option.some.inj e ▸ h
theorem Keeps.some2 {r : State} {β : Type} {t : β × State} (h : Keeps r t.2) : ∀ q, Option.some t = Option.some q → Keeps r q.2 := fun _ e => Option.some.inj e ▸ h

/-- Writing a register keeps the canonical form. -/
theorem State.setCsr_keeps {r s : State} (key : Nat) (v : Word) (h : Keeps r s) : Keeps r (s.setCsr key v) :=
  ⟨h.queue, fun x => mapWf_mapSet key v (h.regs x)⟩

/-- So does returning registers to their reset values. -/
theorem State.resetRegs_keeps {r s : State} (p : Nat → Bool) (h : Keeps r s) : Keeps r (s.resetRegs p) :=
  ⟨h.queue, fun x => mapWf_mapDrop p (h.regs x)⟩

/-! ### Ops -/

theorem State.setCsr64_keeps {r₀ s : State} (key : Nat) (v : DWord) (hk : Keeps r₀ s) :
    Keeps r₀ (s.setCsr64 key v) := by
  unfold State.setCsr64
  repeat' first
    | with_reducible assumption
    | with_reducible apply State.setCsr_keeps

theorem State.setFld_keeps {r₀ s : State} (f : Fld) (n : Nat) (hk : Keeps r₀ s) :
    Keeps r₀ (s.setFld f n) := by
  unfold State.setFld
  repeat' first
    | with_reducible assumption
    | with_reducible apply State.setCsr_keeps

theorem State.setBit_keeps {r₀ s : State} (f : Fld) (b : Bool) (hk : Keeps r₀ s) :
    Keeps r₀ (s.setBit f b) := by
  unfold State.setBit
  repeat' first
    | with_reducible assumption
    | with_reducible apply State.setFld_keeps

theorem State.satAdd_keeps {r₀ s : State} (f : Fld) (n : Nat) (hk : Keeps r₀ s) :
    Keeps r₀ (s.satAdd f n) := by
  unfold State.satAdd
  repeat' first
    | with_reducible assumption
    | with_reducible apply State.setFld_keeps

theorem State.satInc_keeps {r₀ s : State} (f : Fld) (hk : Keeps r₀ s) :
    Keeps r₀ (s.satInc f) := by
  unfold State.satInc
  repeat' first
    | with_reducible assumption
    | with_reducible apply State.satAdd_keeps

theorem State.send_keeps {r₀ s : State} (o : Out) (hk : Keeps r₀ s) :
    Keeps r₀ (s.send o) := by
  unfold State.send
  repeat' first
    | with_reducible assumption
    | fail_if_no_progress (with_reducible apply Keeps.upd)

theorem State.free_keeps {r₀ s : State} (hk : Keeps r₀ s) :
    Keeps r₀ (s.free).2 := by
  unfold State.free
  repeat' first
    | with_reducible assumption
    | dsimp -zeta only
    | fail_if_no_progress (with_reducible apply Keeps.upd)

theorem State.report_keeps {r₀ s : State} (sp block unit code sev : Nat) (addr : DWord) (info : Word) (inj : Bool) (hk : Keeps r₀ s) :
    Keeps r₀ (s.report sp block unit code sev addr info inj) := by
  unfold State.report
  repeat' first
    | with_reducible assumption
    | (extract_lets +onlyGivenNames x; clear_value x)
    | fail_if_no_progress (with_reducible apply Keeps.upd)

theorem State.raise_keeps {r₀ s : State} (f : Fld) (sp block unit regIdx sev : Nat) (addr : DWord) (info : Word) (inj : Bool) (hk : Keeps r₀ s) :
    Keeps r₀ (s.raise f sp block unit regIdx sev addr info inj) := by
  unfold State.raise
  repeat' first
    | with_reducible assumption
    | with_reducible apply State.setFld_keeps
    | with_reducible apply State.report_keeps

theorem State.setPend_keeps {r₀ s : State} (sev : Nat) (hk : Keeps r₀ s) :
    Keeps r₀ (s.setPend sev) := by
  unfold State.setPend
  repeat' first
    | with_reducible assumption
    | with_reducible apply State.setCsr_keeps

theorem State.putRecord_keeps {r₀ s : State} (e : ErrRec) (log : List ErrRec) (hk : Keeps r₀ s) :
    Keeps r₀ (s.putRecord e log) := by
  unfold State.putRecord
  repeat' first
    | with_reducible assumption
    | (extract_lets +onlyGivenNames x; clear_value (ex : x = _); have hx : Keeps r₀ x := ?_)
    | (extract_lets +onlyGivenNames x; clear_value x)
    | with_reducible apply State.setCsr_keeps
    | with_reducible apply State.setFld_keeps
    | with_reducible apply State.setPend_keeps
    | with_reducible refine Keeps.cast (by assumption) ?_
    | (extract_lets +onlyGivenNames x)
    | fail_if_no_progress (with_reducible apply Keeps.upd)

theorem State.collect_keeps {r₀ s : State} (e : ErrRec) (hk : Keeps r₀ s) :
    Keeps r₀ (s.collect e) := by
  unfold State.collect
  repeat' first
    | with_reducible assumption
    | (extract_lets +onlyGivenNames x; clear_value x)
    | with_reducible apply State.setFld_keeps
    | with_reducible apply State.satInc_keeps
    | with_reducible apply State.setPend_keeps
    | with_reducible apply State.putRecord_keeps
    | split
    | (extract_lets +onlyGivenNames x)
    | fail_if_no_progress (with_reducible apply Keeps.upd)

theorem State.dropInjected_keeps {r₀ s : State} (target key : Nat) (hk : Keeps r₀ s) :
    Keeps r₀ (s.dropInjected target key) := by
  unfold State.dropInjected
  repeat' first
    | with_reducible assumption
    | (extract_lets +onlyGivenNames x; clear_value x)
    | fail_if_no_progress (with_reducible apply Keeps.upd)

/-! ### Access -/

theorem State.setAcre_keeps {r₀ s : State} (la st : Nat) (hk : Keeps r₀ s) :
    Keeps r₀ (s.setAcre la st) := by
  unfold State.setAcre
  repeat' first
    | with_reducible assumption
    | with_reducible apply State.setFld_keeps

theorem State.dropLatches_keeps {r₀ s : State} (mid : Nat) (keys : List Nat) (hk : Keeps r₀ s) :
    Keeps r₀ (s.dropLatches mid keys) := by
  unfold State.dropLatches
  repeat' first
    | with_reducible assumption
    | fail_if_no_progress (with_reducible apply Keeps.upd)

theorem answerWrite_keeps {r₀ : State} (key : Nat) (r : State × Status) (hr : Keeps r₀ r.1) :
    Keeps r₀ (answerWrite key r) := by
  unfold answerWrite
  repeat' first
    | with_reducible assumption
    | with_reducible apply State.send_keeps

theorem State.regRead_keeps {r₀ s : State} (key : Nat) (f : State → State) (hk : Keeps r₀ s) (hf : ∀ t, Keeps r₀ t → Keeps r₀ (f t)) :
    Keeps r₀ (s.regRead key f) := by
  unfold State.regRead
  repeat' first
    | with_reducible assumption
    | with_reducible apply answerWrite_keeps
    | with_reducible apply_assumption -exfalso -symm
    | split

theorem State.regWrite_keeps {r₀ s : State} (key : Nat) (f : State → State × Status) (hk : Keeps r₀ s) (hf : ∀ t, Keeps r₀ t → Keeps r₀ (f t).1) :
    Keeps r₀ (s.regWrite key f) := by
  unfold State.regWrite
  repeat' first
    | with_reducible assumption
    | with_reducible apply answerWrite_keeps
    | with_reducible apply_assumption -exfalso -symm
    | split

theorem levelSWrite_keeps {r₀ s : State} (mid : BitVec 12) (key : Nat) (f : State → State) (hk : Keeps r₀ s) (hf : ∀ t, Keeps r₀ t → Keeps r₀ (f t)) :
    Keeps r₀ (levelSWrite s mid key f) := by
  unfold levelSWrite
  repeat' first
    | with_reducible assumption
    | intro _
    | with_reducible apply State.regWrite_keeps
    | with_reducible apply_assumption -exfalso -symm
    | split

end Sys2Proof.Machine
end

