-- ==== Sys2Proof/Laws/KeepsFabric.lean ====
section
/-! SUPPORT. What every operation and meaning keeps (`Keeps`): the fabric: cubits, routing, clocks, probes and trace, bushels, tiles, acres. -/

namespace Sys2Proof.Machine

open Sys2Proof

set_option maxRecDepth 4000

/-! ### Cubit -/

theorem State.setPlace_keeps {r₀ s : State} (pl : Nat) (p : PlaceSt) (hk : Keeps r₀ s) :
    Keeps r₀ (s.setPlace pl p) := by
  unfold State.setPlace
  repeat' first
    | with_reducible assumption
    | (extract_lets +onlyGivenNames x; clear_value x)
    | fail_if_no_progress (with_reducible apply Keeps.upd)

/-! ### Route -/

theorem State.setChan_keeps {r₀ s : State} (key : Nat) (c : ChanSt) (hk : Keeps r₀ s) :
    Keeps r₀ (s.setChan key c) := by
  unfold State.setChan
  repeat' first
    | with_reducible assumption
    | (extract_lets +onlyGivenNames x; clear_value x)
    | fail_if_no_progress (with_reducible apply Keeps.upd)

/-! ### Net -/

theorem State.withPast_keeps {r₀ s : State} (p : FabPast) (hk : Keeps r₀ s) :
    Keeps r₀ (s.withPast p) := by
  unfold State.withPast
  repeat' first
    | with_reducible assumption
    | (extract_lets +onlyGivenNames x; clear_value x)
    | fail_if_no_progress (with_reducible apply Keeps.upd)

theorem State.before_keeps {r₀ s : State} (hk : Keeps r₀ s) :
    Keeps r₀ (s.before) := by
  unfold State.before
  repeat' first
    | with_reducible assumption
    | with_reducible apply State.withPast_keeps

theorem State.newInstant_keeps {r₀ s : State} (hk : Keeps r₀ s) :
    Keeps r₀ (s.newInstant) := by
  unfold State.newInstant
  repeat' first
    | with_reducible assumption
    | (extract_lets +onlyGivenNames x; clear_value (ex : x = _); have hx : Keeps r₀ x := ?_)
    | (extract_lets +onlyGivenNames x; clear_value (ex : x = _); have hx : Keeps r₀ x.2 := ?_)
    | (extract_lets +onlyGivenNames x; clear_value x)
    | with_reducible apply State.free_keeps
    | with_reducible refine Keeps.cast (by assumption) ?_
    | with_reducible refine Keeps.cast2 (by assumption) ?_
    | split
    | fail_if_no_progress (with_reducible apply Keeps.upd)

theorem State.localStart_keeps {r₀ s : State} (site m : Nat) (hk : Keeps r₀ s) :
    Keeps r₀ (s.localStart site m) := by
  unfold State.localStart
  repeat' first
    | with_reducible assumption
    | (extract_lets +onlyGivenNames x; clear_value (ex : x = _); have hx : Keeps r₀ x := ?_)
    | (extract_lets +onlyGivenNames x; clear_value (ex : x = _); have hx : Keeps r₀ x.2 := ?_)
    | (extract_lets +onlyGivenNames x; clear_value x)
    | with_reducible apply State.free_keeps
    | with_reducible refine Keeps.cast (by assumption) ?_
    | with_reducible refine Keeps.cast2 (by assumption) ?_
    | split
    | fail_if_no_progress (with_reducible apply Keeps.upd)

theorem State.countDividers_keeps {r₀ s : State} (n : Nat) (hk : Keeps r₀ s) :
    Keeps r₀ (s.countDividers n) := by
  unfold State.countDividers
  repeat' first
    | with_reducible assumption
    | (extract_lets +onlyGivenNames x; clear_value x)
    | fail_if_no_progress (with_reducible apply Keeps.upd)

theorem State.domainEdges_keeps {r₀ s : State} (hit : Nat → Nat → Bool) (hk : Keeps r₀ s) :
    Keeps r₀ (s.domainEdges hit) := by
  unfold State.domainEdges
  repeat' first
    | with_reducible assumption
    | (extract_lets +onlyGivenNames x; clear_value x)
    | fail_if_no_progress (with_reducible apply Keeps.upd)

theorem State.holdPins_keeps {r₀ s : State} (p : Nat) (hk : Keeps r₀ s) :
    Keeps r₀ (s.holdPins p) := by
  unfold State.holdPins
  repeat' first
    | with_reducible assumption
    | (extract_lets +onlyGivenNames x; clear_value x)
    | fail_if_no_progress (with_reducible apply Keeps.upd)

theorem State.setPins_keeps {r₀ s : State} (p pl : Nat) (hk : Keeps r₀ s) :
    Keeps r₀ (s.setPins p pl) := by
  unfold State.setPins
  repeat' first
    | with_reducible assumption
    | intro _
    | (extract_lets +onlyGivenNames x; clear_value (ex : x = _); have hx : Keeps r₀ x := ?_)
    | (extract_lets +onlyGivenNames x; clear_value x)
    | with_reducible apply State.raise_keeps
    | with_reducible apply Keeps.foldl
    | with_reducible refine Keeps.cast (by assumption) ?_
    | split
    | (extract_lets +onlyGivenNames x)
    | fail_if_no_progress (with_reducible apply Keeps.upd)

theorem State.flagSlip_keeps {r₀ s : State} (site edge : Nat) (hk : Keeps r₀ s) :
    Keeps r₀ (s.flagSlip site edge) := by
  unfold State.flagSlip
  repeat' first
    | with_reducible assumption
    | (extract_lets +onlyGivenNames x; clear_value (ex : x = _); have hx : Keeps r₀ x := ?_)
    | with_reducible apply State.setFld_keeps
    | with_reducible apply State.satInc_keeps
    | with_reducible apply State.raise_keeps
    | with_reducible refine Keeps.cast (by assumption) ?_

theorem State.chanEdge_keeps {r₀ s : State} (pl i : Nat) (bridge : Bool) (v : Option DWord) (capture : Bool) (hk : Keeps r₀ s) :
    Keeps r₀ (s.chanEdge pl i bridge v capture) := by
  unfold State.chanEdge
  repeat' first
    | with_reducible assumption
    | (extract_lets +onlyGivenNames x; clear_value (ex : x = _); have hx : Keeps r₀ x := ?_)
    | (extract_lets +onlyGivenNames x; clear_value x)
    | with_reducible apply State.setChan_keeps
    | with_reducible apply State.flagSlip_keeps
    | with_reducible refine Keeps.cast (by assumption) ?_
    | split

theorem State.centerGroups_keeps {r₀ s : State} (p : Nat → Nat → Bool) (hk : Keeps r₀ s) :
    Keeps r₀ (s.centerGroups p) := by
  unfold State.centerGroups
  repeat' first
    | with_reducible assumption
    | (extract_lets +onlyGivenNames x; clear_value x)
    | fail_if_no_progress (with_reducible apply Keeps.upd)

theorem State.groupEdges_keeps {r₀ s : State} (n pl : Nat) (hk : Keeps r₀ s) :
    Keeps r₀ (s.groupEdges n pl) := by
  unfold State.groupEdges
  repeat' first
    | with_reducible assumption
    | intro _
    | (extract_lets +onlyGivenNames x; clear_value (ex : x = _); have hx : Keeps r₀ x := ?_)
    | (extract_lets +onlyGivenNames x; clear_value x)
    | with_reducible apply State.setChan_keeps
    | with_reducible apply State.chanEdge_keeps
    | with_reducible apply Keeps.foldl
    | with_reducible refine Keeps.cast (by assumption) ?_
    | split

theorem State.packageEdge_keeps {r₀ s : State} (n : Nat) (hk : Keeps r₀ s) :
    Keeps r₀ (s.packageEdge n) := by
  unfold State.packageEdge
  repeat' first
    | with_reducible assumption
    | intro _
    | (extract_lets +onlyGivenNames x; clear_value (ex : x = _); have hx : Keeps r₀ x := ?_)
    | (extract_lets +onlyGivenNames x; clear_value x)
    | with_reducible apply State.countDividers_keeps
    | with_reducible apply State.domainEdges_keeps
    | with_reducible apply State.groupEdges_keeps
    | with_reducible apply Keeps.foldl
    | with_reducible refine Keeps.cast (by assumption) ?_
    | split
    | (extract_lets +onlyGivenNames x)
    | fail_if_no_progress (with_reducible apply Keeps.upd)

theorem State.fabricEdge_keeps {r₀ s : State} (pl m : Nat) (hk : Keeps r₀ s) :
    Keeps r₀ (s.fabricEdge pl m) := by
  unfold State.fabricEdge
  repeat' first
    | with_reducible assumption
    | (extract_lets +onlyGivenNames x; clear_value x)
    | with_reducible apply State.domainEdges_keeps
    | split
    | (extract_lets +onlyGivenNames x)
    | fail_if_no_progress (with_reducible apply Keeps.upd)

theorem State.edgeAt_keeps {r₀ s : State} (pl sel : Nat) (same : Bool) (hk : Keeps r₀ s) :
    Keeps r₀ (s.edgeAt pl sel same) := by
  unfold State.edgeAt
  repeat' first
    | with_reducible assumption
    | (extract_lets +onlyGivenNames x; clear_value (ex : x = _); have hx : Keeps r₀ x := ?_)
    | with_reducible apply State.newInstant_keeps
    | with_reducible apply State.packageEdge_keeps
    | with_reducible apply State.fabricEdge_keeps
    | with_reducible refine Keeps.cast (by assumption) ?_
    | split

/-! ### Fabric -/

theorem State.raiseFab_keeps {r₀ s : State} (f : Fld) (site : Nat) (hk : Keeps r₀ s) :
    Keeps r₀ (s.raiseFab f site) := by
  unfold State.raiseFab
  repeat' first
    | with_reducible assumption
    | with_reducible apply State.raise_keeps

theorem State.snapReq_keeps {r₀ s : State} (site : Nat) (hk : Keeps r₀ s) :
    Keeps r₀ (s.snapReq site).1 := by
  unfold State.snapReq
  repeat' first
    | with_reducible assumption
    | (extract_lets +onlyGivenNames x; clear_value x)
    | with_reducible apply State.setFld_keeps
    | split

theorem State.snapTake_keeps {r₀ s : State} (site : Nat) (ctl : BitVec 4) (stale : Bool) (hk : Keeps r₀ s) :
    Keeps r₀ (s.snapTake site ctl stale) := by
  unfold State.snapTake
  repeat' first
    | with_reducible assumption
    | (extract_lets +onlyGivenNames x; clear_value (ex : x = _); have hx : Keeps r₀ x := ?_)
    | (extract_lets +onlyGivenNames x; clear_value x)
    | with_reducible apply State.setFld_keeps
    | with_reducible apply State.setBit_keeps
    | with_reducible refine Keeps.cast (by assumption) ?_
    | (extract_lets +onlyGivenNames x)
    | fail_if_no_progress (with_reducible apply Keeps.upd)

theorem execCubitSnapReq_keeps {r₀ s : State} (site : Fin 64) (hk : Keeps r₀ s) :
    ∀ s', execCubitSnapReq site s = .next s' → Keeps r₀ s' := by
  unfold execCubitSnapReq
  repeat' first
    | with_reducible assumption
    | with_reducible refine fun _ (_ : Keeps r₀ _) => ?_
    | with_reducible refine Keeps.next ?_
    | with_reducible apply State.regWrite_keeps
    | with_reducible apply State.snapReq_keeps

theorem execStale_keeps {r₀ s : State} (site : Fin 64) (hk : Keeps r₀ s) :
    ∀ s', execStale site s = .next s' → Keeps r₀ s' := by
  unfold execStale
  repeat' first
    | with_reducible assumption
    | with_reducible refine Keeps.next ?_
    | with_reducible apply State.snapTake_keeps
    | split

theorem State.putCubit_keeps {r₀ s : State} (site x y : Nat) (c : CubitSt) (hk : Keeps r₀ s) :
    Keeps r₀ (s.putCubit site x y c) := by
  unfold State.putCubit
  repeat' first
    | with_reducible assumption
    | (extract_lets +onlyGivenNames x; clear_value x)
    | fail_if_no_progress (with_reducible apply Keeps.upd)

theorem State.cubitEdge_keeps {r₀ s : State} (site x y : Nat) (hk : Keeps r₀ s) :
    Keeps r₀ (s.cubitEdge site x y) := by
  unfold State.cubitEdge
  repeat' first
    | with_reducible assumption
    | (extract_lets +onlyGivenNames x; clear_value (ex : x = _); have hx : Keeps r₀ x := ?_)
    | (extract_lets +onlyGivenNames x; clear_value x)
    | with_reducible apply State.send_keeps
    | with_reducible apply State.before_keeps
    | with_reducible apply State.snapTake_keeps
    | with_reducible apply State.putCubit_keeps
    | with_reducible refine Keeps.cast (by assumption) ?_
    | split

theorem State.cubitAt_keeps {r₀ s : State} (site x y : Nat) (same : Bool) (p : State → Bool) (hk : Keeps r₀ s) :
    Keeps r₀ (s.cubitAt site x y same p) := by
  unfold State.cubitAt
  repeat' first
    | with_reducible assumption
    | (extract_lets +onlyGivenNames x; clear_value (ex : x = _); have hx : Keeps r₀ x := ?_)
    | (extract_lets +onlyGivenNames x; clear_value x)
    | with_reducible apply State.edgeAt_keeps
    | with_reducible apply State.cubitEdge_keeps
    | with_reducible refine Keeps.cast (by assumption) ?_
    | split

theorem execCubitSnapshot_keeps {r₀ s : State} (site : Fin 64) (same : Bool) (hk : Keeps r₀ s) :
    ∀ s', execCubitSnapshot site same s = .next s' → Keeps r₀ s' := by
  unfold execCubitSnapshot
  repeat' first
    | with_reducible assumption
    | with_reducible refine Keeps.next ?_
    | with_reducible apply State.cubitAt_keeps

theorem execChanSlip_keeps {r₀ s : State} (site : Fin 64) (edge : Fin 4) (line : Fin 32) (drop : Bool) (hk : Keeps r₀ s) :
    ∀ s', execChanSlip site edge line drop s = .next s' → Keeps r₀ s' := by
  unfold execChanSlip
  repeat' first
    | with_reducible assumption
    | with_reducible refine Keeps.next ?_
    | (extract_lets +onlyGivenNames x; clear_value x)
    | with_reducible apply State.chanEdge_keeps
    | split

theorem execPclkUnlock_keeps {r₀ s : State} (site : Fin 64) (n : Fin 8) (hk : Keeps r₀ s) :
    ∀ s', execPclkUnlock site n s = .next s' → Keeps r₀ s' := by
  unfold execPclkUnlock
  repeat' first
    | with_reducible assumption
    | with_reducible refine Keeps.next ?_
    | with_reducible apply State.setFld_keeps
    | with_reducible apply State.raiseFab_keeps
    | split

theorem execPclkRelock_keeps {r₀ s : State} (site : Fin 64) (n : Fin 8) (hk : Keeps r₀ s) :
    ∀ s', execPclkRelock site n s = .next s' → Keeps r₀ s' := by
  unfold execPclkRelock
  repeat' first
    | with_reducible assumption
    | with_reducible refine Keeps.next ?_
    | with_reducible apply State.setFld_keeps
    | with_reducible apply State.centerGroups_keeps
    | split

theorem State.localEnable_keeps {r₀ s : State} (site m : Nat) (en : Bool) (hk : Keeps r₀ s) :
    Keeps r₀ (s.localEnable site m en) := by
  unfold State.localEnable
  repeat' first
    | with_reducible assumption
    | with_reducible apply State.setBit_keeps
    | with_reducible apply State.localStart_keeps
    | split

theorem execLclkEnWrite_keeps {r₀ s : State} (site : Fin 64) (m : Fin 16) (value : Word) (hk : Keeps r₀ s) :
    ∀ s', execLclkEnWrite site m value s = .next s' → Keeps r₀ s' := by
  unfold execLclkEnWrite
  repeat' first
    | with_reducible assumption
    | with_reducible refine fun _ (_ : Keeps r₀ _) => ?_
    | with_reducible refine Keeps.next ?_
    | with_reducible apply State.regWrite_keeps
    | with_reducible apply State.localEnable_keeps

theorem State.setProbe_keeps {r₀ s : State} (site : Nat) (p : ProbeSt) (hk : Keeps r₀ s) :
    Keeps r₀ (s.setProbe site p) := by
  unfold State.setProbe
  repeat' first
    | with_reducible assumption
    | (extract_lets +onlyGivenNames x; clear_value x)
    | fail_if_no_progress (with_reducible apply Keeps.upd)

theorem State.probeSelWrite_keeps {r₀ s : State} (site lane : Nat) (value : Word) (hk : Keeps r₀ s) :
    Keeps r₀ (s.probeSelWrite site lane value) := by
  unfold State.probeSelWrite
  repeat' first
    | with_reducible assumption
    | (extract_lets +onlyGivenNames x; clear_value (ex : x = _); have hx : Keeps r₀ x := ?_)
    | (extract_lets +onlyGivenNames x; clear_value x)
    | with_reducible apply State.setCsr_keeps
    | with_reducible apply State.setFld_keeps
    | with_reducible apply State.setProbe_keeps
    | with_reducible refine Keeps.cast (by assumption) ?_

theorem State.probeLaneChange_keeps {r₀ s : State} (site lane : Nat) (hk : Keeps r₀ s) :
    Keeps r₀ (s.probeLaneChange site lane) := by
  unfold State.probeLaneChange
  repeat' first
    | with_reducible assumption
    | (extract_lets +onlyGivenNames x; clear_value x)
    | with_reducible apply State.setBit_keeps
    | with_reducible apply State.setProbe_keeps
    | split

theorem State.probeOwner_keeps {r₀ s : State} (row : Nat) (hk : Keeps r₀ s) :
    Keeps r₀ (s.probeOwner row) := by
  unfold State.probeOwner
  repeat' first
    | with_reducible assumption
    | intro _
    | (extract_lets +onlyGivenNames x; clear_value (ex : x = _); have hx : Keeps r₀ x := ?_)
    | (extract_lets +onlyGivenNames x; clear_value x)
    | with_reducible apply State.setFld_keeps
    | with_reducible apply State.setBit_keeps
    | with_reducible apply Keeps.foldl
    | with_reducible refine Keeps.cast (by assumption) ?_
    | split

theorem State.probeCtlWrite_keeps {r₀ s : State} (site : Nat) (value : Word) (hk : Keeps r₀ s) :
    Keeps r₀ (s.probeCtlWrite site value) := by
  unfold State.probeCtlWrite
  repeat' first
    | with_reducible assumption
    | (extract_lets +onlyGivenNames x; clear_value (ex : x = _); have hx : Keeps r₀ x := ?_)
    | (extract_lets +onlyGivenNames x; clear_value x)
    | with_reducible apply State.setCsr_keeps
    | with_reducible apply State.setProbe_keeps
    | with_reducible apply State.probeOwner_keeps
    | with_reducible refine Keeps.cast (by assumption) ?_
    | split

theorem execProbeSelWrite_keeps {r₀ s : State} (site lane : Fin 64) (value : Word) (hk : Keeps r₀ s) :
    ∀ s', execProbeSelWrite site lane value s = .next s' → Keeps r₀ s' := by
  unfold execProbeSelWrite
  repeat' first
    | with_reducible assumption
    | with_reducible refine fun _ (_ : Keeps r₀ _) => ?_
    | with_reducible refine Keeps.next ?_
    | with_reducible apply State.regWrite_keeps
    | with_reducible apply State.probeSelWrite_keeps

theorem execProbeLaneChange_keeps {r₀ s : State} (site lane : Fin 64) (same : Bool) (hk : Keeps r₀ s) :
    ∀ s', execProbeLaneChange site lane same s = .next s' → Keeps r₀ s' := by
  unfold execProbeLaneChange
  repeat' first
    | with_reducible assumption
    | with_reducible refine Keeps.next ?_
    | with_reducible apply State.edgeAt_keeps
    | with_reducible apply State.probeLaneChange_keeps
    | split

theorem execProbeCtlWrite_keeps {r₀ s : State} (site : Fin 64) (value : Word) (hk : Keeps r₀ s) :
    ∀ s', execProbeCtlWrite site value s = .next s' → Keeps r₀ s' := by
  unfold execProbeCtlWrite
  repeat' first
    | with_reducible assumption
    | with_reducible refine fun _ (_ : Keeps r₀ _) => ?_
    | with_reducible refine Keeps.next ?_
    | with_reducible apply State.regWrite_keeps
    | with_reducible apply State.probeCtlWrite_keeps

theorem State.traceTrigger_keeps {r₀ s : State} (site after : Nat) (hk : Keeps r₀ s) :
    Keeps r₀ (s.traceTrigger site after) := by
  unfold State.traceTrigger
  repeat' first
    | with_reducible assumption
    | (extract_lets +onlyGivenNames x; clear_value (ex : x = _); have hx : Keeps r₀ x := ?_)
    | (extract_lets +onlyGivenNames x; clear_value x)
    | with_reducible apply State.setFld_keeps
    | with_reducible apply State.setProbe_keeps
    | with_reducible refine Keeps.cast (by assumption) ?_
    | split

theorem State.traceCtlWrite_keeps {r₀ s : State} (site : Nat) (value : Word) (hk : Keeps r₀ s) :
    Keeps r₀ (s.traceCtlWrite site value) := by
  unfold State.traceCtlWrite
  repeat' first
    | with_reducible assumption
    | (extract_lets +onlyGivenNames x; clear_value (ex : x = _); have hx : Keeps r₀ x := ?_)
    | (extract_lets +onlyGivenNames x; clear_value x)
    | with_reducible apply State.setCsr_keeps
    | with_reducible apply State.setProbe_keeps
    | with_reducible apply State.traceTrigger_keeps
    | with_reducible refine Keeps.cast (by assumption) ?_
    | split

theorem State.traceStore_keeps {r₀ s : State} (site : Nat) (v : DWord) (hk : Keeps r₀ s) :
    Keeps r₀ (s.traceStore site v) := by
  unfold State.traceStore
  repeat' first
    | with_reducible assumption
    | (extract_lets +onlyGivenNames x; clear_value (ex : x = _); have hx : Keeps r₀ x := ?_)
    | (extract_lets +onlyGivenNames x; clear_value x)
    | with_reducible apply State.setCsr64_keeps
    | with_reducible apply State.setFld_keeps
    | with_reducible apply State.setProbe_keeps
    | with_reducible refine Keeps.cast (by assumption) ?_
    | split

theorem State.traceTaken_keeps {r₀ s : State} (site : Nat) (hk : Keeps r₀ s) :
    Keeps r₀ (s.traceTaken site) := by
  unfold State.traceTaken
  repeat' first
    | with_reducible assumption
    | (extract_lets +onlyGivenNames x; clear_value (ex : x = _); have hx : Keeps r₀ x := ?_)
    | (extract_lets +onlyGivenNames x; clear_value x)
    | with_reducible apply State.setFld_keeps
    | with_reducible apply State.setProbe_keeps
    | with_reducible refine Keeps.cast (by assumption) ?_
    | split

theorem State.probeEdge_keeps {r₀ s : State} (site : Nat) (v : DWord) (hk : Keeps r₀ s) : Keeps r₀ (s.probeEdge site v) := by
  unfold State.probeEdge
  extract_lets p pipe s1
  have h1 : Keeps r₀ s1 := State.traceTaken_keeps _ (State.setProbe_keeps _ _ hk)
  split
  · split
    · split
      · exact State.send_keeps _ h1
      · exact h1
    · exact h1
  · split
    · exact State.traceStore_keeps _ _ h1
    · exact h1

theorem execTraceArm_keeps {r₀ s : State} (site : Fin 64) (value : Word) (hk : Keeps r₀ s) :
    ∀ s', execTraceArm site value s = .next s' → Keeps r₀ s' := by
  unfold execTraceArm
  repeat' first
    | with_reducible assumption
    | with_reducible refine fun _ (_ : Keeps r₀ _) => ?_
    | with_reducible refine Keeps.next ?_
    | with_reducible apply State.regWrite_keeps
    | with_reducible apply State.traceCtlWrite_keeps

theorem execTraceEntryWrite_keeps {r₀ s : State} (site : Fin 64) (same : Bool) (hk : Keeps r₀ s) :
    ∀ s', execTraceEntryWrite site same s = .next s' → Keeps r₀ s' := by
  unfold execTraceEntryWrite
  repeat' first
    | with_reducible assumption
    | with_reducible refine Keeps.next ?_
    | (extract_lets +onlyGivenNames x; clear_value (ex : x = _); have hx : Keeps r₀ x := ?_)
    | with_reducible apply State.edgeAt_keeps
    | with_reducible apply State.probeEdge_keeps
    | with_reducible refine Keeps.cast (by assumption) ?_
    | split

theorem execSwTrig_keeps {r₀ s : State} (site : Fin 64) (hk : Keeps r₀ s) :
    ∀ s', execSwTrig site s = .next s' → Keeps r₀ s' := by
  unfold execSwTrig
  repeat' first
    | with_reducible assumption
    | with_reducible refine fun _ (_ : Keeps r₀ _) => ?_
    | with_reducible refine Keeps.next ?_
    | with_reducible apply State.regWrite_keeps
    | with_reducible apply State.traceTrigger_keeps

theorem execNetworkTrigger_keeps {r₀ s : State} (site : Fin 64) (second : Bool) (hk : Keeps r₀ s) :
    ∀ s', execNetworkTrigger site second s = .next s' → Keeps r₀ s' := by
  have h1 : Keeps r₀ (if s.fab.trigIn.contains site.val then s
      else { s with fab := { s.fab with trigIn := s.fab.trigIn ++ [site.val] } }) := Keeps.ite hk (Keeps.upd hk)
  exact Keeps.next (Keeps.ite (State.traceTrigger_keeps _ _ h1) h1)

theorem execStopped_keeps {r₀ s : State} (site : Fin 64) (hk : Keeps r₀ s) :
    ∀ s', execStopped site s = .next s' → Keeps r₀ s' := by
  unfold execStopped
  repeat' first
    | with_reducible assumption
    | with_reducible refine Keeps.next ?_
    | (extract_lets +onlyGivenNames x; clear_value x)
    | with_reducible apply State.setFld_keeps
    | with_reducible apply State.setProbe_keeps
    | split

/-! ### Bushel -/

theorem State.setBshRow_keeps {r₀ s : State} (site b r : Nat) (v : BitVec 109) (hk : Keeps r₀ s) :
    Keeps r₀ (s.setBshRow site b r v) := by
  unfold State.setBshRow
  repeat' first
    | with_reducible assumption
    | (extract_lets +onlyGivenNames x; clear_value x)
    | fail_if_no_progress (with_reducible apply Keeps.upd)

theorem State.setBsh_keeps {r₀ s : State} (site b : Nat) (x : BshSt) (hk : Keeps r₀ s) :
    Keeps r₀ (s.setBsh site b x) := by
  unfold State.setBsh
  repeat' first
    | with_reducible assumption
    | (extract_lets +onlyGivenNames x; clear_value x)
    | fail_if_no_progress (with_reducible apply Keeps.upd)

theorem State.bshClear_keeps {r₀ s : State} (site b : Nat) (hk : Keeps r₀ s) :
    Keeps r₀ (s.bshClear site b) := by
  unfold State.bshClear
  repeat' first
    | with_reducible assumption
    | (extract_lets +onlyGivenNames x; clear_value x)
    | fail_if_no_progress (with_reducible apply Keeps.upd)

theorem State.bshCount_keeps {r₀ s : State} (site b row src : Nat) (ce ue : Bool) (hk : Keeps r₀ s) :
    Keeps r₀ (s.bshCount site b row src ce ue) := by
  unfold State.bshCount
  repeat' first
    | with_reducible assumption
    | (extract_lets +onlyGivenNames x; clear_value (ex : x = _); have hx : Keeps r₀ x := ?_)
    | (extract_lets +onlyGivenNames x; clear_value (ex : x = _); refine_lift have hx : ∀ y a b, Keeps r₀ y → Keeps r₀ (x y a b) := ?_; ?_; rotate_left; focus (rw [ex]; intros))
    | (extract_lets +onlyGivenNames x; clear_value x)
    | with_reducible apply State.setCsr_keeps
    | with_reducible apply State.satInc_keeps
    | with_reducible apply State.raise_keeps
    | with_reducible apply State.dropInjected_keeps
    | with_reducible refine Keeps.cast (by assumption) ?_
    | with_reducible apply_assumption -exfalso -symm
    | split

theorem State.bshOverwritten_keeps {r₀ s : State} (site b row : Nat) (hk : Keeps r₀ s) :
    Keeps r₀ (s.bshOverwritten site b row) := by
  unfold State.bshOverwritten
  repeat' first
    | with_reducible assumption
    | (extract_lets +onlyGivenNames x; clear_value (ex : x = _); have hx : Keeps r₀ x := ?_)
    | (extract_lets +onlyGivenNames x; clear_value x)
    | with_reducible apply State.dropInjected_keeps
    | with_reducible apply State.setBsh_keeps
    | with_reducible refine Keeps.cast (by assumption) ?_
    | split

theorem State.bshStore_keeps {r₀ s : State} (site b sh : Nat) (a : BshAccess) (en : BitVec 12) (hk : Keeps r₀ s) :
    Keeps r₀ (s.bshStore site b sh a en) := by
  unfold State.bshStore
  repeat' first
    | with_reducible assumption
    | (extract_lets +onlyGivenNames x; clear_value x)
    | with_reducible apply State.setBshRow_keeps
    | with_reducible apply State.bshOverwritten_keeps
    | split

theorem State.bshEventsA_keeps {r₀ s : State} (site b : Nat) (e : BshEdge) (hk : Keeps r₀ s) :
    Keeps r₀ (s.bshEventsA site b e) := by
  unfold State.bshEventsA
  repeat' first
    | with_reducible assumption
    | (extract_lets +onlyGivenNames x; clear_value (ex : x = _); have hx : Keeps r₀ x := ?_)
    | (extract_lets +onlyGivenNames x; clear_value x)
    | with_reducible apply State.bshClear_keeps
    | with_reducible apply State.bshStore_keeps
    | with_reducible refine Keeps.cast (by assumption) ?_
    | split

theorem State.bshEventsB_keeps {r₀ s : State} (site b : Nat) (e : BshEdge) (hk : Keeps r₀ s) :
    Keeps r₀ (s.bshEventsB site b e) := by
  unfold State.bshEventsB
  repeat' first
    | with_reducible assumption
    | (extract_lets +onlyGivenNames x; clear_value x)
    | with_reducible apply State.bshStore_keeps
    | split

theorem State.bshTogether_keeps {r₀ s : State} (site b : Nat) (e : BshEdge) (hk : Keeps r₀ s) :
    Keeps r₀ (s.bshTogether site b e) := by
  unfold State.bshTogether
  repeat' first
    | with_reducible assumption
    | (extract_lets +onlyGivenNames x; clear_value (ex : x = _); have hx : Keeps r₀ x := ?_)
    | (extract_lets +onlyGivenNames x; clear_value x)
    | with_reducible apply State.raise_keeps
    | with_reducible apply State.bshClear_keeps
    | with_reducible apply State.bshStore_keeps
    | with_reducible apply State.bshEventsA_keeps
    | with_reducible apply State.bshEventsB_keeps
    | with_reducible refine Keeps.cast (by assumption) ?_
    | split

theorem State.bshPortShow_keeps {r₀ s : State} (site b src row : Nat) (r : Option BshRead) (hk : Keeps r₀ s) :
    Keeps r₀ (s.bshPortShow site b src row r) := by
  unfold State.bshPortShow
  repeat' first
    | with_reducible assumption
    | (extract_lets +onlyGivenNames x; clear_value (ex : x = _); have hx : Keeps r₀ x := ?_)
    | (extract_lets +onlyGivenNames x; clear_value x)
    | with_reducible apply State.setBsh_keeps
    | with_reducible apply State.bshCount_keeps
    | with_reducible refine Keeps.cast (by assumption) ?_
    | split

theorem State.bshTimes_keeps {r₀ s : State} (site b : Nat) (e : BshEdge) (hk : Keeps r₀ s) : Keeps r₀ (s.bshTimes site b e).last := by
  unfold State.bshTimes
  split
  · exact hk
  · split
    · exact State.bshTogether_keeps _ _ _ hk
    · split
      · exact State.bshEventsA_keeps _ _ _ (State.bshEventsB_keeps _ _ _ hk)
      · exact State.bshEventsB_keeps _ _ _ (State.bshEventsA_keeps _ _ _ hk)

theorem State.bushelEdge_keeps {r₀ s : State} (site b : Nat) (e : BshEdge) (hk : Keeps r₀ s) : Keeps r₀ (s.bushelEdge site b e) := by
  unfold State.bushelEdge
  extract_lets +onlyGivenNames cfg shA shB t s2
  have ht : Keeps r₀ t.last := State.bshTimes_keeps _ _ _ hk
  have h2 : Keeps r₀ s2 := by
    simp -zeta only [s2]
    split
    · exact State.bshPortShow_keeps _ _ _ _ _ ht
    · exact ht
  split
  · exact State.bshPortShow_keeps _ _ _ _ _ h2
  · exact h2

theorem State.bshClocks_keeps {r₀ s : State} (site b : Nat) (e : BshEdge) (hk : Keeps r₀ s) :
    Keeps r₀ (s.bshClocks site b e) := by
  unfold State.bshClocks
  repeat' first
    | with_reducible assumption
    | (extract_lets +onlyGivenNames x; clear_value (ex : x = _); have hx : Keeps r₀ x := ?_)
    | (extract_lets +onlyGivenNames x; clear_value x)
    | with_reducible apply State.edgeAt_keeps
    | with_reducible refine Keeps.cast (by assumption) ?_
    | split

theorem State.bushelAt_keeps {r₀ s : State} (site b : Nat) (e : BshEdge) (p : State → Bool) (hk : Keeps r₀ s) :
    Keeps r₀ (s.bushelAt site b e p) := by
  unfold State.bushelAt
  repeat' first
    | with_reducible assumption
    | (extract_lets +onlyGivenNames x; clear_value (ex : x = _); have hx : Keeps r₀ x := ?_)
    | with_reducible apply State.bushelEdge_keeps
    | with_reducible apply State.bshClocks_keeps
    | with_reducible refine Keeps.cast (by assumption) ?_
    | split

theorem execBushelRead_keeps {r₀ s : State} (site : Fin 64) (bushel : Fin 768) (e : BshEdge) (hk : Keeps r₀ s) :
    ∀ s', execBushelRead site bushel e s = .next s' → Keeps r₀ s' := by
  unfold execBushelRead
  repeat' first
    | with_reducible assumption
    | with_reducible refine Keeps.next ?_
    | with_reducible apply State.bushelAt_keeps

theorem execBushelWrite_keeps {r₀ s : State} (site : Fin 64) (bushel : Fin 768) (e : BshEdge) (hk : Keeps r₀ s) :
    ∀ s', execBushelWrite site bushel e s = .next s' → Keeps r₀ s' := by
  unfold execBushelWrite
  repeat' first
    | with_reducible assumption
    | with_reducible refine Keeps.next ?_
    | with_reducible apply State.bushelAt_keeps

theorem execClear_keeps {r₀ s : State} (site : Fin 64) (bushel : Fin 768) (e : BshEdge) (hk : Keeps r₀ s) :
    ∀ s', execClear site bushel e s = .next s' → Keeps r₀ s' := by
  unfold execClear
  repeat' first
    | with_reducible assumption
    | with_reducible refine Keeps.next ?_
    | with_reducible apply State.bushelAt_keeps

theorem State.scrubAdvance_keeps {r₀ s : State} (site b : Nat) (hk : Keeps r₀ s) :
    Keeps r₀ (s.scrubAdvance site b) := by
  unfold State.scrubAdvance
  repeat' first
    | with_reducible assumption
    | (extract_lets +onlyGivenNames x; clear_value (ex : x = _); have hx : Keeps r₀ x := ?_)
    | (extract_lets +onlyGivenNames x; clear_value x)
    | with_reducible apply State.setFld_keeps
    | with_reducible apply State.setBsh_keeps
    | with_reducible refine Keeps.cast (by assumption) ?_
    | split

theorem State.scrubRow_keeps {r₀ s : State} (site b : Nat) (hk : Keeps r₀ s) :
    Keeps r₀ (s.scrubRow site b) := by
  unfold State.scrubRow
  repeat' first
    | with_reducible assumption
    | (extract_lets +onlyGivenNames x; clear_value x)
    | with_reducible apply State.setBsh_keeps
    | with_reducible apply State.bshCount_keeps
    | with_reducible apply State.scrubAdvance_keeps
    | split

theorem State.idleB_keeps {r₀ s : State} (site b : Nat) (same : Bool) (f : State → State) (hk : Keeps r₀ s) (hf : ∀ t, Keeps r₀ t → Keeps r₀ (f t)) :
    Keeps r₀ (s.idleB site b same f) := by
  unfold State.idleB
  repeat' first
    | with_reducible assumption
    | (extract_lets +onlyGivenNames x; clear_value (ex : x = _); have hx : Keeps r₀ x := ?_)
    | (extract_lets +onlyGivenNames x; clear_value x)
    | with_reducible apply State.edgeAt_keeps
    | with_reducible refine Keeps.cast (by assumption) ?_
    | with_reducible apply_assumption -exfalso -symm
    | split

theorem execScrubRow_keeps {r₀ s : State} (site : Fin 64) (bushel : Fin 768) (same : Bool) (hk : Keeps r₀ s) :
    ∀ s', execScrubRow site bushel same s = .next s' → Keeps r₀ s' := by
  unfold execScrubRow
  repeat' first
    | with_reducible assumption
    | with_reducible refine fun _ (_ : Keeps r₀ _) => ?_
    | with_reducible refine Keeps.next ?_
    | with_reducible apply State.scrubRow_keeps
    | with_reducible apply State.idleB_keeps
    | split

theorem State.scrubWriteBack_keeps {r₀ s : State} (site b : Nat) (hk : Keeps r₀ s) :
    Keeps r₀ (s.scrubWriteBack site b) := by
  unfold State.scrubWriteBack
  repeat' first
    | with_reducible assumption
    | (extract_lets +onlyGivenNames x; clear_value x)
    | with_reducible apply State.setBshRow_keeps
    | with_reducible apply State.setBsh_keeps
    | split

theorem execScrubWriteBack_keeps {r₀ s : State} (site : Fin 64) (bushel : Fin 768) (same : Bool) (hk : Keeps r₀ s) :
    ∀ s', execScrubWriteBack site bushel same s = .next s' → Keeps r₀ s' := by
  unfold execScrubWriteBack
  repeat' first
    | with_reducible assumption
    | with_reducible refine fun _ (_ : Keeps r₀ _) => ?_
    | with_reducible refine Keeps.next ?_
    | with_reducible apply State.idleB_keeps
    | with_reducible apply State.scrubWriteBack_keeps
    | split

theorem State.diagPerform_keeps {r₀ s : State} (site : Nat) (w : Word) (hk : Keeps r₀ s) :
    Keeps r₀ (s.diagPerform site w) := by
  unfold State.diagPerform
  repeat' first
    | with_reducible assumption
    | (extract_lets +onlyGivenNames x; clear_value (ex : x = _); have hx : Keeps r₀ x := ?_)
    | (extract_lets +onlyGivenNames x; clear_value x)
    | with_reducible apply State.setCsr_keeps
    | with_reducible apply State.setFld_keeps
    | with_reducible apply State.setBshRow_keeps
    | with_reducible apply State.bshOverwritten_keeps
    | with_reducible refine Keeps.cast (by assumption) ?_
    | split
    | fail_if_no_progress (with_reducible apply Keeps.upd)

theorem State.diagWrite_keeps {r₀ s : State} (site : Nat) (value : Word) (hk : Keeps r₀ s) :
    Keeps r₀ (s.diagWrite site value) := by
  unfold State.diagWrite
  repeat' first
    | with_reducible assumption
    | (extract_lets +onlyGivenNames x; clear_value (ex : x = _); have hx : Keeps r₀ x := ?_)
    | (extract_lets +onlyGivenNames x; clear_value x)
    | with_reducible apply State.setCsr_keeps
    | with_reducible apply State.setFld_keeps
    | with_reducible apply State.diagPerform_keeps
    | with_reducible refine Keeps.cast (by assumption) ?_
    | split
    | (extract_lets +onlyGivenNames x)
    | fail_if_no_progress (with_reducible apply Keeps.upd)

theorem execDiagGo_keeps {r₀ s : State} (mid : BitVec 12) (site : Fin 64) (value : Word) (hk : Keeps r₀ s) :
    ∀ s', execDiagGo mid site value s = .next s' → Keeps r₀ s' := by
  unfold execDiagGo
  repeat' first
    | with_reducible assumption
    | with_reducible refine fun _ (_ : Keeps r₀ _) => ?_
    | with_reducible refine Keeps.next ?_
    | with_reducible apply levelSWrite_keeps
    | with_reducible apply State.diagWrite_keeps

theorem execDiagAccess_keeps {r₀ s : State} (site : Fin 64) (same : Bool) (hk : Keeps r₀ s) :
    ∀ s', execDiagAccess site same s = .next s' → Keeps r₀ s' := by
  unfold execDiagAccess
  repeat' first
    | with_reducible assumption
    | with_reducible refine fun _ (_ : Keeps r₀ _) => ?_
    | with_reducible refine Keeps.next ?_
    | with_reducible apply State.idleB_keeps
    | with_reducible apply State.diagPerform_keeps
    | split

theorem State.diagAtLoad_keeps {r₀ s : State} (pl : Nat) (hk : Keeps r₀ s) :
    Keeps r₀ (s.diagAtLoad pl) := by
  unfold State.diagAtLoad
  repeat' first
    | with_reducible assumption
    | with_reducible apply State.diagPerform_keeps
    | split

theorem execDiagTimeout_keeps {r₀ s : State} (site : Fin 64) (hk : Keeps r₀ s) :
    ∀ s', execDiagTimeout site s = .next s' → Keeps r₀ s' := by
  unfold execDiagTimeout
  repeat' first
    | with_reducible assumption
    | with_reducible refine Keeps.next ?_
    | (extract_lets +onlyGivenNames x; clear_value (ex : x = _); have hx : Keeps r₀ x := ?_)
    | (extract_lets +onlyGivenNames x; clear_value x)
    | with_reducible apply State.setFld_keeps
    | with_reducible refine Keeps.cast (by assumption) ?_
    | split
    | fail_if_no_progress (with_reducible apply Keeps.upd)

/-! ### Tile -/

theorem State.setTile_keeps {r₀ s : State} (site t : Nat) (x : TileSt) (hk : Keeps r₀ s) :
    Keeps r₀ (s.setTile site t x) := by
  unfold State.setTile
  repeat' first
    | with_reducible assumption
    | (extract_lets +onlyGivenNames x; clear_value x)
    | fail_if_no_progress (with_reducible apply Keeps.upd)

theorem State.setTword_keeps {r₀ s : State} (key : Nat) (v : BitVec 105) (hk : Keeps r₀ s) :
    Keeps r₀ (s.setTword key v) := by
  unfold State.setTword
  repeat' first
    | with_reducible assumption
    | (extract_lets +onlyGivenNames x; clear_value x)
    | with_reducible apply State.dropInjected_keeps
    | (extract_lets +onlyGivenNames x)
    | fail_if_no_progress (with_reducible apply Keeps.upd)

theorem State.tileErr_keeps {r₀ s : State} (site t b sev : Nat) (inj : Bool) (hk : Keeps r₀ s) :
    Keeps r₀ (s.tileErr site t b sev inj) := by
  unfold State.tileErr
  repeat' first
    | with_reducible assumption
    | (extract_lets +onlyGivenNames x; clear_value x)
    | with_reducible apply State.report_keeps
    | with_reducible apply State.setTile_keeps

theorem State.tileCount_keeps {r₀ s : State} (site t : Nat) (ce ue memory inj : Bool) (hk : Keeps r₀ s) :
    Keeps r₀ (s.tileCount site t ce ue memory inj) := by
  unfold State.tileCount
  repeat' first
    | with_reducible assumption
    | (extract_lets +onlyGivenNames x; clear_value (ex : x = _); have hx : Keeps r₀ x := ?_)
    | (extract_lets +onlyGivenNames x; clear_value x)
    | with_reducible apply State.setTile_keeps
    | with_reducible apply State.tileErr_keeps
    | with_reducible refine Keeps.cast (by assumption) ?_
    | split

theorem State.tileRead_keeps {r₀ s : State} (site t bank n : Nat) (hk : Keeps r₀ s) :
    Keeps r₀ (s.tileRead site t bank n).2.2 := by
  unfold State.tileRead
  repeat' first
    | with_reducible assumption
    | (extract_lets +onlyGivenNames x; clear_value (ex : x = _); have hx : Keeps r₀ x := ?_)
    | (extract_lets +onlyGivenNames x; clear_value x)
    | with_reducible apply State.dropInjected_keeps
    | with_reducible apply State.tileCount_keeps
    | with_reducible refine Keeps.cast (by assumption) ?_
    | split

theorem State.tileOperand_keeps {r₀ s : State} (site t src ag open_ : Nat) (hk : Keeps r₀ s) :
    Keeps r₀ (s.tileOperand site t src ag open_).2.2 := by
  unfold State.tileOperand
  repeat' first
    | with_reducible assumption
    | (extract_lets +onlyGivenNames x; clear_value (ex : x = _); refine_lift have hx : ∀ a, Keeps r₀ (x a).2.2 := ?_; ?_; rotate_left; focus (rw [ex]; intros))
    | (extract_lets +onlyGivenNames x; clear_value x)
    | with_reducible apply State.tileRead_keeps
    | with_reducible apply_assumption -exfalso -symm
    | split
    | dsimp -zeta only

theorem State.tileOperands_keeps {r₀ s : State} (site t : Nat) (w : DWord) (hk : Keeps r₀ s) :
    Keeps r₀ (s.tileOperands site t w).state := by
  unfold State.tileOperands
  repeat' first
    | with_reducible assumption
    | with_reducible apply State.free_keeps
    | with_reducible apply State.setTile_keeps
    | with_reducible apply State.tileOperand_keeps
    | split

theorem State.tileDst_keeps {r₀ s : State} (site t : Nat) (w : DWord) (open_ : Nat) (v : DWord) (poison : Bool) (hk : Keeps r₀ s) :
    Keeps r₀ (s.tileDst site t w open_ v poison) := by
  unfold State.tileDst
  repeat' first
    | with_reducible assumption
    | (extract_lets +onlyGivenNames x; clear_value x)
    | with_reducible apply State.setTile_keeps
    | with_reducible apply State.setTword_keeps
    | split

theorem State.tileOvf_keeps {r₀ s : State} (site t : Nat) (ovf : Bool) (hk : Keeps r₀ s) :
    Keeps r₀ (s.tileOvf site t ovf) := by
  unfold State.tileOvf
  repeat' first
    | with_reducible assumption
    | with_reducible apply State.tileErr_keeps
    | split

theorem State.tileProduct_keeps {r₀ s : State} (site t : Nat) (w : DWord) (o : TileOps) (sign : Int) (hk : Keeps r₀ s) (ho : Keeps r₀ o.state) :
    Keeps r₀ (s.tileProduct site t w o sign) := by
  unfold State.tileProduct
  repeat' first
    | with_reducible assumption
    | (extract_lets +onlyGivenNames x; clear_value (ex : x = _); refine_lift have hx : ∀ y a b, Keeps r₀ y → Keeps r₀ (x y a b) := ?_; ?_; rotate_left; focus (rw [ex]; intros))
    | (extract_lets +onlyGivenNames x; clear_value x)
    | with_reducible apply State.setTile_keeps
    | with_reducible apply State.tileOvf_keeps
    | with_reducible apply_assumption -exfalso -symm
    | split

theorem State.tileEffect_keeps {r₀ s : State} (site t : Nat) (w : DWord) (o : TileOps) (hk : Keeps r₀ s) (ho : Keeps r₀ o.state) :
    Keeps r₀ (s.tileEffect site t w o) := by
  unfold State.tileEffect
  repeat' first
    | with_reducible assumption
    | (extract_lets +onlyGivenNames x; clear_value (ex : x = _); have hx : Keeps r₀ x := ?_)
    | (extract_lets +onlyGivenNames x; clear_value x)
    | with_reducible apply State.setTile_keeps
    | with_reducible apply State.tileDst_keeps
    | with_reducible apply State.tileOvf_keeps
    | with_reducible apply State.tileProduct_keeps
    | with_reducible refine Keeps.cast (by assumption) ?_
    | split

theorem State.tileHalt_keeps {r₀ s : State} (site t b : Nat) (inj : Bool) (hk : Keeps r₀ s) :
    Keeps r₀ (s.tileHalt site t b inj) := by
  unfold State.tileHalt
  repeat' first
    | with_reducible assumption
    | (extract_lets +onlyGivenNames x; clear_value x)
    | with_reducible apply State.setTile_keeps
    | with_reducible apply State.tileErr_keeps

theorem State.tileIssue_keeps {r₀ s : State} (site t : Nat) (w : DWord) (hk : Keeps r₀ s) :
    Keeps r₀ (s.tileIssue site t w) := by
  unfold State.tileIssue
  repeat' first
    | with_reducible assumption
    | (extract_lets +onlyGivenNames x; clear_value (ex : x = _); have hx : Keeps r₀ x := ?_)
    | (extract_lets +onlyGivenNames x; clear_value (ex : x = _); have hx : Keeps r₀ x.state := ?_)
    | (extract_lets +onlyGivenNames x; clear_value x)
    | with_reducible apply State.setTile_keeps
    | with_reducible apply State.tileOperands_keeps
    | with_reducible apply State.tileEffect_keeps
    | with_reducible apply State.tileHalt_keeps
    | with_reducible refine Keeps.cast (by assumption) ?_
    | with_reducible refine Keeps.cast4 (by assumption) ?_
    | split

theorem State.tileFetch_keeps {r₀ s : State} (site t : Nat) (hk : Keeps r₀ s) :
    Keeps r₀ (s.tileFetch site t) := by
  unfold State.tileFetch
  repeat' first
    | with_reducible assumption
    | (extract_lets +onlyGivenNames x; clear_value (ex : x = _); have hx : Keeps r₀ x := ?_)
    | (extract_lets +onlyGivenNames x; clear_value x)
    | with_reducible apply State.tileCount_keeps
    | with_reducible apply State.tileHalt_keeps
    | with_reducible apply State.tileIssue_keeps
    | with_reducible refine Keeps.cast (by assumption) ?_
    | split

theorem State.tileOp_keeps {r₀ s : State} (site t op : Nat) (hk : Keeps r₀ s) :
    Keeps r₀ (s.tileOp site t op) := by
  unfold State.tileOp
  repeat' first
    | with_reducible assumption
    | (extract_lets +onlyGivenNames x; clear_value x)
    | with_reducible apply State.tileFetch_keeps
    | split

theorem State.tileGo_keeps {r₀ s : State} (site t : Nat) (hk : Keeps r₀ s) :
    Keeps r₀ (s.tileGo site t) := by
  unfold State.tileGo
  repeat' first
    | with_reducible assumption
    | (extract_lets +onlyGivenNames x; clear_value x)
    | with_reducible apply State.setTile_keeps
    | split

theorem State.tileStop_keeps {r₀ s : State} (site t : Nat) (hk : Keeps r₀ s) :
    Keeps r₀ (s.tileStop site t) := by
  unfold State.tileStop
  repeat' first
    | with_reducible assumption
    | (extract_lets +onlyGivenNames x; clear_value x)
    | with_reducible apply State.setTile_keeps
    | split

theorem State.tileResume_keeps {r₀ s : State} (site t : Nat) (hk : Keeps r₀ s) :
    Keeps r₀ (s.tileResume site t) := by
  unfold State.tileResume
  repeat' first
    | with_reducible assumption
    | (extract_lets +onlyGivenNames x; clear_value x)
    | with_reducible apply State.setTile_keeps
    | split

theorem execGo_keeps {r₀ s : State} (site : Fin 64) (tile : Fin 128) (fgo : Bool) (hk : Keeps r₀ s) :
    ∀ s', execGo site tile fgo s = .next s' → Keeps r₀ s' := by
  unfold execGo
  repeat' first
    | with_reducible assumption
    | with_reducible refine Keeps.next ?_
    | with_reducible apply State.tileGo_keeps
    | split

theorem execStop_keeps {r₀ s : State} (site : Fin 64) (tile : Fin 128) (hk : Keeps r₀ s) :
    ∀ s', execStop site tile s = .next s' → Keeps r₀ s' := by
  unfold execStop
  repeat' first
    | with_reducible assumption
    | with_reducible refine Keeps.next ?_
    | with_reducible apply State.tileStop_keeps
    | split

theorem execTileStopHalt_keeps {r₀ s : State} (site : Fin 64) (tile : Fin 128) (hk : Keeps r₀ s) :
    ∀ s', execTileStopHalt site tile s = .next s' → Keeps r₀ s' := by
  unfold execTileStopHalt
  repeat' first
    | with_reducible assumption
    | with_reducible refine Keeps.next ?_
    | with_reducible apply State.setTile_keeps
    | split

theorem execResume_keeps {r₀ s : State} (site : Fin 64) (tile : Fin 128) (hk : Keeps r₀ s) :
    ∀ s', execResume site tile s = .next s' → Keeps r₀ s' := by
  unfold execResume
  repeat' first
    | with_reducible assumption
    | with_reducible refine Keeps.next ?_
    | with_reducible apply State.tileResume_keeps
    | split

theorem execMtNop_keeps {r₀ s : State} (site : Fin 64) (tile : Fin 128) (hk : Keeps r₀ s) :
    ∀ s', execMtNop site tile s = .next s' → Keeps r₀ s' := by
  unfold execMtNop
  repeat' first
    | with_reducible assumption
    | with_reducible refine Keeps.next ?_
    | with_reducible apply State.tileOp_keeps

theorem execMul_keeps {r₀ s : State} (site : Fin 64) (tile : Fin 128) (hk : Keeps r₀ s) :
    ∀ s', execMul site tile s = .next s' → Keeps r₀ s' := by
  unfold execMul
  repeat' first
    | with_reducible assumption
    | with_reducible refine Keeps.next ?_
    | with_reducible apply State.tileOp_keeps

theorem execMac_keeps {r₀ s : State} (site : Fin 64) (tile : Fin 128) (hk : Keeps r₀ s) :
    ∀ s', execMac site tile s = .next s' → Keeps r₀ s' := by
  unfold execMac
  repeat' first
    | with_reducible assumption
    | with_reducible refine Keeps.next ?_
    | with_reducible apply State.tileOp_keeps

theorem execMsu_keeps {r₀ s : State} (site : Fin 64) (tile : Fin 128) (hk : Keeps r₀ s) :
    ∀ s', execMsu site tile s = .next s' → Keeps r₀ s' := by
  unfold execMsu
  repeat' first
    | with_reducible assumption
    | with_reducible refine Keeps.next ?_
    | with_reducible apply State.tileOp_keeps

theorem execClra_keeps {r₀ s : State} (site : Fin 64) (tile : Fin 128) (hk : Keeps r₀ s) :
    ∀ s', execClra site tile s = .next s' → Keeps r₀ s' := by
  unfold execClra
  repeat' first
    | with_reducible assumption
    | with_reducible refine Keeps.next ?_
    | with_reducible apply State.tileOp_keeps

theorem execLda_keeps {r₀ s : State} (site : Fin 64) (tile : Fin 128) (hk : Keeps r₀ s) :
    ∀ s', execLda site tile s = .next s' → Keeps r₀ s' := by
  unfold execLda
  repeat' first
    | with_reducible assumption
    | with_reducible refine Keeps.next ?_
    | with_reducible apply State.tileOp_keeps

theorem execMova_keeps {r₀ s : State} (site : Fin 64) (tile : Fin 128) (hk : Keeps r₀ s) :
    ∀ s', execMova site tile s = .next s' → Keeps r₀ s' := by
  unfold execMova
  repeat' first
    | with_reducible assumption
    | with_reducible refine Keeps.next ?_
    | with_reducible apply State.tileOp_keeps

theorem execMovac_keeps {r₀ s : State} (site : Fin 64) (tile : Fin 128) (hk : Keeps r₀ s) :
    ∀ s', execMovac site tile s = .next s' → Keeps r₀ s' := by
  unfold execMovac
  repeat' first
    | with_reducible assumption
    | with_reducible refine Keeps.next ?_
    | with_reducible apply State.tileOp_keeps

theorem execMovx_keeps {r₀ s : State} (site : Fin 64) (tile : Fin 128) (hk : Keeps r₀ s) :
    ∀ s', execMovx site tile s = .next s' → Keeps r₀ s' := by
  unfold execMovx
  repeat' first
    | with_reducible assumption
    | with_reducible refine Keeps.next ?_
    | with_reducible apply State.tileOp_keeps

theorem execNorm_keeps {r₀ s : State} (site : Fin 64) (tile : Fin 128) (hk : Keeps r₀ s) :
    ∀ s', execNorm site tile s = .next s' → Keeps r₀ s' := by
  unfold execNorm
  repeat' first
    | with_reducible assumption
    | with_reducible refine Keeps.next ?_
    | with_reducible apply State.tileOp_keeps

theorem execExp_keeps {r₀ s : State} (site : Fin 64) (tile : Fin 128) (hk : Keeps r₀ s) :
    ∀ s', execExp site tile s = .next s' → Keeps r₀ s' := by
  unfold execExp
  repeat' first
    | with_reducible assumption
    | with_reducible refine Keeps.next ?_
    | with_reducible apply State.tileOp_keeps

theorem execBexp_keeps {r₀ s : State} (site : Fin 64) (tile : Fin 128) (hk : Keeps r₀ s) :
    ∀ s', execBexp site tile s = .next s' → Keeps r₀ s' := by
  unfold execBexp
  repeat' first
    | with_reducible assumption
    | with_reducible refine Keeps.next ?_
    | with_reducible apply State.tileOp_keeps

theorem execSetbe_keeps {r₀ s : State} (site : Fin 64) (tile : Fin 128) (hk : Keeps r₀ s) :
    ∀ s', execSetbe site tile s = .next s' → Keeps r₀ s' := by
  unfold execSetbe
  repeat' first
    | with_reducible assumption
    | with_reducible refine Keeps.next ?_
    | with_reducible apply State.tileOp_keeps

theorem execMovbe_keeps {r₀ s : State} (site : Fin 64) (tile : Fin 128) (hk : Keeps r₀ s) :
    ∀ s', execMovbe site tile s = .next s' → Keeps r₀ s' := by
  unfold execMovbe
  repeat' first
    | with_reducible assumption
    | with_reducible refine Keeps.next ?_
    | with_reducible apply State.tileOp_keeps

theorem execRep_keeps {r₀ s : State} (site : Fin 64) (tile : Fin 128) (hk : Keeps r₀ s) :
    ∀ s', execRep site tile s = .next s' → Keeps r₀ s' := by
  unfold execRep
  repeat' first
    | with_reducible assumption
    | with_reducible refine Keeps.next ?_
    | with_reducible apply State.tileOp_keeps

theorem execSetag_keeps {r₀ s : State} (site : Fin 64) (tile : Fin 128) (hk : Keeps r₀ s) :
    ∀ s', execSetag site tile s = .next s' → Keeps r₀ s' := by
  unfold execSetag
  repeat' first
    | with_reducible assumption
    | with_reducible refine Keeps.next ?_
    | with_reducible apply State.tileOp_keeps

theorem execHalt_keeps {r₀ s : State} (site : Fin 64) (tile : Fin 128) (hk : Keeps r₀ s) :
    ∀ s', execHalt site tile s = .next s' → Keeps r₀ s' := by
  unfold execHalt
  repeat' first
    | with_reducible assumption
    | with_reducible refine Keeps.next ?_
    | with_reducible apply State.tileOp_keeps

theorem execStreamWord_keeps {r₀ s : State} (site : Fin 64) (tile : Fin 128) (stream : TileStream) (data : BitVec 48) (poison : Bool) (hk : Keeps r₀ s) :
    ∀ s', execStreamWord site tile stream data poison s = .next s' → Keeps r₀ s' := by
  unfold execStreamWord
  repeat' first
    | with_reducible assumption
    | with_reducible refine Keeps.next ?_
    | with_reducible apply State.send_keeps
    | with_reducible apply State.setTile_keeps
    | split

/-! ### Acre -/

theorem State.gsrAssert_keeps {r₀ s : State} (pl : Nat) (hk : Keeps r₀ s) :
    Keeps r₀ (s.gsrAssert pl) := by
  unfold State.gsrAssert
  repeat' first
    | with_reducible assumption
    | intro _
    | (extract_lets +onlyGivenNames x; clear_value (ex : x = _); have hx : Keeps r₀ x := ?_)
    | (extract_lets +onlyGivenNames x; clear_value x)
    | with_reducible apply State.setPlace_keeps
    | with_reducible apply State.setTile_keeps
    | with_reducible apply Keeps.foldl
    | with_reducible refine Keeps.cast (by assumption) ?_
    | (extract_lets +onlyGivenNames x)
    | fail_if_no_progress (with_reducible apply Keeps.upd)

theorem State.pinsAtIsolation_keeps {r₀ s : State} (pl : Nat) (hk : Keeps r₀ s) :
    Keeps r₀ (s.pinsAtIsolation pl) := by
  unfold State.pinsAtIsolation
  repeat' first
    | with_reducible assumption
    | with_reducible apply State.holdPins_keeps
    | split

theorem State.isolatePlace_keeps {r₀ s : State} (pl : Nat) (hk : Keeps r₀ s) :
    Keeps r₀ (s.isolatePlace pl) := by
  unfold State.isolatePlace
  repeat' first
    | with_reducible assumption
    | intro _
    | (extract_lets +onlyGivenNames x; clear_value (ex : x = _); have hx : Keeps r₀ x := ?_)
    | (extract_lets +onlyGivenNames x; clear_value x)
    | with_reducible apply State.setPlace_keeps
    | with_reducible apply State.gsrAssert_keeps
    | with_reducible apply State.pinsAtIsolation_keeps
    | with_reducible apply Keeps.foldl
    | with_reducible refine Keeps.cast (by assumption) ?_
    | fail_if_no_progress (with_reducible apply Keeps.upd)

theorem State.zeroFrames_keeps {r₀ s : State} (pl : Nat) (hk : Keeps r₀ s) :
    Keeps r₀ (s.zeroFrames pl) := by
  unfold State.zeroFrames
  repeat' first
    | with_reducible assumption
    | intro _
    | (extract_lets +onlyGivenNames x; clear_value (ex : x = _); have hx : Keeps r₀ x := ?_)
    | (extract_lets +onlyGivenNames x; clear_value x)
    | with_reducible apply State.setTile_keeps
    | with_reducible apply State.gsrAssert_keeps
    | with_reducible apply Keeps.foldl
    | with_reducible refine Keeps.cast (by assumption) ?_
    | (extract_lets +onlyGivenNames x)
    | fail_if_no_progress (with_reducible apply Keeps.upd)

theorem State.emptyPlace_keeps {r₀ s : State} (pl : Nat) (hk : Keeps r₀ s) :
    Keeps r₀ (s.emptyPlace pl) := by
  unfold State.emptyPlace
  repeat' first
    | with_reducible assumption
    | (extract_lets +onlyGivenNames x; clear_value x)
    | with_reducible apply State.setPlace_keeps
    | with_reducible apply State.zeroFrames_keeps
    | (extract_lets +onlyGivenNames x)
    | fail_if_no_progress (with_reducible apply Keeps.upd)

theorem State.beginPlace_keeps {r₀ s : State} (pl : Nat) (hk : Keeps r₀ s) :
    Keeps r₀ (s.beginPlace pl) := by
  unfold State.beginPlace
  repeat' first
    | with_reducible assumption
    | (extract_lets +onlyGivenNames x; clear_value (ex : x = _); have hx : Keeps r₀ x := ?_)
    | (extract_lets +onlyGivenNames x; clear_value x)
    | with_reducible apply State.setPlace_keeps
    | with_reducible apply State.diagAtLoad_keeps
    | with_reducible apply State.zeroFrames_keeps
    | with_reducible refine Keeps.cast (by assumption) ?_
    | (extract_lets +onlyGivenNames x)
    | fail_if_no_progress (with_reducible apply Keeps.upd)

theorem State.setFrameBits_keeps {r₀ s : State} (pl fidx : Nat) (v : BitVec 4096) (hk : Keeps r₀ s) :
    Keeps r₀ (s.setFrameBits pl fidx v) := by
  unfold State.setFrameBits
  repeat' first
    | with_reducible assumption
    | (extract_lets +onlyGivenNames x; clear_value x)
    | fail_if_no_progress (with_reducible apply Keeps.upd)

theorem State.loadTile_keeps {r₀ s : State} (pl t k : Nat) (v : BitVec 4096) (hk : Keeps r₀ s) :
    Keeps r₀ (s.loadTile pl t k v) := by
  unfold State.loadTile
  repeat' first
    | with_reducible assumption
    | intro _
    | (extract_lets +onlyGivenNames x; clear_value (ex : x = _); have hx : Keeps r₀ x := ?_)
    | (extract_lets +onlyGivenNames x; clear_value x)
    | with_reducible apply State.setTile_keeps
    | with_reducible apply State.setTword_keeps
    | with_reducible apply State.setFrameBits_keeps
    | with_reducible apply Keeps.foldl
    | with_reducible refine Keeps.cast (by assumption) ?_
    | split
    | fail_if_no_progress (with_reducible apply Keeps.upd)

theorem State.loadBushel_keeps {r₀ s : State} (pl b : Nat) (v : BitVec 4096) (skip : Bool) (hk : Keeps r₀ s) :
    Keeps r₀ (s.loadBushel pl b v skip) := by
  unfold State.loadBushel
  repeat' first
    | with_reducible assumption
    | intro _
    | (extract_lets +onlyGivenNames x; clear_value (ex : x = _); have hx : Keeps r₀ x := ?_)
    | (extract_lets +onlyGivenNames x; clear_value x)
    | with_reducible apply State.setBshRow_keeps
    | with_reducible apply Keeps.foldl
    | with_reducible refine Keeps.cast (by assumption) ?_
    | split
    | (extract_lets +onlyGivenNames x)
    | fail_if_no_progress (with_reducible apply Keeps.upd)

theorem State.contention_keeps {r₀ s : State} (site la fidx : Nat) (g : LeagueSeg) (hk : Keeps r₀ s) :
    Keeps r₀ (s.contention site la fidx g) := by
  unfold State.contention
  repeat' first
    | with_reducible assumption
    | (extract_lets +onlyGivenNames x; clear_value (ex : x = _); have hx : Keeps r₀ x := ?_)
    | with_reducible apply State.setCsr_keeps
    | with_reducible apply State.satInc_keeps
    | with_reducible apply State.raiseFab_keeps
    | with_reducible refine Keeps.cast (by assumption) ?_

theorem State.writeFrame_keeps {r₀ s : State} (pl la fidx : Nat) (v : BitVec 4096) (skip : Bool) (hk : Keeps r₀ s) :
    Keeps r₀ (s.writeFrame pl la fidx v skip).2 := by
  unfold State.writeFrame
  repeat' first
    | with_reducible assumption
    | (extract_lets +onlyGivenNames x; clear_value (ex : x = _); have hx : Keeps r₀ x := ?_)
    | (extract_lets +onlyGivenNames x; clear_value x)
    | with_reducible apply State.setFrameBits_keeps
    | with_reducible apply State.loadTile_keeps
    | with_reducible apply State.loadBushel_keeps
    | with_reducible apply State.contention_keeps
    | with_reducible refine Keeps.cast (by assumption) ?_
    | split
    | (extract_lets +onlyGivenNames x)
    | fail_if_no_progress (with_reducible apply Keeps.upd)

theorem State.setMismatch_keeps {r₀ s : State} (pl i : Nat) (bad : Bool) (hk : Keeps r₀ s) :
    Keeps r₀ (s.setMismatch pl i bad) := by
  unfold State.setMismatch
  repeat' first
    | with_reducible assumption
    | (extract_lets +onlyGivenNames x; clear_value (ex : x = _); have hx : Keeps r₀ x := ?_)
    | (extract_lets +onlyGivenNames x; clear_value x)
    | with_reducible apply State.setChan_keeps
    | with_reducible apply State.raiseFab_keeps
    | with_reducible refine Keeps.cast (by assumption) ?_
    | split

theorem State.exchangeClocks_keeps {r₀ s : State} (pl : Nat) (hk : Keeps r₀ s) :
    Keeps r₀ (s.exchangeClocks pl) := by
  unfold State.exchangeClocks
  repeat' first
    | with_reducible assumption
    | intro _
    | with_reducible apply State.setMismatch_keeps
    | with_reducible apply Keeps.foldl
    | split

theorem State.stage1_keeps {r₀ s : State} (la pl : Nat) (hk : Keeps r₀ s) :
    Keeps r₀ (s.stage1 la pl) := by
  unfold State.stage1
  repeat' first
    | with_reducible assumption
    | (extract_lets +onlyGivenNames x; clear_value (ex : x = _); have hx : Keeps r₀ x := ?_)
    | (extract_lets +onlyGivenNames x; clear_value x)
    | with_reducible apply State.setPlace_keeps
    | with_reducible apply State.setPins_keeps
    | with_reducible apply State.centerGroups_keeps
    | with_reducible apply State.exchangeClocks_keeps
    | with_reducible refine Keeps.cast (by assumption) ?_
    | split
    | (extract_lets +onlyGivenNames x)
    | fail_if_no_progress (with_reducible apply Keeps.upd)

theorem State.stage2_keeps {r₀ s : State} (pl : Nat) (hk : Keeps r₀ s) :
    Keeps r₀ (s.stage2 pl) := by
  unfold State.stage2
  repeat' first
    | with_reducible assumption
    | (extract_lets +onlyGivenNames x; clear_value x)
    | with_reducible apply State.setPlace_keeps

theorem State.stage3_keeps {r₀ s : State} (pl : Nat) (hk : Keeps r₀ s) :
    Keeps r₀ (s.stage3 pl) := by
  unfold State.stage3
  repeat' first
    | with_reducible assumption
    | intro _
    | (extract_lets +onlyGivenNames x; clear_value x)
    | with_reducible apply State.setPlace_keeps
    | with_reducible apply State.tileGo_keeps
    | with_reducible apply Keeps.foldl
    | split

/-! ### CubitOp -/

theorem State.wordOpEdge_keeps {r₀ s : State} (opc site x y : Nat) (same : Bool) (hk : Keeps r₀ s) :
    Keeps r₀ (s.wordOpEdge opc site x y same) := by
  unfold State.wordOpEdge
  repeat' first
    | with_reducible assumption
    | with_reducible apply State.cubitAt_keeps

theorem execPass_keeps {r₀ s : State} (site : Fin 64) (x y : Fin 128) (same : Bool) (hk : Keeps r₀ s) :
    ∀ s', execPass site x y same s = .next s' → Keeps r₀ s' := by
  unfold execPass
  repeat' first
    | with_reducible assumption
    | with_reducible refine Keeps.next ?_
    | with_reducible apply State.wordOpEdge_keeps

theorem execLdk_keeps {r₀ s : State} (site : Fin 64) (x y : Fin 128) (same : Bool) (hk : Keeps r₀ s) :
    ∀ s', execLdk site x y same s = .next s' → Keeps r₀ s' := by
  unfold execLdk
  repeat' first
    | with_reducible assumption
    | with_reducible refine Keeps.next ?_
    | with_reducible apply State.wordOpEdge_keeps

theorem execAdd_keeps {r₀ s : State} (site : Fin 64) (x y : Fin 128) (same : Bool) (hk : Keeps r₀ s) :
    ∀ s', execAdd site x y same s = .next s' → Keeps r₀ s' := by
  unfold execAdd
  repeat' first
    | with_reducible assumption
    | with_reducible refine Keeps.next ?_
    | with_reducible apply State.wordOpEdge_keeps

theorem execAdc_keeps {r₀ s : State} (site : Fin 64) (x y : Fin 128) (same : Bool) (hk : Keeps r₀ s) :
    ∀ s', execAdc site x y same s = .next s' → Keeps r₀ s' := by
  unfold execAdc
  repeat' first
    | with_reducible assumption
    | with_reducible refine Keeps.next ?_
    | with_reducible apply State.wordOpEdge_keeps

theorem execSub_keeps {r₀ s : State} (site : Fin 64) (x y : Fin 128) (same : Bool) (hk : Keeps r₀ s) :
    ∀ s', execSub site x y same s = .next s' → Keeps r₀ s' := by
  unfold execSub
  repeat' first
    | with_reducible assumption
    | with_reducible refine Keeps.next ?_
    | with_reducible apply State.wordOpEdge_keeps

theorem execSbc_keeps {r₀ s : State} (site : Fin 64) (x y : Fin 128) (same : Bool) (hk : Keeps r₀ s) :
    ∀ s', execSbc site x y same s = .next s' → Keeps r₀ s' := by
  unfold execSbc
  repeat' first
    | with_reducible assumption
    | with_reducible refine Keeps.next ?_
    | with_reducible apply State.wordOpEdge_keeps

theorem execCmp_keeps {r₀ s : State} (site : Fin 64) (x y : Fin 128) (same : Bool) (hk : Keeps r₀ s) :
    ∀ s', execCmp site x y same s = .next s' → Keeps r₀ s' := by
  unfold execCmp
  repeat' first
    | with_reducible assumption
    | with_reducible refine Keeps.next ?_
    | with_reducible apply State.wordOpEdge_keeps

theorem execMinu_keeps {r₀ s : State} (site : Fin 64) (x y : Fin 128) (same : Bool) (hk : Keeps r₀ s) :
    ∀ s', execMinu site x y same s = .next s' → Keeps r₀ s' := by
  unfold execMinu
  repeat' first
    | with_reducible assumption
    | with_reducible refine Keeps.next ?_
    | with_reducible apply State.wordOpEdge_keeps

theorem execMaxu_keeps {r₀ s : State} (site : Fin 64) (x y : Fin 128) (same : Bool) (hk : Keeps r₀ s) :
    ∀ s', execMaxu site x y same s = .next s' → Keeps r₀ s' := by
  unfold execMaxu
  repeat' first
    | with_reducible assumption
    | with_reducible refine Keeps.next ?_
    | with_reducible apply State.wordOpEdge_keeps

theorem execMins_keeps {r₀ s : State} (site : Fin 64) (x y : Fin 128) (same : Bool) (hk : Keeps r₀ s) :
    ∀ s', execMins site x y same s = .next s' → Keeps r₀ s' := by
  unfold execMins
  repeat' first
    | with_reducible assumption
    | with_reducible refine Keeps.next ?_
    | with_reducible apply State.wordOpEdge_keeps

theorem execMaxs_keeps {r₀ s : State} (site : Fin 64) (x y : Fin 128) (same : Bool) (hk : Keeps r₀ s) :
    ∀ s', execMaxs site x y same s = .next s' → Keeps r₀ s' := by
  unfold execMaxs
  repeat' first
    | with_reducible assumption
    | with_reducible refine Keeps.next ?_
    | with_reducible apply State.wordOpEdge_keeps

theorem execAnd_keeps {r₀ s : State} (site : Fin 64) (x y : Fin 128) (same : Bool) (hk : Keeps r₀ s) :
    ∀ s', execAnd site x y same s = .next s' → Keeps r₀ s' := by
  unfold execAnd
  repeat' first
    | with_reducible assumption
    | with_reducible refine Keeps.next ?_
    | with_reducible apply State.wordOpEdge_keeps

theorem execOr_keeps {r₀ s : State} (site : Fin 64) (x y : Fin 128) (same : Bool) (hk : Keeps r₀ s) :
    ∀ s', execOr site x y same s = .next s' → Keeps r₀ s' := by
  unfold execOr
  repeat' first
    | with_reducible assumption
    | with_reducible refine Keeps.next ?_
    | with_reducible apply State.wordOpEdge_keeps

theorem execXor_keeps {r₀ s : State} (site : Fin 64) (x y : Fin 128) (same : Bool) (hk : Keeps r₀ s) :
    ∀ s', execXor site x y same s = .next s' → Keeps r₀ s' := by
  unfold execXor
  repeat' first
    | with_reducible assumption
    | with_reducible refine Keeps.next ?_
    | with_reducible apply State.wordOpEdge_keeps

theorem execAndn_keeps {r₀ s : State} (site : Fin 64) (x y : Fin 128) (same : Bool) (hk : Keeps r₀ s) :
    ∀ s', execAndn site x y same s = .next s' → Keeps r₀ s' := by
  unfold execAndn
  repeat' first
    | with_reducible assumption
    | with_reducible refine Keeps.next ?_
    | with_reducible apply State.wordOpEdge_keeps

theorem execShl_keeps {r₀ s : State} (site : Fin 64) (x y : Fin 128) (same : Bool) (hk : Keeps r₀ s) :
    ∀ s', execShl site x y same s = .next s' → Keeps r₀ s' := by
  unfold execShl
  repeat' first
    | with_reducible assumption
    | with_reducible refine Keeps.next ?_
    | with_reducible apply State.wordOpEdge_keeps

theorem execShr_keeps {r₀ s : State} (site : Fin 64) (x y : Fin 128) (same : Bool) (hk : Keeps r₀ s) :
    ∀ s', execShr site x y same s = .next s' → Keeps r₀ s' := by
  unfold execShr
  repeat' first
    | with_reducible assumption
    | with_reducible refine Keeps.next ?_
    | with_reducible apply State.wordOpEdge_keeps

theorem execSar_keeps {r₀ s : State} (site : Fin 64) (x y : Fin 128) (same : Bool) (hk : Keeps r₀ s) :
    ∀ s', execSar site x y same s = .next s' → Keeps r₀ s' := by
  unfold execSar
  repeat' first
    | with_reducible assumption
    | with_reducible refine Keeps.next ?_
    | with_reducible apply State.wordOpEdge_keeps

theorem execRol_keeps {r₀ s : State} (site : Fin 64) (x y : Fin 128) (same : Bool) (hk : Keeps r₀ s) :
    ∀ s', execRol site x y same s = .next s' → Keeps r₀ s' := by
  unfold execRol
  repeat' first
    | with_reducible assumption
    | with_reducible refine Keeps.next ?_
    | with_reducible apply State.wordOpEdge_keeps

theorem execRor_keeps {r₀ s : State} (site : Fin 64) (x y : Fin 128) (same : Bool) (hk : Keeps r₀ s) :
    ∀ s', execRor site x y same s = .next s' → Keeps r₀ s' := by
  unfold execRor
  repeat' first
    | with_reducible assumption
    | with_reducible refine Keeps.next ?_
    | with_reducible apply State.wordOpEdge_keeps

theorem execSel_keeps {r₀ s : State} (site : Fin 64) (x y : Fin 128) (same : Bool) (hk : Keeps r₀ s) :
    ∀ s', execSel site x y same s = .next s' → Keeps r₀ s' := by
  unfold execSel
  repeat' first
    | with_reducible assumption
    | with_reducible refine Keeps.next ?_
    | with_reducible apply State.wordOpEdge_keeps

theorem execPack_keeps {r₀ s : State} (site : Fin 64) (x y : Fin 128) (same : Bool) (hk : Keeps r₀ s) :
    ∀ s', execPack site x y same s = .next s' → Keeps r₀ s' := by
  unfold execPack
  repeat' first
    | with_reducible assumption
    | with_reducible refine Keeps.next ?_
    | with_reducible apply State.wordOpEdge_keeps

theorem execUnpkl_keeps {r₀ s : State} (site : Fin 64) (x y : Fin 128) (same : Bool) (hk : Keeps r₀ s) :
    ∀ s', execUnpkl site x y same s = .next s' → Keeps r₀ s' := by
  unfold execUnpkl
  repeat' first
    | with_reducible assumption
    | with_reducible refine Keeps.next ?_
    | with_reducible apply State.wordOpEdge_keeps

theorem execUnpkh_keeps {r₀ s : State} (site : Fin 64) (x y : Fin 128) (same : Bool) (hk : Keeps r₀ s) :
    ∀ s', execUnpkh site x y same s = .next s' → Keeps r₀ s' := by
  unfold execUnpkh
  repeat' first
    | with_reducible assumption
    | with_reducible refine Keeps.next ?_
    | with_reducible apply State.wordOpEdge_keeps

theorem execReservedOpc_keeps {r₀ s : State} (site : Fin 64) (x y : Fin 128) (same : Bool) (hk : Keeps r₀ s) :
    ∀ s', execReservedOpc site x y same s = .next s' → Keeps r₀ s' := by
  unfold execReservedOpc
  repeat' first
    | with_reducible assumption
    | with_reducible refine Keeps.next ?_
    | with_reducible apply State.cubitAt_keeps

theorem execSynchronousClear_keeps {r₀ s : State} (site : Fin 64) (x y : Fin 128) (same : Bool) (hk : Keeps r₀ s) :
    ∀ s', execSynchronousClear site x y same s = .next s' → Keeps r₀ s' := by
  unfold execSynchronousClear
  repeat' first
    | with_reducible assumption
    | with_reducible refine Keeps.next ?_
    | with_reducible apply State.cubitAt_keeps

theorem execGrainEdge_keeps {r₀ s : State} (site : Fin 64) (x y : Fin 128) (same : Bool) (hk : Keeps r₀ s) :
    ∀ s', execGrainEdge site x y same s = .next s' → Keeps r₀ s' := by
  unfold execGrainEdge
  repeat' first
    | with_reducible assumption
    | with_reducible refine Keeps.next ?_
    | with_reducible apply State.cubitAt_keeps

end Sys2Proof.Machine
end

