-- ==== Sys2Proof/Laws/KeepsRing.lean ====
section
/-! SUPPORT. What every operation and meaning keeps (`Keeps`): packets, the ring network, the die links and the firewall. -/

namespace Sys2Proof.Machine

open Sys2Proof

set_option maxRecDepth 4000

/-! ### Flit -/

theorem State.setSlot_keeps {r₀ s : State} (ring lane i : Nat) (x : RingSlot) (hk : Keeps r₀ s) :
    Keeps r₀ (s.setSlot ring lane i x) := by
  unfold State.setSlot
  repeat' first
    | with_reducible assumption
    | (extract_lets +onlyGivenNames x; clear_value x)
    | fail_if_no_progress (with_reducible apply Keeps.upd)

theorem State.wait_keeps {r₀ s : State} (legs : List Leg) (leg dir : Nat) (ready fresh : Bool) (fs : List RingFlit) (hk : Keeps r₀ s) :
    Keeps r₀ (s.wait legs leg dir ready fresh fs) := by
  unfold State.wait
  repeat' first
    | with_reducible assumption
    | (extract_lets +onlyGivenNames x; clear_value x)
    | split
    | fail_if_no_progress (with_reducible apply Keeps.upd)

/-! ### Packet -/

theorem State.reply_keeps {r₀ s : State} (stop : Nat) (p : ReqPkt) (st : Status) (rsn : PoisonRsn) (peek : Bool) (bs : List PByte) (hk : Keeps r₀ s) :
    Keeps r₀ (s.reply stop p st rsn peek bs) := by
  unfold State.reply
  repeat' first
    | with_reducible assumption
    | (extract_lets +onlyGivenNames x; clear_value x)
    | with_reducible apply State.send_keeps
    | with_reducible apply State.wait_keeps

theorem State.e2eRecord_keeps {r₀ s : State} (stop src kind : Nat) (hk : Keeps r₀ s) :
    Keeps r₀ (s.e2eRecord stop src kind) := by
  unfold State.e2eRecord
  repeat' first
    | with_reducible assumption
    | (extract_lets +onlyGivenNames x; clear_value (ex : x = _); have hx : Keeps r₀ x := ?_)
    | with_reducible apply State.setCsr_keeps
    | with_reducible apply State.report_keeps
    | with_reducible refine Keeps.cast (by assumption) ?_

theorem State.ringErr_keeps {r₀ s : State} (space ring : Nat) (f : Fld) (sev : Nat) (inj : Bool) (hk : Keeps r₀ s) :
    Keeps r₀ (s.ringErr space ring f sev inj) := by
  unfold State.ringErr
  repeat' first
    | with_reducible assumption
    | with_reducible apply State.raise_keeps

theorem State.dropIncomplete_keeps {r₀ s : State} (stop src lane : Nat) (cls : TClass) (hk : Keeps r₀ s) :
    Keeps r₀ (s.dropIncomplete stop src lane cls) := by
  unfold State.dropIncomplete
  repeat' first
    | with_reducible assumption
    | (extract_lets +onlyGivenNames x; clear_value x)
    | with_reducible apply State.ringErr_keeps
    | split
    | (extract_lets +onlyGivenNames x)
    | fail_if_no_progress (with_reducible apply Keeps.upd)

theorem State.holdIncomplete_keeps {r₀ s : State} (stop src lane : Nat) (cls : TClass) (hk : Keeps r₀ s) :
    Keeps r₀ (s.holdIncomplete stop src lane cls) := by
  unfold State.holdIncomplete
  repeat' first
    | with_reducible assumption
    | (extract_lets +onlyGivenNames x; clear_value x)
    | fail_if_no_progress (with_reducible apply Keeps.upd)

theorem State.seqCheck_keeps {r₀ s : State} (stop : Nat) (p : ReqPkt) (hk : Keeps r₀ s) :
    Keeps r₀ (s.seqCheck stop p).2 := by
  unfold State.seqCheck
  repeat' first
    | with_reducible assumption
    | (extract_lets +onlyGivenNames x; clear_value (ex : x = _); refine_lift have hx : ∀ y, Keeps r₀ y → Keeps r₀ (x y) := ?_; ?_; rotate_left; focus (rw [ex]; intros))
    | (extract_lets +onlyGivenNames x; clear_value x)
    | with_reducible apply State.satInc_keeps
    | with_reducible apply State.e2eRecord_keeps
    | with_reducible apply_assumption -exfalso -symm
    | split
    | dsimp -zeta only
    | fail_if_no_progress (with_reducible apply Keeps.upd)

theorem State.misdelivered_keeps {r₀ s : State} (stop src : Nat) (hk : Keeps r₀ s) :
    Keeps r₀ (s.misdelivered stop src) := by
  unfold State.misdelivered
  repeat' first
    | with_reducible assumption
    | with_reducible apply State.satInc_keeps
    | with_reducible apply State.e2eRecord_keeps

theorem State.arrive_keeps {r₀ s : State} (stop : Nat) (p : ReqPkt) (hk : Keeps r₀ s) :
    Keeps r₀ (s.arrive stop p).2 := by
  unfold State.arrive
  repeat' first
    | with_reducible assumption
    | (extract_lets +onlyGivenNames x; clear_value (ex : x = _); have hx : Keeps r₀ x := ?_)
    | (extract_lets +onlyGivenNames x; clear_value (ex : x = _); have hx : Keeps r₀ x.2 := ?_)
    | with_reducible apply State.satInc_keeps
    | with_reducible apply State.e2eRecord_keeps
    | with_reducible apply State.dropIncomplete_keeps
    | with_reducible apply State.holdIncomplete_keeps
    | with_reducible apply State.seqCheck_keeps
    | with_reducible apply State.misdelivered_keeps
    | with_reducible refine Keeps.cast (by assumption) ?_
    | with_reducible refine Keeps.cast2 (by assumption) ?_
    | split

/-! ### Ring -/

theorem State.ringSummary_keeps {r₀ s : State} (hk : Keeps r₀ s) :
    Keeps r₀ (s.ringSummary) := by
  unfold State.ringSummary
  repeat' first
    | with_reducible assumption
    | with_reducible apply State.setBit_keeps

theorem State.rateReport_keeps {r₀ s : State} (r b : Nat) (hk : Keeps r₀ s) :
    Keeps r₀ (s.rateReport r b) := by
  unfold State.rateReport
  repeat' first
    | with_reducible assumption
    | with_reducible apply State.report_keeps

theorem State.markSlow_keeps {r₀ s : State} (r : Nat) (hk : Keeps r₀ s) :
    Keeps r₀ (s.markSlow r) := by
  unfold State.markSlow
  repeat' first
    | with_reducible assumption
    | (extract_lets +onlyGivenNames x; clear_value (ex : x = _); have hx : Keeps r₀ x := ?_)
    | (extract_lets +onlyGivenNames x; clear_value x)
    | with_reducible apply State.setFld_keeps
    | with_reducible apply State.ringSummary_keeps
    | with_reducible apply State.rateReport_keeps
    | with_reducible refine Keeps.cast (by assumption) ?_
    | split
    | (extract_lets +onlyGivenNames x)
    | fail_if_no_progress (with_reducible apply Keeps.upd)

theorem State.slowUpdate_keeps {r₀ s : State} (r : Nat) (hk : Keeps r₀ s) :
    Keeps r₀ (s.slowUpdate r) := by
  unfold State.slowUpdate
  repeat' first
    | with_reducible assumption
    | with_reducible apply State.setFld_keeps
    | with_reducible apply State.markSlow_keeps
    | split

theorem State.clearSlots_keeps {r₀ s : State} (p : Nat → RingSlot → Bool) (hk : Keeps r₀ s) :
    Keeps r₀ (s.clearSlots p) := by
  unfold State.clearSlots
  repeat' first
    | with_reducible assumption
    | (extract_lets +onlyGivenNames x; clear_value x)
    | fail_if_no_progress (with_reducible apply Keeps.upd)

theorem State.ringDown_keeps {r₀ s : State} (r : Nat) (hk : Keeps r₀ s) :
    Keeps r₀ (s.ringDown r) := by
  unfold State.ringDown
  repeat' first
    | with_reducible assumption
    | with_reducible apply State.setFld_keeps
    | with_reducible apply State.ringSummary_keeps
    | with_reducible apply State.rateReport_keeps
    | with_reducible apply State.clearSlots_keeps
    | split

theorem State.ringUp_keeps {r₀ s : State} (r : Nat) (hk : Keeps r₀ s) :
    Keeps r₀ (s.ringUp r) := by
  unfold State.ringUp
  repeat' first
    | with_reducible assumption
    | with_reducible apply State.setFld_keeps
    | with_reducible apply State.ringSummary_keeps
    | split

theorem execRateWindow_keeps {r₀ s : State} (ring : Fin 60) (advances : Nat) (hk : Keeps r₀ s) :
    ∀ s', execRateWindow ring advances s = .next s' → Keeps r₀ s' := by
  unfold execRateWindow
  repeat' first
    | with_reducible assumption
    | with_reducible refine Keeps.next ?_
    | (extract_lets +onlyGivenNames x; clear_value (ex : x = _); have hx : Keeps r₀ x := ?_)
    | (extract_lets +onlyGivenNames x; clear_value x)
    | with_reducible apply State.setFld_keeps
    | with_reducible apply State.markSlow_keeps
    | with_reducible refine Keeps.cast (by assumption) ?_
    | split
    | fail_if_no_progress (with_reducible apply Keeps.upd)

theorem State.ringSlowClear_keeps {r₀ s : State} (r : Nat) (hk : Keeps r₀ s) :
    Keeps r₀ (s.ringSlowClear r) := by
  unfold State.ringSlowClear
  repeat' first
    | with_reducible assumption
    | with_reducible apply State.setFld_keeps
    | with_reducible apply State.ringSummary_keeps
    | split

theorem execRingSlowClear_keeps {r₀ s : State} (mid : BitVec 12) (ring : Fin 60) (hk : Keeps r₀ s) :
    ∀ s', execRingSlowClear mid ring s = .next s' → Keeps r₀ s' := by
  unfold execRingSlowClear
  repeat' first
    | with_reducible assumption
    | with_reducible refine fun _ (_ : Keeps r₀ _) => ?_
    | with_reducible refine Keeps.next ?_
    | with_reducible apply levelSWrite_keeps
    | with_reducible apply State.ringSlowClear_keeps

theorem State.planWrite_keeps {r₀ s : State} (entry : Word) (hk : Keeps r₀ s) :
    Keeps r₀ (s.planWrite entry).1 := by
  unfold State.planWrite
  repeat' first
    | with_reducible assumption
    | (extract_lets +onlyGivenNames x; clear_value x)
    | with_reducible apply State.setFld_keeps
    | split
    | (extract_lets +onlyGivenNames x)
    | fail_if_no_progress (with_reducible apply Keeps.upd)

theorem execPlanEntryWrite_keeps {r₀ s : State} (mid : BitVec 12) (entry : Word) (hk : Keeps r₀ s) :
    ∀ s', execPlanEntryWrite mid entry s = .next s' → Keeps r₀ s' := by
  unfold execPlanEntryWrite
  repeat' first
    | with_reducible assumption
    | with_reducible refine fun _ (_ : Keeps r₀ _) => ?_
    | with_reducible refine Keeps.next ?_
    | with_reducible apply State.regWrite_keeps
    | with_reducible apply State.planWrite_keeps
    | split

theorem State.planCmd_keeps {r₀ s : State} (commit copy : Bool) (r : Nat) (hk : Keeps r₀ s) :
    Keeps r₀ (s.planCmd commit copy r).1 := by
  unfold State.planCmd
  repeat' first
    | with_reducible assumption
    | (extract_lets +onlyGivenNames x; clear_value (ex : x = _); have hx : Keeps r₀ x := ?_)
    | (extract_lets +onlyGivenNames x; clear_value x)
    | with_reducible apply State.setFld_keeps
    | with_reducible refine Keeps.cast (by assumption) ?_
    | split
    | (extract_lets +onlyGivenNames x)
    | fail_if_no_progress (with_reducible apply Keeps.upd)

theorem execCommit_keeps {r₀ s : State} (mid : BitVec 12) (ring : Fin 64) (copyFirst : Bool) (hk : Keeps r₀ s) :
    ∀ s', execCommit mid ring copyFirst s = .next s' → Keeps r₀ s' := by
  unfold execCommit
  repeat' first
    | with_reducible assumption
    | with_reducible refine fun _ (_ : Keeps r₀ _) => ?_
    | with_reducible refine Keeps.next ?_
    | with_reducible apply State.regWrite_keeps
    | with_reducible apply State.planCmd_keeps
    | split

theorem execCopy_keeps {r₀ s : State} (mid : BitVec 12) (ring : Fin 64) (hk : Keeps r₀ s) :
    ∀ s', execCopy mid ring s = .next s' → Keeps r₀ s' := by
  unfold execCopy
  repeat' first
    | with_reducible assumption
    | with_reducible refine fun _ (_ : Keeps r₀ _) => ?_
    | with_reducible refine Keeps.next ?_
    | with_reducible apply State.regWrite_keeps
    | with_reducible apply State.planCmd_keeps
    | split

theorem State.flowStatuses_keeps {r₀ s : State} (hk : Keeps r₀ s) :
    Keeps r₀ (s.flowStatuses) := by
  unfold State.flowStatuses
  repeat' first
    | with_reducible assumption
    | intro _
    | with_reducible apply State.setFld_keeps
    | with_reducible apply Keeps.foldl

theorem State.dropTxn_keeps {r₀ s : State} (stop tag : Nat) (hk : Keeps r₀ s) :
    Keeps r₀ (s.dropTxn stop tag) := by
  unfold State.dropTxn
  repeat' first
    | with_reducible assumption
    | (extract_lets +onlyGivenNames x; clear_value x)
    | fail_if_no_progress (with_reducible apply Keeps.upd)

theorem State.mapTxn_keeps {r₀ s : State} (stop tag : Nat) (f : Txn → Txn) (hk : Keeps r₀ s) :
    Keeps r₀ (s.mapTxn stop tag f) := by
  unfold State.mapTxn
  repeat' first
    | with_reducible assumption
    | (extract_lets +onlyGivenNames x; clear_value x)
    | fail_if_no_progress (with_reducible apply Keeps.upd)

theorem State.insertTxn_keeps {r₀ s : State} (t : Txn) (hk : Keeps r₀ s) :
    Keeps r₀ (s.insertTxn t) := by
  unfold State.insertTxn
  repeat' first
    | with_reducible assumption
    | (extract_lets +onlyGivenNames x; clear_value (ex : x = _); have hx : Keeps r₀ x := ?_)
    | (extract_lets +onlyGivenNames x; clear_value x)
    | with_reducible apply State.setFld_keeps
    | with_reducible apply State.send_keeps
    | with_reducible apply State.mapTxn_keeps
    | with_reducible refine Keeps.cast (by assumption) ?_
    | split
    | (extract_lets +onlyGivenNames x)
    | fail_if_no_progress (with_reducible apply Keeps.upd)

theorem State.flowFree_keeps {r₀ s : State} (flow : Option Nat) (hk : Keeps r₀ s) :
    Keeps r₀ (s.flowFree flow) := by
  unfold State.flowFree
  repeat' first
    | with_reducible assumption
    | with_reducible apply State.setFld_keeps
    | with_reducible apply State.flowNext_keeps
    | split

theorem State.irspSend_keeps {r₀ s : State} (stop tag : Nat) (st : Status) (rsn : PoisonRsn) (late : Bool) (bs : List PByte) (hk : Keeps r₀ s) :
    Keeps r₀ (s.irspSend stop tag st rsn late bs) := by
  unfold State.irspSend
  repeat' first
    | with_reducible assumption
    | (extract_lets +onlyGivenNames x; clear_value (ex : x = _); have hx : Keeps r₀ x := ?_)
    | (extract_lets +onlyGivenNames x; clear_value x)
    | with_reducible apply State.send_keeps
    | with_reducible refine Keeps.cast (by assumption) ?_
    | split
    | (extract_lets +onlyGivenNames x)
    | fail_if_no_progress (with_reducible apply Keeps.upd)

theorem State.setFwall_keeps {r₀ s : State} (h : Nat) (f : FwlSt) (hk : Keeps r₀ s) :
    Keeps r₀ (s.setFwall h f) := by
  unfold State.setFwall
  repeat' first
    | with_reducible assumption
    | fail_if_no_progress (with_reducible apply Keeps.upd)

theorem State.xReturn_keeps {r₀ s : State} (stop tag : Nat) (st : Status) (rsn : PoisonRsn) (late : Bool) (imm : DWord) (data : List DataFlit) (hk : Keeps r₀ s) :
    Keeps r₀ (s.xReturn stop tag st rsn late imm data) := by
  unfold State.xReturn
  repeat' first
    | with_reducible assumption
    | (extract_lets +onlyGivenNames x; clear_value (ex : x = _); have hx : Keeps r₀ x := ?_)
    | (extract_lets +onlyGivenNames x; clear_value x)
    | with_reducible apply State.satInc_keeps
    | with_reducible apply State.send_keeps
    | with_reducible apply State.setFwall_keeps
    | with_reducible refine Keeps.cast (by assumption) ?_
    | split

theorem State.toInbox_keeps {r₀ s : State} (d : Delivered) (hk : Keeps r₀ s) :
    Keeps r₀ (s.toInbox d) := by
  unfold State.toInbox
  repeat' first
    | with_reducible assumption
    | (extract_lets +onlyGivenNames x; clear_value x)
    | split
    | fail_if_no_progress (with_reducible apply Keeps.upd)

theorem State.dropInbox_keeps {r₀ s : State} (stop tag : Nat) (hk : Keeps r₀ s) :
    Keeps r₀ (s.dropInbox stop tag) := by
  unfold State.dropInbox
  repeat' first
    | with_reducible assumption
    | (extract_lets +onlyGivenNames x; clear_value x)
    | fail_if_no_progress (with_reducible apply Keeps.upd)

theorem State.deliver_keeps {r₀ s : State} (stop tag : Nat) (st : Status) (rsn : PoisonRsn) (late peek : Bool) (imm : DWord) (data : List DataFlit) (bs : List PByte) (hk : Keeps r₀ s) :
    Keeps r₀ (s.deliver stop tag st rsn late peek imm data bs) := by
  unfold State.deliver
  repeat' first
    | with_reducible assumption
    | (extract_lets +onlyGivenNames x; clear_value (ex : x = _); have hx : Keeps r₀ x := ?_)
    | with_reducible apply State.send_keeps
    | with_reducible apply State.irspSend_keeps
    | with_reducible apply State.xReturn_keeps
    | with_reducible apply State.toInbox_keeps
    | with_reducible refine Keeps.cast (by assumption) ?_

theorem State.issue_keeps {r₀ s : State} (r : IssueReq) (hk : Keeps r₀ s) :
    Keeps r₀ (s.issue r) := by
  unfold State.issue
  repeat' first
    | with_reducible assumption
    | (extract_lets +onlyGivenNames x; clear_value (ex : x = _); have hx : Keeps r₀ x := ?_)
    | (extract_lets +onlyGivenNames x; clear_value x)
    | with_reducible apply State.insertTxn_keeps
    | with_reducible apply State.deliver_keeps
    | with_reducible refine Keeps.cast (by assumption) ?_
    | split
    | (extract_lets +onlyGivenNames x)
    | fail_if_no_progress (with_reducible apply Keeps.upd)

theorem State.lateRelease_keeps {r₀ s : State} (stop : Nat) (p : CplPkt) (hk : Keeps r₀ s) :
    Keeps r₀ (s.lateRelease stop p) := by
  unfold State.lateRelease
  repeat' first
    | with_reducible assumption
    | (extract_lets +onlyGivenNames x; clear_value x)
    | with_reducible apply State.satInc_keeps
    | split
    | (extract_lets +onlyGivenNames x)
    | fail_if_no_progress (with_reducible apply Keeps.upd)

theorem State.complete_keeps {r₀ s : State} (stop : Nat) (p : CplPkt) (hk : Keeps r₀ s) :
    Keeps r₀ (s.complete stop p) := by
  unfold State.complete
  repeat' first
    | with_reducible assumption
    | (extract_lets +onlyGivenNames x; clear_value (ex : x = _); have hx : Keeps r₀ x := ?_)
    | with_reducible apply State.satInc_keeps
    | with_reducible apply State.e2eRecord_keeps
    | with_reducible apply State.dropIncomplete_keeps
    | with_reducible apply State.holdIncomplete_keeps
    | with_reducible apply State.misdelivered_keeps
    | with_reducible apply State.dropTxn_keeps
    | with_reducible apply State.flowFree_keeps
    | with_reducible apply State.deliver_keeps
    | with_reducible apply State.lateRelease_keeps
    | with_reducible refine Keeps.cast (by assumption) ?_
    | split

theorem State.timedOut_keeps {r₀ s : State} (stop tag : Nat) (hk : Keeps r₀ s) :
    Keeps r₀ (s.timedOut stop tag) := by
  unfold State.timedOut
  repeat' first
    | with_reducible assumption
    | with_reducible apply State.dropTxn_keeps
    | with_reducible apply State.mapTxn_keeps
    | with_reducible apply State.deliver_keeps
    | split

theorem execTagRelease_keeps {r₀ s : State} (stop : Fin 512) (tag : Fin 8192) (hk : Keeps r₀ s) :
    ∀ s', execTagRelease stop tag s = .next s' → Keeps r₀ s' := by
  unfold execTagRelease
  repeat' first
    | with_reducible assumption
    | with_reducible refine Keeps.next ?_
    | (extract_lets +onlyGivenNames x; clear_value (ex : x = _); have hx : Keeps r₀ x := ?_)
    | (extract_lets +onlyGivenNames x; clear_value x)
    | with_reducible apply State.dropTxn_keeps
    | with_reducible apply State.flowFree_keeps
    | with_reducible refine Keeps.cast (by assumption) ?_
    | split
    | fail_if_no_progress (with_reducible apply Keeps.upd)

theorem execIncompleteTimeout_keeps {r₀ s : State} (stop src : Fin 512) (lane : Fin 4) (cls : TClass) (hk : Keeps r₀ s) :
    ∀ s', execIncompleteTimeout stop src lane cls s = .next s' → Keeps r₀ s' := by
  unfold execIncompleteTimeout
  repeat' first
    | with_reducible assumption
    | with_reducible refine Keeps.next ?_
    | with_reducible apply State.dropIncomplete_keeps

theorem State.flowsLost_keeps {r₀ s : State} (r : Nat) (hk : Keeps r₀ s) :
    Keeps r₀ (s.flowsLost r) := by
  unfold State.flowsLost
  repeat' first
    | with_reducible assumption
    | (extract_lets +onlyGivenNames x; clear_value x)
    | fail_if_no_progress (with_reducible apply Keeps.upd)

theorem execPlanActive_keeps {r₀ s : State} (hk : Keeps r₀ s) :
    ∀ s', execPlanActive s = .next s' → Keeps r₀ s' := by
  unfold execPlanActive
  repeat' first
    | with_reducible assumption
    | with_reducible refine Keeps.next ?_
    | (extract_lets +onlyGivenNames x; clear_value (ex : x = _); have hx : Keeps r₀ x := ?_)
    | (extract_lets +onlyGivenNames x; clear_value x)
    | with_reducible apply State.setFld_keeps
    | with_reducible apply State.flowStatuses_keeps
    | with_reducible apply State.flowsLost_keeps
    | with_reducible refine Keeps.cast (by assumption) ?_
    | split
    | (extract_lets +onlyGivenNames x)
    | fail_if_no_progress (with_reducible apply Keeps.upd)

theorem State.setLinkEnd_keeps {r₀ s : State} (n : Nat) (e : Bool) (x : LinkEnd) (hk : Keeps r₀ s) :
    Keeps r₀ (s.setLinkEnd n e x) := by
  unfold State.setLinkEnd
  repeat' first
    | with_reducible assumption
    | (extract_lets +onlyGivenNames x; clear_value x)
    | fail_if_no_progress (with_reducible apply Keeps.upd)

theorem State.sendGroup_keeps {r₀ s : State} (n : Nat) (e : Bool) (g : BitVec 352) (hk : Keeps r₀ s) :
    Keeps r₀ (s.sendGroup n e g) := by
  unfold State.sendGroup
  repeat' first
    | with_reducible assumption
    | (extract_lets +onlyGivenNames x; clear_value x)
    | with_reducible apply State.send_keeps
    | split
    | (extract_lets +onlyGivenNames x)
    | fail_if_no_progress (with_reducible apply Keeps.upd)

theorem State.linkSend_keeps {r₀ s : State} (n : Nat) (e : Bool) (body : BitVec 328) (hk : Keeps r₀ s) :
    Keeps r₀ (s.linkSend n e body) := by
  unfold State.linkSend
  repeat' first
    | with_reducible assumption
    | (extract_lets +onlyGivenNames x; clear_value x)
    | with_reducible apply State.setLinkEnd_keeps
    | with_reducible apply State.sendGroup_keeps

theorem State.checkSlot_keeps {r₀ s : State} (space ring : Nat) (x : RingSlot) (hdr : CodeErr) (pays : List CodeErr) (hk : Keeps r₀ s) :
    Keeps r₀ (s.checkSlot space ring x hdr pays).1 := by
  unfold State.checkSlot
  repeat' first
    | with_reducible assumption
    | (extract_lets +onlyGivenNames x; clear_value (ex : x = _); have hx : Keeps r₀ x := ?_)
    | (extract_lets +onlyGivenNames x; clear_value x)
    | with_reducible apply State.satAdd_keeps
    | with_reducible apply State.satInc_keeps
    | with_reducible apply State.dropInjected_keeps
    | with_reducible apply State.ringErr_keeps
    | with_reducible refine Keeps.cast (by assumption) ?_
    | split

theorem State.wholeReady_keeps {r₀ s : State} (f : RingFlit) (dir : Nat) (hk : Keeps r₀ s) :
    Keeps r₀ (s.wholeReady f dir) := by
  unfold State.wholeReady
  repeat' first
    | with_reducible assumption
    | (extract_lets +onlyGivenNames x; clear_value x)
    | split
    | fail_if_no_progress (with_reducible apply Keeps.upd)

theorem State.takeOff_keeps {r₀ s : State} (stop ring : Nat) (x : RingSlot) (hk : Keeps r₀ s) :
    Keeps r₀ (s.takeOff stop ring x).1 := by
  unfold State.takeOff
  repeat' first
    | with_reducible assumption
    | (extract_lets +onlyGivenNames x; clear_value x)
    | with_reducible apply State.send_keeps
    | with_reducible apply State.wait_keeps
    | with_reducible apply State.wholeReady_keeps
    | split

theorem State.countP_keeps {r₀ s : State} (stop : Nat) (p : SlotPass) (k : Pick) (borrowed : Bool) (hk : Keeps r₀ s) :
    Keeps r₀ (s.countP stop p k borrowed) := by
  unfold State.countP
  repeat' first
    | with_reducible assumption
    | (extract_lets +onlyGivenNames x; clear_value x)
    | split
    | fail_if_no_progress (with_reducible apply Keeps.upd)

theorem State.putOn_keeps {r₀ s : State} (stop : Nat) (p : SlotPass) (k : Pick) (borrowed : Bool) (x : RingSlot) (hk : Keeps r₀ s) :
    Keeps r₀ (s.putOn stop p k borrowed x).1 := by
  unfold State.putOn
  repeat' first
    | with_reducible assumption
    | (extract_lets +onlyGivenNames x; clear_value (ex : x = _); have hx : Keeps r₀ x := ?_)
    | (extract_lets +onlyGivenNames x; clear_value x)
    | with_reducible apply State.insertTxn_keeps
    | with_reducible refine Keeps.cast (by assumption) ?_
    | split
    | dsimp -zeta only
    | fail_if_no_progress (with_reducible apply Keeps.upd)

theorem State.fillSlot_keeps {r₀ s : State} (stop : Nat) (p : SlotPass) (x : RingSlot) (hk : Keeps r₀ s) :
    Keeps r₀ (s.fillSlot stop p x).1 := by
  unfold State.fillSlot
  repeat' first
    | with_reducible assumption
    | with_reducible apply State.countP_keeps
    | with_reducible apply State.putOn_keeps
    | split

theorem State.wireHit_keeps {r₀ s : State} (ring : Nat) (x : RingSlot) (hk : Keeps r₀ s) :
    Keeps r₀ (s.wireHit ring x).1 := by
  unfold State.wireHit
  repeat' first
    | with_reducible assumption
    | (extract_lets +onlyGivenNames x; clear_value x)
    | split
    | dsimp -zeta only
    | fail_if_no_progress (with_reducible apply Keeps.upd)

theorem State.slotOut_keeps {r₀ s : State} (stop : Option Nat) (p : SlotPass) (x : RingSlot) (cross : Option (Nat × Bool)) (hk : Keeps r₀ s) :
    Keeps r₀ (s.slotOut stop p x cross) := by
  unfold State.slotOut
  extract_lets r y q
  have hq : Keeps r₀ q.1 := by
    simp only [q]
    split
    · exact State.wireHit_keeps _ _ hk
    · exact hk
  split
  · exact State.setSlot_keeps _ _ _ _ (State.linkSend_keeps _ _ _ hq)
  · exact State.setSlot_keeps _ _ _ _ hq

theorem execFlitAtStop_keeps {r₀ s : State} (p : SlotPass) (hk : Keeps r₀ s) :
    ∀ s', execFlitAtStop p s = .next s' → Keeps r₀ s' := by
  unfold execFlitAtStop
  repeat' first
    | with_reducible assumption
    | with_reducible refine Keeps.next ?_
    | (extract_lets +onlyGivenNames x; clear_value (ex : x = _); have hx : Keeps r₀ x.1 := ?_)
    | (extract_lets +onlyGivenNames x; clear_value x)
    | with_reducible apply State.checkSlot_keeps
    | with_reducible apply State.takeOff_keeps
    | with_reducible apply State.fillSlot_keeps
    | with_reducible apply State.slotOut_keeps
    | with_reducible refine Keeps.cast1 (by assumption) ?_
    | split

theorem State.gateRequest_keeps {r₀ s : State} (stop : Nat) (p : ReqPkt) (hk : Keeps r₀ s) :
    Keeps r₀ (s.gateRequest stop p) := by
  unfold State.gateRequest
  repeat' first
    | with_reducible assumption
    | (extract_lets +onlyGivenNames x; clear_value x)
    | with_reducible apply State.send_keeps
    | with_reducible apply State.reply_keeps
    | split
    | (extract_lets +onlyGivenNames x)
    | fail_if_no_progress (with_reducible apply Keeps.upd)

theorem State.gateNext_keeps {r₀ s : State} (ld gate : Nat) (hk : Keeps r₀ s) :
    Keeps r₀ (s.gateNext ld gate) := by
  unfold State.gateNext
  repeat' first
    | with_reducible assumption
    | (extract_lets +onlyGivenNames x; clear_value x)
    | with_reducible apply State.gateRequest_keeps
    | split
    | (extract_lets +onlyGivenNames x)
    | fail_if_no_progress (with_reducible apply Keeps.upd)

theorem State.gateFlush_keeps {r₀ s : State} (la : Nat) (hk : Keeps r₀ s) :
    Keeps r₀ (s.gateFlush la) := by
  unfold State.gateFlush
  repeat' first
    | with_reducible assumption
    | intro _
    | (extract_lets +onlyGivenNames x; clear_value (ex : x = _); have hx : Keeps r₀ x := ?_)
    | (extract_lets +onlyGivenNames x; clear_value x)
    | with_reducible apply State.reply_keeps
    | with_reducible apply Keeps.foldl
    | with_reducible refine Keeps.cast (by assumption) ?_
    | (extract_lets +onlyGivenNames x)
    | fail_if_no_progress (with_reducible apply Keeps.upd)

theorem execTrsp_keeps {r₀ s : State} (ld : Fin 48) (gate : Fin 16) (m : TrspMsg) (hk : Keeps r₀ s) :
    ∀ s', execTrsp ld gate m s = .next s' → Keeps r₀ s' := by
  unfold execTrsp
  repeat' first
    | with_reducible assumption
    | with_reducible refine Keeps.next ?_
    | (extract_lets +onlyGivenNames x; clear_value (ex : x = _); have hx : Keeps r₀ x := ?_)
    | (extract_lets +onlyGivenNames x; clear_value x)
    | with_reducible apply State.reply_keeps
    | with_reducible apply State.gateNext_keeps
    | with_reducible refine Keeps.cast (by assumption) ?_
    | split
    | (extract_lets +onlyGivenNames x)
    | fail_if_no_progress (with_reducible apply Keeps.upd)

theorem execGateTreqTimeout_keeps {r₀ s : State} (ld : Fin 48) (gate : Fin 16) (htag : Fin 64) (hk : Keeps r₀ s) :
    ∀ s', execGateTreqTimeout ld gate htag s = .next s' → Keeps r₀ s' := by
  unfold execGateTreqTimeout
  repeat' first
    | with_reducible assumption
    | with_reducible refine Keeps.next ?_
    | (extract_lets +onlyGivenNames x; clear_value x)
    | with_reducible apply State.reply_keeps
    | split
    | (extract_lets +onlyGivenNames x)
    | fail_if_no_progress (with_reducible apply Keeps.upd)

theorem State.sigRefuse_keeps {r₀ s : State} (site gate peer : Nat) (hk : Keeps r₀ s) :
    Keeps r₀ (s.sigRefuse site gate peer) := by
  unfold State.sigRefuse
  repeat' first
    | with_reducible assumption
    | with_reducible apply State.setFld_keeps
    | with_reducible apply State.satInc_keeps

theorem execIreq_keeps {r₀ s : State} (ld : Fin 48) (gate : Fin 16) (tag : BitVec 13) (m : IreqMsg) (hk : Keeps r₀ s) :
    ∀ s', execIreq ld gate tag m s = .next s' → Keeps r₀ s' := by
  unfold execIreq
  repeat' first
    | with_reducible assumption
    | with_reducible refine Keeps.next ?_
    | (extract_lets +onlyGivenNames x; clear_value (ex : x = _); have hx : Keeps r₀ x := ?_)
    | (extract_lets +onlyGivenNames x; clear_value x)
    | with_reducible apply State.deliver_keeps
    | with_reducible apply State.issue_keeps
    | with_reducible apply State.sigRefuse_keeps
    | with_reducible refine Keeps.cast (by assumption) ?_
    | split
    | (extract_lets +onlyGivenNames x)
    | fail_if_no_progress (with_reducible apply Keeps.upd)

theorem State.dropStops_keeps {r₀ s : State} (p : Nat → Bool) (hk : Keeps r₀ s) :
    Keeps r₀ (s.dropStops p) := by
  unfold State.dropStops
  repeat' first
    | with_reducible assumption
    | intro _
    | (extract_lets +onlyGivenNames x; clear_value (ex : x = _); have hx : Keeps r₀ x := ?_)
    | (extract_lets +onlyGivenNames x; clear_value x)
    | with_reducible apply State.clearSlots_keeps
    | with_reducible apply State.flowFree_keeps
    | with_reducible apply Keeps.foldl
    | with_reducible refine Keeps.cast (by assumption) ?_
    | fail_if_no_progress (with_reducible apply Keeps.upd)

/-! ### Link -/

theorem State.linkErr_keeps {r₀ s : State} (n : Nat) (f : Fld) (sev : Nat) (inj : Bool) (hk : Keeps r₀ s) :
    Keeps r₀ (s.linkErr n f sev inj) := by
  unfold State.linkErr
  repeat' first
    | with_reducible assumption
    | with_reducible apply State.raise_keeps

theorem State.linkReplayed_keeps {r₀ s : State} (n : Nat) (hk : Keeps r₀ s) :
    Keeps r₀ (s.linkReplayed n) := by
  unfold State.linkReplayed
  repeat' first
    | with_reducible assumption
    | with_reducible apply State.satInc_keeps
    | with_reducible apply State.linkErr_keeps

theorem State.ringUpdate_keeps {r₀ s : State} (r : Nat) (hk : Keeps r₀ s) :
    Keeps r₀ (s.ringUpdate r) := by
  unfold State.ringUpdate
  repeat' first
    | with_reducible assumption
    | (extract_lets +onlyGivenNames x; clear_value (ex : x = _); have hx : Keeps r₀ x := ?_)
    | with_reducible apply State.setBit_keeps
    | with_reducible apply State.slowUpdate_keeps
    | with_reducible apply State.ringUp_keeps
    | with_reducible refine Keeps.cast (by assumption) ?_
    | split

theorem State.fenceOut_keeps {r₀ s : State} (h : Nat) (hk : Keeps r₀ s) :
    Keeps r₀ (s.fenceOut h) := by
  unfold State.fenceOut
  repeat' first
    | with_reducible assumption
    | intro _
    | (extract_lets +onlyGivenNames x; clear_value x)
    | with_reducible apply State.reply_keeps
    | with_reducible apply State.setFwall_keeps
    | with_reducible apply Keeps.foldl

theorem State.linkFollow_keeps {r₀ s : State} (n : Nat) (hk : Keeps r₀ s) :
    Keeps r₀ (s.linkFollow n) := by
  unfold State.linkFollow
  repeat' first
    | with_reducible assumption
    | intro _
    | with_reducible apply State.ringUpdate_keeps
    | with_reducible apply State.fenceOut_keeps
    | with_reducible apply Keeps.foldl
    | split

theorem State.slotOff_keeps {r₀ s : State} (n : Nat) (e : Bool) (lseq : Nat) (drop : Bool) (hk : Keeps r₀ s) :
    Keeps r₀ (s.slotOff n e lseq drop) := by
  unfold State.slotOff
  repeat' first
    | with_reducible assumption
    | (extract_lets +onlyGivenNames x; clear_value x)
    | fail_if_no_progress (with_reducible apply Keeps.upd)

theorem State.loseBuffer_keeps {r₀ s : State} (n : Nat) (e : Bool) (hk : Keeps r₀ s) :
    Keeps r₀ (s.loseBuffer n e) := by
  unfold State.loseBuffer
  repeat' first
    | with_reducible assumption
    | with_reducible apply State.clearSlots_keeps
    | with_reducible apply State.setLinkEnd_keeps

theorem State.replayPart_keeps {r₀ s : State} (n : Nat) (e peerReset : Bool) (groups : List (Nat × BitVec 328)) (hk : Keeps r₀ s) :
    Keeps r₀ (s.replayPart n e peerReset groups) := by
  unfold State.replayPart
  repeat' first
    | with_reducible assumption
    | intro _
    | (extract_lets +onlyGivenNames x; clear_value (ex : x = _); have hx : Keeps r₀ x := ?_)
    | (extract_lets +onlyGivenNames x; clear_value x)
    | with_reducible apply State.sendGroup_keeps
    | with_reducible apply State.linkErr_keeps
    | with_reducible apply State.linkReplayed_keeps
    | with_reducible apply Keeps.foldl
    | with_reducible refine Keeps.cast (by assumption) ?_
    | split

theorem State.linkReplay_keeps {r₀ s : State} (n : Nat) (e : Bool) (hk : Keeps r₀ s) :
    Keeps r₀ (s.linkReplay n e) := by
  unfold State.linkReplay
  repeat' first
    | with_reducible assumption
    | (extract_lets +onlyGivenNames x; clear_value (ex : x = _); have hx : Keeps r₀ x := ?_)
    | (extract_lets +onlyGivenNames x; clear_value x)
    | with_reducible apply State.replayPart_keeps
    | with_reducible refine Keeps.cast (by assumption) ?_
    | split

theorem State.linkAck_keeps {r₀ s : State} (n : Nat) (e : Bool) (hk : Keeps r₀ s) :
    Keeps r₀ (s.linkAck n e) := by
  unfold State.linkAck
  repeat' first
    | with_reducible assumption
    | (extract_lets +onlyGivenNames x; clear_value x)
    | with_reducible apply State.setLinkEnd_keeps
    | with_reducible apply State.sendGroup_keeps
    | split

theorem State.linkNak_keeps {r₀ s : State} (n : Nat) (e : Bool) (hk : Keeps r₀ s) :
    Keeps r₀ (s.linkNak n e) := by
  unfold State.linkNak
  repeat' first
    | with_reducible assumption
    | (extract_lets +onlyGivenNames x; clear_value x)
    | with_reducible apply State.setLinkEnd_keeps
    | with_reducible apply State.sendGroup_keeps

theorem State.linkLaneOk_keeps {r₀ s : State} (n : Nat) (hk : Keeps r₀ s) :
    Keeps r₀ (s.linkLaneOk n) := by
  unfold State.linkLaneOk
  repeat' first
    | with_reducible assumption
    | (extract_lets +onlyGivenNames x; clear_value x)
    | fail_if_no_progress (with_reducible apply Keeps.upd)

theorem State.linkRetrain_keeps {r₀ s : State} (n state : Nat) (hk : Keeps r₀ s) :
    Keeps r₀ (s.linkRetrain n state) := by
  unfold State.linkRetrain
  repeat' first
    | with_reducible assumption
    | (extract_lets +onlyGivenNames x; clear_value (ex : x = _); have hx : Keeps r₀ x := ?_)
    | (extract_lets +onlyGivenNames x; clear_value x)
    | with_reducible apply State.setFld_keeps
    | with_reducible apply State.linkFollow_keeps
    | with_reducible apply State.linkLaneOk_keeps
    | with_reducible refine Keeps.cast (by assumption) ?_
    | (extract_lets +onlyGivenNames x)
    | fail_if_no_progress (with_reducible apply Keeps.upd)

theorem execDataGroup_keeps {r₀ s : State} (link : Fin 131) (at1 : Bool) (group : BitVec 352) (hk : Keeps r₀ s) :
    ∀ s', execDataGroup link at1 group s = .next s' → Keeps r₀ s' := by
  unfold execDataGroup
  repeat' first
    | with_reducible assumption
    | with_reducible refine Keeps.next ?_
    | (extract_lets +onlyGivenNames x; clear_value (ex : x = _); have hx : Keeps r₀ x := ?_)
    | (extract_lets +onlyGivenNames x; clear_value x)
    | with_reducible apply State.satInc_keeps
    | with_reducible apply State.send_keeps
    | with_reducible apply State.dropInjected_keeps
    | with_reducible apply State.setLinkEnd_keeps
    | with_reducible apply State.linkErr_keeps
    | with_reducible apply State.slotOff_keeps
    | with_reducible apply State.linkAck_keeps
    | with_reducible apply State.linkNak_keeps
    | with_reducible refine Keeps.cast (by assumption) ?_
    | split

theorem execAck_keeps {r₀ s : State} (link : Fin 131) (at1 : Bool) (seq : Fin 128) (hk : Keeps r₀ s) :
    ∀ s', execAck link at1 seq s = .next s' → Keeps r₀ s' := by
  unfold execAck
  repeat' first
    | with_reducible assumption
    | with_reducible refine Keeps.next ?_
    | with_reducible apply State.setLinkEnd_keeps
    | split

theorem execNak_keeps {r₀ s : State} (link : Fin 131) (at1 : Bool) (seq : Fin 128) (hk : Keeps r₀ s) :
    ∀ s', execNak link at1 seq s = .next s' → Keeps r₀ s' := by
  unfold execNak
  repeat' first
    | with_reducible assumption
    | with_reducible refine Keeps.next ?_
    | with_reducible apply State.setLinkEnd_keeps
    | with_reducible apply State.linkReplay_keeps
    | with_reducible apply State.linkRetrain_keeps
    | split

theorem execReplay_keeps {r₀ s : State} (link : Fin 131) (at1 : Bool) (seq : Fin 128) (count : Fin 65) (peerReset : Bool) (hk : Keeps r₀ s) :
    ∀ s', execReplay link at1 seq count peerReset s = .next s' → Keeps r₀ s' := by
  unfold execReplay
  repeat' first
    | with_reducible assumption
    | with_reducible refine Keeps.next ?_
    | with_reducible apply State.setLinkEnd_keeps
    | with_reducible apply State.linkReplayed_keeps
    | split

theorem execAckTimer_keeps {r₀ s : State} (link : Fin 131) (at1 : Bool) (hk : Keeps r₀ s) :
    ∀ s', execAckTimer link at1 s = .next s' → Keeps r₀ s' := by
  unfold execAckTimer
  repeat' first
    | with_reducible assumption
    | with_reducible refine Keeps.next ?_
    | with_reducible apply State.linkAck_keeps
    | split

theorem execAckTimeout_keeps {r₀ s : State} (link : Fin 131) (at1 : Bool) (hk : Keeps r₀ s) :
    ∀ s', execAckTimeout link at1 s = .next s' → Keeps r₀ s' := by
  unfold execAckTimeout
  repeat' first
    | with_reducible assumption
    | with_reducible refine Keeps.next ?_
    | with_reducible apply State.linkRetrain_keeps
    | split

theorem execStrobeLoss_keeps {r₀ s : State} (link : Fin 131) (at1 : Bool) (hk : Keeps r₀ s) :
    ∀ s', execStrobeLoss link at1 s = .next s' → Keeps r₀ s' := by
  unfold execStrobeLoss
  repeat' first
    | with_reducible assumption
    | with_reducible refine Keeps.next ?_
    | (extract_lets +onlyGivenNames x; clear_value x)
    | with_reducible apply State.setLinkEnd_keeps
    | with_reducible apply State.linkRetrain_keeps
    | split

theorem State.setLinkMap_keeps {r₀ s : State} (n : Nat) (m : LinkMap) (hk : Keeps r₀ s) :
    Keeps r₀ (s.setLinkMap n m) := by
  unfold State.setLinkMap
  repeat' first
    | with_reducible assumption
    | (extract_lets +onlyGivenNames x; clear_value x)
    | fail_if_no_progress (with_reducible apply Keeps.upd)

theorem State.linkDown_keeps {r₀ s : State} (n rsn : Nat) (hk : Keeps r₀ s) :
    Keeps r₀ (s.linkDown n rsn) := by
  unfold State.linkDown
  repeat' first
    | with_reducible assumption
    | intro _
    | (extract_lets +onlyGivenNames x; clear_value (ex : x = _); have hx : Keeps r₀ x := ?_)
    | with_reducible apply State.setFld_keeps
    | with_reducible apply State.ringDown_keeps
    | with_reducible apply State.linkErr_keeps
    | with_reducible apply State.linkFollow_keeps
    | with_reducible apply Keeps.foldl
    | with_reducible refine Keeps.cast (by assumption) ?_
    | split

theorem execStrobesSeen_keeps {r₀ s : State} (link : Fin 131) (hk : Keeps r₀ s) :
    ∀ s', execStrobesSeen link s = .next s' → Keeps r₀ s' := by
  unfold execStrobesSeen
  repeat' first
    | with_reducible assumption
    | with_reducible refine Keeps.next ?_
    | with_reducible apply State.setFld_keeps
    | split

theorem execCalibrate_keeps {r₀ s : State} (link : Fin 131) (end0 end1 : LaneMarks) (silent : BitVec 4) (hk : Keeps r₀ s) :
    ∀ s', execCalibrate link end0 end1 silent s = .next s' → Keeps r₀ s' := by
  unfold execCalibrate
  repeat' first
    | with_reducible assumption
    | with_reducible refine Keeps.next ?_
    | (extract_lets +onlyGivenNames x; clear_value x)
    | with_reducible apply State.setFld_keeps
    | with_reducible apply State.setLinkMap_keeps
    | split

theorem execMap_keeps {r₀ s : State} (link : Fin 131) (at0 at1 : LaneMarks) (offer : LinkOffer) (hk : Keeps r₀ s) :
    ∀ s', execMap link at0 at1 offer s = .next s' → Keeps r₀ s' := by
  unfold execMap
  repeat' first
    | with_reducible assumption
    | with_reducible refine Keeps.next ?_
    | (extract_lets +onlyGivenNames x; clear_value x)
    | with_reducible apply State.setFld_keeps
    | with_reducible apply State.setLinkMap_keeps
    | with_reducible apply State.linkDown_keeps
    | split

theorem State.putLaneMap_keeps {r₀ s : State} (n : Nat) (u : BitVec 68 × BitVec 68) (hk : Keeps r₀ s) :
    Keeps r₀ (s.putLaneMap n u) := by
  unfold State.putLaneMap
  repeat' first
    | with_reducible assumption
    | intro _
    | with_reducible apply State.setCsr_keeps
    | with_reducible apply Keeps.foldl

theorem State.linkInService_keeps {r₀ s : State} (n state width rsn spares : Nat) (hk : Keeps r₀ s) :
    Keeps r₀ (s.linkInService n state width rsn spares) := by
  unfold State.linkInService
  repeat' first
    | with_reducible assumption
    | (extract_lets +onlyGivenNames x; clear_value (ex : x = _); have hx : Keeps r₀ x := ?_)
    | (extract_lets +onlyGivenNames x; clear_value (ex : x = _); refine_lift have hx : ∀ y a, Keeps r₀ y → Keeps r₀ (x y a) := ?_; ?_; rotate_left; focus (rw [ex]; intros))
    | (extract_lets +onlyGivenNames x; clear_value x)
    | with_reducible apply State.setFld_keeps
    | with_reducible apply State.setLinkEnd_keeps
    | with_reducible apply State.sendGroup_keeps
    | with_reducible apply State.linkErr_keeps
    | with_reducible apply State.linkFollow_keeps
    | with_reducible apply State.linkReplay_keeps
    | with_reducible apply State.setLinkMap_keeps
    | with_reducible refine Keeps.cast (by assumption) ?_
    | with_reducible apply_assumption -exfalso -symm
    | split
    | dsimp -zeta only

theorem execConfirm_keeps {r₀ s : State} (link : Fin 131) (hk : Keeps r₀ s) :
    ∀ s', execConfirm link s = .next s' → Keeps r₀ s' := by
  unfold execConfirm
  repeat' first
    | with_reducible assumption
    | with_reducible refine Keeps.next ?_
    | with_reducible apply State.linkDown_keeps
    | with_reducible apply State.putLaneMap_keeps
    | with_reducible apply State.linkInService_keeps
    | split

theorem execPeerAbsent_keeps {r₀ s : State} (link : Fin 131) (hk : Keeps r₀ s) :
    ∀ s', execPeerAbsent link s = .next s' → Keeps r₀ s' := by
  unfold execPeerAbsent
  repeat' first
    | with_reducible assumption
    | with_reducible refine Keeps.next ?_
    | with_reducible apply State.linkDown_keeps
    | split

theorem State.linkEndReset_keeps {r₀ s : State} (n : Nat) (e : Bool) (hk : Keeps r₀ s) :
    Keeps r₀ (s.linkEndReset n e) := by
  unfold State.linkEndReset
  repeat' first
    | with_reducible assumption
    | (extract_lets +onlyGivenNames x; clear_value (ex : x = _); have hx : Keeps r₀ x := ?_)
    | (extract_lets +onlyGivenNames x; clear_value x)
    | with_reducible apply State.setFld_keeps
    | with_reducible apply State.setLinkEnd_keeps
    | with_reducible apply State.linkFollow_keeps
    | with_reducible apply State.loseBuffer_keeps
    | with_reducible apply State.setLinkMap_keeps
    | with_reducible refine Keeps.cast (by assumption) ?_

theorem execPeerSideReset_keeps {r₀ s : State} (hub : Fin 2) (hk : Keeps r₀ s) :
    ∀ s', execPeerSideReset hub s = .next s' → Keeps r₀ s' := by
  unfold execPeerSideReset
  repeat' first
    | with_reducible assumption
    | with_reducible refine Keeps.next ?_
    | (extract_lets +onlyGivenNames x; clear_value x)
    | with_reducible apply State.setLinkEnd_keeps
    | with_reducible apply State.linkEndReset_keeps
    | split

theorem execRetrainAttempt_keeps {r₀ s : State} (link : Fin 131) (hk : Keeps r₀ s) :
    ∀ s', execRetrainAttempt link s = .next s' → Keeps r₀ s' := by
  unfold execRetrainAttempt
  repeat' first
    | with_reducible assumption
    | with_reducible refine Keeps.next ?_
    | with_reducible apply State.setFld_keeps
    | with_reducible apply State.linkRetrain_keeps
    | split

theorem State.linkCtlWrite_keeps {r₀ s : State} (n : Nat) (value : Word) (hk : Keeps r₀ s) :
    Keeps r₀ (s.linkCtlWrite n value).1 := by
  unfold State.linkCtlWrite
  repeat' first
    | with_reducible assumption
    | with_reducible apply State.setFld_keeps
    | with_reducible apply State.linkRetrain_keeps
    | split

theorem execRetrain_keeps {r₀ s : State} (mid : BitVec 12) (link : Fin 131) (hk : Keeps r₀ s) :
    ∀ s', execRetrain mid link s = .next s' → Keeps r₀ s' := by
  unfold execRetrain
  repeat' first
    | with_reducible assumption
    | with_reducible refine fun _ (_ : Keeps r₀ _) => ?_
    | with_reducible refine Keeps.next ?_
    | with_reducible apply State.regWrite_keeps
    | with_reducible apply State.linkCtlWrite_keeps
    | split

/-! ### Firewall -/

theorem State.fwlErr_keeps {r₀ s : State} (h : Nat) (f : Fld) (hk : Keeps r₀ s) :
    Keeps r₀ (s.fwlErr h f) := by
  unfold State.fwlErr
  repeat' first
    | with_reducible assumption
    | with_reducible apply State.raise_keeps

theorem State.fwlCtlWrite_keeps {r₀ s : State} (h : Nat) (value : Word) (hk : Keeps r₀ s) :
    Keeps r₀ (s.fwlCtlWrite h value) := by
  unfold State.fwlCtlWrite
  repeat' first
    | with_reducible assumption
    | (extract_lets +onlyGivenNames x; clear_value (ex : x = _); have hx : Keeps r₀ x := ?_)
    | (extract_lets +onlyGivenNames x; clear_value x)
    | with_reducible apply State.setFld_keeps
    | with_reducible apply State.fenceOut_keeps
    | with_reducible refine Keeps.cast (by assumption) ?_
    | split

theorem State.fwlWinWrite_keeps {r₀ s : State} (h w : Nat) (value : Word) (hk : Keeps r₀ s) :
    Keeps r₀ (s.fwlWinWrite h w value) := by
  unfold State.fwlWinWrite
  repeat' first
    | with_reducible assumption
    | (extract_lets +onlyGivenNames x; clear_value x)
    | with_reducible apply State.setCsr_keeps
    | with_reducible apply State.setFld_keeps
    | split

theorem State.autoFence_keeps {r₀ s : State} (h : Nat) (hk : Keeps r₀ s) :
    Keeps r₀ (s.autoFence h) := by
  unfold State.autoFence
  repeat' first
    | with_reducible assumption
    | with_reducible apply State.setFld_keeps
    | with_reducible apply State.fenceOut_keeps
    | with_reducible apply State.fwlErr_keeps
    | split

theorem State.fwlRefuse_keeps {r₀ s : State} (h : Nat) (x : XReq) (check w : Nat) (hk : Keeps r₀ s) :
    Keeps r₀ (s.fwlRefuse h x check w) := by
  unfold State.fwlRefuse
  repeat' first
    | with_reducible assumption
    | (extract_lets +onlyGivenNames x; clear_value (ex : x = _); have hx : Keeps r₀ x := ?_)
    | (extract_lets +onlyGivenNames x; clear_value x)
    | with_reducible apply State.setCsr_keeps
    | with_reducible apply State.setCsr64_keeps
    | with_reducible apply State.satInc_keeps
    | with_reducible apply State.send_keeps
    | with_reducible apply State.fwlErr_keeps
    | with_reducible apply State.autoFence_keeps
    | with_reducible refine Keeps.cast (by assumption) ?_
    | split

theorem State.fwlForward_keeps {r₀ s : State} (h w tag : Nat) (x : XReq) (hk : Keeps r₀ s) :
    Keeps r₀ (s.fwlForward h w tag x) := by
  unfold State.fwlForward
  repeat' first
    | with_reducible assumption
    | (extract_lets +onlyGivenNames x; clear_value (ex : x = _); have hx : Keeps r₀ x := ?_)
    | (extract_lets +onlyGivenNames x; clear_value x)
    | with_reducible apply State.setCsr_keeps
    | with_reducible apply State.setFwall_keeps
    | with_reducible apply State.issue_keeps
    | with_reducible refine Keeps.cast (by assumption) ?_
    | split

theorem State.fwlAdmit_keeps {r₀ s : State} (h tag : Nat) (x : XReq) (behind : Nat → Bool) (hk : Keeps r₀ s) :
    Keeps r₀ (s.fwlAdmit h tag x behind) := by
  unfold State.fwlAdmit
  repeat' first
    | with_reducible assumption
    | (extract_lets +onlyGivenNames x; clear_value (ex : x = _); refine_lift have hx : ∀ y a, Keeps r₀ y → Keeps r₀ (x y a) := ?_; ?_; rotate_left; focus (rw [ex]; intros))
    | (extract_lets +onlyGivenNames x; clear_value x)
    | with_reducible apply State.setFwall_keeps
    | with_reducible apply State.fwlErr_keeps
    | with_reducible apply State.fwlRefuse_keeps
    | with_reducible apply State.fwlForward_keeps
    | with_reducible apply_assumption -exfalso -symm
    | split

theorem execFwlInboundRequest_keeps {r₀ s : State} (hub : Fin 2) (tag : BitVec 13) (x : XReq) (hk : Keeps r₀ s) :
    ∀ s', execFwlInboundRequest hub tag x s = .next s' → Keeps r₀ s' := by
  unfold execFwlInboundRequest
  repeat' first
    | with_reducible assumption
    | with_reducible refine Keeps.next ?_
    | with_reducible apply State.fwlAdmit_keeps
    | split

theorem State.fwlDrain_keeps {r₀ s : State} (h : Nat) (x0 : List FwlIn) (hk : Keeps r₀ s) :
    Keeps r₀ (s.fwlDrain h x0) := by
  induction x0 generalizing s
  all_goals
    unfold State.fwlDrain
    repeat' first
      | with_reducible assumption
      | with_reducible apply State.fwlAdmit_keeps
      | with_reducible apply_assumption -exfalso -symm
      | split

theorem execFwlRateTick_keeps {r₀ s : State} (hub : Fin 2) (hk : Keeps r₀ s) :
    ∀ s', execFwlRateTick hub s = .next s' → Keeps r₀ s' := by
  unfold execFwlRateTick
  repeat' first
    | with_reducible assumption
    | with_reducible refine Keeps.next ?_
    | with_reducible apply State.setFwall_keeps
    | with_reducible apply State.fwlDrain_keeps

theorem State.fwlOutbound_keeps {r₀ s : State} (h xtag : Nat) (p : ReqPkt) (hk : Keeps r₀ s) :
    Keeps r₀ (s.fwlOutbound h xtag p) := by
  unfold State.fwlOutbound
  repeat' first
    | with_reducible assumption
    | (extract_lets +onlyGivenNames x; clear_value x)
    | with_reducible apply State.send_keeps
    | with_reducible apply State.reply_keeps
    | with_reducible apply State.setFwall_keeps
    | split

theorem State.fwlNext_keeps {r₀ s : State} (h : Nat) (hk : Keeps r₀ s) :
    Keeps r₀ (s.fwlNext h) := by
  unfold State.fwlNext
  repeat' first
    | with_reducible assumption
    | (extract_lets +onlyGivenNames x; clear_value x)
    | with_reducible apply State.setFwall_keeps
    | with_reducible apply State.fwlOutbound_keeps
    | split

theorem execFwlInboundCompletion_keeps {r₀ s : State} (hub : Fin 2) (x : XCpl) (hk : Keeps r₀ s) :
    ∀ s', execFwlInboundCompletion hub x s = .next s' → Keeps r₀ s' := by
  unfold execFwlInboundCompletion
  repeat' first
    | with_reducible assumption
    | with_reducible refine Keeps.next ?_
    | (extract_lets +onlyGivenNames x; clear_value x)
    | with_reducible apply State.reply_keeps
    | with_reducible apply State.setFwall_keeps
    | with_reducible apply State.fwlErr_keeps
    | with_reducible apply State.autoFence_keeps
    | with_reducible apply State.fwlNext_keeps
    | split

theorem State.fwlTake_keeps {r₀ s : State} (h : Nat) (xtag : Option Nat) (p : ReqPkt) (hk : Keeps r₀ s) :
    Keeps r₀ (s.fwlTake h xtag p) := by
  unfold State.fwlTake
  repeat' first
    | with_reducible assumption
    | (extract_lets +onlyGivenNames x; clear_value x)
    | with_reducible apply State.setFwall_keeps
    | with_reducible apply State.fwlOutbound_keeps
    | split

theorem execFwlOutboundRequest_keeps {r₀ s : State} (hub : Fin 2) (xtag : BitVec 13) (p : ReqPkt) (hk : Keeps r₀ s) :
    ∀ s', execFwlOutboundRequest hub xtag p s = .next s' → Keeps r₀ s' := by
  unfold execFwlOutboundRequest
  repeat' first
    | with_reducible assumption
    | with_reducible refine Keeps.next ?_
    | with_reducible apply State.arrive_keeps
    | with_reducible apply State.fwlTake_keeps
    | (with_reducible apply Keeps.snd; with_reducible assumption)
    | split

theorem execFence_keeps {r₀ s : State} (mid : BitVec 12) (hub : Fin 2) (value : Word) (hk : Keeps r₀ s) :
    ∀ s', execFence mid hub value s = .next s' → Keeps r₀ s' := by
  unfold execFence
  repeat' first
    | with_reducible assumption
    | with_reducible refine fun _ (_ : Keeps r₀ _) => ?_
    | with_reducible refine Keeps.next ?_
    | with_reducible apply levelSWrite_keeps
    | with_reducible apply State.fwlCtlWrite_keeps

theorem execBadWindow_keeps {r₀ s : State} (mid : BitVec 12) (hub : Fin 2) (window : Fin 64) (value : Word) (hk : Keeps r₀ s) :
    ∀ s', execBadWindow mid hub window value s = .next s' → Keeps r₀ s' := by
  unfold execBadWindow
  repeat' first
    | with_reducible assumption
    | with_reducible refine fun _ (_ : Keeps r₀ _) => ?_
    | with_reducible refine Keeps.next ?_
    | with_reducible apply levelSWrite_keeps
    | with_reducible apply State.fwlWinWrite_keeps

end Sys2Proof.Machine
end

