-- ==== Sys2Proof/Laws/KeepsMemory.lean ====
section
/-! SUPPORT. What every operation and meaning keeps (`Keeps`): the lifetime store, the DDR5 and CXL controllers, stacked SRAM and the counter tree. -/

namespace Sys2Proof.Machine

open Sys2Proof

set_option maxRecDepth 4000

/-! ### Lts -/

theorem State.ltsErr_keeps {r₀ s : State} (f : Fld) (copy phys : Nat) (hk : Keeps r₀ s) :
    Keeps r₀ (s.ltsErr f copy phys) := by
  unfold State.ltsErr
  repeat' first
    | with_reducible assumption
    | (extract_lets +onlyGivenNames x; clear_value x)
    | with_reducible apply State.setCsr_keeps
    | with_reducible apply State.raise_keeps

theorem State.ltsPut_keeps {r₀ s : State} (c lsn : Nat) (gen : Word) (src : LtsData) (hk : Keeps r₀ s) :
    Keeps r₀ (s.ltsPut c lsn gen src) := by
  unfold State.ltsPut
  repeat' first
    | with_reducible assumption
    | (extract_lets +onlyGivenNames x; clear_value (ex : x = _); have hx : Keeps r₀ x := ?_)
    | (extract_lets +onlyGivenNames x; clear_value x)
    | with_reducible apply State.ltsErr_keeps
    | with_reducible refine Keeps.cast (by assumption) ?_
    | split
    | (extract_lets +onlyGivenNames x)
    | fail_if_no_progress (with_reducible apply Keeps.upd)

theorem State.ltsWrite_keeps {r₀ s : State} (lsn : Nat) (hk : Keeps r₀ s) :
    Keeps r₀ (s.ltsWrite lsn) := by
  unfold State.ltsWrite
  repeat' first
    | with_reducible assumption
    | (extract_lets +onlyGivenNames x; clear_value (ex : x = _); have hx : Keeps r₀ x := ?_)
    | (extract_lets +onlyGivenNames x; clear_value x)
    | with_reducible apply State.ltsPut_keeps
    | with_reducible refine Keeps.cast (by assumption) ?_
    | split
    | fail_if_no_progress (with_reducible apply Keeps.upd)

theorem State.ltsFlush_keeps {r₀ s : State} (hk : Keeps r₀ s) :
    Keeps r₀ (s.ltsFlush) := by
  unfold State.ltsFlush
  repeat' first
    | with_reducible assumption
    | intro _
    | (extract_lets +onlyGivenNames x; clear_value x)
    | with_reducible apply State.ltsWrite_keeps
    | with_reducible apply Keeps.foldl
    | split
    | (extract_lets +onlyGivenNames x)
    | fail_if_no_progress (with_reducible apply Keeps.upd)

theorem State.ltsRecover_keeps {r₀ s : State} (bad : List Nat) (lsn : Nat) (hk : Keeps r₀ s) :
    Keeps r₀ (s.ltsRecover bad lsn) := by
  unfold State.ltsRecover
  repeat' first
    | with_reducible assumption
    | (extract_lets +onlyGivenNames x; clear_value (ex : x = _); have hx : Keeps r₀ x := ?_)
    | (extract_lets +onlyGivenNames x; clear_value x)
    | with_reducible apply State.ltsErr_keeps
    | with_reducible apply State.ltsPut_keeps
    | with_reducible refine Keeps.cast (by assumption) ?_
    | split
    | (extract_lets +onlyGivenNames x)
    | fail_if_no_progress (with_reducible apply Keeps.upd)

theorem State.ltsLoad_keeps {r₀ s : State} (bad : List Nat) (hk : Keeps r₀ s) :
    Keeps r₀ (s.ltsLoad bad) := by
  unfold State.ltsLoad
  repeat' first
    | with_reducible assumption
    | intro _
    | (extract_lets +onlyGivenNames x; clear_value (ex : x = _); have hx : Keeps r₀ x := ?_)
    | (extract_lets +onlyGivenNames x; clear_value x)
    | with_reducible apply State.ltsRecover_keeps
    | with_reducible apply Keeps.foldl
    | with_reducible refine Keeps.cast (by assumption) ?_
    | fail_if_no_progress (with_reducible apply Keeps.upd)

theorem State.ltsReload_keeps {r₀ s : State} (bad : List Nat) (hk : Keeps r₀ s) :
    Keeps r₀ (s.ltsReload bad) := by
  unfold State.ltsReload
  repeat' first
    | with_reducible assumption
    | intro _
    | (extract_lets +onlyGivenNames x; clear_value (ex : x = _); have hx : Keeps r₀ x := ?_)
    | (extract_lets +onlyGivenNames x; clear_value x)
    | with_reducible apply State.ltsFlush_keeps
    | with_reducible apply State.ltsRecover_keeps
    | with_reducible apply Keeps.foldl
    | with_reducible refine Keeps.cast (by assumption) ?_
    | fail_if_no_progress (with_reducible apply Keeps.upd)

theorem State.setFwUnit_keeps {r₀ s : State} (u : Nat) (v : FwUnit) (hk : Keeps r₀ s) :
    Keeps r₀ (s.setFwUnit u v) := by
  unfold State.setFwUnit
  repeat' first
    | with_reducible assumption
    | (extract_lets +onlyGivenNames x; clear_value x)
    | fail_if_no_progress (with_reducible apply Keeps.upd)

/-! ### Dmc -/

theorem State.setDmc_keeps {r₀ s : State} (ch : Nat) (d : DmcSt) (hk : Keeps r₀ s) :
    Keeps r₀ (s.setDmc ch d) := by
  unfold State.setDmc
  repeat' first
    | with_reducible assumption
    | (extract_lets +onlyGivenNames x; clear_value x)
    | fail_if_no_progress (with_reducible apply Keeps.upd)

theorem State.setRank_keeps {r₀ s : State} (ch k st : Nat) (hk : Keeps r₀ s) :
    Keeps r₀ (s.setRank ch k st) := by
  unfold State.setRank
  repeat' first
    | with_reducible assumption
    | with_reducible apply State.setFld_keeps

theorem State.setDram_keeps {r₀ s : State} (k : Nat) (b : Burst) (hk : Keeps r₀ s) :
    Keeps r₀ (s.setDram k b) := by
  unfold State.setDram
  repeat' first
    | with_reducible assumption
    | (extract_lets +onlyGivenNames x; clear_value x)
    | with_reducible apply State.dropInjected_keeps
    | (extract_lets +onlyGivenNames x)
    | fail_if_no_progress (with_reducible apply Keeps.upd)

theorem State.dmcErr_keeps {r₀ s : State} (ch : Nat) (f : Fld) (sev : Nat) (inj : Bool) (hk : Keeps r₀ s) :
    Keeps r₀ (s.dmcErr ch f sev inj) := by
  unfold State.dmcErr
  repeat' first
    | with_reducible assumption
    | (extract_lets +onlyGivenNames x; clear_value x)
    | with_reducible apply State.raise_keeps

theorem State.dmcLoc_keeps {r₀ s : State} (l : LineLoc) (k kind dev : Nat) (hk : Keeps r₀ s) :
    Keeps r₀ (s.dmcLoc l k kind dev) := by
  unfold State.dmcLoc
  repeat' first
    | with_reducible assumption
    | (extract_lets +onlyGivenNames x; clear_value x)
    | with_reducible apply State.setCsr64_keeps
    | split

theorem State.serviceRow_keeps {r₀ s : State} (ch sc k ba : Nat) (hk : Keeps r₀ s) :
    Keeps r₀ (s.serviceRow ch sc k ba) := by
  unfold State.serviceRow
  repeat' first
    | with_reducible assumption
    | (extract_lets +onlyGivenNames x; clear_value x)
    | with_reducible apply State.send_keeps
    | with_reducible apply State.setDmc_keeps
    | split

theorem State.activate_keeps {r₀ s : State} (k : Nat) (l : LineLoc) (hk : Keeps r₀ s) :
    Keeps r₀ (s.activate k l) := by
  unfold State.activate
  repeat' first
    | with_reducible assumption
    | (extract_lets +onlyGivenNames x; clear_value (ex : x = _); have hx : Keeps r₀ x := ?_)
    | (extract_lets +onlyGivenNames x; clear_value x)
    | with_reducible apply State.setDmc_keeps
    | with_reducible apply State.serviceRow_keeps
    | with_reducible refine Keeps.cast (by assumption) ?_

theorem State.bankAccess_keeps {r₀ s : State} (k : Nat) (l : LineLoc) (hk : Keeps r₀ s) :
    Keeps r₀ (s.bankAccess k l) := by
  unfold State.bankAccess
  repeat' first
    | with_reducible assumption
    | (extract_lets +onlyGivenNames x; clear_value (ex : x = _); have hx : Keeps r₀ x := ?_)
    | (extract_lets +onlyGivenNames x; clear_value x)
    | with_reducible apply State.setDmc_keeps
    | with_reducible apply State.activate_keeps
    | with_reducible refine Keeps.cast (by assumption) ?_
    | split

theorem execRowIdleClose_keeps {r₀ s : State} (ch : Fin 4) (sc : Fin 2) (rank : Fin 4) (bank : Fin 32) (hk : Keeps r₀ s) :
    ∀ s', execRowIdleClose ch sc rank bank s = .next s' → Keeps r₀ s' := by
  unfold execRowIdleClose
  repeat' first
    | with_reducible assumption
    | with_reducible refine Keeps.next ?_
    | with_reducible apply State.setDmc_keeps
    | split

theorem execDrfmsb_keeps {r₀ s : State} (ch : Fin 4) (sc : Fin 2) (rank ba : Fin 4) (hk : Keeps r₀ s) :
    ∀ s', execDrfmsb ch sc rank ba s = .next s' → Keeps r₀ s' := by
  unfold execDrfmsb
  repeat' first
    | with_reducible assumption
    | with_reducible refine Keeps.next ?_
    | with_reducible apply State.serviceRow_keeps

theorem State.saveRanks_keeps {r₀ s : State} (ch : Nat) (hk : Keeps r₀ s) :
    Keeps r₀ (s.saveRanks ch) := by
  unfold State.saveRanks
  repeat' first
    | with_reducible assumption
    | (extract_lets +onlyGivenNames x; clear_value x)
    | fail_if_no_progress (with_reducible apply Keeps.upd)

theorem State.saveMig_keeps {r₀ s : State} (ch : Nat) (w : Word) (hk : Keeps r₀ s) :
    Keeps r₀ (s.saveMig ch w) := by
  unfold State.saveMig
  repeat' first
    | with_reducible assumption
    | (extract_lets +onlyGivenNames x; clear_value x)
    | fail_if_no_progress (with_reducible apply Keeps.upd)

theorem State.migBegin_keeps {r₀ s : State} (ch src tgt : Nat) (hk : Keeps r₀ s) :
    Keeps r₀ (s.migBegin ch src tgt) := by
  unfold State.migBegin
  repeat' first
    | with_reducible assumption
    | (extract_lets +onlyGivenNames x; clear_value (ex : x = _); have hx : Keeps r₀ x := ?_)
    | (extract_lets +onlyGivenNames x; clear_value x)
    | with_reducible apply State.setCsr_keeps
    | with_reducible apply State.setFld_keeps
    | with_reducible apply State.ltsWrite_keeps
    | with_reducible apply State.setRank_keeps
    | with_reducible apply State.saveMig_keeps
    | with_reducible refine Keeps.cast (by assumption) ?_

theorem State.migStart_keeps {r₀ s : State} (ch src : Nat) (hk : Keeps r₀ s) :
    Keeps r₀ (s.migStart ch src) := by
  unfold State.migStart
  repeat' first
    | with_reducible assumption
    | (extract_lets +onlyGivenNames x; clear_value x)
    | with_reducible apply State.setRank_keeps
    | with_reducible apply State.dmcErr_keeps
    | with_reducible apply State.migBegin_keeps
    | split

theorem State.migTrigger_keeps {r₀ s : State} (ch k : Nat) (hk : Keeps r₀ s) :
    Keeps r₀ (s.migTrigger ch k) := by
  unfold State.migTrigger
  repeat' first
    | with_reducible assumption
    | (extract_lets +onlyGivenNames x; clear_value x)
    | with_reducible apply State.setDmc_keeps
    | with_reducible apply State.migStart_keeps
    | split

theorem State.migNext_keeps {r₀ s : State} (ch : Nat) (x0 : List Nat) (hk : Keeps r₀ s) :
    Keeps r₀ (s.migNext ch x0) := by
  induction x0 generalizing s
  all_goals
    unfold State.migNext
    repeat' first
      | with_reducible assumption
      | (extract_lets +onlyGivenNames x; clear_value x)
      | with_reducible apply State.setDmc_keeps
      | with_reducible apply State.migTrigger_keeps
      | with_reducible apply_assumption -exfalso -symm
      | split

theorem State.migEnd_keeps {r₀ s : State} (ch st : Nat) (hk : Keeps r₀ s) :
    Keeps r₀ (s.migEnd ch st) := by
  unfold State.migEnd
  repeat' first
    | with_reducible assumption
    | (extract_lets +onlyGivenNames x; clear_value (ex : x = _); have hx : Keeps r₀ x := ?_)
    | with_reducible apply State.setFld_keeps
    | with_reducible apply State.ltsWrite_keeps
    | with_reducible apply State.saveMig_keeps
    | with_reducible refine Keeps.cast (by assumption) ?_

theorem State.migFinish_keeps {r₀ s : State} (ch : Nat) (hk : Keeps r₀ s) :
    Keeps r₀ (s.migFinish ch) := by
  unfold State.migFinish
  repeat' first
    | with_reducible assumption
    | (extract_lets +onlyGivenNames x; clear_value (ex : x = _); have hx : Keeps r₀ x := ?_)
    | (extract_lets +onlyGivenNames x; clear_value x)
    | with_reducible apply State.setFld_keeps
    | with_reducible apply State.setRank_keeps
    | with_reducible apply State.dmcErr_keeps
    | with_reducible apply State.saveRanks_keeps
    | with_reducible apply State.migNext_keeps
    | with_reducible apply State.migEnd_keeps
    | with_reducible refine Keeps.cast (by assumption) ?_
    | split

theorem State.migAbort_keeps {r₀ s : State} (ch : Nat) (hk : Keeps r₀ s) :
    Keeps r₀ (s.migAbort ch) := by
  unfold State.migAbort
  repeat' first
    | with_reducible assumption
    | intro _
    | (extract_lets +onlyGivenNames x; clear_value (ex : x = _); have hx : Keeps r₀ x := ?_)
    | (extract_lets +onlyGivenNames x; clear_value x)
    | with_reducible apply State.setRank_keeps
    | with_reducible apply State.dmcErr_keeps
    | with_reducible apply State.migBegin_keeps
    | with_reducible apply State.migNext_keeps
    | with_reducible apply State.migEnd_keeps
    | with_reducible apply Keeps.elim
    | with_reducible refine Keeps.cast (by assumption) ?_

theorem State.caMeet_keeps {r₀ s : State} (k : Nat) (l : LineLoc) (hk : Keeps r₀ s) :
    Keeps r₀ (s.caMeet k l).2 := by
  unfold State.caMeet
  repeat' first
    | with_reducible assumption
    | (extract_lets +onlyGivenNames x; clear_value (ex : x = _); have hx : Keeps r₀ x := ?_)
    | (extract_lets +onlyGivenNames x; clear_value x)
    | with_reducible apply State.satAdd_keeps
    | with_reducible apply State.satInc_keeps
    | with_reducible apply State.setDmc_keeps
    | with_reducible apply State.dmcErr_keeps
    | with_reducible apply State.dmcLoc_keeps
    | with_reducible apply State.migTrigger_keeps
    | with_reducible refine Keeps.cast (by assumption) ?_
    | split

theorem State.rankRead_keeps {r₀ s : State} (k : Nat) (l : LineLoc) (code : LineCode) (hk : Keeps r₀ s) :
    Keeps r₀ (s.rankRead k l code).2.2 := by
  unfold State.rankRead
  repeat' first
    | with_reducible assumption
    | (extract_lets +onlyGivenNames x; clear_value (ex : x = _); have hx : Keeps r₀ x := ?_)
    | (extract_lets +onlyGivenNames x; clear_value x)
    | with_reducible apply State.satInc_keeps
    | with_reducible apply State.dropInjected_keeps
    | with_reducible apply State.setDram_keeps
    | with_reducible apply State.dmcErr_keeps
    | with_reducible apply State.dmcLoc_keeps
    | with_reducible apply State.migTrigger_keeps
    | with_reducible refine Keeps.cast (by assumption) ?_
    | split

theorem State.serveRead_keeps {r₀ s : State} (k : Nat) (l : LineLoc) (code : LineCode) (hk : Keeps r₀ s) :
    Keeps r₀ (s.serveRead k l code).2.2 := by
  unfold State.serveRead
  repeat' first
    | with_reducible assumption
    | (extract_lets +onlyGivenNames x; clear_value (ex : x = _); have hx : Keeps r₀ x.2.2 := ?_)
    | with_reducible apply State.bankAccess_keeps
    | with_reducible apply State.rankRead_keeps
    | with_reducible refine Keeps.cast3 (by assumption) ?_
    | split

theorem State.readNow_keeps {r₀ s : State} (h a : Nat) (code : LineCode) (hk : Keeps r₀ s) :
    Keeps r₀ (s.readNow h a code).2 := by
  unfold State.readNow
  repeat' first
    | with_reducible assumption
    | (extract_lets +onlyGivenNames x; clear_value (ex : x = _); have hx : Keeps r₀ x.2 := ?_)
    | with_reducible apply State.free_keeps
    | with_reducible apply State.caMeet_keeps
    | with_reducible apply State.serveRead_keeps
    | with_reducible refine Keeps.cast2 (by assumption) ?_
    | (with_reducible apply Keeps.snd; with_reducible assumption)
    | split

theorem State.rankWrite_keeps {r₀ s : State} (k : Nat) (l : LineLoc) (b : Burst) (hk : Keeps r₀ s) :
    Keeps r₀ (s.rankWrite k l b).2 := by
  unfold State.rankWrite
  repeat' first
    | with_reducible assumption
    | with_reducible apply State.setDram_keeps
    | with_reducible apply State.bankAccess_keeps
    | with_reducible apply State.caMeet_keeps
    | (with_reducible apply Keeps.snd; with_reducible assumption)
    | split

theorem State.putLine_keeps {r₀ s : State} (k : Nat) (l : LineLoc) (b : Burst) (hk : Keeps r₀ s) :
    Keeps r₀ (s.putLine k l b).2 := by
  unfold State.putLine
  repeat' first
    | with_reducible assumption
    | (extract_lets +onlyGivenNames x; clear_value (ex : x = _); have hx : Keeps r₀ x.2 := ?_)
    | with_reducible apply State.migAbort_keeps
    | with_reducible apply State.rankWrite_keeps
    | with_reducible refine Keeps.cast2 (by assumption) ?_
    | (with_reducible apply Keeps.snd; with_reducible assumption)
    | split

theorem State.writeNow_keeps {r₀ s : State} (h : Nat) (w : LineWrite) (hk : Keeps r₀ s) :
    Keeps r₀ (s.writeNow h w).2 := by
  unfold State.writeNow
  repeat' first
    | with_reducible assumption
    | (extract_lets +onlyGivenNames x; clear_value (ex : x = _); have hx : Keeps r₀ x.2 := ?_)
    | (extract_lets +onlyGivenNames x; clear_value (ex : x = _); have hx : Keeps r₀ x.2.2 := ?_)
    | (extract_lets +onlyGivenNames x; clear_value x)
    | with_reducible apply State.caMeet_keeps
    | with_reducible apply State.serveRead_keeps
    | with_reducible apply State.putLine_keeps
    | with_reducible refine Keeps.cast2 (by assumption) ?_
    | with_reducible refine Keeps.cast3 (by assumption) ?_
    | (with_reducible apply Keeps.snd; with_reducible assumption)
    | split

theorem State.dmcMark_keeps {r₀ s : State} (h a : Nat) (data : Line) (code : LineCode) (hk : Keeps r₀ s) :
    Keeps r₀ (s.dmcMark h a data code) := by
  unfold State.dmcMark
  repeat' first
    | with_reducible assumption
    | with_reducible apply State.putLine_keeps
    | split

theorem State.showUrgent_keeps {r₀ s : State} (ch : Nat) (hk : Keeps r₀ s) :
    Keeps r₀ (s.showUrgent ch) := by
  unfold State.showUrgent
  repeat' first
    | with_reducible assumption
    | with_reducible apply State.setBit_keeps

theorem State.issueRefsb_keeps {r₀ s : State} (ch sc rank ba : Nat) (hk : Keeps r₀ s) :
    Keeps r₀ (s.issueRefsb ch sc rank ba) := by
  unfold State.issueRefsb
  repeat' first
    | with_reducible assumption
    | (extract_lets +onlyGivenNames x; clear_value x)
    | with_reducible apply State.send_keeps
    | with_reducible apply State.setDmc_keeps
    | with_reducible apply State.showUrgent_keeps

theorem State.setDmcQueue_keeps {r₀ s : State} (ch sc : Nat) (q : List DmcReq) (hk : Keeps r₀ s) :
    Keeps r₀ (s.setDmcQueue ch sc q) := by
  unfold State.setDmcQueue
  repeat' first
    | with_reducible assumption
    | (extract_lets +onlyGivenNames x; clear_value x)
    | with_reducible apply State.setDmc_keeps

theorem answerLine_keeps {r₀ : State} (h a : Nat) (r : LineRes × State) (hr : Keeps r₀ r.2) :
    Keeps r₀ (answerLine h a r) := by
  unfold answerLine
  repeat' first
    | with_reducible assumption
    | with_reducible apply State.send_keeps

theorem answerStored_keeps {r₀ : State} (h a : Nat) (r : Status × State) (hr : Keeps r₀ r.2) :
    Keeps r₀ (answerStored h a r) := by
  unfold answerStored
  repeat' first
    | with_reducible assumption
    | with_reducible apply State.send_keeps

theorem State.serveReq_keeps {r₀ s : State} (h : Nat) (r : DmcReq) (hk : Keeps r₀ s) :
    Keeps r₀ (s.serveReq h r) := by
  unfold State.serveReq
  repeat' first
    | with_reducible assumption
    | with_reducible apply State.readNow_keeps
    | with_reducible apply State.writeNow_keeps
    | with_reducible apply answerLine_keeps
    | with_reducible apply answerStored_keeps
    | split

theorem State.dmcDo_keeps {r₀ s : State} (ch sc : Nat) (x0 : DmcPick) (hk : Keeps r₀ s) :
    Keeps r₀ (s.dmcDo ch sc x0) := by
  unfold State.dmcDo
  repeat' first
    | with_reducible assumption
    | with_reducible apply State.issueRefsb_keeps
    | with_reducible apply State.setDmcQueue_keeps
    | with_reducible apply State.serveReq_keeps
    | split

theorem State.dmcSlots_keeps {r₀ s : State} (ch sc x0 : Nat) (hk : Keeps r₀ s) :
    Keeps r₀ (s.dmcSlots ch sc x0) := by
  induction x0 generalizing s
  all_goals
    unfold State.dmcSlots
    repeat' first
      | with_reducible assumption
      | with_reducible apply State.dmcDo_keeps
      | with_reducible apply_assumption -exfalso -symm
      | split

theorem State.dmcAhead_keeps {r₀ s : State} (ch sc : Nat) (r : DmcReq) (x0 : Nat) (hk : Keeps r₀ s) :
    Keeps r₀ (s.dmcAhead ch sc r x0) := by
  induction x0 generalizing s
  all_goals
    unfold State.dmcAhead
    repeat' first
      | with_reducible assumption
      | (extract_lets +onlyGivenNames x; clear_value x)
      | with_reducible apply State.dmcDo_keeps
      | with_reducible apply_assumption -exfalso -symm
      | split

theorem State.flushLine_keeps {r₀ s : State} (ch sc line : Nat) (hk : Keeps r₀ s) :
    Keeps r₀ (s.flushLine ch sc line) := by
  unfold State.flushLine
  repeat' first
    | with_reducible assumption
    | intro _
    | (extract_lets +onlyGivenNames x; clear_value (ex : x = _); have hx : Keeps r₀ x := ?_)
    | (extract_lets +onlyGivenNames x; clear_value x)
    | with_reducible apply State.setDmcQueue_keeps
    | with_reducible apply State.serveReq_keeps
    | with_reducible apply Keeps.foldl
    | with_reducible refine Keeps.cast (by assumption) ?_

theorem State.readQueued_keeps {r₀ s : State} (l : LineLoc) (line : Nat) (hk : Keeps r₀ s) :
    Keeps r₀ (s.readQueued l line).2 := by
  unfold State.readQueued
  repeat' first
    | with_reducible assumption
    | (extract_lets +onlyGivenNames x; clear_value x)
    | with_reducible apply State.flushLine_keeps
    | split

theorem State.dmcClock_keeps {r₀ s : State} (ch now : Nat) (hk : Keeps r₀ s) :
    Keeps r₀ (s.dmcClock ch now) := by
  unfold State.dmcClock
  repeat' first
    | with_reducible assumption
    | (extract_lets +onlyGivenNames x; clear_value x)
    | with_reducible apply State.setDmc_keeps

theorem State.dmcRead_keeps {r₀ s : State} (h a : Nat) (code : LineCode) (hk : Keeps r₀ s) :
    Keeps r₀ (s.dmcRead h a code).2 := by
  unfold State.dmcRead
  repeat' first
    | with_reducible assumption
    | with_reducible apply State.readNow_keeps
    | with_reducible apply State.dmcAhead_keeps
    | with_reducible apply State.readQueued_keeps
    | (with_reducible apply Keeps.snd; with_reducible assumption)
    | split

theorem State.dmcWrite_keeps {r₀ s : State} (h : Nat) (w : LineWrite) (hk : Keeps r₀ s) :
    Keeps r₀ (s.dmcWrite h w).2 := by
  unfold State.dmcWrite
  repeat' first
    | with_reducible assumption
    | with_reducible apply State.writeNow_keeps
    | with_reducible apply State.dmcAhead_keeps
    | split

theorem State.dmcAbandon_keeps {r₀ s : State} (ch : Nat) (hk : Keeps r₀ s) :
    Keeps r₀ (s.dmcAbandon ch) := by
  unfold State.dmcAbandon
  repeat' first
    | with_reducible assumption
    | intro _
    | (extract_lets +onlyGivenNames x; clear_value (ex : x = _); refine_lift have hx : ∀ y a, Keeps r₀ y → Keeps r₀ (x y a) := ?_; ?_; rotate_left; focus (rw [ex]; intros))
    | with_reducible apply State.send_keeps
    | with_reducible apply State.setDmcQueue_keeps
    | with_reducible apply Keeps.foldl
    | with_reducible apply_assumption -exfalso -symm

theorem State.flipDram_keeps {r₀ s : State} (h a : Nat) (flips : Burst) (hk : Keeps r₀ s) :
    Keeps r₀ (s.flipDram h a flips) := by
  unfold State.flipDram
  repeat' first
    | with_reducible assumption
    | (extract_lets +onlyGivenNames x; clear_value x)
    | split
    | fail_if_no_progress (with_reducible apply Keeps.upd)

theorem State.dmcArrive_keeps {r₀ s : State} (l : LineLoc) (r : DmcReq) (slots : Nat) (hk : Keeps r₀ s) :
    Keeps r₀ (s.dmcArrive l r slots) := by
  unfold State.dmcArrive
  repeat' first
    | with_reducible assumption
    | (extract_lets +onlyGivenNames x; clear_value (ex : x = _); have hx : Keeps r₀ x := ?_)
    | (extract_lets +onlyGivenNames x; clear_value x)
    | with_reducible apply State.setDmcQueue_keeps
    | with_reducible apply State.dmcSlots_keeps
    | with_reducible apply State.dmcAhead_keeps
    | with_reducible refine Keeps.cast (by assumption) ?_
    | split

theorem execDmcLineRead_keeps {r₀ s : State} (hub : Fin 2) (addr : BitVec 48) (light : Bool) (flips : BitVec 640) (cls : TClass) (now slots : Nat) (hk : Keeps r₀ s) :
    ∀ s', execDmcLineRead hub addr light flips cls now slots s = .next s' → Keeps r₀ s' := by
  unfold execDmcLineRead
  repeat' first
    | with_reducible assumption
    | with_reducible refine Keeps.next ?_
    | with_reducible apply State.readNow_keeps
    | with_reducible apply answerLine_keeps
    | with_reducible apply State.dmcSlots_keeps
    | with_reducible apply State.readQueued_keeps
    | with_reducible apply State.dmcClock_keeps
    | with_reducible apply State.flipDram_keeps
    | with_reducible apply State.dmcArrive_keeps
    | (with_reducible apply Keeps.snd; with_reducible assumption)
    | split

theorem State.dmcStore_keeps {r₀ s : State} (h : Nat) (w : LineWrite) (now slots : Nat) (hk : Keeps r₀ s) :
    Keeps r₀ (s.dmcStore h w now slots) := by
  unfold State.dmcStore
  repeat' first
    | with_reducible assumption
    | with_reducible apply State.writeNow_keeps
    | with_reducible apply answerStored_keeps
    | with_reducible apply State.dmcClock_keeps
    | with_reducible apply State.dmcArrive_keeps
    | split

theorem execDmcLineWrite_keeps {r₀ s : State} (hub : Fin 2) (w : LineWrite) (now slots : Nat) (hk : Keeps r₀ s) :
    ∀ s', execDmcLineWrite hub w now slots s = .next s' → Keeps r₀ s' := by
  unfold execDmcLineWrite
  repeat' first
    | with_reducible assumption
    | with_reducible refine Keeps.next ?_
    | with_reducible apply State.dmcStore_keeps
    | split

theorem execReadModifyWrite_keeps {r₀ s : State} (hub : Fin 2) (w : LineWrite) (now slots : Nat) (hk : Keeps r₀ s) :
    ∀ s', execReadModifyWrite hub w now slots s = .next s' → Keeps r₀ s' := by
  unfold execReadModifyWrite
  repeat' first
    | with_reducible assumption
    | with_reducible refine Keeps.next ?_
    | with_reducible apply State.dmcStore_keeps
    | split

theorem execRefreshInterval_keeps {r₀ s : State} (ch : Fin 4) (hk : Keeps r₀ s) :
    ∀ s', execRefreshInterval ch s = .next s' → Keeps r₀ s' := by
  unfold execRefreshInterval
  repeat' first
    | with_reducible assumption
    | with_reducible refine Keeps.next ?_
    | with_reducible apply State.setDmc_keeps
    | with_reducible apply State.showUrgent_keeps
    | split

theorem execRefsb_keeps {r₀ s : State} (ch : Fin 4) (sc : Fin 2) (rank ba : Fin 4) (hk : Keeps r₀ s) :
    ∀ s', execRefsb ch sc rank ba s = .next s' → Keeps r₀ s' := by
  unfold execRefsb
  repeat' first
    | with_reducible assumption
    | with_reducible refine Keeps.next ?_
    | with_reducible apply State.issueRefsb_keeps
    | split

theorem execMr4Read_keeps {r₀ s : State} (ch : Fin 4) (double : Bool) (hk : Keeps r₀ s) :
    ∀ s', execMr4Read ch double s = .next s' → Keeps r₀ s' := by
  unfold execMr4Read
  repeat' first
    | with_reducible assumption
    | with_reducible refine Keeps.next ?_
    | (extract_lets +onlyGivenNames x; clear_value x)
    | with_reducible apply State.setDmc_keeps
    | split

theorem execCaRetry_keeps {r₀ s : State} (ch rank : Fin 4) (persist : Bool) (cmd : CaCommand) (hk : Keeps r₀ s) :
    ∀ s', execCaRetry ch rank persist cmd s = .next s' → Keeps r₀ s' := by
  unfold execCaRetry
  repeat' first
    | with_reducible assumption
    | with_reducible refine Keeps.next ?_
    | (extract_lets +onlyGivenNames x; clear_value x)
    | with_reducible apply State.setDmc_keeps
    | with_reducible apply State.readNow_keeps
    | with_reducible apply State.writeNow_keeps
    | with_reducible apply answerLine_keeps
    | with_reducible apply answerStored_keeps
    | split

theorem State.migCtlWrite_keeps {r₀ s : State} (ch : Nat) (value : Word) (hk : Keeps r₀ s) :
    Keeps r₀ (s.migCtlWrite ch value) := by
  unfold State.migCtlWrite
  repeat' first
    | with_reducible assumption
    | (extract_lets +onlyGivenNames x; clear_value (ex : x = _); have hx : Keeps r₀ x := ?_)
    | (extract_lets +onlyGivenNames x; clear_value x)
    | with_reducible apply State.setFld_keeps
    | with_reducible apply State.migTrigger_keeps
    | with_reducible refine Keeps.cast (by assumption) ?_
    | split

theorem execStart_keeps {r₀ s : State} (mid : BitVec 12) (ch : Fin 4) (value : Word) (hk : Keeps r₀ s) :
    ∀ s', execStart mid ch value s = .next s' → Keeps r₀ s' := by
  unfold execStart
  repeat' first
    | with_reducible assumption
    | with_reducible refine fun _ (_ : Keeps r₀ _) => ?_
    | with_reducible refine Keeps.next ?_
    | with_reducible apply levelSWrite_keeps
    | with_reducible apply State.migCtlWrite_keeps

theorem State.migCopy_keeps {r₀ s : State} (ch : Nat) (flips : Burst) (hk : Keeps r₀ s) : Keeps r₀ (s.migCopy ch flips) := by
  unfold State.migCopy
  extract_lets +onlyGivenNames h c src tgt n la l code key src0 s0
  have h0 : Keeps r₀ s0 := by
    simp -zeta only [s0]
    split
    · exact hk
    · exact Keeps.upd hk
  extract_lets +onlyGivenNames r o ue
  have hr : Keeps r₀ r.2 := State.caMeet_keeps _ _ h0
  have hu : ∀ t, Keeps r₀ t → Keeps r₀ (ue t) := fun t ht => State.satAdd_keeps _ _ ht
  extract_lets +onlyGivenNames put
  have hp : Keeps r₀ put.2 := by
    simp -zeta only [put]
    split
    · exact hu _ hr
    · split
      · exact hr
      · exact hr
      · exact hr
      · exact hu _ hr
  extract_lets w
  have hw : Keeps r₀ w.2 := State.rankWrite_keeps _ _ _ (State.bankAccess_keeps _ _ hp)
  split
  · exact State.migAbort_keeps _ hw
  · split
    · exact State.setCsr_keeps _ _ hw
    · exact State.migFinish_keeps _ hw

theorem execMigrationLineCopy_keeps {r₀ s : State} (ch : Fin 4) (flips : BitVec 640) (hk : Keeps r₀ s) :
    ∀ s', execMigrationLineCopy ch flips s = .next s' → Keeps r₀ s' := by
  unfold execMigrationLineCopy
  repeat' first
    | with_reducible assumption
    | with_reducible refine Keeps.next ?_
    | with_reducible apply State.migCopy_keeps
    | split

theorem State.dmcSleep_keeps {r₀ s : State} (h : Nat) (hk : Keeps r₀ s) :
    Keeps r₀ (s.dmcSleep h) := by
  unfold State.dmcSleep
  repeat' first
    | with_reducible assumption
    | intro _
    | (extract_lets +onlyGivenNames x; clear_value (ex : x = _); have hx : Keeps r₀ x := ?_)
    | (extract_lets +onlyGivenNames x; clear_value x)
    | with_reducible apply State.setFld_keeps
    | with_reducible apply State.setDmc_keeps
    | with_reducible apply State.dmcAbandon_keeps
    | with_reducible apply Keeps.foldl
    | with_reducible refine Keeps.cast (by assumption) ?_
    | split

theorem State.dropRank_keeps {r₀ s : State} (ch k : Nat) (hk : Keeps r₀ s) :
    Keeps r₀ (s.dropRank ch k) := by
  unfold State.dropRank
  repeat' first
    | with_reducible assumption
    | (extract_lets +onlyGivenNames x; clear_value x)
    | fail_if_no_progress (with_reducible apply Keeps.upd)

theorem State.migResume_keeps {r₀ s : State} (ch : Nat) (powerOn : Bool) (hk : Keeps r₀ s) :
    Keeps r₀ (s.migResume ch powerOn) := by
  unfold State.migResume
  repeat' first
    | with_reducible assumption
    | (extract_lets +onlyGivenNames x; clear_value (ex : x = _); have hx : Keeps r₀ x := ?_)
    | (extract_lets +onlyGivenNames x; clear_value x)
    | with_reducible apply State.setFld_keeps
    | with_reducible apply State.ltsWrite_keeps
    | with_reducible apply State.setRank_keeps
    | with_reducible apply State.saveRanks_keeps
    | with_reducible apply State.saveMig_keeps
    | with_reducible apply State.migBegin_keeps
    | with_reducible refine Keeps.cast (by assumption) ?_
    | split

theorem State.dmcTrain_keeps {r₀ s : State} (ch : Nat) (bcr : Word) (t : ChanTrain) (powerOn : Bool) (hk : Keeps r₀ s) :
    Keeps r₀ (s.dmcTrain ch bcr t powerOn).2 := by
  unfold State.dmcTrain
  extract_lets +onlyGivenNames h c
  split
  · exact State.setFld_keeps _ _ (State.setCsr_keeps _ _ hk)
  · extract_lets +onlyGivenNames src s1
    have h1 : Keeps r₀ s1 := State.setDmc_keeps _ _ (State.setCsr_keeps _ _ hk)
    extract_lets +onlyGivenNames pop retired ok s2
    have h2 : Keeps r₀ s2 := Keeps.foldl h1 fun t k ht => State.setRank_keeps _ _ _ (State.setCsr_keeps _ _ ht)
    extract_lets +onlyGivenNames s3
    clear_value (ex : s3 = _)
    have h3 : Keeps r₀ s3 := Keeps.cast ex (Keeps.ite (State.dmcErr_keeps _ _ _ _ h2) h2)
    generalize placeRanks (s.liveRanks ch) ok (s1.fld (DMC_GEOM_ACTIVE_RANKS h c)) 0 [] = o
    cases o with
    | none => exact State.setFld_keeps _ _ h3
    | some places =>
      dsimp -zeta only [Option.elim]
      extract_lets +onlyGivenNames s4
      have h4 : Keeps r₀ s4 := by
        refine Keeps.foldl h3 fun t x ht => ?_
        have hx := State.setFld_keeps (DMC_RANK_LRANK h c x.2) x.1 (State.setRank_keeps ch x.2 1 ht)
        extract_lets t1
        split
        · split
          · exact hx
          · exact State.dropRank_keeps _ _ hx
        · exact hx
      extract_lets
      exact State.migResume_keeps _ _ (State.setFld_keeps _ _ (State.setFld_keeps _ _ (State.setFld_keeps _ _ h4)))

/-! ### Cxl -/

theorem State.setCxlOuts_keeps {r₀ s : State} (port : Nat) (l : List CxlOut) (hk : Keeps r₀ s) :
    Keeps r₀ (s.setCxlOuts port l) := by
  unfold State.setCxlOuts
  repeat' first
    | with_reducible assumption
    | (extract_lets +onlyGivenNames x; clear_value x)
    | fail_if_no_progress (with_reducible apply Keeps.upd)

theorem State.setCxlPhys_keeps {r₀ s : State} (port n : Nat) (hk : Keeps r₀ s) :
    Keeps r₀ (s.setCxlPhys port n) := by
  unfold State.setCxlPhys
  repeat' first
    | with_reducible assumption
    | (extract_lets +onlyGivenNames x; clear_value x)
    | fail_if_no_progress (with_reducible apply Keeps.upd)

theorem State.cxlErr_keeps {r₀ s : State} (port : Nat) (f : Fld) (sev : Nat) (hk : Keeps r₀ s) :
    Keeps r₀ (s.cxlErr port f sev) := by
  unfold State.cxlErr
  repeat' first
    | with_reducible assumption
    | with_reducible apply State.raise_keeps

theorem State.cxlFlush_keeps {r₀ s : State} (port : Nat) (hk : Keeps r₀ s) :
    Keeps r₀ (s.cxlFlush port) := by
  unfold State.cxlFlush
  repeat' first
    | with_reducible assumption
    | intro _
    | with_reducible apply State.send_keeps
    | with_reducible apply State.setCxlOuts_keeps
    | with_reducible apply Keeps.foldl

theorem State.cxlFence_keeps {r₀ s : State} (port : Nat) (hk : Keeps r₀ s) :
    Keeps r₀ (s.cxlFence port) := by
  unfold State.cxlFence
  repeat' first
    | with_reducible assumption
    | with_reducible apply State.setFld_keeps
    | with_reducible apply State.cxlFlush_keeps

theorem State.cxlPoison_keeps {r₀ s : State} (port : Nat) (hk : Keeps r₀ s) :
    Keeps r₀ (s.cxlPoison port) := by
  unfold State.cxlPoison
  repeat' first
    | with_reducible assumption
    | with_reducible apply State.satInc_keeps
    | with_reducible apply State.cxlErr_keeps

theorem State.cxlRead_keeps {r₀ s : State} (h a : Nat) (hk : Keeps r₀ s) :
    Keeps r₀ (s.cxlRead h a).2 := by
  unfold State.cxlRead
  repeat' first
    | with_reducible assumption
    | (extract_lets +onlyGivenNames x; clear_value (ex : x = _); have hx : Keeps r₀ x := ?_)
    | (extract_lets +onlyGivenNames x; clear_value x)
    | with_reducible apply State.send_keeps
    | with_reducible apply State.cxlPoison_keeps
    | with_reducible refine Keeps.cast (by assumption) ?_
    | split

theorem State.cxlWrite_keeps {r₀ s : State} (h : Nat) (w : LineWrite) (hk : Keeps r₀ s) :
    Keeps r₀ (s.cxlWrite h w).2 := by
  unfold State.cxlWrite
  repeat' first
    | with_reducible assumption
    | (extract_lets +onlyGivenNames x; clear_value (ex : x = _); have hx : Keeps r₀ x := ?_)
    | (extract_lets +onlyGivenNames x; clear_value x)
    | with_reducible apply State.send_keeps
    | with_reducible refine Keeps.cast (by assumption) ?_
    | split
    | dsimp -zeta only
    | (extract_lets +onlyGivenNames x)
    | fail_if_no_progress (with_reducible apply Keeps.upd)

theorem execCxlRequest_keeps {r₀ s : State} (hub : Fin 2) (tag : BitVec 16) (read : Bool) (w : LineWrite) (hk : Keeps r₀ s) :
    ∀ s', execCxlRequest hub tag read w s = .next s' → Keeps r₀ s' := by
  unfold execCxlRequest
  repeat' first
    | with_reducible assumption
    | with_reducible refine Keeps.next ?_
    | with_reducible apply State.send_keeps
    | with_reducible apply State.setCxlOuts_keeps
    | split

theorem execDrs_keeps {r₀ s : State} (port : Fin 4) (tag : BitVec 16) (poison : Bool) (data : Line) (hk : Keeps r₀ s) :
    ∀ s', execDrs port tag poison data s = .next s' → Keeps r₀ s' := by
  unfold execDrs
  repeat' first
    | with_reducible assumption
    | with_reducible refine Keeps.next ?_
    | (extract_lets +onlyGivenNames x; clear_value (ex : x = _); have hx : Keeps r₀ x := ?_)
    | with_reducible apply State.satInc_keeps
    | with_reducible apply State.send_keeps
    | with_reducible apply State.setCxlOuts_keeps
    | with_reducible apply State.cxlErr_keeps
    | with_reducible apply State.cxlPoison_keeps
    | with_reducible refine Keeps.cast (by assumption) ?_
    | split

theorem execCxlLinkDown_keeps {r₀ s : State} (port : Fin 4) (ide : Bool) (hk : Keeps r₀ s) :
    ∀ s', execCxlLinkDown port ide s = .next s' → Keeps r₀ s' := by
  unfold execCxlLinkDown
  repeat' first
    | with_reducible assumption
    | with_reducible refine Keeps.next ?_
    | (extract_lets +onlyGivenNames x; clear_value (ex : x = _); have hx : Keeps r₀ x := ?_)
    | with_reducible apply State.setFld_keeps
    | with_reducible apply State.setCxlPhys_keeps
    | with_reducible apply State.cxlErr_keeps
    | with_reducible apply State.cxlFence_keeps
    | with_reducible refine Keeps.cast (by assumption) ?_
    | split

theorem State.cxlTrained_keeps {r₀ s : State} (port : Nat) (t : CxlTrain) (hk : Keeps r₀ s) :
    Keeps r₀ (s.cxlTrained port t) := by
  unfold State.cxlTrained
  repeat' first
    | with_reducible assumption
    | (extract_lets +onlyGivenNames x; clear_value (ex : x = _); have hx : Keeps r₀ x := ?_)
    | (extract_lets +onlyGivenNames x; clear_value x)
    | with_reducible apply State.setFld_keeps
    | with_reducible apply State.setBit_keeps
    | with_reducible apply State.setCxlPhys_keeps
    | with_reducible apply State.cxlErr_keeps
    | with_reducible refine Keeps.cast (by assumption) ?_
    | split
    | (extract_lets +onlyGivenNames x)

theorem State.cxlTrain_keeps {r₀ s : State} (port : Nat) (hk : Keeps r₀ s) :
    Keeps r₀ (s.cxlTrain port) := by
  unfold State.cxlTrain
  repeat' first
    | with_reducible assumption
    | (extract_lets +onlyGivenNames x; clear_value (ex : x = _); have hx : Keeps r₀ x := ?_)
    | with_reducible apply State.setFld_keeps
    | with_reducible apply State.setCxlPhys_keeps
    | with_reducible apply State.cxlFlush_keeps
    | with_reducible refine Keeps.cast (by assumption) ?_
    | split

theorem State.cxlCtlWrite_keeps {r₀ s : State} (port : Nat) (value : Word) (hk : Keeps r₀ s) :
    Keeps r₀ (s.cxlCtlWrite port value) := by
  unfold State.cxlCtlWrite
  repeat' first
    | with_reducible assumption
    | (extract_lets +onlyGivenNames x; clear_value (ex : x = _); have hx : Keeps r₀ x := ?_)
    | (extract_lets +onlyGivenNames x; clear_value x)
    | with_reducible apply State.setFld_keeps
    | with_reducible apply State.cxlFence_keeps
    | with_reducible apply State.cxlTrain_keeps
    | with_reducible refine Keeps.cast (by assumption) ?_
    | split

theorem execCxlEn_keeps {r₀ s : State} (mid : BitVec 12) (port : Fin 4) (value : Option Word) (t : CxlTrain) (hk : Keeps r₀ s) :
    ∀ s', execCxlEn mid port value t s = .next s' → Keeps r₀ s' := by
  unfold execCxlEn
  repeat' first
    | with_reducible assumption
    | with_reducible refine fun _ (_ : Keeps r₀ _) => ?_
    | with_reducible refine Keeps.next ?_
    | (extract_lets +onlyGivenNames x; clear_value (ex : x = _); have hx : Keeps r₀ x := ?_)
    | (extract_lets +onlyGivenNames x; clear_value x)
    | with_reducible apply levelSWrite_keeps
    | with_reducible apply State.cxlTrained_keeps
    | with_reducible apply State.cxlCtlWrite_keeps
    | with_reducible refine Keeps.cast (by assumption) ?_
    | split

theorem execCxlFenceClear_keeps {r₀ s : State} (mid : BitVec 12) (port : Fin 4) (value : Word) (hk : Keeps r₀ s) :
    ∀ s', execCxlFenceClear mid port value s = .next s' → Keeps r₀ s' := by
  unfold execCxlFenceClear
  repeat' first
    | with_reducible assumption
    | with_reducible refine fun _ (_ : Keeps r₀ _) => ?_
    | with_reducible refine Keeps.next ?_
    | with_reducible apply levelSWrite_keeps
    | with_reducible apply State.cxlCtlWrite_keeps

/-! ### Sram -/

theorem State.setMpe_keeps {r₀ s : State} (h : Nat) (m : MpeSt) (hk : Keeps r₀ s) :
    Keeps r₀ (s.setMpe h m) := by
  unfold State.setMpe
  repeat' first
    | with_reducible assumption
    | (extract_lets +onlyGivenNames x; clear_value x)
    | fail_if_no_progress (with_reducible apply Keeps.upd)

theorem State.mpeErr_keeps {r₀ s : State} (h : Nat) (f : Fld) (sev : Nat) (inj : Bool) (hk : Keeps r₀ s) :
    Keeps r₀ (s.mpeErr h f sev inj) := by
  unfold State.mpeErr
  repeat' first
    | with_reducible assumption
    | with_reducible apply State.raise_keeps

theorem State.mpeLoc_keeps {r₀ s : State} (h a r kind level : Nat) (hk : Keeps r₀ s) :
    Keeps r₀ (s.mpeLoc h a r kind level) := by
  unfold State.mpeLoc
  repeat' first
    | with_reducible assumption
    | with_reducible apply State.setCsr64_keeps

theorem State.setHolders_keeps {r₀ s : State} (h a : Nat) (b : BitVec 5) (hk : Keeps r₀ s) :
    Keeps r₀ (s.setHolders h a b) := by
  unfold State.setHolders
  repeat' first
    | with_reducible assumption
    | (extract_lets +onlyGivenNames x; clear_value x)
    | fail_if_no_progress (with_reducible apply Keeps.upd)

theorem State.invalidate_keeps {r₀ s : State} (h a : Nat) (hk : Keeps r₀ s) :
    Keeps r₀ (s.invalidate h a) := by
  unfold State.invalidate
  repeat' first
    | with_reducible assumption
    | (extract_lets +onlyGivenNames x; clear_value x)
    | with_reducible apply State.setHolders_keeps
    | (extract_lets +onlyGivenNames x)
    | fail_if_no_progress (with_reducible apply Keeps.upd)

theorem State.memRead_keeps {r₀ s : State} (h a : Nat) (code : LineCode) (hk : Keeps r₀ s) :
    Keeps r₀ (s.memRead h a code).2 := by
  unfold State.memRead
  repeat' first
    | with_reducible assumption
    | with_reducible apply State.dmcRead_keeps
    | with_reducible apply State.cxlRead_keeps
    | split

theorem State.memWrite_keeps {r₀ s : State} (h a : Nat) (mask : DWord) (data : Line) (mac : DWord) (poison : Bool) (code : LineCode) (hk : Keeps r₀ s) :
    Keeps r₀ (s.memWrite h a mask data mac poison code).2 := by
  unfold State.memWrite
  repeat' first
    | with_reducible assumption
    | (extract_lets +onlyGivenNames x; clear_value x)
    | with_reducible apply State.dmcWrite_keeps
    | with_reducible apply State.cxlWrite_keeps
    | split

theorem State.memPut_keeps {r₀ s : State} (h a : Nat) (data : Line) (mac : DWord) (code : LineCode) (hk : Keeps r₀ s) :
    Keeps r₀ (s.memPut h a data mac code).2 := by
  unfold State.memPut
  repeat' first
    | with_reducible assumption
    | with_reducible apply State.memWrite_keeps

theorem State.memMark_keeps {r₀ s : State} (h a : Nat) (data : Line) (code : LineCode) (hk : Keeps r₀ s) :
    Keeps r₀ (s.memMark h a data code) := by
  unfold State.memMark
  repeat' first
    | with_reducible assumption
    | with_reducible apply State.dmcMark_keeps
    | with_reducible apply State.memWrite_keeps
    | split

theorem State.setSram_keeps {r₀ s : State} (h n : Nat) (b : Burst) (hk : Keeps r₀ s) :
    Keeps r₀ (s.setSram h n b) := by
  unfold State.setSram
  repeat' first
    | with_reducible assumption
    | (extract_lets +onlyGivenNames x; clear_value x)
    | with_reducible apply State.dropInjected_keeps
    | (extract_lets +onlyGivenNames x)
    | fail_if_no_progress (with_reducible apply Keeps.upd)

theorem State.sramPut_keeps {r₀ s : State} (h n : Nat) (l : Line) (hk : Keeps r₀ s) :
    Keeps r₀ (s.sramPut h n l) := by
  unfold State.sramPut
  repeat' first
    | with_reducible assumption
    | with_reducible apply State.setSram_keeps

theorem State.sramRead_keeps {r₀ s : State} (h n : Nat) (user : Bool) (hk : Keeps r₀ s) :
    Keeps r₀ (s.sramRead h n user).2 := by
  unfold State.sramRead
  repeat' first
    | with_reducible assumption
    | (extract_lets +onlyGivenNames x; clear_value (ex : x = _); have hx : Keeps r₀ x := ?_)
    | (extract_lets +onlyGivenNames x; clear_value x)
    | with_reducible apply State.mpeErr_keeps
    | with_reducible apply State.mpeLoc_keeps
    | with_reducible apply State.setSram_keeps
    | with_reducible apply State.sramPut_keeps
    | with_reducible refine Keeps.cast (by assumption) ?_
    | split

theorem State.noteMajor_keeps {r₀ s : State} (h r a major : Nat) (hk : Keeps r₀ s) :
    Keeps r₀ (s.noteMajor h r a major) := by
  unfold State.noteMajor
  repeat' first
    | with_reducible assumption
    | (extract_lets +onlyGivenNames x; clear_value (ex : x = _); have hx : Keeps r₀ x := ?_)
    | (extract_lets +onlyGivenNames x; clear_value x)
    | with_reducible apply State.setCsr_keeps
    | with_reducible apply State.setFld_keeps
    | with_reducible apply State.setMpe_keeps
    | with_reducible apply State.mpeErr_keeps
    | with_reducible refine Keeps.cast (by assumption) ?_
    | split

/-! ### Tree -/

theorem State.cachePut_keeps {r₀ s : State} (h r lv k : Nat) (n : Line) (dirty : Bool) (hk : Keeps r₀ s) :
    Keeps r₀ (s.cachePut h r lv k n dirty) := by
  unfold State.cachePut
  repeat' first
    | with_reducible assumption
    | (extract_lets +onlyGivenNames x; clear_value x)
    | with_reducible apply State.setMpe_keeps
    | split

theorem State.cacheDrop_keeps {r₀ s : State} (h : Nat) (p : CacheEnt → Bool) (hk : Keeps r₀ s) :
    Keeps r₀ (s.cacheDrop h p) := by
  unfold State.cacheDrop
  repeat' first
    | with_reducible assumption
    | (extract_lets +onlyGivenNames x; clear_value x)
    | with_reducible apply State.setMpe_keeps

theorem State.putNode_keeps {r₀ s : State} (h r lv k : Nat) (n : Line) (hk : Keeps r₀ s) :
    Keeps r₀ (s.putNode h r lv k n) := by
  unfold State.putNode
  repeat' first
    | with_reducible assumption
    | (extract_lets +onlyGivenNames x; clear_value x)
    | with_reducible apply State.setMpe_keeps
    | with_reducible apply State.sramPut_keeps
    | with_reducible apply State.cachePut_keeps
    | split

theorem State.writeCopies_keeps {r₀ s : State} (h r lv k : Nat) (n : Line) (hk : Keeps r₀ s) :
    Keeps r₀ (s.writeCopies h r lv k n) := by
  unfold State.writeCopies
  repeat' first
    | with_reducible assumption
    | (extract_lets +onlyGivenNames x; clear_value x)
    | with_reducible apply State.memPut_keeps

theorem NodeRes.elimNode_keeps {r₀ s : State} (f : Line → State) (x0 : NodeRes) (hk : Keeps r₀ s) (hf : ∀ a, Keeps r₀ (f a)) :
    Keeps r₀ (NodeRes.elimNode s f x0) := by
  unfold NodeRes.elimNode
  repeat' first
    | with_reducible assumption
    | with_reducible apply_assumption -exfalso -symm
    | split

theorem State.fetchStored_keeps {r₀ s : State} (h r lv k : Nat) (parent : Line) (hk : Keeps r₀ s) :
    Keeps r₀ (s.fetchStored h r lv k parent).2 := by
  unfold State.fetchStored
  repeat' first
    | with_reducible assumption
    | (extract_lets +onlyGivenNames x; clear_value (ex : x = _); have hx : Keeps r₀ x := ?_)
    | (extract_lets +onlyGivenNames x; clear_value (ex : x = _); have hx : Keeps r₀ x.2 := ?_)
    | (extract_lets +onlyGivenNames x; clear_value x)
    | with_reducible apply State.satInc_keeps
    | with_reducible apply State.dropInjected_keeps
    | with_reducible apply State.mpeErr_keeps
    | with_reducible apply State.mpeLoc_keeps
    | with_reducible apply State.memRead_keeps
    | with_reducible apply State.memPut_keeps
    | with_reducible apply State.cachePut_keeps
    | with_reducible refine Keeps.cast (by assumption) ?_
    | with_reducible refine Keeps.cast2 (by assumption) ?_
    | split

theorem State.dropBad_keeps {r₀ s : State} (h r lv k : Nat) (dirty : Bool) (hk : Keeps r₀ s) :
    Keeps r₀ (s.dropBad h r lv k dirty) := by
  unfold State.dropBad
  repeat' first
    | with_reducible assumption
    | (extract_lets +onlyGivenNames x; clear_value (ex : x = _); have hx : Keeps r₀ x := ?_)
    | with_reducible apply State.satInc_keeps
    | with_reducible apply State.mpeLoc_keeps
    | with_reducible apply State.cacheDrop_keeps
    | with_reducible refine Keeps.cast (by assumption) ?_
    | split

theorem State.fetchNode_keeps {r₀ s : State} (h r lv k : Nat) (parent : Line) (hk : Keeps r₀ s) :
    Keeps r₀ (s.fetchNode h r lv k parent).2 := by
  unfold State.fetchNode
  repeat' first
    | with_reducible assumption
    | with_reducible apply State.fetchStored_keeps
    | with_reducible apply State.dropBad_keeps
    | split

theorem State.noteLost_keeps {r₀ s : State} (h r lv a : Nat) (hk : Keeps r₀ s) :
    Keeps r₀ (s.noteLost h r lv a) := by
  unfold State.noteLost
  repeat' first
    | with_reducible assumption
    | with_reducible apply State.satInc_keeps
    | with_reducible apply State.mpeErr_keeps
    | with_reducible apply State.mpeLoc_keeps

theorem State.setLost_keeps {r₀ s : State} (h r lv k : Nat) (parent : Line) (hk : Keeps r₀ s) :
    Keeps r₀ (s.setLost h r lv k parent) := by
  unfold State.setLost
  repeat' first
    | with_reducible assumption
    | with_reducible apply State.putNode_keeps
    | with_reducible apply State.noteLost_keeps

theorem State.remacSram_keeps {r₀ s : State} (h r lv k : Nat) (hk : Keeps r₀ s) :
    Keeps r₀ (s.remacSram h r lv k) := by
  unfold State.remacSram
  repeat' first
    | with_reducible assumption
    | intro _
    | (extract_lets +onlyGivenNames x; clear_value x)
    | with_reducible apply State.putNode_keeps
    | with_reducible apply Keeps.foldl
    | split

theorem State.remacChild_keeps {r₀ s : State} (h r lv k : Nat) (old new : Line) (hk : Keeps r₀ s) :
    Keeps r₀ (s.remacChild h r lv k old new).2 := by
  unfold State.remacChild
  repeat' first
    | with_reducible assumption
    | (extract_lets +onlyGivenNames x; clear_value (ex : x = _); have hx : Keeps r₀ x.2 := ?_)
    | with_reducible apply State.writeCopies_keeps
    | with_reducible apply State.fetchNode_keeps
    | with_reducible apply State.noteLost_keeps
    | with_reducible refine Keeps.cast2 (by assumption) ?_
    | split

theorem State.remacMem_keeps {r₀ s : State} (h r lv k skip : Nat) (old : Line) (x0 : List Nat) (x1 : Line) (hk : Keeps r₀ s) :
    Keeps r₀ (s.remacMem h r lv k skip old x0 x1).2 := by
  induction x0 generalizing s x1
  all_goals
    unfold State.remacMem
    repeat' first
      | with_reducible assumption
      | (extract_lets +onlyGivenNames x; clear_value (ex : x = _); have hx : Keeps r₀ x.2 := ?_)
      | with_reducible apply State.remacChild_keeps
      | with_reducible refine Keeps.cast2 (by assumption) ?_
      | with_reducible apply_assumption -exfalso -symm
      | split

theorem State.advance_keeps {r₀ s : State} (h r x0 x1 x2 : Nat) (hk : Keeps r₀ s) :
    Keeps r₀ (s.advance h r x0 x1 x2) := by
  induction x0 generalizing s x1 x2
  all_goals
    unfold State.advance
    repeat' first
      | with_reducible assumption
      | (extract_lets +onlyGivenNames x; clear_value (ex : x = _); have hx : Keeps r₀ x := ?_)
      | (extract_lets +onlyGivenNames x; clear_value (ex : x = _); have hx : Keeps r₀ x.2 := ?_)
      | (extract_lets +onlyGivenNames x; clear_value x)
      | with_reducible apply State.noteMajor_keeps
      | with_reducible apply State.putNode_keeps
      | with_reducible apply State.remacSram_keeps
      | with_reducible apply State.remacMem_keeps
      | with_reducible refine Keeps.cast (by assumption) ?_
      | with_reducible refine Keeps.cast2 (by assumption) ?_
      | with_reducible apply_assumption -exfalso -symm
      | split

theorem State.rebuildChild_keeps {r₀ s : State} (h r k e : Nat) (n : Line) (hk : Keeps r₀ s) :
    Keeps r₀ (s.rebuildChild h r k e n).2 := by
  unfold State.rebuildChild
  repeat' first
    | with_reducible assumption
    | (extract_lets +onlyGivenNames x; clear_value (ex : x = _); have hx : Keeps r₀ x.2 := ?_)
    | (extract_lets +onlyGivenNames x; clear_value (ex : x = _); refine_lift have hx : ∀ y, Keeps r₀ y → Keeps r₀ (x y).2 := ?_; ?_; rotate_left; focus (rw [ex]; intros))
    | (extract_lets +onlyGivenNames x; clear_value (ex : x = _); refine_lift have hx : ∀ y a, Keeps r₀ y → Keeps r₀ (x y a).2 := ?_; ?_; rotate_left; focus (rw [ex]; intros))
    | (extract_lets +onlyGivenNames x; clear_value x)
    | with_reducible apply State.memRead_keeps
    | with_reducible apply State.writeCopies_keeps
    | with_reducible apply State.dropBad_keeps
    | with_reducible apply State.noteLost_keeps
    | with_reducible refine Keeps.cast2 (by assumption) ?_
    | with_reducible apply_assumption -exfalso -symm
    | split
    | dsimp -zeta only

theorem State.rebuildAll_keeps {r₀ s : State} (h r k : Nat) (x0 : List Nat) (x1 : Line) (hk : Keeps r₀ s) :
    Keeps r₀ (s.rebuildAll h r k x0 x1).2 := by
  induction x0 generalizing s x1
  all_goals
    unfold State.rebuildAll
    repeat' first
      | with_reducible assumption
      | (extract_lets +onlyGivenNames x; clear_value (ex : x = _); have hx : Keeps r₀ x.2 := ?_)
      | with_reducible apply State.rebuildChild_keeps
      | with_reducible refine Keeps.cast2 (by assumption) ?_
      | with_reducible apply_assumption -exfalso -symm

theorem State.rebuild_keeps {r₀ s : State} (h r k : Nat) (hk : Keeps r₀ s) :
    Keeps r₀ (s.rebuild h r k).2 := by
  unfold State.rebuild
  repeat' first
    | with_reducible assumption
    | (extract_lets +onlyGivenNames x; clear_value (ex : x = _); have hx : Keeps r₀ x := ?_)
    | (extract_lets +onlyGivenNames x; clear_value (ex : x = _); have hx : Keeps r₀ x.2 := ?_)
    | (extract_lets +onlyGivenNames x; clear_value x)
    | with_reducible apply State.setCsr_keeps
    | with_reducible apply State.satInc_keeps
    | with_reducible apply State.mpeErr_keeps
    | with_reducible apply State.mpeLoc_keeps
    | with_reducible apply State.noteMajor_keeps
    | with_reducible apply State.putNode_keeps
    | with_reducible apply State.advance_keeps
    | with_reducible apply State.rebuildAll_keeps
    | with_reducible refine Keeps.cast (by assumption) ?_
    | with_reducible refine Keeps.cast2 (by assumption) ?_

theorem State.badSram_keeps {r₀ s : State} (h r lv k : Nat) (parent : Line) (hk : Keeps r₀ s) :
    Keeps r₀ (s.badSram h r lv k parent).2 := by
  unfold State.badSram
  repeat' first
    | with_reducible assumption
    | (extract_lets +onlyGivenNames x; clear_value (ex : x = _); have hx : Keeps r₀ x.2 := ?_)
    | with_reducible apply State.setLost_keeps
    | with_reducible apply State.rebuild_keeps
    | with_reducible refine Keeps.cast2 (by assumption) ?_
    | split

theorem State.childNode_keeps {r₀ s : State} (h r lv k : Nat) (x0 : NodeRes) (hk : Keeps r₀ s) :
    Keeps r₀ (s.childNode h r lv k x0).2 := by
  unfold State.childNode
  repeat' first
    | with_reducible assumption
    | (extract_lets +onlyGivenNames x; clear_value (ex : x = _); have hx : Keeps r₀ x.2 := ?_)
    | with_reducible apply State.sramRead_keeps
    | with_reducible apply State.dropBad_keeps
    | with_reducible apply State.fetchNode_keeps
    | with_reducible apply State.setLost_keeps
    | with_reducible apply State.badSram_keeps
    | with_reducible refine Keeps.cast2 (by assumption) ?_
    | split

theorem State.getNode_keeps {r₀ s : State} (h r n k : Nat) (hk : Keeps r₀ s) : Keeps r₀ (s.getNode h r n k).2 := by
  induction n generalizing k with
  | zero => exact hk
  | succ n ih => exact State.childNode_keeps h r (4 - n) k _ (ih (k / 32))

theorem State.lineNode_keeps {r₀ s : State} (h r i : Nat) (hk : Keeps r₀ s) :
    Keeps r₀ (s.lineNode h r i).2 := by
  unfold State.lineNode
  repeat' first
    | with_reducible assumption
    | with_reducible apply State.getNode_keeps

theorem State.advanceL1_keeps {r₀ s : State} (h r k : Nat) (hk : Keeps r₀ s) :
    Keeps r₀ (s.advanceL1 h r k).2 := by
  unfold State.advanceL1
  repeat' first
    | with_reducible assumption
    | (extract_lets +onlyGivenNames x; clear_value (ex : x = _); have hx : Keeps r₀ x := ?_)
    | (extract_lets +onlyGivenNames x; clear_value (ex : x = _); have hx : Keeps r₀ x.2 := ?_)
    | (extract_lets +onlyGivenNames x; clear_value (ex : x = _); refine_lift have hx : ∀ a y, Keeps r₀ y → Keeps r₀ (x a y).2 := ?_; ?_; rotate_left; focus (rw [ex]; intros))
    | (extract_lets +onlyGivenNames x; clear_value x)
    | with_reducible apply State.noteMajor_keeps
    | with_reducible apply State.putNode_keeps
    | with_reducible apply State.remacMem_keeps
    | with_reducible apply State.getNode_keeps
    | with_reducible refine Keeps.cast (by assumption) ?_
    | with_reducible refine Keeps.cast2 (by assumption) ?_
    | with_reducible apply_assumption -exfalso -symm
    | split
    | dsimp -zeta only

theorem State.loseDirty_keeps {r₀ s : State} (h r lv k : Nat) (hk : Keeps r₀ s) :
    Keeps r₀ (s.loseDirty h r lv k) := by
  unfold State.loseDirty
  repeat' first
    | with_reducible assumption
    | (extract_lets +onlyGivenNames x; clear_value (ex : x = _); have hx : Keeps r₀ x := ?_)
    | (extract_lets +onlyGivenNames x; clear_value (ex : x = _); have hx : Keeps r₀ x.2 := ?_)
    | with_reducible apply State.dropBad_keeps
    | with_reducible apply State.setLost_keeps
    | with_reducible apply State.getNode_keeps
    | with_reducible refine Keeps.cast (by assumption) ?_
    | with_reducible refine Keeps.cast2 (by assumption) ?_
    | split

theorem State.writeBack_keeps {r₀ s : State} (h : Nat) (e : CacheEnt) (hk : Keeps r₀ s) :
    Keeps r₀ (s.writeBack h e) := by
  unfold State.writeBack
  repeat' first
    | with_reducible assumption
    | (extract_lets +onlyGivenNames x; clear_value (ex : x = _); have hx : Keeps r₀ x := ?_)
    | (extract_lets +onlyGivenNames x; clear_value (ex : x = _); have hx : Keeps r₀ x.2 := ?_)
    | (extract_lets +onlyGivenNames x; clear_value x)
    | with_reducible apply State.memPut_keeps
    | with_reducible apply State.noteMajor_keeps
    | with_reducible apply State.cachePut_keeps
    | with_reducible apply State.writeCopies_keeps
    | with_reducible apply State.advance_keeps
    | with_reducible apply State.advanceL1_keeps
    | with_reducible apply State.loseDirty_keeps
    | with_reducible refine Keeps.cast (by assumption) ?_
    | with_reducible refine Keeps.cast2 (by assumption) ?_
    | split

theorem State.flushLevel_keeps {r₀ s : State} (h lv : Nat) (p : CacheEnt → Bool) (hk : Keeps r₀ s) :
    Keeps r₀ (s.flushLevel h lv p) := by
  unfold State.flushLevel
  repeat' first
    | with_reducible assumption
    | intro _
    | with_reducible apply State.writeBack_keeps
    | with_reducible apply Keeps.foldl

theorem State.flushCache_keeps {r₀ s : State} (h : Nat) (p : CacheEnt → Bool) (hk : Keeps r₀ s) :
    Keeps r₀ (s.flushCache h p) := by
  unfold State.flushCache
  repeat' first
    | with_reducible assumption
    | with_reducible apply State.flushLevel_keeps

theorem State.trim_keeps {r₀ s : State} (h x0 : Nat) (hk : Keeps r₀ s) :
    Keeps r₀ (s.trim h x0) := by
  induction x0 generalizing s
  all_goals
    unfold State.trim
    repeat' first
      | with_reducible assumption
      | with_reducible apply State.cacheDrop_keeps
      | with_reducible apply State.writeBack_keeps
      | with_reducible apply_assumption -exfalso -symm
      | split

end Sys2Proof.Machine
end

