-- ==== Sys2Proof/Laws/KeepsProtect.lean ====
section
/-! SUPPORT. What every operation and meaning keeps (`Keeps`): the memory protection engine. -/

namespace Sys2Proof.Machine

open Sys2Proof

set_option maxRecDepth 4000

/-! ### Mpe -/

theorem State.macLine_keeps {r₀ s : State} (h r i : Nat) (hk : Keeps r₀ s) :
    Keeps r₀ (s.macLine h r i).2 := by
  unfold State.macLine
  repeat' first
    | with_reducible assumption
    | (extract_lets +onlyGivenNames x; clear_value (ex : x = _); have hx : Keeps r₀ x.2 := ?_)
    | with_reducible apply State.memRead_keeps
    | with_reducible apply State.cachePut_keeps
    | with_reducible refine Keeps.cast2 (by assumption) ?_
    | split

theorem State.storedMac_keeps {r₀ s : State} (h r i : Nat) (inlined : DWord) (hk : Keeps r₀ s) :
    Keeps r₀ (s.storedMac h r i inlined).2 := by
  unfold State.storedMac
  repeat' first
    | with_reducible assumption
    | (extract_lets +onlyGivenNames x; clear_value (ex : x = _); have hx : Keeps r₀ x.2 := ?_)
    | with_reducible apply State.macLine_keeps
    | with_reducible refine Keeps.cast2 (by assumption) ?_
    | split

theorem State.putCipher_keeps {r₀ s : State} (h r i : Nat) (c : Line) (mac : DWord) (poison : Bool) (hk : Keeps r₀ s) :
    Keeps r₀ (s.putCipher h r i c mac poison).2 := by
  unfold State.putCipher
  extract_lets x y z
  have hx : Keeps r₀ x.2 := State.memWrite_keeps _ _ _ _ _ _ _ hk
  split
  · exact hx
  · have hy : Keeps r₀ y.2 := State.macLine_keeps _ _ _ hx
    have hz : Keeps r₀ z.2 := by
      simp only [z]
      split
      · exact hy
      · exact State.free_keeps hy
    exact State.cachePut_keeps _ _ _ _ _ _ hz

theorem State.putCounter_keeps {r₀ s : State} (h r i minor major : Nat) (ep : Bool) (d : Line) (poison : Bool) (hk : Keeps r₀ s) :
    Keeps r₀ (s.putCounter h r i minor major ep d poison).2 := by
  unfold State.putCounter
  repeat' first
    | with_reducible assumption
    | (extract_lets +onlyGivenNames x; clear_value x)
    | with_reducible apply State.putCipher_keeps

theorem State.readCounter_keeps {r₀ s : State} (h r i minor major : Nat) (ep cipher : Bool) (hk : Keeps r₀ s) :
    Keeps r₀ (s.readCounter h r i minor major ep cipher).2.2 := by
  unfold State.readCounter
  repeat' first
    | with_reducible assumption
    | (extract_lets +onlyGivenNames x; clear_value (ex : x = _); have hx : Keeps r₀ x.2 := ?_)
    | (extract_lets +onlyGivenNames x; clear_value x)
    | with_reducible apply State.memRead_keeps
    | with_reducible apply State.storedMac_keeps
    | with_reducible refine Keeps.cast2 (by assumption) ?_
    | split

theorem State.macFail_keeps {r₀ s : State} (h r i : Nat) (hk : Keeps r₀ s) :
    Keeps r₀ (s.macFail h r i) := by
  unfold State.macFail
  repeat' first
    | with_reducible assumption
    | (extract_lets +onlyGivenNames x; clear_value x)
    | with_reducible apply State.satInc_keeps
    | with_reducible apply State.dropInjected_keeps
    | with_reducible apply State.mpeErr_keeps
    | with_reducible apply State.mpeLoc_keeps

theorem State.markLine_keeps {r₀ s : State} (h r i : Nat) (d : Line) (hk : Keeps r₀ s) :
    Keeps r₀ (s.markLine h r i d) := by
  unfold State.markLine
  repeat' first
    | with_reducible assumption
    | with_reducible apply State.memMark_keeps
    | with_reducible apply State.macFail_keeps

theorem State.recrypt_keeps {r₀ s : State} (h r i minor major : Nat) (ep : Bool) (minor' major' : Nat) (ep' : Bool) (hk : Keeps r₀ s) :
    Keeps r₀ (s.recrypt h r i minor major ep minor' major' ep') := by
  unfold State.recrypt
  repeat' first
    | with_reducible assumption
    | (extract_lets +onlyGivenNames x; clear_value (ex : x = _); have hx : Keeps r₀ x.2.2 := ?_)
    | with_reducible apply State.putCounter_keeps
    | with_reducible apply State.readCounter_keeps
    | with_reducible apply State.markLine_keeps
    | with_reducible refine Keeps.cast3 (by assumption) ?_
    | split

theorem State.recryptNode_keeps {r₀ s : State} (h r i : Nat) (n : Line) (hk : Keeps r₀ s) :
    Keeps r₀ (s.recryptNode h r i n) := by
  unfold State.recryptNode
  repeat' first
    | with_reducible assumption
    | intro _
    | (extract_lets +onlyGivenNames x; clear_value x)
    | with_reducible apply State.recrypt_keeps
    | with_reducible apply Keeps.foldl
    | split

theorem State.readInt_keeps {r₀ s : State} (h r i : Nat) (cipher : Bool) (hk : Keeps r₀ s) :
    Keeps r₀ (s.readInt h r i cipher).2 := by
  unfold State.readInt
  repeat' first
    | with_reducible assumption
    | (extract_lets +onlyGivenNames x; clear_value (ex : x = _); have hx : Keeps r₀ x.2 := ?_)
    | (extract_lets +onlyGivenNames x; clear_value (ex : x = _); have hx : Keeps r₀ x.2.2 := ?_)
    | (extract_lets +onlyGivenNames x; clear_value x)
    | with_reducible apply State.free_keeps
    | with_reducible apply State.lineNode_keeps
    | with_reducible apply State.readCounter_keeps
    | with_reducible apply State.macFail_keeps
    | with_reducible refine Keeps.cast2 (by assumption) ?_
    | with_reducible refine Keeps.cast3 (by assumption) ?_
    | split

theorem State.ctrExhausted_keeps {r₀ s : State} (h r i : Nat) (hk : Keeps r₀ s) :
    Keeps r₀ (s.ctrExhausted h r i) := by
  unfold State.ctrExhausted
  repeat' first
    | with_reducible assumption
    | with_reducible apply State.setFld_keeps
    | with_reducible apply State.mpeErr_keeps
    | with_reducible apply State.mpeLoc_keeps

theorem State.storeInt_keeps {r₀ s : State} (h r i : Nat) (d : Line) (poison : Bool) (hk : Keeps r₀ s) :
    Keeps r₀ (s.storeInt h r i d poison).2 := by
  unfold State.storeInt
  repeat' first
    | with_reducible assumption
    | (extract_lets +onlyGivenNames x; clear_value (ex : x = _); have hx : Keeps r₀ x := ?_)
    | (extract_lets +onlyGivenNames x; clear_value (ex : x = _); have hx : Keeps r₀ x.2 := ?_)
    | (extract_lets +onlyGivenNames x; clear_value (ex : x = _); refine_lift have hx : ∀ a y, Keeps r₀ y → Keeps r₀ (x a y).2 := ?_; ?_; rotate_left; focus (rw [ex]; intros))
    | (extract_lets +onlyGivenNames x; clear_value x)
    | with_reducible apply State.noteMajor_keeps
    | with_reducible apply State.putNode_keeps
    | with_reducible apply State.lineNode_keeps
    | with_reducible apply State.putCounter_keeps
    | with_reducible apply State.recryptNode_keeps
    | with_reducible apply State.ctrExhausted_keeps
    | with_reducible refine Keeps.cast (by assumption) ?_
    | with_reducible refine Keeps.cast2 (by assumption) ?_
    | with_reducible apply_assumption -exfalso -symm
    | split
    | dsimp -zeta only

theorem State.bitmap_keeps {r₀ s : State} (h r page : Nat) (hk : Keeps r₀ s) :
    Keeps r₀ (s.bitmap h r page).2 := by
  unfold State.bitmap
  repeat' first
    | with_reducible assumption
    | (extract_lets +onlyGivenNames x; clear_value (ex : x = _); have hx : Keeps r₀ x := ?_)
    | (extract_lets +onlyGivenNames x; clear_value (ex : x = _); have hx : Keeps r₀ x.2 := ?_)
    | (extract_lets +onlyGivenNames x; clear_value x)
    | with_reducible apply State.mpeErr_keeps
    | with_reducible apply State.mpeLoc_keeps
    | with_reducible apply State.sramPut_keeps
    | with_reducible apply State.sramRead_keeps
    | with_reducible refine Keeps.cast (by assumption) ?_
    | with_reducible refine Keeps.cast2 (by assumption) ?_
    | split

theorem State.readPage_keeps {r₀ s : State} (h r i : Nat) (cipher : Bool) (hk : Keeps r₀ s) :
    Keeps r₀ (s.readPage h r i cipher).2 := by
  unfold State.readPage
  repeat' first
    | with_reducible assumption
    | (extract_lets +onlyGivenNames x; clear_value (ex : x = _); have hx : Keeps r₀ x.2 := ?_)
    | (extract_lets +onlyGivenNames x; clear_value x)
    | with_reducible apply State.memRead_keeps
    | with_reducible apply State.bitmap_keeps
    | with_reducible refine Keeps.cast2 (by assumption) ?_
    | split

theorem State.firstWrite_keeps {r₀ s : State} (h r i : Nat) (mask : DWord) (d : Line) (poison : Bool) (hk : Keeps r₀ s) :
    Keeps r₀ (s.firstWrite h r i mask d poison).2 := by
  unfold State.firstWrite
  repeat' first
    | with_reducible assumption
    | intro _
    | (extract_lets +onlyGivenNames x; clear_value (ex : x = _); have hx : Keeps r₀ x := ?_)
    | (extract_lets +onlyGivenNames x; clear_value (ex : x = _); have hx : Keeps r₀ x.2 := ?_)
    | (extract_lets +onlyGivenNames x; clear_value x)
    | with_reducible apply State.memWrite_keeps
    | with_reducible apply State.memPut_keeps
    | with_reducible apply State.sramPut_keeps
    | with_reducible apply State.bitmap_keeps
    | with_reducible apply Keeps.foldl
    | with_reducible refine Keeps.cast (by assumption) ?_
    | with_reducible refine Keeps.cast2 (by assumption) ?_
    | split

theorem State.storeLine_keeps {r₀ s0 : State} (h r i : Nat) (d : Line) (poison : Bool) (hs0 : Keeps r₀ s0) :
    Keeps r₀ (s0.storeLine h r i d poison).2 := by
  unfold State.storeLine
  repeat' first
    | with_reducible assumption
    | (extract_lets +onlyGivenNames x; clear_value (ex : x = _); have hx : Keeps r₀ x := ?_)
    | (extract_lets +onlyGivenNames x; clear_value (ex : x = _); have hx : Keeps r₀ x.2 := ?_)
    | with_reducible apply State.invalidate_keeps
    | with_reducible apply State.memWrite_keeps
    | with_reducible apply State.storeInt_keeps
    | with_reducible apply State.bitmap_keeps
    | with_reducible apply State.firstWrite_keeps
    | with_reducible refine Keeps.cast (by assumption) ?_
    | with_reducible refine Keeps.cast2 (by assumption) ?_
    | split

theorem State.readLine_keeps {r₀ s : State} (h r i : Nat) (cipher : Bool) (hk : Keeps r₀ s) :
    Keeps r₀ (s.readLine h r i cipher).2 := by
  unfold State.readLine
  repeat' first
    | with_reducible assumption
    | with_reducible apply State.readInt_keeps
    | with_reducible apply State.readPage_keeps
    | split

theorem State.pendDone_keeps {r₀ s : State} (h a : Nat) (st : Status) (hk : Keeps r₀ s) :
    Keeps r₀ (s.pendDone h a st) := by
  unfold State.pendDone
  repeat' first
    | with_reducible assumption
    | intro _
    | (extract_lets +onlyGivenNames x; clear_value (ex : x = _); have hx : Keeps r₀ x := ?_)
    | (extract_lets +onlyGivenNames x; clear_value x)
    | with_reducible apply State.reply_keeps
    | with_reducible apply State.setMpe_keeps
    | with_reducible apply Keeps.foldl
    | with_reducible refine Keeps.cast (by assumption) ?_
    | split

theorem State.wcbWrite_keeps {r₀ s : State} (h : Nat) (e : WcbEnt) (hk : Keeps r₀ s) :
    Keeps r₀ (s.wcbWrite h e) := by
  unfold State.wcbWrite
  repeat' first
    | with_reducible assumption
    | (extract_lets +onlyGivenNames x; clear_value (ex : x = _); have hx : Keeps r₀ x := ?_)
    | (extract_lets +onlyGivenNames x; clear_value (ex : x = _); have hx : Keeps r₀ x.2 := ?_)
    | (extract_lets +onlyGivenNames x; clear_value x)
    | with_reducible apply State.setMpe_keeps
    | with_reducible apply State.storeLine_keeps
    | with_reducible apply State.readLine_keeps
    | with_reducible apply State.pendDone_keeps
    | with_reducible refine Keeps.cast (by assumption) ?_
    | with_reducible refine Keeps.cast2 (by assumption) ?_
    | split

theorem State.wcbSettle_keeps {r₀ s : State} (h a : Nat) (hk : Keeps r₀ s) :
    Keeps r₀ (s.wcbSettle h a) := by
  unfold State.wcbSettle
  repeat' first
    | with_reducible assumption
    | with_reducible apply State.wcbWrite_keeps
    | split

theorem State.wcbMerge_keeps {r₀ s : State} (h r a : Nat) (mask : DWord) (d : Line) (poison : Bool) (hk : Keeps r₀ s) :
    Keeps r₀ (s.wcbMerge h r a mask d poison) := by
  unfold State.wcbMerge
  repeat' first
    | with_reducible assumption
    | (extract_lets +onlyGivenNames x; clear_value (ex : x = _); have hx : Keeps r₀ x := ?_)
    | (extract_lets +onlyGivenNames x; clear_value x)
    | with_reducible apply State.setMpe_keeps
    | with_reducible apply State.wcbWrite_keeps
    | with_reducible refine Keeps.cast (by assumption) ?_
    | split

theorem State.answerBytes_keeps {r₀ s : State} (stop : Nat) (p : ReqPkt) (x : Status × PoisonRsn × List PByte) (hk : Keeps r₀ s) :
    Keeps r₀ (s.answerBytes stop p x) := by
  unfold State.answerBytes
  repeat' first
    | with_reducible assumption
    | with_reducible apply State.reply_keeps
    | split

theorem State.readLines_keeps {r₀ s : State} (rd : State → Nat → LineRes × State) (ls : List Nat) (hk : Keeps r₀ s)
    (hr : ∀ t l, Keeps r₀ t → Keeps r₀ (rd t l).2) : Keeps r₀ (s.readLines rd ls).2 := by
  induction ls generalizing s with
  | nil => exact hk
  | cons l ls ih => exact ih (hr s l hk)

theorem State.serveAtomic_keeps {r₀ s : State} (stop : Nat) (p : ReqPkt) (rd : State → Nat → LineRes × State)
    (wr : State → Nat → Line → Bool → Status × State) (hk : Keeps r₀ s) (hr : ∀ a t, Keeps r₀ a → Keeps r₀ (rd a t).2)
    (hw : ∀ t b c d, Keeps r₀ t → Keeps r₀ (wr t b c d).2) : Keeps r₀ (s.serveAtomic stop p rd wr) := by
  unfold State.serveAtomic
  extract_lets a l n x old back y
  have hx : Keeps r₀ x.2 := hr _ _ hk
  have hb : ∀ t, Keeps r₀ t → Keeps r₀ (back t) := fun t ht => State.reply_keeps _ _ _ _ _ _ ht
  split
  · exact hx
  · split
    · exact State.reply_keeps _ _ _ _ _ _ hx
    · split
      · exact State.reply_keeps _ _ _ _ _ _ hx
      · have hy : Keeps r₀ y.2 := hw _ _ _ _ hx
        split
        · exact hb _ hy
        · split
          · exact hy
          · exact State.reply_keeps _ _ _ _ _ _ hy

theorem State.writeLines_keeps {r₀ s : State} (h r a : Nat) (bs : List PByte) (ls : List Nat) (hk : Keeps r₀ s) :
    Keeps r₀ (s.writeLines h r a bs ls).2.2 := by
  induction ls generalizing s with
  | nil => exact hk
  | cons l ls ih =>
    unfold State.writeLines
    extract_lets i x full b y z y1 z1 z2
    have hb : Keeps r₀ b.2 := State.bitmap_keeps h r _ hk
    split
    · have hy : Keeps r₀ y.2 := by
        simp only [y]
        split
        · exact State.firstWrite_keeps _ _ _ _ _ _ hb
        · exact State.memWrite_keeps _ _ _ _ _ _ _ hb
      exact ih hy
    · split
      · exact ih (State.storeLine_keeps _ _ _ _ _ hk)
      · exact ih hk

theorem State.withServing_keeps {r₀ s : State} (c : TClass) (hk : Keeps r₀ s) :
    Keeps r₀ (s.withServing c) := by
  unfold State.withServing
  repeat' first
    | with_reducible assumption
    | (extract_lets +onlyGivenNames x; clear_value x)
    | fail_if_no_progress (with_reducible apply Keeps.upd)

theorem State.mpePerform_keeps {r₀ s : State} (h r stop : Nat) (p : ReqPkt) (hk : Keeps r₀ s) : Keeps r₀ (s.mpePerform h r stop p) := by
  unfold State.mpePerform
  extract_lets +onlyGivenNames a len base s1 rd
  have h1 : Keeps r₀ s1 := by
    simp only [s1]
    split
    · exact hk
    · exact Keeps.foldl hk fun t l ht => State.wcbSettle_keeps _ _ ht
  have hrd : ∀ c t l, Keeps r₀ t → Keeps r₀ (rd c t l).2 := fun c t l ht => State.readLine_keeps _ _ _ _ ht
  extract_lets x0 bs x m s3 s2
  refine State.trim_keeps _ _ ?_
  simp -zeta only [s2]
  split
  · exact State.answerBytes_keeps _ _ _ (State.readLines_keeps _ _ h1 (hrd _))
  · split
    · have hx : Keeps r₀ x.2.2 := State.writeLines_keeps _ _ _ _ _ h1
      split
      · split
        · exact hx
        · exact State.reply_keeps _ _ _ _ _ _ hx
      · exact Keeps.foldl (State.setMpe_keeps _ _ hx) fun t l ht => State.wcbMerge_keeps _ _ _ _ _ _ ht
    · exact State.serveAtomic_keeps _ _ _ _ h1 (hrd _) fun t l d b ht => State.storeLine_keeps _ _ _ _ _ ht

theorem State.mpeGo_keeps {r₀ s : State} (h r stop : Nat) (p : ReqPkt) (hk : Keeps r₀ s) :
    Keeps r₀ (s.mpeGo h r stop p) := by
  unfold State.mpeGo
  repeat' first
    | with_reducible assumption
    | (extract_lets +onlyGivenNames x; clear_value x)
    | with_reducible apply State.setMpe_keeps
    | with_reducible apply State.withServing_keeps
    | with_reducible apply State.mpePerform_keeps
    | split

theorem State.mpeServe_keeps {r₀ s : State} (h stop : Nat) (p : ReqPkt) (hk : Keeps r₀ s) : Keeps r₀ (s.mpeServe h stop p) := by
  unfold State.mpeServe
  extract_lets a
  have hr : ∀ st : Status, Keeps r₀ (s.reply stop p st) := fun st => State.reply_keeps _ _ _ _ _ _ hk
  split
  · exact hk
  split
  · exact hr _
  split
  · exact hr _
  split
  · exact hr _
  generalize s.regionAt h a = reg
  cases reg with
  | none => exact hr _
  | some r =>
    dsimp only
    split
    · exact hr _
    · exact State.mpeGo_keeps _ _ _ _ hk

theorem State.sramWrite_keeps {r₀ s : State} (h n : Nat) (mask : DWord) (d : Line) (poison : Bool) (hk : Keeps r₀ s) :
    Keeps r₀ (s.sramWrite h n mask d poison).2 := by
  unfold State.sramWrite
  repeat' first
    | with_reducible assumption
    | (extract_lets +onlyGivenNames x; clear_value (ex : x = _); have hx : Keeps r₀ x.2 := ?_)
    | (extract_lets +onlyGivenNames x; clear_value x)
    | with_reducible apply State.setSram_keeps
    | with_reducible apply State.sramPut_keeps
    | with_reducible apply State.sramRead_keeps
    | with_reducible refine Keeps.cast2 (by assumption) ?_
    | split

theorem State.sramTake_keeps {r₀ s : State} (h stop : Nat) (p : ReqPkt) (hk : Keeps r₀ s) : Keeps r₀ (s.sramTake h stop p) := by
  unfold State.sramTake
  extract_lets +onlyGivenNames a base len line store
  have hr : ∀ st : Status, Keeps r₀ (s.reply stop p st) := fun st => State.reply_keeps _ _ _ _ _ _ hk
  have hs : ∀ t l mask d poison, Keeps r₀ t → Keeps r₀ (store t l mask d poison).2 := fun t l mask d poison ht =>
    State.sramWrite_keeps _ _ _ _ _ (State.invalidate_keeps _ _ ht)
  split
  · exact hk
  split
  · exact hr _
  split
  · exact hr _
  split
  · exact hr _
  split
  · exact hr _
  split
  · exact State.answerBytes_keeps _ _ _ (State.readLines_keeps _ _ hk fun t l ht => State.sramRead_keeps _ _ _ ht)
  split
  · refine State.reply_keeps _ _ _ _ _ _ (Keeps.foldl2 hk fun t l ht => ?_)
    exact hs _ _ _ _ _ ht
  · exact State.serveAtomic_keeps _ _ _ _ hk (fun t l ht => State.sramRead_keeps _ _ _ ht) fun t l d b ht => hs _ _ _ _ _ ht

theorem State.sramServe_keeps {r₀ s : State} (h stop : Nat) (p : ReqPkt) (hk : Keeps r₀ s) :
    Keeps r₀ (s.sramServe h stop p) := by
  unfold State.sramServe
  repeat' first
    | with_reducible assumption
    | (extract_lets +onlyGivenNames x; clear_value x)
    | with_reducible apply State.sramTake_keeps
    | split
    | fail_if_no_progress (with_reducible apply Keeps.upd)

theorem State.sramResume_keeps {r₀ s : State} (h : Nat) (hk : Keeps r₀ s) : Keeps r₀ (s.sramResume h) := by
  unfold State.sramResume
  split
  · exact hk
  · exact Keeps.foldl (Keeps.upd hk) fun t x ht => State.sramTake_keeps _ _ _ ht

/-! ### MpeCtl -/

theorem State.rgnCfgWrite_keeps {r₀ s : State} (h r : Nat) (value : Word) (hk : Keeps r₀ s) :
    Keeps r₀ (s.rgnCfgWrite h r value) := by
  unfold State.rgnCfgWrite
  repeat' first
    | with_reducible assumption
    | (extract_lets +onlyGivenNames x; clear_value (ex : x = _); have hx : Keeps r₀ x := ?_)
    | (extract_lets +onlyGivenNames x; clear_value x)
    | with_reducible apply State.setCsr_keeps
    | with_reducible apply State.setFld_keeps
    | with_reducible refine Keeps.cast (by assumption) ?_
    | split

theorem execRegionEnable_keeps {r₀ s : State} (mid : BitVec 12) (hub : Fin 2) (region : Fin 16) (value : Word) (hk : Keeps r₀ s) :
    ∀ s', execRegionEnable mid hub region value s = .next s' → Keeps r₀ s' := by
  unfold execRegionEnable
  repeat' first
    | with_reducible assumption
    | with_reducible refine fun _ (_ : Keeps r₀ _) => ?_
    | with_reducible refine Keeps.next ?_
    | with_reducible apply levelSWrite_keeps
    | with_reducible apply State.rgnCfgWrite_keeps

theorem execInitBusy_keeps {r₀ s : State} (hub : Fin 2) (region : Fin 16) (hk : Keeps r₀ s) :
    ∀ s', execInitBusy hub region s = .next s' → Keeps r₀ s' := by
  unfold execInitBusy
  repeat' first
    | with_reducible assumption
    | with_reducible refine Keeps.next ?_
    | (extract_lets +onlyGivenNames x; clear_value (ex : x = _); have hx : Keeps r₀ x := ?_)
    | (extract_lets +onlyGivenNames x; clear_value x)
    | with_reducible apply State.setCsr_keeps
    | with_reducible apply State.setFld_keeps
    | with_reducible refine Keeps.cast (by assumption) ?_
    | split
    | (extract_lets +onlyGivenNames x)
    | fail_if_no_progress (with_reducible apply Keeps.upd)

theorem execDisabling_keeps {r₀ s : State} (mid : BitVec 12) (hub : Fin 2) (region : Fin 16) (value : Word) (hk : Keeps r₀ s) :
    ∀ s', execDisabling mid hub region value s = .next s' → Keeps r₀ s' := by
  unfold execDisabling
  repeat' first
    | with_reducible assumption
    | with_reducible refine fun _ (_ : Keeps r₀ _) => ?_
    | with_reducible refine Keeps.next ?_
    | with_reducible apply levelSWrite_keeps
    | with_reducible apply State.rgnCfgWrite_keeps

theorem State.wcbFlush_keeps {r₀ s : State} (h : Nat) (p : WcbEnt → Bool) (hk : Keeps r₀ s) :
    Keeps r₀ (s.wcbFlush h p) := by
  unfold State.wcbFlush
  repeat' first
    | with_reducible assumption
    | intro _
    | with_reducible apply State.wcbSettle_keeps
    | with_reducible apply Keeps.foldl

theorem execRegionDisabled_keeps {r₀ s : State} (hub : Fin 2) (region : Fin 16) (hk : Keeps r₀ s) :
    ∀ s', execRegionDisabled hub region s = .next s' → Keeps r₀ s' := by
  unfold execRegionDisabled
  repeat' first
    | with_reducible assumption
    | with_reducible refine Keeps.next ?_
    | (extract_lets +onlyGivenNames x; clear_value (ex : x = _); have hx : Keeps r₀ x := ?_)
    | with_reducible apply State.setFld_keeps
    | with_reducible apply State.cacheDrop_keeps
    | with_reducible apply State.flushCache_keeps
    | with_reducible apply State.wcbFlush_keeps
    | with_reducible refine Keeps.cast (by assumption) ?_
    | split

theorem State.rgnKeysWrite_keeps {r₀ s : State} (h r : Nat) (value : Word) (hk : Keeps r₀ s) :
    Keeps r₀ (s.rgnKeysWrite h r value) := by
  unfold State.rgnKeysWrite
  repeat' first
    | with_reducible assumption
    | (extract_lets +onlyGivenNames x; clear_value (ex : x = _); have hx : Keeps r₀ x := ?_)
    | (extract_lets +onlyGivenNames x; clear_value x)
    | with_reducible apply State.setFld_keeps
    | with_reducible refine Keeps.cast (by assumption) ?_
    | split

theorem State.rgnWrite_keeps {r₀ s : State} (h r key : Nat) (value : Word) (hk : Keeps r₀ s) :
    Keeps r₀ (s.rgnWrite h r key value) := by
  unfold State.rgnWrite
  repeat' first
    | with_reducible assumption
    | with_reducible apply State.setCsr_keeps
    | with_reducible apply State.setFld_keeps
    | split

theorem State.setKey_keeps {r₀ s : State} (h slot : Nat) (k : Option (BitVec 512)) (hk : Keeps r₀ s) :
    Keeps r₀ (s.setKey h slot k) := by
  unfold State.setKey
  repeat' first
    | with_reducible assumption
    | (extract_lets +onlyGivenNames x; clear_value x)
    | with_reducible apply State.setCsr_keeps
    | with_reducible apply State.setMpe_keeps

theorem State.clearKwrap_keeps {r₀ s : State} (h : Nat) (hk : Keeps r₀ s) :
    Keeps r₀ (s.clearKwrap h) := by
  unfold State.clearKwrap
  repeat' first
    | with_reducible assumption
    | intro _
    | with_reducible apply State.setCsr_keeps
    | with_reducible apply Keeps.foldl

theorem State.keyLoad_keeps {r₀ s : State} (h slot : Nat) (wrapped : List Byte) (hk : Keeps r₀ s) :
    Keeps r₀ (s.keyLoad h slot wrapped).2 := by
  unfold State.keyLoad
  repeat' first
    | with_reducible assumption
    | with_reducible apply State.setFld_keeps
    | with_reducible apply State.setKey_keeps
    | split

theorem State.keyCmdWrite_keeps {r₀ s : State} (h : Nat) (value : Word) (hk : Keeps r₀ s) :
    Keeps r₀ (s.keyCmdWrite h value) := by
  unfold State.keyCmdWrite
  repeat' first
    | with_reducible assumption
    | (extract_lets +onlyGivenNames x; clear_value (ex : x = _); have hx : Keeps r₀ x := ?_)
    | (extract_lets +onlyGivenNames x; clear_value x)
    | with_reducible apply State.setCsr_keeps
    | with_reducible apply State.setFld_keeps
    | with_reducible apply State.setKey_keeps
    | with_reducible apply State.clearKwrap_keeps
    | with_reducible apply State.keyLoad_keeps
    | with_reducible refine Keeps.cast (by assumption) ?_
    | split

theorem execMpeKeyLoad_keeps {r₀ s : State} (mid : BitVec 12) (hub : Fin 2) (value : Word) (hk : Keeps r₀ s) :
    ∀ s', execMpeKeyLoad mid hub value s = .next s' → Keeps r₀ s' := by
  unfold execMpeKeyLoad
  repeat' first
    | with_reducible assumption
    | with_reducible refine fun _ (_ : Keeps r₀ _) => ?_
    | with_reducible refine Keeps.next ?_
    | with_reducible apply levelSWrite_keeps
    | with_reducible apply State.keyCmdWrite_keeps

theorem execMpeKeyErase_keeps {r₀ s : State} (mid : BitVec 12) (hub : Fin 2) (value : Word) (hk : Keeps r₀ s) :
    ∀ s', execMpeKeyErase mid hub value s = .next s' → Keeps r₀ s' := by
  unfold execMpeKeyErase
  repeat' first
    | with_reducible assumption
    | with_reducible refine fun _ (_ : Keeps r₀ _) => ?_
    | with_reducible refine Keeps.next ?_
    | with_reducible apply levelSWrite_keeps
    | with_reducible apply State.keyCmdWrite_keeps

theorem State.resealWrite_keeps {r₀ s : State} (h : Nat) (value : Word) (hk : Keeps r₀ s) :
    Keeps r₀ (s.resealWrite h value) := by
  unfold State.resealWrite
  repeat' first
    | with_reducible assumption
    | (extract_lets +onlyGivenNames x; clear_value (ex : x = _); have hx : Keeps r₀ x := ?_)
    | (extract_lets +onlyGivenNames x; clear_value x)
    | with_reducible apply State.setCsr_keeps
    | with_reducible apply State.setFld_keeps
    | with_reducible apply State.setMpe_keeps
    | with_reducible refine Keeps.cast (by assumption) ?_
    | split

theorem execResealGo_keeps {r₀ s : State} (mid : BitVec 12) (hub : Fin 2) (value : Word) (hk : Keeps r₀ s) :
    ∀ s', execResealGo mid hub value s = .next s' → Keeps r₀ s' := by
  unfold execResealGo
  repeat' first
    | with_reducible assumption
    | with_reducible refine fun _ (_ : Keeps r₀ _) => ?_
    | with_reducible refine Keeps.next ?_
    | with_reducible apply levelSWrite_keeps
    | with_reducible apply State.resealWrite_keeps

theorem State.unlose_keeps {r₀ s : State} (h r lv k : Nat) (hk : Keeps r₀ s) :
    Keeps r₀ (s.unlose h r lv k) := by
  unfold State.unlose
  repeat' first
    | with_reducible assumption
    | (extract_lets +onlyGivenNames x; clear_value x)
    | with_reducible apply State.putNode_keeps
    | split

theorem State.resealLevel_keeps {r₀ s : State} (h r lv base log maj : Nat) (hk : Keeps r₀ s) :
    Keeps r₀ (s.resealLevel h r lv base log maj) := by
  unfold State.resealLevel
  repeat' first
    | with_reducible assumption
    | intro _
    | (extract_lets +onlyGivenNames x; clear_value x)
    | with_reducible apply State.putNode_keeps
    | with_reducible apply State.unlose_keeps
    | with_reducible apply Keeps.foldl
    | split

theorem State.resealRun_keeps {r₀ s : State} (h r base log : Nat) (hk : Keeps r₀ s) :
    Keeps r₀ (s.resealRun h r base log) := by
  unfold State.resealRun
  repeat' first
    | with_reducible assumption
    | intro _
    | (extract_lets +onlyGivenNames x; clear_value (ex : x = _); have hx : Keeps r₀ x := ?_)
    | (extract_lets +onlyGivenNames x; clear_value (ex : x = _); have hx : Keeps r₀ x.2 := ?_)
    | (extract_lets +onlyGivenNames x; clear_value x)
    | with_reducible apply State.setCsr_keeps
    | with_reducible apply State.setFld_keeps
    | with_reducible apply State.noteMajor_keeps
    | with_reducible apply State.cacheDrop_keeps
    | with_reducible apply State.putNode_keeps
    | with_reducible apply NodeRes.elimNode_keeps
    | with_reducible apply State.getNode_keeps
    | with_reducible apply State.resealLevel_keeps
    | with_reducible refine Keeps.cast (by assumption) ?_
    | with_reducible refine Keeps.cast2 (by assumption) ?_
    | split

theorem execResealDone_keeps {r₀ s : State} (hub : Fin 2) (hk : Keeps r₀ s) :
    ∀ s', execResealDone hub s = .next s' → Keeps r₀ s' := by
  unfold execResealDone
  repeat' first
    | with_reducible assumption
    | with_reducible refine Keeps.next ?_
    | (extract_lets +onlyGivenNames x; clear_value x)
    | with_reducible apply State.setMpe_keeps
    | with_reducible apply State.resealRun_keeps
    | split

theorem State.rekeyWrite_keeps {r₀ s : State} (h : Nat) (value : Word) (hk : Keeps r₀ s) :
    Keeps r₀ (s.rekeyWrite h value) := by
  unfold State.rekeyWrite
  repeat' first
    | with_reducible assumption
    | (extract_lets +onlyGivenNames x; clear_value (ex : x = _); have hx : Keeps r₀ x := ?_)
    | (extract_lets +onlyGivenNames x; clear_value x)
    | with_reducible apply State.setCsr_keeps
    | with_reducible apply State.setCsr64_keeps
    | with_reducible apply State.setFld_keeps
    | with_reducible apply State.setMpe_keeps
    | with_reducible refine Keeps.cast (by assumption) ?_
    | split

theorem execRekeyStart_keeps {r₀ s : State} (mid : BitVec 12) (hub : Fin 2) (value : Word) (hk : Keeps r₀ s) :
    ∀ s', execRekeyStart mid hub value s = .next s' → Keeps r₀ s' := by
  unfold execRekeyStart
  repeat' first
    | with_reducible assumption
    | with_reducible refine fun _ (_ : Keeps r₀ _) => ?_
    | with_reducible refine Keeps.next ?_
    | with_reducible apply levelSWrite_keeps
    | with_reducible apply State.rekeyWrite_keeps

theorem State.rekeyEnc_keeps {r₀ s : State} (h r i : Nat) (hk : Keeps r₀ s) :
    Keeps r₀ (s.rekeyEnc h r i) := by
  unfold State.rekeyEnc
  repeat' first
    | with_reducible assumption
    | (extract_lets +onlyGivenNames x; clear_value (ex : x = _); have hx : Keeps r₀ x := ?_)
    | (extract_lets +onlyGivenNames x; clear_value (ex : x = _); have hx : Keeps r₀ x.2 := ?_)
    | (extract_lets +onlyGivenNames x; clear_value (ex : x = _); refine_lift have hx : ∀ y, Keeps r₀ y → Keeps r₀ (x y) := ?_; ?_; rotate_left; focus (rw [ex]; intros))
    | (extract_lets +onlyGivenNames x; clear_value x)
    | with_reducible apply State.setMpe_keeps
    | with_reducible apply State.memPut_keeps
    | with_reducible apply State.bitmap_keeps
    | with_reducible apply State.readPage_keeps
    | with_reducible refine Keeps.cast (by assumption) ?_
    | with_reducible refine Keeps.cast2 (by assumption) ?_
    | with_reducible apply_assumption -exfalso -symm
    | split

theorem State.settleNode_keeps {r₀ s : State} (h r lv k : Nat) (hk : Keeps r₀ s) :
    Keeps r₀ (s.settleNode h r lv k) := by
  unfold State.settleNode
  repeat' first
    | with_reducible assumption
    | with_reducible apply State.writeBack_keeps
    | split

theorem State.entryNext_keeps {r₀ s : State} (h r k : Nat) (hk : Keeps r₀ s) :
    Keeps r₀ (s.entryNext h r k) := by
  unfold State.entryNext
  repeat' first
    | with_reducible assumption
    | intro _
    | (extract_lets +onlyGivenNames x; clear_value (ex : x = _); have hx : Keeps r₀ x.2 := ?_)
    | with_reducible apply State.putNode_keeps
    | with_reducible apply NodeRes.elimNode_keeps
    | with_reducible apply State.getNode_keeps
    | with_reducible refine Keeps.cast2 (by assumption) ?_

theorem State.rekeyNode_keeps {r₀ s : State} (h r k : Nat) (hk : Keeps r₀ s) :
    Keeps r₀ (s.rekeyNode h r k) := by
  unfold State.rekeyNode
  repeat' first
    | with_reducible assumption
    | intro _
    | (extract_lets +onlyGivenNames x; clear_value (ex : x = _); have hx : Keeps r₀ x := ?_)
    | (extract_lets +onlyGivenNames x; clear_value (ex : x = _); have hx : Keeps r₀ x.2 := ?_)
    | (extract_lets +onlyGivenNames x; clear_value x)
    | with_reducible apply State.cachePut_keeps
    | with_reducible apply NodeRes.elimNode_keeps
    | with_reducible apply State.getNode_keeps
    | with_reducible apply State.writeBack_keeps
    | with_reducible apply State.recrypt_keeps
    | with_reducible apply State.settleNode_keeps
    | with_reducible apply State.entryNext_keeps
    | with_reducible apply Keeps.foldl
    | with_reducible refine Keeps.cast (by assumption) ?_
    | with_reducible refine Keeps.cast2 (by assumption) ?_
    | split

theorem State.rekeyUpper_keeps {r₀ s : State} (h r lv k : Nat) (hk : Keeps r₀ s) :
    Keeps r₀ (s.rekeyUpper h r lv k) := by
  unfold State.rekeyUpper
  repeat' first
    | with_reducible assumption
    | intro _
    | (extract_lets +onlyGivenNames x; clear_value (ex : x = _); have hx : Keeps r₀ x.2 := ?_)
    | (extract_lets +onlyGivenNames x; clear_value (ex : x = _); refine_lift have hx : ∀ y, Keeps r₀ y → Keeps r₀ (x y) := ?_; ?_; rotate_left; focus (rw [ex]; intros))
    | (extract_lets +onlyGivenNames x; clear_value x)
    | with_reducible apply State.cachePut_keeps
    | with_reducible apply State.putNode_keeps
    | with_reducible apply NodeRes.elimNode_keeps
    | with_reducible apply State.remacSram_keeps
    | with_reducible apply State.remacMem_keeps
    | with_reducible apply State.getNode_keeps
    | with_reducible apply State.writeBack_keeps
    | with_reducible apply State.settleNode_keeps
    | with_reducible refine Keeps.cast2 (by assumption) ?_
    | with_reducible apply_assumption -exfalso -symm
    | split

theorem State.rekeyUppers_keeps {r₀ s : State} (h r pos : Nat) (hk : Keeps r₀ s) :
    Keeps r₀ (s.rekeyUppers h r pos) := by
  unfold State.rekeyUppers
  repeat' first
    | with_reducible assumption
    | intro _
    | (extract_lets +onlyGivenNames x; clear_value x)
    | with_reducible apply State.rekeyUpper_keeps
    | with_reducible apply Keeps.foldl
    | split

theorem State.rekeyDone_keeps {r₀ s : State} (h r : Nat) (hk : Keeps r₀ s) :
    Keeps r₀ (s.rekeyDone h r) := by
  unfold State.rekeyDone
  repeat' first
    | with_reducible assumption
    | (extract_lets +onlyGivenNames x; clear_value (ex : x = _); have hx : Keeps r₀ x := ?_)
    | (extract_lets +onlyGivenNames x; clear_value x)
    | with_reducible apply State.setCsr_keeps
    | with_reducible apply State.setFld_keeps
    | with_reducible apply State.setBit_keeps
    | with_reducible apply State.setMpe_keeps
    | with_reducible refine Keeps.cast (by assumption) ?_
    | split

theorem State.granuleDone_keeps {r₀ s : State} (h r : Nat) (hk : Keeps r₀ s) :
    Keeps r₀ (s.granuleDone h r) := by
  unfold State.granuleDone
  repeat' first
    | with_reducible assumption
    | intro _
    | (extract_lets +onlyGivenNames x; clear_value x)
    | with_reducible apply State.setMpe_keeps
    | with_reducible apply State.mpeGo_keeps
    | with_reducible apply Keeps.foldl

theorem State.rekeyGranule_keeps {r₀ s : State} (h upto : Nat) (hk : Keeps r₀ s) :
    Keeps r₀ (s.rekeyGranule h upto) := by
  unfold State.rekeyGranule
  repeat' first
    | with_reducible assumption
    | intro _
    | (extract_lets +onlyGivenNames x; clear_value (ex : x = _); have hx : Keeps r₀ x := ?_)
    | (extract_lets +onlyGivenNames x; clear_value x)
    | with_reducible apply State.setCsr64_keeps
    | with_reducible apply State.setMpe_keeps
    | with_reducible apply State.rekeyEnc_keeps
    | with_reducible apply State.rekeyNode_keeps
    | with_reducible apply State.rekeyUppers_keeps
    | with_reducible apply State.rekeyDone_keeps
    | with_reducible apply State.granuleDone_keeps
    | with_reducible apply Keeps.foldl
    | with_reducible refine Keeps.cast (by assumption) ?_
    | split

theorem execRekeyGranule_keeps {r₀ s : State} (hub : Fin 2) (upto : Fin 65) (hk : Keeps r₀ s) :
    ∀ s', execRekeyGranule hub upto s = .next s' → Keeps r₀ s' := by
  unfold execRekeyGranule
  repeat' first
    | with_reducible assumption
    | with_reducible refine Keeps.next ?_
    | with_reducible apply State.rekeyGranule_keeps
    | split

theorem execWcbHoldExpiry_keeps {r₀ s : State} (hub : Fin 2) (hk : Keeps r₀ s) :
    ∀ s', execWcbHoldExpiry hub s = .next s' → Keeps r₀ s' := by
  unfold execWcbHoldExpiry
  repeat' first
    | with_reducible assumption
    | with_reducible refine Keeps.next ?_
    | with_reducible apply State.trim_keeps
    | with_reducible apply State.wcbWrite_keeps
    | split

theorem State.upsetCache_keeps {r₀ s : State} (h : Nat) (places : List Nat) (hk : Keeps r₀ s) :
    Keeps r₀ (s.upsetCache h places) := by
  unfold State.upsetCache
  repeat' first
    | with_reducible assumption
    | (extract_lets +onlyGivenNames x; clear_value x)
    | with_reducible apply State.setMpe_keeps

theorem execTreeScrub_keeps {r₀ s0 : State} (hub : Fin 2) (upsets : List Nat) (hs0 : Keeps r₀ s0) :
    ∀ s', execTreeScrub hub upsets s0 = .next s' → Keeps r₀ s' := by
  unfold execTreeScrub
  repeat' first
    | with_reducible assumption
    | with_reducible refine Keeps.next ?_
    | (extract_lets +onlyGivenNames x; clear_value (ex : x = _); have hx : Keeps r₀ x := ?_)
    | (extract_lets +onlyGivenNames x; clear_value (ex : x = _); have hx : Keeps r₀ x.2 := ?_)
    | (extract_lets +onlyGivenNames x; clear_value x)
    | with_reducible apply State.setMpe_keeps
    | with_reducible apply State.sramRead_keeps
    | with_reducible apply NodeRes.elimNode_keeps
    | with_reducible apply State.badSram_keeps
    | with_reducible apply State.getNode_keeps
    | with_reducible apply State.upsetCache_keeps
    | with_reducible refine Keeps.cast (by assumption) ?_
    | with_reducible refine Keeps.cast2 (by assumption) ?_
    | split
    | (extract_lets +onlyGivenNames x)
    | intro _

theorem State.fenceGo_keeps {r₀ s : State} (h : Nat) (value : Word) (hk : Keeps r₀ s) :
    Keeps r₀ (s.fenceGo h value) := by
  unfold State.fenceGo
  repeat' first
    | with_reducible assumption
    | (extract_lets +onlyGivenNames x; clear_value x)
    | with_reducible apply State.setFld_keeps
    | with_reducible apply State.setMpe_keeps
    | split

theorem execMpeFenceGo_keeps {r₀ s : State} (mid : BitVec 12) (hub : Fin 2) (value : Word) (hk : Keeps r₀ s) :
    ∀ s', execMpeFenceGo mid hub value s = .next s' → Keeps r₀ s' := by
  unfold execMpeFenceGo
  repeat' first
    | with_reducible assumption
    | with_reducible refine fun _ (_ : Keeps r₀ _) => ?_
    | with_reducible refine Keeps.next ?_
    | with_reducible apply levelSWrite_keeps
    | with_reducible apply State.fenceGo_keeps

theorem execMpeFenceDone_keeps {r₀ s : State} (hub : Fin 2) (hk : Keeps r₀ s) :
    ∀ s', execMpeFenceDone hub s = .next s' → Keeps r₀ s' := by
  unfold execMpeFenceDone
  repeat' first
    | with_reducible assumption
    | with_reducible refine Keeps.next ?_
    | (extract_lets +onlyGivenNames x; clear_value x)
    | with_reducible apply State.setFld_keeps
    | with_reducible apply State.setMpe_keeps
    | split

theorem State.mpeQuiesce_keeps {r₀ s : State} (h : Nat) (hk : Keeps r₀ s) :
    Keeps r₀ (s.mpeQuiesce h) := by
  unfold State.mpeQuiesce
  repeat' first
    | with_reducible assumption
    | (extract_lets +onlyGivenNames x; clear_value (ex : x = _); have hx : Keeps r₀ x := ?_)
    | (extract_lets +onlyGivenNames x; clear_value x)
    | with_reducible apply State.setFld_keeps
    | with_reducible apply State.setMpe_keeps
    | with_reducible apply State.cacheDrop_keeps
    | with_reducible apply State.flushCache_keeps
    | with_reducible apply State.wcbFlush_keeps
    | with_reducible refine Keeps.cast (by assumption) ?_

theorem State.mpeResume_keeps {r₀ s : State} (h : Nat) (hk : Keeps r₀ s) :
    Keeps r₀ (s.mpeResume h) := by
  unfold State.mpeResume
  repeat' first
    | with_reducible assumption
    | (extract_lets +onlyGivenNames x; clear_value (ex : x = _); have hx : Keeps r₀ x := ?_)
    | with_reducible apply State.setCsr_keeps
    | with_reducible apply State.setCsr64_keeps
    | with_reducible apply State.setFld_keeps
    | with_reducible refine Keeps.cast (by assumption) ?_
    | split

end Sys2Proof.Machine
end

