-- ==== Sys2Proof/Laws/KeepsQueue.lean ====
section
/-! SUPPORT. What every operation and meaning keeps (`Keeps`): debug requests, MSI-X, the queue engines, command replies, SAFE and the package. -/

namespace Sys2Proof.Machine

open Sys2Proof

set_option maxRecDepth 4000

/-! ### Msix -/

theorem State.msixFire_keeps {r₀ s : State} (p v : Nat) (hk : Keeps r₀ s) :
    Keeps r₀ (s.msixFire p v) := by
  unfold State.msixFire
  repeat' first
    | with_reducible assumption
    | (extract_lets +onlyGivenNames x; clear_value x)
    | with_reducible apply State.setFld_keeps
    | with_reducible apply State.send_keeps
    | split

theorem State.msixEdges_keeps {r₀ s old : State} (hk : Keeps r₀ s) (hold : Keeps r₀ old) :
    Keeps r₀ (s.msixEdges old) := by
  unfold State.msixEdges
  repeat' first
    | with_reducible assumption
    | intro _
    | with_reducible apply State.msixFire_keeps
    | with_reducible apply Keeps.foldl
    | split

theorem State.msixTableWrite_keeps {r₀ s : State} (p i : Nat) (v : Word) (hk : Keeps r₀ s) :
    Keeps r₀ (s.msixTableWrite p i v) := by
  unfold State.msixTableWrite
  repeat' first
    | with_reducible assumption
    | (extract_lets +onlyGivenNames x; clear_value (ex : x = _); have hx : Keeps r₀ x := ?_)
    | with_reducible apply State.setCsr_keeps
    | with_reducible apply State.msixFire_keeps
    | with_reducible refine Keeps.cast (by assumption) ?_
    | split

theorem State.portFlag_keeps {r₀ s : State} (f : Fld) (p block unit sev : Nat) (addr : DWord) (info : Word) (hk : Keeps r₀ s) :
    Keeps r₀ (s.portFlag f p block unit sev addr info) := by
  unfold State.portFlag
  repeat' first
    | with_reducible assumption
    | with_reducible apply State.raise_keeps
    | with_reducible apply State.msixEdges_keeps

theorem State.portRefused_keeps {r₀ s : State} (f : Fld) (hk : Keeps r₀ s) :
    Keeps r₀ (s.portRefused f) := by
  unfold State.portRefused
  repeat' first
    | with_reducible assumption
    | with_reducible apply State.setFld_keeps
    | with_reducible apply State.msixEdges_keeps

/-! ### Queue -/

theorem State.setQueue_keeps {r₀ s : State} (h q : Nat) (x : QSt) (hk : Keeps r₀ s) :
    Keeps r₀ (s.setQueue h q x) := by
  unfold State.setQueue
  repeat' first
    | with_reducible assumption
    | (extract_lets +onlyGivenNames x; clear_value x)
    | fail_if_no_progress (with_reducible apply Keeps.upd)

theorem State.qFlag_keeps {r₀ s : State} (h q : Nat) (f : Fld) (refusal : Bool) (hk : Keeps r₀ s) :
    Keeps r₀ (s.qFlag h q f refusal) := by
  unfold State.qFlag
  repeat' first
    | with_reducible assumption
    | (extract_lets +onlyGivenNames x; clear_value (ex : x = _); have hx : Keeps r₀ x := ?_)
    | with_reducible apply State.setCsr_keeps
    | with_reducible apply State.setFld_keeps
    | with_reducible apply State.raise_keeps
    | with_reducible refine Keeps.cast (by assumption) ?_
    | split

theorem State.mapDescs_keeps {r₀ s : State} (h q : Nat) (f : QDesc → QDesc) (hk : Keeps r₀ s) :
    Keeps r₀ (s.mapDescs h q f) := by
  unfold State.mapDescs
  repeat' first
    | with_reducible assumption
    | (extract_lets +onlyGivenNames x; clear_value x)
    | with_reducible apply State.setQueue_keeps

theorem State.setFrames_keeps {r₀ s : State} (p : Nat) (l : List Frame) (hk : Keeps r₀ s) :
    Keeps r₀ (s.setFrames p l) := by
  unfold State.setFrames
  repeat' first
    | with_reducible assumption
    | (extract_lets +onlyGivenNames x; clear_value x)
    | fail_if_no_progress (with_reducible apply Keeps.upd)

theorem State.qFinish_keeps {r₀ s : State} (h q : Nat) (index : BitVec 16) (st : Status) (detail : Nat) (late : Bool) (xfer : Nat) (ts : Word) (hk : Keeps r₀ s) :
    Keeps r₀ (s.qFinish h q index st detail late xfer ts) := by
  unfold State.qFinish
  repeat' first
    | with_reducible assumption
    | with_reducible apply State.mapDescs_keeps

theorem State.fenceFrames_keeps {r₀ s : State} (p : Nat) (sel : Frame → Bool) (hk : Keeps r₀ s) :
    Keeps r₀ (s.fenceFrames p sel) := by
  unfold State.fenceFrames
  repeat' first
    | with_reducible assumption
    | intro _
    | (extract_lets +onlyGivenNames x; clear_value (ex : x = _); have hx : Keeps r₀ x := ?_)
    | (extract_lets +onlyGivenNames x; clear_value x)
    | with_reducible apply State.setFrames_keeps
    | with_reducible apply State.qFinish_keeps
    | with_reducible apply Keeps.foldl
    | with_reducible refine Keeps.cast (by assumption) ?_
    | split

theorem State.dropArmed_keeps {r₀ s : State} (h q : Nat) (hk : Keeps r₀ s) :
    Keeps r₀ (s.dropArmed h q) := by
  unfold State.dropArmed
  repeat' first
    | with_reducible assumption
    | with_reducible apply State.mapDescs_keeps

theorem State.intakeLeave_keeps {r₀ s : State} (h q : Nat) (hk : Keeps r₀ s) :
    Keeps r₀ (s.intakeLeave h q) := by
  unfold State.intakeLeave
  repeat' first
    | with_reducible assumption
    | intro _
    | with_reducible apply State.fenceFrames_keeps
    | with_reducible apply State.dropArmed_keeps
    | with_reducible apply Keeps.foldl
    | split

theorem State.qEnter_keeps {r₀ s : State} (h q st : Nat) (hk : Keeps r₀ s) :
    Keeps r₀ (s.qEnter h q st) := by
  unfold State.qEnter
  repeat' first
    | with_reducible assumption
    | (extract_lets +onlyGivenNames x; clear_value (ex : x = _); have hx : Keeps r₀ x := ?_)
    | with_reducible apply State.setFld_keeps
    | with_reducible apply State.intakeLeave_keeps
    | with_reducible refine Keeps.cast (by assumption) ?_
    | split

theorem State.qDisable_keeps {r₀ s : State} (h q : Nat) (hk : Keeps r₀ s) :
    Keeps r₀ (s.qDisable h q) := by
  unfold State.qDisable
  repeat' first
    | with_reducible assumption
    | with_reducible apply State.setFld_keeps
    | with_reducible apply State.qEnter_keeps

theorem State.qStall_keeps {r₀ s : State} (h q : Nat) (hk : Keeps r₀ s) :
    Keeps r₀ (s.qStall h q) := by
  unfold State.qStall
  repeat' first
    | with_reducible assumption
    | (extract_lets +onlyGivenNames x; clear_value x)
    | with_reducible apply State.qFlag_keeps
    | with_reducible apply State.qEnter_keeps
    | split

theorem State.qAdvance_keeps {r₀ s0 : State} (h q : Nat) (hs0 : Keeps r₀ s0) :
    Keeps r₀ (s0.qAdvance h q) := by
  unfold State.qAdvance
  repeat' first
    | with_reducible assumption
    | (extract_lets +onlyGivenNames x; clear_value (ex : x = _); have hx : Keeps r₀ x := ?_)
    | (extract_lets +onlyGivenNames x; clear_value x)
    | with_reducible apply State.qEnter_keeps
    | with_reducible apply State.qDisable_keeps
    | with_reducible apply State.qStall_keeps
    | with_reducible refine Keeps.cast (by assumption) ?_
    | split

theorem State.qDrain_keeps {r₀ s : State} (h q : Nat) (hk : Keeps r₀ s) :
    Keeps r₀ (s.qDrain h q) := by
  unfold State.qDrain
  repeat' first
    | with_reducible assumption
    | (extract_lets +onlyGivenNames x; clear_value (ex : x = _); have hx : Keeps r₀ x := ?_)
    | with_reducible apply State.mapDescs_keeps
    | with_reducible apply State.qEnter_keeps
    | with_reducible apply State.qAdvance_keeps
    | with_reducible refine Keeps.cast (by assumption) ?_

theorem State.qRequest_keeps {r₀ s : State} (h q tag opc addr len : Nat) (bs : List PByte) (hk : Keeps r₀ s) :
    Keeps r₀ (s.qRequest h q tag opc addr len bs) := by
  unfold State.qRequest
  repeat' first
    | with_reducible assumption
    | with_reducible apply State.issue_keeps

theorem State.qWriteRecord_keeps {r₀ s : State} (h q tag : Nat) (hk : Keeps r₀ s) :
    Keeps r₀ (s.qWriteRecord h q tag) := by
  unfold State.qWriteRecord
  repeat' first
    | with_reducible assumption
    | (extract_lets +onlyGivenNames x; clear_value (ex : x = _); have hx : Keeps r₀ x := ?_)
    | (extract_lets +onlyGivenNames x; clear_value x)
    | with_reducible apply State.setQueue_keeps
    | with_reducible apply State.qStall_keeps
    | with_reducible apply State.qRequest_keeps
    | with_reducible refine Keeps.cast (by assumption) ?_
    | split

theorem State.setQEvts_keeps {r₀ s : State} (h : Nat) (l : List Nat) (hk : Keeps r₀ s) :
    Keeps r₀ (s.setQEvts h l) := by
  unfold State.setQEvts
  repeat' first
    | with_reducible assumption
    | (extract_lets +onlyGivenNames x; clear_value x)
    | fail_if_no_progress (with_reducible apply Keeps.upd)

theorem State.qEvent_keeps {r₀ s : State} (h q : Nat) (hk : Keeps r₀ s) :
    Keeps r₀ (s.qEvent h q) := by
  unfold State.qEvent
  repeat' first
    | with_reducible assumption
    | with_reducible apply State.msixEdges_keeps
    | with_reducible apply State.setQEvts_keeps
    | split

theorem State.qRecordDone_keeps {r₀ s : State} (h q : Nat) (hk : Keeps r₀ s) :
    Keeps r₀ (s.qRecordDone h q) := by
  unfold State.qRecordDone
  repeat' first
    | with_reducible assumption
    | (extract_lets +onlyGivenNames x; clear_value (ex : x = _); have hx : Keeps r₀ x := ?_)
    | (extract_lets +onlyGivenNames x; clear_value x)
    | with_reducible apply State.setFld_keeps
    | with_reducible apply State.setQueue_keeps
    | with_reducible apply State.qEnter_keeps
    | with_reducible apply State.qAdvance_keeps
    | with_reducible apply State.qEvent_keeps
    | with_reducible refine Keeps.cast (by assumption) ?_
    | split

theorem execCompletionRecordWrite_keeps {r₀ s : State} (hub : Fin 2) (q : Fin 4096) (tag : Fin 8192) (hk : Keeps r₀ s) :
    ∀ s', execCompletionRecordWrite hub q tag s = .next s' → Keeps r₀ s' := by
  unfold execCompletionRecordWrite
  repeat' first
    | with_reducible assumption
    | with_reducible refine Keeps.next ?_
    | with_reducible apply State.dropInbox_keeps
    | with_reducible apply State.qWriteRecord_keeps
    | with_reducible apply State.qRecordDone_keeps
    | split

theorem State.qShowHeld_keeps {r₀ s : State} (h q : Nat) (bits : BitVec 128) (hk : Keeps r₀ s) :
    Keeps r₀ (s.qShowHeld h q bits) := by
  unfold State.qShowHeld
  repeat' first
    | with_reducible assumption
    | intro _
    | with_reducible apply State.setCsr_keeps
    | with_reducible apply Keeps.foldl

theorem execQeCqErr_keeps {r₀ s : State} (hub : Fin 2) (q : Fin 4096) (hk : Keeps r₀ s) :
    ∀ s', execQeCqErr hub q s = .next s' → Keeps r₀ s' := by
  unfold execQeCqErr
  repeat' first
    | with_reducible assumption
    | with_reducible refine Keeps.next ?_
    | (extract_lets +onlyGivenNames x; clear_value (ex : x = _); have hx : Keeps r₀ x := ?_)
    | (extract_lets +onlyGivenNames x; clear_value x)
    | with_reducible apply State.dropInbox_keeps
    | with_reducible apply State.setQueue_keeps
    | with_reducible apply State.qFlag_keeps
    | with_reducible apply State.qEnter_keeps
    | with_reducible apply State.qShowHeld_keeps
    | with_reducible refine Keeps.cast (by assumption) ?_
    | split

theorem State.qDoorbell_keeps {r₀ s : State} (mid h q : Nat) (value : Word) (hk : Keeps r₀ s) :
    Keeps r₀ (s.qDoorbell mid h q value).1 := by
  unfold State.qDoorbell
  repeat' first
    | with_reducible assumption
    | (extract_lets +onlyGivenNames x; clear_value x)
    | with_reducible apply State.setFld_keeps
    | with_reducible apply State.qFlag_keeps
    | split

theorem State.qHeadWrite_keeps {r₀ s : State} (mid h q : Nat) (value : Word) (hk : Keeps r₀ s) :
    Keeps r₀ (s.qHeadWrite mid h q value).1 := by
  unfold State.qHeadWrite
  repeat' first
    | with_reducible assumption
    | (extract_lets +onlyGivenNames x; clear_value x)
    | with_reducible apply State.setFld_keeps
    | with_reducible apply State.qFlag_keeps
    | split

theorem execDoorbell_keeps {r₀ s : State} (mid : BitVec 12) (hub : Fin 2) (q : Fin 4096) (value : Word) (hk : Keeps r₀ s) :
    ∀ s', execDoorbell mid hub q value s = .next s' → Keeps r₀ s' := by
  unfold execDoorbell
  repeat' first
    | with_reducible assumption
    | with_reducible refine fun _ (_ : Keeps r₀ _) => ?_
    | with_reducible refine Keeps.next ?_
    | with_reducible apply State.regWrite_keeps
    | with_reducible apply State.qDoorbell_keeps

theorem execCqhWrite_keeps {r₀ s : State} (mid : BitVec 12) (hub : Fin 2) (q : Fin 4096) (value : Word) (hk : Keeps r₀ s) :
    ∀ s', execCqhWrite mid hub q value s = .next s' → Keeps r₀ s' := by
  unfold execCqhWrite
  repeat' first
    | with_reducible assumption
    | with_reducible refine fun _ (_ : Keeps r₀ _) => ?_
    | with_reducible refine Keeps.next ?_
    | with_reducible apply State.regWrite_keeps
    | with_reducible apply State.qHeadWrite_keeps

theorem State.qEnable_keeps {r₀ s : State} (h q : Nat) (hk : Keeps r₀ s) :
    Keeps r₀ (s.qEnable h q) := by
  unfold State.qEnable
  repeat' first
    | with_reducible assumption
    | (extract_lets +onlyGivenNames x; clear_value (ex : x = _); have hx : Keeps r₀ x := ?_)
    | (extract_lets +onlyGivenNames x; clear_value x)
    | with_reducible apply State.setFld_keeps
    | with_reducible apply State.setQueue_keeps
    | with_reducible apply State.qFlag_keeps
    | with_reducible apply State.qEnter_keeps
    | with_reducible apply State.qShowHeld_keeps
    | with_reducible refine Keeps.cast (by assumption) ?_
    | split

theorem State.qOff_keeps {r₀ s : State} (h q : Nat) (hk : Keeps r₀ s) :
    Keeps r₀ (s.qOff h q) := by
  unfold State.qOff
  repeat' first
    | with_reducible assumption
    | (extract_lets +onlyGivenNames x; clear_value x)
    | with_reducible apply State.mapDescs_keeps
    | with_reducible apply State.qDisable_keeps
    | with_reducible apply State.qDrain_keeps
    | split

theorem State.qSignals_keeps {r₀ s : State} (h q : Nat) (v : Word) (hk : Keeps r₀ s) :
    Keeps r₀ (s.qSignals h q v) := by
  unfold State.qSignals
  repeat' first
    | with_reducible assumption
    | (extract_lets +onlyGivenNames x; clear_value x)
    | with_reducible apply State.setQueue_keeps
    | with_reducible apply State.qEnter_keeps
    | split

theorem State.qCfgWrite_keeps {r₀ s : State} (h q : Nat) (v : Word) (hk : Keeps r₀ s) :
    Keeps r₀ (s.qCfgWrite h q v) := by
  unfold State.qCfgWrite
  repeat' first
    | with_reducible assumption
    | (extract_lets +onlyGivenNames x; clear_value (ex : x = _); have hx : Keeps r₀ x := ?_)
    | (extract_lets +onlyGivenNames x; clear_value x)
    | with_reducible apply State.setCsr_keeps
    | with_reducible apply State.qFlag_keeps
    | with_reducible apply State.qEnable_keeps
    | with_reducible apply State.qOff_keeps
    | with_reducible apply State.qSignals_keeps
    | with_reducible refine Keeps.cast (by assumption) ?_
    | split

theorem State.qCfgBy_keeps {r₀ s : State} (may : Bool) (h q : Nat) (v : Word) (hk : Keeps r₀ s) :
    Keeps r₀ (s.qCfgBy may h q v).1 := by
  unfold State.qCfgBy
  repeat' first
    | with_reducible assumption
    | with_reducible apply State.qSignals_keeps
    | with_reducible apply State.qCfgWrite_keeps
    | split

theorem State.qCfgCommand_keeps {r₀ s : State} (mid : BitVec 12) (h q : Nat) (v : Word) (hk : Keeps r₀ s) :
    Keeps r₀ (s.qCfgCommand mid h q v) := by
  unfold State.qCfgCommand
  repeat' first
    | with_reducible assumption
    | intro _
    | with_reducible apply State.regWrite_keeps
    | with_reducible apply State.qCfgBy_keeps

theorem execQueueEnable_keeps {r₀ s : State} (mid : BitVec 12) (hub : Fin 2) (q : Fin 4096) (cfg : Word) (hk : Keeps r₀ s) :
    ∀ s', execQueueEnable mid hub q cfg s = .next s' → Keeps r₀ s' := by
  unfold execQueueEnable
  repeat' first
    | with_reducible assumption
    | with_reducible refine Keeps.next ?_
    | with_reducible apply State.qCfgCommand_keeps

theorem execQueueDisable_keeps {r₀ s : State} (mid : BitVec 12) (hub : Fin 2) (q : Fin 4096) (cfg : Word) (hk : Keeps r₀ s) :
    ∀ s', execQueueDisable mid hub q cfg s = .next s' → Keeps r₀ s' := by
  unfold execQueueDisable
  repeat' first
    | with_reducible assumption
    | with_reducible refine Keeps.next ?_
    | with_reducible apply State.qCfgCommand_keeps

theorem execQueueResume_keeps {r₀ s : State} (mid : BitVec 12) (hub : Fin 2) (q : Fin 4096) (cfg : Word) (hk : Keeps r₀ s) :
    ∀ s', execQueueResume mid hub q cfg s = .next s' → Keeps r₀ s' := by
  unfold execQueueResume
  repeat' first
    | with_reducible assumption
    | with_reducible refine Keeps.next ?_
    | with_reducible apply State.qCfgCommand_keeps

theorem execRetry_keeps {r₀ s : State} (mid : BitVec 12) (hub : Fin 2) (q : Fin 4096) (cfg : Word) (hk : Keeps r₀ s) :
    ∀ s', execRetry mid hub q cfg s = .next s' → Keeps r₀ s' := by
  unfold execRetry
  repeat' first
    | with_reducible assumption
    | with_reducible refine Keeps.next ?_
    | with_reducible apply State.qCfgCommand_keeps

theorem State.qBaseWrite_keeps {r₀ s : State} (h q : Nat) (cbase : Bool) (key : Nat) (v : Word) (hk : Keeps r₀ s) :
    Keeps r₀ (s.qBaseWrite h q cbase key v) := by
  unfold State.qBaseWrite
  repeat' first
    | with_reducible assumption
    | with_reducible apply State.setCsr_keeps
    | with_reducible apply State.qFlag_keeps
    | split

theorem execDescriptorFetch_keeps {r₀ s : State} (hub : Fin 2) (q : Fin 4096) (tag : Fin 8192) (hk : Keeps r₀ s) :
    ∀ s', execDescriptorFetch hub q tag s = .next s' → Keeps r₀ s' := by
  unfold execDescriptorFetch
  repeat' first
    | with_reducible assumption
    | with_reducible refine Keeps.next ?_
    | (extract_lets +onlyGivenNames x; clear_value (ex : x = _); have hx : Keeps r₀ x := ?_)
    | (extract_lets +onlyGivenNames x; clear_value x)
    | with_reducible apply State.setFld_keeps
    | with_reducible apply State.setQueue_keeps
    | with_reducible apply State.qRequest_keeps
    | with_reducible refine Keeps.cast (by assumption) ?_
    | split

theorem State.qIssue_keeps {r₀ s : State} (h q tag pos : Nat) (write : Bool) (c : QChunk) (hk : Keeps r₀ s) :
    Keeps r₀ (s.qIssue h q tag pos write c) := by
  unfold State.qIssue
  repeat' first
    | with_reducible assumption
    | (extract_lets +onlyGivenNames x; clear_value x)
    | with_reducible apply State.setQueue_keeps
    | with_reducible apply State.qRequest_keeps
    | split

theorem execQeTransactionIssue_keeps {r₀ s : State} (hub : Fin 2) (tag : Fin 8192) (pick : Nat) (hk : Keeps r₀ s) :
    ∀ s', execQeTransactionIssue hub tag pick s = .next s' → Keeps r₀ s' := by
  unfold execQeTransactionIssue
  repeat' first
    | with_reducible assumption
    | with_reducible refine Keeps.next ?_
    | (extract_lets +onlyGivenNames x; clear_value (ex : x = _); have hx : Keeps r₀ x := ?_)
    | (extract_lets +onlyGivenNames x; clear_value x)
    | with_reducible apply State.qIssue_keeps
    | with_reducible refine Keeps.cast (by assumption) ?_
    | split
    | (extract_lets +onlyGivenNames x)
    | fail_if_no_progress (with_reducible apply Keeps.upd)

theorem State.qApply_keeps {r₀ s : State} (h q : Nat) (c : Delivered) (hk : Keeps r₀ s) :
    Keeps r₀ (s.qApply h q c) := by
  unfold State.qApply
  repeat' first
    | with_reducible assumption
    | (extract_lets +onlyGivenNames x; clear_value x)
    | with_reducible apply State.mapDescs_keeps
    | with_reducible apply State.qAdvance_keeps

theorem execQeTransactionDone_keeps {r₀ s : State} (hub : Fin 2) (tag : Fin 8192) (hk : Keeps r₀ s) :
    ∀ s', execQeTransactionDone hub tag s = .next s' → Keeps r₀ s' := by
  unfold execQeTransactionDone
  repeat' first
    | with_reducible assumption
    | with_reducible refine Keeps.next ?_
    | with_reducible apply State.dropInbox_keeps
    | with_reducible apply State.qApply_keeps
    | split

theorem State.qEvtPop_keeps {r₀ s : State} (h : Nat) (hk : Keeps r₀ s) :
    Keeps r₀ (s.qEvtPop h) := by
  unfold State.qEvtPop
  repeat' first
    | with_reducible assumption
    | with_reducible apply State.setQEvts_keeps

theorem State.qResetEnd_keeps {r₀ s : State} (h q : Nat) (hk : Keeps r₀ s) :
    Keeps r₀ (s.qResetEnd h q) := by
  unfold State.qResetEnd
  repeat' first
    | with_reducible assumption
    | (extract_lets +onlyGivenNames x; clear_value (ex : x = _); have hx : Keeps r₀ x := ?_)
    | (extract_lets +onlyGivenNames x; clear_value x)
    | with_reducible apply State.setFld_keeps
    | with_reducible apply State.setQueue_keeps
    | with_reducible apply State.intakeLeave_keeps
    | with_reducible apply State.qShowHeld_keeps
    | with_reducible refine Keeps.cast (by assumption) ?_
    | split

theorem State.qeResetEnd_keeps {r₀ s : State} (h : Nat) (hk : Keeps r₀ s) :
    Keeps r₀ (s.qeResetEnd h) := by
  unfold State.qeResetEnd
  repeat' first
    | with_reducible assumption
    | intro _
    | (extract_lets +onlyGivenNames x; clear_value (ex : x = _); have hx : Keeps r₀ x := ?_)
    | (extract_lets +onlyGivenNames x; clear_value x)
    | with_reducible apply State.qResetEnd_keeps
    | with_reducible apply Keeps.foldl
    | with_reducible refine Keeps.cast (by assumption) ?_
    | split
    | fail_if_no_progress (with_reducible apply Keeps.upd)

theorem State.qeWind_keeps {r₀ s : State} (h : Nat) (hk : Keeps r₀ s) :
    Keeps r₀ (s.qeWind h) := by
  unfold State.qeWind
  repeat' first
    | with_reducible assumption
    | intro _
    | (extract_lets +onlyGivenNames x; clear_value x)
    | with_reducible apply State.mapDescs_keeps
    | with_reducible apply State.qAdvance_keeps
    | with_reducible apply Keeps.foldl
    | split

/-! ### Reply -/

theorem State.xferIssue_keeps {r₀ s : State} (x : Xfer) (hk : Keeps r₀ s) :
    Keeps r₀ (s.xferIssue x).2 := by
  unfold State.xferIssue
  repeat' first
    | with_reducible assumption
    | (extract_lets +onlyGivenNames x; clear_value x)
    | with_reducible apply State.issue_keeps
    | split

theorem State.xferPump_keeps {r₀ x1 : State} (x0 : Nat) (x2 : Xfer) (hx1 : Keeps r₀ x1) :
    Keeps r₀ (State.xferPump x0 x1 x2).2 := by
  induction x0 generalizing x1 x2
  all_goals
    unfold State.xferPump
    repeat' first
      | with_reducible assumption
      | (extract_lets +onlyGivenNames x; clear_value (ex : x = _); have hx : Keeps r₀ x.2 := ?_)
      | with_reducible apply State.dropInbox_keeps
      | with_reducible apply State.xferIssue_keeps
      | with_reducible refine Keeps.cast2 (by assumption) ?_
      | with_reducible apply_assumption -exfalso -symm
      | split

theorem State.setTr_keeps {r₀ s : State} (k : Nat) (t : Transport) (hk : Keeps r₀ s) :
    Keeps r₀ (s.setTr k t) := by
  unfold State.setTr
  repeat' first
    | with_reducible assumption
    | (extract_lets +onlyGivenNames x; clear_value x)
    | fail_if_no_progress (with_reducible apply Keeps.upd)

theorem State.pushReply_keeps {r₀ s : State} (k : Nat) (p : ReplyPkt) (hk : Keeps r₀ s) :
    Keeps r₀ (s.pushReply k p) := by
  unfold State.pushReply
  repeat' first
    | with_reducible assumption
    | (extract_lets +onlyGivenNames x; clear_value x)
    | with_reducible apply State.setTr_keeps

theorem State.answer_keeps {r₀ s : State} (k seq ver tag status : Nat) (res : List Word) (flags : Nat) (hk : Keeps r₀ s) :
    Keeps r₀ (s.answer k seq ver tag status res flags) := by
  unfold State.answer
  repeat' first
    | with_reducible assumption
    | (extract_lets +onlyGivenNames x; clear_value x)
    | with_reducible apply State.setTr_keeps
    | with_reducible apply State.pushReply_keeps

theorem State.showAccs_keeps {r₀ s : State} (hk : Keeps r₀ s) :
    Keeps r₀ (s.showAccs) := by
  unfold State.showAccs
  repeat' first
    | with_reducible assumption
    | with_reducible apply State.setFld_keeps

theorem State.cmdErr_keeps {r₀ s : State} (status : Nat) (hk : Keeps r₀ s) :
    Keeps r₀ (s.cmdErr status) := by
  unfold State.cmdErr
  repeat' first
    | with_reducible assumption
    | with_reducible apply State.setFld_keeps
    | split

theorem State.aoState_keeps {r₀ s : State} (hk : Keeps r₀ s) :
    Keeps r₀ (s.aoState).2 := by
  unfold State.aoState
  repeat' first
    | with_reducible assumption
    | (extract_lets +onlyGivenNames x; clear_value (ex : x = _); have hx : Keeps r₀ x.2 := ?_)
    | with_reducible apply State.free_keeps
    | with_reducible refine Keeps.cast2 (by assumption) ?_
    | split

theorem State.aoAnswer_keeps {r₀ s : State} (ws : List Word) (hk : Keeps r₀ s) :
    Keeps r₀ (s.aoAnswer ws).2 := by
  unfold State.aoAnswer
  repeat' first
    | with_reducible assumption
    | (extract_lets +onlyGivenNames x; clear_value (ex : x = _); have hx : Keeps r₀ x.2 := ?_)
    | (extract_lets +onlyGivenNames x; clear_value x)
    | with_reducible apply State.aoState_keeps
    | with_reducible refine Keeps.cast2 (by assumption) ?_
    | split

theorem State.packetIn_keeps {r₀ s : State} (k : Nat) (ws : List Word) (hk : Keeps r₀ s) :
    Keeps r₀ (s.packetIn k ws) := by
  unfold State.packetIn
  repeat' first
    | with_reducible assumption
    | (extract_lets +onlyGivenNames x; clear_value (ex : x = _); have hx : Keeps r₀ x := ?_)
    | (extract_lets +onlyGivenNames x; clear_value (ex : x = _); have hx : Keeps r₀ x.2 := ?_)
    | (extract_lets +onlyGivenNames x; clear_value x)
    | with_reducible apply State.setFld_keeps
    | with_reducible apply State.satInc_keeps
    | with_reducible apply State.setTr_keeps
    | with_reducible apply State.pushReply_keeps
    | with_reducible apply State.answer_keeps
    | with_reducible apply State.cmdErr_keeps
    | with_reducible apply State.aoAnswer_keeps
    | with_reducible refine Keeps.cast (by assumption) ?_
    | with_reducible refine Keeps.cast2 (by assumption) ?_
    | split
    | fail_if_no_progress (with_reducible apply Keeps.upd)

theorem State.deliverPacket_keeps {r₀ s : State} (k : Nat) (ws : List Word) (hk : Keeps r₀ s) :
    Keeps r₀ (s.deliverPacket k ws) := by
  unfold State.deliverPacket
  repeat' first
    | with_reducible assumption
    | (extract_lets +onlyGivenNames x; clear_value x)
    | with_reducible apply State.packetIn_keeps
    | split
    | fail_if_no_progress (with_reducible apply Keeps.upd)

theorem State.mcServe_keeps {r₀ s : State} (hk : Keeps r₀ s) :
    Keeps r₀ (s.mcServe) := by
  unfold State.mcServe
  repeat' first
    | with_reducible assumption
    | intro _
    | (extract_lets +onlyGivenNames x; clear_value (ex : x = _); have hx : Keeps r₀ x := ?_)
    | (extract_lets +onlyGivenNames x; clear_value x)
    | with_reducible apply State.setBit_keeps
    | with_reducible apply State.packetIn_keeps
    | with_reducible apply Keeps.foldl
    | with_reducible refine Keeps.cast (by assumption) ?_
    | split
    | (extract_lets +onlyGivenNames x)
    | fail_if_no_progress (with_reducible apply Keeps.upd)

theorem State.popWaiting_keeps {r₀ s : State} (hk : Keeps r₀ s) :
    Keeps r₀ (s.popWaiting) := by
  unfold State.popWaiting
  repeat' first
    | with_reducible assumption
    | (extract_lets +onlyGivenNames x; clear_value x)
    | with_reducible apply State.satInc_keeps
    | (extract_lets +onlyGivenNames x)
    | fail_if_no_progress (with_reducible apply Keeps.upd)

theorem State.answerTo_keeps {r₀ s : State} (w : Waiting) (status : Nat) (res : List Word) (hk : Keeps r₀ s) :
    Keeps r₀ (s.answerTo w status res) := by
  unfold State.answerTo
  repeat' first
    | with_reducible assumption
    | with_reducible apply State.answer_keeps

theorem State.acceptedTo_keeps {r₀ s : State} (w : Waiting) (result : Option (Nat × List Word)) (hk : Keeps r₀ s) :
    Keeps r₀ (s.acceptedTo w result) := by
  unfold State.acceptedTo
  repeat' first
    | with_reducible assumption
    | (extract_lets +onlyGivenNames x; clear_value x)
    | with_reducible apply State.showAccs_keeps
    | with_reducible apply State.answerTo_keeps
    | (extract_lets +onlyGivenNames x)
    | fail_if_no_progress (with_reducible apply Keeps.upd)

theorem State.cmdRun_keeps {r₀ s : State} (op : Nat) (f : Waiting → State → CmdEnd × State) (hk : Keeps r₀ s)
    (hf : ∀ w t, Keeps r₀ t → Keeps r₀ (f w t).2) : Keeps r₀ (s.cmdRun op f) := by
  unfold State.cmdRun
  generalize s.front op = w
  cases w with
  | none => exact hk
  | some w =>
    have h := hf w _ (State.popWaiting_keeps hk)
    dsimp only
    split
    · exact State.answerTo_keeps _ _ _ h
    · exact State.acceptedTo_keeps _ _ h

theorem State.accDone_keeps {r₀ s : State} (op status : Nat) (res : List Word) (hk : Keeps r₀ s) :
    Keeps r₀ (s.accDone op status res) := by
  unfold State.accDone
  repeat' first
    | with_reducible assumption
    | (extract_lets +onlyGivenNames x; clear_value x)
    | fail_if_no_progress (with_reducible apply Keeps.upd)

theorem State.cutCommands_keeps {r₀ s : State} (hk : Keeps r₀ s) :
    Keeps r₀ (s.cutCommands) := by
  unfold State.cutCommands
  repeat' first
    | with_reducible assumption
    | (extract_lets +onlyGivenNames x; clear_value x)
    | fail_if_no_progress (with_reducible apply Keeps.upd)

theorem State.safeCommands_keeps {r₀ s : State} (hk : Keeps r₀ s) :
    Keeps r₀ (s.safeCommands) := by
  unfold State.safeCommands
  repeat' first
    | with_reducible assumption
    | (extract_lets +onlyGivenNames x; clear_value x)
    | split
    | fail_if_no_progress (with_reducible apply Keeps.upd)

theorem execWriteFrame_keeps {r₀ s : State} (bytes : List Byte) (early : Bool) (hk : Keeps r₀ s) :
    ∀ s', execWriteFrame bytes early s = .next s' → Keeps r₀ s' := by
  unfold execWriteFrame
  repeat' first
    | with_reducible assumption
    | with_reducible refine Keeps.next ?_
    | (extract_lets +onlyGivenNames x; clear_value x)
    | with_reducible apply State.setFld_keeps
    | with_reducible apply State.satInc_keeps
    | with_reducible apply State.setTr_keeps
    | with_reducible apply State.deliverPacket_keeps
    | split

theorem execReadFrame_keeps {r₀ s : State} (full early : Bool) (hk : Keeps r₀ s) :
    ∀ s', execReadFrame full early s = .next s' → Keeps r₀ s' := by
  unfold execReadFrame
  repeat' first
    | with_reducible assumption
    | with_reducible refine Keeps.next ?_
    | with_reducible apply State.satInc_keeps
    | with_reducible apply State.send_keeps
    | with_reducible apply State.setTr_keeps
    | split

theorem execFrameErr_keeps {r₀ s : State} (first : Byte) (hk : Keeps r₀ s) :
    ∀ s', execFrameErr first s = .next s' → Keeps r₀ s' := by
  unfold execFrameErr
  repeat' first
    | with_reducible assumption
    | with_reducible refine Keeps.next ?_
    | with_reducible apply State.satInc_keeps
    | split

theorem execCmdpktUpdateDr_keeps {r₀ s : State} (word : Word) (last : Bool) (hk : Keeps r₀ s) :
    ∀ s', execCmdpktUpdateDr word last s = .next s' → Keeps r₀ s' := by
  unfold execCmdpktUpdateDr
  repeat' first
    | with_reducible assumption
    | with_reducible refine Keeps.next ?_
    | with_reducible apply State.setTr_keeps
    | with_reducible apply State.deliverPacket_keeps
    | split

theorem execCmdpktCaptureDr_keeps {r₀ s : State} (hk : Keeps r₀ s) :
    ∀ s', execCmdpktCaptureDr s = .next s' → Keeps r₀ s' := by
  unfold execCmdpktCaptureDr
  repeat' first
    | with_reducible assumption
    | with_reducible refine Keeps.next ?_
    | (extract_lets +onlyGivenNames x; clear_value x)
    | with_reducible apply State.send_keeps
    | with_reducible apply State.setTr_keeps
    | split

theorem State.mbxDoorbell_keeps {r₀ s : State} (m : MbxKind) (value : Word) (hk : Keeps r₀ s) :
    Keeps r₀ (s.mbxDoorbell m value) := by
  unfold State.mbxDoorbell
  repeat' first
    | with_reducible assumption
    | with_reducible apply State.setFld_keeps
    | with_reducible apply State.deliverPacket_keeps
    | split

theorem State.mbxReqWrite_keeps {r₀ s : State} (m : MbxKind) (i : Nat) (value : Word) (hk : Keeps r₀ s) :
    Keeps r₀ (s.mbxReqWrite m i value) := by
  unfold State.mbxReqWrite
  repeat' first
    | with_reducible assumption
    | with_reducible apply State.setCsr_keeps
    | with_reducible apply State.setFld_keeps
    | split

theorem execMbxDoorbell_keeps {r₀ s : State} (port : Fin 4) (value : Word) (hk : Keeps r₀ s) :
    ∀ s', execMbxDoorbell port value s = .next s' → Keeps r₀ s' := by
  unfold execMbxDoorbell
  repeat' first
    | with_reducible assumption
    | with_reducible refine Keeps.next ?_
    | with_reducible apply State.mbxDoorbell_keeps

theorem State.fabDoorbell_keeps {r₀ s : State} (mid : Nat) (value : Word) (hk : Keeps r₀ s) :
    Keeps r₀ (s.fabDoorbell mid value).1 := by
  unfold State.fabDoorbell
  repeat' first
    | with_reducible assumption
    | with_reducible apply State.mbxDoorbell_keeps
    | split

theorem execFabDoorbell_keeps {r₀ s : State} (mid : BitVec 12) (value : Word) (hk : Keeps r₀ s) :
    ∀ s', execFabDoorbell mid value s = .next s' → Keeps r₀ s' := by
  unfold execFabDoorbell
  repeat' first
    | with_reducible assumption
    | with_reducible refine fun _ (_ : Keeps r₀ _) => ?_
    | with_reducible refine Keeps.next ?_
    | with_reducible apply State.regWrite_keeps
    | with_reducible apply State.fabDoorbell_keeps

theorem execMbxReply_keeps {r₀ s : State} (mbx : MbxKind) (hk : Keeps r₀ s) :
    ∀ s', execMbxReply mbx s = .next s' → Keeps r₀ s' := by
  unfold execMbxReply
  repeat' first
    | with_reducible assumption
    | with_reducible refine fun _ _ (_ : Keeps r₀ _) => ?_
    | with_reducible refine Keeps.next ?_
    | (extract_lets +onlyGivenNames x; clear_value (ex : x = _); have hx : Keeps r₀ x := ?_)
    | with_reducible apply State.setCsr_keeps
    | with_reducible apply State.setFld_keeps
    | with_reducible apply State.msixEdges_keeps
    | with_reducible apply State.setTr_keeps
    | with_reducible apply Keeps.foldl
    | with_reducible refine Keeps.cast (by assumption) ?_
    | split

theorem State.mbxRdyClear_keeps {r₀ s : State} (m : MbxKind) (hk : Keeps r₀ s) :
    Keeps r₀ (s.mbxRdyClear m) := by
  unfold State.mbxRdyClear
  repeat' first
    | with_reducible assumption
    | (extract_lets +onlyGivenNames x; clear_value (ex : x = _); have hx : Keeps r₀ x := ?_)
    | with_reducible apply State.setFld_keeps
    | with_reducible refine Keeps.cast (by assumption) ?_
    | split

theorem execRdyClear_keeps {r₀ s : State} (transport : MbxKind) (hk : Keeps r₀ s) :
    ∀ s', execRdyClear transport s = .next s' → Keeps r₀ s' := by
  unfold execRdyClear
  repeat' first
    | with_reducible assumption
    | with_reducible refine Keeps.next ?_
    | with_reducible apply State.mbxRdyClear_keeps

/-! ### Epoch -/

theorem State.setV2_keeps {r₀ s : State} (b : Bool) (hk : Keeps r₀ s) :
    Keeps r₀ (s.setV2 b) := by
  unfold State.setV2
  repeat' first
    | with_reducible assumption
    | (extract_lets +onlyGivenNames x; clear_value (ex : x = _); have hx : Keeps r₀ x := ?_)
    | (extract_lets +onlyGivenNames x; clear_value x)
    | with_reducible apply State.setFld_keeps
    | with_reducible refine Keeps.cast (by assumption) ?_
    | (extract_lets +onlyGivenNames x)
    | fail_if_no_progress (with_reducible apply Keeps.upd)

theorem State.mapUnits_keeps {r₀ s : State} (f : FwUnit → FwUnit) (hk : Keeps r₀ s) :
    Keeps r₀ (s.mapUnits f) := by
  unfold State.mapUnits
  repeat' first
    | with_reducible assumption
    | intro _
    | with_reducible apply State.setFwUnit_keeps
    | with_reducible apply Keeps.foldl

theorem State.epochCommit_keeps {r₀ s : State} (hk : Keeps r₀ s) :
    Keeps r₀ (s.epochCommit) := by
  unfold State.epochCommit
  repeat' first
    | with_reducible assumption
    | (extract_lets +onlyGivenNames x; clear_value (ex : x = _); have hx : Keeps r₀ x := ?_)
    | (extract_lets +onlyGivenNames x; clear_value x)
    | with_reducible apply State.ltsWrite_keeps
    | with_reducible apply State.accDone_keeps
    | with_reducible apply State.setV2_keeps
    | with_reducible apply State.mapUnits_keeps
    | with_reducible refine Keeps.cast (by assumption) ?_
    | split
    | (extract_lets +onlyGivenNames x)
    | fail_if_no_progress (with_reducible apply Keeps.upd)

theorem State.epochRollback_keeps {r₀ s : State} (hk : Keeps r₀ s) :
    Keeps r₀ (s.epochRollback) := by
  unfold State.epochRollback
  repeat' first
    | with_reducible assumption
    | (extract_lets +onlyGivenNames x; clear_value (ex : x = _); have hx : Keeps r₀ x := ?_)
    | with_reducible apply State.ltsWrite_keeps
    | with_reducible apply State.accDone_keeps
    | with_reducible apply State.setV2_keeps
    | with_reducible apply State.mapUnits_keeps
    | with_reducible refine Keeps.cast (by assumption) ?_
    | split

theorem State.epochRun_keeps {r₀ s : State} (commit : Bool) (hk : Keeps r₀ s) :
    Keeps r₀ (s.epochRun commit) := by
  unfold State.epochRun
  repeat' first
    | with_reducible assumption
    | (extract_lets +onlyGivenNames x; clear_value x)
    | with_reducible apply State.epochCommit_keeps
    | with_reducible apply State.epochRollback_keeps
    | split
    | fail_if_no_progress (with_reducible apply Keeps.upd)

theorem State.storeReady_keeps {r₀ s : State} (hk : Keeps r₀ s) :
    Keeps r₀ (s.storeReady) := by
  unfold State.storeReady
  repeat' first
    | with_reducible assumption
    | (extract_lets +onlyGivenNames x; clear_value (ex : x = _); have hx : Keeps r₀ x := ?_)
    | (extract_lets +onlyGivenNames x; clear_value x)
    | with_reducible apply State.ltsFlush_keeps
    | with_reducible apply State.epochRun_keeps
    | with_reducible refine Keeps.cast (by assumption) ?_
    | split
    | (extract_lets +onlyGivenNames x)
    | fail_if_no_progress (with_reducible apply Keeps.upd)

/-! ### Hart -/

theorem State.setHart_keeps {r₀ s : State} (i : Nat) (x : HartSt) (hk : Keeps r₀ s) :
    Keeps r₀ (s.setHart i x) := by
  unfold State.setHart
  repeat' first
    | with_reducible assumption
    | (extract_lets +onlyGivenNames x; clear_value x)
    | fail_if_no_progress (with_reducible apply Keeps.upd)

theorem State.setDm_keeps {r₀ s : State} (h : Nat) (d : DmSt) (hk : Keeps r₀ s) :
    Keeps r₀ (s.setDm h d) := by
  unfold State.setDm
  repeat' first
    | with_reducible assumption
    | (extract_lets +onlyGivenNames x; clear_value x)
    | fail_if_no_progress (with_reducible apply Keeps.upd)

theorem State.hartReset_keeps {r₀ s : State} (i : Nat) (hk : Keeps r₀ s) :
    Keeps r₀ (s.hartReset i) := by
  unfold State.hartReset
  repeat' first
    | with_reducible assumption
    | (extract_lets +onlyGivenNames x; clear_value x)
    | with_reducible apply State.setHart_keeps
    | (extract_lets +onlyGivenNames x)
    | fail_if_no_progress (with_reducible apply Keeps.upd)

theorem State.showHeld_keeps {r₀ s : State} (i : Nat) (hk : Keeps r₀ s) :
    Keeps r₀ (s.showHeld i) := by
  unfold State.showHeld
  repeat' first
    | with_reducible assumption
    | with_reducible apply State.setBit_keeps

theorem State.hartHalt_keeps {r₀ s : State} (i : Nat) (hk : Keeps r₀ s) :
    Keeps r₀ (s.hartHalt i) := by
  unfold State.hartHalt
  repeat' first
    | with_reducible assumption
    | (extract_lets +onlyGivenNames x; clear_value x)
    | with_reducible apply State.send_keeps
    | with_reducible apply State.setHart_keeps
    | with_reducible apply State.showHeld_keeps
    | split

theorem State.hartResume_keeps {r₀ s : State} (i : Nat) (hk : Keeps r₀ s) :
    Keeps r₀ (s.hartResume i) := by
  unfold State.hartResume
  repeat' first
    | with_reducible assumption
    | (extract_lets +onlyGivenNames x; clear_value x)
    | with_reducible apply State.send_keeps
    | with_reducible apply State.setHart_keeps
    | with_reducible apply State.showHeld_keeps
    | split

theorem State.groupTrigger_keeps {r₀ s : State} (g : Nat) (hk : Keeps r₀ s) :
    Keeps r₀ (s.groupTrigger g) := by
  unfold State.groupTrigger
  repeat' first
    | with_reducible assumption
    | intro _
    | with_reducible apply State.send_keeps
    | with_reducible apply Keeps.foldl
    | split

theorem State.groupHalt_keeps {r₀ s : State} (g : Nat) (but : Option Nat) (hk : Keeps r₀ s) :
    Keeps r₀ (s.groupHalt g but) := by
  unfold State.groupHalt
  repeat' first
    | with_reducible assumption
    | intro _
    | with_reducible apply State.hartHalt_keeps
    | with_reducible apply State.groupTrigger_keeps
    | with_reducible apply Keeps.foldl
    | split

theorem State.groupResume_keeps {r₀ s : State} (g : Nat) (hk : Keeps r₀ s) :
    Keeps r₀ (s.groupResume g) := by
  unfold State.groupResume
  repeat' first
    | with_reducible assumption
    | intro _
    | with_reducible apply State.hartResume_keeps
    | with_reducible apply Keeps.foldl
    | split

theorem State.haltWithGroup_keeps {r₀ s : State} (i : Nat) (hk : Keeps r₀ s) :
    Keeps r₀ (s.haltWithGroup i) := by
  unfold State.haltWithGroup
  repeat' first
    | with_reducible assumption
    | with_reducible apply State.hartHalt_keeps
    | with_reducible apply State.groupHalt_keeps

theorem State.resumeWithGroup_keeps {r₀ s : State} (i : Nat) (hk : Keeps r₀ s) :
    Keeps r₀ (s.resumeWithGroup i) := by
  unfold State.resumeWithGroup
  repeat' first
    | with_reducible assumption
    | with_reducible apply State.hartResume_keeps
    | with_reducible apply State.groupResume_keeps

theorem State.hartStart_keeps {r₀ s : State} (i : Nat) (hk : Keeps r₀ s) :
    Keeps r₀ (s.hartStart i) := by
  unfold State.hartStart
  repeat' first
    | with_reducible assumption
    | (extract_lets +onlyGivenNames x; clear_value (ex : x = _); have hx : Keeps r₀ x := ?_)
    | with_reducible apply State.send_keeps
    | with_reducible apply State.haltWithGroup_keeps
    | with_reducible refine Keeps.cast (by assumption) ?_
    | split

theorem State.levelDrop_keeps {r₀ s : State} (hk : Keeps r₀ s) :
    Keeps r₀ (s.levelDrop) := by
  unfold State.levelDrop
  repeat' first
    | with_reducible assumption
    | intro _
    | (extract_lets +onlyGivenNames x; clear_value (ex : x = _); have hx : Keeps r₀ x := ?_)
    | (extract_lets +onlyGivenNames x; clear_value x)
    | with_reducible apply State.setFld_keeps
    | with_reducible apply State.setHart_keeps
    | with_reducible apply State.setDm_keeps
    | with_reducible apply State.hartResume_keeps
    | with_reducible apply Keeps.foldl
    | with_reducible refine Keeps.cast (by assumption) ?_

theorem State.setLevel_keeps {r₀ s : State} (k l : Nat) (hk : Keeps r₀ s) :
    Keeps r₀ (s.setLevel k l) := by
  unfold State.setLevel
  repeat' first
    | with_reducible assumption
    | (extract_lets +onlyGivenNames x; clear_value (ex : x = _); have hx : Keeps r₀ x := ?_)
    | with_reducible apply State.setFld_keeps
    | with_reducible apply State.levelDrop_keeps
    | with_reducible refine Keeps.cast (by assumption) ?_
    | split

theorem State.levelsNone_keeps {r₀ s : State} (hk : Keeps r₀ s) :
    Keeps r₀ (s.levelsNone) := by
  unfold State.levelsNone
  repeat' first
    | with_reducible assumption
    | intro _
    | with_reducible apply State.setLevel_keeps
    | with_reducible apply Keeps.foldl

/-! ### Safe -/

theorem State.countError_keeps {r₀ s : State} (block sev n : Nat) (hk : Keeps r₀ s) :
    Keeps r₀ (s.countError block sev n) := by
  unfold State.countError
  repeat' first
    | with_reducible assumption
    | (extract_lets +onlyGivenNames x; clear_value x)
    | split
    | fail_if_no_progress (with_reducible apply Keeps.upd)

theorem State.collectCounted_keeps {r₀ s : State} (e : ErrRec) (hk : Keeps r₀ s) :
    Keeps r₀ (s.collectCounted e) := by
  unfold State.collectCounted
  repeat' first
    | with_reducible assumption
    | with_reducible apply State.collect_keeps
    | with_reducible apply State.countError_keeps

theorem State.appendFatal_keeps {r₀ s : State} (e : ErrRec) (hk : Keeps r₀ s) :
    Keeps r₀ (s.appendFatal e) := by
  unfold State.appendFatal
  repeat' first
    | with_reducible assumption
    | with_reducible apply State.collectCounted_keeps

theorem State.flushFatals_keeps {r₀ s : State} (hk : Keeps r₀ s) :
    Keeps r₀ (s.flushFatals) := by
  unfold State.flushFatals
  repeat' first
    | with_reducible assumption
    | intro _
    | (extract_lets +onlyGivenNames x; clear_value x)
    | with_reducible apply State.appendFatal_keeps
    | with_reducible apply Keeps.foldl
    | split
    | (extract_lets +onlyGivenNames x)
    | fail_if_no_progress (with_reducible apply Keeps.upd)

theorem State.fatal_keeps {r₀ s : State} (reason : Nat) (inj : Bool) (hk : Keeps r₀ s) :
    Keeps r₀ (s.fatal reason inj) := by
  unfold State.fatal
  repeat' first
    | with_reducible assumption
    | (extract_lets +onlyGivenNames x; clear_value (ex : x = _); have hx : Keeps r₀ x := ?_)
    | (extract_lets +onlyGivenNames x; clear_value x)
    | with_reducible apply State.appendFatal_keeps
    | with_reducible refine Keeps.cast (by assumption) ?_
    | split
    | (extract_lets +onlyGivenNames x)
    | fail_if_no_progress (with_reducible apply Keeps.upd)

theorem State.safeHub_keeps {r₀ s : State} (h : Nat) (hk : Keeps r₀ s) :
    Keeps r₀ (s.safeHub h) := by
  unfold State.safeHub
  repeat' first
    | with_reducible assumption
    | (extract_lets +onlyGivenNames x; clear_value (ex : x = _); have hx : Keeps r₀ x := ?_)
    | with_reducible apply State.dmcSleep_keeps
    | with_reducible apply State.qeWind_keeps
    | with_reducible apply State.safeCommands_keeps
    | with_reducible apply State.flushFatals_keeps
    | with_reducible refine Keeps.cast (by assumption) ?_
    | split

theorem State.safeAcres_keeps {r₀ s : State} (hk : Keeps r₀ s) :
    Keeps r₀ (s.safeAcres) := by
  unfold State.safeAcres
  repeat' first
    | with_reducible assumption
    | intro _
    | with_reducible apply State.isolatePlace_keeps
    | with_reducible apply Keeps.foldl

theorem State.safeGates_keeps {r₀ s : State} (hk : Keeps r₀ s) :
    Keeps r₀ (s.safeGates) := by
  unfold State.safeGates
  repeat' first
    | with_reducible assumption
    | intro _
    | (extract_lets +onlyGivenNames x; clear_value x)
    | with_reducible apply State.reply_keeps
    | with_reducible apply Keeps.foldl
    | (extract_lets +onlyGivenNames x)
    | fail_if_no_progress (with_reducible apply Keeps.upd)

theorem State.enterSafe_keeps {r₀ s : State} (reason : Nat) (inj : Bool) (hk : Keeps r₀ s) :
    Keeps r₀ (s.enterSafe reason inj) := by
  unfold State.enterSafe
  repeat' first
    | with_reducible assumption
    | intro _
    | (extract_lets +onlyGivenNames x; clear_value (ex : x = _); have hx : Keeps r₀ x := ?_)
    | (extract_lets +onlyGivenNames x; clear_value x)
    | with_reducible apply State.setCsr_keeps
    | with_reducible apply State.setFld_keeps
    | with_reducible apply State.satInc_keeps
    | with_reducible apply State.hartReset_keeps
    | with_reducible apply State.mcServe_keeps
    | with_reducible apply State.fatal_keeps
    | with_reducible apply State.safeHub_keeps
    | with_reducible apply State.safeAcres_keeps
    | with_reducible apply State.safeGates_keeps
    | with_reducible apply Keeps.foldl
    | with_reducible refine Keeps.cast (by assumption) ?_
    | split
    | (extract_lets +onlyGivenNames x)
    | fail_if_no_progress (with_reducible apply Keeps.upd)

theorem execMcLockstep_keeps {r₀ s : State} (hub : Fin 2) (hk : Keeps r₀ s) :
    ∀ s', execMcLockstep hub s = .next s' → Keeps r₀ s' := by
  unfold execMcLockstep
  repeat' first
    | with_reducible assumption
    | with_reducible refine Keeps.next ?_
    | (extract_lets +onlyGivenNames x; clear_value x)
    | with_reducible apply State.setFld_keeps
    | with_reducible apply State.enterSafe_keeps
    | (extract_lets +onlyGivenNames x)
    | fail_if_no_progress (with_reducible apply Keeps.upd)

/-! ### Package -/

theorem State.setSite_keeps {r₀ s : State} (f : Nat → Fld) (n : Nat) (hk : Keeps r₀ s) :
    Keeps r₀ (s.setSite f n) := by
  unfold State.setSite
  repeat' first
    | with_reducible assumption
    | with_reducible apply State.setFld_keeps

theorem State.setFieldMask_keeps {r₀ s : State} (half : Nat) (m : BitVec 7) (hk : Keeps r₀ s) :
    Keeps r₀ (s.setFieldMask half m) := by
  unfold State.setFieldMask
  repeat' first
    | with_reducible assumption
    | (extract_lets +onlyGivenNames x; clear_value x)
    | fail_if_no_progress (with_reducible apply Keeps.upd)

theorem State.cfgFlag_keeps {r₀ s : State} (f : Fld) (la : Nat) (hk : Keeps r₀ s) :
    Keeps r₀ (s.cfgFlag f la) := by
  unfold State.cfgFlag
  repeat' first
    | with_reducible assumption
    | with_reducible apply State.raise_keeps

theorem State.dropSig_keeps {r₀ s : State} (la : Nat) (hk : Keeps r₀ s) :
    Keeps r₀ (s.dropSig la) := by
  unfold State.dropSig
  repeat' first
    | with_reducible assumption
    | intro _
    | with_reducible apply State.setCsr_keeps
    | with_reducible apply Keeps.foldl

theorem State.acreGone_keeps {r₀ s : State} (la st : Nat) (hk : Keeps r₀ s) :
    Keeps r₀ (s.acreGone la st) := by
  unfold State.acreGone
  repeat' first
    | with_reducible assumption
    | (extract_lets +onlyGivenNames x; clear_value (ex : x = _); have hx : Keeps r₀ x := ?_)
    | with_reducible apply State.setFld_keeps
    | with_reducible apply State.setAcre_keeps
    | with_reducible apply State.emptyPlace_keeps
    | with_reducible apply State.gateFlush_keeps
    | with_reducible apply State.cfgFlag_keeps
    | with_reducible apply State.dropSig_keeps
    | with_reducible refine Keeps.cast (by assumption) ?_
    | split

theorem State.retireSite_keeps {r₀ s : State} (site : Nat) (hk : Keeps r₀ s) : Keeps r₀ (s.retireSite site) := by
  unfold State.retireSite
  extract_lets hp s1 c s2
  have h1 : Keeps r₀ s1 := State.ltsWrite_keeps _ (State.setFieldMask_keeps _ _ hk)
  have h2 : Keeps r₀ s2 := Keeps.upd h1
  split
  · exact h2
  · exact State.setSite_keeps _ _ h2

theorem State.setRingPath_keeps {r₀ s : State} (row : Nat) (failed : Nat → Bool) (hk : Keeps r₀ s) :
    Keeps r₀ (s.setRingPath row failed) := by
  unfold State.setRingPath
  repeat' first
    | with_reducible assumption
    | intro _
    | (extract_lets +onlyGivenNames x; clear_value x)
    | with_reducible apply State.setBit_keeps
    | with_reducible apply State.ringUpdate_keeps
    | with_reducible apply Keeps.foldl

theorem State.islandLost_keeps {r₀ s : State} (site : Nat) (hk : Keeps r₀ s) :
    Keeps r₀ (s.islandLost site) := by
  unfold State.islandLost
  repeat' first
    | with_reducible assumption
    | intro _
    | (extract_lets +onlyGivenNames x; clear_value (ex : x = _); have hx : Keeps r₀ x := ?_)
    | (extract_lets +onlyGivenNames x; clear_value x)
    | with_reducible apply State.clearSlots_keeps
    | with_reducible apply State.loseBuffer_keeps
    | with_reducible apply Keeps.foldl
    | with_reducible refine Keeps.cast (by assumption) ?_
    | split
    | fail_if_no_progress (with_reducible apply Keeps.upd)

theorem execTransitIslandFail_keeps {r₀ s : State} (site : Fin 64) (hk : Keeps r₀ s) :
    ∀ s', execTransitIslandFail site s = .next s' → Keeps r₀ s' := by
  unfold execTransitIslandFail
  repeat' first
    | with_reducible assumption
    | with_reducible refine fun _ _ (_ : Keeps r₀ _) => ?_
    | with_reducible refine Keeps.next ?_
    | (extract_lets +onlyGivenNames x; clear_value (ex : x = _); have hx : Keeps r₀ x := ?_)
    | (extract_lets +onlyGivenNames x; clear_value x)
    | with_reducible apply State.markSlow_keeps
    | with_reducible apply State.ringDown_keeps
    | with_reducible apply State.setSite_keeps
    | with_reducible apply State.acreGone_keeps
    | with_reducible apply State.retireSite_keeps
    | with_reducible apply State.setRingPath_keeps
    | with_reducible apply State.islandLost_keeps
    | with_reducible apply Keeps.foldl
    | with_reducible refine Keeps.cast (by assumption) ?_
    | split
    | fail_if_no_progress (with_reducible apply Keeps.upd)

theorem State.placeHalf_keeps {r₀ s : State} (half : Nat) (hk : Keeps r₀ s) :
    Keeps r₀ (s.placeHalf half) := by
  unfold State.placeHalf
  repeat' first
    | with_reducible assumption
    | intro _
    | (extract_lets +onlyGivenNames x; clear_value (ex : x = _); have hx : Keeps r₀ x := ?_)
    | (extract_lets +onlyGivenNames x; clear_value x)
    | with_reducible apply State.setFld_keeps
    | with_reducible apply State.setBit_keeps
    | with_reducible apply State.setSite_keeps
    | with_reducible apply Keeps.foldl
    | with_reducible refine Keeps.cast (by assumption) ?_

theorem State.copyIdentity_keeps {r₀ s : State} (site : Nat) (hk : Keeps r₀ s) :
    Keeps r₀ (s.copyIdentity site) := by
  unfold State.copyIdentity
  repeat' first
    | with_reducible assumption
    | (extract_lets +onlyGivenNames x; clear_value x)
    | with_reducible apply State.setSite_keeps

theorem State.placeX_keeps {r₀ s : State} (h : Nat) (x : Byte) (hk : Keeps r₀ s) :
    Keeps r₀ (s.placeX h x) := by
  unfold State.placeX
  repeat' first
    | with_reducible assumption
    | (extract_lets +onlyGivenNames x; clear_value (ex : x = _); have hx : Keeps r₀ x := ?_)
    | (extract_lets +onlyGivenNames x; clear_value x)
    | with_reducible apply State.setSite_keeps
    | with_reducible refine Keeps.cast (by assumption) ?_
    | (extract_lets +onlyGivenNames x)
    | fail_if_no_progress (with_reducible apply Keeps.upd)

theorem State.capsEffective_keeps {r₀ s : State} (hk : Keeps r₀ s) :
    Keeps r₀ (s.capsEffective) := by
  unfold State.capsEffective
  repeat' first
    | with_reducible assumption
    | intro _
    | (extract_lets +onlyGivenNames x; clear_value (ex : x = _); have hx : Keeps r₀ x := ?_)
    | (extract_lets +onlyGivenNames x; clear_value x)
    | with_reducible apply State.setCsr_keeps
    | with_reducible apply Keeps.foldl
    | with_reducible refine Keeps.cast (by assumption) ?_

theorem State.applyChannels_keeps {r₀ s : State} (hk : Keeps r₀ s) :
    Keeps r₀ (s.applyChannels) := by
  unfold State.applyChannels
  repeat' first
    | with_reducible assumption
    | intro _
    | with_reducible apply State.setCsr_keeps
    | with_reducible apply Keeps.foldl
    | split

end Sys2Proof.Machine
end

