-- ==== Sys2Proof/Laws/KeepsConfig.lean ====
section
/-! SUPPORT. What every operation and meaning keeps (`Keeps`): images, loading and the configuration operations. -/

namespace Sys2Proof.Machine

open Sys2Proof

set_option maxRecDepth 4000

/-! ### Image -/

theorem State.cfgReason_keeps {r₀ s : State} (reason la faddr : Nat) (hk : Keeps r₀ s) :
    Keeps r₀ (s.cfgReason reason la faddr) := by
  unfold State.cfgReason
  repeat' first
    | with_reducible assumption
    | (extract_lets +onlyGivenNames x; clear_value (ex : x = _); have hx : Keeps r₀ x := ?_)
    | with_reducible apply State.setCsr_keeps
    | with_reducible apply State.cfgFlag_keeps
    | with_reducible refine Keeps.cast (by assumption) ?_
    | split

theorem State.setReason_keeps {r₀ s : State} (la reason : Nat) (hk : Keeps r₀ s) :
    Keeps r₀ (s.setReason la reason) := by
  unfold State.setReason
  repeat' first
    | with_reducible assumption
    | with_reducible apply State.setFld_keeps

theorem State.acreFail_keeps {r₀ s : State} (la reason faddr : Nat) (hk : Keeps r₀ s) :
    Keeps r₀ (s.acreFail la reason faddr) := by
  unfold State.acreFail
  repeat' first
    | with_reducible assumption
    | with_reducible apply State.acreGone_keeps
    | with_reducible apply State.cfgReason_keeps
    | with_reducible apply State.setReason_keeps

theorem State.loadClocks_keeps {r₀ s : State} (site : Nat) (hk : Keeps r₀ s) :
    Keeps r₀ (s.loadClocks site) := by
  unfold State.loadClocks
  repeat' first
    | with_reducible assumption
    | intro _
    | (extract_lets +onlyGivenNames x; clear_value x)
    | with_reducible apply State.setCsr_keeps
    | with_reducible apply Keeps.foldl
    | split

theorem State.loadLocalClocks_keeps {r₀ s : State} (site : Nat) (hk : Keeps r₀ s) :
    Keeps r₀ (s.loadLocalClocks site) := by
  unfold State.loadLocalClocks
  repeat' first
    | with_reducible assumption
    | intro _
    | (extract_lets +onlyGivenNames x; clear_value (ex : x = _); have hx : Keeps r₀ x.2 := ?_)
    | with_reducible apply State.setCsr_keeps
    | with_reducible apply State.free_keeps
    | with_reducible apply State.localStart_keeps
    | with_reducible apply Keeps.foldl
    | with_reducible refine Keeps.cast2 (by assumption) ?_

theorem State.acceptImage_keeps {r₀ s : State} (im : Image) (hk : Keeps r₀ s) :
    Keeps r₀ (s.acceptImage im) := by
  unfold State.acceptImage
  repeat' first
    | with_reducible assumption
    | intro _
    | (extract_lets +onlyGivenNames x; clear_value (ex : x = _); have hx : Keeps r₀ x := ?_)
    | (extract_lets +onlyGivenNames x; clear_value x)
    | with_reducible apply State.setCsr64_keeps
    | with_reducible apply State.setFld_keeps
    | with_reducible apply State.loadClocks_keeps
    | with_reducible apply State.loadLocalClocks_keeps
    | with_reducible apply Keeps.foldl
    | with_reducible refine Keeps.cast (by assumption) ?_
    | split
    | (extract_lets +onlyGivenNames x)
    | fail_if_no_progress (with_reducible apply Keeps.upd)

/-! ### Load -/

theorem State.judgeImage_keeps {r₀ s : State} (h : Option (List Byte)) (hk : Keeps r₀ s) :
    Keeps r₀ (s.judgeImage h) := by
  unfold State.judgeImage
  repeat' first
    | with_reducible assumption
    | (extract_lets +onlyGivenNames x; clear_value x)
    | with_reducible apply State.acceptImage_keeps
    | split
    | (extract_lets +onlyGivenNames x)
    | fail_if_no_progress (with_reducible apply Keeps.upd)

theorem State.stageLines_keeps {r₀ s : State} (la n : Nat) (hk : Keeps r₀ s) :
    Keeps r₀ (s.stageLines la n) := by
  unfold State.stageLines
  repeat' first
    | with_reducible assumption
    | intro _
    | (extract_lets +onlyGivenNames x; clear_value (ex : x = _); have hx : Keeps r₀ x := ?_)
    | (extract_lets +onlyGivenNames x; clear_value (ex : x = _); have hx : Keeps r₀ x.2 := ?_)
    | (extract_lets +onlyGivenNames x; clear_value x)
    | with_reducible apply State.free_keeps
    | with_reducible apply State.setSram_keeps
    | with_reducible apply Keeps.foldl
    | with_reducible refine Keeps.cast (by assumption) ?_
    | with_reducible refine Keeps.cast2 (by assumption) ?_
    | fail_if_no_progress (with_reducible apply Keeps.upd)

theorem State.stageSegment_keeps {r₀ s : State} (la : Nat) (bs : List Byte) (hk : Keeps r₀ s) :
    Keeps r₀ (s.stageSegment la bs) := by
  unfold State.stageSegment
  repeat' first
    | with_reducible assumption
    | (extract_lets +onlyGivenNames x; clear_value x)
    | fail_if_no_progress (with_reducible apply Keeps.upd)

theorem State.putLoad_keeps {r₀ s : State} (la : Nat) (l : Option LoadSt) (hk : Keeps r₀ s) :
    Keeps r₀ (s.putLoad la l) := by
  unfold State.putLoad
  repeat' first
    | with_reducible assumption
    | (extract_lets +onlyGivenNames x; clear_value x)
    | fail_if_no_progress (with_reducible apply Keeps.upd)

theorem State.loadFail_keeps {r₀ s : State} (la pl : Nat) (hk : Keeps r₀ s) :
    Keeps r₀ (s.loadFail la pl) := by
  unfold State.loadFail
  repeat' first
    | with_reducible assumption
    | with_reducible apply State.emptyPlace_keeps
    | with_reducible apply State.acreGone_keeps
    | with_reducible apply State.putLoad_keeps

theorem State.loadStop_keeps {r₀ s : State} (la pl reason faddr : Nat) (hk : Keeps r₀ s) :
    Keeps r₀ (s.loadStop la pl reason faddr) := by
  unfold State.loadStop
  repeat' first
    | with_reducible assumption
    | with_reducible apply State.emptyPlace_keeps
    | with_reducible apply State.acreFail_keeps
    | with_reducible apply State.putLoad_keeps

theorem State.loadEnd_keeps {r₀ s0 : State} (l : LoadSt) (hs0 : Keeps r₀ s0) :
    Keeps r₀ (s0.loadEnd l) := by
  unfold State.loadEnd
  repeat' first
    | with_reducible assumption
    | (extract_lets +onlyGivenNames x; clear_value (ex : x = _); have hx : Keeps r₀ x := ?_)
    | (extract_lets +onlyGivenNames x; clear_value x)
    | with_reducible apply State.setAcre_keeps
    | with_reducible apply State.setPlace_keeps
    | with_reducible apply State.putLoad_keeps
    | with_reducible apply State.loadFail_keeps
    | with_reducible apply State.loadStop_keeps
    | with_reducible refine Keeps.cast (by assumption) ?_
    | split

theorem State.startLoad_keeps {r₀ s : State} (la pl : Nat) (r : Retained) (bytes : List Byte) (skip : Bool) (hk : Keeps r₀ s) :
    Keeps r₀ (s.startLoad la pl r bytes skip) := by
  unfold State.startLoad
  repeat' first
    | with_reducible assumption
    | intro _
    | (extract_lets +onlyGivenNames x; clear_value (ex : x = _); have hx : Keeps r₀ x := ?_)
    | (extract_lets +onlyGivenNames x; clear_value x)
    | with_reducible apply State.setCsr_keeps
    | with_reducible apply State.setFld_keeps
    | with_reducible apply State.setAcre_keeps
    | with_reducible apply State.beginPlace_keeps
    | with_reducible apply State.setReason_keeps
    | with_reducible apply State.loadStop_keeps
    | with_reducible apply State.loadEnd_keeps
    | with_reducible apply Keeps.foldl
    | with_reducible refine Keeps.cast (by assumption) ?_
    | split
    | (extract_lets +onlyGivenNames x)
    | fail_if_no_progress (with_reducible apply Keeps.upd)

theorem State.frameRefused_keeps {r₀ s : State} (l : LoadSt) (reason faddr : Nat) (hk : Keeps r₀ s) :
    Keeps r₀ (s.frameRefused l reason faddr).1 := by
  unfold State.frameRefused
  repeat' first
    | with_reducible assumption
    | with_reducible apply State.cfgReason_keeps
    | with_reducible apply State.setReason_keeps

theorem State.frameRecord_keeps {r₀ s : State} (l : LoadSt) (hk : Keeps r₀ s) : Keeps r₀ (s.frameRecord l) := by
  unfold State.frameRecord
  extract_lets +onlyGivenNames la addr bits fidx faddr rest next v
  have hn : ∀ q, Keeps r₀ q.1 → Keeps r₀ (next q) := by
    intro q hq
    have h1 := State.putLoad_keeps la (some { q.2 with data := rest }) hq
    simp only [next]
    split
    · exact State.loadEnd_keeps _ h1
    · exact h1
  repeat' first
    | with_reducible assumption
    | with_reducible apply State.loadStop_keeps
    | with_reducible apply State.frameRefused_keeps
    | with_reducible apply State.writeFrame_keeps
    | with_reducible apply hn
    | split
    | extract_lets

theorem State.makeDue_keeps {r₀ s : State} (las : List Nat) (hk : Keeps r₀ s) :
    Keeps r₀ (s.makeDue las) := by
  unfold State.makeDue
  repeat' first
    | with_reducible assumption
    | (extract_lets +onlyGivenNames x; clear_value x)
    | fail_if_no_progress (with_reducible apply Keeps.upd)

theorem State.dropDue_keeps {r₀ s : State} (la : Nat) (hk : Keeps r₀ s) :
    Keeps r₀ (s.dropDue la) := by
  unfold State.dropDue
  repeat' first
    | with_reducible assumption
    | (extract_lets +onlyGivenNames x; clear_value x)
    | fail_if_no_progress (with_reducible apply Keeps.upd)

theorem State.stageLast_keeps {r₀ s : State} (pl : Nat) (hk : Keeps r₀ s) :
    Keeps r₀ (s.stageLast pl) := by
  unfold State.stageLast
  repeat' first
    | with_reducible assumption
    | (extract_lets +onlyGivenNames x; clear_value x)
    | with_reducible apply State.setPlace_keeps
    | with_reducible apply State.stage3_keeps
    | split

theorem State.quiesce_keeps {r₀ s : State} (la : Nat) (hk : Keeps r₀ s) :
    Keeps r₀ (s.quiesce la) := by
  unfold State.quiesce
  repeat' first
    | with_reducible assumption
    | with_reducible apply State.setAcre_keeps
    | split

theorem State.pausePlace_keeps {r₀ s : State} (pl : Nat) (hk : Keeps r₀ s) :
    Keeps r₀ (s.pausePlace pl) := by
  unfold State.pausePlace
  repeat' first
    | with_reducible assumption
    | intro _
    | (extract_lets +onlyGivenNames x; clear_value (ex : x = _); have hx : Keeps r₀ x := ?_)
    | (extract_lets +onlyGivenNames x; clear_value x)
    | with_reducible apply State.setPlace_keeps
    | with_reducible apply Keeps.foldl
    | with_reducible refine Keeps.cast (by assumption) ?_
    | fail_if_no_progress (with_reducible apply Keeps.upd)

theorem State.resetLogicDie_keeps {r₀ s : State} (site : Nat) (hk : Keeps r₀ s) :
    Keeps r₀ (s.resetLogicDie site) := by
  unfold State.resetLogicDie
  repeat' first
    | with_reducible assumption
    | (extract_lets +onlyGivenNames x; clear_value (ex : x = _); have hx : Keeps r₀ x := ?_)
    | (extract_lets +onlyGivenNames x; clear_value x)
    | with_reducible apply State.resetRegs_keeps
    | with_reducible apply State.probeOwner_keeps
    | with_reducible apply State.dropStops_keeps
    | with_reducible refine Keeps.cast (by assumption) ?_
    | split
    | (extract_lets +onlyGivenNames x)
    | fail_if_no_progress (with_reducible apply Keeps.upd)

theorem State.capture_keeps {r₀ s : State} (pl : Nat) (bushels : Bool) (hk : Keeps r₀ s) :
    Keeps r₀ (s.capture pl bushels).2 := by
  unfold State.capture
  repeat' first
    | with_reducible assumption
    | (extract_lets +onlyGivenNames x; clear_value x)
    | split
    | dsimp -zeta only
    | fail_if_no_progress (with_reducible apply Keeps.upd)

theorem State.restore_keeps {r₀ s : State} (pl : Nat) (bushels : Bool) (tiles : List TileSt) (ports : List (BshPort × BshPort)) (bs : List Byte) (hk : Keeps r₀ s) :
    Keeps r₀ (s.restore pl bushels tiles ports bs) := by
  unfold State.restore
  repeat' first
    | with_reducible assumption
    | intro _
    | (extract_lets +onlyGivenNames x; clear_value (ex : x = _); have hx : Keeps r₀ x := ?_)
    | (extract_lets +onlyGivenNames x; clear_value x)
    | with_reducible apply State.free_keeps
    | with_reducible apply State.setPlace_keeps
    | with_reducible apply State.putCubit_keeps
    | with_reducible apply State.setBshRow_keeps
    | with_reducible apply State.setTile_keeps
    | with_reducible apply State.setTword_keeps
    | with_reducible apply Keeps.foldl
    | with_reducible refine Keeps.cast (by assumption) ?_
    | split
    | fail_if_no_progress (with_reducible apply Keeps.upd)

theorem execCfgCheck_keeps {r₀ s : State} (acre : Fin 192) (hk : Keeps r₀ s) :
    ∀ s', execCfgCheck acre s = .next s' → Keeps r₀ s' := by
  unfold execCfgCheck
  repeat' first
    | with_reducible assumption
    | with_reducible refine Keeps.next ?_
    | with_reducible apply State.setFld_keeps
    | with_reducible apply State.cfgFlag_keeps
    | split

/-! ### CfgOps -/

theorem State.setOp_keeps {r₀ s : State} (o : OpSt) (hk : Keeps r₀ s) :
    Keeps r₀ (s.setOp o) := by
  unfold State.setOp
  repeat' first
    | with_reducible assumption
    | (extract_lets +onlyGivenNames x; clear_value x)
    | fail_if_no_progress (with_reducible apply Keeps.upd)

theorem State.cfgXfer_keeps {r₀ s : State} (write : Bool) (addr len : Nat) (data : List Byte) (hk : Keeps r₀ s) :
    Keeps r₀ (s.cfgXfer write addr len data) := by
  unfold State.cfgXfer
  repeat' first
    | with_reducible assumption
    | (extract_lets +onlyGivenNames x; clear_value x)
    | fail_if_no_progress (with_reducible apply Keeps.upd)

theorem State.opEnd_keeps {r₀ s : State} (status : Nat) (hk : Keeps r₀ s) : Keeps r₀ (s.opEnd status) := by
  unfold State.opEnd
  split
  · exact hk
  · extract_lets c s1 s2 moves s3 st
    have h1 : Keeps r₀ s1 := Keeps.upd hk
    have h2 : Keeps r₀ s2 := State.setFld_keeps _ _ (State.setFld_keeps _ _ h1)
    have h3 : Keeps r₀ s3 := by
      simp only [s3]
      split
      · exact State.cfgFlag_keeps _ _ h2
      · split
        · exact State.cfgFlag_keeps _ _ h2
        · exact h2
    split
    · exact State.accDone_keeps _ _ _ h3
    · split
      · exact State.accDone_keeps _ _ _ h3
      · exact State.accDone_keeps _ _ _ h3

theorem State.opHeader_keeps {r₀ s : State} (o : OpSt) (src : ImgSrc) (h : List Byte) (hk : Keeps r₀ s) :
    Keeps r₀ (s.opHeader o src h) := by
  unfold State.opHeader
  repeat' first
    | with_reducible assumption
    | intro _
    | (extract_lets +onlyGivenNames x; clear_value (ex : x = _); have hx : Keeps r₀ x := ?_)
    | (extract_lets +onlyGivenNames x; clear_value x)
    | with_reducible apply State.cfgReason_keeps
    | with_reducible apply State.acceptImage_keeps
    | with_reducible apply State.quiesce_keeps
    | with_reducible apply State.setOp_keeps
    | with_reducible apply State.opEnd_keeps
    | with_reducible apply Keeps.foldl
    | with_reducible refine Keeps.cast (by assumption) ?_
    | split
    | (extract_lets +onlyGivenNames x)
    | fail_if_no_progress (with_reducible apply Keeps.upd)

theorem State.opFetch_keeps {r₀ s : State} (o : OpSt) (hk : Keeps r₀ s) :
    Keeps r₀ (s.opFetch o) := by
  unfold State.opFetch
  repeat' first
    | with_reducible assumption
    | with_reducible apply State.stageSegment_keeps
    | with_reducible apply State.cfgXfer_keeps
    | split

theorem State.hostReady_keeps {r₀ s : State} (site : Nat) (hk : Keeps r₀ s) :
    Keeps r₀ (s.hostReady site) := by
  unfold State.hostReady
  repeat' first
    | with_reducible assumption
    | (extract_lets +onlyGivenNames x; clear_value (ex : x = _); have hx : Keeps r₀ x := ?_)
    | (extract_lets +onlyGivenNames x; clear_value x)
    | with_reducible apply State.loadClocks_keeps
    | with_reducible apply State.resetLogicDie_keeps
    | with_reducible refine Keeps.cast (by assumption) ?_
    | (extract_lets +onlyGivenNames x)
    | fail_if_no_progress (with_reducible apply Keeps.upd)

theorem State.mapStop_keeps {r₀ s : State} (la pl : Nat) (hk : Keeps r₀ s) :
    Keeps r₀ (s.mapStop la pl) := by
  unfold State.mapStop
  repeat' first
    | with_reducible assumption
    | intro _
    | (extract_lets +onlyGivenNames x; clear_value (ex : x = _); have hx : Keeps r₀ x := ?_)
    | (extract_lets +onlyGivenNames x; clear_value x)
    | with_reducible apply State.setFld_keeps
    | with_reducible apply Keeps.foldl
    | with_reducible refine Keeps.cast (by assumption) ?_
    | split

theorem State.moveSegment_keeps {r₀ s : State} (o : OpSt) (hk : Keeps r₀ s) :
    Keeps r₀ (s.moveSegment o).1 := by
  unfold State.moveSegment
  repeat' first
    | with_reducible assumption
    | with_reducible apply State.setOp_keeps
    | with_reducible apply State.cfgXfer_keeps
    | split

theorem State.moveBegin_keeps {r₀ s : State} (o : OpSt) (la pl : Nat) (hk : Keeps r₀ s) :
    Keeps r₀ (s.moveBegin o la pl).1 := by
  unfold State.moveBegin
  repeat' first
    | with_reducible assumption
    | (extract_lets +onlyGivenNames x; clear_value x)
    | with_reducible apply State.setOp_keeps
    | with_reducible apply State.moveSegment_keeps
    | split

theorem State.retireEnd_keeps {r₀ s : State} (o : OpSt) (hk : Keeps r₀ s) :
    Keeps r₀ (s.retireEnd o) := by
  unfold State.retireEnd
  repeat' first
    | with_reducible assumption
    | intro _
    | (extract_lets +onlyGivenNames x; clear_value (ex : x = _); have hx : Keeps r₀ x := ?_)
    | (extract_lets +onlyGivenNames x; clear_value x)
    | with_reducible apply State.acreGone_keeps
    | with_reducible apply State.resetLogicDie_keeps
    | with_reducible apply State.opEnd_keeps
    | with_reducible apply Keeps.foldl
    | with_reducible refine Keeps.cast (by assumption) ?_
    | split

theorem State.retireNext_keeps {r₀ x1 : State} (x0 : Nat) (x2 : OpSt) (hx1 : Keeps r₀ x1) :
    Keeps r₀ (State.retireNext x0 x1 x2) := by
  induction x0 generalizing x1 x2
  all_goals
    unfold State.retireNext
    repeat' first
      | with_reducible assumption
      | (extract_lets +onlyGivenNames x; clear_value (ex : x = _); have hx : Keeps r₀ x.1 := ?_)
      | (extract_lets +onlyGivenNames x; clear_value x)
      | with_reducible apply State.acreGone_keeps
      | with_reducible apply State.moveBegin_keeps
      | with_reducible apply State.retireEnd_keeps
      | with_reducible refine Keeps.cast1 (by assumption) ?_
      | with_reducible apply_assumption -exfalso -symm
      | split

theorem State.moveEnd_keeps {r₀ s : State} (o : OpSt) (status : Nat) (hk : Keeps r₀ s) :
    Keeps r₀ (s.moveEnd o status) := by
  unfold State.moveEnd
  repeat' first
    | with_reducible assumption
    | (extract_lets +onlyGivenNames x; clear_value (ex : x = _); have hx : Keeps r₀ x := ?_)
    | with_reducible apply State.setFld_keeps
    | with_reducible apply State.acreGone_keeps
    | with_reducible apply State.opEnd_keeps
    | with_reducible apply State.retireNext_keeps
    | with_reducible refine Keeps.cast (by assumption) ?_
    | split

theorem State.moveFetched_keeps {r₀ s : State} (o : OpSt) (bytes : Option (List Byte)) (hk : Keeps r₀ s) :
    Keeps r₀ (s.moveFetched o bytes) := by
  unfold State.moveFetched
  repeat' first
    | with_reducible assumption
    | with_reducible apply State.quiesce_keeps
    | with_reducible apply State.setOp_keeps
    | with_reducible apply State.moveEnd_keeps
    | split

theorem State.moveLoad_keeps {r₀ s : State} (o : OpSt) (hk : Keeps r₀ s) :
    Keeps r₀ (s.moveLoad o) := by
  unfold State.moveLoad
  repeat' first
    | with_reducible assumption
    | with_reducible apply State.emptyPlace_keeps
    | with_reducible apply State.startLoad_keeps
    | with_reducible apply State.setOp_keeps
    | with_reducible apply State.moveEnd_keeps
    | split

theorem State.moveCapture_keeps {r₀ s : State} (o : OpSt) (hk : Keeps r₀ s) :
    Keeps r₀ (s.moveCapture o) := by
  unfold State.moveCapture
  repeat' first
    | with_reducible assumption
    | (extract_lets +onlyGivenNames x; clear_value (ex : x = _); have hx : Keeps r₀ x := ?_)
    | (extract_lets +onlyGivenNames x; clear_value (ex : x = _); have hx : Keeps r₀ x.2 := ?_)
    | with_reducible apply State.setAcre_keeps
    | with_reducible apply State.pausePlace_keeps
    | with_reducible apply State.capture_keeps
    | with_reducible apply State.setOp_keeps
    | with_reducible apply State.cfgXfer_keeps
    | with_reducible apply State.moveEnd_keeps
    | with_reducible refine Keeps.cast (by assumption) ?_
    | with_reducible refine Keeps.cast2 (by assumption) ?_
    | split

theorem State.moveRelease_keeps {r₀ s : State} (o : OpSt) (hk : Keeps r₀ s) :
    Keeps r₀ (s.moveRelease o) := by
  unfold State.moveRelease
  repeat' first
    | with_reducible assumption
    | with_reducible apply State.makeDue_keeps
    | with_reducible apply State.setOp_keeps
    | with_reducible apply State.mapStop_keeps

theorem State.opTurn_keeps {r₀ s : State} (hk : Keeps r₀ s) :
    Keeps r₀ (s.opTurn) := by
  unfold State.opTurn
  repeat' first
    | with_reducible assumption
    | intro _
    | (extract_lets +onlyGivenNames x; clear_value (ex : x = _); have hx : Keeps r₀ x := ?_)
    | (extract_lets +onlyGivenNames x; clear_value x)
    | with_reducible apply State.setAcre_keeps
    | with_reducible apply State.makeDue_keeps
    | with_reducible apply State.quiesce_keeps
    | with_reducible apply State.setOp_keeps
    | with_reducible apply State.cfgXfer_keeps
    | with_reducible apply State.opEnd_keeps
    | with_reducible apply State.moveEnd_keeps
    | with_reducible apply State.moveRelease_keeps
    | with_reducible apply Keeps.foldl
    | with_reducible refine Keeps.cast (by assumption) ?_
    | split

theorem State.opXferDone_keeps {r₀ s : State} (o : OpSt) (x : Xfer) (hk : Keeps r₀ s) :
    Keeps r₀ (s.opXferDone o x) := by
  unfold State.opXferDone
  repeat' first
    | with_reducible assumption
    | (extract_lets +onlyGivenNames x; clear_value x)
    | with_reducible apply State.stageSegment_keeps
    | with_reducible apply State.restore_keeps
    | with_reducible apply State.opEnd_keeps
    | with_reducible apply State.opHeader_keeps
    | with_reducible apply State.moveFetched_keeps
    | with_reducible apply State.moveLoad_keeps
    | with_reducible apply State.moveRelease_keeps
    | with_reducible apply State.opTurn_keeps
    | split
    | fail_if_no_progress (with_reducible apply Keeps.upd)

theorem State.cfgPump_keeps {r₀ x1 : State} (x0 : Nat) (hx1 : Keeps r₀ x1) :
    Keeps r₀ (State.cfgPump x0 x1) := by
  induction x0 generalizing x1
  all_goals
    unfold State.cfgPump
    repeat' first
      | with_reducible assumption
      | (extract_lets +onlyGivenNames x; clear_value (ex : x = _); have hx : Keeps r₀ x := ?_)
      | (extract_lets +onlyGivenNames x; clear_value (ex : x = _); have hx : Keeps r₀ x.2 := ?_)
      | (extract_lets +onlyGivenNames x; clear_value x)
      | with_reducible apply State.xferPump_keeps
      | with_reducible apply State.opFetch_keeps
      | with_reducible apply State.opTurn_keeps
      | with_reducible apply State.opXferDone_keeps
      | with_reducible refine Keeps.cast (by assumption) ?_
      | with_reducible refine Keeps.cast2 (by assumption) ?_
      | with_reducible apply_assumption -exfalso -symm
      | split
      | (extract_lets +onlyGivenNames x)
      | fail_if_no_progress (with_reducible apply Keeps.upd)

theorem State.opAbort_keeps {r₀ s : State} (scope : Nat → Bool) (hk : Keeps r₀ s) :
    Keeps r₀ (s.opAbort scope) := by
  unfold State.opAbort
  repeat' first
    | with_reducible assumption
    | intro _
    | (extract_lets +onlyGivenNames x; clear_value (ex : x = _); have hx : Keeps r₀ x := ?_)
    | (extract_lets +onlyGivenNames x; clear_value x)
    | with_reducible apply State.emptyPlace_keeps
    | with_reducible apply State.acreGone_keeps
    | with_reducible apply State.setReason_keeps
    | with_reducible apply State.putLoad_keeps
    | with_reducible apply State.dropDue_keeps
    | with_reducible apply State.opEnd_keeps
    | with_reducible apply Keeps.foldl
    | with_reducible refine Keeps.cast (by assumption) ?_
    | split

theorem State.opBegin_keeps {r₀ s : State} (op : Nat) (hk : Keeps r₀ s) :
    Keeps r₀ (s.opBegin op).1 := by
  unfold State.opBegin
  repeat' first
    | with_reducible assumption
    | (extract_lets +onlyGivenNames x; clear_value x)
    | with_reducible apply State.setFld_keeps
    | with_reducible apply State.setOp_keeps

theorem State.beginLoad_keeps {r₀ s : State} (hk : Keeps r₀ s) :
    Keeps r₀ (s.beginLoad) := by
  unfold State.beginLoad
  repeat' first
    | with_reducible assumption
    | (extract_lets +onlyGivenNames x; clear_value (ex : x = _); have hx : Keeps r₀ x.1 := ?_)
    | with_reducible apply State.cfgXfer_keeps
    | with_reducible apply State.opHeader_keeps
    | with_reducible apply State.opBegin_keeps
    | with_reducible refine Keeps.cast1 (by assumption) ?_
    | split

theorem State.beginUnload_keeps {r₀ s : State} (hk : Keeps r₀ s) :
    Keeps r₀ (s.beginUnload) := by
  unfold State.beginUnload
  repeat' first
    | with_reducible assumption
    | (extract_lets +onlyGivenNames x; clear_value (ex : x = _); have hx : Keeps r₀ x.1 := ?_)
    | (extract_lets +onlyGivenNames x; clear_value x)
    | with_reducible apply State.acreGone_keeps
    | with_reducible apply State.quiesce_keeps
    | with_reducible apply State.setOp_keeps
    | with_reducible apply State.opEnd_keeps
    | with_reducible apply State.opBegin_keeps
    | with_reducible refine Keeps.cast1 (by assumption) ?_
    | split

theorem State.beginRelocate_keeps {r₀ s : State} (hk : Keeps r₀ s) :
    Keeps r₀ (s.beginRelocate) := by
  unfold State.beginRelocate
  repeat' first
    | with_reducible assumption
    | (extract_lets +onlyGivenNames x; clear_value (ex : x = _); have hx : Keeps r₀ x.1 := ?_)
    | (extract_lets +onlyGivenNames x; clear_value x)
    | with_reducible apply State.opEnd_keeps
    | with_reducible apply State.moveBegin_keeps
    | with_reducible apply State.moveEnd_keeps
    | with_reducible apply State.opBegin_keeps
    | with_reducible refine Keeps.cast1 (by assumption) ?_
    | split

theorem State.beginReadback_keeps {r₀ s : State} (hk : Keeps r₀ s) :
    Keeps r₀ (s.beginReadback) := by
  unfold State.beginReadback
  repeat' first
    | with_reducible assumption
    | (extract_lets +onlyGivenNames x; clear_value (ex : x = _); have hx : Keeps r₀ x.1 := ?_)
    | (extract_lets +onlyGivenNames x; clear_value x)
    | with_reducible apply State.setOp_keeps
    | with_reducible apply State.cfgXfer_keeps
    | with_reducible apply State.opEnd_keeps
    | with_reducible apply State.opBegin_keeps
    | with_reducible refine Keeps.cast1 (by assumption) ?_
    | split

theorem State.beginHostPrep_keeps {r₀ s : State} (hk : Keeps r₀ s) :
    Keeps r₀ (s.beginHostPrep) := by
  unfold State.beginHostPrep
  repeat' first
    | with_reducible assumption
    | (extract_lets +onlyGivenNames x; clear_value (ex : x = _); have hx : Keeps r₀ x.1 := ?_)
    | (extract_lets +onlyGivenNames x; clear_value x)
    | with_reducible apply State.setOp_keeps
    | with_reducible apply State.opEnd_keeps
    | with_reducible apply State.opBegin_keeps
    | with_reducible refine Keeps.cast1 (by assumption) ?_
    | split

theorem State.beginRetire_keeps {r₀ s : State} (hk : Keeps r₀ s) :
    Keeps r₀ (s.beginRetire) := by
  unfold State.beginRetire
  repeat' first
    | with_reducible assumption
    | (extract_lets +onlyGivenNames x; clear_value (ex : x = _); have hx : Keeps r₀ x := ?_)
    | (extract_lets +onlyGivenNames x; clear_value (ex : x = _); have hx : Keeps r₀ x.1 := ?_)
    | (extract_lets +onlyGivenNames x; clear_value x)
    | with_reducible apply State.setSite_keeps
    | with_reducible apply State.opEnd_keeps
    | with_reducible apply State.retireNext_keeps
    | with_reducible apply State.opBegin_keeps
    | with_reducible refine Keeps.cast (by assumption) ?_
    | with_reducible refine Keeps.cast1 (by assumption) ?_
    | split

theorem State.opGo_keeps {r₀ s : State} (op : Nat) (hk : Keeps r₀ s) :
    Keeps r₀ (s.opGo op) := by
  unfold State.opGo
  repeat' first
    | with_reducible assumption
    | with_reducible apply State.cfgPump_keeps
    | with_reducible apply State.beginLoad_keeps
    | with_reducible apply State.beginUnload_keeps
    | with_reducible apply State.beginRelocate_keeps
    | with_reducible apply State.beginReadback_keeps
    | with_reducible apply State.beginHostPrep_keeps
    | with_reducible apply State.beginRetire_keeps
    | split

theorem State.opStart_keeps {r₀ s : State} (op : Nat) (hk : Keeps r₀ s) :
    Keeps r₀ (s.opStart op) := by
  unfold State.opStart
  repeat' first
    | with_reducible assumption
    | (extract_lets +onlyGivenNames x; clear_value (ex : x = _); have hx : Keeps r₀ x := ?_)
    | with_reducible apply State.setFld_keeps
    | with_reducible apply State.emptyPlace_keeps
    | with_reducible apply State.acreGone_keeps
    | with_reducible apply State.putLoad_keeps
    | with_reducible apply State.dropDue_keeps
    | with_reducible apply State.opEnd_keeps
    | with_reducible apply State.opGo_keeps
    | with_reducible refine Keeps.cast (by assumption) ?_
    | split

theorem State.cfgCmdWrite_keeps {r₀ s : State} (mid : Nat) (v : Word) (hk : Keeps r₀ s) :
    Keeps r₀ (s.cfgCmdWrite mid v).1 := by
  unfold State.cfgCmdWrite
  repeat' first
    | with_reducible assumption
    | (extract_lets +onlyGivenNames x; clear_value (ex : x = _); have hx : Keeps r₀ x := ?_)
    | with_reducible apply State.setFld_keeps
    | with_reducible apply State.opStart_keeps
    | with_reducible refine Keeps.cast (by assumption) ?_
    | split

theorem State.storeTurn_keeps {r₀ s : State} (hk : Keeps r₀ s) :
    Keeps r₀ (s.storeTurn) := by
  unfold State.storeTurn
  repeat' first
    | with_reducible assumption
    | with_reducible apply State.opEnd_keeps
    | with_reducible apply State.moveEnd_keeps
    | split

theorem State.opBist_keeps {r₀ s : State} (o : OpSt) (pass : Bool) (hk : Keeps r₀ s) :
    Keeps r₀ (s.opBist o pass) := by
  unfold State.opBist
  repeat' first
    | with_reducible assumption
    | (extract_lets +onlyGivenNames x; clear_value (ex : x = _); have hx : Keeps r₀ x := ?_)
    | (extract_lets +onlyGivenNames x; clear_value (ex : x = _); have hx : Keeps r₀ x.1 := ?_)
    | (extract_lets +onlyGivenNames x; clear_value x)
    | with_reducible apply State.retireSite_keeps
    | with_reducible apply State.setOp_keeps
    | with_reducible apply State.opEnd_keeps
    | with_reducible apply State.hostReady_keeps
    | with_reducible apply State.moveSegment_keeps
    | with_reducible apply State.moveEnd_keeps
    | with_reducible apply State.storeTurn_keeps
    | with_reducible refine Keeps.cast (by assumption) ?_
    | with_reducible refine Keeps.cast1 (by assumption) ?_
    | split

theorem State.opStep_keeps {r₀ s : State} (op : Nat) (step : CfgStep) (hk : Keeps r₀ s) :
    Keeps r₀ (s.opStep op step) := by
  unfold State.opStep
  repeat' first
    | with_reducible assumption
    | intro _
    | (extract_lets +onlyGivenNames x; clear_value x)
    | with_reducible apply State.regWrite_keeps
    | with_reducible apply State.moveFetched_keeps
    | with_reducible apply State.moveLoad_keeps
    | with_reducible apply State.opTurn_keeps
    | with_reducible apply State.cfgPump_keeps
    | with_reducible apply State.cfgCmdWrite_keeps
    | with_reducible apply State.opBist_keeps
    | split
    | (extract_lets +onlyGivenNames x)
    | fail_if_no_progress (with_reducible apply Keeps.upd)

theorem execCfgOpLoad_keeps {r₀ s : State} (step : CfgStep) (hk : Keeps r₀ s) :
    ∀ s', execCfgOpLoad step s = .next s' → Keeps r₀ s' := by
  unfold execCfgOpLoad
  repeat' first
    | with_reducible assumption
    | with_reducible refine Keeps.next ?_
    | with_reducible apply State.opStep_keeps

theorem execCfgOpUnload_keeps {r₀ s : State} (step : CfgStep) (hk : Keeps r₀ s) :
    ∀ s', execCfgOpUnload step s = .next s' → Keeps r₀ s' := by
  unfold execCfgOpUnload
  repeat' first
    | with_reducible assumption
    | with_reducible refine Keeps.next ?_
    | with_reducible apply State.opStep_keeps

theorem execCfgOpRelocate_keeps {r₀ s : State} (step : CfgStep) (hk : Keeps r₀ s) :
    ∀ s', execCfgOpRelocate step s = .next s' → Keeps r₀ s' := by
  unfold execCfgOpRelocate
  repeat' first
    | with_reducible assumption
    | with_reducible refine Keeps.next ?_
    | with_reducible apply State.opStep_keeps

theorem execCfgOpReadback_keeps {r₀ s : State} (step : CfgStep) (hk : Keeps r₀ s) :
    ∀ s', execCfgOpReadback step s = .next s' → Keeps r₀ s' := by
  unfold execCfgOpReadback
  repeat' first
    | with_reducible assumption
    | with_reducible refine Keeps.next ?_
    | with_reducible apply State.opStep_keeps

theorem execCfgOpHostPrep_keeps {r₀ s : State} (step : CfgStep) (hk : Keeps r₀ s) :
    ∀ s', execCfgOpHostPrep step s = .next s' → Keeps r₀ s' := by
  unfold execCfgOpHostPrep
  repeat' first
    | with_reducible assumption
    | with_reducible refine Keeps.next ?_
    | with_reducible apply State.opStep_keeps

theorem execCfgOpRetire_keeps {r₀ s : State} (step : CfgStep) (hk : Keeps r₀ s) :
    ∀ s', execCfgOpRetire step s = .next s' → Keeps r₀ s' := by
  unfold execCfgOpRetire
  repeat' first
    | with_reducible assumption
    | with_reducible refine Keeps.next ?_
    | with_reducible apply State.opStep_keeps

theorem State.isolateAcre_keeps {r₀ s : State} (la : Nat) (hk : Keeps r₀ s) :
    Keeps r₀ (s.isolateAcre la) := by
  unfold State.isolateAcre
  repeat' first
    | with_reducible assumption
    | with_reducible apply State.setAcre_keeps
    | with_reducible apply State.isolatePlace_keeps
    | split

theorem State.quiesced_keeps {r₀ s : State} (la : Nat) (hk : Keeps r₀ s) :
    Keeps r₀ (s.quiesced la) := by
  unfold State.quiesced
  repeat' first
    | with_reducible assumption
    | with_reducible apply State.acreGone_keeps
    | with_reducible apply State.makeDue_keeps
    | with_reducible apply State.opEnd_keeps
    | with_reducible apply State.moveCapture_keeps
    | with_reducible apply State.cfgPump_keeps
    | with_reducible apply State.isolateAcre_keeps
    | split

theorem execQuiescenceEnd_keeps {r₀ s : State} (acre : Fin 192) (hk : Keeps r₀ s) :
    ∀ s', execQuiescenceEnd acre s = .next s' → Keeps r₀ s' := by
  unfold execQuiescenceEnd
  repeat' first
    | with_reducible assumption
    | with_reducible refine Keeps.next ?_
    | with_reducible apply State.quiesced_keeps
    | split

theorem State.startXspi_keeps {r₀ s : State} (sfdp : Option Bool) (hk : Keeps r₀ s) :
    Keeps r₀ (s.startXspi sfdp) := by
  unfold State.startXspi
  repeat' first
    | with_reducible assumption
    | (extract_lets +onlyGivenNames x; clear_value x)
    | split
    | fail_if_no_progress (with_reducible apply Keeps.upd)

theorem execImageStaging_keeps {r₀ s : State} (sfdp : Option Bool) (data : Option (List Byte)) (hk : Keeps r₀ s) :
    ∀ s', execImageStaging sfdp data s = .next s' → Keeps r₀ s' := by
  unfold execImageStaging
  repeat' first
    | with_reducible assumption
    | with_reducible refine Keeps.next ?_
    | (extract_lets +onlyGivenNames x; clear_value (ex : x = _); have hx : Keeps r₀ x := ?_)
    | (extract_lets +onlyGivenNames x; clear_value x)
    | with_reducible apply State.judgeImage_keeps
    | with_reducible apply State.stageLines_keeps
    | with_reducible apply State.stageSegment_keeps
    | with_reducible apply State.startXspi_keeps
    | with_reducible refine Keeps.cast (by assumption) ?_
    | split

theorem State.loadStaged_keeps {r₀ s : State} (la : Nat) (hk : Keeps r₀ s) :
    Keeps r₀ (s.loadStaged la) := by
  unfold State.loadStaged
  repeat' first
    | with_reducible assumption
    | with_reducible apply State.startLoad_keeps
    | split

theorem State.loadEnded_keeps {r₀ s : State} (la : Nat) (hk : Keeps r₀ s) :
    Keeps r₀ (s.loadEnded la) := by
  unfold State.loadEnded
  repeat' first
    | with_reducible assumption
    | with_reducible apply State.makeDue_keeps
    | with_reducible apply State.opTurn_keeps
    | with_reducible apply State.cfgPump_keeps
    | split

theorem execEarlyAcreLoad_keeps {r₀ s : State} (hk : Keeps r₀ s) :
    ∀ s', execEarlyAcreLoad s = .next s' → Keeps r₀ s' := by
  unfold execEarlyAcreLoad
  repeat' first
    | with_reducible assumption
    | with_reducible refine Keeps.next ?_
    | with_reducible apply State.loadStaged_keeps
    | with_reducible apply State.loadEnded_keeps
    | split

theorem execAcreLoadBegin_keeps {r₀ s : State} (acre : Fin 192) (hk : Keeps r₀ s) :
    ∀ s', execAcreLoadBegin acre s = .next s' → Keeps r₀ s' := by
  unfold execAcreLoadBegin
  repeat' first
    | with_reducible assumption
    | with_reducible refine Keeps.next ?_
    | (extract_lets +onlyGivenNames x; clear_value x)
    | with_reducible apply State.setOp_keeps
    | with_reducible apply State.loadStaged_keeps
    | with_reducible apply State.loadEnded_keeps
    | split

theorem execFrameRecord_keeps {r₀ s : State} (acre : Fin 192) (hk : Keeps r₀ s) :
    ∀ s', execFrameRecord acre s = .next s' → Keeps r₀ s' := by
  unfold execFrameRecord
  repeat' first
    | with_reducible assumption
    | with_reducible refine Keeps.next ?_
    | (extract_lets +onlyGivenNames x; clear_value (ex : x = _); have hx : Keeps r₀ x := ?_)
    | with_reducible apply State.frameRecord_keeps
    | with_reducible apply State.loadEnded_keeps
    | with_reducible refine Keeps.cast (by assumption) ?_
    | split

theorem execStage1_keeps {r₀ s : State} (acre : Fin 192) (hk : Keeps r₀ s) :
    ∀ s', execStage1 acre s = .next s' → Keeps r₀ s' := by
  unfold execStage1
  repeat' first
    | with_reducible assumption
    | with_reducible refine fun _ _ (_ : Keeps r₀ _) => ?_
    | with_reducible refine Keeps.next ?_
    | (extract_lets +onlyGivenNames x; clear_value (ex : x = _); have hx : Keeps r₀ x := ?_)
    | (extract_lets +onlyGivenNames x; clear_value x)
    | with_reducible apply State.raise_keeps
    | with_reducible apply State.setAcre_keeps
    | with_reducible apply State.stage1_keeps
    | with_reducible apply State.dropDue_keeps
    | with_reducible apply Keeps.foldl
    | with_reducible refine Keeps.cast (by assumption) ?_
    | split
    | (extract_lets +onlyGivenNames x)
    | fail_if_no_progress (with_reducible apply Keeps.upd)

theorem execStage2_keeps {r₀ s : State} (acre : Fin 192) (hk : Keeps r₀ s) :
    ∀ s', execStage2 acre s = .next s' → Keeps r₀ s' := by
  unfold execStage2
  repeat' first
    | with_reducible assumption
    | with_reducible refine Keeps.next ?_
    | with_reducible apply State.stage2_keeps
    | split

theorem execStage3_keeps {r₀ s : State} (acre : Fin 192) (hk : Keeps r₀ s) :
    ∀ s', execStage3 acre s = .next s' → Keeps r₀ s' := by
  unfold execStage3
  repeat' first
    | with_reducible assumption
    | with_reducible refine Keeps.next ?_
    | (extract_lets +onlyGivenNames x; clear_value (ex : x = _); have hx : Keeps r₀ x := ?_)
    | (extract_lets +onlyGivenNames x; clear_value x)
    | with_reducible apply State.setAcre_keeps
    | with_reducible apply State.stageLast_keeps
    | with_reducible apply State.opTurn_keeps
    | with_reducible apply State.cfgPump_keeps
    | with_reducible refine Keeps.cast (by assumption) ?_
    | split
    | (extract_lets +onlyGivenNames x)
    | fail_if_no_progress (with_reducible apply Keeps.upd)

theorem execNoClock_keeps {r₀ s : State} (acre : Fin 192) (hk : Keeps r₀ s) :
    ∀ s', execNoClock acre s = .next s' → Keeps r₀ s' := by
  unfold execNoClock
  repeat' first
    | with_reducible assumption
    | with_reducible refine Keeps.next ?_
    | (extract_lets +onlyGivenNames x; clear_value (ex : x = _); have hx : Keeps r₀ x := ?_)
    | (extract_lets +onlyGivenNames x; clear_value x)
    | with_reducible apply State.acreFail_keeps
    | with_reducible apply State.dropDue_keeps
    | with_reducible apply State.opTurn_keeps
    | with_reducible apply State.cfgPump_keeps
    | with_reducible refine Keeps.cast (by assumption) ?_
    | split
    | (extract_lets +onlyGivenNames x)
    | fail_if_no_progress (with_reducible apply Keeps.upd)

end Sys2Proof.Machine
end

