-- ==== Sys2Proof/Laws/KeepsReset.lean ====
section
/-! SUPPORT. What every operation and meaning keeps (`Keeps`): PCIe, resets, start-up, clocks and power. -/

namespace Sys2Proof.Machine

open Sys2Proof

set_option maxRecDepth 4000

/-! ### Pcie -/

theorem State.laneShow_keeps {r₀ s : State} (p : Nat) (hk : Keeps r₀ s) :
    Keeps r₀ (s.laneShow p) := by
  unfold State.laneShow
  repeat' first
    | with_reducible assumption
    | with_reducible apply State.setFld_keeps

theorem State.pcieCfgWrite_keeps {r₀ s : State} (p : Nat) (v : Word) (hk : Keeps r₀ s) :
    Keeps r₀ (s.pcieCfgWrite p v) := by
  unfold State.pcieCfgWrite
  repeat' first
    | with_reducible assumption
    | (extract_lets +onlyGivenNames x; clear_value x)
    | with_reducible apply State.setCsr_keeps
    | with_reducible apply State.setFld_keeps
    | with_reducible apply State.laneShow_keeps
    | split

theorem State.ethCfgWrite_keeps {r₀ s : State} (p m : Nat) (v : Word) (hk : Keeps r₀ s) :
    Keeps r₀ (s.ethCfgWrite p m v) := by
  unfold State.ethCfgWrite
  repeat' first
    | with_reducible assumption
    | with_reducible apply State.setCsr_keeps
    | with_reducible apply State.setFld_keeps
    | with_reducible apply State.laneShow_keeps
    | split

theorem State.pciePart_keeps {r₀ s : State} (p : Nat) (r : PcieReq) (off len : Nat) (hk : Keeps r₀ s) :
    Keeps r₀ (s.pciePart p r off len).2 := by
  unfold State.pciePart
  repeat' first
    | with_reducible assumption
    | (extract_lets +onlyGivenNames x; clear_value x)
    | with_reducible apply State.issue_keeps
    | split

theorem State.setPcieIn_keeps {r₀ s : State} (p : Nat) (l : List PcieIn) (hk : Keeps r₀ s) :
    Keeps r₀ (s.setPcieIn p l) := by
  unfold State.setPcieIn
  repeat' first
    | with_reducible assumption
    | (extract_lets +onlyGivenNames x; clear_value x)
    | fail_if_no_progress (with_reducible apply Keeps.upd)

theorem State.pciePieceDone_keeps {r₀ s : State} (p : Nat) (q : PcieIn) (c : PciePiece) (hk : Keeps r₀ s) :
    Keeps r₀ (s.pciePieceDone p q c) := by
  unfold State.pciePieceDone
  repeat' first
    | with_reducible assumption
    | (extract_lets +onlyGivenNames x; clear_value (ex : x = _); have hx : Keeps r₀ x := ?_)
    | (extract_lets +onlyGivenNames x; clear_value x)
    | with_reducible apply State.setCsr64_keeps
    | with_reducible apply State.satInc_keeps
    | with_reducible apply State.send_keeps
    | with_reducible apply State.portFlag_keeps
    | with_reducible refine Keeps.cast (by assumption) ?_
    | split

theorem State.pcieRun_keeps {r₀ s : State} (p : Nat) (hk : Keeps r₀ s) :
    Keeps r₀ (s.pcieRun p) := by
  unfold State.pcieRun
  repeat' first
    | with_reducible assumption
    | intro _
    | (extract_lets +onlyGivenNames x; clear_value (ex : x = _); have hx : Keeps r₀ x := ?_)
    | (extract_lets +onlyGivenNames x; clear_value x)
    | with_reducible apply State.dropInbox_keeps
    | with_reducible apply State.setPcieIn_keeps
    | with_reducible apply State.pciePieceDone_keeps
    | with_reducible apply Keeps.foldl
    | with_reducible refine Keeps.cast (by assumption) ?_
    | split

theorem State.pcieBar2_keeps {r₀ s : State} (p : Nat) (r : PcieReq) (hk : Keeps r₀ s) :
    Keeps r₀ (s.pcieBar2 p r) := by
  unfold State.pcieBar2
  repeat' first
    | with_reducible assumption
    | intro _
    | (extract_lets +onlyGivenNames x; clear_value (ex : x = _); have hx : Keeps r₀ x.2 := ?_)
    | with_reducible apply State.pciePart_keeps
    | with_reducible apply State.setPcieIn_keeps
    | with_reducible apply State.pcieRun_keeps
    | with_reducible apply Keeps.foldl2
    | with_reducible refine Keeps.cast2 (by assumption) ?_

theorem State.setPcieOut_keeps {r₀ s : State} (p : Nat) (l : List PcieOut) (hk : Keeps r₀ s) :
    Keeps r₀ (s.setPcieOut p l) := by
  unfold State.setPcieOut
  repeat' first
    | with_reducible assumption
    | (extract_lets +onlyGivenNames x; clear_value x)
    | fail_if_no_progress (with_reducible apply Keeps.upd)

theorem State.pcieOutbound_keeps {r₀ s : State} (p : Nat) (k : ReqPkt) (hk : Keeps r₀ s) :
    Keeps r₀ (s.pcieOutbound p k) := by
  unfold State.pcieOutbound
  repeat' first
    | with_reducible assumption
    | (extract_lets +onlyGivenNames x; clear_value (ex : x = _); have hx : Keeps r₀ x := ?_)
    | (extract_lets +onlyGivenNames x; clear_value (ex : x = _); have hx : Keeps r₀ x.2 := ?_)
    | (extract_lets +onlyGivenNames x; clear_value x)
    | with_reducible apply State.send_keeps
    | with_reducible apply State.free_keeps
    | with_reducible apply State.reply_keeps
    | with_reducible apply State.setPcieOut_keeps
    | with_reducible refine Keeps.cast (by assumption) ?_
    | with_reducible refine Keeps.cast2 (by assumption) ?_
    | split

theorem State.pcieAnswer_keeps {r₀ s : State} (p tag : Nat) (st : PcieStatus) (ep : Bool) (data : List Byte) (hk : Keeps r₀ s) :
    Keeps r₀ (s.pcieAnswer p tag st ep data) := by
  unfold State.pcieAnswer
  repeat' first
    | with_reducible assumption
    | (extract_lets +onlyGivenNames x; clear_value (ex : x = _); have hx : Keeps r₀ x := ?_)
    | (extract_lets +onlyGivenNames x; clear_value x)
    | with_reducible apply State.reply_keeps
    | with_reducible apply State.setPcieOut_keeps
    | with_reducible refine Keeps.cast (by assumption) ?_
    | split

theorem execPcieOutbound_keeps {r₀ s : State} (port : Fin 4) (ev : PcieOutEv) (hk : Keeps r₀ s) :
    ∀ s', execPcieOutbound port ev s = .next s' → Keeps r₀ s' := by
  unfold execPcieOutbound
  repeat' first
    | with_reducible assumption
    | with_reducible refine Keeps.next ?_
    | (extract_lets +onlyGivenNames x; clear_value (ex : x = _); have hx : Keeps r₀ x.2 := ?_)
    | with_reducible apply State.arrive_keeps
    | with_reducible apply State.setPcieOut_keeps
    | with_reducible apply State.pcieOutbound_keeps
    | with_reducible apply State.pcieAnswer_keeps
    | with_reducible refine Keeps.cast2 (by assumption) ?_
    | split

theorem execPcieLinkDown_keeps {r₀ s : State} (port link : Fin 4) (up : Bool) (speed : Fin 8) (ltssm : BitVec 6) (hk : Keeps r₀ s) :
    ∀ s', execPcieLinkDown port link up speed ltssm s = .next s' → Keeps r₀ s' := by
  unfold execPcieLinkDown
  repeat' first
    | with_reducible assumption
    | with_reducible refine Keeps.next ?_
    | with_reducible apply State.setFld_keeps
    | with_reducible apply State.setBit_keeps
    | with_reducible apply State.portFlag_keeps
    | split

theorem execPciePerstN_keeps {r₀ s : State} (port : Fin 4) (hk : Keeps r₀ s) :
    ∀ s', execPciePerstN port s = .next s' → Keeps r₀ s' := by
  unfold execPciePerstN
  repeat' first
    | with_reducible assumption
    | with_reducible refine Keeps.next ?_
    | (extract_lets +onlyGivenNames x; clear_value x)
    | fail_if_no_progress (with_reducible apply Keeps.upd)

theorem execPcieConfigRetry_keeps {r₀ s : State} (port : Fin 4) (hk : Keeps r₀ s) :
    ∀ s', execPcieConfigRetry port s = .next s' → Keeps r₀ s' := by
  unfold execPcieConfigRetry
  repeat' first
    | with_reducible assumption
    | with_reducible refine Keeps.next ?_
    | with_reducible apply State.send_keeps
    | split

/-! ### Reset -/

theorem State.resetAllRegs_keeps {r₀ s : State} (ao powerOn : Bool) (hk : Keeps r₀ s) :
    Keeps r₀ (s.resetAllRegs ao powerOn) := by
  unfold State.resetAllRegs
  repeat' first
    | with_reducible assumption
    | intro _
    | (extract_lets +onlyGivenNames x; clear_value (ex : x = _); have hx : Keeps r₀ x := ?_)
    | (extract_lets +onlyGivenNames x; clear_value x)
    | with_reducible apply State.setCsr_keeps
    | with_reducible apply State.resetRegs_keeps
    | with_reducible apply Keeps.foldl
    | with_reducible refine Keeps.cast (by assumption) ?_
    | split

theorem State.dropDram_keeps {r₀ s : State} (h : Nat) (hk : Keeps r₀ s) :
    Keeps r₀ (s.dropDram h) := by
  unfold State.dropDram
  repeat' first
    | with_reducible assumption
    | (extract_lets +onlyGivenNames x; clear_value x)
    | fail_if_no_progress (with_reducible apply Keeps.upd)

theorem State.deviceClear_keeps {r₀ s : State} (ao powerOn : Bool) (hk : Keeps r₀ s) :
    Keeps r₀ (s.deviceClear ao powerOn) := by
  unfold State.deviceClear
  repeat' first
    | with_reducible assumption
    | intro _
    | (extract_lets +onlyGivenNames x; clear_value (ex : x = _); have hx : Keeps r₀ x := ?_)
    | (extract_lets +onlyGivenNames x; clear_value x)
    | with_reducible apply State.cutCommands_keeps
    | with_reducible apply State.levelsNone_keeps
    | with_reducible apply State.opAbort_keeps
    | with_reducible apply State.resetAllRegs_keeps
    | with_reducible apply State.dropDram_keeps
    | with_reducible apply Keeps.foldl
    | with_reducible refine Keeps.cast (by assumption) ?_
    | split
    | fail_if_no_progress (with_reducible apply Keeps.upd)

theorem State.deviceReset_keeps {r₀ s : State} (ao powerOn : Bool) (cause phase : Nat) (hk : Keeps r₀ s) :
    Keeps r₀ (s.deviceReset ao powerOn cause phase) := by
  unfold State.deviceReset
  repeat' first
    | with_reducible assumption
    | (extract_lets +onlyGivenNames x; clear_value (ex : x = _); have hx : Keeps r₀ x := ?_)
    | with_reducible apply State.setCsr_keeps
    | with_reducible apply State.setFld_keeps
    | with_reducible apply State.satInc_keeps
    | with_reducible apply State.deviceClear_keeps
    | with_reducible refine Keeps.cast (by assumption) ?_
    | split

theorem State.parkOff_keeps {r₀ s : State} (hk : Keeps r₀ s) :
    Keeps r₀ (s.parkOff) := by
  unfold State.parkOff
  repeat' first
    | with_reducible assumption
    | (extract_lets +onlyGivenNames x; clear_value (ex : x = _); have hx : Keeps r₀ x := ?_)
    | (extract_lets +onlyGivenNames x; clear_value x)
    | with_reducible apply State.setCsr_keeps
    | with_reducible apply State.deviceClear_keeps
    | with_reducible refine Keeps.cast (by assumption) ?_
    | fail_if_no_progress (with_reducible apply Keeps.upd)

theorem State.watchWake_keeps {r₀ s : State} (hk : Keeps r₀ s) :
    Keeps r₀ (s.watchWake) := by
  unfold State.watchWake
  repeat' first
    | with_reducible assumption
    | with_reducible apply State.setFld_keeps
    | split

theorem execPorst_keeps {r₀ s : State} (parkWake : Bool) (hk : Keeps r₀ s) :
    ∀ s', execPorst parkWake s = .next s' → Keeps r₀ s' := by
  unfold execPorst
  repeat' first
    | with_reducible assumption
    | with_reducible refine Keeps.next ?_
    | with_reducible apply State.deviceReset_keeps
    | split

theorem execAoPor_keeps {r₀ s : State} (dly : BitVec 3) (hk : Keeps r₀ s) :
    ∀ s', execAoPor dly s = .next s' → Keeps r₀ s' := by
  unfold execAoPor
  repeat' first
    | with_reducible assumption
    | with_reducible refine Keeps.next ?_
    | with_reducible apply State.setFld_keeps
    | with_reducible apply State.deviceReset_keeps

theorem execAoBor_keeps {r₀ s : State} (dly : BitVec 3) (hk : Keeps r₀ s) :
    ∀ s', execAoBor dly s = .next s' → Keeps r₀ s' := by
  unfold execAoBor
  repeat' first
    | with_reducible assumption
    | with_reducible refine Keeps.next ?_
    | with_reducible apply State.setFld_keeps
    | with_reducible apply State.deviceReset_keeps

theorem State.abandonEntry_keeps {r₀ s : State} (hk : Keeps r₀ s) :
    Keeps r₀ (s.abandonEntry) := by
  unfold State.abandonEntry
  repeat' first
    | with_reducible assumption
    | (extract_lets +onlyGivenNames x; clear_value x)
    | with_reducible apply State.setFld_keeps
    | with_reducible apply State.satInc_keeps
    | split
    | (extract_lets +onlyGivenNames x)
    | fail_if_no_progress (with_reducible apply Keeps.upd)

theorem State.warmStart_keeps {r₀ s : State} (pin : Bool) (hk : Keeps r₀ s) :
    Keeps r₀ (s.warmStart pin) := by
  unfold State.warmStart
  repeat' first
    | with_reducible assumption
    | intro _
    | (extract_lets +onlyGivenNames x; clear_value (ex : x = _); have hx : Keeps r₀ x := ?_)
    | (extract_lets +onlyGivenNames x; clear_value x)
    | with_reducible apply State.qeWind_keeps
    | with_reducible apply Keeps.foldl
    | with_reducible refine Keeps.cast (by assumption) ?_
    | split
    | (extract_lets +onlyGivenNames x)
    | fail_if_no_progress (with_reducible apply Keeps.upd)

theorem execWrst_keeps {r₀ s : State} (hk : Keeps r₀ s) :
    ∀ s', execWrst s = .next s' → Keeps r₀ s' := by
  unfold execWrst
  repeat' first
    | with_reducible assumption
    | with_reducible refine Keeps.next ?_
    | with_reducible apply State.warmStart_keeps
    | split

theorem State.quiesceHub_keeps {r₀ s : State} (h : Nat) (hk : Keeps r₀ s) :
    Keeps r₀ (s.quiesceHub h) := by
  unfold State.quiesceHub
  repeat' first
    | with_reducible assumption
    | with_reducible apply State.dmcSleep_keeps
    | with_reducible apply State.mpeQuiesce_keeps
    | with_reducible apply State.qeResetEnd_keeps
    | split

theorem execWarmDeviceReset_keeps {r₀ s : State} (hub : Option (Fin 2)) (hk : Keeps r₀ s) :
    ∀ s', execWarmDeviceReset hub s = .next s' → Keeps r₀ s' := by
  unfold execWarmDeviceReset
  repeat' first
    | with_reducible assumption
    | with_reducible refine Keeps.next ?_
    | (extract_lets +onlyGivenNames x; clear_value (ex : x = _); have hx : Keeps r₀ x := ?_)
    | (extract_lets +onlyGivenNames x; clear_value x)
    | with_reducible apply State.deviceReset_keeps
    | with_reducible apply State.quiesceHub_keeps
    | with_reducible refine Keeps.cast (by assumption) ?_
    | split
    | fail_if_no_progress (with_reducible apply Keeps.upd)

theorem State.resetAsk_keeps {r₀ s : State} (scope target : Nat) (hk : Keeps r₀ s) :
    Keeps r₀ (s.resetAsk scope target).1 := by
  unfold State.resetAsk
  repeat' first
    | with_reducible assumption
    | (extract_lets +onlyGivenNames x; clear_value x)
    | with_reducible apply State.setFld_keeps
    | with_reducible apply State.warmStart_keeps
    | split
    | dsimp -zeta only
    | fail_if_no_progress (with_reducible apply Keeps.upd)

theorem State.rstCtlWrite_keeps {r₀ s : State} (mid : Nat) (v : Word) (hk : Keeps r₀ s) :
    Keeps r₀ (s.rstCtlWrite mid v).1 := by
  unfold State.rstCtlWrite
  repeat' first
    | with_reducible assumption
    | (extract_lets +onlyGivenNames x; clear_value (ex : x = _); have hx : Keeps r₀ x := ?_)
    | with_reducible apply State.setFld_keeps
    | with_reducible apply State.resetAsk_keeps
    | with_reducible refine Keeps.cast (by assumption) ?_
    | split

theorem execRstCtlGo_keeps {r₀ s : State} (mid : BitVec 12) (value : Word) (hk : Keeps r₀ s) :
    ∀ s', execRstCtlGo mid value s = .next s' → Keeps r₀ s' := by
  unfold execRstCtlGo
  repeat' first
    | with_reducible assumption
    | with_reducible refine fun _ (_ : Keeps r₀ _) => ?_
    | with_reducible refine Keeps.next ?_
    | with_reducible apply State.regWrite_keeps
    | with_reducible apply State.rstCtlWrite_keeps

theorem State.resetEnds_keeps {r₀ s : State} (r : ResetRun) (hk : Keeps r₀ s) :
    Keeps r₀ (s.resetEnds r) := by
  unfold State.resetEnds
  repeat' first
    | with_reducible assumption
    | (extract_lets +onlyGivenNames x; clear_value x)
    | fail_if_no_progress (with_reducible apply Keeps.upd)

theorem State.resetLinkEnds_keeps {r₀ s : State} (l : List (Nat × Bool)) (hk : Keeps r₀ s) :
    Keeps r₀ (s.resetLinkEnds l) := by
  unfold State.resetLinkEnds
  repeat' first
    | with_reducible assumption
    | intro _
    | with_reducible apply State.linkEndReset_keeps
    | with_reducible apply Keeps.foldl

theorem State.ungateDies_keeps {r₀ s : State} (m : DWord) (hk : Keeps r₀ s) :
    Keeps r₀ (s.ungateDies m) := by
  unfold State.ungateDies
  repeat' first
    | with_reducible assumption
    | intro _
    | (extract_lets +onlyGivenNames x; clear_value (ex : x = _); have hx : Keeps r₀ x := ?_)
    | (extract_lets +onlyGivenNames x; clear_value x)
    | with_reducible apply State.setFld_keeps
    | with_reducible apply Keeps.foldl
    | with_reducible refine Keeps.cast (by assumption) ?_
    | split
    | (extract_lets +onlyGivenNames x)
    | fail_if_no_progress (with_reducible apply Keeps.upd)

theorem State.resetCpus_keeps {r₀ s : State} (h : Nat) (hk : Keeps r₀ s) :
    Keeps r₀ (s.resetCpus h) := by
  unfold State.resetCpus
  repeat' first
    | with_reducible assumption
    | (extract_lets +onlyGivenNames x; clear_value x)
    | fail_if_no_progress (with_reducible apply Keeps.upd)

theorem State.resetHub0_keeps {r₀ s : State} (hk : Keeps r₀ s) :
    Keeps r₀ (s.resetHub0) := by
  unfold State.resetHub0
  repeat' first
    | with_reducible assumption
    | (extract_lets +onlyGivenNames x; clear_value (ex : x = _); have hx : Keeps r₀ x := ?_)
    | (extract_lets +onlyGivenNames x; clear_value x)
    | with_reducible apply State.levelsNone_keeps
    | with_reducible apply State.cutCommands_keeps
    | with_reducible apply State.opAbort_keeps
    | with_reducible apply State.abandonEntry_keeps
    | with_reducible refine Keeps.cast (by assumption) ?_
    | fail_if_no_progress (with_reducible apply Keeps.upd)

theorem execHubReset_keeps {r₀ s : State} (hub : Fin 2) (hk : Keeps r₀ s) :
    ∀ s', execHubReset hub s = .next s' → Keeps r₀ s' := by
  unfold execHubReset
  repeat' first
    | with_reducible assumption
    | with_reducible refine Keeps.next ?_
    | (extract_lets +onlyGivenNames x; clear_value (ex : x = _); have hx : Keeps r₀ x := ?_)
    | (extract_lets +onlyGivenNames x; clear_value x)
    | with_reducible apply State.resetRegs_keeps
    | with_reducible apply State.dropDram_keeps
    | with_reducible apply State.quiesceHub_keeps
    | with_reducible apply State.resetEnds_keeps
    | with_reducible apply State.dropStops_keeps
    | with_reducible apply State.resetLinkEnds_keeps
    | with_reducible apply State.ungateDies_keeps
    | with_reducible apply State.resetCpus_keeps
    | with_reducible apply State.resetHub0_keeps
    | with_reducible refine Keeps.cast (by assumption) ?_
    | split
    | fail_if_no_progress (with_reducible apply Keeps.upd)

theorem State.hubFromBcr_keeps {r₀ s : State} (h : Nat) (hk : Keeps r₀ s) :
    Keeps r₀ (s.hubFromBcr h) := by
  unfold State.hubFromBcr
  repeat' first
    | with_reducible assumption
    | with_reducible apply State.setFld_keeps

theorem State.trainChannel_keeps {r₀ s : State} (ch : Nat) (t : ChanTrain) (bad : Bool) (hk : Keeps r₀ s) :
    Keeps r₀ (s.trainChannel ch t bad).1 := by
  unfold State.trainChannel
  repeat' first
    | with_reducible assumption
    | (extract_lets +onlyGivenNames x; clear_value (ex : x = _); have hx : Keeps r₀ x.2 := ?_)
    | with_reducible apply State.dmcTrain_keeps
    | with_reducible refine Keeps.cast2 (by assumption) ?_

theorem State.trainCxl_keeps {r₀ s : State} (port : Nat) (t : CxlTrain) (hk : Keeps r₀ s) :
    Keeps r₀ (s.trainCxl port t) := by
  unfold State.trainCxl
  repeat' first
    | with_reducible assumption
    | with_reducible apply State.cxlTrained_keeps
    | with_reducible apply State.cxlCtlWrite_keeps

theorem State.trainHub_keeps {r₀ s : State} (h : Nat) (chans : Vector ChanTrain 2) (ports : Vector CxlTrain 2) (hk : Keeps r₀ s) :
    Keeps r₀ (s.trainHub h chans ports).1 := by
  unfold State.trainHub
  repeat' first
    | with_reducible assumption
    | (extract_lets +onlyGivenNames x; clear_value (ex : x = _); have hx : Keeps r₀ x := ?_)
    | (extract_lets +onlyGivenNames x; clear_value (ex : x = _); have hx : Keeps r₀ x.1 := ?_)
    | (extract_lets +onlyGivenNames x; clear_value x)
    | with_reducible apply State.mpeResume_keeps
    | with_reducible apply State.hubFromBcr_keeps
    | with_reducible apply State.trainChannel_keeps
    | with_reducible apply State.trainCxl_keeps
    | with_reducible refine Keeps.cast (by assumption) ?_
    | with_reducible refine Keeps.cast1 (by assumption) ?_
    | dsimp -zeta only
    | fail_if_no_progress (with_reducible apply Keeps.upd)

theorem State.penFromBcr_keeps {r₀ s : State} (h : Nat) (hk : Keeps r₀ s) :
    Keeps r₀ (s.penFromBcr h) := by
  unfold State.penFromBcr
  repeat' first
    | with_reducible assumption
    | with_reducible apply State.setCsr_keeps

theorem execHubResetDone_keeps {r₀ s : State} (hub : Fin 2) (mbist : Bool) (chans : Vector ChanTrain 2) (ports : Vector CxlTrain 2) (hk : Keeps r₀ s) :
    ∀ s', execHubResetDone hub mbist chans ports s = .next s' → Keeps r₀ s' := by
  unfold execHubResetDone
  repeat' first
    | with_reducible assumption
    | with_reducible refine Keeps.next ?_
    | (extract_lets +onlyGivenNames x; clear_value (ex : x = _); have hx : Keeps r₀ x := ?_)
    | (extract_lets +onlyGivenNames x; clear_value (ex : x = _); have hx : Keeps r₀ x.1 := ?_)
    | (extract_lets +onlyGivenNames x; clear_value x)
    | with_reducible apply State.mcServe_keeps
    | with_reducible apply State.storeReady_keeps
    | with_reducible apply State.flushFatals_keeps
    | with_reducible apply State.enterSafe_keeps
    | with_reducible apply State.cfgPump_keeps
    | with_reducible apply State.storeTurn_keeps
    | with_reducible apply State.trainHub_keeps
    | with_reducible apply State.penFromBcr_keeps
    | with_reducible refine Keeps.cast (by assumption) ?_
    | with_reducible refine Keeps.cast1 (by assumption) ?_
    | split
    | (extract_lets +onlyGivenNames x)
    | fail_if_no_progress (with_reducible apply Keeps.upd)

theorem execDieReset_keeps {r₀ s : State} (die : Fin 48) (hk : Keeps r₀ s) :
    ∀ s', execDieReset die s = .next s' → Keeps r₀ s' := by
  unfold execDieReset
  repeat' first
    | with_reducible assumption
    | with_reducible refine fun _ _ (_ : Keeps r₀ _) => ?_
    | with_reducible refine Keeps.next ?_
    | (extract_lets +onlyGivenNames x; clear_value (ex : x = _); have hx : Keeps r₀ x := ?_)
    | (extract_lets +onlyGivenNames x; clear_value x)
    | with_reducible apply State.acreGone_keeps
    | with_reducible apply State.putLoad_keeps
    | with_reducible apply State.dropDue_keeps
    | with_reducible apply State.quiesce_keeps
    | with_reducible apply State.resetLogicDie_keeps
    | with_reducible apply State.opAbort_keeps
    | with_reducible apply State.resetEnds_keeps
    | with_reducible apply Keeps.foldl
    | with_reducible refine Keeps.cast (by assumption) ?_
    | split
    | fail_if_no_progress (with_reducible apply Keeps.upd)

theorem execDieReady_keeps {r₀ s : State} (die : Fin 48) (pass : Bool) (hk : Keeps r₀ s) :
    ∀ s', execDieReady die pass s = .next s' → Keeps r₀ s' := by
  unfold execDieReady
  repeat' first
    | with_reducible assumption
    | with_reducible refine fun _ _ (_ : Keeps r₀ _) => ?_
    | with_reducible refine Keeps.next ?_
    | (extract_lets +onlyGivenNames x; clear_value (ex : x = _); have hx : Keeps r₀ x := ?_)
    | with_reducible apply State.acreGone_keeps
    | with_reducible apply State.retireSite_keeps
    | with_reducible apply State.loadClocks_keeps
    | with_reducible apply State.resetEnds_keeps
    | with_reducible apply Keeps.foldl
    | with_reducible refine Keeps.cast (by assumption) ?_
    | split

theorem State.portFromBcr_keeps {r₀ s : State} (p : Nat) (hk : Keeps r₀ s) :
    Keeps r₀ (s.portFromBcr p) := by
  unfold State.portFromBcr
  repeat' first
    | with_reducible assumption
    | intro _
    | (extract_lets +onlyGivenNames x; clear_value (ex : x = _); have hx : Keeps r₀ x := ?_)
    | with_reducible apply State.setCsr_keeps
    | with_reducible apply State.pcieCfgWrite_keeps
    | with_reducible apply State.ethCfgWrite_keeps
    | with_reducible apply Keeps.foldl
    | with_reducible refine Keeps.cast (by assumption) ?_

theorem State.intakeLost_keeps {r₀ s : State} (p : Nat) (hk : Keeps r₀ s) :
    Keeps r₀ (s.intakeLost p) := by
  unfold State.intakeLost
  repeat' first
    | with_reducible assumption
    | intro _
    | (extract_lets +onlyGivenNames x; clear_value (ex : x = _); have hx : Keeps r₀ x := ?_)
    | with_reducible apply State.setFrames_keeps
    | with_reducible apply State.fenceFrames_keeps
    | with_reducible apply State.dropArmed_keeps
    | with_reducible apply Keeps.foldl
    | with_reducible refine Keeps.cast (by assumption) ?_
    | split

theorem State.resetPort_keeps {r₀ s : State} (p : Nat) (hk : Keeps r₀ s) :
    Keeps r₀ (s.resetPort p) := by
  unfold State.resetPort
  repeat' first
    | with_reducible assumption
    | (extract_lets +onlyGivenNames x; clear_value (ex : x = _); have hx : Keeps r₀ x := ?_)
    | (extract_lets +onlyGivenNames x; clear_value x)
    | with_reducible apply State.setCsr_keeps
    | with_reducible apply State.resetRegs_keeps
    | with_reducible apply State.dropStops_keeps
    | with_reducible apply State.resetLinkEnds_keeps
    | with_reducible apply State.intakeLost_keeps
    | with_reducible refine Keeps.cast (by assumption) ?_
    | fail_if_no_progress (with_reducible apply Keeps.upd)

theorem execPortDieReset_keeps {r₀ s : State} (port : Fin 4) (pass : Bool) (hk : Keeps r₀ s) :
    ∀ s', execPortDieReset port pass s = .next s' → Keeps r₀ s' := by
  unfold execPortDieReset
  repeat' first
    | with_reducible assumption
    | with_reducible refine Keeps.next ?_
    | (extract_lets +onlyGivenNames x; clear_value (ex : x = _); have hx : Keeps r₀ x := ?_)
    | with_reducible apply State.report_keeps
    | with_reducible apply State.setSite_keeps
    | with_reducible apply State.resetEnds_keeps
    | with_reducible apply State.portFromBcr_keeps
    | with_reducible apply State.resetPort_keeps
    | with_reducible refine Keeps.cast (by assumption) ?_
    | split

theorem execAcreReset_keeps {r₀ s : State} (acre : Fin 192) (hk : Keeps r₀ s) :
    ∀ s', execAcreReset acre s = .next s' → Keeps r₀ s' := by
  unfold execAcreReset
  repeat' first
    | with_reducible assumption
    | with_reducible refine Keeps.next ?_
    | with_reducible apply State.quiesce_keeps
    | split

/-! ### Startup -/

theorem State.phaseEnd_keeps {r₀ s : State} (n : Nat) (us : BitVec 24) (hk : Keeps r₀ s) :
    Keeps r₀ (s.phaseEnd n us) := by
  unfold State.phaseEnd
  repeat' first
    | with_reducible assumption
    | with_reducible apply State.setFld_keeps

theorem execSp0_keeps {r₀ s : State} (us : BitVec 24) (hk : Keeps r₀ s) :
    ∀ s', execSp0 us s = .next s' → Keeps r₀ s' := by
  unfold execSp0
  repeat' first
    | with_reducible assumption
    | with_reducible refine Keeps.next ?_
    | with_reducible apply State.setFld_keeps
    | with_reducible apply State.phaseEnd_keeps
    | split

theorem State.showSources_keeps {r₀ s : State} (f : Sp1Find) (hk : Keeps r₀ s) :
    Keeps r₀ (s.showSources f) := by
  unfold State.showSources
  repeat' first
    | with_reducible assumption
    | intro _
    | (extract_lets +onlyGivenNames x; clear_value (ex : x = _); have hx : Keeps r₀ x := ?_)
    | with_reducible apply State.setBit_keeps
    | with_reducible apply Keeps.foldl
    | with_reducible refine Keeps.cast (by assumption) ?_

theorem State.clkErr_keeps {r₀ s : State} (h : Nat) (f : Fld) (hk : Keeps r₀ s) :
    Keeps r₀ (s.clkErr h f) := by
  unfold State.clkErr
  repeat' first
    | with_reducible assumption
    | with_reducible apply State.raise_keeps

theorem State.aoOnRc_keeps {r₀ s : State} (hk : Keeps r₀ s) :
    Keeps r₀ (s.aoOnRc) := by
  unfold State.aoOnRc
  repeat' first
    | with_reducible assumption
    | (extract_lets +onlyGivenNames x; clear_value (ex : x = _); have hx : Keeps r₀ x := ?_)
    | (extract_lets +onlyGivenNames x; clear_value x)
    | with_reducible apply State.setFld_keeps
    | with_reducible apply State.clkErr_keeps
    | with_reducible refine Keeps.cast (by assumption) ?_
    | (extract_lets +onlyGivenNames x)
    | fail_if_no_progress (with_reducible apply Keeps.upd)

theorem execSp1_keeps {r₀ s : State} (find : Sp1Find) (us : BitVec 24) (hk : Keeps r₀ s) :
    ∀ s', execSp1 find us s = .next s' → Keeps r₀ s' := by
  unfold execSp1
  repeat' first
    | with_reducible assumption
    | with_reducible refine Keeps.next ?_
    | (extract_lets +onlyGivenNames x; clear_value (ex : x = _); have hx : Keeps r₀ x := ?_)
    | with_reducible apply State.enterSafe_keeps
    | with_reducible apply State.phaseEnd_keeps
    | with_reducible apply State.showSources_keeps
    | with_reducible apply State.aoOnRc_keeps
    | with_reducible refine Keeps.cast (by assumption) ?_
    | split

theorem State.bistSite_keeps {r₀ s : State} (site : Nat) (hk : Keeps r₀ s) :
    Keeps r₀ (s.bistSite site) := by
  unfold State.bistSite
  repeat' first
    | with_reducible assumption
    | with_reducible apply State.setCsr64_keeps

theorem State.bootUnit_keeps {r₀ s : State} (bad : List Nat) (u : Nat) (hk : Keeps r₀ s) :
    Keeps r₀ (s.bootUnit bad u).1 := by
  unfold State.bootUnit
  repeat' first
    | with_reducible assumption
    | (extract_lets +onlyGivenNames x; clear_value (ex : x = _); have hx : Keeps r₀ x := ?_)
    | (extract_lets +onlyGivenNames x; clear_value x)
    | with_reducible apply State.ltsWrite_keeps
    | with_reducible apply State.setFwUnit_keeps
    | with_reducible refine Keeps.cast (by assumption) ?_
    | split

theorem State.bootUnits_keeps {r₀ s : State} (bad : List Nat) (hk : Keeps r₀ s) :
    Keeps r₀ (s.bootUnits bad) := by
  unfold State.bootUnits
  repeat' first
    | with_reducible assumption
    | intro _
    | (extract_lets +onlyGivenNames x; clear_value (ex : x = _); have hx : Keeps r₀ x := ?_)
    | (extract_lets +onlyGivenNames x; clear_value (ex : x = _); have hx : Keeps r₀ x.1 := ?_)
    | (extract_lets +onlyGivenNames x; clear_value x)
    | with_reducible apply State.bootUnit_keeps
    | with_reducible apply Keeps.foldl
    | with_reducible refine Keeps.cast (by assumption) ?_
    | with_reducible refine Keeps.cast1 (by assumption) ?_
    | split
    | (extract_lets +onlyGivenNames x)
    | fail_if_no_progress (with_reducible apply Keeps.upd)

theorem State.readStore_keeps {r₀ s : State} (bad : List Nat) (hk : Keeps r₀ s) :
    Keeps r₀ (s.readStore bad) := by
  unfold State.readStore
  repeat' first
    | with_reducible assumption
    | (extract_lets +onlyGivenNames x; clear_value (ex : x = _); have hx : Keeps r₀ x := ?_)
    | (extract_lets +onlyGivenNames x; clear_value x)
    | with_reducible apply State.ltsLoad_keeps
    | with_reducible apply State.ltsReload_keeps
    | with_reducible refine Keeps.cast (by assumption) ?_
    | split
    | fail_if_no_progress (with_reducible apply Keeps.upd)

theorem State.repairLost_keeps {r₀ s : State} (hk : Keeps r₀ s) :
    Keeps r₀ (s.repairLost) := by
  unfold State.repairLost
  repeat' first
    | with_reducible assumption
    | (extract_lets +onlyGivenNames x; clear_value x)
    | with_reducible apply State.report_keeps
    | (extract_lets +onlyGivenNames x)
    | fail_if_no_progress (with_reducible apply Keeps.upd)

theorem State.chooseBcr_keeps {r₀ s : State} (hk : Keeps r₀ s) :
    Keeps r₀ (s.chooseBcr) := by
  unfold State.chooseBcr
  repeat' first
    | with_reducible assumption
    | with_reducible apply State.raise_keeps
    | split

theorem State.bistHubs_keeps {r₀ s : State} (m : BitVec 2) (hk : Keeps r₀ s) :
    Keeps r₀ (s.bistHubs m) := by
  unfold State.bistHubs
  repeat' first
    | with_reducible assumption
    | intro _
    | with_reducible apply State.bistSite_keeps
    | with_reducible apply Keeps.foldl
    | split

theorem execSp2_keeps {r₀ s : State} (find : Sp2Find) (us : BitVec 24) (hk : Keeps r₀ s) :
    ∀ s', execSp2 find us s = .next s' → Keeps r₀ s' := by
  unfold execSp2
  repeat' first
    | with_reducible assumption
    | with_reducible refine Keeps.next ?_
    | (extract_lets +onlyGivenNames x; clear_value (ex : x = _); have hx : Keeps r₀ x := ?_)
    | (extract_lets +onlyGivenNames x; clear_value x)
    | with_reducible apply State.setCsr64_keeps
    | with_reducible apply State.setFld_keeps
    | with_reducible apply State.setBit_keeps
    | with_reducible apply State.mcServe_keeps
    | with_reducible apply State.storeReady_keeps
    | with_reducible apply State.flushFatals_keeps
    | with_reducible apply State.enterSafe_keeps
    | with_reducible apply State.watchWake_keeps
    | with_reducible apply State.phaseEnd_keeps
    | with_reducible apply State.bootUnits_keeps
    | with_reducible apply State.readStore_keeps
    | with_reducible apply State.repairLost_keeps
    | with_reducible apply State.chooseBcr_keeps
    | with_reducible apply State.bistHubs_keeps
    | with_reducible refine Keeps.cast (by assumption) ?_
    | split
    | (extract_lets +onlyGivenNames x)
    | fail_if_no_progress (with_reducible apply Keeps.upd)

theorem State.islandsFailed_keeps {r₀ s : State} (m : DWord) (hk : Keeps r₀ s) :
    Keeps r₀ (s.islandsFailed m) := by
  unfold State.islandsFailed
  repeat' first
    | with_reducible assumption
    | intro _
    | (extract_lets +onlyGivenNames x; clear_value (ex : x = _); have hx : Keeps r₀ x := ?_)
    | (extract_lets +onlyGivenNames x; clear_value x)
    | with_reducible apply State.setSite_keeps
    | with_reducible apply State.setFieldMask_keeps
    | with_reducible apply Keeps.foldl
    | with_reducible refine Keeps.cast (by assumption) ?_

theorem State.applyMap_keeps {r₀ s : State} (f : Sp3Find) (hk : Keeps r₀ s) :
    Keeps r₀ (s.applyMap f) := by
  unfold State.applyMap
  repeat' first
    | with_reducible assumption
    | intro _
    | (extract_lets +onlyGivenNames x; clear_value (ex : x = _); have hx : Keeps r₀ x := ?_)
    | (extract_lets +onlyGivenNames x; clear_value x)
    | with_reducible apply State.setCsr_keeps
    | with_reducible apply State.setSite_keeps
    | with_reducible apply State.acreGone_keeps
    | with_reducible apply State.placeHalf_keeps
    | with_reducible apply State.copyIdentity_keeps
    | with_reducible apply State.placeX_keeps
    | with_reducible apply Keeps.foldl
    | with_reducible refine Keeps.cast (by assumption) ?_
    | split
    | (extract_lets +onlyGivenNames x)
    | fail_if_no_progress (with_reducible apply Keeps.upd)

theorem State.formCaps_keeps {r₀ s : State} (hk : Keeps r₀ s) :
    Keeps r₀ (s.formCaps) := by
  unfold State.formCaps
  repeat' first
    | with_reducible assumption
    | (extract_lets +onlyGivenNames x; clear_value (ex : x = _); have hx : Keeps r₀ x := ?_)
    | (extract_lets +onlyGivenNames x; clear_value x)
    | with_reducible apply State.setCsr_keeps
    | with_reducible apply State.capsEffective_keeps
    | with_reducible apply State.applyChannels_keeps
    | with_reducible refine Keeps.cast (by assumption) ?_

theorem State.closeRings_keeps {r₀ s : State} (hk : Keeps r₀ s) :
    Keeps r₀ (s.closeRings) := by
  unfold State.closeRings
  repeat' first
    | with_reducible assumption
    | intro _
    | (extract_lets +onlyGivenNames x; clear_value (ex : x = _); have hx : Keeps r₀ x := ?_)
    | (extract_lets +onlyGivenNames x; clear_value x)
    | with_reducible apply State.setBit_keeps
    | with_reducible apply State.ringUpdate_keeps
    | with_reducible apply State.setRingPath_keeps
    | with_reducible apply Keeps.foldl
    | with_reducible refine Keeps.cast (by assumption) ?_
    | (extract_lets +onlyGivenNames x)
    | fail_if_no_progress (with_reducible apply Keeps.upd)

theorem State.takeBcr_keeps {r₀ s : State} (hk : Keeps r₀ s) :
    Keeps r₀ (s.takeBcr) := by
  unfold State.takeBcr
  repeat' first
    | with_reducible assumption
    | intro _
    | (extract_lets +onlyGivenNames x; clear_value (ex : x = _); have hx : Keeps r₀ x := ?_)
    | with_reducible apply State.setFld_keeps
    | with_reducible apply State.penFromBcr_keeps
    | with_reducible apply State.portFromBcr_keeps
    | with_reducible apply Keeps.foldl
    | with_reducible refine Keeps.cast (by assumption) ?_

theorem execSp3_keeps {r₀ s : State} (find : Sp3Find) (us : BitVec 24) (hk : Keeps r₀ s) :
    ∀ s', execSp3 find us s = .next s' → Keeps r₀ s' := by
  unfold execSp3
  repeat' first
    | with_reducible assumption
    | with_reducible refine fun _ _ (_ : Keeps r₀ _) => ?_
    | with_reducible refine Keeps.next ?_
    | (extract_lets +onlyGivenNames x; clear_value (ex : x = _); have hx : Keeps r₀ x := ?_)
    | (extract_lets +onlyGivenNames x; clear_value x)
    | with_reducible apply State.ltsWrite_keeps
    | with_reducible apply State.enterSafe_keeps
    | with_reducible apply State.phaseEnd_keeps
    | with_reducible apply State.bistSite_keeps
    | with_reducible apply State.islandsFailed_keeps
    | with_reducible apply State.applyMap_keeps
    | with_reducible apply State.formCaps_keeps
    | with_reducible apply State.closeRings_keeps
    | with_reducible apply State.takeBcr_keeps
    | with_reducible apply Keeps.foldl
    | with_reducible refine Keeps.cast (by assumption) ?_
    | split

theorem State.spRepeat_keeps {r₀ s : State} (hk : Keeps r₀ s) :
    Keeps r₀ (s.spRepeat) := by
  unfold State.spRepeat
  repeat' first
    | with_reducible assumption
    | intro _
    | with_reducible apply State.raise_keeps
    | with_reducible apply State.setSite_keeps
    | with_reducible apply Keeps.foldl

theorem execSp4_keeps {r₀ s : State} (fails : DWord) (us : BitVec 24) (hk : Keeps r₀ s) :
    ∀ s', execSp4 fails us s = .next s' → Keeps r₀ s' := by
  unfold execSp4
  repeat' first
    | with_reducible assumption
    | with_reducible refine fun _ _ (_ : Keeps r₀ _) => ?_
    | with_reducible refine Keeps.next ?_
    | (extract_lets +onlyGivenNames x; clear_value x)
    | with_reducible apply State.setFld_keeps
    | with_reducible apply State.retireSite_keeps
    | with_reducible apply State.phaseEnd_keeps
    | with_reducible apply State.bistSite_keeps
    | with_reducible apply State.spRepeat_keeps
    | with_reducible apply Keeps.foldl
    | split

theorem State.zeroMpe_keeps {r₀ s : State} (hk : Keeps r₀ s) :
    Keeps r₀ (s.zeroMpe) := by
  unfold State.zeroMpe
  repeat' first
    | with_reducible assumption
    | (extract_lets +onlyGivenNames x; clear_value (ex : x = _); have hx : Keeps r₀ x := ?_)
    | (extract_lets +onlyGivenNames x; clear_value x)
    | with_reducible apply State.resetRegs_keeps
    | with_reducible refine Keeps.cast (by assumption) ?_
    | fail_if_no_progress (with_reducible apply Keeps.upd)

theorem State.startDone_keeps {r₀ s : State} (hk : Keeps r₀ s) :
    Keeps r₀ (s.startDone) := by
  unfold State.startDone
  repeat' first
    | with_reducible assumption
    | with_reducible apply State.setFld_keeps

theorem execSp5_keeps {r₀ s : State} (chans : Vector ChanTrain 4) (ports : Vector CxlTrain 4) (us : BitVec 24) (hk : Keeps r₀ s) :
    ∀ s', execSp5 chans ports us s = .next s' → Keeps r₀ s' := by
  unfold execSp5
  repeat' first
    | with_reducible assumption
    | with_reducible refine Keeps.next ?_
    | (extract_lets +onlyGivenNames x; clear_value (ex : x = _); have hx : Keeps r₀ x := ?_)
    | (extract_lets +onlyGivenNames x; clear_value (ex : x = _); have hx : Keeps r₀ x.1 := ?_)
    | (extract_lets +onlyGivenNames x; clear_value x)
    | with_reducible apply State.enterSafe_keeps
    | with_reducible apply State.trainHub_keeps
    | with_reducible apply State.phaseEnd_keeps
    | with_reducible apply State.zeroMpe_keeps
    | with_reducible apply State.startDone_keeps
    | with_reducible refine Keeps.cast (by assumption) ?_
    | with_reducible refine Keeps.cast1 (by assumption) ?_
    | split
    | (extract_lets +onlyGivenNames x)
    | fail_if_no_progress (with_reducible apply Keeps.upd)

theorem State.sourceRefused_keeps {r₀ s : State} (hk : Keeps r₀ s) :
    Keeps r₀ (s.sourceRefused) := by
  unfold State.sourceRefused
  repeat' first
    | with_reducible assumption
    | (extract_lets +onlyGivenNames x; clear_value (ex : x = _); have hx : Keeps r₀ x := ?_)
    | (extract_lets +onlyGivenNames x; clear_value x)
    | with_reducible apply State.setFld_keeps
    | with_reducible apply State.enterSafe_keeps
    | with_reducible apply State.cfgReason_keeps
    | with_reducible refine Keeps.cast (by assumption) ?_
    | split
    | (extract_lets +onlyGivenNames x)
    | fail_if_no_progress (with_reducible apply Keeps.upd)

theorem execSp6_keeps {r₀ s : State} (us : BitVec 24) (hk : Keeps r₀ s) :
    ∀ s', execSp6 us s = .next s' → Keeps r₀ s' := by
  unfold execSp6
  repeat' first
    | with_reducible assumption
    | with_reducible refine Keeps.next ?_
    | with_reducible apply State.enterSafe_keeps
    | with_reducible apply State.phaseEnd_keeps
    | with_reducible apply State.sourceRefused_keeps
    | split

theorem execSp7_keeps {r₀ s : State} (us : BitVec 24) (hk : Keeps r₀ s) :
    ∀ s', execSp7 us s = .next s' → Keeps r₀ s' := by
  unfold execSp7
  repeat' first
    | with_reducible assumption
    | with_reducible refine Keeps.next ?_
    | (extract_lets +onlyGivenNames x; clear_value (ex : x = _); have hx : Keeps r₀ x := ?_)
    | (extract_lets +onlyGivenNames x; clear_value x)
    | with_reducible apply State.makeDue_keeps
    | with_reducible apply State.phaseEnd_keeps
    | with_reducible apply State.startDone_keeps
    | with_reducible refine Keeps.cast (by assumption) ?_
    | split
    | (extract_lets +onlyGivenNames x)
    | fail_if_no_progress (with_reducible apply Keeps.upd)

/-! ### Clock -/

theorem State.showFault_keeps {r₀ s : State} (hk : Keeps r₀ s) :
    Keeps r₀ (s.showFault) := by
  unfold State.showFault
  repeat' first
    | with_reducible assumption
    | (extract_lets +onlyGivenNames x; clear_value x)
    | with_reducible apply State.setBit_keeps

theorem State.setDomains_keeps {r₀ s : State} (h sel : Nat) (hk : Keeps r₀ s) :
    Keeps r₀ (s.setDomains h sel) := by
  unfold State.setDomains
  repeat' first
    | with_reducible assumption
    | (extract_lets +onlyGivenNames x; clear_value (ex : x = _); have hx : Keeps r₀ x := ?_)
    | with_reducible apply State.setCsr_keeps
    | with_reducible apply State.setFld_keeps
    | with_reducible refine Keeps.cast (by assumption) ?_
    | split

theorem State.ioscSwitch_keeps {r₀ s : State} (h : Nat) (hk : Keeps r₀ s) :
    Keeps r₀ (s.ioscSwitch h) := by
  unfold State.ioscSwitch
  repeat' first
    | with_reducible assumption
    | (extract_lets +onlyGivenNames x; clear_value (ex : x = _); have hx : Keeps r₀ x := ?_)
    | (extract_lets +onlyGivenNames x; clear_value x)
    | with_reducible apply State.send_keeps
    | with_reducible apply State.mcServe_keeps
    | with_reducible apply State.safeHub_keeps
    | with_reducible apply State.setDomains_keeps
    | with_reducible refine Keeps.cast (by assumption) ?_
    | split
    | (extract_lets +onlyGivenNames x)
    | fail_if_no_progress (with_reducible apply Keeps.upd)

theorem State.refFault_keeps {r₀ s : State} (h : Nat) (flag : Fld) (reason : Nat) (hk : Keeps r₀ s) :
    Keeps r₀ (s.refFault h flag reason) := by
  unfold State.refFault
  repeat' first
    | with_reducible assumption
    | (extract_lets +onlyGivenNames x; clear_value (ex : x = _); have hx : Keeps r₀ x := ?_)
    | (extract_lets +onlyGivenNames x; clear_value x)
    | with_reducible apply State.setFld_keeps
    | with_reducible apply State.enterSafe_keeps
    | with_reducible apply State.showFault_keeps
    | with_reducible apply State.ioscSwitch_keeps
    | with_reducible refine Keeps.cast (by assumption) ?_
    | split
    | (extract_lets +onlyGivenNames x)
    | fail_if_no_progress (with_reducible apply Keeps.upd)

theorem execRefLoss_keeps {r₀ s : State} (hub : Fin 2) (hk : Keeps r₀ s) :
    ∀ s', execRefLoss hub s = .next s' → Keeps r₀ s' := by
  unfold execRefLoss
  repeat' first
    | with_reducible assumption
    | with_reducible refine Keeps.next ?_
    | (extract_lets +onlyGivenNames x; clear_value x)
    | with_reducible apply State.setFld_keeps
    | with_reducible apply State.refFault_keeps
    | (extract_lets +onlyGivenNames x)
    | fail_if_no_progress (with_reducible apply Keeps.upd)

theorem execRefFreq_keeps {r₀ s : State} (hub : Fin 2) (edges : BitVec 16) (hk : Keeps r₀ s) :
    ∀ s', execRefFreq hub edges s = .next s' → Keeps r₀ s' := by
  unfold execRefFreq
  repeat' first
    | with_reducible assumption
    | with_reducible refine Keeps.next ?_
    | (extract_lets +onlyGivenNames x; clear_value (ex : x = _); have hx : Keeps r₀ x := ?_)
    | (extract_lets +onlyGivenNames x; clear_value x)
    | with_reducible apply State.setFld_keeps
    | with_reducible apply State.refFault_keeps
    | with_reducible refine Keeps.cast (by assumption) ?_
    | split
    | (extract_lets +onlyGivenNames x)
    | fail_if_no_progress (with_reducible apply Keeps.upd)

theorem execIoscReady_keeps {r₀ s : State} (hub : Fin 2) (hk : Keeps r₀ s) :
    ∀ s', execIoscReady hub s = .next s' → Keeps r₀ s' := by
  unfold execIoscReady
  repeat' first
    | with_reducible assumption
    | with_reducible refine Keeps.next ?_
    | with_reducible apply State.setFld_keeps
    | with_reducible apply State.ioscSwitch_keeps
    | split

theorem execRefreshLost_keeps {r₀ s : State} (hub : Fin 2) (hk : Keeps r₀ s) :
    ∀ s', execRefreshLost hub s = .next s' → Keeps r₀ s' := by
  unfold execRefreshLost
  repeat' first
    | with_reducible assumption
    | with_reducible refine Keeps.next ?_
    | (extract_lets +onlyGivenNames x; clear_value x)
    | with_reducible apply State.clkErr_keeps
    | split
    | (extract_lets +onlyGivenNames x)
    | fail_if_no_progress (with_reducible apply Keeps.upd)

theorem execNoClockTimeout_keeps {r₀ s : State} (hub : Fin 2) (hk : Keeps r₀ s) :
    ∀ s', execNoClockTimeout hub s = .next s' → Keeps r₀ s' := by
  unfold execNoClockTimeout
  repeat' first
    | with_reducible assumption
    | with_reducible refine Keeps.next ?_
    | with_reducible apply State.setFld_keeps
    | with_reducible apply State.fatal_keeps
    | split

theorem execIoscCheck_keeps {r₀ s : State} (hub : Fin 2) (count : BitVec 32) (hk : Keeps r₀ s) :
    ∀ s', execIoscCheck hub count s = .next s' → Keeps r₀ s' := by
  unfold execIoscCheck
  repeat' first
    | with_reducible assumption
    | with_reducible refine Keeps.next ?_
    | with_reducible apply State.setFld_keeps
    | with_reducible apply State.clkErr_keeps
    | split

theorem State.setXtal_keeps {r₀ s : State} (b : Bool) (hk : Keeps r₀ s) :
    Keeps r₀ (s.setXtal b) := by
  unfold State.setXtal
  repeat' first
    | with_reducible assumption
    | with_reducible apply State.setBit_keeps

theorem execXtalLoss_keeps {r₀ s : State} (hk : Keeps r₀ s) :
    ∀ s', execXtalLoss s = .next s' → Keeps r₀ s' := by
  unfold execXtalLoss
  repeat' first
    | with_reducible assumption
    | with_reducible refine Keeps.next ?_
    | with_reducible apply State.aoOnRc_keeps
    | with_reducible apply State.setXtal_keeps
    | split

theorem execXtalReady_keeps {r₀ s : State} (hk : Keeps r₀ s) :
    ∀ s', execXtalReady s = .next s' → Keeps r₀ s' := by
  unfold execXtalReady
  repeat' first
    | with_reducible assumption
    | with_reducible refine Keeps.next ?_
    | with_reducible apply State.setXtal_keeps
    | split

theorem execXtalReturn_keeps {r₀ s : State} (hk : Keeps r₀ s) :
    ∀ s', execXtalReturn s = .next s' → Keeps r₀ s' := by
  unfold execXtalReturn
  repeat' first
    | with_reducible assumption
    | with_reducible refine Keeps.next ?_
    | (extract_lets +onlyGivenNames x; clear_value x)
    | with_reducible apply State.setFld_keeps
    | split
    | (extract_lets +onlyGivenNames x)
    | fail_if_no_progress (with_reducible apply Keeps.upd)

theorem State.domWrite_keeps {r₀ s : State} (h : Nat) (v : Word) (hk : Keeps r₀ s) :
    Keeps r₀ (s.domWrite h v) := by
  unfold State.domWrite
  repeat' first
    | with_reducible assumption
    | (extract_lets +onlyGivenNames x; clear_value (ex : x = _); have hx : Keeps r₀ x := ?_)
    | (extract_lets +onlyGivenNames x; clear_value x)
    | with_reducible apply State.setFld_keeps
    | with_reducible apply State.setDomains_keeps
    | with_reducible refine Keeps.cast (by assumption) ?_
    | split

theorem execClkDomWrite_keeps {r₀ s : State} (mid : BitVec 12) (hub : Fin 2) (value : Word) (hk : Keeps r₀ s) :
    ∀ s', execClkDomWrite mid hub value s = .next s' → Keeps r₀ s' := by
  unfold execClkDomWrite
  repeat' first
    | with_reducible assumption
    | with_reducible refine fun _ (_ : Keeps r₀ _) => ?_
    | with_reducible refine Keeps.next ?_
    | with_reducible apply levelSWrite_keeps
    | with_reducible apply State.domWrite_keeps

theorem State.cpllWrite_keeps {r₀ s : State} (h : Nat) (v : Word) (hk : Keeps r₀ s) :
    Keeps r₀ (s.cpllWrite h v) := by
  unfold State.cpllWrite
  repeat' first
    | with_reducible assumption
    | (extract_lets +onlyGivenNames x; clear_value (ex : x = _); have hx : Keeps r₀ x := ?_)
    | (extract_lets +onlyGivenNames x; clear_value x)
    | with_reducible apply State.setFld_keeps
    | with_reducible refine Keeps.cast (by assumption) ?_
    | split
    | fail_if_no_progress (with_reducible apply Keeps.upd)

theorem execCmultWrite_keeps {r₀ s : State} (mid : BitVec 12) (hub : Fin 2) (value : Word) (hk : Keeps r₀ s) :
    ∀ s', execCmultWrite mid hub value s = .next s' → Keeps r₀ s' := by
  unfold execCmultWrite
  repeat' first
    | with_reducible assumption
    | with_reducible refine fun _ (_ : Keeps r₀ _) => ?_
    | with_reducible refine Keeps.next ?_
    | with_reducible apply levelSWrite_keeps
    | with_reducible apply State.cpllWrite_keeps

theorem execDivWrite_keeps {r₀ s : State} (mid : BitVec 12) (hub : Fin 2) (value : Word) (hk : Keeps r₀ s) :
    ∀ s', execDivWrite mid hub value s = .next s' → Keeps r₀ s' := by
  unfold execDivWrite
  repeat' first
    | with_reducible assumption
    | with_reducible refine fun _ (_ : Keeps r₀ _) => ?_
    | with_reducible refine Keeps.next ?_
    | with_reducible apply levelSWrite_keeps
    | with_reducible apply State.cpllWrite_keeps

theorem execCpllLock_keeps {r₀ s : State} (hub : Fin 2) (hk : Keeps r₀ s) :
    ∀ s', execCpllLock hub s = .next s' → Keeps r₀ s' := by
  unfold execCpllLock
  repeat' first
    | with_reducible assumption
    | with_reducible refine Keeps.next ?_
    | (extract_lets +onlyGivenNames x; clear_value x)
    | with_reducible apply State.setFld_keeps
    | split
    | (extract_lets +onlyGivenNames x)
    | fail_if_no_progress (with_reducible apply Keeps.upd)

theorem State.clkErrWrite_keeps {r₀ s : State} (h : Nat) (v : Word) (hk : Keeps r₀ s) :
    Keeps r₀ (s.clkErrWrite h v) := by
  unfold State.clkErrWrite
  repeat' first
    | with_reducible assumption
    | (extract_lets +onlyGivenNames x; clear_value x)
    | with_reducible apply State.setCsr_keeps
    | with_reducible apply State.showFault_keeps

theorem State.penStore_keeps {r₀ s : State} (h key : Nat) (mask v use : Word) (hk : Keeps r₀ s) :
    Keeps r₀ (s.penStore h key mask v use) := by
  unfold State.penStore
  repeat' first
    | with_reducible assumption
    | (extract_lets +onlyGivenNames x; clear_value (ex : x = _); have hx : Keeps r₀ x := ?_)
    | (extract_lets +onlyGivenNames x; clear_value x)
    | with_reducible apply State.setCsr_keeps
    | with_reducible apply State.setFld_keeps
    | with_reducible refine Keeps.cast (by assumption) ?_
    | split

theorem State.penWrite_keeps {r₀ s : State} (h : Nat) (v : Word) (hk : Keeps r₀ s) :
    Keeps r₀ (s.penWrite h v) := by
  unfold State.penWrite
  repeat' first
    | with_reducible assumption
    | with_reducible apply State.penStore_keeps

theorem State.prtPenWrite_keeps {r₀ s : State} (p : Nat) (v : Word) (hk : Keeps r₀ s) :
    Keeps r₀ (s.prtPenWrite p v) := by
  unfold State.prtPenWrite
  repeat' first
    | with_reducible assumption
    | with_reducible apply State.penStore_keeps

/-! ### Power -/

theorem State.pwrErr_keeps {r₀ s : State} (f : Fld) (hk : Keeps r₀ s) :
    Keeps r₀ (s.pwrErr f) := by
  unfold State.pwrErr
  repeat' first
    | with_reducible assumption
    | with_reducible apply State.raise_keeps

theorem execSupplyUv_keeps {r₀ s : State} (rail : Fin 10) (hk : Keeps r₀ s) :
    ∀ s', execSupplyUv rail s = .next s' → Keeps r₀ s' := by
  unfold execSupplyUv
  repeat' first
    | with_reducible assumption
    | with_reducible refine Keeps.next ?_
    | with_reducible apply State.setFld_keeps
    | with_reducible apply State.enterSafe_keeps
    | split

theorem execPowerSample_keeps {r₀ s : State} (mw : BitVec 20) (hk : Keeps r₀ s) :
    ∀ s', execPowerSample mw s = .next s' → Keeps r₀ s' := by
  unfold execPowerSample
  repeat' first
    | with_reducible assumption
    | with_reducible refine Keeps.next ?_
    | (extract_lets +onlyGivenNames x; clear_value (ex : x = _); have hx : Keeps r₀ x := ?_)
    | (extract_lets +onlyGivenNames x; clear_value x)
    | with_reducible apply State.setFld_keeps
    | with_reducible apply State.enterSafe_keeps
    | with_reducible apply State.pwrErr_keeps
    | with_reducible refine Keeps.cast (by assumption) ?_
    | split
    | fail_if_no_progress (with_reducible apply Keeps.upd)

theorem State.thermHot_keeps {r₀ s : State} (ts : List Int) (hk : Keeps r₀ s) :
    Keeps r₀ (s.thermHot ts) := by
  unfold State.thermHot
  repeat' first
    | with_reducible assumption
    | (extract_lets +onlyGivenNames x; clear_value (ex : x = _); have hx : Keeps r₀ x := ?_)
    | (extract_lets +onlyGivenNames x; clear_value x)
    | with_reducible apply State.setFld_keeps
    | with_reducible apply State.pwrErr_keeps
    | with_reducible refine Keeps.cast (by assumption) ?_
    | split

theorem State.showSram_keeps {r₀ s : State} (h : Nat) (hk : Keeps r₀ s) :
    Keeps r₀ (s.showSram h) := by
  unfold State.showSram
  repeat' first
    | with_reducible assumption
    | (extract_lets +onlyGivenNames x; clear_value x)
    | with_reducible apply State.setFld_keeps
    | with_reducible apply State.sramResume_keeps

theorem execThermalSample_keeps {r₀ s : State} (die : Fin 72) (sensor : Fin 4) (temp : Half) (hk : Keeps r₀ s) :
    ∀ s', execThermalSample die sensor temp s = .next s' → Keeps r₀ s' := by
  unfold execThermalSample
  repeat' first
    | with_reducible assumption
    | with_reducible refine Keeps.next ?_
    | (extract_lets +onlyGivenNames x; clear_value (ex : x = _); have hx : Keeps r₀ x := ?_)
    | (extract_lets +onlyGivenNames x; clear_value x)
    | with_reducible apply State.setCsr_keeps
    | with_reducible apply State.enterSafe_keeps
    | with_reducible apply State.thermHot_keeps
    | with_reducible apply State.showSram_keeps
    | with_reducible refine Keeps.cast (by assumption) ?_
    | split
    | (extract_lets +onlyGivenNames x)
    | fail_if_no_progress (with_reducible apply Keeps.upd)

theorem State.powerRefuse_keeps {r₀ s : State} (block hub unit : Nat) (abort : Bool) (hk : Keeps r₀ s) :
    Keeps r₀ (s.powerRefuse block hub unit abort) := by
  unfold State.powerRefuse
  repeat' first
    | with_reducible assumption
    | (extract_lets +onlyGivenNames x; clear_value (ex : x = _); have hx : Keeps r₀ x := ?_)
    | (extract_lets +onlyGivenNames x; clear_value x)
    | with_reducible apply State.setCsr_keeps
    | with_reducible apply State.setFld_keeps
    | with_reducible apply State.satInc_keeps
    | with_reducible apply State.mcServe_keeps
    | with_reducible apply State.accDone_keeps
    | with_reducible refine Keeps.cast (by assumption) ?_
    | (extract_lets +onlyGivenNames x)
    | fail_if_no_progress (with_reducible apply Keeps.upd)

theorem State.powerCommit_keeps {r₀ s : State} (hk : Keeps r₀ s) :
    Keeps r₀ (s.powerCommit) := by
  unfold State.powerCommit
  repeat' first
    | with_reducible assumption
    | (extract_lets +onlyGivenNames x; clear_value x)
    | split
    | fail_if_no_progress (with_reducible apply Keeps.upd)

theorem execMcWfi_keeps {r₀ s : State} (find : WfiFind) (hk : Keeps r₀ s) :
    ∀ s', execMcWfi find s = .next s' → Keeps r₀ s' := by
  unfold execMcWfi
  repeat' first
    | with_reducible assumption
    | with_reducible refine Keeps.next ?_
    | (extract_lets +onlyGivenNames x; clear_value (ex : x = _); have hx : Keeps r₀ x := ?_)
    | (extract_lets +onlyGivenNames x; clear_value x)
    | with_reducible apply State.setFld_keeps
    | with_reducible apply State.mcServe_keeps
    | with_reducible apply State.powerRefuse_keeps
    | with_reducible apply State.powerCommit_keeps
    | with_reducible refine Keeps.cast (by assumption) ?_
    | split
    | (extract_lets +onlyGivenNames x)
    | fail_if_no_progress (with_reducible apply Keeps.upd)

theorem State.latchWake_keeps {r₀ s : State} (event : Nat) (hk : Keeps r₀ s) :
    Keeps r₀ (s.latchWake event) := by
  unfold State.latchWake
  repeat' first
    | with_reducible assumption
    | (extract_lets +onlyGivenNames x; clear_value (ex : x = _); have hx : Keeps r₀ x := ?_)
    | (extract_lets +onlyGivenNames x; clear_value x)
    | with_reducible apply State.setCsr_keeps
    | with_reducible refine Keeps.cast (by assumption) ?_
    | fail_if_no_progress (with_reducible apply Keeps.upd)

theorem State.wakeEvent_keeps {r₀ s : State} (event : Nat) (committed : Bool) (hk : Keeps r₀ s) :
    Keeps r₀ (s.wakeEvent event committed) := by
  unfold State.wakeEvent
  repeat' first
    | with_reducible assumption
    | (extract_lets +onlyGivenNames x; clear_value (ex : x = _); have hx : Keeps r₀ x := ?_)
    | with_reducible apply State.setFld_keeps
    | with_reducible apply State.powerRefuse_keeps
    | with_reducible apply State.powerCommit_keeps
    | with_reducible apply State.latchWake_keeps
    | with_reducible refine Keeps.cast (by assumption) ?_
    | split

theorem execWakeEvent_keeps {r₀ s : State} (event : Fin 8) (committed : Bool) (hk : Keeps r₀ s) :
    ∀ s', execWakeEvent event committed s = .next s' → Keeps r₀ s' := by
  unfold execWakeEvent
  repeat' first
    | with_reducible assumption
    | with_reducible refine Keeps.next ?_
    | with_reducible apply State.wakeEvent_keeps

theorem execPwrWtmr_keeps {r₀ s : State} (committed : Bool) (hk : Keeps r₀ s) :
    ∀ s', execPwrWtmr committed s = .next s' → Keeps r₀ s' := by
  unfold execPwrWtmr
  repeat' first
    | with_reducible assumption
    | with_reducible refine Keeps.next ?_
    | (extract_lets +onlyGivenNames x; clear_value x)
    | with_reducible apply State.wakeEvent_keeps
    | split
    | (extract_lets +onlyGivenNames x)
    | fail_if_no_progress (with_reducible apply Keeps.upd)

theorem State.wtmrWrite_keeps {r₀ s : State} (v : Word) (hk : Keeps r₀ s) :
    Keeps r₀ (s.wtmrWrite v) := by
  unfold State.wtmrWrite
  repeat' first
    | with_reducible assumption
    | (extract_lets +onlyGivenNames x; clear_value x)
    | with_reducible apply State.setFld_keeps
    | (extract_lets +onlyGivenNames x)
    | fail_if_no_progress (with_reducible apply Keeps.upd)

theorem State.wakeEnWrite_keeps {r₀ s : State} (v : Word) (hk : Keeps r₀ s) :
    Keeps r₀ (s.wakeEnWrite v) := by
  unfold State.wakeEnWrite
  repeat' first
    | with_reducible assumption
    | with_reducible apply State.setFld_keeps
    | with_reducible apply State.watchWake_keeps

theorem State.clustersOff_keeps {r₀ s : State} (hk : Keeps r₀ s) :
    Keeps r₀ (s.clustersOff) := by
  unfold State.clustersOff
  repeat' first
    | with_reducible assumption
    | (extract_lets +onlyGivenNames x; clear_value (ex : x = _); have hx : Keeps r₀ x := ?_)
    | (extract_lets +onlyGivenNames x; clear_value x)
    | with_reducible apply State.setFld_keeps
    | with_reducible refine Keeps.cast (by assumption) ?_
    | fail_if_no_progress (with_reducible apply Keeps.upd)

theorem execPowerStateReached_keeps {r₀ s : State} (hk : Keeps r₀ s) :
    ∀ s', execPowerStateReached s = .next s' → Keeps r₀ s' := by
  unfold execPowerStateReached
  repeat' first
    | with_reducible assumption
    | with_reducible refine fun _ _ (_ : Keeps r₀ _) => ?_
    | with_reducible refine Keeps.next ?_
    | (extract_lets +onlyGivenNames x; clear_value (ex : x = _); have hx : Keeps r₀ x := ?_)
    | (extract_lets +onlyGivenNames x; clear_value x)
    | with_reducible apply State.setFld_keeps
    | with_reducible apply State.ltsWrite_keeps
    | with_reducible apply State.dmcSleep_keeps
    | with_reducible apply State.accDone_keeps
    | with_reducible apply State.parkOff_keeps
    | with_reducible apply State.powerCommit_keeps
    | with_reducible apply State.clustersOff_keeps
    | with_reducible apply Keeps.foldl
    | with_reducible refine Keeps.cast (by assumption) ?_
    | split
    | (extract_lets +onlyGivenNames x)
    | fail_if_no_progress (with_reducible apply Keeps.upd)

theorem State.dmcWake_keeps {r₀ s : State} (h : Nat) (hk : Keeps r₀ s) :
    Keeps r₀ (s.dmcWake h) := by
  unfold State.dmcWake
  repeat' first
    | with_reducible assumption
    | intro _
    | with_reducible apply State.setFld_keeps
    | with_reducible apply Keeps.foldl
    | split

theorem State.cpllBack_keeps {r₀ s : State} (h : Nat) (hk : Keeps r₀ s) :
    Keeps r₀ (s.cpllBack h) := by
  unfold State.cpllBack
  repeat' first
    | with_reducible assumption
    | with_reducible apply State.setBit_keeps

theorem execWakeDone_keeps {r₀ s : State} (hk : Keeps r₀ s) :
    ∀ s', execWakeDone s = .next s' → Keeps r₀ s' := by
  unfold execWakeDone
  repeat' first
    | with_reducible assumption
    | with_reducible refine Keeps.next ?_
    | (extract_lets +onlyGivenNames x; clear_value (ex : x = _); have hx : Keeps r₀ x := ?_)
    | (extract_lets +onlyGivenNames x; clear_value x)
    | with_reducible apply State.setFld_keeps
    | with_reducible apply State.mcServe_keeps
    | with_reducible apply State.accDone_keeps
    | with_reducible apply State.dmcWake_keeps
    | with_reducible apply State.cpllBack_keeps
    | with_reducible refine Keeps.cast (by assumption) ?_
    | split
    | (extract_lets +onlyGivenNames x)
    | fail_if_no_progress (with_reducible apply Keeps.upd)

theorem State.gateDies_keeps {r₀ s : State} (m : DWord) (hk : Keeps r₀ s) :
    Keeps r₀ (s.gateDies m) := by
  unfold State.gateDies
  repeat' first
    | with_reducible assumption
    | intro _
    | (extract_lets +onlyGivenNames x; clear_value (ex : x = _); have hx : Keeps r₀ x := ?_)
    | (extract_lets +onlyGivenNames x; clear_value x)
    | with_reducible apply State.resetLogicDie_keeps
    | with_reducible apply Keeps.foldl
    | with_reducible refine Keeps.cast (by assumption) ?_
    | split
    | fail_if_no_progress (with_reducible apply Keeps.upd)

theorem State.dieGateWrite_keeps {r₀ s : State} (v : DWord) (hk : Keeps r₀ s) :
    Keeps r₀ (s.dieGateWrite v) := by
  unfold State.dieGateWrite
  repeat' first
    | with_reducible assumption
    | (extract_lets +onlyGivenNames x; clear_value (ex : x = _); have hx : Keeps r₀ x := ?_)
    | (extract_lets +onlyGivenNames x; clear_value x)
    | with_reducible apply State.setCsr64_keeps
    | with_reducible apply State.setFld_keeps
    | with_reducible apply State.ungateDies_keeps
    | with_reducible apply State.gateDies_keeps
    | with_reducible refine Keeps.cast (by assumption) ?_
    | split

theorem execPwrDieGateWrite_keeps {r₀ s : State} (mid : BitVec 12) (high : Bool) (value : Word) (hk : Keeps r₀ s) :
    ∀ s', execPwrDieGateWrite mid high value s = .next s' → Keeps r₀ s' := by
  unfold execPwrDieGateWrite
  repeat' first
    | with_reducible assumption
    | with_reducible refine fun _ (_ : Keeps r₀ _) => ?_
    | with_reducible refine Keeps.next ?_
    | with_reducible apply State.dropLatches_keeps
    | with_reducible apply levelSWrite_keeps
    | with_reducible apply State.dieGateWrite_keeps

theorem execUngating_keeps {r₀ s : State} (die : Fin 48) (hk : Keeps r₀ s) :
    ∀ s', execUngating die s = .next s' → Keeps r₀ s' := by
  unfold execUngating
  repeat' first
    | with_reducible assumption
    | with_reducible refine fun _ _ (_ : Keeps r₀ _) => ?_
    | with_reducible refine Keeps.next ?_
    | (extract_lets +onlyGivenNames x; clear_value (ex : x = _); have hx : Keeps r₀ x := ?_)
    | (extract_lets +onlyGivenNames x; clear_value x)
    | with_reducible apply State.setFld_keeps
    | with_reducible apply State.acreGone_keeps
    | with_reducible apply State.loadClocks_keeps
    | with_reducible apply Keeps.foldl
    | with_reducible refine Keeps.cast (by assumption) ?_
    | split
    | (extract_lets +onlyGivenNames x)
    | fail_if_no_progress (with_reducible apply Keeps.upd)

end Sys2Proof.Machine
end

