-- ==== Sys2Proof/Laws/KeepsCpu.lean ====
section
/-! SUPPORT. What every operation and meaning keeps (`Keeps`): processors, lifetime events, injection and the commands. -/

namespace Sys2Proof.Machine

open Sys2Proof

set_option maxRecDepth 4000

/-! ### Cpu -/

theorem State.coreIssue_keeps {r₀ s : State} (i mid : Nat) (opc : BitVec 3) (tag : BitVec 13) (addr : BitVec 48) (lenm1 : BitVec 8) (imm : DWord) (poison : Bool) (data : List DataFlit) (hk : Keeps r₀ s) :
    Keeps r₀ (s.coreIssue i mid opc tag addr lenm1 imm poison data) := by
  unfold State.coreIssue
  repeat' first
    | with_reducible assumption
    | (extract_lets +onlyGivenNames x; clear_value (ex : x = _); have hx : Keeps r₀ x := ?_)
    | (extract_lets +onlyGivenNames x; clear_value x)
    | with_reducible apply State.issue_keeps
    | with_reducible refine Keeps.cast (by assumption) ?_
    | split
    | (extract_lets +onlyGivenNames x)
    | fail_if_no_progress (with_reducible apply Keeps.upd)

theorem State.busErr_keeps {r₀ s : State} (i : Nat) (addr : BitVec 48) (hk : Keeps r₀ s) :
    Keeps r₀ (s.busErr i addr) := by
  unfold State.busErr
  repeat' first
    | with_reducible assumption
    | (extract_lets +onlyGivenNames x; clear_value x)
    | with_reducible apply State.setCsr64_keeps
    | with_reducible apply State.raise_keeps
    | with_reducible apply State.setHart_keeps

theorem State.coreFinish_keeps {r₀ s : State} (i tag : Nat) (hk : Keeps r₀ s) :
    Keeps r₀ (s.coreFinish i tag) := by
  unfold State.coreFinish
  repeat' first
    | with_reducible assumption
    | (extract_lets +onlyGivenNames x; clear_value (ex : x = _); have hx : Keeps r₀ x := ?_)
    | (extract_lets +onlyGivenNames x; clear_value x)
    | with_reducible apply State.send_keeps
    | with_reducible apply State.dropInbox_keeps
    | with_reducible apply State.setHolders_keeps
    | with_reducible apply State.busErr_keeps
    | with_reducible refine Keeps.cast (by assumption) ?_
    | split
    | (extract_lets +onlyGivenNames x)
    | fail_if_no_progress (with_reducible apply Keeps.upd)

theorem State.cacheErr_keeps {r₀ s : State} (i : Nat) (l2 ue : Bool) (addr : BitVec 48) (hk : Keeps r₀ s) :
    Keeps r₀ (s.cacheErr i l2 ue addr) := by
  unfold State.cacheErr
  repeat' first
    | with_reducible assumption
    | with_reducible apply State.report_keeps

theorem State.cacheLose_keeps {r₀ s : State} (i : Nat) (l2 : Bool) (addr : BitVec 48) (hk : Keeps r₀ s) :
    Keeps r₀ (s.cacheLose i l2 addr) := by
  unfold State.cacheLose
  repeat' first
    | with_reducible assumption
    | with_reducible apply State.setHolders_keeps

theorem State.coreSc_keeps {r₀ s : State} (i a : Nat) (hk : Keeps r₀ s) :
    Keeps r₀ (s.coreSc i a) := by
  unfold State.coreSc
  repeat' first
    | with_reducible assumption
    | (extract_lets +onlyGivenNames x; clear_value x)
    | with_reducible apply State.send_keeps
    | with_reducible apply State.setHart_keeps

theorem execCoreRingAccess_keeps {r₀ s : State} (core : Fin 8) (acc : CoreAcc) (hk : Keeps r₀ s) :
    ∀ s', execCoreRingAccess core acc s = .next s' → Keeps r₀ s' := by
  unfold execCoreRingAccess
  repeat' first
    | with_reducible assumption
    | with_reducible refine Keeps.next ?_
    | (extract_lets +onlyGivenNames x; clear_value x)
    | with_reducible apply State.send_keeps
    | with_reducible apply State.setHart_keeps
    | with_reducible apply State.coreIssue_keeps
    | with_reducible apply State.coreFinish_keeps
    | with_reducible apply State.cacheErr_keeps
    | with_reducible apply State.cacheLose_keeps
    | with_reducible apply State.coreSc_keeps
    | split

theorem State.cpuCtlWrite_keeps {r₀ s : State} (h : Nat) (v : Word) (hk : Keeps r₀ s) :
    Keeps r₀ (s.cpuCtlWrite h v) := by
  unfold State.cpuCtlWrite
  repeat' first
    | with_reducible assumption
    | intro _
    | (extract_lets +onlyGivenNames x; clear_value (ex : x = _); have hx : Keeps r₀ x := ?_)
    | (extract_lets +onlyGivenNames x; clear_value x)
    | with_reducible apply State.setFld_keeps
    | with_reducible apply State.hartReset_keeps
    | with_reducible apply State.hartStart_keeps
    | with_reducible apply Keeps.foldl
    | with_reducible refine Keeps.cast (by assumption) ?_
    | split

theorem execRun_keeps {r₀ s : State} (mid : BitVec 12) (hub : Fin 2) (value : Word) (hk : Keeps r₀ s) :
    ∀ s', execRun mid hub value s = .next s' → Keeps r₀ s' := by
  unfold execRun
  repeat' first
    | with_reducible assumption
    | with_reducible refine fun _ (_ : Keeps r₀ _) => ?_
    | with_reducible refine Keeps.next ?_
    | with_reducible apply levelSWrite_keeps
    | with_reducible apply State.cpuCtlWrite_keeps

theorem execDeleg_keeps {r₀ s : State} (mid : BitVec 12) (hub : Fin 2) (value : Word) (hk : Keeps r₀ s) :
    ∀ s', execDeleg mid hub value s = .next s' → Keeps r₀ s' := by
  unfold execDeleg
  repeat' first
    | with_reducible assumption
    | with_reducible refine fun _ (_ : Keeps r₀ _) => ?_
    | with_reducible refine Keeps.next ?_
    | with_reducible apply levelSWrite_keeps
    | with_reducible apply State.cpuCtlWrite_keeps

theorem State.fabricHalt_keeps {r₀ s : State} (hk : Keeps r₀ s) :
    Keeps r₀ (s.fabricHalt) := by
  unfold State.fabricHalt
  repeat' first
    | with_reducible assumption
    | (extract_lets +onlyGivenNames x; clear_value (ex : x = _); have hx : Keeps r₀ x := ?_)
    | (extract_lets +onlyGivenNames x; clear_value x)
    | with_reducible apply State.groupHalt_keeps
    | with_reducible refine Keeps.cast (by assumption) ?_
    | split

theorem execFabricTrigger_keeps {r₀ s : State} (site : Fin 64) (hk : Keeps r₀ s) :
    ∀ s', execFabricTrigger site s = .next s' → Keeps r₀ s' := by
  unfold execFabricTrigger
  repeat' first
    | with_reducible assumption
    | with_reducible refine Keeps.next ?_
    | with_reducible apply State.send_keeps
    | with_reducible apply State.traceTrigger_keeps
    | with_reducible apply State.fabricHalt_keeps
    | split

theorem State.trigAction_keeps {r₀ s : State} (i : Nat) (t1 : DWord) (action : Nat) (hk : Keeps r₀ s) :
    Keeps r₀ (s.trigAction i t1 action) := by
  unfold State.trigAction
  repeat' first
    | with_reducible assumption
    | with_reducible apply State.send_keeps
    | with_reducible apply State.groupHalt_keeps
    | with_reducible apply State.haltWithGroup_keeps
    | split

theorem execTriggerFire_keeps {r₀ s : State} (hart : Fin 8) (ev : TrigEv) (hk : Keeps r₀ s) :
    ∀ s', execTriggerFire hart ev s = .next s' → Keeps r₀ s' := by
  unfold execTriggerFire
  repeat' first
    | with_reducible assumption
    | with_reducible refine fun _ _ (_ : Keeps r₀ _) => ?_
    | with_reducible refine Keeps.next ?_
    | (extract_lets +onlyGivenNames x; clear_value x)
    | with_reducible apply State.trigAction_keeps
    | with_reducible apply Keeps.foldl
    | split

theorem execHartHalt_keeps {r₀ s : State} (hart : Fin 8) (hk : Keeps r₀ s) :
    ∀ s', execHartHalt hart s = .next s' → Keeps r₀ s' := by
  unfold execHartHalt
  repeat' first
    | with_reducible assumption
    | with_reducible refine Keeps.next ?_
    | with_reducible apply State.haltWithGroup_keeps
    | split

theorem execHartResume_keeps {r₀ s : State} (hart : Fin 8) (hk : Keeps r₀ s) :
    ∀ s', execHartResume hart s = .next s' → Keeps r₀ s' := by
  unfold execHartResume
  repeat' first
    | with_reducible assumption
    | with_reducible refine Keeps.next ?_
    | with_reducible apply State.setHart_keeps
    | with_reducible apply State.resumeWithGroup_keeps
    | split

theorem State.dmReadEffect_keeps {r₀ s : State} (h reg : Nat) (hk : Keeps r₀ s) :
    Keeps r₀ (s.dmReadEffect h reg) := by
  unfold State.dmReadEffect
  repeat' first
    | with_reducible assumption
    | (extract_lets +onlyGivenNames x; clear_value x)
    | with_reducible apply State.setDm_keeps
    | split

theorem State.dmReset_keeps {r₀ s : State} (h : Nat) (hk : Keeps r₀ s) :
    Keeps r₀ (s.dmReset h) := by
  unfold State.dmReset
  repeat' first
    | with_reducible assumption
    | intro _
    | (extract_lets +onlyGivenNames x; clear_value x)
    | with_reducible apply State.setHart_keeps
    | with_reducible apply State.setDm_keeps
    | with_reducible apply Keeps.foldl

theorem State.dmControl_keeps {r₀ s : State} (h : Nat) (v : Word) (hk : Keeps r₀ s) :
    Keeps r₀ (s.dmControl h v) := by
  unfold State.dmControl
  repeat' first
    | with_reducible assumption
    | (extract_lets +onlyGivenNames x; clear_value (ex : x = _); have hx : Keeps r₀ x := ?_)
    | (extract_lets +onlyGivenNames x; clear_value x)
    | with_reducible apply State.setHart_keeps
    | with_reducible apply State.setDm_keeps
    | with_reducible apply State.dmReset_keeps
    | with_reducible refine Keeps.cast (by assumption) ?_
    | split

theorem State.dmcs2Write_keeps {r₀ s : State} (h : Nat) (v : Word) (hk : Keeps r₀ s) :
    Keeps r₀ (s.dmcs2Write h v) := by
  unfold State.dmcs2Write
  repeat' first
    | with_reducible assumption
    | (extract_lets +onlyGivenNames x; clear_value (ex : x = _); have hx : Keeps r₀ x := ?_)
    | (extract_lets +onlyGivenNames x; clear_value x)
    | with_reducible apply State.setHart_keeps
    | with_reducible apply State.setDm_keeps
    | with_reducible refine Keeps.cast (by assumption) ?_
    | split

theorem State.hartRegRead_keeps {r₀ s : State} (i reg : Nat) (hk : Keeps r₀ s) :
    Keeps r₀ (s.hartRegRead i reg).2 := by
  unfold State.hartRegRead
  repeat' first
    | with_reducible assumption
    | (extract_lets +onlyGivenNames x; clear_value (ex : x = _); have hx : Keeps r₀ x.2 := ?_)
    | (extract_lets +onlyGivenNames x; clear_value x)
    | with_reducible apply State.free_keeps
    | with_reducible apply State.setHart_keeps
    | with_reducible refine Keeps.cast2 (by assumption) ?_
    | split

theorem State.hartRegWrite_keeps {r₀ s : State} (i reg : Nat) (v : DWord) (hk : Keeps r₀ s) :
    Keeps r₀ (s.hartRegWrite i reg v) := by
  unfold State.hartRegWrite
  repeat' first
    | with_reducible assumption
    | (extract_lets +onlyGivenNames x; clear_value x)
    | with_reducible apply State.setHart_keeps
    | split

theorem State.dmCommand_keeps {r₀ s : State} (h : Nat) (v : Word) (hk : Keeps r₀ s) :
    Keeps r₀ (s.dmCommand h v) := by
  unfold State.dmCommand
  repeat' first
    | with_reducible assumption
    | (extract_lets +onlyGivenNames x; clear_value (ex : x = _); have hx : Keeps r₀ x := ?_)
    | (extract_lets +onlyGivenNames x; clear_value (ex : x = _); have hx : Keeps r₀ x.2 := ?_)
    | (extract_lets +onlyGivenNames x; clear_value x)
    | with_reducible apply State.setHart_keeps
    | with_reducible apply State.setDm_keeps
    | with_reducible apply State.hartRegRead_keeps
    | with_reducible apply State.hartRegWrite_keeps
    | with_reducible refine Keeps.cast (by assumption) ?_
    | with_reducible refine Keeps.cast2 (by assumption) ?_
    | split

theorem State.holdWrite_keeps {r₀ s : State} (h : Nat) (v : Word) (hk : Keeps r₀ s) :
    Keeps r₀ (s.holdWrite h v) := by
  unfold State.holdWrite
  repeat' first
    | with_reducible assumption
    | intro _
    | (extract_lets +onlyGivenNames x; clear_value x)
    | with_reducible apply State.setFld_keeps
    | with_reducible apply State.setHart_keeps
    | with_reducible apply State.showHeld_keeps
    | with_reducible apply Keeps.foldl

theorem State.dmWrite_keeps {r₀ s : State} (h reg : Nat) (v : Word) (hk : Keeps r₀ s) :
    Keeps r₀ (s.dmWrite h reg v) := by
  unfold State.dmWrite
  repeat' first
    | with_reducible assumption
    | (extract_lets +onlyGivenNames x; clear_value x)
    | with_reducible apply State.setDm_keeps
    | with_reducible apply State.dmControl_keeps
    | with_reducible apply State.dmcs2Write_keeps
    | with_reducible apply State.dmCommand_keeps
    | with_reducible apply State.holdWrite_keeps
    | split

theorem execDmiAccess_keeps {r₀ s : State} (write : Bool) (addr : BitVec 12) (data : Word) (hk : Keeps r₀ s) :
    ∀ s', execDmiAccess write addr data s = .next s' → Keeps r₀ s' := by
  unfold execDmiAccess
  repeat' first
    | with_reducible assumption
    | with_reducible refine Keeps.next ?_
    | with_reducible apply State.send_keeps
    | with_reducible apply State.dmReadEffect_keeps
    | with_reducible apply State.dmWrite_keeps
    | split

theorem State.sbaTake_keeps {r₀ s : State} (h : Nat) (write : Bool) (c : Delivered) (hk : Keeps r₀ s) :
    Keeps r₀ (s.sbaTake h write c) := by
  unfold State.sbaTake
  repeat' first
    | with_reducible assumption
    | (extract_lets +onlyGivenNames x; clear_value x)
    | with_reducible apply State.setCsr_keeps
    | with_reducible apply State.dropInbox_keeps
    | with_reducible apply State.setDm_keeps

theorem execSbaAccess_keeps {r₀ s : State} (hub : Fin 2) (hk : Keeps r₀ s) :
    ∀ s', execSbaAccess hub s = .next s' → Keeps r₀ s' := by
  unfold execSbaAccess
  repeat' first
    | with_reducible assumption
    | with_reducible refine Keeps.next ?_
    | with_reducible apply State.issue_keeps
    | with_reducible apply State.setDm_keeps
    | with_reducible apply State.sbaTake_keeps
    | split

theorem State.setSem_keeps {r₀ s : State} (h n : Nat) (o : Option (BitVec 12)) (hk : Keeps r₀ s) :
    Keeps r₀ (s.setSem h n o) := by
  unfold State.setSem
  repeat' first
    | with_reducible assumption
    | (extract_lets +onlyGivenNames x; clear_value x)
    | fail_if_no_progress (with_reducible apply Keeps.upd)

theorem State.semRead_keeps {r₀ s : State} (mid h n : Nat) (dbg : Bool) (hk : Keeps r₀ s) :
    Keeps r₀ (s.semRead mid h n dbg).2 := by
  unfold State.semRead
  repeat' first
    | with_reducible assumption
    | (extract_lets +onlyGivenNames x; clear_value (ex : x = _); have hx : Keeps r₀ x := ?_)
    | with_reducible apply State.setSem_keeps
    | with_reducible refine Keeps.cast (by assumption) ?_
    | split

theorem execHubSemRead_keeps {r₀ s : State} (mid : BitVec 12) (hub : Fin 2) (sem : Fin 64) (dbg : Bool) (hk : Keeps r₀ s) :
    ∀ s', execHubSemRead mid hub sem dbg s = .next s' → Keeps r₀ s' := by
  unfold execHubSemRead
  repeat' first
    | with_reducible assumption
    | with_reducible refine fun _ (_ : Keeps r₀ _) => ?_
    | with_reducible refine Keeps.next ?_
    | (extract_lets +onlyGivenNames x; clear_value (ex : x = _); have hx : Keeps r₀ x.2 := ?_)
    | with_reducible apply State.send_keeps
    | with_reducible apply State.regRead_keeps
    | with_reducible apply State.semRead_keeps
    | with_reducible refine Keeps.cast2 (by assumption) ?_

theorem State.semForce_keeps {r₀ s : State} (h n : Nat) (o : BitVec 12) (lease : Bool) (hk : Keeps r₀ s) :
    Keeps r₀ (s.semForce h n o lease) := by
  unfold State.semForce
  repeat' first
    | with_reducible assumption
    | with_reducible apply State.setCsr_keeps
    | with_reducible apply State.setSem_keeps

theorem State.semWrite_keeps {r₀ s : State} (mid h n : Nat) (hk : Keeps r₀ s) :
    Keeps r₀ (s.semWrite mid h n).1 := by
  unfold State.semWrite
  repeat' first
    | with_reducible assumption
    | with_reducible apply State.setFld_keeps
    | with_reducible apply State.setSem_keeps
    | with_reducible apply State.semForce_keeps
    | split

theorem execHubSemWrite_keeps {r₀ s : State} (mid : BitVec 12) (hub : Fin 2) (sem : Fin 64) (hk : Keeps r₀ s) :
    ∀ s', execHubSemWrite mid hub sem s = .next s' → Keeps r₀ s' := by
  unfold execHubSemWrite
  repeat' first
    | with_reducible assumption
    | with_reducible refine fun _ (_ : Keeps r₀ _) => ?_
    | with_reducible refine Keeps.next ?_
    | with_reducible apply State.regWrite_keeps
    | with_reducible apply State.semWrite_keeps

theorem execSemLease_keeps {r₀ s : State} (hub : Fin 2) (sem : Fin 64) (hk : Keeps r₀ s) :
    ∀ s', execSemLease hub sem s = .next s' → Keeps r₀ s' := by
  unfold execSemLease
  repeat' first
    | with_reducible assumption
    | with_reducible refine Keeps.next ?_
    | with_reducible apply State.raise_keeps
    | with_reducible apply State.semForce_keeps
    | split

theorem State.coreExpired_keeps {r₀ s : State} (i : Nat) (hk : Keeps r₀ s) :
    Keeps r₀ (s.coreExpired i) := by
  unfold State.coreExpired
  repeat' first
    | with_reducible assumption
    | (extract_lets +onlyGivenNames x; clear_value (ex : x = _); have hx : Keeps r₀ x := ?_)
    | (extract_lets +onlyGivenNames x; clear_value x)
    | with_reducible apply State.send_keeps
    | with_reducible apply State.raise_keeps
    | with_reducible refine Keeps.cast (by assumption) ?_
    | split
    | fail_if_no_progress (with_reducible apply Keeps.upd)

theorem State.coreService_keeps {r₀ s : State} (mid i : Nat) (v : Word) (hk : Keeps r₀ s) :
    Keeps r₀ (s.coreService mid i v).1 := by
  unfold State.coreService
  repeat' first
    | with_reducible assumption
    | (extract_lets +onlyGivenNames x; clear_value x)
    | with_reducible apply State.coreExpired_keeps
    | split

theorem execWdtCoreSvc_keeps {r₀ s : State} (mid : BitVec 12) (core : Fin 8) (value : Word) (hk : Keeps r₀ s) :
    ∀ s', execWdtCoreSvc mid core value s = .next s' → Keeps r₀ s' := by
  unfold execWdtCoreSvc
  repeat' first
    | with_reducible assumption
    | with_reducible refine fun _ (_ : Keeps r₀ _) => ?_
    | with_reducible refine Keeps.next ?_
    | with_reducible apply State.regWrite_keeps
    | with_reducible apply State.coreService_keeps

theorem State.coreCtlWrite_keeps {r₀ s : State} (i : Nat) (v : Word) (hk : Keeps r₀ s) :
    Keeps r₀ (s.coreCtlWrite i v) := by
  unfold State.coreCtlWrite
  repeat' first
    | with_reducible assumption
    | (extract_lets +onlyGivenNames x; clear_value (ex : x = _); have hx : Keeps r₀ x := ?_)
    | (extract_lets +onlyGivenNames x; clear_value x)
    | with_reducible apply State.setFld_keeps
    | with_reducible apply State.setHart_keeps
    | with_reducible apply State.showHeld_keeps
    | with_reducible refine Keeps.cast (by assumption) ?_
    | fail_if_no_progress (with_reducible apply Keeps.upd)

theorem execCoreWdtExpired_keeps {r₀ s : State} (core : Fin 8) (hk : Keeps r₀ s) :
    ∀ s', execCoreWdtExpired core s = .next s' → Keeps r₀ s' := by
  unfold execCoreWdtExpired
  repeat' first
    | with_reducible assumption
    | with_reducible refine Keeps.next ?_
    | with_reducible apply State.coreExpired_keeps
    | split

theorem State.safeWdt_keeps {r₀ s : State} (hk : Keeps r₀ s) :
    Keeps r₀ (s.safeWdt) := by
  unfold State.safeWdt
  repeat' first
    | with_reducible assumption
    | (extract_lets +onlyGivenNames x; clear_value x)
    | with_reducible apply State.enterSafe_keeps
    | (extract_lets +onlyGivenNames x)
    | fail_if_no_progress (with_reducible apply Keeps.upd)

theorem State.safeService_keeps {r₀ s : State} (v : Word) (late closed : Bool) (hk : Keeps r₀ s) :
    Keeps r₀ (s.safeService v late closed) := by
  unfold State.safeService
  repeat' first
    | with_reducible assumption
    | (extract_lets +onlyGivenNames x; clear_value x)
    | with_reducible apply State.safeWdt_keeps
    | split
    | fail_if_no_progress (with_reducible apply Keeps.upd)

theorem execWdtSafeSvc_keeps {r₀ s : State} (mid : BitVec 12) (value : Word) (late closed : Bool) (hk : Keeps r₀ s) :
    ∀ s', execWdtSafeSvc mid value late closed s = .next s' → Keeps r₀ s' := by
  unfold execWdtSafeSvc
  repeat' first
    | with_reducible assumption
    | with_reducible refine fun _ (_ : Keeps r₀ _) => ?_
    | with_reducible refine Keeps.next ?_
    | with_reducible apply levelSWrite_keeps
    | with_reducible apply State.safeService_keeps

theorem State.safeCtlWrite_keeps {r₀ s : State} (v : Word) (hk : Keeps r₀ s) :
    Keeps r₀ (s.safeCtlWrite v) := by
  unfold State.safeCtlWrite
  repeat' first
    | with_reducible assumption
    | with_reducible apply State.setFld_keeps
    | with_reducible apply State.watchWake_keeps
    | split

theorem execSafeWdt_keeps {r₀ s : State} (hk : Keeps r₀ s) :
    ∀ s', execSafeWdt s = .next s' → Keeps r₀ s' := by
  unfold execSafeWdt
  repeat' first
    | with_reducible assumption
    | with_reducible refine Keeps.next ?_
    | with_reducible apply State.safeWdt_keeps
    | split

/-! ### Life -/

theorem execErrorReport_keeps {r₀ s : State} (block : Byte) (unit : BitVec 12) (code : Half) (ok : Bool) (hk : Keeps r₀ s) :
    ∀ s', execErrorReport block unit code ok s = .next s' → Keeps r₀ s' := by
  unfold execErrorReport
  repeat' first
    | with_reducible assumption
    | with_reducible refine Keeps.next ?_
    | (extract_lets +onlyGivenNames x; clear_value x)
    | with_reducible apply State.collectCounted_keeps
    | split
    | dsimp -zeta only
    | fail_if_no_progress (with_reducible apply Keeps.upd)

theorem execErrorReportResend_keeps {r₀ s : State} (block : Byte) (unit : BitVec 12) (code : Half) (hk : Keeps r₀ s) :
    ∀ s', execErrorReportResend block unit code s = .next s' → Keeps r₀ s' := by
  unfold execErrorReportResend
  repeat' first
    | with_reducible assumption
    | with_reducible refine Keeps.next ?_
    | (extract_lets +onlyGivenNames x; clear_value x)
    | fail_if_no_progress (with_reducible apply Keeps.upd)

theorem execOperatingMinute_keeps {r₀ s : State} (hk : Keeps r₀ s) :
    ∀ s', execOperatingMinute s = .next s' → Keeps r₀ s' := by
  unfold execOperatingMinute
  repeat' first
    | with_reducible assumption
    | with_reducible refine Keeps.next ?_
    | (extract_lets +onlyGivenNames x; clear_value x)
    | split
    | fail_if_no_progress (with_reducible apply Keeps.upd)

theorem execLtsPeriodicWrite_keeps {r₀ s : State} (hk : Keeps r₀ s) :
    ∀ s', execLtsPeriodicWrite s = .next s' → Keeps r₀ s' := by
  unfold execLtsPeriodicWrite
  repeat' first
    | with_reducible assumption
    | with_reducible refine fun _ _ (_ : Keeps r₀ _) => ?_
    | with_reducible refine Keeps.next ?_
    | (extract_lets +onlyGivenNames x; clear_value (ex : x = _); have hx : Keeps r₀ x := ?_)
    | (extract_lets +onlyGivenNames x; clear_value x)
    | with_reducible apply State.ltsWrite_keeps
    | with_reducible apply Keeps.foldl
    | with_reducible refine Keeps.cast (by assumption) ?_
    | split
    | fail_if_no_progress (with_reducible apply Keeps.upd)

theorem execAgingReading_keeps {r₀ s : State} (site : Fin 64) (ratio temp : Half) (hk : Keeps r₀ s) :
    ∀ s', execAgingReading site ratio temp s = .next s' → Keeps r₀ s' := by
  unfold execAgingReading
  repeat' first
    | with_reducible assumption
    | with_reducible refine Keeps.next ?_
    | (extract_lets +onlyGivenNames x; clear_value x)
    | with_reducible apply State.ltsWrite_keeps
    | split
    | (extract_lets +onlyGivenNames x)
    | fail_if_no_progress (with_reducible apply Keeps.upd)

theorem execCalTick_keeps {r₀ s : State} (hk : Keeps r₀ s) :
    ∀ s', execCalTick s = .next s' → Keeps r₀ s' := by
  unfold execCalTick
  repeat' first
    | with_reducible assumption
    | with_reducible refine Keeps.next ?_
    | (extract_lets +onlyGivenNames x; clear_value x)
    | with_reducible apply State.setFld_keeps
    | with_reducible apply State.setBit_keeps
    | split
    | (extract_lets +onlyGivenNames x)
    | fail_if_no_progress (with_reducible apply Keeps.upd)

theorem State.calLoadAt_keeps {r₀ s : State} (sec : DWord) (frac : Word) (hk : Keeps r₀ s) :
    Keeps r₀ (s.calLoadAt sec frac) := by
  unfold State.calLoadAt
  repeat' first
    | with_reducible assumption
    | (extract_lets +onlyGivenNames x; clear_value x)
    | fail_if_no_progress (with_reducible apply Keeps.upd)

theorem State.calCtlWrite_keeps {r₀ s : State} (v : Word) (hk : Keeps r₀ s) :
    Keeps r₀ (s.calCtlWrite v) := by
  unfold State.calCtlWrite
  repeat' first
    | with_reducible assumption
    | with_reducible apply State.calLoadAt_keeps
    | split

theorem execCalLoad_keeps {r₀ s : State} (mid : BitVec 12) (value : Word) (hk : Keeps r₀ s) :
    ∀ s', execCalLoad mid value s = .next s' → Keeps r₀ s' := by
  unfold execCalLoad
  repeat' first
    | with_reducible assumption
    | with_reducible refine fun _ (_ : Keeps r₀ _) => ?_
    | with_reducible refine Keeps.next ?_
    | with_reducible apply levelSWrite_keeps
    | with_reducible apply State.calCtlWrite_keeps

theorem State.fwRestart_keeps {r₀ s : State} (u : Nat) (hk : Keeps r₀ s) :
    Keeps r₀ (s.fwRestart u) := by
  unfold State.fwRestart
  repeat' first
    | with_reducible assumption
    | (extract_lets +onlyGivenNames x; clear_value x)
    | fail_if_no_progress (with_reducible apply Keeps.upd)

theorem State.fwStarted_keeps {r₀ s : State} (hk : Keeps r₀ s) :
    Keeps r₀ (s.fwStarted) := by
  unfold State.fwStarted
  repeat' first
    | with_reducible assumption
    | (extract_lets +onlyGivenNames x; clear_value x)
    | with_reducible apply State.mcServe_keeps
    | (extract_lets +onlyGivenNames x)
    | fail_if_no_progress (with_reducible apply Keeps.upd)

theorem State.fwRuns_keeps {r₀ s : State} (hk : Keeps r₀ s) :
    Keeps r₀ (s.fwRuns) := by
  unfold State.fwRuns
  repeat' first
    | with_reducible assumption
    | with_reducible apply State.accDone_keeps
    | with_reducible apply State.fwStarted_keeps

theorem execNoStart_keeps {r₀ s : State} (unit : Fin 10) (hk : Keeps r₀ s) :
    ∀ s', execNoStart unit s = .next s' → Keeps r₀ s' := by
  unfold execNoStart
  repeat' first
    | with_reducible assumption
    | with_reducible refine Keeps.next ?_
    | (extract_lets +onlyGivenNames x; clear_value (ex : x = _); have hx : Keeps r₀ x := ?_)
    | (extract_lets +onlyGivenNames x; clear_value x)
    | with_reducible apply State.ltsWrite_keeps
    | with_reducible apply State.setFwUnit_keeps
    | with_reducible apply State.accDone_keeps
    | with_reducible apply State.fwStarted_keeps
    | with_reducible refine Keeps.cast (by assumption) ?_
    | split

theorem State.sigErrWrite_keeps {r₀ s : State} (site : Nat) (v : Word) (hk : Keeps r₀ s) :
    Keeps r₀ (s.sigErrWrite site v) := by
  unfold State.sigErrWrite
  repeat' first
    | with_reducible assumption
    | with_reducible apply State.setCsr_keeps
    | split

theorem execLdcSigErrClear_keeps {r₀ s : State} (_mid : BitVec 12) (site : Fin 64) (value : Word) (hk : Keeps r₀ s) :
    ∀ s', execLdcSigErrClear _mid site value s = .next s' → Keeps r₀ s' := by
  unfold execLdcSigErrClear
  repeat' first
    | with_reducible assumption
    | with_reducible refine fun _ (_ : Keeps r₀ _) => ?_
    | with_reducible refine Keeps.next ?_
    | with_reducible apply State.regWrite_keeps
    | with_reducible apply State.sigErrWrite_keeps
    | split

/-! ### Inject -/

theorem Keeps.done {r t : State} (h : Keeps r t) : ∀ u, InjectEnd.done t = .done u → Keeps r u :=
  fun _ e => InjectEnd.done.inj e ▸ h

theorem Keeps.refused {r : State} {n : Nat} : ∀ u, InjectEnd.refused n = .done u → Keeps r u := fun _ e => nomatch e

theorem Keeps.busy {r : State} : ∀ u, InjectEnd.busy = .done u → Keeps r u := fun _ e => nomatch e

theorem State.track_keeps {r₀ s : State} (target kind key : Nat) (hk : Keeps r₀ s) :
    Keeps r₀ (s.track target kind key) := by
  unfold State.track
  repeat' first
    | with_reducible assumption
    | (extract_lets +onlyGivenNames x; clear_value x)
    | fail_if_no_progress (with_reducible apply Keeps.upd)

theorem State.injectDram_keeps {r₀ s : State} (a kind : Nat) (hk : Keeps r₀ s) :
    ∀ u, s.injectDram a kind = .done u → Keeps r₀ u := by
  unfold State.injectDram
  repeat' first
    | with_reducible assumption
    | with_reducible refine Keeps.done ?_
    | with_reducible exact Keeps.refused
    | (extract_lets +onlyGivenNames x; clear_value x)
    | with_reducible apply State.setDmc_keeps
    | with_reducible apply State.track_keeps
    | split
    | (extract_lets +onlyGivenNames x)
    | fail_if_no_progress (with_reducible apply Keeps.upd)

theorem State.injectSram_keeps {r₀ s : State} (a kind : Nat) (hk : Keeps r₀ s) :
    ∀ u, s.injectSram a kind = .done u → Keeps r₀ u := by
  unfold State.injectSram
  repeat' first
    | with_reducible assumption
    | with_reducible refine Keeps.done ?_
    | with_reducible exact Keeps.refused
    | (extract_lets +onlyGivenNames x; clear_value x)
    | with_reducible apply State.track_keeps
    | split
    | (extract_lets +onlyGivenNames x)
    | fail_if_no_progress (with_reducible apply Keeps.upd)

theorem State.xorLine_keeps {r₀ s : State} (a : Nat) (m : Line) (hk : Keeps r₀ s) :
    Keeps r₀ (s.xorLine a m) := by
  unfold State.xorLine
  repeat' first
    | with_reducible assumption
    | (extract_lets +onlyGivenNames x; clear_value x)
    | split
    | fail_if_no_progress (with_reducible apply Keeps.upd)

theorem State.flipMac_keeps {r₀ s : State} (h r i : Nat) (hk : Keeps r₀ s) :
    Keeps r₀ (s.flipMac h r i) := by
  unfold State.flipMac
  repeat' first
    | with_reducible assumption
    | (extract_lets +onlyGivenNames x; clear_value x)
    | with_reducible apply State.xorLine_keeps
    | split
    | fail_if_no_progress (with_reducible apply Keeps.upd)

theorem State.injectTree_keeps {r₀ s : State} (a kind : Nat) (hk : Keeps r₀ s) :
    ∀ u, s.injectTree a kind = .done u → Keeps r₀ u := by
  unfold State.injectTree
  repeat' first
    | with_reducible assumption
    | with_reducible refine Keeps.done ?_
    | with_reducible exact Keeps.refused
    | (extract_lets +onlyGivenNames x; clear_value (ex : x = _); have hx : Keeps r₀ x := ?_)
    | (extract_lets +onlyGivenNames x; clear_value x)
    | with_reducible apply State.track_keeps
    | with_reducible apply State.xorLine_keeps
    | with_reducible apply State.flipMac_keeps
    | with_reducible refine Keeps.cast (by assumption) ?_
    | split

theorem State.injectBushel_keeps {r₀ s : State} (loc kind : Nat) (hk : Keeps r₀ s) :
    ∀ u, s.injectBushel loc kind = .done u → Keeps r₀ u := by
  unfold State.injectBushel
  repeat' first
    | with_reducible assumption
    | with_reducible refine Keeps.done ?_
    | with_reducible exact Keeps.refused
    | (extract_lets +onlyGivenNames x; clear_value x)
    | with_reducible apply State.setBshRow_keeps
    | with_reducible apply State.track_keeps
    | split

theorem State.injectTile_keeps {r₀ s : State} (loc kind : Nat) (hk : Keeps r₀ s) :
    ∀ u, s.injectTile loc kind = .done u → Keeps r₀ u := by
  unfold State.injectTile
  repeat' first
    | with_reducible assumption
    | with_reducible refine Keeps.done ?_
    | with_reducible exact Keeps.refused
    | (extract_lets +onlyGivenNames x; clear_value x)
    | with_reducible apply State.track_keeps
    | split
    | (extract_lets +onlyGivenNames x)
    | fail_if_no_progress (with_reducible apply Keeps.upd)

theorem State.injectWire_keeps {r₀ s : State} (target loc kind count : Nat) (hk : Keeps r₀ s) :
    ∀ u, s.injectWire target loc kind count = .done u → Keeps r₀ u := by
  unfold State.injectWire
  repeat' first
    | with_reducible assumption
    | with_reducible refine Keeps.done ?_
    | with_reducible exact Keeps.refused
    | (extract_lets +onlyGivenNames x; clear_value (ex : x = _); have hx : Keeps r₀ x := ?_)
    | (extract_lets +onlyGivenNames x; clear_value x)
    | with_reducible apply State.track_keeps
    | with_reducible refine Keeps.cast (by assumption) ?_
    | split
    | (extract_lets +onlyGivenNames x)
    | fail_if_no_progress (with_reducible apply Keeps.upd)

theorem State.inject_keeps {r₀ s : State} (target loc kind count : Nat) (hk : Keeps r₀ s) :
    ∀ u, s.inject target loc kind count = .done u → Keeps r₀ u := by
  unfold State.inject
  repeat' first
    | with_reducible assumption
    | with_reducible exact Keeps.refused
    | with_reducible exact Keeps.busy
    | with_reducible apply State.injectDram_keeps
    | with_reducible apply State.injectSram_keeps
    | with_reducible apply State.injectTree_keeps
    | with_reducible apply State.injectBushel_keeps
    | with_reducible apply State.injectTile_keeps
    | with_reducible apply State.injectWire_keeps
    | split

/-! ### Command -/

theorem State.acceptFront_keeps {r₀ s : State} (w : Waiting) (hk : Keeps r₀ s) :
    Keeps r₀ (s.acceptFront w) := by
  unfold State.acceptFront
  repeat' first
    | with_reducible assumption
    | with_reducible apply State.popWaiting_keeps
    | with_reducible apply State.acceptedTo_keeps

theorem State.cmdAccept_keeps {r₀ s : State} (op : Nat) (g : Waiting → State → State) (hk : Keeps r₀ s) (hg : ∀ a t, Keeps r₀ t → Keeps r₀ (g a t)) :
    Keeps r₀ (s.cmdAccept op g) := by
  unfold State.cmdAccept
  repeat' first
    | with_reducible assumption
    | with_reducible apply State.acceptFront_keeps
    | with_reducible apply_assumption -exfalso -symm
    | split

theorem State.settleAccs_keeps {r₀ s : State} (op : Nat) (hk : Keeps r₀ s) :
    Keeps r₀ (s.settleAccs op) := by
  unfold State.settleAccs
  repeat' first
    | with_reducible assumption
    | with_reducible apply State.accDone_keeps
    | with_reducible apply State.fwRuns_keeps
    | split

theorem execCommandCompletion_keeps {r₀ s : State} (transport : Fin 7) (tag : BitVec 16) (hk : Keeps r₀ s) :
    ∀ s', execCommandCompletion transport tag s = .next s' → Keeps r₀ s' := by
  unfold execCommandCompletion
  repeat' first
    | with_reducible assumption
    | with_reducible refine Keeps.next ?_
    | (extract_lets +onlyGivenNames x; clear_value (ex : x = _); have hx : Keeps r₀ x := ?_)
    | (extract_lets +onlyGivenNames x; clear_value x)
    | with_reducible apply State.pushReply_keeps
    | with_reducible apply State.showAccs_keeps
    | with_reducible apply State.settleAccs_keeps
    | with_reducible refine Keeps.cast (by assumption) ?_
    | split
    | (extract_lets +onlyGivenNames x)
    | fail_if_no_progress (with_reducible apply Keeps.upd)

theorem execNop_keeps {r₀ s : State} (hk : Keeps r₀ s) :
    ∀ s', execNop s = .next s' → Keeps r₀ s' := by
  unfold execNop
  repeat' first
    | with_reducible assumption
    | with_reducible refine fun _ _ (_ : Keeps r₀ _) => ?_
    | with_reducible refine Keeps.next ?_
    | with_reducible apply State.cmdRun_keeps

theorem execGetId_keeps {r₀ s : State} (hk : Keeps r₀ s) :
    ∀ s', execGetId s = .next s' → Keeps r₀ s' := by
  unfold execGetId
  repeat' first
    | with_reducible assumption
    | with_reducible refine fun _ _ (_ : Keeps r₀ _) => ?_
    | with_reducible refine Keeps.next ?_
    | with_reducible apply State.cmdRun_keeps

theorem execGetVersion_keeps {r₀ s : State} (hk : Keeps r₀ s) :
    ∀ s', execGetVersion s = .next s' → Keeps r₀ s' := by
  unfold execGetVersion
  repeat' first
    | with_reducible assumption
    | with_reducible refine fun _ _ (_ : Keeps r₀ _) => ?_
    | with_reducible refine Keeps.next ?_
    | with_reducible apply State.cmdRun_keeps

theorem execGetState_keeps {r₀ s : State} (hk : Keeps r₀ s) :
    ∀ s', execGetState s = .next s' → Keeps r₀ s' := by
  unfold execGetState
  repeat' first
    | with_reducible assumption
    | with_reducible refine fun _ _ (_ : Keeps r₀ _) => ?_
    | with_reducible refine Keeps.next ?_
    | with_reducible apply State.cmdRun_keeps

theorem execGetErrlog_keeps {r₀ s : State} (hk : Keeps r₀ s) :
    ∀ s', execGetErrlog s = .next s' → Keeps r₀ s' := by
  unfold execGetErrlog
  repeat' first
    | with_reducible assumption
    | with_reducible refine fun _ _ (_ : Keeps r₀ _) => ?_
    | with_reducible refine Keeps.next ?_
    | (extract_lets +onlyGivenNames x; clear_value x)
    | with_reducible apply State.cmdRun_keeps
    | split

theorem execClrErrlog_keeps {r₀ s : State} (hk : Keeps r₀ s) :
    ∀ s', execClrErrlog s = .next s' → Keeps r₀ s' := by
  unfold execClrErrlog
  repeat' first
    | with_reducible assumption
    | with_reducible refine fun _ _ (_ : Keeps r₀ _) => ?_
    | with_reducible refine Keeps.next ?_
    | (extract_lets +onlyGivenNames x; clear_value x)
    | with_reducible apply State.setFld_keeps
    | with_reducible apply State.cmdRun_keeps
    | (extract_lets +onlyGivenNames x)
    | fail_if_no_progress (with_reducible apply Keeps.upd)

theorem State.cfgGo_keeps {r₀ s : State} (op code : Nat) (hk : Keeps r₀ s) :
    Keeps r₀ (s.cfgGo op code) := by
  unfold State.cfgGo
  repeat' first
    | with_reducible assumption
    | (extract_lets +onlyGivenNames x; clear_value (ex : x = _); have hx : Keeps r₀ x := ?_)
    | with_reducible apply State.setFld_keeps
    | with_reducible apply State.accDone_keeps
    | with_reducible apply State.opStart_keeps
    | with_reducible refine Keeps.cast (by assumption) ?_
    | split

theorem execCfgLoad_keeps {r₀ s : State} (hk : Keeps r₀ s) :
    ∀ s', execCfgLoad s = .next s' → Keeps r₀ s' := by
  unfold execCfgLoad
  repeat' first
    | with_reducible assumption
    | with_reducible refine fun _ _ (_ : Keeps r₀ _) => ?_
    | with_reducible refine Keeps.next ?_
    | with_reducible apply State.setCsr64_keeps
    | with_reducible apply State.cmdAccept_keeps
    | with_reducible apply State.cfgGo_keeps

theorem execCfgData_keeps {r₀ s : State} (hk : Keeps r₀ s) :
    ∀ s', execCfgData s = .next s' → Keeps r₀ s' := by
  unfold execCfgData
  repeat' first
    | with_reducible assumption
    | with_reducible refine fun _ _ (_ : Keeps r₀ _) => ?_
    | with_reducible refine Keeps.next ?_
    | (extract_lets +onlyGivenNames x; clear_value x)
    | with_reducible apply State.cmdRun_keeps
    | dsimp -zeta only
    | fail_if_no_progress (with_reducible apply Keeps.upd)

theorem execCfgUnload_keeps {r₀ s : State} (hk : Keeps r₀ s) :
    ∀ s', execCfgUnload s = .next s' → Keeps r₀ s' := by
  unfold execCfgUnload
  repeat' first
    | with_reducible assumption
    | with_reducible refine fun _ _ (_ : Keeps r₀ _) => ?_
    | with_reducible refine Keeps.next ?_
    | with_reducible apply State.setCsr_keeps
    | with_reducible apply State.cmdAccept_keeps
    | with_reducible apply State.cfgGo_keeps

theorem execCfgRelocate_keeps {r₀ s : State} (hk : Keeps r₀ s) :
    ∀ s', execCfgRelocate s = .next s' → Keeps r₀ s' := by
  unfold execCfgRelocate
  repeat' first
    | with_reducible assumption
    | with_reducible refine fun _ _ (_ : Keeps r₀ _) => ?_
    | with_reducible refine Keeps.next ?_
    | with_reducible apply State.setCsr_keeps
    | with_reducible apply State.setCsr64_keeps
    | with_reducible apply State.cmdAccept_keeps
    | with_reducible apply State.cfgGo_keeps

theorem execCfgReadback_keeps {r₀ s : State} (hk : Keeps r₀ s) :
    ∀ s', execCfgReadback s = .next s' → Keeps r₀ s' := by
  unfold execCfgReadback
  repeat' first
    | with_reducible assumption
    | with_reducible refine fun _ _ (_ : Keeps r₀ _) => ?_
    | with_reducible refine Keeps.next ?_
    | (extract_lets +onlyGivenNames x; clear_value (ex : x = _); have hx : Keeps r₀ x := ?_)
    | with_reducible apply State.setCsr_keeps
    | with_reducible apply State.setCsr64_keeps
    | with_reducible apply State.accDone_keeps
    | with_reducible apply State.cmdAccept_keeps
    | with_reducible apply State.cfgGo_keeps
    | with_reducible refine Keeps.cast (by assumption) ?_
    | split

theorem execHostPrep_keeps {r₀ s : State} (hk : Keeps r₀ s) :
    ∀ s', execHostPrep s = .next s' → Keeps r₀ s' := by
  unfold execHostPrep
  repeat' first
    | with_reducible assumption
    | with_reducible refine fun _ _ (_ : Keeps r₀ _) => ?_
    | with_reducible refine Keeps.next ?_
    | with_reducible apply State.setCsr_keeps
    | with_reducible apply State.cmdAccept_keeps
    | with_reducible apply State.cfgGo_keeps

theorem execRetireDie_keeps {r₀ s : State} (hk : Keeps r₀ s) :
    ∀ s', execRetireDie s = .next s' → Keeps r₀ s' := by
  unfold execRetireDie
  repeat' first
    | with_reducible assumption
    | with_reducible refine fun _ _ (_ : Keeps r₀ _) => ?_
    | with_reducible refine Keeps.next ?_
    | (extract_lets +onlyGivenNames x; clear_value (ex : x = _); have hx : Keeps r₀ x := ?_)
    | with_reducible apply State.setCsr_keeps
    | with_reducible apply State.retireSite_keeps
    | with_reducible apply State.cmdAccept_keeps
    | with_reducible apply State.cfgGo_keeps
    | with_reducible refine Keeps.cast (by assumption) ?_
    | split

theorem execCfgStatus_keeps {r₀ s : State} (hk : Keeps r₀ s) :
    ∀ s', execCfgStatus s = .next s' → Keeps r₀ s' := by
  unfold execCfgStatus
  repeat' first
    | with_reducible assumption
    | with_reducible refine fun _ _ (_ : Keeps r₀ _) => ?_
    | with_reducible refine Keeps.next ?_
    | with_reducible apply State.cmdRun_keeps

theorem State.memPump_keeps {r₀ s : State} (hk : Keeps r₀ s) :
    Keeps r₀ (s.memPump) := by
  unfold State.memPump
  repeat' first
    | with_reducible assumption
    | (extract_lets +onlyGivenNames x; clear_value (ex : x = _); have hx : Keeps r₀ x := ?_)
    | (extract_lets +onlyGivenNames x; clear_value (ex : x = _); have hx : Keeps r₀ x.2 := ?_)
    | (extract_lets +onlyGivenNames x; clear_value x)
    | with_reducible apply State.xferPump_keeps
    | with_reducible apply State.answer_keeps
    | with_reducible refine Keeps.cast (by assumption) ?_
    | with_reducible refine Keeps.cast2 (by assumption) ?_
    | split
    | (extract_lets +onlyGivenNames x)
    | fail_if_no_progress (with_reducible apply Keeps.upd)

theorem State.memStart_keeps {r₀ s : State} (op : Nat) (hk : Keeps r₀ s) :
    Keeps r₀ (s.memStart op) := by
  unfold State.memStart
  repeat' first
    | with_reducible assumption
    | (extract_lets +onlyGivenNames x; clear_value (ex : x = _); have hx : Keeps r₀ x := ?_)
    | (extract_lets +onlyGivenNames x; clear_value x)
    | with_reducible apply State.popWaiting_keeps
    | with_reducible apply State.memPump_keeps
    | with_reducible refine Keeps.cast (by assumption) ?_
    | split
    | (extract_lets +onlyGivenNames x)
    | fail_if_no_progress (with_reducible apply Keeps.upd)

theorem execMemRead_keeps {r₀ s : State} (hk : Keeps r₀ s) :
    ∀ s', execMemRead s = .next s' → Keeps r₀ s' := by
  unfold execMemRead
  repeat' first
    | with_reducible assumption
    | with_reducible refine Keeps.next ?_
    | with_reducible apply State.memStart_keeps

theorem execMemWrite_keeps {r₀ s : State} (hk : Keeps r₀ s) :
    ∀ s', execMemWrite s = .next s' → Keeps r₀ s' := by
  unfold execMemWrite
  repeat' first
    | with_reducible assumption
    | with_reducible refine Keeps.next ?_
    | with_reducible apply State.memStart_keeps

theorem execRankMigrate_keeps {r₀ s : State} (hk : Keeps r₀ s) :
    ∀ s', execRankMigrate s = .next s' → Keeps r₀ s' := by
  unfold execRankMigrate
  repeat' first
    | with_reducible assumption
    | with_reducible refine fun _ _ (_ : Keeps r₀ _) => ?_
    | with_reducible refine Keeps.next ?_
    | (extract_lets +onlyGivenNames x; clear_value x)
    | with_reducible apply State.migCtlWrite_keeps
    | with_reducible apply State.cmdRun_keeps

theorem execResealRange_keeps {r₀ s : State} (hk : Keeps r₀ s) :
    ∀ s', execResealRange s = .next s' → Keeps r₀ s' := by
  unfold execResealRange
  repeat' first
    | with_reducible assumption
    | with_reducible refine fun _ _ (_ : Keeps r₀ _) => ?_
    | with_reducible refine Keeps.next ?_
    | (extract_lets +onlyGivenNames x; clear_value (ex : x = _); have hx : Keeps r₀ x := ?_)
    | (extract_lets +onlyGivenNames x; clear_value x)
    | with_reducible apply State.setCsr64_keeps
    | with_reducible apply State.resealWrite_keeps
    | with_reducible apply State.accDone_keeps
    | with_reducible apply State.cmdAccept_keeps
    | with_reducible refine Keeps.cast (by assumption) ?_
    | split

theorem State.keyCmdDone_keeps {r₀ s : State} (h slot op : Nat) (hk : Keeps r₀ s) :
    Keeps r₀ (s.keyCmdDone h slot op) := by
  unfold State.keyCmdDone
  repeat' first
    | with_reducible assumption
    | with_reducible apply State.setCsr_keeps
    | with_reducible apply State.clearKwrap_keeps

theorem execKeyLoad_keeps {r₀ s : State} (hk : Keeps r₀ s) :
    ∀ s', execKeyLoad s = .next s' → Keeps r₀ s' := by
  unfold execKeyLoad
  repeat' first
    | with_reducible assumption
    | with_reducible refine fun _ _ (_ : Keeps r₀ _) => ?_
    | with_reducible refine Keeps.next ?_
    | (extract_lets +onlyGivenNames x; clear_value (ex : x = _); have hx : Keeps r₀ x.2 := ?_)
    | (extract_lets +onlyGivenNames x; clear_value x)
    | with_reducible apply State.keyLoad_keeps
    | with_reducible apply State.cmdRun_keeps
    | with_reducible apply State.keyCmdDone_keeps
    | with_reducible refine Keeps.cast2 (by assumption) ?_

theorem execKeyErase_keeps {r₀ s : State} (hk : Keeps r₀ s) :
    ∀ s', execKeyErase s = .next s' → Keeps r₀ s' := by
  unfold execKeyErase
  repeat' first
    | with_reducible assumption
    | with_reducible refine fun _ _ (_ : Keeps r₀ _) => ?_
    | with_reducible refine Keeps.next ?_
    | (extract_lets +onlyGivenNames x; clear_value x)
    | with_reducible apply State.setFld_keeps
    | with_reducible apply State.setKey_keeps
    | with_reducible apply State.cmdRun_keeps
    | split

theorem execKeyGenerate_keeps {r₀ s : State} (random : BitVec 512) (hk : Keeps r₀ s) :
    ∀ s', execKeyGenerate random s = .next s' → Keeps r₀ s' := by
  unfold execKeyGenerate
  repeat' first
    | with_reducible assumption
    | with_reducible refine fun _ _ (_ : Keeps r₀ _) => ?_
    | with_reducible refine Keeps.next ?_
    | (extract_lets +onlyGivenNames x; clear_value x)
    | with_reducible apply State.setFld_keeps
    | with_reducible apply State.setKey_keeps
    | with_reducible apply State.cmdRun_keeps
    | split

theorem execRightsSet_keeps {r₀ s : State} (hk : Keeps r₀ s) :
    ∀ s', execRightsSet s = .next s' → Keeps r₀ s' := by
  unfold execRightsSet
  repeat' first
    | with_reducible assumption
    | with_reducible refine fun _ _ (_ : Keeps r₀ _) => ?_
    | with_reducible refine Keeps.next ?_
    | (extract_lets +onlyGivenNames x; clear_value x)
    | with_reducible apply State.setCsr64_keeps
    | with_reducible apply State.cmdRun_keeps
    | with_reducible apply Keeps.foldl
    | split

theorem execFwlWindow_keeps {r₀ s : State} (hk : Keeps r₀ s) :
    ∀ s', execFwlWindow s = .next s' → Keeps r₀ s' := by
  unfold execFwlWindow
  repeat' first
    | with_reducible assumption
    | with_reducible refine fun _ _ (_ : Keeps r₀ _) => ?_
    | with_reducible refine Keeps.next ?_
    | (extract_lets +onlyGivenNames x; clear_value (ex : x = _); have hx : Keeps r₀ x := ?_)
    | (extract_lets +onlyGivenNames x; clear_value x)
    | with_reducible apply State.setCsr64_keeps
    | with_reducible apply State.fwlWinWrite_keeps
    | with_reducible apply State.cmdRun_keeps
    | with_reducible refine Keeps.cast (by assumption) ?_

theorem execFenceRights_keeps {r₀ s : State} (hk : Keeps r₀ s) :
    ∀ s', execFenceRights s = .next s' → Keeps r₀ s' := by
  unfold execFenceRights
  repeat' first
    | with_reducible assumption
    | with_reducible refine fun _ _ (_ : Keeps r₀ _) => ?_
    | with_reducible refine Keeps.next ?_
    | (extract_lets +onlyGivenNames x; clear_value (ex : x = _); have hx : Keeps r₀ x := ?_)
    | (extract_lets +onlyGivenNames x; clear_value x)
    | with_reducible apply State.fenceGo_keeps
    | with_reducible apply State.cmdAccept_keeps
    | with_reducible refine Keeps.cast (by assumption) ?_
    | fail_if_no_progress (with_reducible apply Keeps.upd)

theorem execDbgChallenge_keeps {r₀ s : State} (nonce : BitVec 384) (hk : Keeps r₀ s) :
    ∀ s', execDbgChallenge nonce s = .next s' → Keeps r₀ s' := by
  unfold execDbgChallenge
  repeat' first
    | with_reducible assumption
    | with_reducible refine fun _ _ (_ : Keeps r₀ _) => ?_
    | with_reducible refine Keeps.next ?_
    | (extract_lets +onlyGivenNames x; clear_value x)
    | with_reducible apply State.setTr_keeps
    | with_reducible apply State.cmdRun_keeps
    | split

theorem execDbgResponse_keeps {r₀ s : State} (late : Bool) (hk : Keeps r₀ s) :
    ∀ s', execDbgResponse late s = .next s' → Keeps r₀ s' := by
  unfold execDbgResponse
  repeat' first
    | with_reducible assumption
    | with_reducible refine fun _ _ (_ : Keeps r₀ _) => ?_
    | with_reducible refine Keeps.next ?_
    | (extract_lets +onlyGivenNames x; clear_value (ex : x = _); have hx : Keeps r₀ x := ?_)
    | (extract_lets +onlyGivenNames x; clear_value (ex : x = _); refine_lift have hx : ∀ y, Keeps r₀ y → Keeps r₀ (x y).2 := ?_; ?_; rotate_left; focus (rw [ex]; intros))
    | (extract_lets +onlyGivenNames x; clear_value x)
    | with_reducible apply State.setLevel_keeps
    | with_reducible apply State.setTr_keeps
    | with_reducible apply State.cmdRun_keeps
    | with_reducible refine Keeps.cast (by assumption) ?_
    | with_reducible apply_assumption -exfalso -symm
    | split
    | dsimp -zeta only
    | fail_if_no_progress (with_reducible apply Keeps.upd)

theorem execDbgLock_keeps {r₀ s : State} (hk : Keeps r₀ s) :
    ∀ s', execDbgLock s = .next s' → Keeps r₀ s' := by
  unfold execDbgLock
  repeat' first
    | with_reducible assumption
    | with_reducible refine fun _ _ (_ : Keeps r₀ _) => ?_
    | with_reducible refine Keeps.next ?_
    | with_reducible apply State.setLevel_keeps
    | with_reducible apply State.cmdRun_keeps

theorem execImgkeyProgram_keeps {r₀ s : State} (hk : Keeps r₀ s) :
    ∀ s', execImgkeyProgram s = .next s' → Keeps r₀ s' := by
  unfold execImgkeyProgram
  repeat' first
    | with_reducible assumption
    | with_reducible refine fun _ _ (_ : Keeps r₀ _) => ?_
    | with_reducible refine Keeps.next ?_
    | (extract_lets +onlyGivenNames x; clear_value x)
    | with_reducible apply State.cmdRun_keeps
    | split
    | dsimp -zeta only
    | fail_if_no_progress (with_reducible apply Keeps.upd)

theorem execImgkeyRevoke_keeps {r₀ s : State} (hk : Keeps r₀ s) :
    ∀ s', execImgkeyRevoke s = .next s' → Keeps r₀ s' := by
  unfold execImgkeyRevoke
  repeat' first
    | with_reducible assumption
    | with_reducible refine fun _ _ (_ : Keeps r₀ _) => ?_
    | with_reducible refine Keeps.next ?_
    | (extract_lets +onlyGivenNames x; clear_value x)
    | with_reducible apply State.cmdRun_keeps
    | split
    | dsimp -zeta only
    | fail_if_no_progress (with_reducible apply Keeps.upd)

theorem execKekSet_keeps {r₀ s : State} (hk : Keeps r₀ s) :
    ∀ s', execKekSet s = .next s' → Keeps r₀ s' := by
  unfold execKekSet
  repeat' first
    | with_reducible assumption
    | with_reducible refine fun _ _ (_ : Keeps r₀ _) => ?_
    | with_reducible refine Keeps.next ?_
    | (extract_lets +onlyGivenNames x; clear_value x)
    | with_reducible apply State.cmdRun_keeps
    | split
    | dsimp -zeta only
    | fail_if_no_progress (with_reducible apply Keeps.upd)

theorem execPwrMode_keeps {r₀ s : State} (hk : Keeps r₀ s) :
    ∀ s', execPwrMode s = .next s' → Keeps r₀ s' := by
  unfold execPwrMode
  repeat' first
    | with_reducible assumption
    | with_reducible refine fun _ _ (_ : Keeps r₀ _) => ?_
    | with_reducible refine Keeps.next ?_
    | (extract_lets +onlyGivenNames x; clear_value (ex : x = _); have hx : Keeps r₀ x := ?_)
    | (extract_lets +onlyGivenNames x; clear_value x)
    | with_reducible apply State.setFld_keeps
    | with_reducible apply State.accDone_keeps
    | with_reducible apply State.cmdAccept_keeps
    | with_reducible refine Keeps.cast (by assumption) ?_
    | split

theorem execPwrStatus_keeps {r₀ s : State} (hk : Keeps r₀ s) :
    ∀ s', execPwrStatus s = .next s' → Keeps r₀ s' := by
  unfold execPwrStatus
  repeat' first
    | with_reducible assumption
    | with_reducible refine fun _ _ (_ : Keeps r₀ _) => ?_
    | with_reducible refine Keeps.next ?_
    | with_reducible apply State.cmdRun_keeps

theorem execPwrCap_keeps {r₀ s : State} (hk : Keeps r₀ s) :
    ∀ s', execPwrCap s = .next s' → Keeps r₀ s' := by
  unfold execPwrCap
  repeat' first
    | with_reducible assumption
    | with_reducible refine fun _ _ (_ : Keeps r₀ _) => ?_
    | with_reducible refine Keeps.next ?_
    | with_reducible apply State.setFld_keeps
    | with_reducible apply State.cmdRun_keeps

theorem execReset_keeps {r₀ s : State} (hk : Keeps r₀ s) :
    ∀ s', execReset s = .next s' → Keeps r₀ s' := by
  unfold execReset
  repeat' first
    | with_reducible assumption
    | with_reducible refine fun _ _ (_ : Keeps r₀ _) => ?_
    | with_reducible refine Keeps.next ?_
    | (extract_lets +onlyGivenNames x; clear_value (ex : x = _); have hx : Keeps r₀ x.1 := ?_)
    | with_reducible apply State.cmdRun_keeps
    | with_reducible apply State.resetAsk_keeps
    | with_reducible refine Keeps.cast1 (by assumption) ?_

theorem execLtRead_keeps {r₀ s : State} (hk : Keeps r₀ s) :
    ∀ s', execLtRead s = .next s' → Keeps r₀ s' := by
  unfold execLtRead
  repeat' first
    | with_reducible assumption
    | with_reducible refine fun _ _ (_ : Keeps r₀ _) => ?_
    | with_reducible refine Keeps.next ?_
    | with_reducible apply State.cmdRun_keeps
    | split

theorem execLtStatus_keeps {r₀ s : State} (hk : Keeps r₀ s) :
    ∀ s', execLtStatus s = .next s' → Keeps r₀ s' := by
  unfold execLtStatus
  repeat' first
    | with_reducible assumption
    | with_reducible refine fun _ _ (_ : Keeps r₀ _) => ?_
    | with_reducible refine Keeps.next ?_
    | with_reducible apply State.cmdRun_keeps

theorem execRepairClear_keeps {r₀ s : State} (hk : Keeps r₀ s) :
    ∀ s', execRepairClear s = .next s' → Keeps r₀ s' := by
  unfold execRepairClear
  repeat' first
    | with_reducible assumption
    | with_reducible refine fun _ _ (_ : Keeps r₀ _) => ?_
    | with_reducible refine Keeps.next ?_
    | (extract_lets +onlyGivenNames x; clear_value x)
    | with_reducible apply State.ltsWrite_keeps
    | with_reducible apply State.cmdRun_keeps
    | with_reducible apply State.setFieldMask_keeps
    | split

theorem execCalGet_keeps {r₀ s : State} (hk : Keeps r₀ s) :
    ∀ s', execCalGet s = .next s' → Keeps r₀ s' := by
  unfold execCalGet
  repeat' first
    | with_reducible assumption
    | with_reducible refine fun _ _ (_ : Keeps r₀ _) => ?_
    | with_reducible refine Keeps.next ?_
    | with_reducible apply State.cmdRun_keeps

theorem execCalSet_keeps {r₀ s : State} (hk : Keeps r₀ s) :
    ∀ s', execCalSet s = .next s' → Keeps r₀ s' := by
  unfold execCalSet
  repeat' first
    | with_reducible assumption
    | with_reducible refine fun _ _ (_ : Keeps r₀ _) => ?_
    | with_reducible refine Keeps.next ?_
    | with_reducible apply State.cmdRun_keeps
    | with_reducible apply State.calLoadAt_keeps

theorem State.slotPut_keeps {r₀ s : State} (u sl off : Nat) (bs : List Byte) (hk : Keeps r₀ s) :
    Keeps r₀ (s.slotPut u sl off bs) := by
  unfold State.slotPut
  repeat' first
    | with_reducible assumption
    | (extract_lets +onlyGivenNames x; clear_value x)
    | with_reducible apply State.ltsWrite_keeps
    | split
    | (extract_lets +onlyGivenNames x)
    | fail_if_no_progress (with_reducible apply Keeps.upd)

theorem execFwWrite_keeps {r₀ s : State} (hk : Keeps r₀ s) :
    ∀ s', execFwWrite s = .next s' → Keeps r₀ s' := by
  unfold execFwWrite
  repeat' first
    | with_reducible assumption
    | with_reducible refine fun _ _ (_ : Keeps r₀ _) => ?_
    | with_reducible refine Keeps.next ?_
    | (extract_lets +onlyGivenNames x; clear_value x)
    | with_reducible apply State.setFwUnit_keeps
    | with_reducible apply State.cmdRun_keeps
    | with_reducible apply State.slotPut_keeps
    | split

theorem execFwActivate_keeps {r₀ s : State} (hk : Keeps r₀ s) :
    ∀ s', execFwActivate s = .next s' → Keeps r₀ s' := by
  unfold execFwActivate
  repeat' first
    | with_reducible assumption
    | with_reducible refine fun _ _ (_ : Keeps r₀ _) => ?_
    | with_reducible refine Keeps.next ?_
    | (extract_lets +onlyGivenNames x; clear_value (ex : x = _); have hx : Keeps r₀ x := ?_)
    | (extract_lets +onlyGivenNames x; clear_value x)
    | with_reducible apply State.ltsWrite_keeps
    | with_reducible apply State.setFwUnit_keeps
    | with_reducible apply State.accDone_keeps
    | with_reducible apply State.fwRestart_keeps
    | with_reducible apply State.cmdAccept_keeps
    | with_reducible apply State.setV2_keeps
    | with_reducible refine Keeps.cast (by assumption) ?_
    | split

theorem execEpochCommit_keeps {r₀ s : State} (hk : Keeps r₀ s) :
    ∀ s', execEpochCommit s = .next s' → Keeps r₀ s' := by
  unfold execEpochCommit
  repeat' first
    | with_reducible assumption
    | with_reducible refine fun _ _ (_ : Keeps r₀ _) => ?_
    | with_reducible refine Keeps.next ?_
    | with_reducible apply State.epochRun_keeps
    | with_reducible apply State.cmdAccept_keeps

theorem execEpochRollback_keeps {r₀ s : State} (hk : Keeps r₀ s) :
    ∀ s', execEpochRollback s = .next s' → Keeps r₀ s' := by
  unfold execEpochRollback
  repeat' first
    | with_reducible assumption
    | with_reducible refine fun _ _ (_ : Keeps r₀ _) => ?_
    | with_reducible refine Keeps.next ?_
    | with_reducible apply State.epochRun_keeps
    | with_reducible apply State.cmdAccept_keeps

theorem execMinEpochSet_keeps {r₀ s : State} (hk : Keeps r₀ s) :
    ∀ s', execMinEpochSet s = .next s' → Keeps r₀ s' := by
  unfold execMinEpochSet
  repeat' first
    | with_reducible assumption
    | with_reducible refine fun _ _ (_ : Keeps r₀ _) => ?_
    | with_reducible refine Keeps.next ?_
    | (extract_lets +onlyGivenNames x; clear_value x)
    | with_reducible apply State.setFld_keeps
    | with_reducible apply State.cmdRun_keeps
    | split

theorem execUpdStatus_keeps {r₀ s : State} (hk : Keeps r₀ s) :
    ∀ s', execUpdStatus s = .next s' → Keeps r₀ s' := by
  unfold execUpdStatus
  repeat' first
    | with_reducible assumption
    | with_reducible refine fun _ _ (_ : Keeps r₀ _) => ?_
    | with_reducible refine Keeps.next ?_
    | with_reducible apply State.cmdRun_keeps

theorem execInject_keeps {r₀ s : State} (hk : Keeps r₀ s) :
    ∀ s', execInject s = .next s' → Keeps r₀ s' := by
  unfold execInject
  refine Keeps.next (State.cmdRun_keeps _ _ hk fun w t ht => ?_)
  split
  · rename_i u e; exact State.inject_keeps _ _ _ _ ht u e
  · exact ht
  · exact ht

theorem execSelftest_keeps {r₀ s : State} (result : Word) (hk : Keeps r₀ s) :
    ∀ s', execSelftest result s = .next s' → Keeps r₀ s' := by
  unfold execSelftest
  repeat' first
    | with_reducible assumption
    | with_reducible refine fun _ _ (_ : Keeps r₀ _) => ?_
    | with_reducible refine Keeps.next ?_
    | (extract_lets +onlyGivenNames x; clear_value x)
    | with_reducible apply State.accDone_keeps
    | with_reducible apply State.retireSite_keeps
    | with_reducible apply State.cmdAccept_keeps
    | split

theorem execLoopback_keeps {r₀ s : State} (hk : Keeps r₀ s) :
    ∀ s', execLoopback s = .next s' → Keeps r₀ s' := by
  unfold execLoopback
  repeat' first
    | with_reducible assumption
    | with_reducible refine fun _ _ (_ : Keeps r₀ _) => ?_
    | with_reducible refine Keeps.next ?_
    | with_reducible apply State.cmdRun_keeps

end Sys2Proof.Machine
end

