-- ==== Sys2Proof/Laws/KeepsPort.lean ====
section
/-! SUPPORT. What every operation and meaning keeps (`Keeps`): the CRC units, intake, Ethernet and the time base. -/

namespace Sys2Proof.Machine

open Sys2Proof

set_option maxRecDepth 4000

/-! ### Crc -/

theorem State.setCrc_keeps {r₀ s : State} (u : CrcUnit) (c : CrcSt) (hk : Keeps r₀ s) :
    Keeps r₀ (s.setCrc u c) := by
  unfold State.setCrc
  repeat' first
    | with_reducible assumption
    | (extract_lets +onlyGivenNames x; clear_value x)
    | fail_if_no_progress (with_reducible apply Keeps.upd)

theorem State.crcStart_keeps {r₀ s : State} (u : CrcUnit) (mid poly : Nat) (hk : Keeps r₀ s) :
    Keeps r₀ (s.crcStart u mid poly) := by
  unfold State.crcStart
  repeat' first
    | with_reducible assumption
    | (extract_lets +onlyGivenNames x; clear_value (ex : x = _); have hx : Keeps r₀ x := ?_)
    | with_reducible apply State.setFld_keeps
    | with_reducible apply State.setCrc_keeps
    | with_reducible refine Keeps.cast (by assumption) ?_

theorem State.crcFree_keeps {r₀ s : State} (u : CrcUnit) (hk : Keeps r₀ s) :
    Keeps r₀ (s.crcFree u) := by
  unfold State.crcFree
  repeat' first
    | with_reducible assumption
    | with_reducible apply State.setFld_keeps

theorem State.crcCtlWrite_keeps {r₀ s : State} (u : CrcUnit) (mid : Nat) (v : Word) (hk : Keeps r₀ s) :
    Keeps r₀ (s.crcCtlWrite u mid v).1 := by
  unfold State.crcCtlWrite
  repeat' first
    | with_reducible assumption
    | (extract_lets +onlyGivenNames x; clear_value (ex : x = _); have hx : Keeps r₀ x := ?_)
    | (extract_lets +onlyGivenNames x; clear_value x)
    | with_reducible apply State.setFld_keeps
    | with_reducible apply State.crcStart_keeps
    | with_reducible apply State.crcFree_keeps
    | with_reducible refine Keeps.cast (by assumption) ?_
    | split

theorem State.crcFoldWrite_keeps {r₀ s : State} (u : CrcUnit) (mid key : Nat) (v : Word) (hk : Keeps r₀ s) :
    Keeps r₀ (s.crcFoldWrite u mid key v).1 := by
  unfold State.crcFoldWrite
  repeat' first
    | with_reducible assumption
    | with_reducible apply State.setCsr_keeps
    | split

theorem State.crcData_keeps {r₀ s : State} (u : CrcUnit) (mid : Nat) (bs : List PByte) (rsn : PoisonRsn) (hk : Keeps r₀ s) :
    Keeps r₀ (s.crcData u mid bs rsn).1 := by
  unfold State.crcData
  repeat' first
    | with_reducible assumption
    | (extract_lets +onlyGivenNames x; clear_value x)
    | with_reducible apply State.report_keeps
    | with_reducible apply State.setCrc_keeps
    | split

theorem execCrcStart_keeps {r₀ s : State} (mid : BitVec 12) (u : CrcUnit) (value : Word) (hk : Keeps r₀ s) :
    ∀ s', execCrcStart mid u value s = .next s' → Keeps r₀ s' := by
  unfold execCrcStart
  repeat' first
    | with_reducible assumption
    | with_reducible refine fun _ (_ : Keeps r₀ _) => ?_
    | with_reducible refine Keeps.next ?_
    | with_reducible apply State.regWrite_keeps
    | with_reducible apply State.crcCtlWrite_keeps

theorem execCrcDataWrite_keeps {r₀ s : State} (mid : BitVec 12) (u : CrcUnit) (data : List (Byte × Bool)) (rsn : PoisonRsn) (hk : Keeps r₀ s) :
    ∀ s', execCrcDataWrite mid u data rsn s = .next s' → Keeps r₀ s' := by
  unfold execCrcDataWrite
  repeat' first
    | with_reducible assumption
    | with_reducible refine fun _ (_ : Keeps r₀ _) => ?_
    | with_reducible refine Keeps.next ?_
    | with_reducible apply State.regWrite_keeps
    | with_reducible apply State.crcData_keeps

theorem execRelease_keeps {r₀ s : State} (mid : BitVec 12) (u : CrcUnit) (value : Word) (hk : Keeps r₀ s) :
    ∀ s', execRelease mid u value s = .next s' → Keeps r₀ s' := by
  unfold execRelease
  repeat' first
    | with_reducible assumption
    | with_reducible refine fun _ (_ : Keeps r₀ _) => ?_
    | with_reducible refine Keeps.next ?_
    | with_reducible apply State.regWrite_keeps
    | with_reducible apply State.crcCtlWrite_keeps

/-! ### Intake -/

theorem State.frameChunk_keeps {r₀ s : State} (p : Nat) (f : Frame) (addr : Nat) (bs : List PByte) (hk : Keeps r₀ s) :
    Keeps r₀ (s.frameChunk p f addr bs).2 := by
  unfold State.frameChunk
  repeat' first
    | with_reducible assumption
    | (extract_lets +onlyGivenNames x; clear_value x)
    | with_reducible apply State.issue_keeps
    | split

theorem State.frameWrite_keeps {r₀ s : State} (p : Nat) (f : Frame) (off : Nat) (bs : List Byte) (hk : Keeps r₀ s) :
    Keeps r₀ (s.frameWrite p f off bs).2 := by
  unfold State.frameWrite
  repeat' first
    | with_reducible assumption
    | intro _
    | (extract_lets +onlyGivenNames x; clear_value x)
    | with_reducible apply State.frameChunk_keeps
    | with_reducible apply Keeps.foldl2
    | split

theorem State.frameStep_keeps {r₀ s : State} (p : Nat) (f : Frame) (hk : Keeps r₀ s) :
    Keeps r₀ (s.frameStep p f).2 := by
  unfold State.frameStep
  repeat' first
    | with_reducible assumption
    | (extract_lets +onlyGivenNames x; clear_value (ex : x = _); have hx : Keeps r₀ x := ?_)
    | (extract_lets +onlyGivenNames x; clear_value (ex : x = _); have hx : Keeps r₀ x.2 := ?_)
    | (extract_lets +onlyGivenNames x; clear_value x)
    | with_reducible apply State.qFinish_keeps
    | with_reducible apply State.frameWrite_keeps
    | with_reducible refine Keeps.cast (by assumption) ?_
    | with_reducible refine Keeps.cast2 (by assumption) ?_
    | split
    | dsimp -zeta only
    | fail_if_no_progress (with_reducible apply Keeps.upd)

theorem State.showOpen_keeps {r₀ s : State} (p : Nat) (hk : Keeps r₀ s) :
    Keeps r₀ (s.showOpen p) := by
  unfold State.showOpen
  repeat' first
    | with_reducible assumption
    | intro _
    | (extract_lets +onlyGivenNames x; clear_value x)
    | with_reducible apply State.setFld_keeps
    | with_reducible apply Keeps.foldl

theorem State.intakePass_keeps {r₀ s : State} (p : Nat) (hk : Keeps r₀ s) :
    Keeps r₀ (s.intakePass p) := by
  unfold State.intakePass
  repeat' first
    | with_reducible assumption
    | intro _
    | (extract_lets +onlyGivenNames x; clear_value (ex : x = _); have hx : Keeps r₀ x := ?_)
    | (extract_lets +onlyGivenNames x; clear_value (ex : x = _); have hx : Keeps r₀ x.2 := ?_)
    | (extract_lets +onlyGivenNames x; clear_value x)
    | with_reducible apply State.dropInbox_keeps
    | with_reducible apply State.setFrames_keeps
    | with_reducible apply State.frameStep_keeps
    | with_reducible apply Keeps.foldl
    | with_reducible apply Keeps.foldl2
    | with_reducible refine Keeps.cast (by assumption) ?_
    | with_reducible refine Keeps.cast2 (by assumption) ?_

theorem State.intakeRun_keeps {r₀ s : State} (p : Nat) (hk : Keeps r₀ s) :
    Keeps r₀ (s.intakeRun p) := by
  unfold State.intakeRun
  repeat' first
    | with_reducible assumption
    | with_reducible apply State.showOpen_keeps
    | with_reducible apply State.intakePass_keeps

theorem State.takeBuffer_keeps {r₀ s : State} (h q : Nat) (index : BitVec 16) (hk : Keeps r₀ s) :
    Keeps r₀ (s.takeBuffer h q index) := by
  unfold State.takeBuffer
  repeat' first
    | with_reducible assumption
    | with_reducible apply State.mapDescs_keeps

theorem State.countDrop_keeps {r₀ s : State} (p src vc : Nat) (hk : Keeps r₀ s) :
    Keeps r₀ (s.countDrop p src vc) := by
  unfold State.countDrop
  repeat' first
    | with_reducible assumption
    | (extract_lets +onlyGivenNames x; clear_value x)
    | fail_if_no_progress (with_reducible apply Keeps.upd)

theorem State.frameEnd_keeps {r₀ s : State} (p : Nat) (f : Frame) (how : FrameEnd) (time : DWord) (valid : Bool) (hk : Keeps r₀ s) :
    Keeps r₀ (s.frameEnd p f how time valid).2 := by
  unfold State.frameEnd
  repeat' first
    | with_reducible assumption
    | (extract_lets +onlyGivenNames x; clear_value x)
    | with_reducible apply State.frameWrite_keeps
    | split

theorem State.onFrame_keeps {r₀ s : State} (p k vc : Nat) (g : Frame → State → Frame × State) (hk : Keeps r₀ s)
    (hg : ∀ f t, Keeps r₀ t → Keeps r₀ (g f t).2) : Keeps r₀ (s.onFrame p k vc g) := by
  unfold State.onFrame
  refine State.setFrames_keeps p _ (Keeps.foldl2 hk fun t f ht => ?_)
  split
  · exact hg f t.2 ht
  · exact ht

theorem State.intFlag_keeps {r₀ s : State} (p k : Nat) (f : Fld) (sev : Nat) (hk : Keeps r₀ s) :
    Keeps r₀ (s.intFlag p k f sev) := by
  unfold State.intFlag
  repeat' first
    | with_reducible assumption
    | with_reducible apply State.portFlag_keeps

theorem State.csiHeader_keeps {r₀ s : State} (p k vc : Nat) (h : CsiHdr) (hk : Keeps r₀ s) :
    Keeps r₀ (s.csiHeader p k vc h) := by
  unfold State.csiHeader
  repeat' first
    | with_reducible assumption
    | intro _
    | (extract_lets +onlyGivenNames x; clear_value (ex : x = _); have hx : Keeps r₀ x := ?_)
    | with_reducible apply State.onFrame_keeps
    | with_reducible apply State.intFlag_keeps
    | with_reducible refine Keeps.cast (by assumption) ?_
    | split

theorem State.frameMissing_keeps {r₀ s : State} (p k vc : Nat) (hk : Keeps r₀ s) :
    Keeps r₀ (s.frameMissing p k vc) := by
  unfold State.frameMissing
  repeat' first
    | with_reducible assumption
    | intro _
    | (extract_lets +onlyGivenNames x; clear_value (ex : x = _); have hx : Keeps r₀ x.2 := ?_)
    | with_reducible apply State.free_keeps
    | with_reducible apply State.frameEnd_keeps
    | with_reducible apply State.onFrame_keeps
    | with_reducible apply State.intFlag_keeps
    | with_reducible refine Keeps.cast2 (by assumption) ?_
    | split

theorem State.dropEnd_keeps {r₀ s : State} (p k vc : Nat) (hk : Keeps r₀ s) :
    Keeps r₀ (s.dropEnd p k vc) := by
  unfold State.dropEnd
  repeat' first
    | with_reducible assumption
    | (extract_lets +onlyGivenNames x; clear_value x)
    | fail_if_no_progress (with_reducible apply Keeps.upd)

theorem State.frameStart_keeps {r₀ s : State} (p k vc num : Nat) (corrected : Bool) (hk : Keeps r₀ s) :
    Keeps r₀ (s.frameStart p k vc num corrected) := by
  unfold State.frameStart
  repeat' first
    | with_reducible assumption
    | (extract_lets +onlyGivenNames x; clear_value (ex : x = _); have hx : Keeps r₀ x := ?_)
    | (extract_lets +onlyGivenNames x; clear_value x)
    | with_reducible apply State.satInc_keeps
    | with_reducible apply State.setFrames_keeps
    | with_reducible apply State.takeBuffer_keeps
    | with_reducible apply State.countDrop_keeps
    | with_reducible apply State.intFlag_keeps
    | with_reducible refine Keeps.cast (by assumption) ?_
    | split
    | (extract_lets +onlyGivenNames x)
    | fail_if_no_progress (with_reducible apply Keeps.upd)

theorem execFs_keeps {r₀ s : State} (port : Fin 4) (k : Fin 8) (vc : Fin 16) (hdr : CsiHdr) (num : Half) (hk : Keeps r₀ s) :
    ∀ s', execFs port k vc hdr num s = .next s' → Keeps r₀ s' := by
  unfold execFs
  repeat' first
    | with_reducible assumption
    | with_reducible refine Keeps.next ?_
    | (extract_lets +onlyGivenNames x; clear_value (ex : x = _); have hx : Keeps r₀ x := ?_)
    | with_reducible apply State.intakeRun_keeps
    | with_reducible apply State.csiHeader_keeps
    | with_reducible apply State.frameMissing_keeps
    | with_reducible apply State.dropEnd_keeps
    | with_reducible apply State.frameStart_keeps
    | with_reducible refine Keeps.cast (by assumption) ?_
    | split

theorem State.frameLine_keeps {r₀ s : State} (p : Nat) (f : Frame) (dt : Nat) (data : List Byte) (crcOk : Bool) (kept : Nat) (hk : Keeps r₀ s) :
    Keeps r₀ (s.frameLine p f dt data crcOk kept).2 := by
  unfold State.frameLine
  extract_lets t cut bad entry f1 r bs r2
  have hr : Keeps r₀ r.2 := by
    simp only [r]
    split
    · exact State.frameWrite_keeps _ _ _ _ hk
    · exact hk
  exact State.frameWrite_keeps _ _ _ _ hr

theorem execLine_keeps {r₀ s : State} (port : Fin 4) (k : Fin 8) (vc : Fin 16) (hdr : CsiHdr) (dt : BitVec 6) (data : List Byte) (crcOk : Bool) (kept : Nat) (hk : Keeps r₀ s) :
    ∀ s', execLine port k vc hdr dt data crcOk kept s = .next s' → Keeps r₀ s' := by
  unfold execLine
  repeat' first
    | with_reducible assumption
    | with_reducible refine fun _ _ (_ : Keeps r₀ _) => ?_
    | with_reducible refine Keeps.next ?_
    | (extract_lets +onlyGivenNames x; clear_value (ex : x = _); have hx : Keeps r₀ x := ?_)
    | with_reducible apply State.satInc_keeps
    | with_reducible apply State.intakeRun_keeps
    | with_reducible apply State.onFrame_keeps
    | with_reducible apply State.intFlag_keeps
    | with_reducible apply State.csiHeader_keeps
    | with_reducible apply State.frameLine_keeps
    | with_reducible refine Keeps.cast (by assumption) ?_
    | split

theorem execFe_keeps {r₀ s : State} (port : Fin 4) (k : Fin 8) (vc : Fin 16) (hdr : CsiHdr) (hk : Keeps r₀ s) :
    ∀ s', execFe port k vc hdr s = .next s' → Keeps r₀ s' := by
  unfold execFe
  repeat' first
    | with_reducible assumption
    | with_reducible refine fun _ _ (_ : Keeps r₀ _) => ?_
    | with_reducible refine Keeps.next ?_
    | (extract_lets +onlyGivenNames x; clear_value (ex : x = _); have hx : Keeps r₀ x := ?_)
    | (extract_lets +onlyGivenNames x; clear_value x)
    | with_reducible apply State.intakeRun_keeps
    | with_reducible apply State.frameEnd_keeps
    | with_reducible apply State.onFrame_keeps
    | with_reducible apply State.csiHeader_keeps
    | with_reducible apply State.dropEnd_keeps
    | with_reducible refine Keeps.cast (by assumption) ?_
    | split

theorem execFrameTo_keeps {r₀ s : State} (port : Fin 4) (k : Fin 8) (vc : Fin 16) (hk : Keeps r₀ s) :
    ∀ s', execFrameTo port k vc s = .next s' → Keeps r₀ s' := by
  unfold execFrameTo
  repeat' first
    | with_reducible assumption
    | with_reducible refine Keeps.next ?_
    | with_reducible apply State.intakeRun_keeps
    | with_reducible apply State.frameMissing_keeps
    | with_reducible apply State.dropEnd_keeps

theorem State.vcWrite_keeps {r₀ s : State} (p k vc key : Nat) (v : Word) (hk : Keeps r₀ s) :
    Keeps r₀ (s.vcWrite p k vc key v) := by
  unfold State.vcWrite
  repeat' first
    | with_reducible assumption
    | (extract_lets +onlyGivenNames x; clear_value (ex : x = _); have hx : Keeps r₀ x := ?_)
    | (extract_lets +onlyGivenNames x; clear_value x)
    | with_reducible apply State.setCsr_keeps
    | with_reducible apply State.fenceFrames_keeps
    | with_reducible apply State.dropArmed_keeps
    | with_reducible apply State.showOpen_keeps
    | with_reducible refine Keeps.cast (by assumption) ?_
    | split

theorem State.steerWrite_keeps {r₀ s : State} (p m e : Nat) (v : Word) (hk : Keeps r₀ s) :
    Keeps r₀ (s.steerWrite p m e v) := by
  unfold State.steerWrite
  repeat' first
    | with_reducible assumption
    | (extract_lets +onlyGivenNames x; clear_value (ex : x = _); have hx : Keeps r₀ x := ?_)
    | (extract_lets +onlyGivenNames x; clear_value x)
    | with_reducible apply State.setCsr_keeps
    | with_reducible apply State.fenceFrames_keeps
    | with_reducible apply State.dropArmed_keeps
    | with_reducible refine Keeps.cast (by assumption) ?_
    | split

theorem State.setCtx_keeps {r₀ s : State} (p t : Nat) (c : CtxSt) (hk : Keeps r₀ s) :
    Keeps r₀ (s.setCtx p t c) := by
  unfold State.setCtx
  repeat' first
    | with_reducible assumption
    | (extract_lets +onlyGivenNames x; clear_value x)
    | fail_if_no_progress (with_reducible apply Keeps.upd)

theorem execCtxStreamWord_keeps {r₀ s : State} (port : Fin 4) (t : Fin 2) (same : Bool) (hk : Keeps r₀ s) :
    ∀ s', execCtxStreamWord port t same s = .next s' → Keeps r₀ s' := by
  unfold execCtxStreamWord
  repeat' first
    | with_reducible assumption
    | with_reducible refine Keeps.next ?_
    | (extract_lets +onlyGivenNames x; clear_value (ex : x = _); have hx : Keeps r₀ x := ?_)
    | (extract_lets +onlyGivenNames x; clear_value x)
    | with_reducible apply State.raise_keeps
    | with_reducible apply State.before_keeps
    | with_reducible apply State.edgeAt_keeps
    | with_reducible apply State.setCtx_keeps
    | with_reducible refine Keeps.cast (by assumption) ?_
    | split

theorem execCtxPacketSend_keeps {r₀ s : State} (port : Fin 4) (t : Fin 2) (hk : Keeps r₀ s) :
    ∀ s', execCtxPacketSend port t s = .next s' → Keeps r₀ s' := by
  unfold execCtxPacketSend
  repeat' first
    | with_reducible assumption
    | with_reducible refine Keeps.next ?_
    | (extract_lets +onlyGivenNames x; clear_value x)
    | with_reducible apply State.send_keeps
    | with_reducible apply State.setCtx_keeps
    | split

/-! ### Eth -/

theorem State.ethFlag_keeps {r₀ s : State} (p m : Nat) (f : Fld) (hk : Keeps r₀ s) :
    Keeps r₀ (s.ethFlag p m f) := by
  unfold State.ethFlag
  repeat' first
    | with_reducible assumption
    | with_reducible apply State.portFlag_keeps

theorem State.ethDiscard_keeps {r₀ s : State} (p m : Nat) (f : Fld) (hk : Keeps r₀ s) :
    Keeps r₀ (s.ethDiscard p m f) := by
  unfold State.ethDiscard
  repeat' first
    | with_reducible assumption
    | with_reducible apply State.satInc_keeps
    | with_reducible apply State.ethFlag_keeps

theorem State.setFrer_keeps {r₀ s : State} (p i : Nat) (r : FrerSt) (hk : Keeps r₀ s) :
    Keeps r₀ (s.setFrer p i r) := by
  unfold State.setFrer
  repeat' first
    | with_reducible assumption
    | (extract_lets +onlyGivenNames x; clear_value x)
    | fail_if_no_progress (with_reducible apply Keeps.upd)

theorem State.ethPlace_keeps {r₀ s : State} (p m h q : Nat) (b : List Byte) (fcsErr : Bool) (ago : Nat) (hk : Keeps r₀ s) :
    Keeps r₀ (s.ethPlace p m h q b fcsErr ago) := by
  unfold State.ethPlace
  repeat' first
    | with_reducible assumption
    | (extract_lets +onlyGivenNames x; clear_value (ex : x = _); have hx : Keeps r₀ x.2 := ?_)
    | (extract_lets +onlyGivenNames x; clear_value x)
    | with_reducible apply State.setFrames_keeps
    | with_reducible apply State.frameWrite_keeps
    | with_reducible apply State.intakeRun_keeps
    | with_reducible apply State.takeBuffer_keeps
    | with_reducible apply State.countDrop_keeps
    | with_reducible apply State.ethDiscard_keeps
    | with_reducible refine Keeps.cast2 (by assumption) ?_
    | split

theorem State.ethSteer_keeps {r₀ s : State} (p m : Nat) (b : List Byte) (fcsErr : Bool) (ago : Nat) (hk : Keeps r₀ s) :
    Keeps r₀ (s.ethSteer p m b fcsErr ago) := by
  unfold State.ethSteer
  repeat' first
    | with_reducible assumption
    | (extract_lets +onlyGivenNames x; clear_value (ex : x = _); have hx : Keeps r₀ x := ?_)
    | (extract_lets +onlyGivenNames x; clear_value (ex : x = _); refine_lift have hx : ∀ y a, Keeps r₀ y → Keeps r₀ (x y a) := ?_; ?_; rotate_left; focus (rw [ex]; intros))
    | (extract_lets +onlyGivenNames x; clear_value x)
    | with_reducible apply State.ethDiscard_keeps
    | with_reducible apply State.setFrer_keeps
    | with_reducible apply State.ethPlace_keeps
    | with_reducible refine Keeps.cast (by assumption) ?_
    | with_reducible apply_assumption -exfalso -symm
    | split
    | dsimp -zeta only

theorem execEthRxFrame_keeps {r₀ s : State} (port mac : Fin 4) (frame : List Byte) (fcsOk : Bool) (ago : Nat) (hk : Keeps r₀ s) :
    ∀ s', execEthRxFrame port mac frame fcsOk ago s = .next s' → Keeps r₀ s' := by
  unfold execEthRxFrame
  repeat' first
    | with_reducible assumption
    | with_reducible refine Keeps.next ?_
    | with_reducible apply State.satInc_keeps
    | with_reducible apply State.ethFlag_keeps
    | with_reducible apply State.ethDiscard_keeps
    | with_reducible apply State.ethSteer_keeps
    | split

theorem execFrerReset_keeps {r₀ s : State} (port : Fin 4) (stream : Fin 32) (hk : Keeps r₀ s) :
    ∀ s', execFrerReset port stream s = .next s' → Keeps r₀ s' := by
  unfold execFrerReset
  repeat' first
    | with_reducible assumption
    | with_reducible refine Keeps.next ?_
    | with_reducible apply State.setFrer_keeps

theorem State.setTx_keeps {r₀ s : State} (p : Nat) (l : List EthFrame) (hk : Keeps r₀ s) :
    Keeps r₀ (s.setTx p l) := by
  unfold State.setTx
  repeat' first
    | with_reducible assumption
    | (extract_lets +onlyGivenNames x; clear_value x)
    | fail_if_no_progress (with_reducible apply Keeps.upd)

theorem State.setTxst_keeps {r₀ s : State} (p m : Nat) (l : List DWord) (hk : Keeps r₀ s) :
    Keeps r₀ (s.setTxst p m l) := by
  unfold State.setTxst
  repeat' first
    | with_reducible assumption
    | (extract_lets +onlyGivenNames x; clear_value x)
    | fail_if_no_progress (with_reducible apply Keeps.upd)

theorem State.txWrite_keeps {r₀ s : State} (p o : Nat) (bs : List PByte) (hk : Keeps r₀ s) :
    Keeps r₀ (s.txWrite p o bs).1 := by
  unfold State.txWrite
  repeat' first
    | with_reducible assumption
    | (extract_lets +onlyGivenNames x; clear_value x)
    | split
    | dsimp -zeta only
    | fail_if_no_progress (with_reducible apply Keeps.upd)

theorem State.txEntry_keeps {r₀ s : State} (p : Nat) (f : EthFrame) (hk : Keeps r₀ s) :
    Keeps r₀ (s.txEntry p f) := by
  unfold State.txEntry
  repeat' first
    | with_reducible assumption
    | (extract_lets +onlyGivenNames x; clear_value (ex : x = _); have hx : Keeps r₀ x.2 := ?_)
    | with_reducible apply State.free_keeps
    | with_reducible apply State.setTxst_keeps
    | with_reducible refine Keeps.cast2 (by assumption) ?_
    | split

theorem State.txFinish_keeps {r₀ s : State} (p : Nat) (hk : Keeps r₀ s) :
    Keeps r₀ (s.txFinish p) := by
  unfold State.txFinish
  repeat' first
    | with_reducible assumption
    | intro _
    | with_reducible apply State.setTx_keeps
    | with_reducible apply State.txEntry_keeps
    | with_reducible apply Keeps.foldl

theorem State.ethCommit_keeps {r₀ s : State} (p m : Nat) (v : Word) (hk : Keeps r₀ s) :
    Keeps r₀ (s.ethCommit p m v).1 := by
  unfold State.ethCommit
  repeat' first
    | with_reducible assumption
    | (extract_lets +onlyGivenNames x; clear_value (ex : x = _); have hx : Keeps r₀ x := ?_)
    | (extract_lets +onlyGivenNames x; clear_value x)
    | with_reducible apply State.satInc_keeps
    | with_reducible apply State.setTx_keeps
    | with_reducible apply State.txFinish_keeps
    | with_reducible refine Keeps.cast (by assumption) ?_
    | split
    | (extract_lets +onlyGivenNames x)
    | fail_if_no_progress (with_reducible apply Keeps.upd)

theorem execEthCommit_keeps {r₀ s : State} (mid : BitVec 12) (port mac : Fin 4) (value : Word) (hk : Keeps r₀ s) :
    ∀ s', execEthCommit mid port mac value s = .next s' → Keeps r₀ s' := by
  unfold execEthCommit
  repeat' first
    | with_reducible assumption
    | with_reducible refine fun _ (_ : Keeps r₀ _) => ?_
    | with_reducible refine Keeps.next ?_
    | with_reducible apply State.regWrite_keeps
    | with_reducible apply State.ethCommit_keeps
    | split

theorem State.txstPop_keeps {r₀ s : State} (p m : Nat) (hk : Keeps r₀ s) :
    Keeps r₀ (s.txstPop p m) := by
  unfold State.txstPop
  repeat' first
    | with_reducible assumption
    | with_reducible apply State.setTxst_keeps

theorem execEthTxstPop_keeps {r₀ s : State} (port mac : Fin 4) (dbg : Bool) (hk : Keeps r₀ s) :
    ∀ s', execEthTxstPop port mac dbg s = .next s' → Keeps r₀ s' := by
  unfold execEthTxstPop
  repeat' first
    | with_reducible assumption
    | with_reducible refine fun _ (_ : Keeps r₀ _) => ?_
    | with_reducible refine Keeps.next ?_
    | with_reducible apply State.send_keeps
    | with_reducible apply State.regRead_keeps
    | with_reducible apply State.txstPop_keeps
    | split

theorem State.gclCtlWrite_keeps {r₀ s : State} (p m : Nat) (v : Word) (hk : Keeps r₀ s) :
    Keeps r₀ (s.gclCtlWrite p m v) := by
  unfold State.gclCtlWrite
  repeat' first
    | with_reducible assumption
    | (extract_lets +onlyGivenNames x; clear_value (ex : x = _); have hx : Keeps r₀ x := ?_)
    | (extract_lets +onlyGivenNames x; clear_value x)
    | with_reducible apply State.setFld_keeps
    | with_reducible apply State.portRefused_keeps
    | with_reducible refine Keeps.cast (by assumption) ?_
    | split
    | (extract_lets +onlyGivenNames x)
    | fail_if_no_progress (with_reducible apply Keeps.upd)

theorem execGclChange_keeps {r₀ s : State} (mid : BitVec 12) (port mac : Fin 4) (value : Word) (hk : Keeps r₀ s) :
    ∀ s', execGclChange mid port mac value s = .next s' → Keeps r₀ s' := by
  unfold execGclChange
  repeat' first
    | with_reducible assumption
    | with_reducible refine fun _ (_ : Keeps r₀ _) => ?_
    | with_reducible refine Keeps.next ?_
    | with_reducible apply levelSWrite_keeps
    | with_reducible apply State.gclCtlWrite_keeps

theorem execGclSwitch_keeps {r₀ s : State} (port mac : Fin 4) (hk : Keeps r₀ s) :
    ∀ s', execGclSwitch port mac s = .next s' → Keeps r₀ s' := by
  unfold execGclSwitch
  repeat' first
    | with_reducible assumption
    | with_reducible refine Keeps.next ?_
    | (extract_lets +onlyGivenNames x; clear_value (ex : x = _); have hx : Keeps r₀ x := ?_)
    | (extract_lets +onlyGivenNames x; clear_value x)
    | with_reducible apply State.setFld_keeps
    | with_reducible refine Keeps.cast (by assumption) ?_
    | split
    | (extract_lets +onlyGivenNames x)
    | fail_if_no_progress (with_reducible apply Keeps.upd)

theorem State.gclEntryWrite_keeps {r₀ s : State} (p m b i : Nat) (v : Word) (hk : Keeps r₀ s) :
    Keeps r₀ (s.gclEntryWrite p m b i v) := by
  unfold State.gclEntryWrite
  repeat' first
    | with_reducible assumption
    | with_reducible apply State.setCsr_keeps
    | split

theorem State.setFrame_keeps {r₀ s : State} (p : Nat) (f g : EthFrame) (hk : Keeps r₀ s) :
    Keeps r₀ (s.setFrame p f g) := by
  unfold State.setFrame
  repeat' first
    | with_reducible assumption
    | with_reducible apply State.setTx_keeps

theorem State.txStart_keeps {r₀ s : State} (p m : Nat) (f : EthFrame) (hk : Keeps r₀ s) :
    Keeps r₀ (s.txStart p m f) := by
  unfold State.txStart
  repeat' first
    | with_reducible assumption
    | (extract_lets +onlyGivenNames x; clear_value x)
    | with_reducible apply State.send_keeps
    | with_reducible apply State.setFrame_keeps

theorem execEthTxFrame_keeps {r₀ s : State} (port mac : Fin 4) (hk : Keeps r₀ s) :
    ∀ s', execEthTxFrame port mac s = .next s' → Keeps r₀ s' := by
  unfold execEthTxFrame
  repeat' first
    | with_reducible assumption
    | with_reducible refine Keeps.next ?_
    | with_reducible apply State.txFinish_keeps
    | with_reducible apply State.setFrame_keeps
    | with_reducible apply State.txStart_keeps
    | split

theorem execEthTxDone_keeps {r₀ s : State} (port mac : Fin 4) (hk : Keeps r₀ s) :
    ∀ s', execEthTxDone port mac s = .next s' → Keeps r₀ s' := by
  unfold execEthTxDone
  repeat' first
    | with_reducible assumption
    | with_reducible refine Keeps.next ?_
    | with_reducible apply State.setTx_keeps
    | with_reducible apply State.txFinish_keeps

theorem execEthLinkDown_keeps {r₀ s : State} (port mac : Fin 4) (up : Bool) (hk : Keeps r₀ s) :
    ∀ s', execEthLinkDown port mac up s = .next s' → Keeps r₀ s' := by
  unfold execEthLinkDown
  repeat' first
    | with_reducible assumption
    | with_reducible refine Keeps.next ?_
    | (extract_lets +onlyGivenNames x; clear_value (ex : x = _); have hx : Keeps r₀ x := ?_)
    | with_reducible apply State.setBit_keeps
    | with_reducible apply State.ethFlag_keeps
    | with_reducible apply State.setTx_keeps
    | with_reducible apply State.txFinish_keeps
    | with_reducible refine Keeps.cast (by assumption) ?_
    | split

theorem execQeEvtFifoPop_keeps {r₀ s : State} (hub : Fin 2) (dbg : Bool) (hk : Keeps r₀ s) :
    ∀ s', execQeEvtFifoPop hub dbg s = .next s' → Keeps r₀ s' := by
  unfold execQeEvtFifoPop
  repeat' first
    | with_reducible assumption
    | with_reducible refine fun _ (_ : Keeps r₀ _) => ?_
    | with_reducible refine Keeps.next ?_
    | with_reducible apply State.send_keeps
    | with_reducible apply State.regRead_keeps
    | with_reducible apply State.qEvtPop_keeps
    | split

/-! ### TimeBase -/

theorem State.tbFlag_keeps {r₀ s : State} (f : Fld) (hk : Keeps r₀ s) :
    Keeps r₀ (s.tbFlag f) := by
  unfold State.tbFlag
  repeat' first
    | with_reducible assumption
    | with_reducible apply State.raise_keeps

theorem State.tbShow_keeps {r₀ s : State} (hk : Keeps r₀ s) :
    Keeps r₀ (s.tbShow) := by
  unfold State.tbShow
  repeat' first
    | with_reducible assumption
    | with_reducible apply State.setBit_keeps

theorem execTbTick_keeps {r₀ s : State} (hk : Keeps r₀ s) :
    ∀ s', execTbTick s = .next s' → Keeps r₀ s' := by
  unfold execTbTick
  repeat' first
    | with_reducible assumption
    | with_reducible refine Keeps.next ?_
    | (extract_lets +onlyGivenNames x; clear_value x)
    | with_reducible apply State.tbShow_keeps
    | split
    | (extract_lets +onlyGivenNames x)
    | fail_if_no_progress (with_reducible apply Keeps.upd)

theorem State.tbIncrWrite_keeps {r₀ s : State} (v : DWord) (hk : Keeps r₀ s) :
    Keeps r₀ (s.tbIncrWrite v) := by
  unfold State.tbIncrWrite
  repeat' first
    | with_reducible assumption
    | (extract_lets +onlyGivenNames x; clear_value x)
    | with_reducible apply State.setCsr64_keeps
    | with_reducible apply State.tbFlag_keeps
    | split

theorem execTbIncrWrite_keeps {r₀ s : State} (mid : BitVec 12) (value : DWord) (hk : Keeps r₀ s) :
    ∀ s', execTbIncrWrite mid value s = .next s' → Keeps r₀ s' := by
  unfold execTbIncrWrite
  repeat' first
    | with_reducible assumption
    | with_reducible refine fun _ (_ : Keeps r₀ _) => ?_
    | with_reducible refine Keeps.next ?_
    | with_reducible apply State.dropLatches_keeps
    | with_reducible apply State.regWrite_keeps
    | with_reducible apply State.tbIncrWrite_keeps
    | split

theorem State.tbAdjWrite_keeps {r₀ s : State} (v : Word) (hk : Keeps r₀ s) :
    Keeps r₀ (s.tbAdjWrite v) := by
  unfold State.tbAdjWrite
  repeat' first
    | with_reducible assumption
    | (extract_lets +onlyGivenNames x; clear_value (ex : x = _); have hx : Keeps r₀ x := ?_)
    | (extract_lets +onlyGivenNames x; clear_value x)
    | with_reducible apply State.setCsr_keeps
    | with_reducible apply State.setFld_keeps
    | with_reducible apply State.tbFlag_keeps
    | with_reducible apply State.tbShow_keeps
    | with_reducible refine Keeps.cast (by assumption) ?_
    | split
    | (extract_lets +onlyGivenNames x)
    | fail_if_no_progress (with_reducible apply Keeps.upd)

theorem execStep_keeps {r₀ s : State} (mid : BitVec 12) (value : Word) (hk : Keeps r₀ s) :
    ∀ s', execStep mid value s = .next s' → Keeps r₀ s' := by
  unfold execStep
  repeat' first
    | with_reducible assumption
    | with_reducible refine fun _ (_ : Keeps r₀ _) => ?_
    | with_reducible refine Keeps.next ?_
    | with_reducible apply State.regWrite_keeps
    | with_reducible apply State.tbAdjWrite_keeps
    | split

theorem execSlew_keeps {r₀ s : State} (mid : BitVec 12) (value : Word) (hk : Keeps r₀ s) :
    ∀ s', execSlew mid value s = .next s' → Keeps r₀ s' := by
  unfold execSlew
  repeat' first
    | with_reducible assumption
    | with_reducible refine fun _ (_ : Keeps r₀ _) => ?_
    | with_reducible refine Keeps.next ?_
    | with_reducible apply State.regWrite_keeps
    | with_reducible apply State.tbAdjWrite_keeps
    | split

theorem State.setFollower_keeps {r₀ s : State} (sp : Nat) (f : Follower) (hk : Keeps r₀ s) :
    Keeps r₀ (s.setFollower sp f) := by
  unfold State.setFollower
  repeat' first
    | with_reducible assumption
    | (extract_lets +onlyGivenNames x; clear_value x)
    | fail_if_no_progress (with_reducible apply Keeps.upd)

theorem execFollowerTick_keeps {r₀ s : State} (die : Fin 72) (hk : Keeps r₀ s) :
    ∀ s', execFollowerTick die s = .next s' → Keeps r₀ s' := by
  unfold execFollowerTick
  repeat' first
    | with_reducible assumption
    | with_reducible refine Keeps.next ?_
    | (extract_lets +onlyGivenNames x; clear_value x)
    | with_reducible apply State.setFollower_keeps

theorem State.syncMiss_keeps {r₀ s : State} (sp : Nat) (hk : Keeps r₀ s) :
    Keeps r₀ (s.syncMiss sp) := by
  unfold State.syncMiss
  repeat' first
    | with_reducible assumption
    | (extract_lets +onlyGivenNames x; clear_value (ex : x = _); have hx : Keeps r₀ x := ?_)
    | (extract_lets +onlyGivenNames x; clear_value x)
    | with_reducible apply State.setCsr_keeps
    | with_reducible apply State.tbFlag_keeps
    | with_reducible apply State.setFollower_keeps
    | with_reducible refine Keeps.cast (by assumption) ?_
    | split

theorem State.xSync_keeps {r₀ s : State} (h : Nat) (hk : Keeps r₀ s) :
    Keeps r₀ (s.xSync h) := by
  unfold State.xSync
  repeat' first
    | with_reducible assumption
    | with_reducible apply State.send_keeps
    | split

theorem execSyncPulse_keeps {r₀ s : State} (missed : List (Fin 72)) (hk : Keeps r₀ s) :
    ∀ s', execSyncPulse missed s = .next s' → Keeps r₀ s' := by
  unfold execSyncPulse
  repeat' first
    | with_reducible assumption
    | with_reducible refine fun _ _ (_ : Keeps r₀ _) => ?_
    | with_reducible refine Keeps.next ?_
    | with_reducible apply State.setFollower_keeps
    | with_reducible apply State.syncMiss_keeps
    | with_reducible apply State.xSync_keeps
    | with_reducible apply Keeps.foldl
    | split

end Sys2Proof.Machine
end

