-- ==== Sys2Proof/Laws/KeepsAccess.lean ====
section
/-! SUPPORT. What every operation and meaning keeps (`Keeps`): register accesses, host ports and the requests served at stops. -/

namespace Sys2Proof.Machine

open Sys2Proof

set_option maxRecDepth 4000

/-! ### CsrWrite -/

theorem State.csrStore_keeps {r₀ s : State} (r : RegHit) (may : Bool) (v : Word) (hk : Keeps r₀ s) :
    Keeps r₀ (s.csrStore r may v) := by
  unfold State.csrStore
  repeat' first
    | with_reducible assumption
    | with_reducible apply State.setCsr_keeps

theorem State.locClear_keeps {r₀ s : State} (low : Nat) (hit : Bool) (hk : Keeps r₀ s) :
    Keeps r₀ (s.locClear low hit) := by
  unfold State.locClear
  repeat' first
    | with_reducible assumption
    | with_reducible apply State.setCsr64_keeps
    | split

theorem State.mbxStatWrite_keeps {r₀ s : State} (m : MbxKind) (v : Word) (hk : Keeps r₀ s) :
    Keeps r₀ (s.mbxStatWrite m v) := by
  unfold State.mbxStatWrite
  repeat' first
    | with_reducible assumption
    | (extract_lets +onlyGivenNames x; clear_value (ex : x = _); have hx : Keeps r₀ x := ?_)
    | with_reducible apply State.setFld_keeps
    | with_reducible apply State.mbxRdyClear_keeps
    | with_reducible refine Keeps.cast (by assumption) ?_
    | split

theorem State.onlyS_keeps {r₀ s t : State} (may : Bool) (hk : Keeps r₀ s) (ht : Keeps r₀ t) :
    ∀ q, State.onlyS s t may = some q → Keeps r₀ q.1 := by
  unfold State.onlyS
  cases may
  · exact Keeps.some1 hk
  · exact Keeps.some1 ht

theorem State.hubWrite_keeps {r₀ s : State} (mid : Nat) (may : Bool) (r : RegHit) (v : Word) (hk : Keeps r₀ s) : ∀ q, s.hubWrite mid may r v = some q → Keeps r₀ q.1 := by
  unfold State.hubWrite
  extract_lets +onlyGivenNames h ok
  split
  all_goals first
    | exact Keeps.none
    | (try extract_lets -merge t
       first | (split <;> refine Keeps.some1 ?_) | refine State.onlyS_keeps _ hk ?_ | refine Keeps.some1 ?_)
  all_goals
    repeat' first
      | with_reducible assumption
      | with_reducible apply State.fwlCtlWrite_keeps
      | with_reducible apply State.fwlWinWrite_keeps
      | with_reducible apply State.locClear_keeps
      | with_reducible apply State.migCtlWrite_keeps
      | with_reducible apply State.cxlCtlWrite_keeps
      | with_reducible apply State.keyCmdWrite_keeps
      | with_reducible apply State.fenceGo_keeps
      | with_reducible apply State.rekeyWrite_keeps
      | with_reducible apply State.resealWrite_keeps
      | with_reducible apply State.rgnWrite_keeps
      | with_reducible apply State.rgnCfgWrite_keeps
      | with_reducible apply State.rgnKeysWrite_keeps
      | with_reducible apply State.qBaseWrite_keeps
      | with_reducible apply State.qCfgWrite_keeps
      | with_reducible apply State.qCfgBy_keeps
      | with_reducible apply State.qDoorbell_keeps
      | with_reducible apply State.qHeadWrite_keeps
      | with_reducible apply State.crcCtlWrite_keeps
      | with_reducible apply State.crcFoldWrite_keeps
      | with_reducible apply State.clkErrWrite_keeps
      | with_reducible apply State.cpllWrite_keeps
      | with_reducible apply State.domWrite_keeps
      | with_reducible apply State.penWrite_keeps
      | with_reducible apply State.coreCtlWrite_keeps
      | with_reducible apply State.coreService_keeps
      | with_reducible apply State.cpuCtlWrite_keeps
      | with_reducible apply State.semWrite_keeps
      | with_reducible apply State.setCsr_keeps
      | with_reducible apply State.mbxDoorbell_keeps
      | split

theorem State.hubZeroWrite_keeps {r₀ s : State} (mid : Nat) (may : Bool) (r : RegHit) (v : Word) (hk : Keeps r₀ s) : ∀ q, s.hubZeroWrite mid may r v = some q → Keeps r₀ q.1 := by
  unfold State.hubZeroWrite
  extract_lets +onlyGivenNames h ok
  split
  all_goals first
    | exact Keeps.none
    | (try extract_lets -merge t
       first | (split <;> refine Keeps.some1 ?_) | refine State.onlyS_keeps _ hk ?_ | refine Keeps.some1 ?_ | exact State.hubWrite_keeps _ _ _ _ hk)
  all_goals
    repeat' first
      | with_reducible assumption
      | with_reducible apply State.planWrite_keeps
      | with_reducible apply State.planCmd_keeps
      | with_reducible apply State.csrStore_keeps
      | with_reducible apply State.ringSlowClear_keeps
      | with_reducible apply State.linkCtlWrite_keeps
      | with_reducible apply State.tbIncrWrite_keeps
      | with_reducible apply State.tbAdjWrite_keeps
      | with_reducible apply State.cfgCmdWrite_keeps
      | with_reducible apply State.fabDoorbell_keeps
      | with_reducible apply State.mbxStatWrite_keeps
      | with_reducible apply State.mbxReqWrite_keeps
      | with_reducible apply State.prtPenWrite_keeps
      | with_reducible apply State.safeCtlWrite_keeps
      | with_reducible apply State.free_keeps
      | with_reducible apply State.safeService_keeps
      | with_reducible apply State.wakeEnWrite_keeps
      | with_reducible apply State.wtmrWrite_keeps
      | with_reducible apply State.dieGateWrite_keeps
      | with_reducible apply State.rstCtlWrite_keeps
      | with_reducible apply State.calCtlWrite_keeps
      | with_reducible apply State.setCsr_keeps
      | with_reducible apply State.mbxDoorbell_keeps
      | split

theorem State.portWrite_keeps {r₀ s : State} (mid : Nat) (may : Bool) (r : RegHit) (v : Word) (hk : Keeps r₀ s) : ∀ q, s.portWrite mid may r v = some q → Keeps r₀ q.1 := by
  unfold State.portWrite
  extract_lets +onlyGivenNames h ok
  split
  all_goals first
    | exact Keeps.none
    | (try extract_lets -merge t
       first | (split <;> refine Keeps.some1 ?_) | refine State.onlyS_keeps _ hk ?_ | refine Keeps.some1 ?_)
  all_goals
    repeat' first
      | with_reducible assumption
      | with_reducible apply State.pcieCfgWrite_keeps
      | with_reducible apply State.msixTableWrite_keeps
      | with_reducible apply State.mbxStatWrite_keeps
      | with_reducible apply State.csrStore_keeps
      | with_reducible apply State.msixEdges_keeps
      | with_reducible apply State.ethCfgWrite_keeps
      | with_reducible apply State.ethCommit_keeps
      | with_reducible apply State.gclCtlWrite_keeps
      | with_reducible apply State.steerWrite_keeps
      | with_reducible apply State.gclEntryWrite_keeps
      | with_reducible apply State.vcWrite_keeps
      | with_reducible apply State.crcCtlWrite_keeps
      | with_reducible apply State.crcFoldWrite_keeps
      | with_reducible apply State.setCsr_keeps
      | with_reducible apply State.mbxDoorbell_keeps
      | split

theorem State.ldcWrite_keeps {r₀ s : State} (may : Bool) (r : RegHit) (v : Word) (hk : Keeps r₀ s) : ∀ q, s.ldcWrite may r v = some q → Keeps r₀ q.1 := by
  unfold State.ldcWrite
  extract_lets +onlyGivenNames h ok
  split
  all_goals first
    | exact Keeps.none
    | (try extract_lets -merge t
       first | (split <;> refine Keeps.some1 ?_) | refine State.onlyS_keeps _ hk ?_ | refine Keeps.some1 ?_)
  all_goals
    repeat' first
      | with_reducible assumption
      | with_reducible apply State.snapReq_keeps
      | with_reducible apply State.localEnable_keeps
      | with_reducible apply State.csrStore_keeps
      | with_reducible apply State.probeCtlWrite_keeps
      | with_reducible apply State.traceCtlWrite_keeps
      | with_reducible apply State.probeSelWrite_keeps
      | with_reducible apply State.diagWrite_keeps
      | with_reducible apply State.sigErrWrite_keeps
      | with_reducible apply State.setCsr_keeps
      | with_reducible apply State.mbxDoorbell_keeps
      | split

theorem State.csrEffect_keeps {r₀ s : State} (mid : Nat) (may : Bool) (r : RegHit) (v : Word) (hk : Keeps r₀ s) :
    Keeps r₀ (s.csrEffect mid may r v).1 := by
  unfold State.csrEffect
  extract_lets own
  have ho : ∀ q, own = some q → Keeps r₀ q.1 := by
    simp only [own]
    split
    · exact State.hubWrite_keeps _ _ _ _ hk
    · exact State.hubZeroWrite_keeps _ _ _ _ hk
    · exact State.portWrite_keeps _ _ _ _ hk
    · exact State.ldcWrite_keeps _ _ _ hk
    · exact Keeps.none
  cases h : own with
  | none => exact State.csrStore_keeps _ _ _ hk
  | some q => exact ho q h

theorem State.wordWrite_keeps {r₀ s : State} (mid : Nat) (r : RegHit) (v : Word) (hk : Keeps r₀ s) :
    Keeps r₀ (s.wordWrite mid r v).1 := by
  unfold State.wordWrite
  repeat' first
    | with_reducible assumption
    | (extract_lets +onlyGivenNames x; clear_value (ex : x = _); have hx : Keeps r₀ x.1 := ?_)
    | (extract_lets +onlyGivenNames x; clear_value x)
    | with_reducible apply State.dropLatches_keeps
    | with_reducible apply State.csrEffect_keeps
    | with_reducible refine Keeps.cast1 (by assumption) ?_
    | split

theorem State.csrWrite_keeps {r₀ s : State} (mid key : Nat) (v : Word) (hk : Keeps r₀ s) :
    Keeps r₀ (s.csrWrite mid key v).1 := by
  unfold State.csrWrite
  repeat' first
    | with_reducible assumption
    | with_reducible apply State.wordWrite_keeps
    | split

theorem State.csrWrite64_keeps {r₀ s : State} (mid key : Nat) (v : DWord) (hk : Keeps r₀ s) :
    Keeps r₀ (s.csrWrite64 mid key v).1 := by
  unfold State.csrWrite64
  repeat' first
    | with_reducible assumption
    | (extract_lets +onlyGivenNames x; clear_value (ex : x = _); have hx : Keeps r₀ x.1 := ?_)
    | with_reducible apply State.dropLatches_keeps
    | with_reducible apply State.dieGateWrite_keeps
    | with_reducible apply State.tbIncrWrite_keeps
    | with_reducible apply State.wordWrite_keeps
    | with_reducible refine Keeps.cast1 (by assumption) ?_
    | split

theorem execRegisterWrite_keeps {r₀ s : State} (mid : BitVec 12) (key : BitVec 32) (value : Word) (hk : Keeps r₀ s) :
    ∀ s', execRegisterWrite mid key value s = .next s' → Keeps r₀ s' := by
  unfold execRegisterWrite
  repeat' first
    | with_reducible assumption
    | with_reducible refine Keeps.next ?_
    | with_reducible apply answerWrite_keeps
    | with_reducible apply State.csrWrite_keeps
    | split

/-! ### CsrRead -/

theorem State.remain_keeps {r₀ s : State} (timeout : Nat) (hk : Keeps r₀ s) :
    Keeps r₀ (s.remain timeout).2 := by
  unfold State.remain
  repeat' first
    | with_reducible assumption
    | (extract_lets +onlyGivenNames x; clear_value (ex : x = _); have hx : Keeps r₀ x.2 := ?_)
    | with_reducible apply State.free_keeps
    | with_reducible refine Keeps.cast2 (by assumption) ?_

theorem State.coreStat_keeps {r₀ s : State} (h c : Nat) (hk : Keeps r₀ s) :
    Keeps r₀ (s.coreStat h c).2 := by
  unfold State.coreStat
  repeat' first
    | with_reducible assumption
    | (extract_lets +onlyGivenNames x; clear_value (ex : x = _); have hx : Keeps r₀ x.2 := ?_)
    | (extract_lets +onlyGivenNames x; clear_value x)
    | with_reducible apply State.remain_keeps
    | with_reducible refine Keeps.cast2 (by assumption) ?_
    | split

theorem State.safeStat_keeps {r₀ s : State} (hk : Keeps r₀ s) :
    Keeps r₀ (s.safeStat).2 := by
  unfold State.safeStat
  repeat' first
    | with_reducible assumption
    | (extract_lets +onlyGivenNames x; clear_value (ex : x = _); have hx : Keeps r₀ x.2 := ?_)
    | with_reducible apply State.free_keeps
    | with_reducible apply State.remain_keeps
    | with_reducible refine Keeps.cast2 (by assumption) ?_
    | split

theorem State.hubView_keeps {r₀ s : State} (mid : Nat) (r : RegHit) (hk : Keeps r₀ s) :
    Keeps r₀ (s.hubView mid r).2 := by
  unfold State.hubView
  repeat' first
    | with_reducible assumption
    | (extract_lets +onlyGivenNames x; clear_value x)
    | with_reducible apply State.coreStat_keeps
    | split

theorem State.view_keeps {r₀ s : State} (mid : Nat) (r : RegHit) (hk : Keeps r₀ s) :
    Keeps r₀ (s.view mid r).2 := by
  unfold State.view
  repeat' first
    | with_reducible assumption
    | with_reducible apply State.safeStat_keeps
    | with_reducible apply State.hubView_keeps
    | split

theorem State.readEffect_keeps {r₀ s : State} (mid : Nat) (r : RegHit) (hk : Keeps r₀ s) :
    Keeps r₀ (s.readEffect mid r) := by
  unfold State.readEffect
  repeat' first
    | with_reducible assumption
    | with_reducible apply State.qEvtPop_keeps
    | with_reducible apply State.semRead_keeps
    | with_reducible apply State.txstPop_keeps
    | split

theorem State.wordRead_keeps {r₀ s : State} (mid : Nat) (r : RegHit) (dbg : Bool) (hk : Keeps r₀ s) :
    Keeps r₀ (s.wordRead mid r dbg).2 := by
  unfold State.wordRead
  repeat' first
    | with_reducible assumption
    | (extract_lets +onlyGivenNames x; clear_value (ex : x = _); have hx : Keeps r₀ x := ?_)
    | (extract_lets +onlyGivenNames x; clear_value (ex : x = _); have hx : Keeps r₀ x.2 := ?_)
    | with_reducible apply State.dropLatches_keeps
    | with_reducible apply State.view_keeps
    | with_reducible apply State.readEffect_keeps
    | with_reducible refine Keeps.cast (by assumption) ?_
    | with_reducible refine Keeps.cast2 (by assumption) ?_
    | split
    | fail_if_no_progress (with_reducible apply Keeps.upd)

theorem State.csrRead_keeps {r₀ s : State} (mid key : Nat) (dbg : Bool) (hk : Keeps r₀ s) :
    Keeps r₀ (s.csrRead mid key dbg).2 := by
  unfold State.csrRead
  repeat' first
    | with_reducible assumption
    | with_reducible apply State.wordRead_keeps
    | split

theorem State.csrRead64_keeps {r₀ s : State} (mid key : Nat) (dbg : Bool) (hk : Keeps r₀ s) :
    Keeps r₀ (s.csrRead64 mid key dbg).2 := by
  unfold State.csrRead64
  repeat' first
    | with_reducible assumption
    | (extract_lets +onlyGivenNames x; clear_value (ex : x = _); have hx : Keeps r₀ x.2 := ?_)
    | (extract_lets +onlyGivenNames x; clear_value x)
    | with_reducible apply State.view_keeps
    | with_reducible apply State.readEffect_keeps
    | with_reducible refine Keeps.cast2 (by assumption) ?_
    | split

theorem execLowWordRead_keeps {r₀ s : State} (mid : BitVec 12) (key : BitVec 32) (dbg : Bool) (hk : Keeps r₀ s) :
    ∀ s', execLowWordRead mid key dbg s = .next s' → Keeps r₀ s' := by
  unfold execLowWordRead
  repeat' first
    | with_reducible assumption
    | with_reducible refine Keeps.next ?_
    | (extract_lets +onlyGivenNames x; clear_value (ex : x = _); have hx : Keeps r₀ x.2 := ?_)
    | with_reducible apply State.send_keeps
    | with_reducible apply answerWrite_keeps
    | with_reducible apply State.csrRead_keeps
    | with_reducible refine Keeps.cast2 (by assumption) ?_
    | split

/-! ### HostPort -/

theorem State.tileMemRead_keeps {r₀ s : State} (site t w : Nat) (hk : Keeps r₀ s) :
    Keeps r₀ (s.tileMemRead site t w).2.2 := by
  unfold State.tileMemRead
  repeat' first
    | with_reducible assumption
    | (extract_lets +onlyGivenNames x; clear_value x)
    | with_reducible apply State.tileCount_keeps
    | with_reducible apply State.tileRead_keeps
    | split

theorem State.tileMemWrite_keeps {r₀ s : State} (site t w lo : Nat) (bs : List PByte) (hk : Keeps r₀ s) :
    Keeps r₀ (s.tileMemWrite site t w lo bs) := by
  unfold State.tileMemWrite
  repeat' first
    | with_reducible assumption
    | (extract_lets +onlyGivenNames x; clear_value x)
    | with_reducible apply State.setTword_keeps
    | split
    | fail_if_no_progress (with_reducible apply Keeps.upd)

theorem State.tileMem_keeps {r₀ s : State} (stop : Nat) (p : ReqPkt) (site t off : Nat) (hk : Keeps r₀ s) :
    Keeps r₀ (s.tileMem stop p site t off) := by
  unfold State.tileMem
  repeat' first
    | with_reducible assumption
    | intro _
    | (extract_lets +onlyGivenNames x; clear_value (ex : x = _); have hx : Keeps r₀ x.2 := ?_)
    | (extract_lets +onlyGivenNames x; clear_value (ex : x = _); have hx : Keeps r₀ x.2.2 := ?_)
    | (extract_lets +onlyGivenNames x; clear_value x)
    | with_reducible apply State.reply_keeps
    | with_reducible apply State.tileMemRead_keeps
    | with_reducible apply State.tileMemWrite_keeps
    | with_reducible apply Keeps.foldl
    | with_reducible apply Keeps.foldl2
    | with_reducible refine Keeps.cast2 (by assumption) ?_
    | with_reducible refine Keeps.cast3 (by assumption) ?_
    | split

theorem State.agWrite_keeps {r₀ s : State} (site t n : Nat) (g : AddrGen) (hk : Keeps r₀ s) :
    Keeps r₀ (s.agWrite site t n g) := by
  unfold State.agWrite
  repeat' first
    | with_reducible assumption
    | (extract_lets +onlyGivenNames x; clear_value x)
    | with_reducible apply State.setTile_keeps
    | with_reducible apply State.setFrameBits_keeps
    | split

theorem State.startPcWrite_keeps {r₀ s : State} (site t : Nat) (v : Word) (hk : Keeps r₀ s) :
    Keeps r₀ (s.startPcWrite site t v) := by
  unfold State.startPcWrite
  repeat' first
    | with_reducible assumption
    | (extract_lets +onlyGivenNames x; clear_value x)
    | with_reducible apply State.setTile_keeps

theorem State.tileRegWrite_keeps {r₀ s : State} (site t off : Nat) (v : Word) (hk : Keeps r₀ s) :
    Keeps r₀ (s.tileRegWrite site t off v).1 := by
  unfold State.tileRegWrite
  repeat' first
    | with_reducible assumption
    | (extract_lets +onlyGivenNames x; clear_value (ex : x = _); have hx : Keeps r₀ x := ?_)
    | (extract_lets +onlyGivenNames x; clear_value x)
    | with_reducible apply State.setTile_keeps
    | with_reducible apply State.tileGo_keeps
    | with_reducible apply State.tileStop_keeps
    | with_reducible apply State.tileResume_keeps
    | with_reducible apply State.agWrite_keeps
    | with_reducible apply State.startPcWrite_keeps
    | with_reducible refine Keeps.cast (by assumption) ?_
    | split

theorem State.tileReg_keeps {r₀ s : State} (stop : Nat) (p : ReqPkt) (site t off : Nat) (hk : Keeps r₀ s) : Keeps r₀ (s.tileReg stop p site t off) := by
  unfold State.tileReg
  extract_lets len mid x wide key answer t1 r
  have ha : ∀ t v, Keeps r₀ t → Keeps r₀ (answer t v) := fun t v ht => State.reply_keeps _ _ _ _ _ _ ht
  have ht : Keeps r₀ t1 := State.dropLatches_keeps _ _ hk
  have hr : Keeps r₀ r.1 := State.tileRegWrite_keeps _ _ _ _ (State.dropLatches_keeps _ _ hk)
  repeat' first
    | with_reducible assumption
    | with_reducible apply State.reply_keeps
    | with_reducible apply State.dropLatches_keeps
    | with_reducible apply ha
    | split
    | with_reducible exact Keeps.upd ht

theorem State.tileServe_keeps {r₀ s : State} (stop : Nat) (p : ReqPkt) (hk : Keeps r₀ s) :
    Keeps r₀ (s.tileServe stop p) := by
  unfold State.tileServe
  repeat' first
    | with_reducible assumption
    | (extract_lets +onlyGivenNames x; clear_value x)
    | with_reducible apply State.reply_keeps
    | with_reducible apply State.tileMem_keeps
    | with_reducible apply State.tileReg_keeps
    | split

/-! ### Serve -/

theorem State.answerRead_keeps {r₀ s : State} (stop : Nat) (p : ReqPkt) (r : CsrRead) (hk : Keeps r₀ s) :
    Keeps r₀ (s.answerRead stop p r) := by
  unfold State.answerRead
  repeat' first
    | with_reducible assumption
    | (extract_lets +onlyGivenNames x; clear_value x)
    | with_reducible apply State.reply_keeps
    | split

theorem State.csrReadLen_keeps {r₀ s : State} (p : ReqPkt) (key : Nat) (dbg : Bool) (hk : Keeps r₀ s) :
    Keeps r₀ (s.csrReadLen p key dbg).2 := by
  unfold State.csrReadLen
  repeat' first
    | with_reducible assumption
    | with_reducible apply State.csrRead_keeps
    | with_reducible apply State.csrRead64_keeps
    | split

theorem State.csrWriteLen_keeps {r₀ s : State} (p : ReqPkt) (key v : Nat) (hk : Keeps r₀ s) :
    Keeps r₀ (s.csrWriteLen p key v).1 := by
  unfold State.csrWriteLen
  repeat' first
    | with_reducible assumption
    | with_reducible apply State.csrWrite_keeps
    | with_reducible apply State.csrWrite64_keeps
    | split

theorem State.csrServe_keeps {r₀ s : State} (stop : Nat) (p : ReqPkt) (key : Nat) (atomics : Bool) (hk : Keeps r₀ s) :
    Keeps r₀ (s.csrServe stop p key atomics) := by
  unfold State.csrServe
  repeat' first
    | with_reducible assumption
    | (extract_lets +onlyGivenNames x; clear_value (ex : x = _); have hx : Keeps r₀ x.1 := ?_)
    | (extract_lets +onlyGivenNames x; clear_value (ex : x = _); have hx : Keeps r₀ x.2 := ?_)
    | (extract_lets +onlyGivenNames x; clear_value x)
    | with_reducible apply State.reply_keeps
    | with_reducible apply State.answerRead_keeps
    | with_reducible apply State.csrReadLen_keeps
    | with_reducible apply State.csrWriteLen_keeps
    | with_reducible refine Keeps.cast1 (by assumption) ?_
    | with_reducible refine Keeps.cast2 (by assumption) ?_
    | split

theorem State.freeBytes_keeps {r₀ s : State} (n : Nat) (hk : Keeps r₀ s) : Keeps r₀ (s.freeBytes n).2 := by
  induction n generalizing s with
  | zero => exact hk
  | succ n ih => exact ih (State.free_keeps hk)

theorem State.crcServe_keeps {r₀ s : State} (stop : Nat) (p : ReqPkt) (u : CrcUnit) (key : Nat) (hk : Keeps r₀ s) :
    Keeps r₀ (s.crcServe stop p u key) := by
  unfold State.crcServe
  repeat' first
    | with_reducible assumption
    | (extract_lets +onlyGivenNames x; clear_value (ex : x = _); have hx : Keeps r₀ x.1 := ?_)
    | (extract_lets +onlyGivenNames x; clear_value (ex : x = _); have hx : Keeps r₀ x.2 := ?_)
    | with_reducible apply State.reply_keeps
    | with_reducible apply State.crcData_keeps
    | with_reducible apply State.freeBytes_keeps
    | with_reducible refine Keeps.cast1 (by assumption) ?_
    | with_reducible refine Keeps.cast2 (by assumption) ?_
    | split

theorem State.portServe_keeps {r₀ s : State} (stop port : Nat) (p : ReqPkt) (hk : Keeps r₀ s) :
    Keeps r₀ (s.portServe stop port p) := by
  unfold State.portServe
  repeat' first
    | with_reducible assumption
    | (extract_lets +onlyGivenNames x; clear_value (ex : x = _); have hx : Keeps r₀ x.1 := ?_)
    | (extract_lets +onlyGivenNames x; clear_value x)
    | with_reducible apply State.reply_keeps
    | with_reducible apply State.pcieOutbound_keeps
    | with_reducible apply State.txWrite_keeps
    | with_reducible apply State.csrServe_keeps
    | with_reducible apply State.crcServe_keeps
    | with_reducible refine Keeps.cast1 (by assumption) ?_
    | split

theorem State.hubServe_keeps {r₀ s : State} (stop h : Nat) (p : ReqPkt) (hk : Keeps r₀ s) :
    Keeps r₀ (s.hubServe stop h p) := by
  unfold State.hubServe
  repeat' first
    | with_reducible assumption
    | (extract_lets +onlyGivenNames x; clear_value x)
    | with_reducible apply State.reply_keeps
    | with_reducible apply State.csrServe_keeps
    | with_reducible apply State.crcServe_keeps
    | split

theorem State.msgServe_keeps {r₀ s : State} (stop : Nat) (p : ReqPkt) (hk : Keeps r₀ s) :
    Keeps r₀ (s.msgServe stop p) := by
  unfold State.msgServe
  repeat' first
    | with_reducible assumption
    | (extract_lets +onlyGivenNames x; clear_value x)
    | with_reducible apply State.reply_keeps
    | split
    | (extract_lets +onlyGivenNames x)
    | fail_if_no_progress (with_reducible apply Keeps.upd)

theorem State.targetServe_keeps {r₀ s : State} (stop : Nat) (p : ReqPkt) (hk : Keeps r₀ s) :
    Keeps r₀ (s.targetServe stop p) := by
  unfold State.targetServe
  repeat' first
    | with_reducible assumption
    | with_reducible apply State.reply_keeps
    | with_reducible apply State.gateRequest_keeps
    | with_reducible apply State.fwlTake_keeps
    | with_reducible apply State.mpeServe_keeps
    | with_reducible apply State.sramServe_keeps
    | with_reducible apply State.tileServe_keeps
    | with_reducible apply State.csrServe_keeps
    | with_reducible apply State.portServe_keeps
    | with_reducible apply State.hubServe_keeps
    | with_reducible apply State.msgServe_keeps
    | split

theorem State.request_keeps {r₀ s : State} (op stop : Nat) (p : ReqPkt) (hk : Keeps r₀ s) :
    Keeps r₀ (s.request op stop p) := by
  unfold State.request
  repeat' first
    | with_reducible assumption
    | with_reducible apply State.arrive_keeps
    | with_reducible apply State.targetServe_keeps
    | (with_reducible apply Keeps.snd; with_reducible assumption)
    | split

theorem execRead_keeps {r₀ s : State} (stop : Fin 512) (p : ReqPkt) (hk : Keeps r₀ s) :
    ∀ s', execRead stop p s = .next s' → Keeps r₀ s' := by
  unfold execRead
  repeat' first
    | with_reducible assumption
    | with_reducible refine Keeps.next ?_
    | with_reducible apply State.request_keeps

theorem execWrite_keeps {r₀ s : State} (stop : Fin 512) (p : ReqPkt) (hk : Keeps r₀ s) :
    ∀ s', execWrite stop p s = .next s' → Keeps r₀ s' := by
  unfold execWrite
  repeat' first
    | with_reducible assumption
    | with_reducible refine Keeps.next ?_
    | with_reducible apply State.request_keeps

theorem execSwap_keeps {r₀ s : State} (stop : Fin 512) (p : ReqPkt) (hk : Keeps r₀ s) :
    ∀ s', execSwap stop p s = .next s' → Keeps r₀ s' := by
  unfold execSwap
  repeat' first
    | with_reducible assumption
    | with_reducible refine Keeps.next ?_
    | with_reducible apply State.request_keeps

theorem execFadd_keeps {r₀ s : State} (stop : Fin 512) (p : ReqPkt) (hk : Keeps r₀ s) :
    ∀ s', execFadd stop p s = .next s' → Keeps r₀ s' := by
  unfold execFadd
  repeat' first
    | with_reducible assumption
    | with_reducible refine Keeps.next ?_
    | with_reducible apply State.request_keeps

theorem execCas_keeps {r₀ s : State} (stop : Fin 512) (p : ReqPkt) (hk : Keeps r₀ s) :
    ∀ s', execCas stop p s = .next s' → Keeps r₀ s' := by
  unfold execCas
  repeat' first
    | with_reducible assumption
    | with_reducible refine Keeps.next ?_
    | with_reducible apply State.request_keeps

theorem execMsg_keeps {r₀ s : State} (stop : Fin 512) (p : ReqPkt) (hk : Keeps r₀ s) :
    ∀ s', execMsg stop p s = .next s' → Keeps r₀ s' := by
  unfold execMsg
  repeat' first
    | with_reducible assumption
    | with_reducible refine Keeps.next ?_
    | with_reducible apply State.request_keeps

theorem execMtHostAccess_keeps {r₀ s : State} (stop : Fin 512) (p : ReqPkt) (hk : Keeps r₀ s) :
    ∀ s', execMtHostAccess stop p s = .next s' → Keeps r₀ s' := by
  unfold execMtHostAccess
  repeat' first
    | with_reducible assumption
    | with_reducible refine Keeps.next ?_
    | with_reducible apply State.request_keeps
    | split

theorem State.afterDeliver_keeps {r₀ s : State} (stop : Nat) (hk : Keeps r₀ s) :
    Keeps r₀ (s.afterDeliver stop) := by
  unfold State.afterDeliver
  repeat' first
    | with_reducible assumption
    | with_reducible apply State.cfgPump_keeps
    | with_reducible apply State.pcieRun_keeps
    | with_reducible apply State.memPump_keeps
    | with_reducible apply State.intakeRun_keeps
    | split

theorem execRequestIssue_keeps {r₀ s : State} (r : IssueReq) (hk : Keeps r₀ s) :
    ∀ s', execRequestIssue r s = .next s' → Keeps r₀ s' := by
  unfold execRequestIssue
  repeat' first
    | with_reducible assumption
    | with_reducible refine Keeps.next ?_
    | with_reducible apply State.issue_keeps
    | with_reducible apply State.afterDeliver_keeps

theorem execCompletion_keeps {r₀ s : State} (stop : Fin 512) (p : CplPkt) (hk : Keeps r₀ s) :
    ∀ s', execCompletion stop p s = .next s' → Keeps r₀ s' := by
  unfold execCompletion
  repeat' first
    | with_reducible assumption
    | with_reducible refine Keeps.next ?_
    | with_reducible apply State.complete_keeps
    | with_reducible apply State.afterDeliver_keeps

theorem execTransactionTimeout_keeps {r₀ s : State} (stop : Fin 512) (tag : Fin 8192) (hk : Keeps r₀ s) :
    ∀ s', execTransactionTimeout stop tag s = .next s' → Keeps r₀ s' := by
  unfold execTransactionTimeout
  repeat' first
    | with_reducible assumption
    | with_reducible refine Keeps.next ?_
    | with_reducible apply State.timedOut_keeps
    | with_reducible apply State.afterDeliver_keeps

theorem State.bar0Put_keeps {r₀ s : State} (p o : Nat) (v : Word) (hk : Keeps r₀ s) :
    Keeps r₀ (s.bar0Put p o v) := by
  unfold State.bar0Put
  repeat' first
    | with_reducible assumption
    | (extract_lets +onlyGivenNames x; clear_value x)
    | with_reducible apply State.msixTableWrite_keeps
    | with_reducible apply State.mbxDoorbell_keeps
    | with_reducible apply State.mbxReqWrite_keeps
    | with_reducible apply State.mbxStatWrite_keeps
    | split

theorem State.pcieBar0_keeps {r₀ s : State} (p : Nat) (r : PcieReq) (hk : Keeps r₀ s) :
    Keeps r₀ (s.pcieBar0 p r) := by
  unfold State.pcieBar0
  repeat' first
    | with_reducible assumption
    | intro _
    | (extract_lets +onlyGivenNames x; clear_value x)
    | with_reducible apply State.send_keeps
    | with_reducible apply State.bar0Put_keeps
    | with_reducible apply Keeps.foldl
    | split

theorem execPcieInbound_keeps {r₀ s : State} (port : Fin 4) (r : PcieReq) (hk : Keeps r₀ s) :
    ∀ s', execPcieInbound port r s = .next s' → Keeps r₀ s' := by
  unfold execPcieInbound
  repeat' first
    | with_reducible assumption
    | with_reducible refine Keeps.next ?_
    | with_reducible apply State.pcieBar2_keeps
    | with_reducible apply State.pcieBar0_keeps
    | split

end Sys2Proof.Machine
end

