-- ==== Sys2Proof/Laws/KeepsExec.lean ====
section
/-! SUPPORT. What every command keeps: the rest of the queue, and the canonical form of the register store. -/

namespace Sys2Proof.Machine

open Sys2Proof

/-- A command leaves the queue behind it alone and keeps the register store canonical. -/
theorem exec_keeps {i : Instr} {s t : State} (h : exec i s = .next t) : Keeps s t := by
  cases i with
  | registerWrite => exact execRegisterWrite_keeps _ _ _ Keeps.self t h
  | lowWordRead => exact execLowWordRead_keeps _ _ _ Keeps.self t h
  | porst => exact execPorst_keeps _ Keeps.self t h
  | aoPor => exact execAoPor_keeps _ Keeps.self t h
  | sp0 => exact execSp0_keeps _ Keeps.self t h
  | sp1 => exact execSp1_keeps _ _ Keeps.self t h
  | sp2 => exact execSp2_keeps _ _ Keeps.self t h
  | sp3 => exact execSp3_keeps _ _ Keeps.self t h
  | sp4 => exact execSp4_keeps _ _ Keeps.self t h
  | sp5 => exact execSp5_keeps _ _ _ Keeps.self t h
  | sp6 => exact execSp6_keeps _ Keeps.self t h
  | sp7 => exact execSp7_keeps _ Keeps.self t h
  | imageStaging => exact execImageStaging_keeps _ _ Keeps.self t h
  | earlyAcreLoad => exact execEarlyAcreLoad_keeps Keeps.self t h
  | acreLoadBegin => exact execAcreLoadBegin_keeps _ Keeps.self t h
  | frameRecord => exact execFrameRecord_keeps _ Keeps.self t h
  | stage1 => exact execStage1_keeps _ Keeps.self t h
  | stage2 => exact execStage2_keeps _ Keeps.self t h
  | stage3 => exact execStage3_keeps _ Keeps.self t h
  | noClock => exact execNoClock_keeps _ Keeps.self t h
  | pass => exact execPass_keeps _ _ _ _ Keeps.self t h
  | ldk => exact execLdk_keeps _ _ _ _ Keeps.self t h
  | add => exact execAdd_keeps _ _ _ _ Keeps.self t h
  | adc => exact execAdc_keeps _ _ _ _ Keeps.self t h
  | sub => exact execSub_keeps _ _ _ _ Keeps.self t h
  | sbc => exact execSbc_keeps _ _ _ _ Keeps.self t h
  | cmp => exact execCmp_keeps _ _ _ _ Keeps.self t h
  | minu => exact execMinu_keeps _ _ _ _ Keeps.self t h
  | maxu => exact execMaxu_keeps _ _ _ _ Keeps.self t h
  | mins => exact execMins_keeps _ _ _ _ Keeps.self t h
  | maxs => exact execMaxs_keeps _ _ _ _ Keeps.self t h
  | and => exact execAnd_keeps _ _ _ _ Keeps.self t h
  | or => exact execOr_keeps _ _ _ _ Keeps.self t h
  | xor => exact execXor_keeps _ _ _ _ Keeps.self t h
  | andn => exact execAndn_keeps _ _ _ _ Keeps.self t h
  | shl => exact execShl_keeps _ _ _ _ Keeps.self t h
  | shr => exact execShr_keeps _ _ _ _ Keeps.self t h
  | sar => exact execSar_keeps _ _ _ _ Keeps.self t h
  | rol => exact execRol_keeps _ _ _ _ Keeps.self t h
  | ror => exact execRor_keeps _ _ _ _ Keeps.self t h
  | sel => exact execSel_keeps _ _ _ _ Keeps.self t h
  | pack => exact execPack_keeps _ _ _ _ Keeps.self t h
  | unpkl => exact execUnpkl_keeps _ _ _ _ Keeps.self t h
  | unpkh => exact execUnpkh_keeps _ _ _ _ Keeps.self t h
  | reservedOpc => exact execReservedOpc_keeps _ _ _ _ Keeps.self t h
  | synchronousClear => exact execSynchronousClear_keeps _ _ _ _ Keeps.self t h
  | grainEdge => exact execGrainEdge_keeps _ _ _ _ Keeps.self t h
  | cubitSnapReq => exact execCubitSnapReq_keeps _ Keeps.self t h
  | cubitSnapshot => exact execCubitSnapshot_keeps _ _ Keeps.self t h
  | stale => exact execStale_keeps _ Keeps.self t h
  | chanSlip => exact execChanSlip_keeps _ _ _ _ Keeps.self t h
  | pclkUnlock => exact execPclkUnlock_keeps _ _ Keeps.self t h
  | pclkRelock => exact execPclkRelock_keeps _ _ Keeps.self t h
  | lclkEnWrite => exact execLclkEnWrite_keeps _ _ _ Keeps.self t h
  | probeSelWrite => exact execProbeSelWrite_keeps _ _ _ Keeps.self t h
  | probeLaneChange => exact execProbeLaneChange_keeps _ _ _ Keeps.self t h
  | probeCtlWrite => exact execProbeCtlWrite_keeps _ _ Keeps.self t h
  | traceArm => exact execTraceArm_keeps _ _ Keeps.self t h
  | traceEntryWrite => exact execTraceEntryWrite_keeps _ _ Keeps.self t h
  | swTrig => exact execSwTrig_keeps _ Keeps.self t h
  | fabricTrigger => exact execFabricTrigger_keeps _ Keeps.self t h
  | networkTrigger => exact execNetworkTrigger_keeps _ _ Keeps.self t h
  | stopped => exact execStopped_keeps _ Keeps.self t h
  | bushelRead => exact execBushelRead_keeps _ _ _ Keeps.self t h
  | bushelWrite => exact execBushelWrite_keeps _ _ _ Keeps.self t h
  | clear => exact execClear_keeps _ _ _ Keeps.self t h
  | scrubRow => exact execScrubRow_keeps _ _ _ Keeps.self t h
  | scrubWriteBack => exact execScrubWriteBack_keeps _ _ _ Keeps.self t h
  | diagGo => exact execDiagGo_keeps _ _ _ Keeps.self t h
  | diagAccess => exact execDiagAccess_keeps _ _ Keeps.self t h
  | diagTimeout => exact execDiagTimeout_keeps _ Keeps.self t h
  | go => exact execGo_keeps _ _ _ Keeps.self t h
  | stop => exact execStop_keeps _ _ Keeps.self t h
  | tileStopHalt => exact execTileStopHalt_keeps _ _ Keeps.self t h
  | resume => exact execResume_keeps _ _ Keeps.self t h
  | mtNop => exact execMtNop_keeps _ _ Keeps.self t h
  | mul => exact execMul_keeps _ _ Keeps.self t h
  | mac => exact execMac_keeps _ _ Keeps.self t h
  | msu => exact execMsu_keeps _ _ Keeps.self t h
  | clra => exact execClra_keeps _ _ Keeps.self t h
  | lda => exact execLda_keeps _ _ Keeps.self t h
  | mova => exact execMova_keeps _ _ Keeps.self t h
  | movac => exact execMovac_keeps _ _ Keeps.self t h
  | movx => exact execMovx_keeps _ _ Keeps.self t h
  | norm => exact execNorm_keeps _ _ Keeps.self t h
  | exp => exact execExp_keeps _ _ Keeps.self t h
  | bexp => exact execBexp_keeps _ _ Keeps.self t h
  | setbe => exact execSetbe_keeps _ _ Keeps.self t h
  | movbe => exact execMovbe_keeps _ _ Keeps.self t h
  | rep => exact execRep_keeps _ _ Keeps.self t h
  | setag => exact execSetag_keeps _ _ Keeps.self t h
  | halt => exact execHalt_keeps _ _ Keeps.self t h
  | streamWord => exact execStreamWord_keeps _ _ _ _ _ Keeps.self t h
  | mtHostAccess => exact execMtHostAccess_keeps _ _ Keeps.self t h
  | read => exact execRead_keeps _ _ Keeps.self t h
  | write => exact execWrite_keeps _ _ Keeps.self t h
  | swap => exact execSwap_keeps _ _ Keeps.self t h
  | fadd => exact execFadd_keeps _ _ Keeps.self t h
  | cas => exact execCas_keeps _ _ Keeps.self t h
  | msg => exact execMsg_keeps _ _ Keeps.self t h
  | incompleteTimeout => exact execIncompleteTimeout_keeps _ _ _ _ Keeps.self t h
  | requestIssue => exact execRequestIssue_keeps _ Keeps.self t h
  | flitAtStop => exact execFlitAtStop_keeps _ Keeps.self t h
  | completion => exact execCompletion_keeps _ _ Keeps.self t h
  | transactionTimeout => exact execTransactionTimeout_keeps _ _ Keeps.self t h
  | tagRelease => exact execTagRelease_keeps _ _ Keeps.self t h
  | rateWindow => exact execRateWindow_keeps _ _ Keeps.self t h
  | ringSlowClear => exact execRingSlowClear_keeps _ _ Keeps.self t h
  | planEntryWrite => exact execPlanEntryWrite_keeps _ _ Keeps.self t h
  | commit => exact execCommit_keeps _ _ _ Keeps.self t h
  | copy => exact execCopy_keeps _ _ Keeps.self t h
  | planActive => exact execPlanActive_keeps Keeps.self t h
  | transitIslandFail => exact execTransitIslandFail_keeps _ Keeps.self t h
  | trsp => exact execTrsp_keeps _ _ _ Keeps.self t h
  | gateTreqTimeout => exact execGateTreqTimeout_keeps _ _ _ Keeps.self t h
  | ireq => exact execIreq_keeps _ _ _ _ Keeps.self t h
  | dataGroup => exact execDataGroup_keeps _ _ _ Keeps.self t h
  | ack => exact execAck_keeps _ _ _ Keeps.self t h
  | nak => exact execNak_keeps _ _ _ Keeps.self t h
  | replay => exact execReplay_keeps _ _ _ _ _ Keeps.self t h
  | ackTimer => exact execAckTimer_keeps _ _ Keeps.self t h
  | ackTimeout => exact execAckTimeout_keeps _ _ Keeps.self t h
  | strobeLoss => exact execStrobeLoss_keeps _ _ Keeps.self t h
  | strobesSeen => exact execStrobesSeen_keeps _ Keeps.self t h
  | calibrate => exact execCalibrate_keeps _ _ _ _ Keeps.self t h
  | map => exact execMap_keeps _ _ _ _ Keeps.self t h
  | confirm => exact execConfirm_keeps _ Keeps.self t h
  | peerAbsent => exact execPeerAbsent_keeps _ Keeps.self t h
  | retrainAttempt => exact execRetrainAttempt_keeps _ Keeps.self t h
  | retrain => exact execRetrain_keeps _ _ Keeps.self t h
  | fwlInboundRequest => exact execFwlInboundRequest_keeps _ _ _ Keeps.self t h
  | fwlRateTick => exact execFwlRateTick_keeps _ Keeps.self t h
  | fwlInboundCompletion => exact execFwlInboundCompletion_keeps _ _ Keeps.self t h
  | fwlOutboundRequest => exact execFwlOutboundRequest_keeps _ _ _ Keeps.self t h
  | fence => exact execFence_keeps _ _ _ Keeps.self t h
  | badWindow => exact execBadWindow_keeps _ _ _ _ Keeps.self t h
  | dmcLineRead => exact execDmcLineRead_keeps _ _ _ _ _ _ _ Keeps.self t h
  | dmcLineWrite => exact execDmcLineWrite_keeps _ _ _ _ Keeps.self t h
  | readModifyWrite => exact execReadModifyWrite_keeps _ _ _ _ Keeps.self t h
  | drfmsb => exact execDrfmsb_keeps _ _ _ _ Keeps.self t h
  | refreshInterval => exact execRefreshInterval_keeps _ Keeps.self t h
  | refsb => exact execRefsb_keeps _ _ _ _ Keeps.self t h
  | mr4Read => exact execMr4Read_keeps _ _ Keeps.self t h
  | rowIdleClose => exact execRowIdleClose_keeps _ _ _ _ Keeps.self t h
  | caRetry => exact execCaRetry_keeps _ _ _ _ Keeps.self t h
  | start => exact execStart_keeps _ _ _ Keeps.self t h
  | migrationLineCopy => exact execMigrationLineCopy_keeps _ _ Keeps.self t h
  | cxlRequest => exact execCxlRequest_keeps _ _ _ _ Keeps.self t h
  | drs => exact execDrs_keeps _ _ _ _ Keeps.self t h
  | cxlLinkDown => exact execCxlLinkDown_keeps _ _ Keeps.self t h
  | cxlEn => exact execCxlEn_keeps _ _ _ _ Keeps.self t h
  | cxlFenceClear => exact execCxlFenceClear_keeps _ _ _ Keeps.self t h
  | wcbHoldExpiry => exact execWcbHoldExpiry_keeps _ Keeps.self t h
  | treeScrub => exact execTreeScrub_keeps _ _ Keeps.self t h
  | mpeKeyLoad => exact execMpeKeyLoad_keeps _ _ _ Keeps.self t h
  | mpeKeyErase => exact execMpeKeyErase_keeps _ _ _ Keeps.self t h
  | regionEnable => exact execRegionEnable_keeps _ _ _ _ Keeps.self t h
  | initBusy => exact execInitBusy_keeps _ _ Keeps.self t h
  | disabling => exact execDisabling_keeps _ _ _ _ Keeps.self t h
  | regionDisabled => exact execRegionDisabled_keeps _ _ Keeps.self t h
  | resealGo => exact execResealGo_keeps _ _ _ Keeps.self t h
  | resealDone => exact execResealDone_keeps _ Keeps.self t h
  | rekeyStart => exact execRekeyStart_keeps _ _ _ Keeps.self t h
  | rekeyGranule => exact execRekeyGranule_keeps _ _ Keeps.self t h
  | mpeFenceGo => exact execMpeFenceGo_keeps _ _ _ Keeps.self t h
  | mpeFenceDone => exact execMpeFenceDone_keeps _ Keeps.self t h
  | doorbell => exact execDoorbell_keeps _ _ _ _ Keeps.self t h
  | cqhWrite => exact execCqhWrite_keeps _ _ _ _ Keeps.self t h
  | descriptorFetch => exact execDescriptorFetch_keeps _ _ _ Keeps.self t h
  | qeTransactionIssue => exact execQeTransactionIssue_keeps _ _ _ Keeps.self t h
  | qeTransactionDone => exact execQeTransactionDone_keeps _ _ Keeps.self t h
  | completionRecordWrite => exact execCompletionRecordWrite_keeps _ _ _ Keeps.self t h
  | qeCqErr => exact execQeCqErr_keeps _ _ Keeps.self t h
  | queueEnable => exact execQueueEnable_keeps _ _ _ _ Keeps.self t h
  | queueDisable => exact execQueueDisable_keeps _ _ _ _ Keeps.self t h
  | queueResume => exact execQueueResume_keeps _ _ _ _ Keeps.self t h
  | retry => exact execRetry_keeps _ _ _ _ Keeps.self t h
  | qeEvtFifoPop => exact execQeEvtFifoPop_keeps _ _ Keeps.self t h
  | tbTick => exact execTbTick_keeps Keeps.self t h
  | tbIncrWrite => exact execTbIncrWrite_keeps _ _ Keeps.self t h
  | step => exact execStep_keeps _ _ Keeps.self t h
  | slew => exact execSlew_keeps _ _ Keeps.self t h
  | syncPulse => exact execSyncPulse_keeps _ Keeps.self t h
  | followerTick => exact execFollowerTick_keeps _ Keeps.self t h
  | pcieInbound => exact execPcieInbound_keeps _ _ Keeps.self t h
  | pcieOutbound => exact execPcieOutbound_keeps _ _ Keeps.self t h
  | pcieConfigRetry => exact execPcieConfigRetry_keeps _ Keeps.self t h
  | mbxDoorbell => exact execMbxDoorbell_keeps _ _ Keeps.self t h
  | mbxReply => exact execMbxReply_keeps _ Keeps.self t h
  | rdyClear => exact execRdyClear_keeps _ Keeps.self t h
  | ethRxFrame => exact execEthRxFrame_keeps _ _ _ _ _ Keeps.self t h
  | frerReset => exact execFrerReset_keeps _ _ Keeps.self t h
  | ethCommit => exact execEthCommit_keeps _ _ _ _ Keeps.self t h
  | ethTxFrame => exact execEthTxFrame_keeps _ _ Keeps.self t h
  | ethTxDone => exact execEthTxDone_keeps _ _ Keeps.self t h
  | ethTxstPop => exact execEthTxstPop_keeps _ _ _ Keeps.self t h
  | gclChange => exact execGclChange_keeps _ _ _ _ Keeps.self t h
  | gclSwitch => exact execGclSwitch_keeps _ _ Keeps.self t h
  | fs => exact execFs_keeps _ _ _ _ _ Keeps.self t h
  | line => exact execLine_keeps _ _ _ _ _ _ _ _ Keeps.self t h
  | fe => exact execFe_keeps _ _ _ _ Keeps.self t h
  | frameTo => exact execFrameTo_keeps _ _ _ Keeps.self t h
  | ctxStreamWord => exact execCtxStreamWord_keeps _ _ _ Keeps.self t h
  | ctxPacketSend => exact execCtxPacketSend_keeps _ _ Keeps.self t h
  | crcStart => exact execCrcStart_keeps _ _ _ Keeps.self t h
  | crcDataWrite => exact execCrcDataWrite_keeps _ _ _ _ Keeps.self t h
  | release => exact execRelease_keeps _ _ _ Keeps.self t h
  | cfgOpLoad => exact execCfgOpLoad_keeps _ Keeps.self t h
  | quiescenceEnd => exact execQuiescenceEnd_keeps _ Keeps.self t h
  | cfgOpUnload => exact execCfgOpUnload_keeps _ Keeps.self t h
  | cfgOpRelocate => exact execCfgOpRelocate_keeps _ Keeps.self t h
  | cfgOpReadback => exact execCfgOpReadback_keeps _ Keeps.self t h
  | cfgOpHostPrep => exact execCfgOpHostPrep_keeps _ Keeps.self t h
  | cfgOpRetire => exact execCfgOpRetire_keeps _ Keeps.self t h
  | cfgCheck => exact execCfgCheck_keeps _ Keeps.self t h
  | writeFrame => exact execWriteFrame_keeps _ _ Keeps.self t h
  | readFrame => exact execReadFrame_keeps _ _ Keeps.self t h
  | frameErr => exact execFrameErr_keeps _ Keeps.self t h
  | cmdpktUpdateDr => exact execCmdpktUpdateDr_keeps _ _ Keeps.self t h
  | cmdpktCaptureDr => exact execCmdpktCaptureDr_keeps Keeps.self t h
  | fabDoorbell => exact execFabDoorbell_keeps _ _ Keeps.self t h
  | commandCompletion => exact execCommandCompletion_keeps _ _ Keeps.self t h
  | nop => exact execNop_keeps Keeps.self t h
  | getId => exact execGetId_keeps Keeps.self t h
  | getVersion => exact execGetVersion_keeps Keeps.self t h
  | getState => exact execGetState_keeps Keeps.self t h
  | getErrlog => exact execGetErrlog_keeps Keeps.self t h
  | clrErrlog => exact execClrErrlog_keeps Keeps.self t h
  | cfgLoad => exact execCfgLoad_keeps Keeps.self t h
  | cfgData => exact execCfgData_keeps Keeps.self t h
  | cfgUnload => exact execCfgUnload_keeps Keeps.self t h
  | cfgRelocate => exact execCfgRelocate_keeps Keeps.self t h
  | cfgReadback => exact execCfgReadback_keeps Keeps.self t h
  | hostPrep => exact execHostPrep_keeps Keeps.self t h
  | retireDie => exact execRetireDie_keeps Keeps.self t h
  | cfgStatus => exact execCfgStatus_keeps Keeps.self t h
  | memRead => exact execMemRead_keeps Keeps.self t h
  | memWrite => exact execMemWrite_keeps Keeps.self t h
  | rankMigrate => exact execRankMigrate_keeps Keeps.self t h
  | resealRange => exact execResealRange_keeps Keeps.self t h
  | keyLoad => exact execKeyLoad_keeps Keeps.self t h
  | keyErase => exact execKeyErase_keeps Keeps.self t h
  | keyGenerate => exact execKeyGenerate_keeps _ Keeps.self t h
  | rightsSet => exact execRightsSet_keeps Keeps.self t h
  | fwlWindow => exact execFwlWindow_keeps Keeps.self t h
  | fenceRights => exact execFenceRights_keeps Keeps.self t h
  | dbgChallenge => exact execDbgChallenge_keeps _ Keeps.self t h
  | dbgResponse => exact execDbgResponse_keeps _ Keeps.self t h
  | dbgLock => exact execDbgLock_keeps Keeps.self t h
  | imgkeyProgram => exact execImgkeyProgram_keeps Keeps.self t h
  | imgkeyRevoke => exact execImgkeyRevoke_keeps Keeps.self t h
  | kekSet => exact execKekSet_keeps Keeps.self t h
  | pwrMode => exact execPwrMode_keeps Keeps.self t h
  | pwrStatus => exact execPwrStatus_keeps Keeps.self t h
  | pwrCap => exact execPwrCap_keeps Keeps.self t h
  | reset => exact execReset_keeps Keeps.self t h
  | ltRead => exact execLtRead_keeps Keeps.self t h
  | ltStatus => exact execLtStatus_keeps Keeps.self t h
  | repairClear => exact execRepairClear_keeps Keeps.self t h
  | calGet => exact execCalGet_keeps Keeps.self t h
  | calSet => exact execCalSet_keeps Keeps.self t h
  | fwWrite => exact execFwWrite_keeps Keeps.self t h
  | fwActivate => exact execFwActivate_keeps Keeps.self t h
  | noStart => exact execNoStart_keeps _ Keeps.self t h
  | epochCommit => exact execEpochCommit_keeps Keeps.self t h
  | epochRollback => exact execEpochRollback_keeps Keeps.self t h
  | minEpochSet => exact execMinEpochSet_keeps Keeps.self t h
  | updStatus => exact execUpdStatus_keeps Keeps.self t h
  | inject => exact execInject_keeps Keeps.self t h
  | selftest => exact execSelftest_keeps _ Keeps.self t h
  | loopback => exact execLoopback_keeps Keeps.self t h
  | mcLockstep => exact execMcLockstep_keeps _ Keeps.self t h
  | coreRingAccess => exact execCoreRingAccess_keeps _ _ Keeps.self t h
  | run => exact execRun_keeps _ _ _ Keeps.self t h
  | deleg => exact execDeleg_keeps _ _ _ Keeps.self t h
  | mcWfi => exact execMcWfi_keeps _ Keeps.self t h
  | dmiAccess => exact execDmiAccess_keeps _ _ _ Keeps.self t h
  | sbaAccess => exact execSbaAccess_keeps _ Keeps.self t h
  | triggerFire => exact execTriggerFire_keeps _ _ Keeps.self t h
  | hartHalt => exact execHartHalt_keeps _ Keeps.self t h
  | hartResume => exact execHartResume_keeps _ Keeps.self t h
  | hubSemRead => exact execHubSemRead_keeps _ _ _ _ Keeps.self t h
  | hubSemWrite => exact execHubSemWrite_keeps _ _ _ Keeps.self t h
  | semLease => exact execSemLease_keeps _ _ Keeps.self t h
  | wdtCoreSvc => exact execWdtCoreSvc_keeps _ _ _ Keeps.self t h
  | coreWdtExpired => exact execCoreWdtExpired_keeps _ Keeps.self t h
  | wdtSafeSvc => exact execWdtSafeSvc_keeps _ _ _ _ Keeps.self t h
  | safeWdt => exact execSafeWdt_keeps Keeps.self t h
  | refLoss => exact execRefLoss_keeps _ Keeps.self t h
  | refFreq => exact execRefFreq_keeps _ _ Keeps.self t h
  | ioscReady => exact execIoscReady_keeps _ Keeps.self t h
  | refreshLost => exact execRefreshLost_keeps _ Keeps.self t h
  | noClockTimeout => exact execNoClockTimeout_keeps _ Keeps.self t h
  | ioscCheck => exact execIoscCheck_keeps _ _ Keeps.self t h
  | xtalLoss => exact execXtalLoss_keeps Keeps.self t h
  | xtalReturn => exact execXtalReturn_keeps Keeps.self t h
  | clkDomWrite => exact execClkDomWrite_keeps _ _ _ Keeps.self t h
  | cmultWrite => exact execCmultWrite_keeps _ _ _ Keeps.self t h
  | cpllLock => exact execCpllLock_keeps _ Keeps.self t h
  | divWrite => exact execDivWrite_keeps _ _ _ Keeps.self t h
  | powerSample => exact execPowerSample_keeps _ Keeps.self t h
  | supplyUv => exact execSupplyUv_keeps _ Keeps.self t h
  | thermalSample => exact execThermalSample_keeps _ _ _ Keeps.self t h
  | powerStateReached => exact execPowerStateReached_keeps Keeps.self t h
  | wakeEvent => exact execWakeEvent_keeps _ _ Keeps.self t h
  | pwrWtmr => exact execPwrWtmr_keeps _ Keeps.self t h
  | wakeDone => exact execWakeDone_keeps Keeps.self t h
  | aoBor => exact execAoBor_keeps _ Keeps.self t h
  | pwrDieGateWrite => exact execPwrDieGateWrite_keeps _ _ _ Keeps.self t h
  | ungating => exact execUngating_keeps _ Keeps.self t h
  | wrst => exact execWrst_keeps Keeps.self t h
  | warmDeviceReset => exact execWarmDeviceReset_keeps _ Keeps.self t h
  | hubReset => exact execHubReset_keeps _ Keeps.self t h
  | hubResetDone => exact execHubResetDone_keeps _ _ _ _ Keeps.self t h
  | dieReset => exact execDieReset_keeps _ Keeps.self t h
  | dieReady => exact execDieReady_keeps _ _ Keeps.self t h
  | portDieReset => exact execPortDieReset_keeps _ _ Keeps.self t h
  | acreReset => exact execAcreReset_keeps _ Keeps.self t h
  | rstCtlGo => exact execRstCtlGo_keeps _ _ Keeps.self t h
  | errorReport => exact execErrorReport_keeps _ _ _ _ Keeps.self t h
  | errorReportResend => exact execErrorReportResend_keeps _ _ _ Keeps.self t h
  | operatingMinute => exact execOperatingMinute_keeps Keeps.self t h
  | ltsPeriodicWrite => exact execLtsPeriodicWrite_keeps Keeps.self t h
  | agingReading => exact execAgingReading_keeps _ _ _ Keeps.self t h
  | calTick => exact execCalTick_keeps Keeps.self t h
  | calLoad => exact execCalLoad_keeps _ _ Keeps.self t h
  | ldcSigErrClear mid _ _ => exact execLdcSigErrClear_keeps mid _ _ Keeps.self t h
  | xtalReady => exact execXtalReady_keeps Keeps.self t h
  | pcieLinkDown => exact execPcieLinkDown_keeps _ _ _ _ _ Keeps.self t h
  | pciePerstN => exact execPciePerstN_keeps _ Keeps.self t h
  | ethLinkDown => exact execEthLinkDown_keeps _ _ _ Keeps.self t h
  | peerSideReset => exact execPeerSideReset_keeps _ Keeps.self t h

end Sys2Proof.Machine
end

