-- ==== Sys2Proof/Laws/State.lean ====
section
/-! SUPPORT. What each update of the state changes, field by field, so that no proof unfolds a record update. -/

namespace Sys2Proof.Machine

open Sys2Proof

/-! ### setCsr -/

@[simp] theorem State.setCsr_latches (s : State) (key : Nat) (v : Word) : (s.setCsr key v).latches = s.latches := rfl
@[simp] theorem State.setCsr_out (s : State) (key : Nat) (v : Word) : (s.setCsr key v).out = s.out := rfl
@[simp] theorem State.setCsr_freeCtr (s : State) (key : Nat) (v : Word) : (s.setCsr key v).freeCtr = s.freeCtr := rfl
@[simp] theorem State.setCsr_errs (s : State) (key : Nat) (v : Word) : (s.setCsr key v).errs = s.errs := rfl
@[simp] theorem State.setCsr_tb (s : State) (key : Nat) (v : Word) : (s.setCsr key v).tb = s.tb := rfl
@[simp] theorem State.setCsr_ring (s : State) (key : Nat) (v : Word) : (s.setCsr key v).ring = s.ring := rfl
@[simp] theorem State.setCsr_fab (s : State) (key : Nat) (v : Word) : (s.setCsr key v).fab = s.fab := rfl
@[simp] theorem State.setCsr_links (s : State) (key : Nat) (v : Word) : (s.setCsr key v).links = s.links := rfl
@[simp] theorem State.setCsr_fwl (s : State) (key : Nat) (v : Word) : (s.setCsr key v).fwl = s.fwl := rfl
@[simp] theorem State.setCsr_fenced (s : State) (key : Nat) (v : Word) : (s.setCsr key v).fenced = s.fenced := rfl
@[simp] theorem State.setCsr_mem (s : State) (key : Nat) (v : Word) : (s.setCsr key v).mem = s.mem := rfl
@[simp] theorem State.setCsr_qe (s : State) (key : Nat) (v : Word) : (s.setCsr key v).qe = s.qe := rfl
@[simp] theorem State.setCsr_port (s : State) (key : Nat) (v : Word) : (s.setCsr key v).port = s.port := rfl
@[simp] theorem State.setCsr_lts (s : State) (key : Nat) (v : Word) : (s.setCsr key v).lts = s.lts := rfl
@[simp] theorem State.setCsr_cmd (s : State) (key : Nat) (v : Word) : (s.setCsr key v).cmd = s.cmd := rfl
@[simp] theorem State.setCsr_cfg (s : State) (key : Nat) (v : Word) : (s.setCsr key v).cfg = s.cfg := rfl
@[simp] theorem State.setCsr_cpu (s : State) (key : Nat) (v : Word) : (s.setCsr key v).cpu = s.cpu := rfl
@[simp] theorem State.setCsr_rst (s : State) (key : Nat) (v : Word) : (s.setCsr key v).rst = s.rst := rfl
@[simp] theorem State.setCsr_pending (s : State) (key : Nat) (v : Word) : (s.setCsr key v).pending = s.pending := rfl

/-! ### setCsr64 -/

@[simp] theorem State.setCsr64_latches (s : State) (key : Nat) (v : DWord) : (s.setCsr64 key v).latches = s.latches := rfl
@[simp] theorem State.setCsr64_out (s : State) (key : Nat) (v : DWord) : (s.setCsr64 key v).out = s.out := rfl
@[simp] theorem State.setCsr64_freeCtr (s : State) (key : Nat) (v : DWord) : (s.setCsr64 key v).freeCtr = s.freeCtr := rfl
@[simp] theorem State.setCsr64_errs (s : State) (key : Nat) (v : DWord) : (s.setCsr64 key v).errs = s.errs := rfl
@[simp] theorem State.setCsr64_tb (s : State) (key : Nat) (v : DWord) : (s.setCsr64 key v).tb = s.tb := rfl
@[simp] theorem State.setCsr64_ring (s : State) (key : Nat) (v : DWord) : (s.setCsr64 key v).ring = s.ring := rfl
@[simp] theorem State.setCsr64_fab (s : State) (key : Nat) (v : DWord) : (s.setCsr64 key v).fab = s.fab := rfl
@[simp] theorem State.setCsr64_links (s : State) (key : Nat) (v : DWord) : (s.setCsr64 key v).links = s.links := rfl
@[simp] theorem State.setCsr64_fwl (s : State) (key : Nat) (v : DWord) : (s.setCsr64 key v).fwl = s.fwl := rfl
@[simp] theorem State.setCsr64_fenced (s : State) (key : Nat) (v : DWord) : (s.setCsr64 key v).fenced = s.fenced := rfl
@[simp] theorem State.setCsr64_mem (s : State) (key : Nat) (v : DWord) : (s.setCsr64 key v).mem = s.mem := rfl
@[simp] theorem State.setCsr64_qe (s : State) (key : Nat) (v : DWord) : (s.setCsr64 key v).qe = s.qe := rfl
@[simp] theorem State.setCsr64_port (s : State) (key : Nat) (v : DWord) : (s.setCsr64 key v).port = s.port := rfl
@[simp] theorem State.setCsr64_lts (s : State) (key : Nat) (v : DWord) : (s.setCsr64 key v).lts = s.lts := rfl
@[simp] theorem State.setCsr64_cmd (s : State) (key : Nat) (v : DWord) : (s.setCsr64 key v).cmd = s.cmd := rfl
@[simp] theorem State.setCsr64_cfg (s : State) (key : Nat) (v : DWord) : (s.setCsr64 key v).cfg = s.cfg := rfl
@[simp] theorem State.setCsr64_cpu (s : State) (key : Nat) (v : DWord) : (s.setCsr64 key v).cpu = s.cpu := rfl
@[simp] theorem State.setCsr64_rst (s : State) (key : Nat) (v : DWord) : (s.setCsr64 key v).rst = s.rst := rfl
@[simp] theorem State.setCsr64_pending (s : State) (key : Nat) (v : DWord) : (s.setCsr64 key v).pending = s.pending := rfl

/-! ### setFld -/

@[simp] theorem State.setFld_latches (s : State) (f : Fld) (n : Nat) : (s.setFld f n).latches = s.latches := rfl
@[simp] theorem State.setFld_out (s : State) (f : Fld) (n : Nat) : (s.setFld f n).out = s.out := rfl
@[simp] theorem State.setFld_freeCtr (s : State) (f : Fld) (n : Nat) : (s.setFld f n).freeCtr = s.freeCtr := rfl
@[simp] theorem State.setFld_errs (s : State) (f : Fld) (n : Nat) : (s.setFld f n).errs = s.errs := rfl
@[simp] theorem State.setFld_tb (s : State) (f : Fld) (n : Nat) : (s.setFld f n).tb = s.tb := rfl
@[simp] theorem State.setFld_ring (s : State) (f : Fld) (n : Nat) : (s.setFld f n).ring = s.ring := rfl
@[simp] theorem State.setFld_fab (s : State) (f : Fld) (n : Nat) : (s.setFld f n).fab = s.fab := rfl
@[simp] theorem State.setFld_links (s : State) (f : Fld) (n : Nat) : (s.setFld f n).links = s.links := rfl
@[simp] theorem State.setFld_fwl (s : State) (f : Fld) (n : Nat) : (s.setFld f n).fwl = s.fwl := rfl
@[simp] theorem State.setFld_fenced (s : State) (f : Fld) (n : Nat) : (s.setFld f n).fenced = s.fenced := rfl
@[simp] theorem State.setFld_mem (s : State) (f : Fld) (n : Nat) : (s.setFld f n).mem = s.mem := rfl
@[simp] theorem State.setFld_qe (s : State) (f : Fld) (n : Nat) : (s.setFld f n).qe = s.qe := rfl
@[simp] theorem State.setFld_port (s : State) (f : Fld) (n : Nat) : (s.setFld f n).port = s.port := rfl
@[simp] theorem State.setFld_lts (s : State) (f : Fld) (n : Nat) : (s.setFld f n).lts = s.lts := rfl
@[simp] theorem State.setFld_cmd (s : State) (f : Fld) (n : Nat) : (s.setFld f n).cmd = s.cmd := rfl
@[simp] theorem State.setFld_cfg (s : State) (f : Fld) (n : Nat) : (s.setFld f n).cfg = s.cfg := rfl
@[simp] theorem State.setFld_cpu (s : State) (f : Fld) (n : Nat) : (s.setFld f n).cpu = s.cpu := rfl
@[simp] theorem State.setFld_rst (s : State) (f : Fld) (n : Nat) : (s.setFld f n).rst = s.rst := rfl
@[simp] theorem State.setFld_pending (s : State) (f : Fld) (n : Nat) : (s.setFld f n).pending = s.pending := rfl

/-! ### setBit -/

@[simp] theorem State.setBit_latches (s : State) (f : Fld) (b : Bool) : (s.setBit f b).latches = s.latches := rfl
@[simp] theorem State.setBit_out (s : State) (f : Fld) (b : Bool) : (s.setBit f b).out = s.out := rfl
@[simp] theorem State.setBit_freeCtr (s : State) (f : Fld) (b : Bool) : (s.setBit f b).freeCtr = s.freeCtr := rfl
@[simp] theorem State.setBit_errs (s : State) (f : Fld) (b : Bool) : (s.setBit f b).errs = s.errs := rfl
@[simp] theorem State.setBit_tb (s : State) (f : Fld) (b : Bool) : (s.setBit f b).tb = s.tb := rfl
@[simp] theorem State.setBit_ring (s : State) (f : Fld) (b : Bool) : (s.setBit f b).ring = s.ring := rfl
@[simp] theorem State.setBit_fab (s : State) (f : Fld) (b : Bool) : (s.setBit f b).fab = s.fab := rfl
@[simp] theorem State.setBit_links (s : State) (f : Fld) (b : Bool) : (s.setBit f b).links = s.links := rfl
@[simp] theorem State.setBit_fwl (s : State) (f : Fld) (b : Bool) : (s.setBit f b).fwl = s.fwl := rfl
@[simp] theorem State.setBit_fenced (s : State) (f : Fld) (b : Bool) : (s.setBit f b).fenced = s.fenced := rfl
@[simp] theorem State.setBit_mem (s : State) (f : Fld) (b : Bool) : (s.setBit f b).mem = s.mem := rfl
@[simp] theorem State.setBit_qe (s : State) (f : Fld) (b : Bool) : (s.setBit f b).qe = s.qe := rfl
@[simp] theorem State.setBit_port (s : State) (f : Fld) (b : Bool) : (s.setBit f b).port = s.port := rfl
@[simp] theorem State.setBit_lts (s : State) (f : Fld) (b : Bool) : (s.setBit f b).lts = s.lts := rfl
@[simp] theorem State.setBit_cmd (s : State) (f : Fld) (b : Bool) : (s.setBit f b).cmd = s.cmd := rfl
@[simp] theorem State.setBit_cfg (s : State) (f : Fld) (b : Bool) : (s.setBit f b).cfg = s.cfg := rfl
@[simp] theorem State.setBit_cpu (s : State) (f : Fld) (b : Bool) : (s.setBit f b).cpu = s.cpu := rfl
@[simp] theorem State.setBit_rst (s : State) (f : Fld) (b : Bool) : (s.setBit f b).rst = s.rst := rfl
@[simp] theorem State.setBit_pending (s : State) (f : Fld) (b : Bool) : (s.setBit f b).pending = s.pending := rfl

/-! ### satAdd -/

@[simp] theorem State.satAdd_latches (s : State) (f : Fld) (n : Nat) : (s.satAdd f n).latches = s.latches := rfl
@[simp] theorem State.satAdd_out (s : State) (f : Fld) (n : Nat) : (s.satAdd f n).out = s.out := rfl
@[simp] theorem State.satAdd_freeCtr (s : State) (f : Fld) (n : Nat) : (s.satAdd f n).freeCtr = s.freeCtr := rfl
@[simp] theorem State.satAdd_errs (s : State) (f : Fld) (n : Nat) : (s.satAdd f n).errs = s.errs := rfl
@[simp] theorem State.satAdd_tb (s : State) (f : Fld) (n : Nat) : (s.satAdd f n).tb = s.tb := rfl
@[simp] theorem State.satAdd_ring (s : State) (f : Fld) (n : Nat) : (s.satAdd f n).ring = s.ring := rfl
@[simp] theorem State.satAdd_fab (s : State) (f : Fld) (n : Nat) : (s.satAdd f n).fab = s.fab := rfl
@[simp] theorem State.satAdd_links (s : State) (f : Fld) (n : Nat) : (s.satAdd f n).links = s.links := rfl
@[simp] theorem State.satAdd_fwl (s : State) (f : Fld) (n : Nat) : (s.satAdd f n).fwl = s.fwl := rfl
@[simp] theorem State.satAdd_fenced (s : State) (f : Fld) (n : Nat) : (s.satAdd f n).fenced = s.fenced := rfl
@[simp] theorem State.satAdd_mem (s : State) (f : Fld) (n : Nat) : (s.satAdd f n).mem = s.mem := rfl
@[simp] theorem State.satAdd_qe (s : State) (f : Fld) (n : Nat) : (s.satAdd f n).qe = s.qe := rfl
@[simp] theorem State.satAdd_port (s : State) (f : Fld) (n : Nat) : (s.satAdd f n).port = s.port := rfl
@[simp] theorem State.satAdd_lts (s : State) (f : Fld) (n : Nat) : (s.satAdd f n).lts = s.lts := rfl
@[simp] theorem State.satAdd_cmd (s : State) (f : Fld) (n : Nat) : (s.satAdd f n).cmd = s.cmd := rfl
@[simp] theorem State.satAdd_cfg (s : State) (f : Fld) (n : Nat) : (s.satAdd f n).cfg = s.cfg := rfl
@[simp] theorem State.satAdd_cpu (s : State) (f : Fld) (n : Nat) : (s.satAdd f n).cpu = s.cpu := rfl
@[simp] theorem State.satAdd_rst (s : State) (f : Fld) (n : Nat) : (s.satAdd f n).rst = s.rst := rfl
@[simp] theorem State.satAdd_pending (s : State) (f : Fld) (n : Nat) : (s.satAdd f n).pending = s.pending := rfl

/-! ### satInc -/

@[simp] theorem State.satInc_latches (s : State) (f : Fld) : (s.satInc f).latches = s.latches := rfl
@[simp] theorem State.satInc_out (s : State) (f : Fld) : (s.satInc f).out = s.out := rfl
@[simp] theorem State.satInc_freeCtr (s : State) (f : Fld) : (s.satInc f).freeCtr = s.freeCtr := rfl
@[simp] theorem State.satInc_errs (s : State) (f : Fld) : (s.satInc f).errs = s.errs := rfl
@[simp] theorem State.satInc_tb (s : State) (f : Fld) : (s.satInc f).tb = s.tb := rfl
@[simp] theorem State.satInc_ring (s : State) (f : Fld) : (s.satInc f).ring = s.ring := rfl
@[simp] theorem State.satInc_fab (s : State) (f : Fld) : (s.satInc f).fab = s.fab := rfl
@[simp] theorem State.satInc_links (s : State) (f : Fld) : (s.satInc f).links = s.links := rfl
@[simp] theorem State.satInc_fwl (s : State) (f : Fld) : (s.satInc f).fwl = s.fwl := rfl
@[simp] theorem State.satInc_fenced (s : State) (f : Fld) : (s.satInc f).fenced = s.fenced := rfl
@[simp] theorem State.satInc_mem (s : State) (f : Fld) : (s.satInc f).mem = s.mem := rfl
@[simp] theorem State.satInc_qe (s : State) (f : Fld) : (s.satInc f).qe = s.qe := rfl
@[simp] theorem State.satInc_port (s : State) (f : Fld) : (s.satInc f).port = s.port := rfl
@[simp] theorem State.satInc_lts (s : State) (f : Fld) : (s.satInc f).lts = s.lts := rfl
@[simp] theorem State.satInc_cmd (s : State) (f : Fld) : (s.satInc f).cmd = s.cmd := rfl
@[simp] theorem State.satInc_cfg (s : State) (f : Fld) : (s.satInc f).cfg = s.cfg := rfl
@[simp] theorem State.satInc_cpu (s : State) (f : Fld) : (s.satInc f).cpu = s.cpu := rfl
@[simp] theorem State.satInc_rst (s : State) (f : Fld) : (s.satInc f).rst = s.rst := rfl
@[simp] theorem State.satInc_pending (s : State) (f : Fld) : (s.satInc f).pending = s.pending := rfl

/-! ### setPend -/

@[simp] theorem State.setPend_latches (s : State) (sev : Nat) : (s.setPend sev).latches = s.latches := rfl
@[simp] theorem State.setPend_out (s : State) (sev : Nat) : (s.setPend sev).out = s.out := rfl
@[simp] theorem State.setPend_freeCtr (s : State) (sev : Nat) : (s.setPend sev).freeCtr = s.freeCtr := rfl
@[simp] theorem State.setPend_errs (s : State) (sev : Nat) : (s.setPend sev).errs = s.errs := rfl
@[simp] theorem State.setPend_tb (s : State) (sev : Nat) : (s.setPend sev).tb = s.tb := rfl
@[simp] theorem State.setPend_ring (s : State) (sev : Nat) : (s.setPend sev).ring = s.ring := rfl
@[simp] theorem State.setPend_fab (s : State) (sev : Nat) : (s.setPend sev).fab = s.fab := rfl
@[simp] theorem State.setPend_links (s : State) (sev : Nat) : (s.setPend sev).links = s.links := rfl
@[simp] theorem State.setPend_fwl (s : State) (sev : Nat) : (s.setPend sev).fwl = s.fwl := rfl
@[simp] theorem State.setPend_fenced (s : State) (sev : Nat) : (s.setPend sev).fenced = s.fenced := rfl
@[simp] theorem State.setPend_mem (s : State) (sev : Nat) : (s.setPend sev).mem = s.mem := rfl
@[simp] theorem State.setPend_qe (s : State) (sev : Nat) : (s.setPend sev).qe = s.qe := rfl
@[simp] theorem State.setPend_port (s : State) (sev : Nat) : (s.setPend sev).port = s.port := rfl
@[simp] theorem State.setPend_lts (s : State) (sev : Nat) : (s.setPend sev).lts = s.lts := rfl
@[simp] theorem State.setPend_cmd (s : State) (sev : Nat) : (s.setPend sev).cmd = s.cmd := rfl
@[simp] theorem State.setPend_cfg (s : State) (sev : Nat) : (s.setPend sev).cfg = s.cfg := rfl
@[simp] theorem State.setPend_cpu (s : State) (sev : Nat) : (s.setPend sev).cpu = s.cpu := rfl
@[simp] theorem State.setPend_rst (s : State) (sev : Nat) : (s.setPend sev).rst = s.rst := rfl
@[simp] theorem State.setPend_pending (s : State) (sev : Nat) : (s.setPend sev).pending = s.pending := rfl

/-! ### resetRegs -/

@[simp] theorem State.resetRegs_latches (s : State) (p : Nat → Bool) : (s.resetRegs p).latches = s.latches := rfl
@[simp] theorem State.resetRegs_out (s : State) (p : Nat → Bool) : (s.resetRegs p).out = s.out := rfl
@[simp] theorem State.resetRegs_freeCtr (s : State) (p : Nat → Bool) : (s.resetRegs p).freeCtr = s.freeCtr := rfl
@[simp] theorem State.resetRegs_errs (s : State) (p : Nat → Bool) : (s.resetRegs p).errs = s.errs := rfl
@[simp] theorem State.resetRegs_tb (s : State) (p : Nat → Bool) : (s.resetRegs p).tb = s.tb := rfl
@[simp] theorem State.resetRegs_ring (s : State) (p : Nat → Bool) : (s.resetRegs p).ring = s.ring := rfl
@[simp] theorem State.resetRegs_fab (s : State) (p : Nat → Bool) : (s.resetRegs p).fab = s.fab := rfl
@[simp] theorem State.resetRegs_links (s : State) (p : Nat → Bool) : (s.resetRegs p).links = s.links := rfl
@[simp] theorem State.resetRegs_fwl (s : State) (p : Nat → Bool) : (s.resetRegs p).fwl = s.fwl := rfl
@[simp] theorem State.resetRegs_fenced (s : State) (p : Nat → Bool) : (s.resetRegs p).fenced = s.fenced := rfl
@[simp] theorem State.resetRegs_mem (s : State) (p : Nat → Bool) : (s.resetRegs p).mem = s.mem := rfl
@[simp] theorem State.resetRegs_qe (s : State) (p : Nat → Bool) : (s.resetRegs p).qe = s.qe := rfl
@[simp] theorem State.resetRegs_port (s : State) (p : Nat → Bool) : (s.resetRegs p).port = s.port := rfl
@[simp] theorem State.resetRegs_lts (s : State) (p : Nat → Bool) : (s.resetRegs p).lts = s.lts := rfl
@[simp] theorem State.resetRegs_cmd (s : State) (p : Nat → Bool) : (s.resetRegs p).cmd = s.cmd := rfl
@[simp] theorem State.resetRegs_cfg (s : State) (p : Nat → Bool) : (s.resetRegs p).cfg = s.cfg := rfl
@[simp] theorem State.resetRegs_cpu (s : State) (p : Nat → Bool) : (s.resetRegs p).cpu = s.cpu := rfl
@[simp] theorem State.resetRegs_rst (s : State) (p : Nat → Bool) : (s.resetRegs p).rst = s.rst := rfl
@[simp] theorem State.resetRegs_pending (s : State) (p : Nat → Bool) : (s.resetRegs p).pending = s.pending := rfl

/-! ### send -/

@[simp] theorem State.send_regs (s : State) (o : Out) : (s.send o).regs = s.regs := rfl
@[simp] theorem State.send_latches (s : State) (o : Out) : (s.send o).latches = s.latches := rfl
@[simp] theorem State.send_freeCtr (s : State) (o : Out) : (s.send o).freeCtr = s.freeCtr := rfl
@[simp] theorem State.send_errs (s : State) (o : Out) : (s.send o).errs = s.errs := rfl
@[simp] theorem State.send_tb (s : State) (o : Out) : (s.send o).tb = s.tb := rfl
@[simp] theorem State.send_ring (s : State) (o : Out) : (s.send o).ring = s.ring := rfl
@[simp] theorem State.send_fab (s : State) (o : Out) : (s.send o).fab = s.fab := rfl
@[simp] theorem State.send_links (s : State) (o : Out) : (s.send o).links = s.links := rfl
@[simp] theorem State.send_fwl (s : State) (o : Out) : (s.send o).fwl = s.fwl := rfl
@[simp] theorem State.send_fenced (s : State) (o : Out) : (s.send o).fenced = s.fenced := rfl
@[simp] theorem State.send_mem (s : State) (o : Out) : (s.send o).mem = s.mem := rfl
@[simp] theorem State.send_qe (s : State) (o : Out) : (s.send o).qe = s.qe := rfl
@[simp] theorem State.send_port (s : State) (o : Out) : (s.send o).port = s.port := rfl
@[simp] theorem State.send_lts (s : State) (o : Out) : (s.send o).lts = s.lts := rfl
@[simp] theorem State.send_cmd (s : State) (o : Out) : (s.send o).cmd = s.cmd := rfl
@[simp] theorem State.send_cfg (s : State) (o : Out) : (s.send o).cfg = s.cfg := rfl
@[simp] theorem State.send_cpu (s : State) (o : Out) : (s.send o).cpu = s.cpu := rfl
@[simp] theorem State.send_rst (s : State) (o : Out) : (s.send o).rst = s.rst := rfl
@[simp] theorem State.send_pending (s : State) (o : Out) : (s.send o).pending = s.pending := rfl

/-! ### report -/

@[simp] theorem State.report_regs (s : State) (sp block unit code sev : Nat) (addr : DWord) (info : Word) (inj : Bool) : (s.report sp block unit code sev addr info inj).regs = s.regs := rfl
@[simp] theorem State.report_latches (s : State) (sp block unit code sev : Nat) (addr : DWord) (info : Word) (inj : Bool) : (s.report sp block unit code sev addr info inj).latches = s.latches := rfl
@[simp] theorem State.report_out (s : State) (sp block unit code sev : Nat) (addr : DWord) (info : Word) (inj : Bool) : (s.report sp block unit code sev addr info inj).out = s.out := rfl
@[simp] theorem State.report_freeCtr (s : State) (sp block unit code sev : Nat) (addr : DWord) (info : Word) (inj : Bool) : (s.report sp block unit code sev addr info inj).freeCtr = s.freeCtr := rfl
@[simp] theorem State.report_tb (s : State) (sp block unit code sev : Nat) (addr : DWord) (info : Word) (inj : Bool) : (s.report sp block unit code sev addr info inj).tb = s.tb := rfl
@[simp] theorem State.report_ring (s : State) (sp block unit code sev : Nat) (addr : DWord) (info : Word) (inj : Bool) : (s.report sp block unit code sev addr info inj).ring = s.ring := rfl
@[simp] theorem State.report_fab (s : State) (sp block unit code sev : Nat) (addr : DWord) (info : Word) (inj : Bool) : (s.report sp block unit code sev addr info inj).fab = s.fab := rfl
@[simp] theorem State.report_links (s : State) (sp block unit code sev : Nat) (addr : DWord) (info : Word) (inj : Bool) : (s.report sp block unit code sev addr info inj).links = s.links := rfl
@[simp] theorem State.report_fwl (s : State) (sp block unit code sev : Nat) (addr : DWord) (info : Word) (inj : Bool) : (s.report sp block unit code sev addr info inj).fwl = s.fwl := rfl
@[simp] theorem State.report_fenced (s : State) (sp block unit code sev : Nat) (addr : DWord) (info : Word) (inj : Bool) : (s.report sp block unit code sev addr info inj).fenced = s.fenced := rfl
@[simp] theorem State.report_mem (s : State) (sp block unit code sev : Nat) (addr : DWord) (info : Word) (inj : Bool) : (s.report sp block unit code sev addr info inj).mem = s.mem := rfl
@[simp] theorem State.report_qe (s : State) (sp block unit code sev : Nat) (addr : DWord) (info : Word) (inj : Bool) : (s.report sp block unit code sev addr info inj).qe = s.qe := rfl
@[simp] theorem State.report_port (s : State) (sp block unit code sev : Nat) (addr : DWord) (info : Word) (inj : Bool) : (s.report sp block unit code sev addr info inj).port = s.port := rfl
@[simp] theorem State.report_lts (s : State) (sp block unit code sev : Nat) (addr : DWord) (info : Word) (inj : Bool) : (s.report sp block unit code sev addr info inj).lts = s.lts := rfl
@[simp] theorem State.report_cmd (s : State) (sp block unit code sev : Nat) (addr : DWord) (info : Word) (inj : Bool) : (s.report sp block unit code sev addr info inj).cmd = s.cmd := rfl
@[simp] theorem State.report_cfg (s : State) (sp block unit code sev : Nat) (addr : DWord) (info : Word) (inj : Bool) : (s.report sp block unit code sev addr info inj).cfg = s.cfg := rfl
@[simp] theorem State.report_cpu (s : State) (sp block unit code sev : Nat) (addr : DWord) (info : Word) (inj : Bool) : (s.report sp block unit code sev addr info inj).cpu = s.cpu := rfl
@[simp] theorem State.report_rst (s : State) (sp block unit code sev : Nat) (addr : DWord) (info : Word) (inj : Bool) : (s.report sp block unit code sev addr info inj).rst = s.rst := rfl
@[simp] theorem State.report_pending (s : State) (sp block unit code sev : Nat) (addr : DWord) (info : Word) (inj : Bool) : (s.report sp block unit code sev addr info inj).pending = s.pending := rfl

/-! ### raise -/

@[simp] theorem State.raise_latches (s : State) (f : Fld) (sp block unit regIdx sev : Nat) (addr : DWord) (info : Word) (inj : Bool) : (s.raise f sp block unit regIdx sev addr info inj).latches = s.latches := rfl
@[simp] theorem State.raise_out (s : State) (f : Fld) (sp block unit regIdx sev : Nat) (addr : DWord) (info : Word) (inj : Bool) : (s.raise f sp block unit regIdx sev addr info inj).out = s.out := rfl
@[simp] theorem State.raise_freeCtr (s : State) (f : Fld) (sp block unit regIdx sev : Nat) (addr : DWord) (info : Word) (inj : Bool) : (s.raise f sp block unit regIdx sev addr info inj).freeCtr = s.freeCtr := rfl
@[simp] theorem State.raise_tb (s : State) (f : Fld) (sp block unit regIdx sev : Nat) (addr : DWord) (info : Word) (inj : Bool) : (s.raise f sp block unit regIdx sev addr info inj).tb = s.tb := rfl
@[simp] theorem State.raise_ring (s : State) (f : Fld) (sp block unit regIdx sev : Nat) (addr : DWord) (info : Word) (inj : Bool) : (s.raise f sp block unit regIdx sev addr info inj).ring = s.ring := rfl
@[simp] theorem State.raise_fab (s : State) (f : Fld) (sp block unit regIdx sev : Nat) (addr : DWord) (info : Word) (inj : Bool) : (s.raise f sp block unit regIdx sev addr info inj).fab = s.fab := rfl
@[simp] theorem State.raise_links (s : State) (f : Fld) (sp block unit regIdx sev : Nat) (addr : DWord) (info : Word) (inj : Bool) : (s.raise f sp block unit regIdx sev addr info inj).links = s.links := rfl
@[simp] theorem State.raise_fwl (s : State) (f : Fld) (sp block unit regIdx sev : Nat) (addr : DWord) (info : Word) (inj : Bool) : (s.raise f sp block unit regIdx sev addr info inj).fwl = s.fwl := rfl
@[simp] theorem State.raise_fenced (s : State) (f : Fld) (sp block unit regIdx sev : Nat) (addr : DWord) (info : Word) (inj : Bool) : (s.raise f sp block unit regIdx sev addr info inj).fenced = s.fenced := rfl
@[simp] theorem State.raise_mem (s : State) (f : Fld) (sp block unit regIdx sev : Nat) (addr : DWord) (info : Word) (inj : Bool) : (s.raise f sp block unit regIdx sev addr info inj).mem = s.mem := rfl
@[simp] theorem State.raise_qe (s : State) (f : Fld) (sp block unit regIdx sev : Nat) (addr : DWord) (info : Word) (inj : Bool) : (s.raise f sp block unit regIdx sev addr info inj).qe = s.qe := rfl
@[simp] theorem State.raise_port (s : State) (f : Fld) (sp block unit regIdx sev : Nat) (addr : DWord) (info : Word) (inj : Bool) : (s.raise f sp block unit regIdx sev addr info inj).port = s.port := rfl
@[simp] theorem State.raise_lts (s : State) (f : Fld) (sp block unit regIdx sev : Nat) (addr : DWord) (info : Word) (inj : Bool) : (s.raise f sp block unit regIdx sev addr info inj).lts = s.lts := rfl
@[simp] theorem State.raise_cmd (s : State) (f : Fld) (sp block unit regIdx sev : Nat) (addr : DWord) (info : Word) (inj : Bool) : (s.raise f sp block unit regIdx sev addr info inj).cmd = s.cmd := rfl
@[simp] theorem State.raise_cfg (s : State) (f : Fld) (sp block unit regIdx sev : Nat) (addr : DWord) (info : Word) (inj : Bool) : (s.raise f sp block unit regIdx sev addr info inj).cfg = s.cfg := rfl
@[simp] theorem State.raise_cpu (s : State) (f : Fld) (sp block unit regIdx sev : Nat) (addr : DWord) (info : Word) (inj : Bool) : (s.raise f sp block unit regIdx sev addr info inj).cpu = s.cpu := rfl
@[simp] theorem State.raise_rst (s : State) (f : Fld) (sp block unit regIdx sev : Nat) (addr : DWord) (info : Word) (inj : Bool) : (s.raise f sp block unit regIdx sev addr info inj).rst = s.rst := rfl
@[simp] theorem State.raise_pending (s : State) (f : Fld) (sp block unit regIdx sev : Nat) (addr : DWord) (info : Word) (inj : Bool) : (s.raise f sp block unit regIdx sev addr info inj).pending = s.pending := rfl

/-! ### dropInjected -/

@[simp] theorem State.dropInjected_regs (s : State) (target key : Nat) : (s.dropInjected target key).regs = s.regs := rfl
@[simp] theorem State.dropInjected_latches (s : State) (target key : Nat) : (s.dropInjected target key).latches = s.latches := rfl
@[simp] theorem State.dropInjected_out (s : State) (target key : Nat) : (s.dropInjected target key).out = s.out := rfl
@[simp] theorem State.dropInjected_freeCtr (s : State) (target key : Nat) : (s.dropInjected target key).freeCtr = s.freeCtr := rfl
@[simp] theorem State.dropInjected_tb (s : State) (target key : Nat) : (s.dropInjected target key).tb = s.tb := rfl
@[simp] theorem State.dropInjected_ring (s : State) (target key : Nat) : (s.dropInjected target key).ring = s.ring := rfl
@[simp] theorem State.dropInjected_fab (s : State) (target key : Nat) : (s.dropInjected target key).fab = s.fab := rfl
@[simp] theorem State.dropInjected_links (s : State) (target key : Nat) : (s.dropInjected target key).links = s.links := rfl
@[simp] theorem State.dropInjected_fwl (s : State) (target key : Nat) : (s.dropInjected target key).fwl = s.fwl := rfl
@[simp] theorem State.dropInjected_fenced (s : State) (target key : Nat) : (s.dropInjected target key).fenced = s.fenced := rfl
@[simp] theorem State.dropInjected_mem (s : State) (target key : Nat) : (s.dropInjected target key).mem = s.mem := rfl
@[simp] theorem State.dropInjected_qe (s : State) (target key : Nat) : (s.dropInjected target key).qe = s.qe := rfl
@[simp] theorem State.dropInjected_port (s : State) (target key : Nat) : (s.dropInjected target key).port = s.port := rfl
@[simp] theorem State.dropInjected_lts (s : State) (target key : Nat) : (s.dropInjected target key).lts = s.lts := rfl
@[simp] theorem State.dropInjected_cmd (s : State) (target key : Nat) : (s.dropInjected target key).cmd = s.cmd := rfl
@[simp] theorem State.dropInjected_cfg (s : State) (target key : Nat) : (s.dropInjected target key).cfg = s.cfg := rfl
@[simp] theorem State.dropInjected_cpu (s : State) (target key : Nat) : (s.dropInjected target key).cpu = s.cpu := rfl
@[simp] theorem State.dropInjected_rst (s : State) (target key : Nat) : (s.dropInjected target key).rst = s.rst := rfl
@[simp] theorem State.dropInjected_pending (s : State) (target key : Nat) : (s.dropInjected target key).pending = s.pending := rfl

/-! ### The fields the updates change -/

theorem State.setCsr_regs (s : State) (key : Nat) (v : Word) : (s.setCsr key v).regs = mapSet s.regs (csrDefault key) key v := rfl
theorem State.resetRegs_regs (s : State) (p : Nat → Bool) : (s.resetRegs p).regs = mapDrop p s.regs := rfl
@[simp] theorem State.send_out (s : State) (o : Out) : (s.send o).out = s.out ++ [o] := rfl

/-! ### free -/

@[simp] theorem State.free_freeCtr (s : State) : s.free.2.freeCtr = s.freeCtr + 1 := rfl
@[simp] theorem State.free_value (s : State) : s.free.1 = Config.freeLine s.freeCtr := rfl
@[simp] theorem State.free_regs (s : State) : s.free.2.regs = s.regs := rfl
@[simp] theorem State.free_latches (s : State) : s.free.2.latches = s.latches := rfl
@[simp] theorem State.free_out (s : State) : s.free.2.out = s.out := rfl
@[simp] theorem State.free_errs (s : State) : s.free.2.errs = s.errs := rfl
@[simp] theorem State.free_tb (s : State) : s.free.2.tb = s.tb := rfl
@[simp] theorem State.free_ring (s : State) : s.free.2.ring = s.ring := rfl
@[simp] theorem State.free_fab (s : State) : s.free.2.fab = s.fab := rfl
@[simp] theorem State.free_links (s : State) : s.free.2.links = s.links := rfl
@[simp] theorem State.free_fwl (s : State) : s.free.2.fwl = s.fwl := rfl
@[simp] theorem State.free_fenced (s : State) : s.free.2.fenced = s.fenced := rfl
@[simp] theorem State.free_mem (s : State) : s.free.2.mem = s.mem := rfl
@[simp] theorem State.free_qe (s : State) : s.free.2.qe = s.qe := rfl
@[simp] theorem State.free_port (s : State) : s.free.2.port = s.port := rfl
@[simp] theorem State.free_lts (s : State) : s.free.2.lts = s.lts := rfl
@[simp] theorem State.free_cmd (s : State) : s.free.2.cmd = s.cmd := rfl
@[simp] theorem State.free_cfg (s : State) : s.free.2.cfg = s.cfg := rfl
@[simp] theorem State.free_cpu (s : State) : s.free.2.cpu = s.cpu := rfl
@[simp] theorem State.free_rst (s : State) : s.free.2.rst = s.rst := rfl
@[simp] theorem State.free_pending (s : State) : s.free.2.pending = s.pending := rfl

/-! ### Registers under updates that write none -/

@[simp] theorem State.send_csr (s : State) (o : Out) (k : Nat) : (s.send o).csr k = s.csr k := rfl
@[simp] theorem State.send_fld (s : State) (o : Out) (g : Fld) : (s.send o).fld g = s.fld g := rfl
@[simp] theorem State.report_csr (s : State) (sp block unit code sev : Nat) (addr : DWord) (info : Word) (inj : Bool) (k : Nat) : (s.report sp block unit code sev addr info inj).csr k = s.csr k := rfl
@[simp] theorem State.report_fld (s : State) (sp block unit code sev : Nat) (addr : DWord) (info : Word) (inj : Bool) (g : Fld) : (s.report sp block unit code sev addr info inj).fld g = s.fld g := rfl
@[simp] theorem State.dropInjected_csr (s : State) (target key : Nat) (k : Nat) : (s.dropInjected target key).csr k = s.csr k := rfl
@[simp] theorem State.dropInjected_fld (s : State) (target key : Nat) (g : Fld) : (s.dropInjected target key).fld g = s.fld g := rfl
@[simp] theorem State.free_csr (s : State) (k : Nat) : s.free.2.csr k = s.csr k := rfl
@[simp] theorem State.free_fld (s : State) (g : Fld) : s.free.2.fld g = s.fld g := rfl

end Sys2Proof.Machine
end

