-- ==== Sys2Proof/Laws/Ops.lean ====
section
/-! SUPPORT. What the shared operations do, said once each: registers and fields read after they are written, accesses that reach
their register, the command at the front of its transport, and the canonical form of the stores. -/

namespace Sys2Proof.Machine

open Sys2Proof

/-! ### Registers -/

/-- A register reads as the word written to it. -/
@[simp] theorem State.csr_setCsr_same (s : State) (key : Nat) (v : Word) : (s.setCsr key v).csr key = v :=
  mapGet_mapSet_same _ _ _ _

/-- Every other register reads as before. -/
theorem State.csr_setCsr_ne (s : State) {key k : Nat} (v : Word) (h : k ≠ key) : (s.setCsr key v).csr k = s.csr k :=
  mapGet_mapSet_ne _ _ _ _ h

theorem State.csr_setCsr (s : State) (key k : Nat) (v : Word) : (s.setCsr key v).csr k = if k = key then v else s.csr k := by
  split
  · subst_vars; simp
  · exact s.csr_setCsr_ne v ‹_›

/-- A register that a reset names reads its reset value, every other as before. -/
theorem State.csr_resetRegs (s : State) (p : Nat → Bool) (k : Nat) :
    (s.resetRegs p).csr k = if p k then csrDefault k else s.csr k := mapGet_mapDrop _ _ _ _

/-! ### Fields -/

theorem putBits_toNat_field (old : Word) {lo w : Nat} (n : Nat) (h : lo + w ≤ 32) :
    (putBits old lo w n).toNat / 2 ^ lo % 2 ^ w = n % 2 ^ w := by
  apply Nat.eq_of_testBit_eq
  intro i
  simp only [Nat.testBit_mod_two_pow, Nat.testBit_div_two_pow]
  by_cases hi : i < w
  · have h1 : i + lo < 32 := by omega
    have hb : (putBits old lo w n).getLsbD (lo + i) = n.testBit i := by
      simp only [putBits, BitVec.getLsbD_or, BitVec.getLsbD_and, BitVec.getLsbD_not, BitVec.getLsbD_ofNat,
        Nat.testBit_mul_two_pow, Nat.testBit_two_pow_sub_one, Nat.testBit_mod_two_pow]
      simp [hi, show lo + i < 32 by omega]
    simpa [hi, BitVec.getLsbD, Nat.add_comm] using hb
  · simp [hi]

theorem putBits_getLsbD_other (old : Word) {lo w i : Nat} (n : Nat) (h : i < lo ∨ lo + w ≤ i) (hi : i < 32) :
    (putBits old lo w n).getLsbD i = old.getLsbD i := by
  simp only [putBits, BitVec.getLsbD_or, BitVec.getLsbD_and, BitVec.getLsbD_not, BitVec.getLsbD_ofNat,
    Nat.testBit_mul_two_pow, Nat.testBit_two_pow_sub_one, Nat.testBit_mod_two_pow]
  rcases h with h | h
  · simp [hi, show ¬ lo ≤ i by omega]
  · simp [hi, show ¬ i - lo < w by omega]

/-- A field of a word that another field of it, apart from it, was written into. -/
theorem putBits_toNat_apart (old : Word) {lo w lo' w' : Nat} (n : Nat) (h : lo' + w' ≤ lo ∨ lo + w ≤ lo') (h32 : lo' + w' ≤ 32) :
    (putBits old lo w n).toNat / 2 ^ lo' % 2 ^ w' = old.toNat / 2 ^ lo' % 2 ^ w' := by
  apply Nat.eq_of_testBit_eq
  intro i
  simp only [Nat.testBit_mod_two_pow, Nat.testBit_div_two_pow]
  by_cases hi : i < w'
  · have := putBits_getLsbD_other old (lo := lo) (w := w) (i := lo' + i) n (by omega) (by omega)
    simpa [hi, BitVec.getLsbD, Nat.add_comm] using this
  · simp [hi]

/-- A field reads as the value written to it, cut to its width. -/
theorem State.fld_setFld_same (s : State) (f : Fld) (n : Nat) (h : f.lo + f.w ≤ 32) : (s.setFld f n).fld f = n % 2 ^ f.w := by
  simp only [State.fld, State.setFld, State.csr_setCsr_same]
  exact putBits_toNat_field _ n h

/-- A field of another register reads as before. -/
theorem State.fld_setFld_ne (s : State) {f g : Fld} (n : Nat) (h : g.key ≠ f.key) : (s.setFld f n).fld g = s.fld g := by
  simp only [State.fld, State.setFld, State.csr_setCsr_ne s _ h]

/-- A field of the same register apart from the one written reads as before. -/
theorem State.fld_setFld_apart (s : State) {f g : Fld} (n : Nat) (h : g.lo + g.w ≤ f.lo ∨ f.lo + f.w ≤ g.lo) (h32 : g.lo + g.w ≤ 32) :
    (s.setFld f n).fld g = s.fld g := by
  by_cases hk : g.key = f.key
  · simp only [State.fld, State.setFld, hk, State.csr_setCsr_same]
    exact putBits_toNat_apart _ n h h32
  · exact s.fld_setFld_ne n hk

/-- A one-bit field reads as the Bool written to it. -/
theorem State.bit_setBit_same (s : State) (f : Fld) (b : Bool) (hw : f.w = 1) (h : f.lo + f.w ≤ 32) : (s.setBit f b).bit f = b := by
  simp only [State.bit, State.setBit, State.fld_setFld_same s f _ h, hw]
  cases b <;> rfl

/-- A field of a register that was not written reads as before. -/
theorem State.fld_setCsr_ne (s : State) {key : Nat} {g : Fld} (v : Word) (h : g.key ≠ key) : (s.setCsr key v).fld g = s.fld g := by
  simp only [State.fld, State.csr_setCsr_ne s _ h]

/-! ### Accesses -/

/-- A write that reaches its register does what the register does, and is answered. -/
theorem State.regWrite_of_reached {s : State} {key : Nat} {f : State → State × Status} (h : s.regReached key = true) :
    s.regWrite key f = (f s).1.send (.wrote key (f s).2) := by
  simp [State.regReached] at h; simp [State.regWrite, h, answerWrite]

/-- A read that reaches its register does what the register does. -/
theorem State.regRead_of_reached {s : State} {key : Nat} {f : State → State} (h : s.regReached key = true) : s.regRead key f = f s := by
  simp [State.regReached] at h; simp [State.regRead, h]

/-- A Level S master's write of a Level S register has its effect. -/
theorem levelSWrite_of_levelS {s : State} {mid : BitVec 12} {key : Nat} {f : State → State} (h : s.regReached key = true)
    (hs : s.levelS mid.toNat = true) : levelSWrite s mid key f = (f s).send (.wrote key .ok) := by
  simp [levelSWrite, State.regWrite_of_reached h, hs]

/-- Another master's write of it changes nothing and is denied (R15). -/
theorem levelSWrite_denied {s : State} {mid : BitVec 12} {key : Nat} {f : State → State} (h : s.regReached key = true)
    (hs : s.levelS mid.toNat = false) : levelSWrite s mid key f = s.send (.wrote key .errDenied) := by
  simp [levelSWrite, State.regWrite_of_reached h, hs]

/-! ### Commands of the transports -/

/-- A command at the front of its transport runs on the state without it and is answered. -/
theorem State.cmdRun_of_front {s : State} {op : Nat} {w : Waiting} {f : Waiting → State → CmdEnd × State} (h : s.front op = some w) :
    s.cmdRun op f = match (f w s.popWaiting).1 with
      | .final st res => (f w s.popWaiting).2.answerTo w st res
      | .accepted r => (f w s.popWaiting).2.acceptedTo w r := by
  simp only [State.cmdRun, h] <;> rfl

/-- A command that only starts: it is answered ACCEPTED and runs. -/
theorem State.cmdAccept_of_front {s : State} {op : Nat} {w : Waiting} {g : Waiting → State → State} (h : s.front op = some w) :
    s.cmdAccept op g = g w (s.acceptFront w) := by
  simp only [State.cmdAccept, h]

/-! ### Steps -/

/-- A step runs the front command on the state with the rest of the queue. -/
theorem step_cons {s : State} {c : Instr} {rest : List Instr} (h : s.pending = c :: rest) :
    step s = exec c { s with pending := rest } := by
  simp only [step, h]

/-- With no command waiting a step answers the same state. -/
theorem step_nil {s : State} (h : s.pending = []) : step s = .next s := by
  simp only [step, h]

/-! ### Stores of lines keep their canonical form -/

/-- Storing a burst of DDR5 keeps the canonical form of the store, and reads back. -/
theorem State.setDram_wf {s : State} (k : Nat) (b : Burst) (h : mapWf (fun _ => (0 : Burst)) s.mem.dram = true) :
    mapWf (fun _ => (0 : Burst)) (s.setDram k b).mem.dram = true := mapWf_mapSet k b h

theorem State.dramAt_setDram_same (s : State) (k : Nat) (b : Burst) : (s.setDram k b).dramAt k = b := mapGet_mapSet_same _ _ _ _

theorem State.dramAt_setDram_ne (s : State) {k j : Nat} (b : Burst) (h : j ≠ k) : (s.setDram k b).dramAt j = s.dramAt j :=
  mapGet_mapSet_ne _ _ _ _ h

/-- The same of stacked SRAM. -/
theorem State.setSram_wf {s : State} (h n : Nat) (b : Burst) (hw : mapWf (fun _ => (0 : Burst)) s.mem.sram = true) :
    mapWf (fun _ => (0 : Burst)) (s.setSram h n b).mem.sram = true := mapWf_mapSet _ b hw

theorem State.sramAt_setSram_same (s : State) (h n : Nat) (b : Burst) : (s.setSram h n b).sramAt h n = b := mapGet_mapSet_same _ _ _ _

/-- The same of a configuration frame of a place. -/
theorem State.setFrameBits_wf {s : State} (pl fidx : Nat) (v : BitVec 4096) (h : mapWf (fun _ => (0 : BitVec 4096)) s.fab.frames = true) :
    mapWf (fun _ => (0 : BitVec 4096)) (s.setFrameBits pl fidx v).fab.frames = true := mapWf_mapSet _ v h

theorem State.frame_setFrameBits_same (s : State) (pl fidx : Nat) (v : BitVec 4096) : (s.setFrameBits pl fidx v).frame pl fidx = v :=
  mapGet_mapSet_same _ _ _ _

/-- The same of a row of a bushel. -/
theorem State.setBshRow_wf {s : State} (site b r : Nat) (v : BitVec 109) (h : mapWf (fun _ => (0 : BitVec 109)) s.fab.rows = true) :
    mapWf (fun _ => (0 : BitVec 109)) (s.setBshRow site b r v).fab.rows = true := mapWf_mapSet _ v h

/-! ### Blocks read back -/

@[simp] theorem State.dmc_setDmc_same (s : State) (ch : Nat) (d : DmcSt) : (s.setDmc ch d).dmc ch = d := mapGet_mapSet_same _ _ _ _
@[simp] theorem State.mpe_setMpe_same (s : State) (h : Nat) (m : MpeSt) : (s.setMpe h m).mpe h = m := mapGet_mapSet_same _ _ _ _
@[simp] theorem State.tile_setTile_same (s : State) (site t : Nat) (x : TileSt) : (s.setTile site t x).tile site t = x :=
  mapGet_mapSet_same _ _ _ _
@[simp] theorem State.probe_setProbe_same (s : State) (site : Nat) (p : ProbeSt) : (s.setProbe site p).probe site = p :=
  mapGet_mapSet_same _ _ _ _
@[simp] theorem State.hart_setHart_same (s : State) (i : Nat) (x : HartSt) : (s.setHart i x).hart i = x := mapGet_mapSet_same _ _ _ _

end Sys2Proof.Machine
end

