-- ==== Sys2Proof/Tests/Slice0.lean ====
section
/-! SUPPORT. Tests: ill-formed commands, the spec's worked examples, and for each statement with hypotheses a state and operands that
meet them (one conjunct or theorem for each clause). -/

open Sys2Proof Sys2Proof.Machine

namespace Sys2Proof.Tests

set_option Elab.async false

/-! ### States -/

/-- A state with register fields set. -/
def put (s : State) (l : List (Fld × Nat)) : State := l.foldl (fun t f => t.setFld f.1 f.2) s

/-- A state with register words set. -/
def putWords (s : State) (l : List (Nat × Word)) : State := l.foldl (fun t f => t.setCsr f.1 f.2) s

/-- The device runs; logical die 0 stands on site 1. -/
def ready : State := put State.reset [(RST_STAT_STATE, 1), (RST_STAT_PHASE, 8), (HUB_SITE_STAT_LD_VALID 0 1, 1)]

/-- A start-up in phase `n`. -/
def starting (n : Nat) : State := put State.reset [(RST_STAT_PHASE, n)]

/-- The device runs, its acre 0 of site 1 is released, and cubit (0, 0) there has the configuration `cfg`. -/
def withCubit (cfg : BitVec 512) : State :=
  let s := put ready [(LDC_PCLK_CFG_LOCK 1 0, 1), (LDC_PCLK_CFG_EN 1 0, 1), (LDC_PCLK_CFG_ODIV 1 0, 1)]
  { s with fab := { s.fab with
      places := [(placeKey 1 0, ⟨false, false, true, 3, 0, 0⟩)]
      frames := [(placeKey 1 0 * 16384, cfg.setWidth 4096)] } }

/-- That state at a new edge of its clock. -/
def atEdge (cfg : BitVec 512) : State := (withCubit cfg).edgeAt (placeKey 1 0) 0 false

/-! ### Ill-formed commands, one for each relation of Instr.wf -/

/-- A whole read request packet without DATA flits. -/
def readPkt : ReqPkt := ⟨0, 0, 0, .g, 0, 0, 0, 0, 0, 0, false, true, false, 0, 0, 0, false, [], true⟩
/-- A DATA flit of zeros. -/
def flit : DataFlit := ⟨0, false⟩

/-- A slot passes a stop without errors. -/
def slotPass : SlotPass := ⟨59, 3, 127, 127, .clean, List.replicate 4 .clean, true, true⟩

/-- A packet with too many or too few DATA flits, or another operation than its command's, is ill-formed. -/
theorem test_illformed_packets :
    (Instr.read 0 { readPkt with data := [flit] }).wf = false ∧ (Instr.read 0 { readPkt with opc := 1 }).wf = false ∧
    (Instr.write 0 { readPkt with opc := 1, lenm1 := 8 }).wf = false ∧ (Instr.write 0 readPkt).wf = false ∧
    (Instr.swap 0 { readPkt with opc := 2, data := [flit] }).wf = false ∧ (Instr.fadd 0 { readPkt with opc := 2 }).wf = false ∧
    (Instr.cas 0 { readPkt with opc := 4 }).wf = false ∧ (Instr.msg 0 { readPkt with opc := 5, lenm1 := 255 }).wf = false ∧
    (Instr.mtHostAccess 5 { readPkt with opc := 2 }).wf = false ∧ (Instr.fwlOutboundRequest 0 0 { readPkt with data := [flit] }).wf = false ∧
    (Instr.pcieOutbound 0 (.access { readPkt with data := [flit] })).wf = false ∧
    (Instr.requestIssue ⟨0, 0, 0, .g, 4, 0, 0, false, 0, false, []⟩).wf = false ∧
    (Instr.completion 0 ⟨0, 0, 0, .g, 0, 0, .ok, false, false, 255, .none, 0, 0, 0, [flit], true⟩).wf = false ∧
    (Instr.flitAtStop { slotPass with pay := [.clean] }).wf = false := by decide

set_option maxRecDepth 10000 in
/-- A request of the fabric, of the third-party die or of a PCIe host with the wrong amount of data is ill-formed, as are CRC data, a
line and a sync pulse outside their bounds. -/
theorem test_illformed_others :
    (Instr.ireq 0 0 0 ⟨0, 1, .g, 8, 0, [(0, false)]⟩).wf = false ∧
    (Instr.fwlInboundRequest 0 0 ⟨0, 0, 0, 0, 0, 0, 1, 255, false, 0, false, []⟩).wf = false ∧
    (Instr.pcieInbound 0 ⟨0, false, 0, true, 3, [], false⟩).wf = false ∧ (Instr.pcieInbound 0 ⟨0, false, 16383, false, 1, [], false⟩).wf = false ∧
    (Instr.crcDataWrite 0 (.hub 0 0) [] .none).wf = false ∧ (Instr.crcDataWrite 0 (.hub 0 0) (List.replicate 257 (0, false)) .none).wf = false ∧
    (Instr.line 0 0 0 ⟨.clean, false⟩ 0 [0] true 2).wf = false ∧ (Instr.syncPulse [5, 5]).wf = false := by decide

/-- Well-formed commands of the same kinds pass. -/
theorem test_wellformed :
    (Instr.read 0 readPkt).wf = true ∧ (Instr.write 0 { readPkt with opc := 1, lenm1 := 8, data := [flit] }).wf = true ∧
    (Instr.cas 0 { readPkt with opc := 4, data := [flit] }).wf = true ∧ (Instr.ireq 0 0 0 ⟨0, 1, .g, 8, 0, [(0, false), (0, false)]⟩).wf = true ∧
    (Instr.flitAtStop slotPass).wf = true ∧
    (Instr.pcieInbound 0 ⟨0, false, 16380, false, 3, [], false⟩).wf = true ∧ (Instr.porst false).wf = true := by decide

/-! ### Values that the spec works out -/

/-- The check values of the CRC units' polynomials over "123456789" (R673's table). -/
theorem test_crc_check_values :
    let bs : List Byte := [0x31, 0x32, 0x33, 0x34, 0x35, 0x36, 0x37, 0x38, 0x39]
    let crc (p : Nat) : DWord := bs.foldl (crcFeed p) (crcBegin p 0) ^^^ crcFinal p
    crc 0 = 0xCBF43926 ∧ crc 1 = 0xE3069283 ∧ crc 2 = 0x29B1 ∧ crc 3 = 0x6C40DF5F0B497347 := by decide +kernel

/-- The counter blocks of chapter 08's worked example. -/
theorem test_counter_blocks :
    counterBlock 0 17 2 0x01048D15 3 1 = 0x00000000130000412345400000008044 ∧
    counterBlock 0 18 2 0x01048D15 3 0 = 0x00000000030000412345400000008048 := by decide

/-- The metadata copies of chapter 08's worked example: node 9320, MIR_BIT 8, META_BASE 0x0800_0000. -/
theorem test_metadata_copies :
    let s := State.setCsr64 (put ready [(MPE_RGN_META_MIR_BIT 0 3, 8)]) (MPE_RGN_META 0 3) (((State.csr64 (put ready [(MPE_RGN_META_MIR_BIT 0 3, 8)])
      (MPE_RGN_META 0 3)) ||| 0x08000000#64))
    s.metaAddr 0 3 9320 0 = 0x08123400 ∧ s.metaAddr 0 3 9320 1 = 0x08123500 := by decide +kernel

/-- Channel 1 ready for decode with 16 Gb devices and the address order `order`. -/
def dramState (order : Nat) : State :=
  put ready [(DMC_HUB_CFG_CH_INTLV 1, 1), (DMC_GEOM_ORDER 1 1, order), (DMC_GEOM_DENSITY 1 1, 1), (DMC_GEOM_DEV_WIDTH 1 1, 1), (DMC_STAT_CAP_GIB 1 1, 16)]

/-- The address decode of chapter 07's worked example: 0x000A_1234_5740 under I256 and BGI, and its bank under HASH. -/
theorem test_dram_address :
    ((dramState 1).locate 1 0x212345740).map (fun l => [l.ch, l.la, l.sc, l.bg, l.col, l.ba, l.row]) = some [3, 0x42468AD, 1, 6, 10, 2, 0x4246] ∧
    ((dramState 3).locate 1 0x212345740).map (fun l => [l.bg, l.ba]) = some [0, 2] := by decide +kernel

/-- The four contexts of chapter 02's FIR control path: context words 0 to 3, ST_INIT0, ST_INIT3 and STEP with CTX_LAST 3. -/
def firCfg : BitVec 512 :=
  0x760800682#512 ||| (0x7278006AB#512 <<< 40) ||| (0x5547FF8FD4#512 <<< 80) ||| (0x648000583#512 <<< 120) ||| (0xF000#512 <<< 320) |||
    (0x000E#512 <<< 368) ||| (0x1A#512 <<< 448)

/-- One cycle of it: the state after the edge, and Y. -/
def firCycle (c : CubitSt) : CubitSt × Half :=
  let r := wordCycle firCfg c ⟨0, 0, 0, 0, 0⟩ (false, true)
  (wordEdge firCfg c ⟨0, 0, 0, 0, 0⟩ r, wordY (cubitWord firCfg c.ctr.val) r)

/-- Cycles 0 to 3 of chapter 02's table. -/
theorem test_fir_cycles :
    let c0 := wordInit firCfg
    let c1 := (firCycle c0).1
    let c2 := (firCycle c1).1
    let c3 := (firCycle c2).1
    let c4 := (firCycle c3).1
    (c1.st[0] = 0 ∧ (c1.flags[0]).getLsbD 0 = true ∧ c1.ctr = 1 ∧ (firCycle c0).2 = 0) ∧ (c2.flags[1]).getLsbD 1 = true ∧
    (c3.st[2] = 0xFFF1 ∧ (firCycle c2).2 = 0xFFFF) ∧ (c4.st[3] = 0 ∧ c4.q = 0 ∧ c4.ctr = 0) := by decide +kernel

/-- Mantissas of chapter 04's worked example: rsb, and MOVA with SHBE, SHIFT 48, RHE and SAT 16 under BE = 24. -/
theorem test_tile_mantissas :
    let w : DWord := 0x00000070B8400006
    let t (a : DWord) : TileSt := { TileSt.zero with acc0 := a, be := 24 }
    rsb 0x0000001234567890 = 26 ∧ rsb 0xFFFFFF8000000000 = 24 ∧ (tileMove (t 0x0000001234567890) w).1.1.setWidth 48 = (0x1234 : BitVec 48) ∧
    (tileMove (t 0xFFFFFF8000000000) w).1.1.setWidth 48 = (0xFFFFFFFF8000 : BitVec 48) ∧
    tiOp 0x000105800000000E = 14 ∧ tiEnd 0x000105800000000E = 11 ∧ tiImm 0x000105800000000E = 1 := by decide +kernel

/-- Grain masks of chapter 02's counter: grain 0 adds the enable (I1) to its bit (I0); grain 10 ANDs I0 and I1. -/
theorem test_counter_grains :
    let cfg : BitVec 512 := 0xCCAA#512 ||| 0x8888#512 <<< 160 ||| 0xA#512 <<< 256 ||| 1#512 <<< 448
    let inp (i0 i1 : Bool) : CubitIn := ⟨BitVec.ofNat 16 (i0.toNat + 2 * i1.toNat), 0, BitVec.ofNat 16 (256 * i0.toNat + 512 * i1.toNat), 0, 0⟩
    grainOut cfg (inp true true) 0 false = (false, true) ∧ grainOut cfg (inp true false) 0 false = (true, false) ∧
    (grainOut cfg (inp true true) 10 false).1 = true ∧ (grainOut cfg (inp true false) 10 false).1 = false := by decide +kernel

/-- The refusal of chapter 15's example: queue 37 of H1 runs, so PWR_REFUSER reads 0x8010_2503 and PWR_REFUSE_CNT counts one. -/
theorem test_power_refusal :
    let s := put ready [(QE_Q_STAT_STATE 1 37, qRunning)]
    s.powerRefuser 2 ⟨true, 0, false, false⟩ = some (3, 1, 37) ∧
    (s.powerRefuse 3 1 37 false).csr PWR_REFUSER = 0x80102503 ∧ (s.powerRefuse 3 1 37 false).csr PWR_REFUSE_CNT = 1 := by decide +kernel

/-! ### Cubits, probes and trace -/

/-- Whether CubitEdge and CubitFree hold of cubit (0, 0) of site 1 from `s` to `t`, both with the configuration `cfg` and its clock 0. -/
def edgeFacts (s t : State) (cfg : BitVec 512) : Bool :=
  s.cubitCfg 1 0 0 = cfg ∧ t.cubitCfg 1 0 0 = cfg ∧ cubitClkSel cfg = 0 ∧ s.clockRuns 1 0 ∧ t.clockEdge (placeKey 1 0) 0 ∧
    t.acreClocked (placeKey 1 0) ∧ t.gsrHolds (placeKey 1 0) 0 = false ∧ t.snapWaits 1 0 0 = false

theorem edge_of_facts (s t : State) (cfg : BitVec 512) (ht : s.edgeAt (placeKey 1 0) 0 false = t) (h : edgeFacts s t cfg = true) :
    CubitEdge s 1 0 0 false t ∧ CubitFree t 1 0 0 := by
  obtain ⟨h1, h2, h3, h4, h5, h6, h7, h8⟩ := of_decide_eq_true h
  have e : ((1 : Fin 64) : Nat) = 1 := by decide
  have z : ((0 : Fin 128) : Nat) = 0 := by decide
  constructor
  · constructor <;> simp only [e, z, h1, h3] <;> first | assumption | decide
  · constructor <;> simp only [e, z, h2, h3] <;> assumption

/-- The configurations of the tests below. -/
def cfgs : List (BitVec 512) := [0, 0x17, 0x18, BitVec.twoPow 512 448, BitVec.twoPow 512 463]

/-- Hypotheses CubitEdge and CubitFree of the statements about cubits. -/
theorem test_hyps_edge (cfg : BitVec 512) (h : cfg ∈ cfgs) :
    CubitEdge (withCubit cfg) 1 0 0 false (atEdge cfg) ∧ CubitFree (atEdge cfg) 1 0 0 := by
  have f : (cfgs.all fun c => edgeFacts (withCubit c) (atEdge c) c) = true := by decide +kernel
  exact edge_of_facts _ _ cfg (by unfold atEdge; rfl) (List.all_eq_true.mp f cfg h)

/-- Further hypotheses of WordOperationCommits, at the first opcode and, at the last, UNPKH: neither CLR_EN nor WCE_EN. -/
theorem test_hyps_WordOperationCommits :
    ∀ n ∈ [0, 0x17], let o := (atEdge (BitVec.ofNat 512 n)).before
      cubitBitMode (o.cubitCfg 1 0 0) = false ∧ o.cubitOpc 1 0 0 = n ∧ cubitClrEn (o.cubitCfg 1 0 0) = false ∧ cubitWceEn (o.cubitCfg 1 0 0) = false := by
  decide +kernel

/-- Further hypotheses of ClearReservedAndGrainEdges: CLR_EN in word mode; reserved opcode 0x18; bit mode. -/
theorem test_hyps_ClearReservedAndGrainEdges :
    (let o := (atEdge (BitVec.twoPow 512 463)).before
     cubitBitMode (o.cubitCfg 1 0 0) = false ∧ cubitClrEn (o.cubitCfg 1 0 0) = true) ∧
    (let o := (atEdge 0x18).before
     cubitBitMode (o.cubitCfg 1 0 0) = false ∧ 0x18 ≤ o.cubitOpc 1 0 0 ∧ cubitClrEn (o.cubitCfg 1 0 0) = false ∧ cubitWceEn (o.cubitCfg 1 0 0) = false) ∧
    cubitBitMode ((atEdge (BitVec.twoPow 512 448)).before.cubitCfg 1 0 0) = true := by decide +kernel

/-- CTL1 of that cubit is 1 if its select, which is a free value, takes the constant 1. -/
theorem test_hyps_synchronousClear (s : State) (h : Config.inputSelect (s.perchFrames 1 0 0) 0 65 = some .one) :
    (s.cubitIn 1 0 0).ctl.getLsbD 1 = true := by
  have w : s.wire 1 (.inp 0 0 65) = true := by
    show s.wireStep 1 (s.wireWithin 1 (dieWires - 1)) (.inp 0 0 65) = true
    simp only [State.wireStep, h]; rfl
  simp only [State.cubitIn, cubitInOf, w]
  cases s.wire 1 (.inp 0 0 64) <;> cases s.wire 1 (.inp 0 0 66) <;> cases s.wire 1 (.inp 0 0 67) <;> rfl

/-- Hypotheses of ZeroAndSignOfEveryResult, ShiftAndRotateCarry (both shift amounts) and NoChainAcrossAcres at their boundary values. -/
theorem test_hyps_word_operations :
    (0x17 < 0x18 ∧ 0x17 ≠ 0x06) ∧ (0x0F ≤ 0x0F ∧ 0x0F ≤ 0x13 ∧ (0x10 : Half).toNat % 16 = 0 ∧ (0x1F : Half).toNat % 16 ≠ 0) ∧ 64 % 64 = 0 := by decide

/-- Results of R70 by hand: 0xFFFF + 1 is 0 with C and Z; 0x7FFF + 1 overflows to a negative sum; 0 - 1 borrows (C = 0). -/
theorem test_adder :
    wordOp 0x02 0xFFFF 1 0 false false = ⟨0, 0x3, 15, true⟩ ∧ (wordOp 0x02 0x7FFF 1 0 false false).flags = 0xC ∧
    wordOp 0x04 0 1 0 false false = ⟨0xFFFF, 0x4, 15, false⟩ := by decide

/-- A site-1 die whose crossing to site 2 (logical die 1) is selected. -/
def crossed : State := put (withCubit 0) [(HUB_SITE_STAT_LD_VALID 0 2, 1), (HUB_SITE_STAT_LD 0 2, 1), (LDC_CHAN_SEL_EAST 1, 2)]

/-- Hypotheses of FabricPathCommands, but for the fabric trigger: a snapshot at its edge and without one, a slip of a centered group, locks, a
lane and an entry at an edge of the probe clock, and the last entry. -/
theorem test_hyps_FabricPathCommands :
    let s := put (withCubit 0) [(LDC_CUBIT_SNAP_REQ 1, 1)]
    (s.fld (LDC_CUBIT_ADDR_X 1) = 0 ∧ s.fld (LDC_CUBIT_ADDR_Y 1) = 0 ∧ s.clockRuns 1 0 = true ∧ (s.edgeAt (placeKey 1 0) 0 false).clockEdge (placeKey 1 0) 0 = true ∧
      (s.edgeAt (placeKey 1 0) 0 false).snapWaits 1 0 0 = true) ∧
    s.bit (LDC_CUBIT_SNAP_REQ 1) = true ∧
    (crossed.crossSrc (edgeGroup 1 1 31).1 (decide (2 ≤ (1 : Fin 4).val)) = some (.acre (placeKey 2 2)) ∧
      (let t := crossed.setChan (chanKey (edgeGroup 1 1 31).1 (edgeGroup 1 1 31).2) { ChanSt.zero with wr := 2 }
       (t.chan (chanKey (edgeGroup 1 1 31).1 (edgeGroup 1 1 31).2)).rd = (t.chan (chanKey (edgeGroup 1 1 31).1 (edgeGroup 1 1 31).2)).wr - 2)) ∧
    s.bit (LDC_PCLK_CFG_LOCK 1 0) = true ∧ (s.bit (LDC_PCLK_CFG_EN 1 0) = true ∧ s.fld (LDC_PCLK_CFG_ODIV 1 0) ≠ 0) ∧
    (let p := put (s.setProbe 1 { s.probe 1 with pend := [63] }) [(LDC_TRACE_CTL_ARM 1, 1), (LDC_TRACE_STAT_WPTR 1, 1022)]
     let t := p.edgeAt (placeKey 1 0) (p.probeClock 1) true
     p.clockRuns 1 (p.probeClock 1) = true ∧ 63 ∈ (t.probe 1).pend ∧ t.bit (LDC_PROBE_CTL_DEST 1) = false ∧ t.bit (LDC_TRACE_CTL_ARM 1) = true ∧
       (t.probe 1).trigs = [] ∧ (t.probe 1).left = none ∧ t.fld (LDC_TRACE_STAT_WPTR 1) < 1023) ∧
    ((put s [(LDC_TRACE_CTL_ARM 1, 1)]).bit (LDC_TRACE_CTL_ARM 1) = true ∧
      ((s.setProbe 1 { s.probe 1 with left := some 0 }).probe 1).left = some 0) := by decide +kernel

/-- The state before and after an instant at which output wire 16 of cubit (0, 0) rose. -/
def risen : State :=
  let s := put (withCubit 0) [(LDC_TRACE_CTL_TEN_FAB 1, 1)]
  { s with fab := { s.fab with cubits := [(cubitKey 1 0 0, some { CubitSt.zero with q := 1 })] } }

/-- The fabric trigger rises there if the trigger-out tap, whose select is a free value, takes that wire. -/
theorem test_hyps_fabricTrigger (h : Config.trigOutSelect (risen.perchFrames 1 0 0) = some (.cubit 0 16)) :
    risen.before.fabricTrigger 1 = false ∧ risen.fabricTrigger 1 = true ∧ risen.bit (LDC_TRACE_CTL_TEN_FAB 1) = true := by
  have e : ∀ s : State, (∀ a ∈ [1, 2, 3], s.wiresHeld (placeKey 1 a) = true) → s.wiresHeld (placeKey 1 0) = false →
      Config.trigOutSelect (s.perchFrames 1 0 0) = some (.cubit 0 16) → s.fabricTrigger 1 = (s.cubit 1 0 0).q.getLsbD 0 := by
    intro s h1 h0 hs
    have w : s.wire 1 (.out 0 0 16) = (s.cubit 1 0 0).q.getLsbD 0 := by
      show s.wireStep 1 (s.wireWithin 1 (dieWires - 1)) (.out 0 0 16) = _
      simp only [State.wireStep]
      rfl
    simp only [State.fabricTrigger, List.range, List.range.loop, List.any_cons, List.any_nil]
    simp only [h1 1 (by simp), h1 2 (by simp), h1 3 (by simp), h0, hs, State.srcValue]
    have n : Wire.out (4 * (16 * (0 % 2)) + ((0 : Fin 16) : Nat) % 4) (4 * (16 * (0 / 2)) + ((0 : Fin 16) : Nat) / 4) ((16 : Fin 32) : Nat) = .out 0 0 16 := by
      decide
    simp only [Bool.not_true, Bool.false_and, Bool.or_false, Bool.not_false, Bool.true_and, n, w]
  have f : risen.before.perchFrames 1 0 0 = risen.perchFrames 1 0 0 := by decide +kernel
  refine ⟨(e _ (by decide +kernel) (by decide +kernel) (f ▸ h)).trans ?_, (e _ (by decide +kernel) (by decide +kernel) h).trans ?_, ?_⟩ <;> decide +kernel

/-- Hypotheses of FabricRegisterWritesApply, at the last local clock, the last lane and the last bushel. -/
theorem test_hyps_FabricRegisterWritesApply :
    let s := withCubit 0
    s.regReached (LDC_LCLK_CFG 1 15) = true ∧ s.regReached (LDC_PROBE_SEL 1 63) = true ∧ s.regReached (LDC_PROBE_CTL 1) = true ∧
    s.regReached (LDC_TRACE_CTL 1) = true ∧ (s.regReached (LDC_CUBIT_SNAP 1) = true ∧ s.bit (LDC_CUBIT_SNAP_REQ 1) = false ∧
      s.acreHeld 1 (cubitAcre (s.fld (LDC_CUBIT_ADDR_X 1)) (s.fld (LDC_CUBIT_ADDR_Y 1))) = false) ∧
    (s.regReached (LDC_BSH_DIAG_CTL 1) = true ∧ s.levelS 0x010 = true ∧ s.bit (LDC_BSH_DIAG_CTL_BUSY 1) = false ∧ bitsOf (767 : Word) 0 10 < 768 ∧
      (s.place (placeKey 1 (bitsOf (767 : Word) 0 10 / 192))).loading = false) := by decide +kernel

/-- Hypotheses of TraceTriggersOnce: a register that answers, an enabled network, and a trigger due at an edge: armed without a trigger, with one,
and not armed. -/
theorem test_hyps_TraceTriggersOnce :
    let s := put ((withCubit 0).setProbe 1 { ProbeSt.zero with trigs := [0] }) [(LDC_TRACE_CTL_ARM 1, 1), (LDC_TRACE_CTL_TEN_NET 1, 1)]
    let t := s.edgeAt (placeKey 1 0) (s.probeClock 1) true
    s.regReached (LDC_TRACE_CTL 1) = true ∧ s.bit (LDC_TRACE_CTL_TEN_NET 1) = true ∧ s.clockRuns 1 (s.probeClock 1) = true ∧ 0 ∈ (t.probe 1).trigs ∧
    (t.bit (LDC_TRACE_CTL_ARM 1) = true ∧ t.bit (LDC_TRACE_STAT_TRIGGERED 1) = false ∧ t.bit (LDC_PROBE_CTL_DEST 1) = false) ∧
    (put t [(LDC_TRACE_STAT_TRIGGERED 1, 1)]).bit (LDC_TRACE_STAT_TRIGGERED 1) = true ∧ (put t [(LDC_TRACE_CTL_ARM 1, 0)]).bit (LDC_TRACE_CTL_ARM 1) = false := by
  decide +kernel

/-- Hypotheses of GsrHoldsCubits: GSR is asserted after reset, and an edge command answers a state. -/
theorem test_hyps_GsrHoldsCubits :
    (ready.place (placeKey 1 3)).gsrOff = false ∧ cubitAcre 127 127 = 3 ∧ ∃ t : State, exec (.grainEdge 1 127 127 false) ready = .next t := by
  refine ⟨by decide +kernel, by decide, _, rfl⟩

/-! ### Bushels and MAC tiles -/

/-- A port access of the highest row. -/
def rowAccess (we : BitVec 12) : BshAccess := ⟨1023, 0x55, we, false⟩

/-- An edge of port A with the access given, and CLEAR. -/
def portEdge (a : Option BshAccess) (clear : Bool) : BshEdge := ⟨true, a, none, clear, 0, false⟩

/-- Hypotheses of BushelCommandsAct, at the last bushel, and of BushelFrame. -/
theorem test_hyps_BushelCommandsAct :
    let s := withCubit 0
    (s.bshClocked 1 767 (portEdge (some (rowAccess 0)) false) = true ∧ s.bshHas 1 767 (portEdge (some (rowAccess 0)) false) false = true) ∧
    (s.bshClocked 1 767 (portEdge (some (rowAccess 0xFF)) false) = true ∧ s.bshHas 1 767 (portEdge (some (rowAccess 0xFF)) false) true = true) ∧
    (s.bshClocked 1 767 (portEdge none true) = true ∧ (portEdge none true).clear = true) ∧
    (isLogicSite 1 = true ∧ s.clocksHeld (placeKey 1 (767 / 192)) = false ∧ s.clockRuns 1 (s.bshClk 1 767 true) = true ∧
      (s.edgeAt (placeKey 1 (767 / 192)) (s.bshClk 1 767 true) true).clockEdge (placeKey 1 (767 / 192)) (s.bshClk 1 767 true) = true) ∧
    (put s [(LDC_BSH_SCRUB_EN 1 3, 1)]).bit (LDC_BSH_SCRUB_EN 1 (767 / 192)) = true ∧
    (let x := s.setBsh 1 767 { BshSt.zero with back := some (1023, 0) }
     (x.bsh 1 767).back = some (1023, 0) ∧ ((x.edgeAt (placeKey 1 (767 / 192)) (x.bshClk 1 767 true) true).bsh 1 767).back = some (1023, 0)) ∧
    (let x := put { s with fab := { s.fab with diags := [(1, 767)] } } [(LDC_BSH_DIAG_CTL_BUSY 1, 1)]
     x.bit (LDC_BSH_DIAG_CTL_BUSY 1) = true ∧ x.diagBushel 1 = 767) ∧
    (bushelKey 1 766 ≠ bushelKey 1 767 ∧ 1023 < 1024) := by decide +kernel

/-- Tile 0 of site 1 runs; its instruction memory holds `w` coded at PC 0. -/
def withTile (w : DWord) : State :=
  let s := (withCubit 0).setTile 1 0 { TileSt.zero with mode := .run }
  { s with fab := { s.fab with imem := [(tileKey 1 0 * 32, secEncode8 w)] } }

/-- Hypotheses of TileOperationRuns, for REP with END 1 and IMM 0 (one pass over instruction 1), and of TileCommandFrame. -/
theorem test_hyps_TileOperationRuns :
    let w : DWord := 0x0000_0080_0000_000E
    let s := withTile w
    let o := secDecode8 (s.iword 1 0 (s.tile 1 0).pc)
    s.tileRuns 1 0 = true ∧ o.ue = false ∧ o.data = w ∧ tiOp w = 14 ∧ tiIllegal w = false ∧
      ((s.tileCount 1 0 o.ce o.ue false false).tile 1 0).waits w = 0 ∧ repBad ((s.tileCount 1 0 o.ce o.ue false false).tile 1 0) w = false := by decide +kernel

/-- Hypotheses of TileControlAndStreams: halted under release, running, to be stopped, stopped, and with room and words on the streams. -/
theorem test_hyps_TileControlAndStreams :
    let s := withTile 0
    (s.acreClocked (tilePlace 1 0) = true ∧ (s.tile 1 1).mode.halted = true) ∧
    (s.tileOpen 1 0 = true ∧ (s.tile 1 0).mode.halted = false) ∧
    (((s.setTile 1 0 { s.tile 1 0 with stopReq := true }).tile 1 0).stopReq = true ∧ (s.tile 1 0).mode.halted = false) ∧
    (s.tileOpen 1 0 = true ∧ ((s.setTile 1 0 { s.tile 1 0 with mode := .stopped }).tile 1 0).mode = .stopped) ∧
    (s.acreClocked (tilePlace 1 0) = true ∧ s.clockRuns 1 (bitsOf (s.tile 1 0).ctl 13 3) = true ∧ (s.tile 1 0).is0.length < 4 ∧
      (s.tile 1 0).is1.length < 4 ∧ ((s.setTile 1 0 { s.tile 1 0 with os := [(7, false)] }).tile 1 0).os = (7, false) :: []) := by decide +kernel

/-! ### Configuration, start-up, resets, clocks and power -/

/-- An image with one segment, for acre 0. -/
def image : Image :=
  { src := .flash 0, id := 0, epoch := 0, partialImage := false, strict := false, early := 0, pclk := [], key := 0,
    segs := [⟨0, false, 0, 0, 0, 0, 0, 0, 0, 0, 0, 0, 0, [], 0⟩] }

/-- An operation on acre 191. -/
def operation (op : Nat) (phase : OpPhase) : OpSt := ⟨op, 0, 0, phase, none, [191], 191, 0, [], 0, [], [], false, false, false⟩

/-- A running device whose logical die 47 stands on site 1, with a retained segment of acre 191 clocked by RCLK 0, which runs. -/
def withAcre (st : Nat) : State :=
  let s := put (withCubit 0) [(CFG_ACRE_STATE 191, st), (HUB_SITE_STAT_LD 0 1, 47), (LDC_PCLK_CFG_LOCK 1 0, 1)]
  { s with cfg := { s.cfg with
      retained := [(191, some ⟨.pushed, 0, ⟨191, false, 0, 0, 0, 0, 0, 0, 1, 0, 0, 0, 0, [], 0⟩⟩)], pclk := some (List.replicate 8 0x10001) } }

/-- Hypotheses of ConfigurationOperationsStart: each operation of CFG_CMD with GO, by a Level S master, on the last acre; that acre RUNNING,
EMPTY and FAILED. -/
theorem test_hyps_ConfigurationOperationsStart :
    (∀ st ∈ [acRunning, acEmpty, acFailed], let s := put (withAcre st) [(CFG_ARG_ACRE, 191)]
      s.regReached CFG_CMD = true ∧ s.levelS 0x010 = true ∧ s.acreState (s.fld CFG_ARG_ACRE) ≠ acLoading ∧ s.cfg.op = none ∧
        s.fld RST_STAT_STATE = 1 ∧ s.fld CFG_ARG_ACRE ≤ 191 ∧ s.cfg.xfer = none ∧ s.acreState (s.fld CFG_ARG_ACRE) = st) ∧
    ∀ n ∈ [1, 2, 3, 4, 5, 6], bitsOf (BitVec.ofNat 32 (16 + n)) 0 4 = n ∧ (BitVec.ofNat 32 (16 + n)).getLsbD 4 = true := by decide +kernel

/-- Hypotheses of AcreCommandsAct. -/
theorem test_hyps_AcreCommandsAct :
    (let s := starting 4
     s.safe = false ∧ s.inPhase 4 6 = true ∧ s.cfg.refusal = 0 ∧ (firstSource s.cfgMode).isSome ∧ s.cfg.image = none ∧ s.sourceReady = true) ∧
    (let s := { starting 5 with cfg := { (starting 5).cfg with image := some image } }
     s.safe = false ∧ s.cfg.image = some image ∧ s.inPhase 5 6 = true ∧ s.acreState image.early = acEmpty ∧
       image.segs.any (fun g => g.acre = image.early) = true) ∧
    (let s := { ready with cfg := { ready.cfg with staged := [(191, [])], op := some (operation 1 .loads) } }
     s.safe = false ∧ (s.stagedOf 191).isSome ∧ s.inPhase 6 6 = false ∧ s.cfg.op = some (operation 1 .loads) ∧ (operation 1 .loads).op = 1 ∧
       (operation 1 .loads).phase = .loads ∧ 191 ∈ (operation 1 .loads).acres ∧ s.ldcFree 191 (operation 1 .loads).acres = true ∧ s.acreState 191 = acEmpty) ∧
    (let s := { ready with cfg := { ready.cfg with loads := [⟨191, 7, [], true, none, 0, false⟩] } }
     s.safe = false ∧ s.loadOf 191 = some ⟨191, 7, [], true, none, 0, false⟩) := by decide +kernel

/-- Hypotheses of AcreCommandsAct: the release stages, a missing clock, quiescence and an upset. -/
theorem test_hyps_AcreCommandsAct_release :
    (let s := { withAcre acLoaded with cfg := { (withAcre acLoaded).cfg with due := [191] } }
     s.safe = false ∧ 191 ∈ s.cfg.due ∧ s.rclkRuns 191 = true ∧ s.acrePlace (191 / 4) (191 % 4) = some 7) ∧
    (let s := (withAcre acReleasing).setPlace 7 ⟨false, false, true, 1, 0, 0⟩
     s.safe = false ∧ s.stageReady 191 1 = some 7) ∧
    (let s := (withAcre acReleasing).setPlace 7 ⟨false, false, true, 2, 0, 0⟩
     s.safe = false ∧ s.stageReady 191 2 = some 7 ∧ s.cfg.op = none) ∧
    (let s := { ready with cfg := { ready.cfg with due := [191] } }
     s.safe = false ∧ s.rclkRuns 191 = false ∧ 191 ∈ s.cfg.due ∧ s.cfg.op = none) ∧
    (let s := withAcre acQuiescing
     s.safe = false ∧ s.acreState 191 = acQuiescing ∧ s.gatesQuiet 191 = true ∧ s.cfg.op = none ∧ ResetRun.acre 191 ∉ s.rst.running) := by decide +kernel

/-- `s` with a retained segment of acre 191 whose CRC is not that of its frames in place 7. -/
def upset (s : State) : State :=
  { s with cfg := { s.cfg with retained := [(191, some ⟨.pushed, 0, ⟨191, false, 0, 0, 0, 0, 0, 0, s.checkCrc 7 + 1, 0, 0, 0, 0, [], 0⟩⟩)] } }

theorem upset_differs (s : State) : ∃ r, (upset s).retainedSeg 191 = some r ∧ (upset s).checkCrc 7 ≠ r.seg.crc := by
  refine ⟨_, rfl, ?_⟩
  have e : (upset s).checkCrc 7 = s.checkCrc 7 := rfl
  rw [e]
  generalize s.checkCrc 7 = c
  bv_omega

/-- Hypotheses of AcreCommandsAct: an upset. -/
theorem test_hyps_AcreCommandsAct_upset :
    let s := put (withAcre acRunning) [(CFG_CHECK_EN, 1)]
    ((upset s).safe = false ∧ (upset s).acrePlace (191 / 4) (191 % 4) = some 7 ∧ (upset s).bit CFG_CHECK_EN = true ∧ (upset s).acreState 191 = acRunning) ∧
    ∃ r, (upset s).retainedSeg 191 = some r ∧ (upset s).checkCrc 7 ≠ r.seg.crc := ⟨by decide +kernel, upset_differs _⟩

/-- A lifetime store whose board configuration record 0 is valid: its mark, its version, and the CRC of 500 zero bytes. -/
def withBcr (s : State) : State :=
  let b : Map Byte := [(0, 0x51), (1, 0x42), (2, 0x43), (3, 0x52), (4, 1), (8, 0x5D), (9, 0xD6), (10, 0xF4), (11, 0x15)]
  { s with lts := { s.lts with copy0 := { s.lts.copy0 with bcr := b }, copy1 := { s.lts.copy1 with bcr := b }, live := { s.lts.live with bcr := b } } }

set_option maxRecDepth 1000000 in
/-- Hypotheses of StartupPhasesEnd, phases 0 to 3. -/
theorem test_hyps_StartupPhasesEnd :
    (starting 0).startPhase 0 = true ∧
    (let f : Sp1Find := ⟨3, 3, false, false, true, true, true⟩
     (starting 1).startPhase 1 = true ∧ f.refReady = 3 ∧ f.iosc = 3 ∧ f.plls = true ∧ f.rails = true ∧ f.xtal = true) ∧
    (let s := withBcr (starting 2)
     let f : Sp2Find := ⟨0, 0, 0, 0, [], []⟩
     let s0 := (s.setCsr64 RST_BIST_SITES 0).setFld CFG_STAT_CFG_MODE f.mode.toNat
     let s3 := ((s0.readStore f.sectors).bootUnits f.slots).bistHubs 0
     s.startPhase 2 = true ∧ f.mbist = 0 ∧ f.lbist = 0 ∧ f.sram = 0 ∧ s0.mapLost f.sectors = false ∧ 0 ∉ s3.rst.noFw ∧ 1 ∉ s3.rst.noFw ∧ s3.bcrOk 0 = true) ∧
    (let s := starting 3
     let f : Sp3Find := ⟨[], 0, 0, 0, 0, 0⟩
     s.startPhase 3 = true ∧ s.siteMismatch f = false ∧ s.portsBad f = 0 ∧ f.islands = 0 ∧ f.cut = 0 ∧
       ∀ row < 4, adjacentFailed row s.tiFailed = false) := by decide +kernel

/-- What training finds on a channel without devices, and on a port without one. -/
def noChans : Vector ChanTrain 4 := Vector.replicate 4 ⟨0, 0, 0⟩
/-- No CXL device. -/
def noCxl : Vector CxlTrain 4 := Vector.replicate 4 ⟨false, 0, 0, 0, false⟩

/-- Hypotheses of StartupPhasesEnd, phases 4 to 7, and of StartDoneMeansRunning. -/
theorem test_hyps_StartupPhasesEnd_later :
    ((starting 4).startPhase 4 = true ∧ (starting 4).logicBad 0 = []) ∧
    (∀ p ∈ [false, true],
     let s := { starting 5 with rst := { (starting 5).rst with powerOn := p } }
     let r0 := (if s.rst.powerOn then s.zeroMpe else s).trainHub 0 #v[noChans[0], noChans[1]] #v[noCxl[0], noCxl[1]]
     let r1 := r0.1.trainHub 1 #v[noChans[2], noChans[3]] #v[noCxl[2], noCxl[3]]
     s.startPhase 5 = true ∧ r0.2 = false ∧ r1.2 = false ∧ (firstSource (r1.1.phaseEnd 5 0).cfgMode).isSome) ∧
    (let s := put { starting 6 with cfg := { (starting 6).cfg with image := some image } } [(CFG_ACRE_STATE 0, acLoaded)]
     s.startPhase 6 = true ∧ s.cfg.refusal = 0 ∧ s.cfg.image = some image ∧ s.imageLoaded image = true ∧ image.strict = false) ∧
    ((starting 7).startPhase 7 = true ∧ ∀ la < 192, (starting 7).acreState la ≠ acLoaded ∧ (starting 7).acreState la ≠ acReleasing) := by decide +kernel

/-- The state with a reset that runs. -/
def resetting (r : ResetRun) : State := { ready with rst := { ready.rst with running := [r] } }

/-- Hypotheses of ResetCommandsAct. -/
theorem test_hyps_ResetCommandsAct :
    (let s := { ready with rst := { ready.rst with parked := true, wakes := 1 } }
     s.rst.parked = true ∧ s.rst.wakes ≠ 0) ∧
    (15 < 16 ∧ ready.rst.parked = false ∧ 3 ≤ ready.fld RST_STAT_PHASE) ∧
    (let s := { ready with rst := { ready.rst with warm := true } }
     s.rst.warm = true ∧ s.rst.warmDone.getLsbD 1 = false) ∧
    (let s := { ready with rst := { ready.rst with warm := true, warmDone := 3 } }
     s.rst.warm = true ∧ s.rst.warmDone = 3) ∧
    (ready.regReached RST_CTL = true ∧ ready.levelS 0x010 = true ∧ (0x80000001 : Word).getLsbD 31 = true) ∧
    (ResetRun.hub 1 ∈ (resetting (.hub 1)).rst.running ∧ (resetting (.hub 1)).rst.warm = false ∧ (resetting (.hub 1)).safe = false) ∧
    (let s := { ready with rst := { ready.rst with hubs := 2 } }
     s.rst.hubs.getLsbD 1 = true ∧ s.safe = false ∧ ((s.penFromBcr 1).trainHub 1 (Vector.replicate 2 ⟨0, 0, 0⟩) (Vector.replicate 2 ⟨false, 0, 0, 0, false⟩)).2 = false) ∧
    (let s := { withAcre acEmpty with rst := { (withAcre acEmpty).rst with running := [.die 47] } }
     ResetRun.die 47 ∈ s.rst.running ∧ s.rst.warm = false ∧ s.safe = false ∧ s.siteOf 47 = some 1 ∧
       ∀ la ∈ s.dieAcres 47, s.acreState la ≠ acRunning ∧ s.acreState la ≠ acQuiescing) ∧
    (let s := { withAcre acEmpty with rst := { (withAcre acEmpty).rst with running := [.bist 47] } }
     ResetRun.bist 47 ∈ s.rst.running ∧ (s.resetEnds (.bist 47)).siteOf 47 = some 1 ∧ s.siteOf 47 = some 1) ∧
    (ResetRun.port 3 ∈ (resetting (.port 3)).rst.running ∧ (resetting (.port 3)).rst.warm = false ∧ (resetting (.port 3)).safe = false) ∧
    (ResetRun.acre 191 ∈ (resetting (.acre 191)).rst.running ∧ (resetting (.acre 191)).rst.warm = false ∧ (resetting (.acre 191)).safe = false) := by
  decide +kernel

/-- Hypotheses of ClockEventsAct, at both limits of the monitor's range and beside them. -/
theorem test_hyps_ClockEventsAct :
    (let s := put { ready with rst := { ready.rst with windows := [(1, 1)] } } [(CLK_STAT_IOSC_READY 1, 1), (CLK_MON_LO 1, 1), (CLK_MON_HI 1, 2)]
     s.bit (CLK_STAT_IOSC_READY 1) = true ∧ s.rst.parked = false ∧ 2 ≤ s.fld RST_STAT_PHASE ∧ 1 ≤ mapGet s.rst.windows 0 1 ∧
       s.fld (CLK_MON_LO 1) = 1 ∧ s.fld (CLK_MON_HI 1) = 2) ∧
    ((1 : BitVec 16).toNat = 1 ∧ (2 : BitVec 16).toNat = 2 ∧ (0 : BitVec 16).toNat < 1 ∧ 2 < (3 : BitVec 16).toNat) ∧
    ({ ready with rst := { ready.rst with noRefresh := 2 } }.rst.noRefresh.getLsbD 1 = true) ∧
    (let s := put { ready with rst := { ready.rst with faulted := 2 } } [(RST_STAT_STATE, 2), (RST_STAT_REASON, 3)]
     s.safe = true ∧ s.rst.faulted.getLsbD 1 = true ∧ s.bit (CLK_STAT_IOSC_READY 1) = false ∧ s.reason = 3) ∧
    (let s := put ready [(CLK_STAT_IOSC_READY 1, 1)]
     s.hubClocked 0 = true ∧ s.bit (CLK_STAT_IOSC_READY 1) = true ∧ 97656 * 108 < (105469 : BitVec 32).toNat * 100 ∧
       (89843 : BitVec 32).toNat * 100 < 97656 * 92) ∧
    ((put ready [(CLK_STAT_XTAL_READY 0, 1)]).bit (CLK_STAT_XTAL_READY 0) = true) ∧
    ({ ready with rst := { ready.rst with parked := true } }.rst.parked = true ∧ 2 ≤ ready.fld RST_STAT_PHASE) ∧
    (let s := put { ready with rst := { ready.rst with onRc := true } } [(CLK_STAT_XTAL_READY 0, 1)]
     s.bit (CLK_STAT_XTAL_READY 0) = true ∧ s.rst.onRc = true) ∧
    (let s := put { ready with rst := { ready.rst with relock := 2 } } [(CLK_STAT_REF_READY 1, 1)]
     s.rst.relock.getLsbD 1 = true ∧ s.bit (CLK_STAT_REF_READY 1) = true) ∧
    (ready.levelS 0x011 = true ∧ ready.regReached (CLK_DOM 1) = true ∧ ready.regReached (CLK_CPLL 1) = true) := by decide +kernel

/-- Hypotheses of PowerEventsAct. -/
theorem test_hyps_PowerEventsAct :
    (ready.rst.parked = false ∧ 2 ≤ ready.fld RST_STAT_PHASE) ∧
    (let s := put { ready with rst := { ready.rst with capped := 998 } } [(PWR_STAT_THR_LEVEL, 4)]
     s.powerRuns = true ∧ (200000 : BitVec 20).toNat ≤ 200000 ∧ s.rst.capped < 999 ∧ ready.powerRuns = true ∧ ready.fld PWR_STAT_THR_LEVEL ≠ 4) ∧
    (let s := { ready with rst := { ready.rst with readings := [(4 * 71 + 1, 1)] } }
     s.powerRuns = true ∧ hasSensor 71 1 = true ∧ s.diePowered 71 = true ∧ 1 ≤ mapGet s.rst.readings 0 (4 * 71 + 1) ∧ (1299 : Half).toInt < 1300 ∧ 2 ≤ 71) ∧
    (let s := put ready [(PWR_MODE_MODE, 1)]
     let f : WfiFind := ⟨true, 0, false, false⟩
     s.mayEnter = true ∧ s.acceptedRead = true ∧ State.powerRefuser { s with rst := { s.rst with wakes := 0 } } (s.fld PWR_MODE_MODE) f = none ∧ f.commit = false) ∧
    (let s := put { ready with rst := { ready.rst with asleep := true, timer := true } } [(PWR_WAKE_EN_BITS, 0x5F), (PWR_STAT_STATE, 1)]
     s.powerState = some 1 ∧ (∀ e ∈ [0, 1, 3, 4, 6], (s.csr PWR_WAKE_EN).getLsbD e = true ∧ wakeReaches e 1 = true) ∧ s.rst.entry = none ∧
       s.rst.parked = false ∧ s.rst.timer = true) ∧
    (∀ m ∈ [1, 2, 3],
     let s := put { ready with rst := { ready.rst with entry := some ⟨m, false⟩ } } [(PWR_WAKE_EN_BITS, 1)]
     s.rst.entry = some ⟨m, false⟩ ∧ s.powerState = some m ∧ (s.csr PWR_WAKE_EN).getLsbD 0 = true ∧ wakeReaches 0 m = true) ∧
    (∀ f ∈ [false, true],
     let s := put { ready with fenced := f, rst := { ready.rst with asleep := true } } [(PWR_STAT_STATE, 5)]
     s.rst.asleep = true ∧ s.fld PWR_STAT_STATE = 5 ∧ s.fenced = f) ∧
    (ready.levelS 0x010 = true ∧ ready.regReached PWR_DIE_GATE = true) ∧
    (let s := { ready with rst := { ready.rst with ungating := [1] } }
     s.siteOf 0 = some 1 ∧ 1 ∈ s.rst.ungating) ∧
    (let s1 := ((ready.islandLost 63).setSite (fun h => HUB_SITE_STAT_TI_FAIL h 63) 1).markSlow (54 + 3)
     let s2 := s1.setRingPath 3 s1.tiFailed
     isLogicSite 63 = true ∧ ready.tiFailed 63 = false ∧ 4 ≤ ready.fld RST_STAT_PHASE ∧ 63 / 16 = 3 ∧ adjacentFailed 3 s1.tiFailed = false ∧
       s2.pathCut 3 s2.tiFailed = false ∧ (s2.retireSite 63).ldOf 63 = none) := by decide +kernel
/-! ### Memory, protection, firewall and processors -/

/-- A write of a whole line of H1's DRAM. -/
def wholeLine : LineWrite := ⟨0x40, 0xFFFFFFFFFFFFFFFF, 5, 0, 0, false⟩

/-- A channel 3 of 16 GiB whose physical rank 3 serves logical rank 0. -/
def withDram : State :=
  put ready [(DMC_STAT_STATE 1 1, 2), (DMC_STAT_CAP_GIB 1 1, 16), (DMC_RANK_STATE 1 1 3, 1), (DMC_STAT_MIG_ACTIVE 1 1, 1)]

/-- The offset in H1 of the last line of that channel. -/
def lastLine : BitVec 48 := 0x7FFFFFFC0

/-- Hypotheses of MemoryControllerCommandsAct: no place at offset 0 and a place at the last line, which the write queue does not hold, holds
whole and holds in part. -/
theorem test_hyps_MemoryControllerCommandsAct_lines :
    let l := withDram.splitLine 3 (2 ^ 28 - 1)
    let w : LineWrite := { wholeLine with addr := lastLine }
    let held (w : LineWrite) : Option LineRes := (((withDram.setDmcQueue 3 l.sc [⟨lastLine, some w, false, .p, 0⟩]).dmcClock 3 0).readQueued l (lastLine.toNat / 64)).1
    withDram.dmcPlace 1 0 = none ∧ withDram.dmcPlace 1 lastLine.toNat = some l ∧ withDram.flipDram 1 lastLine.toNat 0 = withDram ∧
    ((withDram.dmcClock 3 0).readQueued l (lastLine.toNat / 64)).1 = none ∧ (held w).isSome ∧ held { w with mask := 1 } = none ∧
    w.mask = 0xFFFFFFFFFFFFFFFF#64 := by decide +kernel

/-- Hypotheses of MemoryControllerCommandsAct, at channel 3 and the last bank. -/
theorem test_hyps_MemoryControllerCommandsAct :
    let s := withDram
    let k := indexKey 1 3 3
    s.dmcReady 3 = true ∧ (s.rankLive 3 3 = true ∧ 28 % 4 < 2 ^ s.baBits 3) ∧
    (let t := s.setDmc 3 { s.dmc 3 with due := [(k, 4)] }
     mapGet (t.dmc 3).due 0 k ≠ 0 ∧ t.dmcReady 3 = true ∧ t.queuedAt 3 1 3 3 = false ∧
       ((t.dmc 3).banks.any fun kv => bankOfIndex 1 3 3 kv.1 && kv.2.row.isSome) = false) ∧
    (let t := s.setDmc 3 { s.dmc 3 with banks := [((1 * 4 + 3) * 32 + 31, ⟨1, some 9, none⟩)] }
     (mapGet (t.dmc 3).banks BankSt.init ((1 * 4 + 3) * 32 + 31)).row ≠ none) ∧
    (let l := s.splitLine 3 (2 ^ 28 - 1)
     s.locate (3 / 2) lastLine.toNat = some l ∧ l.ch = 3 ∧ s.physRank 3 l.rank = some 3) ∧
    (s.levelS 0x010 = true ∧ s.regReached (DMC_MIG 1 1) = true) ∧ (s.bit (DMC_STAT_MIG_ACTIVE 1 1) = true ∧ s.dmcReady 3 = true) := by decide +kernel

/-- Hypotheses of CxlCommandsAct, at the last line a device of 1 GiB on port 2 holds. -/
theorem test_hyps_CxlCommandsAct :
    let s := put ready [(CXL_STAT_CAP_GIB 1 0, 1), (linkFld 2, 2), (CLK_PEN_CXL 1, 3)]
    let x := s.cxlRoute 1 0x3FFFFFC0
    (x = (2, 0x3FFFFFC0) ∧ (s.cxlOuts x.1).any (fun o => o.tag = 65535) = false ∧ s.cxlCarries x = true) ∧
    ((s.setCxlOuts 2 [⟨65535, 64⟩]).cxlOuts 2).find? (fun o => o.tag = 65535) = some ⟨65535, 64⟩ ∧
    (s.setCxlPhys 3 2).cxlPhys 3 = 2 ∧ (s.levelS 0x010 = true ∧ s.regReached (CXL_CTL 1 1) = true) := by decide +kernel

/-- Hypotheses of ProtectionEngineCommandsAct, but for the tree scrub. -/
theorem test_hyps_ProtectionEngineCommandsAct :
    let s := put ready [(MPE_RGN_CFG_INIT_BUSY 1 15, 1), (MPE_RGN_CFG_DISABLING 0 15, 1), (MPE_RKEY_STAT_STATE 1, 1)]
    (s.levelS 0x011 = true ∧ s.regReached (MPE_RGN_CFG 1 15) = true ∧ s.regReached (MPE_KEY_CMD 1) = true ∧ s.regReached (MPE_RESEAL_CTL 1) = true ∧
      s.regReached (MPE_RKEY_CTL 1) = true ∧ s.regReached (MPE_FENCE 1) = true) ∧
    s.bit (MPE_RGN_CFG_INIT_BUSY 1 15) = true ∧ s.bit (MPE_RGN_CFG_DISABLING 0 15) = true ∧
    ((s.setMpe 1 { s.mpe 1 with reseal := some (15, 0, 12) }).mpe 1).reseal = some (15, 0, 12) ∧
    (s.fld (MPE_RKEY_STAT_STATE 1) = 1 ∧ s.bit (MPE_STAT_QUIESCED 1) = false) ∧
    ((s.setMpe 1 { s.mpe 1 with wcb := [⟨0, 64, 1, 0, false⟩] }).mpe 1).wcb = ⟨0, 64, 1, 0, false⟩ :: [] ∧
    ((put s [(MPE_FENCE_DONE 1, 0)]).bit (MPE_FENCE_DONE 1) = false ∧ s.fenceMet 1 = true) := by decide +kernel

/-- Hypotheses of the tree scrub: region 0 of H0, 2^TREELOG bytes with a tree of zeros, and its first node. -/
theorem test_hyps_treeScrub :
    let v := (put ready [(MPE_CTL_TSCRUB_EN 0, 1), (MPE_RGN_CFG_EN 0 0, 1), (MPE_RGN_CFG_MODE 0 0, 2)]).upsetCache 0 []
    let x := 2 * 2 ^ 20
    let q := (v.setMpe 0 { v.mpe 0 with scrub := x }).getNode 0 (x / 2 ^ 24) (4 - x / 2 ^ 20 % 16) (x % 2 ^ 20 / 32)
    let y := q.2.sramRead 0 (q.2.nodeLine 0 (x / 2 ^ 24) (x / 2 ^ 20 % 16) (x % 2 ^ 20))
    v.bit (MPE_CTL_TSCRUB_EN 0) = true ∧ (v.scrubList 0).find? (fun x => (v.mpe 0).scrub < x) = some x ∧ q.1 = .node 0 ∧
      nodeMinor 0 (x % 2 ^ 20 % 32) ≠ lostMark ∧ y.1.status = .ok ∧ y.1.data = 0 := by decide +kernel

/-- A read that the third-party die sends from its stop 1. -/
def xRead : XReq := ⟨1, 0, 0, 0, 0, 8191, 0, 7, false, 0, false, []⟩
/-- A whole request packet to stop `dst` for address `addr`, first of its sequence, with its end-to-end CRC. -/
def request (dst : BitVec 9) (opc : BitVec 3) (addr : BitVec 48) : ReqPkt :=
  let p : ReqPkt := ⟨dst, 384, 0, .g, 0, addr, 0x010, 0, opc, 0, false, true, false, 0, 0, 0, false, [], true⟩
  { p with crc := reqCrc p }

/-- Hypotheses of FirewallCommandsAct, at the last tag and the last window. -/
theorem test_hyps_FirewallCommandsAct :
    let s := put ready [(LNK_STAT_STATE 130, 5)]
    let o : FwlOut := ⟨8191, request 398 0 0xE000000000⟩
    ((s.fwall 1).ins.any (fun i => i.tag = 8191 && i.x.j = xRead.j) = false ∧ s.xLinkUp 1 = true) ∧
    (s.fwlFenced 1 = false ∧ ((s.setFwall 1 ⟨[o], [], [], []⟩).fwall 1).outs.find? (fun o => o.xtag = 8191) = some o) ∧
    (let u := s.setFwall 0 ⟨[o], [], [], []⟩
     (u.fwall 0).outs.any (fun o => o.xtag = 8191) = true ∧ u.freeXtag 0 = some 0 ∧ (u.arrive (hubStop 0 14) (request 398 0 0xE000000000)).1.isSome) ∧
    ((s.fwall 1).outs.any (fun o => o.xtag = 8191) = false ∧ (s.arrive (hubStop 0 14) (request 398 0 0xE000000000)).1.isSome) ∧
    (s.levelS 0x010 = true ∧ s.regReached (FWL_CTL 1) = true ∧ s.regReached (FWL_WIN_CFG 1 63) = true) := by decide +kernel

/-- Hypotheses of ProcessorCommandsAct, at the last core. -/
theorem test_hyps_ProcessorCommandsAct :
    let s := put ready [(HUB_CPU_CTL_RUN 1, 8), (CMD_AUTH_LEVEL 1, 2), (WDT_CORE_CTL_EN 1 3, 1), (WDT_SAFE_CTL_EN, 1), (HUB_SEM_LEASE_LEASE_US 1, 1)]
    (s.hubAnswers 1 = true ∧ s.hartRuns 7 = true ∧ s.cacheable 1 0xE000000000 = false) ∧
    (s.levelS 0x010 = true ∧ s.regReached (HUB_CPU_CTL 1) = true) ∧
    (dmiPermitted s.jtagLevel true (0x7FF % 0x400) 0 = true ∧ 0x7FF / 0x400 = 1 ∧ s.hubAnswers 1 = true) ∧
    (let t := s.setDm 1 { s.dm 1 with sbtag := some (3, true) }
     let u := { t with ring := { t.ring with inbox := [⟨hubStop 1 10, 3, .ok, .none, false, false, []⟩] } }
     u.hubAnswers 1 = true ∧ (u.dm 1).sbtag = some (3, true) ∧ (u.inboxAt (hubStop 1 10) 3).isSome) ∧
    (let t := s.setHart 7 { s.hart 7 with trigs := [(14, 0x5000000000000000)] }
     (t.hartRuns 7 = true ∧ (t.hart 7).halted = false ∧ 3 ≤ bitsOf ((t.hart 7).trig 7).1 60 4 ∧ bitsOf ((t.hart 7).trig 7).1 60 4 ≤ 5)) ∧
    s.jtagLevel = 2 ∧
    (let t := s.setHart 7 { s.hart 7 with halted := true, resumereq := true }
     (t.hart 7).halted = true ∧ (t.hart 7).resumereq = true) ∧
    (let t := (s.setSem 1 63 (some 0x57)).setHart 7 { s.hart 7 with halted := true }
     t.sem 1 63 = some 0x57 ∧ t.hubAnswers 1 = true ∧ t.fld (HUB_SEM_LEASE_LEASE_US 1) ≠ 0 ∧ t.midHalted 0x57 = true) ∧
    (s.regReached (WDT_CORE_SVC 1 3) = true ∧ (s.coreService 0x57 7 0x5A5A).2 = .ok) ∧
    (s.hubAnswers 1 = true ∧ s.coreCounts 7 = true ∧ (s.hart 7).wdtHeld = false) ∧
    (s.levelS 0x010 = true ∧ s.regReached WDT_SAFE_SVC = true) ∧ (s.bit WDT_SAFE_CTL_EN = true ∧ s.rst.parked = false) := by decide +kernel

/-! ### Port dies, queues and time base -/

/-- An open frame on interface 7, virtual channel 15. -/
def openFrame : Frame :=
  ⟨7, 15, 0, 0, 0, 0, 0, false, 0, 0, 0, false, 0, none, 0, 0, 0, 0, 0, 0, none, false, false, false, false, false, [], none, false, .running, false⟩

/-- Hypotheses of IntakeAndTransmitAct, at the last interface and virtual channel. -/
theorem test_hyps_IntakeAndTransmitAct :
    let s := put ready [(PRT_INT_CTL_EN 3 7, 1), (PRT_INT_VC_EN 3 7 15, 1), (PRT_CTX_CFG_EN 3 1, 1), (PRT_INT_VC_DT_HI 3 7 15, 63)]
    let hdr : CsiHdr := ⟨.clean, false⟩
    (s.bit (PRT_INT_CTL_EN 3 7) = true ∧ hdr.ecc = .clean ∧ (((s.frameMissing 3 7 15).dropEnd 3 7 15).csiHeader 3 7 15 hdr).vcOn 3 7 15 = true) ∧
    (let t := { s with port := { s.port with frames := [(3, [openFrame])] } }
     let u := t.csiHeader 3 7 15 hdr
     t.bit (PRT_INT_CTL_EN 3 7) = true ∧ (mapGet u.port.dropping [] 3).contains (7, 15) = false ∧ (u.frames 3).any (Frame.isOpen 7 15) = true ∧
       u.fld (PRT_INT_VC_DT_LO 3 7 15) ≤ 63 ∧ 63 ≤ u.fld (PRT_INT_VC_DT_HI 3 7 15)) ∧
    ((s.setCtx 3 1 { s.ctx 3 1 with buf := [(0, [])] }).ctx 3 1).buf = (0, []) :: [] := by decide +kernel

/-- Port die 3 with logical die 36 on site 1, whose package clock 7 clocks the last transmit stream; its group captured VALID and a header
of no words. -/
def withStream : State :=
  let s := put ready [(HUB_SITE_STAT_STATE 0 48, 1), (HUB_SITE_STAT_STATE 0 1, 1), (HUB_SITE_STAT_LD 0 1, 36), (LDC_CHAN_SEL_WEST_PORT 1, 1),
    (LDC_PCLK_CFG_LOCK 1 7, 1), (PRT_CTX_CFG_EN 3 1, 1)]
  let t := { s with fab := { s.fab with frames := [(placeKey 1 2 * 16384 + 0x2001, 15#4096 <<< 32)] } }
  t.setChan (portChanKey 3 28) { ChanSt.zero with capture := 3 }

/-- Hypotheses of IntakeAndTransmitAct: a word of the last transmit stream. -/
theorem test_hyps_streamWord :
    let s := withStream
    let u := s.edgeAt (placeKey 1 2) 7 false
    s.siteOf (12 * 3) = some 1 ∧ s.groupOf (placeKey 1 2) (8 * 1) % 8 = 7 ∧ s.groupClocked (placeKey 1 2) (8 * 1) 7 = true ∧
    u.before.portWire 3 (384 + 64) = true ∧ u.before.ctxReady 3 1 = true ∧ u.before.portWire 3 (384 + 65) = true ∧
    ((u.ctx 3 1).word true 0).2 = none ∧ (List.range 64).all (fun i => !u.before.portWire 3 (384 + i)) = true := by decide +kernel

/-- A frame that waits on MAC 3, class 7. -/
def waitingFrame : EthFrame := ⟨3, 7, 0, 64, 0, none, [(3, .waiting)], none⟩

/-- Hypotheses of EthernetCommandsAct, at the last MAC and the longest frame. -/
theorem test_hyps_EthernetCommandsAct :
    let s := put ready [(PRT_ETH_CFG_EN 3 3, 1), (PRT_ETH_STAT_LINK_UP 3 3, 1), (PRT_ETH_STAT_CHANGE_PEND 3 3, 1), (CLK_PRT_PEN_MAC 3, 15),
      (HUB_SITE_STAT_STATE 0 48, 1)]
    s.bit (PRT_ETH_CFG_EN 3 3) = true ∧ 9600 ≤ 9600 ∧
    (s.levelS 0x010 = true ∧ s.regReached (PRT_ETH_COMMIT 3 3) = true ∧ (s.ethCommit 3 3 13).2 = .ok) ∧
    (let t := s.setTx 3 [waitingFrame]
     (t.tx 3).any (fun f => f.copyOn 3 = some .sending) = false ∧ t.bit (PRT_ETH_CFG_EN 3 3) = true ∧ t.bit (PRT_ETH_STAT_LINK_UP 3 3) = true ∧
       (t.txHeads 3 3).find? (fun f => t.gateSay 3 3 f ≠ .wait) = some waitingFrame ∧ t.gateSay 3 3 waitingFrame ≠ .never) ∧
    s.regReached (PRT_ETH_TXST 3 3) = true ∧ s.regReached (PRT_ETH_GCL_CTL 3 3) = true ∧
    (let t := { s with port := { s.port with gclAt := [(15, some 0)] } }
     mapGet t.port.gclAt none (4 * 3 + 3) = some 0 ∧ t.bit (PRT_ETH_STAT_CHANGE_PEND 3 3) = true ∧ 0 ≤ (t.portTime 3).1.toNat) := by decide +kernel

/-- Hypotheses of CrcUnitResults: a free unit and an owned one. -/
theorem test_hyps_CrcUnitResults :
    let s := put ready [(crcOwned (.hub 1 3), 1), (crcOwner (.hub 1 3), 0x010), (CLK_PEN_CRC 1, 15), (CLK_PRT_PEN_CRC 3, 3), (HUB_SITE_STAT_STATE 0 48, 1)]
    (s.regReached (crcCtl (.port 3 1)) = true ∧ s.bit (crcOwned (.port 3 1)) = false ∧ (3 : Word).getLsbD 3 = false) ∧
    (s.regReached (crcCtl (.hub 1 3)) = true ∧ s.crcOwns (.hub 1 3) 0x010 = true ∧ s.crcOwns (.hub 1 3) 0x011 = false) := by decide +kernel

/-- A descriptor of 64 bytes that has been fetched. -/
def descriptor : QDesc := ⟨0, none, 0, 64, 64, false, false, false, false, 0, 0, [], false, false, none⟩

/-- Hypotheses of QueueCommandsAct, at the last queue and the last tag. -/
theorem test_hyps_QueueCommandsAct :
    let s := put ready [(QE_Q_STAT_STATE 1 4095, qRunning), (QE_Q_PI_PI 1 4095, 1), (CLK_PEN_QE 1, 1)]
    (s.qOwner 0x010 1 4095 = true ∧ s.regReached (QE_Q_PI 1 4095) = true ∧ ((1 : BitVec 16) - s.qCi 1 4095).toNat ≤ 2 ^ s.qSize 1 4095 ∧
      (s.qPi 1 4095 - s.qCi 1 4095).toNat ≤ ((1 : BitVec 16) - s.qCi 1 4095).toNat) ∧
    (s.regReached (QE_Q_CQH 1 4095) = true ∧ (s.qCt 1 4095 - (0 : BitVec 16)).toNat ≤ 2 ^ s.qSize 1 4095) ∧
    (s.levelS 0x010 = true ∧ s.regReached (QE_Q_CFG 1 4095) = true ∧ s.levelS 0x020 = false ∧
      (put s [(QE_Q_STAT_STATE 1 4095, qStopped)]).qState 1 4095 = qStopped ∧ (put s [(QE_Q_STAT_STATE 1 4095, qError)]).qState 1 4095 = qError) ∧
    (s.qMayFetch 1 4095 = true ∧ s.tagFree (qeStop 1) 8191 = true) ∧
    (let t := s.setQueue 1 4095 { s.queue 1 4095 with active := [descriptor] }
     t.tagFree (qeStop 1) 8191 = true ∧ t.qeOutstanding 1 < 1024 ∧ (t.qTurn 1).map (fun x => x.1) = some 4095 ∧ (t.qReady 1 4095)[7 % (t.qReady 1 4095).length]?.isSome) ∧
    (let c : Delivered := ⟨qeStop 1, 8191, .ok, .none, false, false, []⟩
     let t := s.setQueue 1 4095 { s.queue 1 4095 with active := [QDesc.fetching 0 8191] }
     let u := { t with ring := { t.ring with inbox := [c] } }
     u.inboxAt (qeStop 1) 8191 = some c ∧ (u.qe.queues.find? (fun kv => kv.1 / 4096 = 1 && kv.2.active.any (·.hasTag 8191))).isSome) ∧
    (s.queue 1 4095).writing = none ∧
    (let c : Delivered := ⟨qeStop 1, 8191, .errDenied, .none, false, false, []⟩
     let t := s.setQueue 1 4095 { s.queue 1 4095 with writing := some (8191, 0) }
     let u := { t with ring := { t.ring with inbox := [c] } }
     (u.queue 1 4095).writing = some (8191, 0) ∧ u.inboxAt (qeStop 1) 8191 = some c ∧ c.status ≠ .ok) ∧
    s.regReached (QE_EVT_FIFO 1) = true := by decide +kernel

/-- Hypotheses of TimeBaseTicks, TimeBaseWritesApply and IncrementIsClamped, the last with values on both sides of each limit. -/
theorem test_hyps_time_base :
    ready.tbRuns = true ∧ ready.tbWriter 0x010 = true ∧ ready.regReached TB_INCR = true ∧ ready.regReached TB_ADJ_CTL = true ∧
    bitsOf (0x9FD70A3D6 : DWord) 0 40 < 0x9FD70A3D7 ∧ 0x9FD70A3D7 ≤ bitsOf (0x9FD70A3D7 : DWord) 0 40 ∧
    bitsOf (0xA028F5C29 : DWord) 0 40 ≤ 0xA028F5C29 ∧ 0xA028F5C29 < bitsOf (0xA028F5C2A : DWord) 0 40 := by decide +kernel

/-! ### Links, ring network, transports and reports -/

/-- The marks of an end whose lowest `n` lanes are good. -/
def lanes (n : Nat) : LaneMarks := ⟨BitVec.ofNat 68 (2 ^ n - 1), BitVec.ofNat 68 (2 ^ n - 1)⟩

/-- A group that carries zeros, number 0, with its LCRC. -/
def group0 : BitVec 352 := 0xBE39#352 <<< 336

set_option maxRecDepth 100000 in
/-- Hypotheses of LinkCommandsAct: a data group with its LCRC (computed by hand below), replies and timers, at the last link. -/
theorem test_hyps_LinkCommandsAct :
    let s := put ready [(LNK_STAT_STATE 130, 4)]
    let x : LinkEnd := { LinkEnd.zero with unacked := 14, buf := [(0, 0)] }
    let t := s.setLinkEnd 130 true x
    t.linkEnd 130 true = x ∧
    (t.linkUp 130 = true ∧ t.linkCarries 130 = true ∧ group0.getLsbD 328 = false ∧ x.waiting = false ∧ lcrc group0 = group0.extractLsb' 336 16 ∧
      x.expect.getD (bitsOf group0 329 7) = bitsOf group0 329 7 ∧ x.toDrop = 0 ∧ x.unacked < 15) ∧
    x.naks.1 ≠ (127 : Fin 128).val ∧ 0 < x.unacked ∧ x.buf ≠ [] ∧ (linkExists 130 = true ∧ t.fld (LNK_STAT_STATE 130) ≠ 6) := by decide +kernel

/-- Hypotheses of LinkCommandsAct: training, retraining and the peer's reset. -/
theorem test_hyps_LinkCommandsAct_training :
    (let s := put ready [(LNK_STAT_STATE 128, 0)]
     linkExists 128 = true ∧ s.fld (LNK_STAT_STATE 128) = 0 ∧ 128 < 129) ∧
    (put ready [(LNK_STAT_STATE 128, 1)]).fld (LNK_STAT_STATE 128) = 1 ∧
    ((put ready [(LNK_STAT_STATE 128, 2)]).fld (LNK_STAT_STATE 128) = 2 ∧
      ∀ n ∈ [128, 130], let o := offerOf n hubOffer
        topBit (o.widths &&& hubOffer.widths) ≠ 0 ∧ topBit (o.rates &&& hubOffer.rates) ≠ 0 ∧ o.major = 2) ∧
    (∀ n ∈ [64, 63, 32, 31],
     let s := State.setLinkMap (put ready [(LNK_STAT_STATE 128, 3)]) 128
       { LinkMap.zero with end0 := lanes n, end1 := lanes n, seen0 := lanes n, seen1 := lanes n, width := 3 }
     let m := s.linkMap 128
     let h := usable m.end0 m.seen0 true
     s.fld (LNK_STAT_STATE 128) = 3 ∧ laneHash h = laneHash (usable m.end1 m.seen1 false) ∧ m.repair = false ∧
       min (laneCount (noSpares h).1) (laneCount (noSpares h).2) = n) ∧
    (let s := put ready [(LNK_STAT_STATE 130, 5), (LNK_STAT_ATTEMPTS 130, 2)]
     s.fld (LNK_STAT_STATE 130) = 5 ∧ s.fld (LNK_STAT_ATTEMPTS 130) < 3 ∧ s.levelS 0x010 = true ∧ s.regReached (LNK_CTL 130) = true ∧
       (s.linkCtlWrite 130 1).2 = .ok) := by decide +kernel

/-- A transaction of stop 511, inserted, for a MSG or a write of H1's window. -/
def txn (gaveUp : Bool) : Txn := ⟨{ request 398 1 0xE000000000 with src := 511, tag := 8191 }, true, gaveUp, none⟩

/-- A request of a stop without a class of its choice. -/
def ask (addr : BitVec 48) : IssueReq := ⟨400, 8191, 0x010, .g, 0, addr, 7, false, 0, false, []⟩

/-- A gate's request that waits for the fabric of acre 3 of logical die 0. -/
def treq : TreqOut := ⟨0, 15, 63, request 3 1 0xC000000000, false⟩

/-- A running device whose logical die 0 has acre 3 released, with gate 15 enabled. -/
def withGate : State :=
  let s := ready
  { s with fab := { s.fab with places := [(7, ⟨false, false, true, 3, 0, 0⟩)], frames := [(7 * 16384 + 0x2000, BitVec.allOnes 4096)] } }

/-- Hypotheses of RingCommandsAct: requests, slots, rate and plan, at the last ring, tag and slot. -/
theorem test_hyps_RingCommandsAct :
    let s := ready
    (s.txn 400 8191 = none ∧ s.resolve (ask 0xB000000000).addr.toNat = none) ∧
    (s.resolve (ask 0xE400000000).addr.toNat = some 430 ∧ issueClass 400 (ask 0).cls ≠ .g ∧ s.path 400 430 0 ≠ [] ∧
      (s.path 400 430 0).any (fun l => s.bit (RNG_RATE_DOWN l.ring)) = false) ∧
    ({ s with ring := { s.ring with txns := [txn false] } }.txn 511 8191 = some (txn false) ∧ (txn false).gaveUp = false ∧ (txn false).sent = true) ∧
    ({ s with ring := { s.ring with txns := [txn true] } }.txn 511 8191 = some (txn true) ∧ (txn true).gaveUp = true) ∧
    1499 < 1500 ∧
    (s.levelS 0x010 = true ∧ s.regReached (RNG_RATE 59) = true ∧ s.regReached RNG_PLAN_ENTRY = true ∧ (s.planWrite 0).2 = .ok ∧
      s.regReached RNG_PLAN_CMD = true ∧ (s.planCmd true false 59).2 = .ok ∧ (s.planCmd false true 59).2 = .ok) ∧
    (∀ op ∈ [PlanOp.copy, .commit], { s with ring := { s.ring with committing := some (59, op) } }.ring.committing = some (59, op)) := by decide +kernel

set_option maxRecDepth 100000 in
/-- Hypotheses of RingCommandsAct: a slot at a stop of a die ring, and at one of a row ring from which it crosses a link. -/
theorem test_hyps_flitAtStop :
    (∀ x ∈ [((53 : Fin 60), (31 : Fin 128)), (57, 119)], let u := put ready [(LNK_STAT_STATE 96, 4), (LNK_STAT_IN_RING 96, 1)]
      u.slotArrives ⟨x.1, 0, x.2, 0, .clean, [], true, true⟩ = true ∧ (u.ringNode x.1 0 0).any (fun nd => nd.stop.isSome &&
        !(u.crossing x.1 0 nd.col 0).any fun l => !u.linkAccepts l.1 l.2) = true) := by decide +kernel

/-- Hypotheses of RingCommandsAct: a completion that matches. -/
theorem test_hyps_completion :
    let s := { ready with ring := { ready.ring with txns := [txn false] } }
    let p : CplPkt := ⟨511, 398, 0, .p, 0, 8191, .ok, false, false, 0, .none, 0, 0, 0, [], true⟩
    let q := { p with crc := cplCrc (txn false).pkt.addr p }
    s.lostOnWay 398 511 1 = false ∧ q.complete = true ∧ q.dst.toNat = 511 ∧ (s.dropIncomplete 511 398 0 .p).txn 511 8191 = some (txn false) ∧
    (txn false).sent = true ∧ (txn false).gaveUp = false ∧ cplCrc (txn false).pkt.addr q = q.crc ∧ q.seq = (txn false).pkt.seq ∧ q.status = .ok ∧
    (txn false).pkt.opc = 1 := by decide +kernel

/-- Hypotheses of RingCommandsAct: the last gate of a die, in both directions. -/
theorem test_hyps_gates :
    (let t := { withGate with ring := { withGate.ring with treq := [treq] } }
     t.ring.treq.find? (fun q => q.ld = 0 ∧ q.gate = 15 ∧ q.htag = 63) = some treq ∧ t.gateFenced 0 15 = false ∧ t.gateEnabled 0 15 = true ∧
       treq.pkt.opc = 1 ∧ treq.late = false ∧ t.ring.treq.find? (fun q => q.ld = 0 ∧ q.gate = 15 ∧ q.htag = 63 ∧ !q.late) = some treq) ∧
    (withGate.gateShut 0 15 = false ∧ withGate.gateEnabled 0 15 = true ∧ withGate.ring.ireq.any (fun q => q.ld = 0 ∧ q.gate = 15 ∧ q.htag = 63) = false ∧
      bitsOf (8191 : BitVec 13) 11 2 = 15 % 4 ∧ withGate.txn (gateStop 0 15) 8191 = none ∧ withGate.acreOf 0 = none) := by decide +kernel

set_option maxRecDepth 100000 in
/-- Hypotheses of RequestsAreServed: a request of each operation at the CSR stop of H0, a MSG there, and an access of the tile stop of a
logical die. -/
theorem test_hyps_RequestsAreServed :
    (∀ opc ∈ [0, 1, 2, 3, 5], let p := request 400 (BitVec.ofNat 3 opc) 0xF000000000
      ready.stopAnswers 400 = true ∧ (ready.arrive 400 p).1.isSome ∧ p.opc.toNat = opc) ∧
    (let p : ReqPkt := { request 400 4 0xF000000000 with data := [⟨0, false⟩], complete := true }
     let q := { p with crc := reqCrc p }
     (ready.arrive 400 q).1.isSome) ∧
    (let s := putWords ready [(HUB_CAP_EFF 0, 4)]
     let a := s.arrive 400 (request 400 5 0xF000000000)
     stopKind 400 = .hub 0 16 ∧ (a.1.map fun q => a.2.msgCheck 400 q) = some .ok) ∧
    (stopKind 5 = .logic 0 5 ∧ ready.stopAnswers 5 = true ∧ (ready.arrive 5 (request 5 0 0xC03F000000)).1.isSome) := by decide +kernel

/-- A PCIe read of 4 bytes. -/
def pcieRead (bar2 : Bool) : PcieReq := ⟨0, bar2, 0, false, 3, [], false⟩

/-- Hypotheses of HostCommandsAct. -/
theorem test_hyps_HostCommandsAct :
    let s := put ready [(PRT_PCIE_CFG_EN 3, 1), (PRT_PCIE_STAT_UP 3, 1), (CMD_FAB_CTL_EN, 1), (CMD_FAB_CTL_MID, 0x800), (PRT_PCIE_BAR_BAR2_LOG2 3, 36)]
    (s.pcieHost 3 = true ∧ (pcieRead false).bar2 = false) ∧
    ((pcieRead true).bar2 = true ∧ (pcieRead true).off.toNat + (pcieRead true).lenm1.toNat < 2 ^ s.fld (PRT_PCIE_BAR_BAR2_LOG2 3)) ∧
    (let u := { starting 3 with port := { (starting 3).port with retry := [(3, true)] } }
     mapGet u.port.retry false 3 = true ∧ u.fld RST_STAT_PHASE ≤ 3) ∧
    s.bit (mbxBusy (.pcie 3)) = false ∧ (s.regReached CMD_FAB_DB = true ∧ s.fabMay 0x800 = true) ∧
    (((s.setTr 6 { s.tr 6 with replies := [⟨[0], .final⟩] }).tr (mbxIndex .fabric)).replies = ⟨[0], .final⟩ :: [] ∧ s.bit (mbxRdy .fabric) = false) ∧
    (put s [(mbxRdy (.pcie 3), 1)]).bit (mbxRdy (.pcie 3)) = true ∧
    (s.spiDeaf false = false ∧ [0xC0#8].head? = some 0xC0#8 ∧ (s.tr 0).busy = false) ∧
    ((s.setTr 0 { s.tr 0 with replies := [⟨[0], .final⟩] }).tr 0).replies = ⟨[0], .final⟩ :: [] ∧
    ((0xC1 : Byte) ≠ 0xC0 ∧ (0xC1 : Byte) ≠ 0x0F) ∧ s.rst.parked = false ∧
    (((s.setTr 1 { s.tr 1 with replies := [⟨[0, 1], .final⟩] }).tr 1).replies = ⟨[0, 1], .final⟩ :: [] ∧ (s.tr 1).taken + 1 ≠ 2) ∧
    (let a : Acc := ⟨⟨6, 65535, 0, 1, 0x0500, false, []⟩, some (0, []), false⟩
     let u := { s with cmd := { s.cmd with accs := [a] } }
     u.cmd.accs.find? (fun a => a.cmd.tr = 6 && a.cmd.tag = 65535) = some a ∧ u.mcRuns = true ∧ u.accEnded a = true) := by decide +kernel

/-- A report in flight of block 0x18, unit 0, code 0. -/
def report : Report := ⟨⟨0, 0, 0x18, 0, 0, 1, true, false, 0, 8, 0, 0⟩, true⟩

/-- Hypotheses of LifetimeAndReportCommandsAct. -/
theorem test_hyps_LifetimeAndReportCommandsAct :
    let s := ready
    ({ s with errs := { s.errs with reports := [report] } }.errs.reports.find? (fun r => r.isOf 0x18 0 0 && r.inFlight) = some report ∧
      s.collectorRuns = true) ∧
    s.rst.parked = false ∧ (60 ≤ { s with rst := { s.rst with minutes := 60 } }.rst.minutes ∧ s.mcRuns = true) ∧
    (siteDie 63 = some 71 ∧ s.diePowered 71 = true ∧ mapGet s.lts.live.agingN 0 63 < 120) ∧
    (s.rst.calLoad = none ∧ s.rst.onRc = false) ∧ (s.levelS 0x010 = true ∧ s.regReached CAL_CTL = true) ∧
    { s with rst := { s.rst with restart := some 9 } }.rst.restart = some 9 ∧
    (s.regReached (LDC_SIG_ERR 1) = true ∧ s.siteGated 1 = false) := by decide +kernel

/-- Hypotheses of RegisterAccessesAct: a register without a row of its own, and a 64-bit register. -/
theorem test_hyps_RegisterAccessesAct :
    ready.spaceAnswers (CFG_ARG / 0x1000000) = true ∧ (ready.csrWrite 0x010 CFG_ARG 5).2 = .ok ∧
    ((regHit TB_INCR).map (fun r => (r.row.wide, r.word)) = some (true, 0) ∧ (ready.csrRead 0x010 TB_INCR false).1.status = .ok) := by decide +kernel

/-- Hypotheses of SemaphoreReadAcquires and SemaphoreWriteReleases: a free semaphore, one's own, and another's. -/
theorem test_hyps_semaphores :
    ready.regReached (HUB_SEM 1 63) = true ∧ ready.sem 1 63 = none ∧
    ((ready.setSem 1 63 (some 0xFFF)).sem 1 63 = some 0xFFF ∧ (0xFFF : BitVec 12) ≠ 0x010 ∧ ready.levelS 0x010 = true ∧ ready.levelS 0x100 = false) := by
  decide +kernel

/-! ### Denied writes, latches, frames and the error log -/

/-- Hypotheses of WritesBelowLevelSAreDenied: a master below Level S, and registers of a hub, a port die and a logic die that answer. -/
theorem test_hyps_WritesBelowLevelSAreDenied :
    let s := put ready [(CLK_PEN_QE 1, 1), (CLK_PEN_CXL 1, 3), (CLK_PRT_PEN_MAC 3, 15), (HUB_SITE_STAT_STATE 0 48, 1)]
    s.levelS 0x100 = false ∧ ∀ key ∈ [CLK_DOM 1, CLK_CPLL 1, HUB_CPU_CTL 1, WDT_SAFE_SVC, MPE_RGN_CFG 1 15, MPE_KEY_CMD 1, MPE_RESEAL_CTL 1, MPE_RKEY_CTL 1,
      MPE_FENCE 1, DMC_MIG 1 1, CXL_CTL 1 1, FWL_CTL 1, FWL_WIN_CFG 1 59, QE_Q_CFG 1 4095, PRT_ETH_GCL_CTL 3 3, PRT_ETH_COMMIT 3 3, LDC_BSH_DIAG_CTL 1,
      RNG_RATE 59, RNG_PLAN_ENTRY, RNG_PLAN_CMD, CAL_CTL], s.regReached key = true := by decide +kernel

/-- Hypotheses of HighWordLatchIsPerMaster, for TB_NS. -/
theorem test_hyps_HighWordLatchIsPerMaster :
    ready.spaceAnswers (TB_NS / 0x1000000) = true ∧ ((regHit TB_NS).map fun r => (r.row.wide, r.word)) = some (true, 0) ∧
    ((regHit TB_NS).map fun r => decide (TB_NS + 4 ∈ r.latchKeys)) = some true ∧ (regHit (TB_NS + 4)).isSome ∧
    ready.accessCheck 0x100 TB_NS = .ok ∧ ready.latchOf 0x100 TB_NS = none := by decide +kernel

/-- Hypotheses of DramLineFrame: a line with a place and room in its queue, for a whole and a partial write, and an address without one. -/
theorem test_hyps_DramLineFrame :
    let l := withDram.splitLine 3 (2 ^ 28 - 1)
    withDram.dmcPlace 1 lastLine.toNat = some l ∧ ((withDram.dmcQueue l.ch l.sc).filter fun x => x.isRead = false).length < 64 ∧
    wholeLine.mask = 0xFFFFFFFFFFFFFFFF#64 ∧ ({ wholeLine with mask := 1 } : LineWrite).mask ≠ 0xFFFFFFFFFFFFFFFF#64 ∧
    withDram.locate 1 0 = none ∧ withDram.locate 1 lastLine.toNat = some l ∧ ∀ k < 4, 0 ≠ dramKey k l := by decide +kernel

/-- An error record of block 1 with severity `sev`. -/
def record (sev : Nat) : ErrRec := ⟨0, 0, 1, 0, 0, sev, true, false, 0, 8, 0, 0⟩

/-- Hypotheses of FullErrorLogReplaces: a full log with one record less severe than the report, or none. -/
theorem test_hyps_FullErrorLogReplaces :
    (let log := record 1 :: List.replicate 511 (record 2)
     log.length = 512 ∧ log.getLast? = some (record 2) ∧ log = [] ++ record 1 :: List.replicate 511 (record 2) ∧ (record 1).sev < 2 ∧
       ¬ (2 = sevCorrected ∧ (ready.csr64 HUB_ERR_CMASK).getLsbD 9 = true) ∧ (record 2).block ≠ 9) ∧
    (let log := List.replicate 512 (record 2)
     log.length = 512 ∧ log.getLast? = some (record 2) ∧ ∀ y ∈ log, 2 ≤ y.sev) := by decide +kernel


/-- Hypotheses of IdleStepChangesNothing, EveryStepTakesOneCommand and RegisterStoreStaysCanonical: an empty queue, and a command that steps. -/
theorem test_hyps_steps :
    State.reset.pending = [] ∧ step State.reset = .next State.reset ∧
    ∃ t : State, step { State.reset with pending := [.xtalReady] } = .next t ∧ State.regsOk { State.reset with pending := [.xtalReady] } = true ∧
      State.queueOk { State.reset with pending := [.xtalReady] } = true :=
  ⟨rfl, rfl, _, rfl, by decide +kernel, by decide +kernel⟩
/-! ### The commands of the MC -/

/-- A running device whose queue of commands holds one of opcode `op` on the fabric transport, with parameters. -/
def waits (op : Nat) (args : List Word) : Waiting := ⟨6, 1, 1, 1, op, false, args⟩
/-- A state with a command waiting. -/
def State.asked (s : State) (w : Waiting) : State := { s with cmd := { s.cmd with waiting := [w] } }

/-- The premise that the statements about commands share: the command stands first with the MC running. -/
theorem test_hyps_commands :
    ∀ op ∈ [0x0000, 0x0001, 0x0002, 0x0100, 0x0101, 0x0102, 0x0200, 0x0201, 0x0202, 0x0203, 0x0204, 0x0205, 0x0206, 0x0207, 0x0300, 0x0301, 0x0302,
      0x0303, 0x0400, 0x0401, 0x0402, 0x0403, 0x0404, 0x0405, 0x0406, 0x0407, 0x0408, 0x0409, 0x040A, 0x040B, 0x0500, 0x0501, 0x0502, 0x0503, 0x0600,
      0x0601, 0x0602, 0x0603, 0x0604, 0x0700, 0x0701, 0x0702, 0x0703, 0x0704, 0x0705, 0x0800, 0x0801, 0x0802],
      (State.asked ready (waits op [])).front op = some (waits op []) := by decide +kernel

/-- Further hypotheses of QueryCommandsReply and ConfigCommandsStart: no sensor has a reading; the pushed image is not complete. -/
theorem test_hyps_QueryCommandsReply :
    ((State.asked ready (waits 0x0501 [])).popWaiting).validTemps = [] ∧ (State.asked ready (waits 0x0201 [0])).cfg.pushEnd = false := by decide +kernel

/-- Further hypotheses of ConfigCommandsStart and MemoryAndRankCommandsRun: READBACK of an acre that is not loading, RETIRE_DIE of a logical
die that stands on a site, and RESEAL_RANGE of a range that the engine takes. -/
theorem test_hyps_ConfigCommandsStart :
    (let w := waits 0x0204 [191, 0, 0]
     let s := State.asked ready w
     (((s.acceptFront w).setCsr CFG_ARG (wordOf (argAt w.args 0))).setCsr64 CFG_BUF (BitVec.ofNat 64 (argPair w.args 1))).acreState (argAt w.args 0) ≠ acLoading) ∧
    (let w := waits 0x0206 [0]
     (((State.asked ready w).acceptFront w).setCsr CFG_ARG (wordOf (argAt w.args 0))).siteOf (argAt w.args 0) = some 1) ∧
    (let w := waits 0x0303 [1 + 2 * 15 + 32 * 12, 0, 0]
     let s := State.asked (put ready [(MPE_RGN_CFG_EN 1 15, 1), (MPE_RGN_CFG_MODE 1 15, 2), (MPE_RGN_CFG_SIZE_LOG2 1 15, 30)]) w
     let t := ((s.acceptFront w).setCsr64 (MPE_RESEAL_BASE 1) (BitVec.ofNat 64 (argPair w.args 1))).resealWrite 1
       (wordOf (argAt w.args 0 / 2 % 16 + argAt w.args 0 / 32 % 64 * 16 + 0x400))
     argAt w.args 0 % 2 = 1 ∧ (s.acceptFront w).bit (MPE_RESEAL_CTL_BUSY 1) = false ∧ t.bit (MPE_RESEAL_CTL_BUSY 1)) := by decide +kernel

/-- Further hypotheses of KeyCommandsRun: a slot that no region uses, and a window whose enable is granted. -/
theorem test_hyps_KeyCommandsRun :
    (let w := waits 0x0401 [63]
     argAt w.args 0 % 2 = 1 ∧ argAt w.args 0 / 2 % 32 = 31 ∧ (State.asked ready w).popWaiting.slotBusy 1 31 = false) ∧
    (let w := waits 0x0404 [127, 0, 0, 0x800]
     let t := State.fwlWinWrite ((State.asked ready w).popWaiting.setCsr64 (FWL_WIN_BASE 1 (argAt w.args 0 / 2))
       (BitVec.ofNat 64 (argPair w.args 1) &&& 0xFFFFFFFFF000#64)) 1 (argAt w.args 0 / 2) (wordOf (argAt w.args 3))
     (t.csr (FWL_WIN_CFG 1 (argAt w.args 0 / 2))).getLsbD 11) := by decide +kernel

/-- Further hypotheses of DebugAndImageKeyCommandsRun; of DBG_RESPONSE all but the check of the signature, which is a free value. -/
theorem test_hyps_DebugAndImageKeyCommandsRun :
    (let s := { ready with cmd := { ready.cmd with fails := 7 } }
     s.cmd.fails < 8) ∧
    (let w := waits 0x0407 [3 * 256 + 2]
     let s := State.asked (ready.setTr 6 { ready.tr 6 with chal := some ⟨2, 9⟩ }) w
     let t : State := { s with cmd := { s.cmd with keys := [(3, ⟨1, 2, false⟩)] } }
     let key := mapGet t.cmd.keys DebugKey.blank (argAt w.args 0 / 256 % 16)
     argAt w.args 0 / 256 % 16 ≤ 3 ∧ key.pub ≠ 0 ∧ key.revoked = false ∧ (t.popWaiting.tr w.tr).chal = some ⟨2, 9⟩) ∧
    mapGet ready.cfg.imgKeys 0 (argAt (waits 0x0409 [3]).args 0 % 4) = 0 ∧
    (let s := { ready with cfg := { ready.cfg with imgKeys := [(3, 7)] } }
     3 ≠ argAt (waits 0x040A [2]).args 0 % 4 ∧ mapGet s.cfg.imgKeys 0 3 ≠ 0 ∧ s.cfg.revoked.getLsbD 3 = false) := by decide +kernel

/-- Further hypotheses of LogPowerAndCalendarCommandsRun. -/
theorem test_hyps_LogPowerAndCalendarCommandsRun :
    ({ ready with errs := { ready.errs with log := [record 1] } }.errs.log[argAt (waits 0x0101 [0]).args 0]? = some (record 1)) ∧
    argAt (waits 0x0500 [3]).args 0 % 4 ≠ 0 ∧
    (let w := waits 0x0503 [1, 0]
     ((State.asked ready w).popWaiting.resetAsk (argAt w.args 0) (argAt w.args 1)).2 = false) ∧
    (let w := waits 0x0600 [8 + 256 * 127]
     ((State.asked ready w).popWaiting.ltRead (argAt w.args 0 % 256) (argAt w.args 0 / 256)).isSome) ∧
    ready.lts.readOnly = false := by decide +kernel

set_option maxRecDepth 1000000 in
/-- Further hypotheses of FirmwareAndTestCommandsRun: a board configuration record that is staged and whose CRC checks, for FW_ACTIVATE. -/
theorem test_hyps_FirmwareAndTestCommandsRun :
    (let w := waits 0x0700 [9, 0x200000]
     argAt w.args 0 < 10 ∧ ((State.asked ready w).popWaiting.fwUnit (argAt w.args 0)).state ≠ .provisional ∧
       argAt w.args 1 + (argBytes w.args 2 251).length ≤ 0x200000) ∧
    (let w := waits 0x0701 [10]
     let s := State.setFwUnit (State.asked (withBcr ready) w) 10 ⟨.staged, 1, 1⟩
     argAt w.args 0 = 10 ∧ (s.acceptFront w).lts.readOnly = false ∧ (s.acceptFront w).activateRefused 10 = false) ∧
    (let w := waits 0x0702 []
     let t := (State.asked ready w).acceptFront w
     t.rst.hubs = 0 ∧ t.lts.readOnly = false ∧ ∀ u < 10, (t.fwUnit u).state ≠ .failed ∧ ¬ t.slotEpoch u (t.fwUnit u).active < t.epochN) ∧
    (let w := waits 0x0703 []
     let s := State.asked ready w
     let t := State.acceptFront { s with cmd := { s.cmd with v2 := true } } w
     t.rst.hubs = 0 ∧ t.lts.readOnly = false ∧ t.cmd.v2 = true) ∧
    (let w := waits 0x0704 [0]
     (State.asked ready w).popWaiting.fld CFG_EPOCH_MIN_EPOCH ≤ argAt w.args 0 ∧ argAt w.args 0 ≤ (State.asked ready w).popWaiting.fld CFG_EPOCH_IMG_EPOCH) ∧
    (let w := waits 0x0801 [63]
     let s := State.asked (put ready [(HUB_SITE_STAT_STATE 0 63, 2)]) w
     (s.acceptFront w).isSpare (argAt w.args 0) = true) := by decide +kernel

/-- An injection that is possible (a transient link error): INJECT answers a state. -/
theorem test_hyps_inject : ∃ u : State, ready.inject 7 130 14 1 = .done u := ⟨_, rfl⟩


end Sys2Proof.Tests
end

section
/-! PROOFS. Register accesses over the ring (spec/00, R10-R16): what an access that is answered does, what a read of a low word latches
and for whom (R12), and the writes that Level S alone may make (R15). -/

namespace Sys2Proof.Machine

open Sys2Proof

/-! ### Accesses that are answered (R10, R11) -/

/-- A register write in a space that answers is carried out and its status is sent. -/
theorem exec_registerWrite_of_answers {s : State} {mid : BitVec 12} {key : BitVec 32} {value : Word}
    (ha : s.spaceAnswers (key.toNat / 0x1000000) = true) :
    exec (.registerWrite mid key value) s = .next (answerWrite key.toNat (s.csrWrite mid.toNat key.toNat value)) := by
  change execRegisterWrite mid key value s = _
  rw [execRegisterWrite, if_pos ha]

/-- A read of the low word of a 64-bit register that completes OK sends the value read. -/
theorem exec_lowWordRead_of_ok {s : State} {mid : BitVec 12} {key : BitVec 32} {r : RegHit} {dbg : Bool}
    (ha : s.spaceAnswers (key.toNat / 0x1000000) = true) (hr : regHit key.toNat = some r) (hwide : r.row.wide = true) (hlow : r.word = 0)
    (hok : (s.csrRead mid.toNat key.toNat dbg).1.status = .ok) :
    exec (.lowWordRead mid key dbg) s = .next ((s.csrRead mid.toNat key.toNat dbg).2.send
      (.readback key.toNat (s.csrRead mid.toNat key.toNat dbg).1.value (s.csrRead mid.toNat key.toNat dbg).1.peek)) := by
  change execLowWordRead mid key dbg s = _
  simp [execLowWordRead, hr, hwide, hlow, ha, hok]

/-- Settles O45, by what each of the two commands does where its space answers. -/
theorem registerAccessesAct : Obligations.RegisterAccessesAct := by
  intro s mid key ha
  refine ⟨fun value hok => ?_, fun r dbg hr hwide hlow hok => exec_lowWordRead_of_ok ha hr hwide hlow hok⟩
  rw [exec_registerWrite_of_answers ha, answerWrite, hok]

/-! ### What a read changes besides latches -/

/-- A watchdog's status word takes free values at most. -/
theorem State.coreStat_takes_free (s : State) (h c : Nat) : ∃ n, (s.coreStat h c).2 = { s with freeCtr := n } := by
  unfold State.coreStat
  split
  · exact ⟨_, rfl⟩
  · exact ⟨_, rfl⟩

/-- The safe-state watchdog's status word takes free values at most. -/
theorem State.safeStat_takes_free (s : State) : ∃ n, s.safeStat.2 = { s with freeCtr := n } := by
  unfold State.safeStat
  split
  · exact ⟨_, rfl⟩
  · exact ⟨_, rfl⟩

/-- Showing a hub's register word takes free values at most: of all of them only WDT_CORE_STAT does. -/
theorem State.hubView_takes_free (s : State) (mid : Nat) (r : RegHit) : ∃ n, (s.hubView mid r).2 = { s with freeCtr := n } := by
  unfold State.hubView
  split
  case h_13 => -- WDT_CORE_STAT
    exact s.coreStat_takes_free _ _
  all_goals exact ⟨_, rfl⟩

/-- Showing a register word takes free values at most. -/
theorem State.view_takes_free (s : State) (mid : Nat) (r : RegHit) : ∃ n, (s.view mid r).2 = { s with freeCtr := n } := by
  unfold State.view
  cases r.row.kind with
  | hub => exact s.hubView_takes_free mid r
  | hubZero =>
    dsimp only
    split
    case h_7 => -- WDT_SAFE_STAT
      exact s.safeStat_takes_free
    all_goals exact ⟨_, rfl⟩
  | port => dsimp only; split <;> exact ⟨_, rfl⟩
  | ldc => dsimp only; split <;> exact ⟨_, rfl⟩
  | dbg => exact ⟨_, rfl⟩

/-- Showing a register word leaves every latch. -/
@[simp] theorem State.view_latches (s : State) (mid : Nat) (r : RegHit) : (s.view mid r).2.latches = s.latches := by
  obtain ⟨n, hn⟩ := s.view_takes_free mid r
  rw [hn]

/-- A read of a semaphore changes semaphores alone. -/
@[simp] theorem State.semRead_latches (s : State) (mid h n : Nat) (dbg : Bool) : (s.semRead mid h n dbg).2.latches = s.latches := by
  simp only [State.semRead]
  split <;> rfl

/-- The side effect of a read leaves every latch. -/
@[simp] theorem State.readEffect_latches (s : State) (mid : Nat) (r : RegHit) : (s.readEffect mid r).latches = s.latches := by
  unfold State.readEffect
  split
  · rfl
  · exact s.semRead_latches ..
  · split <;> rfl
  · rfl

/-! ### Latches (R12) -/

/-- A master's dropped latches are no other master's. -/
theorem State.latchOf_dropLatches_ne (s : State) {mid m : Nat} (hm : m ≠ mid) (keys : List Nat) (k : Nat) :
    (s.dropLatches mid keys).latchOf m k = s.latchOf m k := by
  simp only [State.latchOf, State.dropLatches, List.find?_filter]
  congr 1
  funext l
  by_cases hl : l.mid = m <;> simp [hl, hm]

/-- What a master's read latches is that master's. -/
theorem State.mid_of_mem_latchWords {s : State} {mid : Nat} {r : RegHit} {l : Latch} (h : l ∈ s.latchWords mid r) : l.mid = mid := by
  simp only [State.latchWords, List.mem_filterMap, Option.map_eq_some_iff] at h
  obtain ⟨_, _, _, _, rfl⟩ := h
  rfl

/-- Every word among a register's latch keys is latched. -/
theorem State.mem_latchWords (s : State) (mid : Nat) {r q : RegHit} {k : Nat} (hk : k ∈ r.latchKeys) (hq : regHit k = some q) :
    (⟨mid, k, (s.view mid q).1⟩ : Latch) ∈ s.latchWords mid r :=
  List.mem_filterMap.2 ⟨k, hk, by rw [hq]; rfl⟩

/-- A 32-bit read of a low word, not itself latched, leaves the master's latches of the register replaced by new ones. -/
theorem State.wordRead_latches_of_low {s : State} {mid : Nat} {r : RegHit} (dbg : Bool) (hfree : s.latchOf mid r.key = none)
    (hlow : r.word = 0) (hkeys : r.latchKeys ≠ []) :
    (s.wordRead mid r dbg).2.latches = (s.dropLatches mid r.latchKeys).latches ++ s.latchWords mid r := by
  simp only [State.wordRead, hfree, if_pos (And.intro hlow hkeys)]
  split <;> split <;> simp [State.dropLatches]

/-- Replacing a master's latches by what it reads leaves every other master's. -/
theorem State.latchOf_of_latches_read {s t : State} {mid m : Nat} {r : RegHit} (hm : m ≠ mid) {keys : List Nat}
    (ht : t.latches = (s.dropLatches mid keys).latches ++ s.latchWords mid r) (k : Nat) : t.latchOf m k = s.latchOf m k := by
  have hnew : (s.latchWords mid r).find? (fun l => l.mid = m && l.key = k) = none := by
    rw [List.find?_eq_none]
    intro l hl
    simp [State.mid_of_mem_latchWords hl, Ne.symm hm]
  rw [← s.latchOf_dropLatches_ne hm keys k, State.latchOf, ht, List.find?_append, hnew, Option.or_none]
  rfl

/-- A 32-bit read that reaches its register is the read of the word. -/
theorem State.csrRead_of_ok {s : State} {mid key : Nat} {r : RegHit} (dbg : Bool) (hc : s.accessCheck mid key = .ok)
    (hr : regHit key = some r) : s.csrRead mid key dbg = s.wordRead mid r dbg := by
  simp only [State.csrRead, hc, hr]

/-- A 32-bit read of a register word completes OK. -/
theorem State.wordRead_status (s : State) (mid : Nat) (r : RegHit) (dbg : Bool) : (s.wordRead mid r dbg).1.status = .ok := by
  unfold State.wordRead
  split <;> rfl

/-- Settles O49: a low-word read replaces its own master's latches of the register by those of the words it latches. -/
theorem highWordLatchIsPerMaster : Obligations.HighWordLatchIsPerMaster := by
  intro s mid key r q ha hr hwide hlow hk hq hc hfree
  have hread := State.csrRead_of_ok false hc hr
  have hlatches := State.wordRead_latches_of_low false hfree hlow (List.ne_nil_of_mem hk)
  refine ⟨_, exec_lowWordRead_of_ok ha hr hwide hlow (hread ▸ s.wordRead_status ..), ?_⟩
  rw [hread]
  refine ⟨⟨⟨mid.toNat, key.toNat + 4, (s.view mid.toNat q).1⟩, ?_, rfl, rfl⟩, fun m k hm => State.latchOf_of_latches_read hm hlatches k⟩
  rw [State.send_latches, hlatches]
  exact List.mem_append_right _ (s.mem_latchWords mid.toNat hk hq)

/-! ### Writes that Level S alone makes (R15) -/

/-- Command `c` of master `mid` is a write of `key` that has no effect and is denied where the master is not Level S. -/
def LevelSOnly (mid : BitVec 12) (c : Instr) (key : Nat) : Prop :=
  ∃ f : State → State × Status, (∀ s, exec c s = .next (s.regWrite key f)) ∧ ∀ s, s.levelS mid.toNat = false → f s = (s, .errDenied)

/-- Such a write, by a master that is not Level S, sends ERR_DENIED and changes nothing. -/
theorem LevelSOnly.denied {mid : BitVec 12} {c : Instr} {key : Nat} (hc : LevelSOnly mid c key) {s : State}
    (hs : s.levelS mid.toNat = false) (hr : s.regReached key = true) : exec c s = .next (s.send (.wrote key .errDenied)) := by
  obtain ⟨f, hexec, hdenied⟩ := hc
  rw [hexec, State.regWrite_of_reached hr, hdenied s hs]

/-- A write whose meaning asks for Level S first, as `levelSWrite` does, is Level S's alone. -/
theorem LevelSOnly.of_asks {mid : BitVec 12} {c : Instr} {key : Nat} {g : State → State × Status}
    (h : ∀ s, exec c s = .next (s.regWrite key fun s => if s.levelS mid.toNat then g s else (s, .errDenied))) : LevelSOnly mid c key :=
  ⟨_, h, fun s hs => by simp [hs]⟩

/-- Without RESUME and RETRY a write of QE_Q_CFG signals nothing (R592, R613). -/
theorem State.qSignals_of_clear (s : State) (h q : Nat) {v : Word} (hresume : v.getLsbD 18 = false) (hretry : v.getLsbD 19 = false) :
    s.qSignals h q v = s := by
  simp only [State.qSignals, hresume, hretry, Bool.false_eq_true, and_false, if_false]

/-- A write of QE_Q_CFG without RESUME and RETRY, the fields that act for every master, is Level S's alone. -/
theorem LevelSOnly.of_qCfgCommand {mid : BitVec 12} {c : Instr} {h q : Nat} {v : Word} (hexec : ∀ s, exec c s = .next (s.qCfgCommand mid h q v))
    (hresume : v.getLsbD 18 = false) (hretry : v.getLsbD 19 = false) : LevelSOnly mid c (QE_Q_CFG h q) :=
  ⟨_, hexec, fun s hs => by simp [State.qCfgBy, hs, s.qSignals_of_clear h q hresume hretry]⟩

/-- QUEUE_ENABLE with a word that holds only the fields below RESUME and RETRY is Level S's alone. -/
theorem LevelSOnly.queueEnable (mid : BitVec 12) (hub : Fin 2) (q : Fin 4096) (value : Word) :
    LevelSOnly mid (.queueEnable mid hub q (value &&& 0x3FFFF#32)) (QE_Q_CFG hub q) :=
  .of_qCfgCommand (fun _ => rfl) (by simp) (by simp)

/-- QUEUE_DISABLE with a word that holds only the fields below RESUME and RETRY is Level S's alone. -/
theorem LevelSOnly.queueDisable (mid : BitVec 12) (hub : Fin 2) (q : Fin 4096) (value : Word) :
    LevelSOnly mid (.queueDisable mid hub q (value &&& 0x3FFFF#32)) (QE_Q_CFG hub q) :=
  .of_qCfgCommand (fun _ => rfl) (by simp) (by simp)

/-- Settles O48: every command of the list asks for Level S before it does anything; the two of QE_Q_CFG carry neither RESUME nor RETRY. -/
theorem writesBelowLevelSAreDenied : Obligations.WritesBelowLevelSAreDenied := by
  intro s mid hub region ch window ring q value site c key hs hr hc
  suffices h : LevelSOnly mid c key from h.denied hs hr
  simp only [List.mem_cons, List.not_mem_nil, or_false, Prod.mk.injEq] at hc
  rcases hc with ⟨rfl, rfl⟩ | ⟨rfl, rfl⟩ | ⟨rfl, rfl⟩ | ⟨rfl, rfl⟩ | ⟨rfl, rfl⟩ | ⟨rfl, rfl⟩ | ⟨rfl, rfl⟩ | ⟨rfl, rfl⟩ | ⟨rfl, rfl⟩ |
    ⟨rfl, rfl⟩ | ⟨rfl, rfl⟩ | ⟨rfl, rfl⟩ | ⟨rfl, rfl⟩ | ⟨rfl, rfl⟩ | ⟨rfl, rfl⟩ | ⟨rfl, rfl⟩ | ⟨rfl, rfl⟩ | ⟨rfl, rfl⟩ |
    ⟨rfl, rfl⟩ | ⟨rfl, rfl⟩ | ⟨rfl, rfl⟩ | ⟨rfl, rfl⟩ | ⟨rfl, rfl⟩ | ⟨rfl, rfl⟩ | ⟨rfl, rfl⟩ | ⟨rfl, rfl⟩ | ⟨rfl, rfl⟩
  -- QUEUE_ENABLE and QUEUE_DISABLE answer a master below Level S by what their word signals; every other command only asks.
  on_goal 18 => exact .queueEnable mid hub q value
  on_goal 18 => exact .queueDisable mid hub q value
  all_goals exact .of_asks fun _ => rfl

end Sys2Proof.Machine
end

section
/-! PROOFS. The word-mode operations (spec/02, R67-R74): the flags of sums, of shifts and rotations, and of every result. -/

namespace Sys2Proof.Machine

open Sys2Proof

/-! ### Flag sets (R67) -/

@[simp] theorem mkFlags_carry (c z n v : Bool) : (mkFlags c z n v)[0] = c := by decide +revert

@[simp] theorem mkFlags_zero (c z n v : Bool) : (mkFlags c z n v)[1] = z := by decide +revert

@[simp] theorem mkFlags_sign (c z n v : Bool) : (mkFlags c z n v)[2] = n := by decide +revert

@[simp] theorem mkFlags_overflow (c z n v : Bool) : (mkFlags c z n v)[3] = v := by decide +revert

/-! ### The adder (R70) -/

/-- Operands of one sign and a sum of the other: this says that the signed sum, carry included, lies outside the signed range. -/
theorem signs_tell_overflow (a x : Half) (ci : Bool) (r : Half) (hr : r = BitVec.ofNat 16 (a.toNat + x.toNat + ci.toNat)) :
    (a.msb == x.msb && r.msb != a.msb) =
      decide (a.toInt + x.toInt + ci.toNat < -32768 ∨ 32767 < a.toInt + x.toInt + ci.toNat) := by
  have hr' : r.toNat = (a.toNat + x.toNat + ci.toNat) % 2 ^ 16 := by rw [hr, BitVec.toNat_ofNat]
  have ha := a.isLt
  have hx := x.isLt
  have hci := Bool.toNat_lt ci
  rw [Bool.eq_iff_iff]
  simp only [BitVec.msb_eq_decide, BitVec.toInt_eq_toNat_cond, hr', Bool.and_eq_true, beq_iff_eq, bne_iff_ne, ne_eq, decide_eq_decide,
    decide_eq_true_eq]
  split <;> split <;> omega

/-- What R70 says of the flags of a sum: all four are produced. -/
theorem addOut_flags (a x : Half) (ci : Bool) :
    let sum : Half := BitVec.ofNat 16 (a.toNat + x.toNat + ci.toNat)
    let signed : Int := a.toInt + x.toInt + ci.toNat
    (addOut a x ci).flags.getLsbD 0 = decide (2 ^ 16 ≤ a.toNat + x.toNat + ci.toNat) ∧
    (addOut a x ci).flags.getLsbD 1 = decide (sum = 0) ∧ (addOut a x ci).flags.getLsbD 2 = sum.msb ∧
    (addOut a x ci).flags.getLsbD 3 = decide (signed < -32768 ∨ 32767 < signed) ∧ (addOut a x ci).prod = 15 := by
  refine ⟨by simp [addOut], by simp [addOut, beq_eq_decide], by simp [addOut], ?_, rfl⟩
  rw [← signs_tell_overflow a x ci _ rfl]
  simp [addOut]

/-- Without a carry in the adder adds. -/
theorem addOut_res_of_no_carry (a b : Half) : (addOut a b false).res = a + b := by
  simp [addOut, BitVec.ofNat_add]

/-- Adding the inverse with a carry in subtracts. -/
theorem addOut_res_of_inverse (a b : Half) : (addOut a (~~~b) true).res = a - b := by
  apply BitVec.eq_of_toNat_eq
  simp only [addOut, BitVec.toNat_ofNat, BitVec.toNat_sub, BitVec.toNat_not, Bool.toNat_true]
  have := b.isLt
  omega

/-- The carry of that sum says that nothing is borrowed. -/
theorem carry_of_inverse_iff (a b : Half) : 2 ^ 16 ≤ a.toNat + (~~~b).toNat + true.toNat ↔ b.toNat ≤ a.toNat := by
  simp only [BitVec.toNat_not, Bool.toNat_true]
  have := b.isLt
  omega

/-- Settles O9: the five operations are `addOut` of B or its inverse. -/
theorem adderResultAndFlags : Obligations.AdderResultAndFlags := by
  intro a b k cin cond
  refine ⟨addOut_flags a b false, addOut_flags a b cin, addOut_flags a (~~~b) true, addOut_flags a (~~~b) cin, addOut_flags a (~~~b) cin,
    addOut_res_of_no_carry a b, addOut_res_of_inverse a b, rfl, ?_⟩
  rw [← decide_eq_decide.2 (carry_of_inverse_iff a b)]
  exact (addOut_flags a (~~~b) true).1

/-! ### Shifts and rotations (R71) -/

/-- A shift by 0 gives A and no carry. -/
theorem shiftOut_of_zero {n : Nat} (a r : Half) (c : Bool) (h : n = 0) :
    (shiftOut a r n c).res = a ∧ (shiftOut a r n c).prod.getLsbD 0 = false := by
  simp [shiftOut, h]

/-- Any other gives the shifted value, and produces the carry. -/
theorem shiftOut_of_ne_zero {n : Nat} (a r : Half) (c : Bool) (h : n ≠ 0) :
    (shiftOut a r n c).res = r ∧ (shiftOut a r n c).prod.getLsbD 0 = true ∧ (shiftOut a r n c).flags.getLsbD 0 = c := by
  simp [shiftOut, h]

/-- Settles O10: each of the five operations is `shiftOut` with its own carry. -/
theorem shiftAndRotateCarry : Obligations.ShiftAndRotateCarry := by
  intro a b k cin cond op hlo hhi o n
  obtain ⟨r, c, ho, hc⟩ : ∃ r c, o = shiftOut a r n c ∧ c = (if op = 0x0F then a.getLsbD (16 - n) else if op = 0x12 then r.getLsbD 0
      else if op = 0x13 then r.getLsbD 15 else a.getLsbD (n - 1)) := by
    obtain rfl | rfl | rfl | rfl | rfl : op = 0x0F ∨ op = 0x10 ∨ op = 0x11 ∨ op = 0x12 ∨ op = 0x13 := by omega
    all_goals exact ⟨_, _, rfl, rfl⟩
  rw [ho]
  refine ⟨fun h => shiftOut_of_zero a r c h, fun h => ?_⟩
  obtain ⟨hres, hprod, hflag⟩ := shiftOut_of_ne_zero a r c h
  exact ⟨hprod, by rw [hflag, hres, hc]⟩

/-! ### Zero and sign (R72) -/

/-- Z and N are produced; Z says that the result is zero, N is its bit 15. -/
def WordOut.ShowsResult (o : WordOut) : Prop :=
  o.flags.getLsbD 1 = decide (o.res = 0) ∧ o.flags.getLsbD 2 = o.res.getLsbD 15 ∧ o.prod.getLsbD 1 = true ∧ o.prod.getLsbD 2 = true

theorem znOut_showsResult (r : Half) : (znOut r).ShowsResult := by
  simp [WordOut.ShowsResult, znOut, BitVec.msb_eq_getLsbD_last, beq_eq_decide]

theorem addOut_showsResult (a x : Half) (ci : Bool) : (addOut a x ci).ShowsResult := by
  simp [WordOut.ShowsResult, addOut, BitVec.msb_eq_getLsbD_last, beq_eq_decide]

theorem shiftOut_showsResult (a r : Half) (n : Nat) (c : Bool) : (shiftOut a r n c).ShowsResult := by
  unfold shiftOut
  split <;> simp [WordOut.ShowsResult, BitVec.msb_eq_getLsbD_last, beq_eq_decide]

/-- Every operation but CMP is one of three: a value with Z and N, a sum, or a shift. -/
theorem wordOp_forms {op : Nat} (a b k : Half) (cin cond : Bool) (hop : op < 0x18) (hcmp : op ≠ 0x06) :
    (∃ r, wordOp op a b k cin cond = znOut r) ∨ (∃ x ci, wordOp op a b k cin cond = addOut a x ci) ∨
      ∃ r n c, wordOp op a b k cin cond = shiftOut a r n c :=
  match op with
  | 0x00 | 0x01 | 0x07 | 0x08 | 0x09 | 0x0A | 0x0B | 0x0C | 0x0D | 0x0E | 0x14 | 0x15 | 0x16 | 0x17 => .inl ⟨_, rfl⟩
  | 0x02 | 0x03 | 0x04 | 0x05 => .inr (.inl ⟨_, _, rfl⟩)
  | 0x06 => absurd rfl hcmp
  | 0x0F | 0x10 | 0x11 | 0x12 | 0x13 => .inr (.inr ⟨_, _, _, rfl⟩)
  | n + 0x18 => absurd hop (by omega)

/-- Settles O11, by the three forms of an operation. -/
theorem zeroAndSignOfEveryResult : Obligations.ZeroAndSignOfEveryResult := by
  intro op a b k cin cond hop hcmp
  change (wordOp op a b k cin cond).ShowsResult
  obtain ⟨r, h⟩ | ⟨x, ci, h⟩ | ⟨r, n, c, h⟩ := wordOp_forms a b k cin cond hop hcmp
  · exact h ▸ znOut_showsResult r
  · exact h ▸ addOut_showsResult a x ci
  · exact h ▸ shiftOut_showsResult a r n c

end Sys2Proof.Machine
end

section
/-! PROOFS. Clock edges of cubits (spec/02, R81-R107): what a commanded edge does to its cubit, and what it leaves of every other. -/

namespace Sys2Proof.Machine

open Sys2Proof

/-! ### The carry chain (R81) -/

/-- Settles O12: nothing comes over the lower boundary of an acre. -/
theorem noChainAcrossAcres : Obligations.NoChainAcrossAcres := by
  intro s site x y h
  rw [State.fromBelow, belowOf, if_pos h]

/-! ### What an edge of a cubit changes -/

/-- An edge of a cubit changes cubits, snapshots, registers and what is sent. -/
theorem State.cubitEdge_parts (s : State) (site x y : Nat) : ∃ regs out cubits snaps,
    s.cubitEdge site x y = { s with regs := regs, out := out, fab := { s.fab with cubits := cubits, snaps := snaps } } := by
  unfold State.cubitEdge
  extract_lets pl o inp below s1 s2
  have hput : ∃ out cubits, s2 = { s with out := out, fab := { s.fab with cubits := cubits } } := by
    simp only [s2]
    split <;> exact ⟨_, _, rfl⟩
  obtain ⟨out, cubits, hs2⟩ := hput
  rw [hs2]
  split
  · exact ⟨_, _, _, _, rfl⟩
  · exact ⟨_, _, _, _, rfl⟩

/-- A command for an edge of a cubit leaves the state, or lets the clock have its edge without the cubit, or gives the cubit its edge. -/
theorem State.cubitAt_cases (s : State) (site x y : Nat) (same : Bool) (p : State → Bool) :
    s.cubitAt site x y same p = s ∨ ∃ t, EdgeOf s t ∧ (s.cubitAt site x y same p = t ∨ s.cubitAt site x y same p = t.cubitEdge site x y) := by
  unfold State.cubitAt
  extract_lets pl sel t
  have ht : EdgeOf s t := s.edgeAt_edge pl sel same
  split
  · exact .inl rfl
  · split
    · exact .inr ⟨t, ht, .inl rfl⟩
    · split
      · exact .inr ⟨t, ht, .inr rfl⟩
      · exact .inl rfl

/-! ### GSR (R98) -/

/-- Two states agree on the configuration of every cubit and on the GSR net of every acre. -/
def SameGsr (s t : State) : Prop :=
  (∀ site x y, t.cubitCfg site x y = s.cubitCfg site x y) ∧ ∀ pl, (t.place pl).gsrOff = (s.place pl).gsrOff

/-- A command for an edge of a cubit changes neither. -/
theorem State.cubitAt_sameGsr (s : State) (site x y : Nat) (same : Bool) (p : State → Bool) : SameGsr s (s.cubitAt site x y same p) := by
  obtain h | ⟨t, ht, h | h⟩ := s.cubitAt_cases site x y same p
  · rw [h]
    exact ⟨fun _ _ _ => rfl, fun _ => rfl⟩
  · exact h ▸ ⟨ht.cubitCfg, ht.gsrOff⟩
  · obtain ⟨regs, out, cubits, snaps, hparts⟩ := t.cubitEdge_parts site x y
    rw [h, hparts]
    exact ⟨ht.cubitCfg, ht.gsrOff⟩

/-- Whatever it held, a cubit under GSR has Q = Q_INIT, and in word mode all its initial values. -/
theorem State.cubit_of_gsr {s : State} {site x y : Nat} (h : (s.place (placeKey site (cubitAcre x y))).gsrOff = false) :
    (s.cubit site x y).q = cubitQInit (s.cubitCfg site x y) ∧
    (cubitBitMode (s.cubitCfg site x y) = false → s.cubit site x y = wordInit (s.cubitCfg site x y)) := by
  obtain ⟨c, hc⟩ : ∃ c, s.cubit site x y = cubitInit (s.cubitCfg site x y) c := by
    simp only [State.cubit, State.gsrHolds, h, Bool.not_false, Bool.true_or, if_true]
    split <;> exact ⟨_, rfl⟩
  rw [hc, cubitInit]
  cases hmode : cubitBitMode (s.cubitCfg site x y)
  · exact ⟨rfl, fun _ => rfl⟩
  · exact ⟨rfl, fun hword => nomatch hword⟩

/-- The start context names one of the eight. -/
theorem cubitStart_lt (cfg : BitVec 512) : cubitStart cfg < 8 := by
  have hbase : cubitCtxBase cfg < 8 := Nat.mod_lt _ (by decide)
  unfold cubitStart
  split <;> omega

/-- The context counter of the initial values is the start context. -/
theorem wordInit_ctr (cfg : BitVec 512) : (wordInit cfg).ctr.val = cubitStart cfg := Nat.mod_eq_of_lt (cubitStart_lt cfg)

/-- The contexts of the initial values hold ST_INIT and no flag. -/
theorem wordInit_contexts (cfg : BitVec 512) (k : Fin 8) :
    (wordInit cfg).st[k] = cubitStInit cfg k ∧ (wordInit cfg).flags[k] = 0 := by
  simp [wordInit]

/-- A word-mode operation's command is an edge of a cubit whose active context holds it. -/
theorem exec_wordCommand (n : Fin 24) (site : Fin 64) (x y : Fin 128) (same : Bool) (s : State) :
    exec (wordCommand n site x y same) s = .next (s.wordOpEdge n site x y same) := by
  fin_cases n <;> rfl

/-- Settles O53: an edge changes neither the GSR net nor a configuration, and under GSR a cubit shows the values these give. -/
theorem gsrHoldsCubits : Obligations.GsrHoldsCubits := by
  intro s t site site' acre n x y same hgsr ht i j hacre
  have hsame : SameGsr s t := by
    obtain rfl | h | h | h | h := ht
    · exact ⟨fun _ _ _ => rfl, fun _ => rfl⟩
    · rw [exec_wordCommand] at h
      exact Host.Outcome.next.inj h ▸ s.cubitAt_sameGsr ..
    all_goals exact Host.Outcome.next.inj h ▸ s.cubitAt_sameGsr ..
  obtain ⟨hcfg, hoff⟩ := hsame
  have hheld : (t.place (placeKey site (cubitAcre i j))).gsrOff = false := by rw [hoff, hacre, hgsr]
  obtain ⟨hq, hword⟩ := State.cubit_of_gsr hheld
  rw [hcfg] at hq hword
  refine ⟨hq, fun hmode => ?_⟩
  rw [hword hmode]
  exact ⟨wordInit_ctr _, wordInit_contexts _⟩

/-! ### The edge of a free cubit (R85) -/

section Edge

variable {s t : State} {site : Fin 64} {x y : Fin 128} {same : Bool}

/-- Where the edge comes and is of the command's kind, the cubit takes it. -/
theorem CubitEdge.cubitAt (h : CubitEdge s site x y same t) {p : State → Bool} (hp : p t.before = true) :
    s.cubitAt site x y same p = t.cubitEdge site x y := by
  simp [State.cubitAt, h.logic, h.runs, h.now, h.rises, hp]

/-- A free cubit shows Y of the state before the edge and takes its next state. -/
theorem CubitFree.cubitEdge (h : CubitFree t site x y) :
    t.cubitEdge site x y = (t.send (.cubitY (cubitKey site x y) (t.before.cubitY site x y (t.before.cubitIn site x y)
      (t.before.fromBelow site x y)))).putCubit site x y (t.before.cubitNext site x y (t.before.cubitIn site x y) (t.before.fromBelow site x y)) := by
  have hsnap (o : Out) (c : CubitSt) : ((t.send o).putCubit site x y c).snapWaits site x y = false := h.snap
  simp only [State.cubitEdge, h.clocked, h.clear, Bool.not_false, Bool.and_self, if_true, hsnap, Bool.false_eq_true, if_false]

/-- What a command for an edge of a free cubit answers. -/
theorem CubitFree.cubitAt (hf : CubitFree t site x y) (he : CubitEdge s site x y same t) {p : State → Bool} (hp : p t.before = true) {Y : Half}
    {c : CubitSt} (hY : t.before.cubitY site x y (t.before.cubitIn site x y) (t.before.fromBelow site x y) = Y)
    (hc : t.before.cubitNext site x y (t.before.cubitIn site x y) (t.before.fromBelow site x y) = c) :
    s.cubitAt site x y same p = (t.send (.cubitY (cubitKey site x y) Y)).putCubit site x y c := by
  rw [he.cubitAt hp, hf.cubitEdge, hY, hc]

end Edge

/-- Y of a word-mode cubit. -/
theorem State.cubitY_of_word {s : State} {site x y : Nat} (inp : CubitIn) (below : Bool × Bool)
    (h : cubitBitMode (s.cubitCfg site x y) = false) :
    s.cubitY site x y inp below = wordY (cubitWord (s.cubitCfg site x y) (s.cubit site x y).ctr.val)
      (wordCycle (s.cubitCfg site x y) (s.cubit site x y) inp below) := by
  simp [State.cubitY, h]

/-- The next state of a word-mode cubit. -/
theorem State.cubitNext_of_word {s : State} {site x y : Nat} (inp : CubitIn) (below : Bool × Bool)
    (h : cubitBitMode (s.cubitCfg site x y) = false) :
    s.cubitNext site x y inp below = wordEdge (s.cubitCfg site x y) (s.cubit site x y) inp
      (wordCycle (s.cubitCfg site x y) (s.cubit site x y) inp below) := by
  simp [State.cubitNext, h]

/-- A clear comes before all else below GSR. -/
theorem wordEdge_of_clear {cfg : BitVec 512} (c : CubitSt) {inp : CubitIn} (r : WordCycle) (h : (cubitClrEn cfg && inp.ctl.getLsbD 1) = true) :
    wordEdge cfg c inp r = wordInit cfg := by
  rw [wordEdge, if_pos h]

/-- Without clear and hold the active context writes. -/
theorem wordEdge_of_commit {cfg : BitVec 512} (c : CubitSt) {inp : CubitIn} (r : WordCycle) (hclear : (cubitClrEn cfg && inp.ctl.getLsbD 1) = false)
    (hhold : (cubitWceEn cfg && !inp.ctl.getLsbD 0) = false) : wordEdge cfg c inp r = wordCommit cfg c inp.ctl r := by
  rw [wordEdge, if_neg (Bool.eq_false_iff.1 hclear), if_neg (Bool.eq_false_iff.1 hhold)]

/-- The edge of a free word-mode cubit without clear and hold commits the active context's operation. -/
theorem CubitFree.cubitAt_of_commit {s t : State} {site : Fin 64} {x y : Fin 128} {same : Bool} (hf : CubitFree t site x y)
    (he : CubitEdge s site x y same t) {p : State → Bool} {o : State} {cfg : BitVec 512} {c : CubitSt} {i : CubitIn} {r : WordCycle}
    (hp : p o = true) (ho : t.before = o) (hcfg : o.cubitCfg site x y = cfg) (hc : o.cubit site x y = c) (hi : o.cubitIn site x y = i)
    (hr : wordCycle cfg c i (o.fromBelow site x y) = r) (hword : cubitBitMode cfg = false) (hclear : (cubitClrEn cfg && i.ctl.getLsbD 1) = false)
    (hhold : (cubitWceEn cfg && !i.ctl.getLsbD 0) = false) :
    s.cubitAt site x y same p = (t.send (.cubitY (cubitKey site x y) (wordY (cubitWord cfg c.ctr.val) r))).putCubit site x y
      (wordCommit cfg c i.ctl r) := by
  subst ho hcfg hc hi hr
  refine hf.cubitAt he hp (State.cubitY_of_word _ _ hword) ?_
  rw [State.cubitNext_of_word _ _ hword, wordEdge_of_commit _ _ hclear hhold]

/-- A context with a reserved opcode writes neither ST nor F (R74). -/
theorem wordCommit_of_reserved {cfg : BitVec 512} {c : CubitSt} (ctl : BitVec 4) (r : WordCycle) (h : 0x18 ≤ bitsOf (cubitWord cfg c.ctr.val) 0 5) :
    (wordCommit cfg c ctl r).st = c.st ∧ (wordCommit cfg c ctl r).flags = c.flags ∧
    (wordCommit cfg c ctl r).q = wordQ (cubitWord cfg c.ctr.val) c r := by
  simp [wordCommit, Nat.not_lt.2 h]

/-- Settles O7: the edge is of the command's kind, and without clear and hold it commits. -/
theorem wordOperationCommits : Obligations.WordOperationCommits := by
  intro n site x y same s t o cfg c i r he hf ho hcfg hc hi hr hword hopc hclear hhold
  rw [exec_wordCommand, State.wordOpEdge, hf.cubitAt_of_commit he (by simp [hcfg, hword, hopc]) ho hcfg hc hi hr hword hclear hhold]

/-- Settles O8: each of the three edges is of its command's kind; what it does is the case of R85, R74 or R93 that holds. -/
theorem clearReservedAndGrainEdges : Obligations.ClearReservedAndGrainEdges := by
  intro site x y same s t o cfg c i r he hf ho hcfg hc hi hr
  refine ⟨fun hword hclear => congrArg Host.Outcome.next ?_, fun hword hopc hclear hhold => ⟨wordCommit cfg c i.ctl r,
    congrArg Host.Outcome.next ?_, wordCommit_of_reserved _ _ ?_⟩, fun g hbit hg => congrArg Host.Outcome.next ?_⟩
  · subst ho hcfg hc hi hr
    refine hf.cubitAt he (by simpa [hword] using hclear) (State.cubitY_of_word _ _ hword) ?_
    rw [State.cubitNext_of_word _ _ hword, wordEdge_of_clear _ _ hclear]
  · exact hf.cubitAt_of_commit he (by simp [hcfg, hword, hopc]) ho hcfg hc hi hr hword hclear hhold
  · rw [← hcfg, ← hc]
    exact hopc
  · subst ho hcfg hc hi hr
    refine hf.cubitAt he hbit ?_ ?_
    · simp [State.cubitY, hbit, hg]
    · simp [State.cubitNext, hbit, hg]

end Sys2Proof.Machine
end

section
/-! PROOFS. Fields and wide registers read after they are written (spec/00, R10). -/

namespace Sys2Proof.Machine

open Sys2Proof

/-! ### Fields -/

/-- A field is one bit of its register. -/
def Fld.oneBit (f : Fld) : Bool := f.w = 1 && f.lo < 32

/-- The bits of field `f` are none of field `g`'s. -/
def Fld.apart (f g : Fld) : Bool := (g.lo + g.w ≤ f.lo || f.lo + f.w ≤ g.lo) && g.lo + g.w ≤ 32

theorem Fld.oneBit_iff {f : Fld} : f.oneBit = true ↔ f.w = 1 ∧ f.lo < 32 := by
  simp [Fld.oneBit]

theorem Fld.apart_iff {f g : Fld} : f.apart g = true ↔ (g.lo + g.w ≤ f.lo ∨ f.lo + f.w ≤ g.lo) ∧ g.lo + g.w ≤ 32 := by
  simp [Fld.apart]

/-- Writing a field leaves every other register. -/
theorem State.csr_setFld_ne (s : State) {f : Fld} {key : Nat} (n : Nat) (h : key ≠ f.key) : (s.setFld f n).csr key = s.csr key :=
  s.csr_setCsr_ne _ h

/-- A one-bit field is its bit of the register's word. -/
theorem State.bit_eq_getLsbD (s : State) {f : Fld} (hf : f.oneBit = true) : s.bit f = (s.csr f.key).getLsbD f.lo := by
  rw [State.bit, State.fld, (Fld.oneBit_iff.1 hf).1, Nat.pow_one, ← BitVec.testBit_toNat, Nat.testBit_eq_decide_div_mod_eq]
  simp

/-- A one-bit field reads as the Bool written to it. -/
theorem State.bit_setBit (s : State) {f : Fld} (b : Bool) (hf : f.oneBit = true) : (s.setBit f b).bit f = b := by
  obtain ⟨hw, hlo⟩ := Fld.oneBit_iff.1 hf
  exact s.bit_setBit_same f b hw (by omega)

/-- A one-bit field reads set after 1 is written. -/
theorem State.bit_setFld_one (s : State) {f : Fld} (hf : f.oneBit = true) : (s.setFld f 1).bit f = true := s.bit_setBit true hf

/-- A one-bit field reads clear after 0 is written. -/
theorem State.bit_setFld_zero (s : State) {f : Fld} (hf : f.oneBit = true) : (s.setFld f 0).bit f = false := s.bit_setBit false hf

/-- A one-bit field apart from the one written reads as before. -/
theorem State.bit_setFld_apart (s : State) {f g : Fld} (n : Nat) (h : f.apart g = true) : (s.setFld f n).bit g = s.bit g := by
  obtain ⟨hapart, h32⟩ := Fld.apart_iff.1 h
  rw [State.bit, s.fld_setFld_apart n hapart h32, ← State.bit]

/-- A saturating counter reads one more, or its greatest value. -/
theorem State.fld_satInc_same (s : State) {f : Fld} (h : f.lo + f.w ≤ 32) : (s.satInc f).fld f = min (s.fld f + 1) (2 ^ f.w - 1) := by
  have hpos : 0 < 2 ^ f.w := Nat.two_pow_pos _
  rw [State.satInc, State.satAdd, s.fld_setFld_same f _ h, Nat.mod_eq_of_lt (by omega)]

/-- Raising an error writes its flag alone. -/
theorem State.raise_fld (s : State) (f : Fld) (sp block unit regIdx sev : Nat) (addr : DWord) (info : Word) (inj : Bool) (g : Fld) :
    (s.raise f sp block unit regIdx sev addr info inj).fld g = (s.setFld f 1).fld g := (s.setFld f 1).report_fld ..

/-- Fields are read from the registers alone. -/
theorem State.fld_of_regs {s t : State} (h : t.regs = s.regs) (f : Fld) : t.fld f = s.fld f := by
  simp only [State.fld, State.csr, h]

/-- Registers of a logic die at different offsets are different. -/
theorem ldcKey_ne {a b : Nat} (site : Nat) (h : a ≠ b) : a + ldcSpace site ≠ b + ldcSpace site := by
  omega

/-! ### Registers of 64 bits -/

/-- The two halves of a value make it. -/
theorem high_append_low (v : DWord) : ((v >>> 32).setWidth 32 : Word) ++ (v.setWidth 32 : Word) = v := by
  apply BitVec.eq_of_getLsbD_eq
  intro i hi
  rw [BitVec.getLsbD_append]
  by_cases h : i < 32
  · simp [h]
  · simp [h, show i - 32 < 32 by omega, show 32 + (i - 32) = i by omega]

/-- A 64-bit register reads as the value written to it. -/
theorem State.csr64_setCsr64_same (s : State) (key : Nat) (v : DWord) : (s.setCsr64 key v).csr64 key = v := by
  rw [State.csr64, State.setCsr64, State.csr_setCsr_same, State.csr_setCsr_ne _ _ (by omega), State.csr_setCsr_same]
  exact high_append_low v

/-- Writing a field of another register leaves it. -/
theorem State.csr64_setFld_ne (s : State) {f : Fld} {key : Nat} (n : Nat) (hlow : key ≠ f.key) (hhigh : key + 4 ≠ f.key) :
    (s.setFld f n).csr64 key = s.csr64 key := by
  rw [State.csr64, s.csr_setFld_ne n hlow, s.csr_setFld_ne n hhigh, ← State.csr64]

end Sys2Proof.Machine
end

section
/-! PROOFS. Snapshots, crossings, clocks, probes and trace (spec/02, R103-R113; spec/03, R142-R171): what their commands do. -/

namespace Sys2Proof.Machine

open Sys2Proof

/-! ### Snapshots (R107, R108) -/

/-- A capture ends the request, and shows DONE and whether it is stale. -/
theorem State.snapTake_bits (s : State) (site : Nat) (ctl : BitVec 4) (stale : Bool) :
    (s.snapTake site ctl stale).bit (LDC_CUBIT_SNAP_REQ site) = false ∧
    (s.snapTake site ctl stale).bit (LDC_CUBIT_SNAP_DONE site) = true ∧
    (s.snapTake site ctl stale).bit (LDC_CUBIT_SNAP_STALE site) = stale := by
  refine ⟨State.bit_setFld_zero _ rfl, ?_, ?_⟩ <;> simp only [State.snapTake]
  · rw [State.bit_setFld_apart _ _ rfl, State.bit_setFld_one _ rfl]
  · rw [State.bit_setFld_apart _ _ rfl, State.bit_setFld_apart _ _ rfl, State.bit_setBit _ _ rfl]

/-- A capture holds the addressed cubit's state. -/
theorem State.snap_snapTake (s : State) (site : Nat) (ctl : BitVec 4) (stale : Bool) :
    ((s.snapTake site ctl stale).snap site).cubit = s.cubit site (s.fld (LDC_CUBIT_ADDR_X site)) (s.fld (LDC_CUBIT_ADDR_Y site)) ∧
    ((s.snapTake site ctl stale).snap site).ctl = ctl := by
  have h : (s.snapTake site ctl stale).snap site = _ := mapGet_mapSet_same _ _ _ _
  rw [h]
  exact ⟨rfl, rfl⟩

/-- An edge of a cubit whose snapshot waits ends in the capture. -/
theorem State.cubitEdge_of_waits {t : State} {site x y : Nat} (h : t.snapWaits site x y = true) :
    ∃ v : State, v.regs = t.regs ∧ t.cubitEdge site x y = v.snapTake site (t.before.cubitIn site x y).ctl false := by
  unfold State.cubitEdge
  extract_lets pl o inp below s1 s2
  have hregs : s2.regs = t.regs := by
    simp only [s2]
    split <;> rfl
  have hwaits : s2.snapWaits site x y = true := by
    simpa only [State.snapWaits, State.bit, State.fld_of_regs hregs] using h
  exact ⟨s2, hregs, if_pos hwaits⟩

/-- At the edge of a cubit whose snapshot waits it is taken: it holds the cubit as the edge leaves it. -/
theorem CubitEdge.exec_cubitSnapshot {s t : State} {site : Fin 64} {x y : Fin 128} {same : Bool} (he : CubitEdge s site x y same t)
    (hx : s.fld (LDC_CUBIT_ADDR_X site) = x) (hy : s.fld (LDC_CUBIT_ADDR_Y site) = y) (hw : t.snapWaits site x y = true) :
    ∃ u : State, exec (.cubitSnapshot site same) s = .next u ∧ u.bit (LDC_CUBIT_SNAP_REQ site) = false ∧
      u.bit (LDC_CUBIT_SNAP_DONE site) = true ∧ u.bit (LDC_CUBIT_SNAP_STALE site) = false ∧
      (u.snap site).cubit = u.cubit site x y ∧ (u.snap site).ctl = (t.before.cubitIn site x y).ctl := by
  obtain ⟨v, hregs, hv⟩ := State.cubitEdge_of_waits hw
  simp only [State.snapWaits, Bool.and_eq_true, decide_eq_true_eq] at hw
  obtain ⟨⟨hpending, htx⟩, hty⟩ := hw
  have hexec : exec (.cubitSnapshot site same) s = .next (v.snapTake site (t.before.cubitIn site x y).ctl false) := by
    change execCubitSnapshot site same s = _
    rw [execCubitSnapshot, hx, hy, he.cubitAt hpending, hv]
  obtain ⟨hreq, hdone, hstale⟩ := v.snapTake_bits site (t.before.cubitIn site x y).ctl false
  obtain ⟨hcubit, hctl⟩ := v.snap_snapTake site (t.before.cubitIn site x y).ctl false
  rw [State.fld_of_regs hregs, State.fld_of_regs hregs, htx, hty] at hcubit
  exact ⟨_, hexec, hreq, hdone, hstale, hcubit, hctl⟩

/-- Without an edge a pending snapshot is taken as STALE: it holds the cubit as it stands. -/
theorem exec_stale_of_pending {s : State} {site : Fin 64} (h : s.bit (LDC_CUBIT_SNAP_REQ site) = true) :
    ∃ u : State, exec (.stale site) s = .next u ∧ u.bit (LDC_CUBIT_SNAP_REQ site) = false ∧
      u.bit (LDC_CUBIT_SNAP_DONE site) = true ∧ u.bit (LDC_CUBIT_SNAP_STALE site) = true ∧
      (u.snap site).cubit = s.cubit site (s.fld (LDC_CUBIT_ADDR_X site)) (s.fld (LDC_CUBIT_ADDR_Y site)) := by
  obtain ⟨hreq, hdone, hstale⟩ := s.snapTake_bits site _ true
  exact ⟨_, congrArg Host.Outcome.next (if_pos h), hreq, hdone, hstale, (s.snap_snapTake site _ true).1⟩

/-! ### Slips of crossings (R143) -/

/-- One more edge of the sending side takes the pointers of a centered group apart. -/
theorem ChanSt.slips_put {c : ChanSt} (h : c.rd = c.wr - 2) (bridge : Bool) (v : DWord) : (c.put bridge v).slips = true := by
  have hne : ∀ w : Fin 4, w - 2 ≠ w + 1 - 2 := by decide
  simp [ChanSt.slips, ChanSt.put, h, hne]

/-- One more edge of the receiving side takes them apart too. -/
theorem ChanSt.slips_get {c : ChanSt} (h : c.rd = c.wr - 2) : c.get.slips = true := by
  have hne : ∀ w : Fin 4, w - 2 + 1 ≠ w - 2 := by decide
  simp [ChanSt.slips, ChanSt.get, h, hne]

/-- The group of a line at an edge of a die is in one of the die's acres. -/
theorem edgeGroup_site (site : Fin 64) (edge : Fin 4) (line : Fin 32) : (edgeGroup site edge line).1 / 4 = site := by
  simp only [edgeGroup, placeKey]
  split
  · omega
  · split <;> omega

/-- A slip of a centered group is flagged, and the group is centered again. -/
theorem exec_chanSlip_of_centered {s : State} {site : Fin 64} {edge : Fin 4} {line : Fin 32} (drop : Bool) {src : CrossSrc} {k : Nat}
    (hk : k = chanKey (edgeGroup site edge line).1 (edgeGroup site edge line).2)
    (hsrc : s.crossSrc (edgeGroup site edge line).1 (decide (2 ≤ edge.val)) = some src) (h : (s.chan k).rd = (s.chan k).wr - 2) :
    ∃ (c : ChanSt) (e : Nat), exec (.chanSlip site edge line drop) s = .next ((s.setChan k c.center).flagSlip site e) := by
  subst hk
  change ∃ c e, execChanSlip site edge line drop s = _
  simp only [execChanSlip, hsrc, State.chanEdge, edgeGroup_site]
  cases drop
  · simp only [Bool.false_eq_true, if_false, if_true, ChanSt.slips_get h]
    exact ⟨_, _, rfl⟩
  · simp only [Bool.false_eq_true, if_false, if_true, ChanSt.slips_put h]
    exact ⟨_, _, rfl⟩

/-- What a flagged slip writes: the edge, the counter and the flag. -/
theorem State.flagSlip_fld (s : State) (site edge : Nat) (g : Fld) : (s.flagSlip site edge).fld g =
    (((s.setFld ⟨LDC_FAB_ERR site, 4 + edge, 1⟩ 1).satInc (LDC_CHAN_SLIP_CNT_CNT site)).setFld (LDC_FAB_ERR_CHAN_SLIP site) 1).fld g := by
  unfold State.flagSlip
  extract_lets s1 s2
  exact s2.raise_fld ..

/-- A slip shows in LDC_FAB_ERR. -/
theorem State.flagSlip_flag (s : State) (site edge : Nat) : (s.flagSlip site edge).bit (LDC_FAB_ERR_CHAN_SLIP site) = true := by
  rw [State.bit, State.flagSlip_fld, ← State.bit, State.bit_setFld_one _ rfl]

/-- It is counted. -/
theorem State.flagSlip_count (s : State) (site edge : Nat) : (s.flagSlip site edge).fld (LDC_CHAN_SLIP_CNT_CNT site) =
    min (s.fld (LDC_CHAN_SLIP_CNT_CNT site) + 1) (2 ^ (LDC_CHAN_SLIP_CNT_CNT site).w - 1) := by
  have hkey : LDC_CHAN_SLIP_CNT site ≠ LDC_FAB_ERR site := ldcKey_ne site (by decide)
  rw [State.flagSlip_fld, State.fld_setFld_ne _ _ hkey, State.fld_satInc_same _ (of_decide_eq_true rfl), State.fld_setFld_ne _ _ hkey]

/-- It leaves the crossings. -/
theorem State.chan_flagSlip (s : State) (site edge k : Nat) : (s.flagSlip site edge).chan k = s.chan k := rfl

@[simp] theorem State.chan_setChan_same (s : State) (k : Nat) (c : ChanSt) : (s.setChan k c).chan k = c := mapGet_mapSet_same _ _ _ _

/-! ### The probe clock (R158-R167) -/

/-- A waiting lane switches to its register's source. -/
theorem State.probeLaneChange_of_mem {s : State} {site lane : Nat} (h : lane ∈ (s.probe site).pend) :
    s.probeLaneChange site lane = (s.setProbe site { s.probe site with
      pend := (s.probe site).pend.filter (· ≠ lane)
      src := mapSet (s.probe site).src 0 lane (s.csr (LDC_PROBE_SEL site lane)) }).setBit (LDC_PROBE_STAT_SEL_PENDING site)
        (!((s.probe site).pend.filter (· ≠ lane)).isEmpty) := if_pos (List.contains_iff_mem.2 h)

/-- With no trigger waiting none is taken. -/
theorem State.traceTaken_of_none {s : State} {site : Nat} (h : (s.probe site).trigs = []) :
    s.traceTaken site = s.setProbe site { s.probe site with trigs := [] } := by
  simp [State.traceTaken, h]

/-- An edge of the probe clock with the trace armed and no trigger in sight stores the oldest sample. -/
theorem State.probeEdge_of_armed {s : State} {site : Nat} (v : DWord) (hdest : s.bit (LDC_PROBE_CTL_DEST site) = false)
    (harm : s.bit (LDC_TRACE_CTL_ARM site) = true) (htrigs : (s.probe site).trigs = []) (hleft : (s.probe site).left = none) :
    ∃ w : State, w.regs = s.regs ∧ (w.probe site).pipe[0] = v ∧ s.probeEdge site v = w.traceStore site (s.probe site).pipe[2] := by
  unfold State.probeEdge
  extract_lets p pipe s1
  have hs1 : s1 = (s.setProbe site { p with pipe := pipe }).setProbe site { p with pipe := pipe, trigs := [] } := by
    simp only [s1]
    rw [State.traceTaken_of_none] <;> rw [State.probe_setProbe_same]
    exact htrigs
  have hstore : (s.bit (LDC_TRACE_CTL_ARM site) && decide ((s1.probe site).left ≠ some 0)) = true := by
    rw [hs1, State.probe_setProbe_same]
    simp [harm, p, hleft]
  refine ⟨s1, ?_, ?_, ?_⟩
  · rw [hs1]
    rfl
  · rw [hs1, State.probe_setProbe_same]
    rfl
  · rw [if_neg (by simp [hdest]), if_pos hstore]

/-- Below the last entry, storing a sample writes it at WPTR and moves WPTR on. -/
theorem State.traceStore_entry {s : State} {site : Nat} (v : DWord) (h : s.fld (LDC_TRACE_STAT_WPTR site) < 1023) :
    (s.traceStore site v).csr64 (LDC_TRACE_MEM site (s.fld (LDC_TRACE_STAT_WPTR site))) = v ∧
    (s.traceStore site v).fld (LDC_TRACE_STAT_WPTR site) = s.fld (LDC_TRACE_STAT_WPTR site) + 1 ∧
    ((s.traceStore site v).probe site).pipe = (s.probe site).pipe := by
  unfold State.traceStore
  extract_lets i s1 s2 p
  have hs2 : s2 = s1 := if_neg (Nat.ne_of_lt h)
  have hlow : LDC_TRACE_MEM site i ≠ LDC_TRACE_STAT site := by
    simp only [LDC_TRACE_MEM, LDC_TRACE_STAT]
    omega
  have hhigh : LDC_TRACE_MEM site i + 4 ≠ LDC_TRACE_STAT site := by
    simp only [LDC_TRACE_MEM, LDC_TRACE_STAT]
    omega
  refine ⟨?_, ?_, ?_⟩
  · change s2.csr64 _ = v
    rw [hs2, State.csr64_setFld_ne _ _ hlow hhigh, State.csr64_setCsr64_same]
  · change s2.fld _ = i + 1
    rw [hs2, State.fld_setFld_same _ _ _ (of_decide_eq_true rfl)]
    exact Nat.mod_eq_of_lt (Nat.succ_lt_succ h)
  · rw [State.probe_setProbe_same]
    simp only [p, hs2]
    rfl

/-- TRACE_ENTRY_WRITE at an edge of the probe clock with the trace armed and no trigger in sight: the oldest sample is stored, and the lanes are
sampled. -/
theorem exec_traceEntryWrite_of_armed {s t : State} {site : Fin 64} {same : Bool} (hruns : s.clockRuns site (s.probeClock site) = true)
    (hedge : s.edgeAt (placeKey site 0) (s.probeClock site) same = t) (hdest : t.bit (LDC_PROBE_CTL_DEST site) = false)
    (harm : t.bit (LDC_TRACE_CTL_ARM site) = true) (htrigs : (t.probe site).trigs = []) (hleft : (t.probe site).left = none)
    (hwptr : t.fld (LDC_TRACE_STAT_WPTR site) < 1023) : ∃ u : State, exec (.traceEntryWrite site same) s = .next u ∧
      u.csr64 (LDC_TRACE_MEM site (t.fld (LDC_TRACE_STAT_WPTR site))) = (t.probe site).pipe[2] ∧
      u.fld (LDC_TRACE_STAT_WPTR site) = t.fld (LDC_TRACE_STAT_WPTR site) + 1 ∧ (u.probe site).pipe[0] = t.before.lanes site := by
  obtain ⟨w, hregs, hsample, hw⟩ := State.probeEdge_of_armed (t.before.lanes site) hdest harm htrigs hleft
  have hwptr' := State.fld_of_regs hregs (LDC_TRACE_STAT_WPTR site)
  rw [← hwptr'] at hwptr ⊢
  obtain ⟨hentry, hnext, hpipe⟩ := State.traceStore_entry (t.probe site).pipe[2] hwptr
  refine ⟨_, ?_, hentry, hnext, by simpa only [hpipe] using hsample⟩
  change execTraceEntryWrite site same s = _
  simp only [execTraceEntryWrite, hruns, if_true, hedge, hw]

/-- PROBE_LANE_CHANGE at an edge of the probe clock. -/
theorem exec_probeLaneChange_of_mem {s t : State} {site lane : Fin 64} {same : Bool} (hruns : s.clockRuns site (s.probeClock site) = true)
    (hedge : s.edgeAt (placeKey site 0) (s.probeClock site) same = t) (hmem : lane.val ∈ (t.probe site).pend) :
    exec (.probeLaneChange site lane same) s = .next ((t.setProbe site { t.probe site with
        pend := (t.probe site).pend.filter (· ≠ lane.val)
        src := mapSet (t.probe site).src 0 lane (t.csr (LDC_PROBE_SEL site lane)) }).setBit
          (LDC_PROBE_STAT_SEL_PENDING site) (!((t.probe site).pend.filter (· ≠ lane.val)).isEmpty)) := by
  change execProbeLaneChange site lane same s = _
  rw [execProbeLaneChange, if_pos hruns, hedge, State.probeLaneChange_of_mem hmem]

/-- Settles O13, command by command. -/
theorem fabricPathCommands : Obligations.FabricPathCommands := by
  intro site s same lane
  refine ⟨fun x y t hx hy he hw => he.exec_cubitSnapshot hx hy hw, exec_stale_of_pending, ?_, fun n hlock => congrArg Host.Outcome.next (if_pos hlock),
    fun n hen hodiv => congrArg Host.Outcome.next (if_pos (by simp [hen, hodiv])), fun t hruns hedge =>
      ⟨exec_probeLaneChange_of_mem hruns hedge, exec_traceEntryWrite_of_armed hruns hedge⟩, fun hlow hhigh hen => ?_,
    fun harm hleft => congrArg Host.Outcome.next (if_pos (by simp [harm, hleft]))⟩
  · intro edge line drop src k hk hsrc hcentered
    obtain ⟨c, e, hexec⟩ := exec_chanSlip_of_centered drop hk hsrc hcentered
    refine ⟨_, hexec, State.flagSlip_flag .., State.flagSlip_count .., ?_⟩
    rw [State.chan_flagSlip, State.chan_setChan_same]
    rfl
  · change execFabricTrigger site s = _
    simp [execFabricTrigger, hlow, hhigh, hen]

end Sys2Proof.Machine
end

section
/-! PROOFS. Writes of the fabric registers that reach them (spec/02, R107-R110; spec/03, R153-R170; spec/04, R214). -/

namespace Sys2Proof.Machine

open Sys2Proof

/-- What a write that reaches its register answers, once what the register does is known. -/
theorem State.regWrite_of_done {s u : State} {key : Nat} {f : State → State × Status} {st : Status} (h : s.regReached key = true)
    (hf : f s = (u, st)) : s.regWrite key f = u.send (.wrote key st) := by
  rw [State.regWrite_of_reached h, hf]

/-! ### Local user clocks (R153) -/

/-- Starting or stopping a local clock writes no register and sends nothing. -/
theorem State.localStart_regs_out (s : State) (site m : Nat) :
    (s.localStart site m).regs = s.regs ∧ (s.localStart site m).out = s.out := by
  unfold State.localStart
  extract_lets k f
  split <;> exact ⟨rfl, rfl⟩

/-- EN of a local clock reads as written; nothing is sent. -/
theorem State.localEnable_bit_out (s : State) (site m : Nat) (en : Bool) :
    (s.localEnable site m en).bit (LDC_LCLK_CFG_EN site m) = en ∧ (s.localEnable site m en).out = s.out := by
  unfold State.localEnable
  split
  · exact ⟨‹_›, rfl⟩
  · obtain ⟨hregs, hout⟩ := (s.setBit (LDC_LCLK_CFG_EN site m) en).localStart_regs_out site m
    refine ⟨?_, hout⟩
    rw [State.bit, State.fld_of_regs hregs, ← State.bit, State.bit_setBit _ _ rfl]

/-! ### Probes (R160) -/

/-- A write of LDC_PROBE_SEL leaves the change pending: the lane keeps its source. -/
theorem State.probeSelWrite_probe (s : State) (site lane : Nat) (value : Word) :
    lane ∈ ((s.probeSelWrite site lane value).probe site).pend ∧ ((s.probeSelWrite site lane value).probe site).src = (s.probe site).src := by
  unfold State.probeSelWrite
  extract_lets s1 p
  have h : ((s1.setProbe site { p with pend := if p.pend.contains lane then p.pend else p.pend ++ [lane] }).setFld
      (LDC_PROBE_STAT_SEL_PENDING site) 1).probe site = _ := State.probe_setProbe_same ..
  rw [h]
  refine ⟨?_, rfl⟩
  by_cases hmem : lane ∈ p.pend <;> simp [hmem]

/-- It shows SEL_PENDING and the word written. -/
theorem State.probeSelWrite_regs (s : State) (site lane : Nat) (value : Word) (hlane : lane < 64) :
    (s.probeSelWrite site lane value).bit (LDC_PROBE_STAT_SEL_PENDING site) = true ∧
    (s.probeSelWrite site lane value).csr (LDC_PROBE_SEL site lane) = value &&& 0x8007FFFF#32 := by
  have hkey : LDC_PROBE_SEL site lane ≠ LDC_PROBE_STAT site := ldcKey_ne site (by omega)
  refine ⟨State.bit_setFld_one _ rfl, ?_⟩
  rw [State.probeSelWrite, State.csr_setFld_ne _ _ hkey]
  exact s.csr_setCsr_same ..

/-! ### Trace (R170) -/

/-- A write with ARM = 1 arms, clears the status and forgets the entries still to write. -/
theorem State.traceCtlWrite_of_arm (s : State) (site : Nat) {value : Word} (h : value.getLsbD 0 = true) :
    (s.traceCtlWrite site value).bit (LDC_TRACE_CTL_ARM site) = true ∧ (s.traceCtlWrite site value).csr (LDC_TRACE_STAT site) = 0 ∧
    ((s.traceCtlWrite site value).probe site).left = none := by
  unfold State.traceCtlWrite
  extract_lets s1 p s2
  have hs2 : s2 = (s1.setCsr (LDC_TRACE_STAT site) 0).setProbe site { p with left := none } := if_pos h
  have hkey : LDC_TRACE_CTL site ≠ LDC_TRACE_STAT site := ldcKey_ne site (by decide)
  have harm : s2.bit (LDC_TRACE_CTL_ARM site) = true := by
    have hword : s2.csr (LDC_TRACE_CTL site) = value &&& 0x03FF0017#32 := by
      rw [hs2]
      exact (s1.csr_setCsr_ne 0 hkey).trans (s.csr_setCsr_same ..)
    rw [State.bit_eq_getLsbD _ rfl]
    change (s2.csr (LDC_TRACE_CTL site)).getLsbD 0 = true
    rw [hword, BitVec.getLsbD_and, h]
    decide
  have hstat : s2.csr (LDC_TRACE_STAT site) = 0 := by
    rw [hs2]
    exact s1.csr_setCsr_same ..
  have hleft : (s2.probe site).left = none := by rw [hs2, State.probe_setProbe_same]
  split
  · refine ⟨harm, hstat, ?_⟩
    rw [State.traceTrigger, State.probe_setProbe_same]
    exact hleft
  · exact ⟨harm, hstat, hleft⟩

/-! ### Snapshots (R107, R109, R110) -/

/-- A request where none is pending and the acre is not held. -/
theorem State.snapReq_of_free {s : State} {site : Nat} (hreq : s.bit (LDC_CUBIT_SNAP_REQ site) = false)
    (hheld : s.acreHeld site (cubitAcre (s.fld (LDC_CUBIT_ADDR_X site)) (s.fld (LDC_CUBIT_ADDR_Y site))) = false) :
    s.snapReq site =
      (((s.setFld (LDC_CUBIT_SNAP_DONE site) 0).setFld (LDC_CUBIT_SNAP_STALE site) 0).setFld (LDC_CUBIT_SNAP_REQ site) 1, .ok) := by
  simp only [State.snapReq, hreq, hheld, Bool.false_eq_true, if_false]

/-! ### The diagnostic port (R214, R1024) -/

/-- GO lies above the bushel number. -/
theorem bitsOf_or_go (value : Word) : bitsOf (value ||| 0x200000#32) 0 10 = bitsOf value 0 10 := by
  simp only [bitsOf, Nat.pow_zero, Nat.div_one, BitVec.toNat_or]
  rw [Nat.or_mod_two_pow]
  exact Nat.or_zero _

/-- GO for an existing bushel whose acre is not under load makes the port BUSY with the word written; no row changes. -/
theorem State.diagWrite_of_go {s : State} {site : Nat} (value : Word) (hbusy : s.bit (LDC_BSH_DIAG_CTL_BUSY site) = false)
    (hbushel : bitsOf value 0 10 < 768) (hload : (s.place (placeKey site (bitsOf value 0 10 / 192))).loading = false) :
    (s.diagWrite site (value ||| 0x200000#32)).bit (LDC_BSH_DIAG_CTL_BUSY site) = true ∧
    mapGet (s.diagWrite site (value ||| 0x200000#32)).fab.diags 0 site = value ||| 0x200000#32 ∧
    (s.diagWrite site (value ||| 0x200000#32)).fab.rows = s.fab.rows := by
  unfold State.diagWrite
  rw [bitsOf_or_go]
  extract_lets s1 s2 f s3
  have hgo : ((value ||| 0x200000#32).getLsbD 21 && !s.bit (LDC_BSH_DIAG_CTL_BUSY site)) = true := by simp [hbusy]
  rw [if_pos hgo, if_neg (Nat.not_le.2 hbushel), if_neg (by simp [hload])]
  have hregs : s3.regs = s2.regs := rfl
  refine ⟨?_, mapGet_mapSet_same .., rfl⟩
  rw [State.bit, State.fld_of_regs hregs, ← State.bit, State.bit_setFld_one _ rfl]

/-- Settles O14, register by register. -/
theorem fabricRegisterWritesApply : Obligations.FabricRegisterWritesApply := by
  intro site lane m value mid s
  refine ⟨fun h => ?_, fun h => ?_, fun h => ?_, fun h => ?_, fun h hreq hheld => ?_, fun h hs hbusy hbushel hload => ?_⟩
  · obtain ⟨hen, hout⟩ := s.localEnable_bit_out site m (value.getLsbD 12)
    exact ⟨_, congrArg Host.Outcome.next (State.regWrite_of_done h rfl), hen, hout⟩
  · obtain ⟨hpend, hsrc⟩ := s.probeSelWrite_probe site lane value
    obtain ⟨hbit, hcsr⟩ := s.probeSelWrite_regs site lane value lane.isLt
    exact ⟨_, congrArg Host.Outcome.next (State.regWrite_of_done h rfl), hpend, hsrc, hbit, hcsr⟩
  · exact congrArg Host.Outcome.next (State.regWrite_of_done h rfl)
  · have hbit : (value ||| 1).getLsbD 0 = true := by simp
    exact ⟨_, congrArg Host.Outcome.next (State.regWrite_of_done h rfl), s.traceCtlWrite_of_arm site hbit⟩
  · exact congrArg Host.Outcome.next (State.regWrite_of_done h (State.snapReq_of_free hreq hheld))
  · exact ⟨_, congrArg Host.Outcome.next (levelSWrite_of_levelS h hs), State.diagWrite_of_go value hbusy hbushel hload⟩

end Sys2Proof.Machine
end

section
/-! PROOFS. Triggers of the trace (spec/03, R165-R168): where they wait, the edge that takes them, and what an entry stored leaves. -/

namespace Sys2Proof.Machine

open Sys2Proof

/-! ### The probe path is not in the registers -/

@[simp] theorem State.setProbe_regs (s : State) (site : Nat) (p : ProbeSt) : (s.setProbe site p).regs = s.regs := rfl
@[simp] theorem State.setProbe_fld (s : State) (site : Nat) (p : ProbeSt) (g : Fld) : (s.setProbe site p).fld g = s.fld g := rfl
@[simp] theorem State.setProbe_bit (s : State) (site : Nat) (p : ProbeSt) (g : Fld) : (s.setProbe site p).bit g = s.bit g := rfl

/-! ### A trigger comes (R166, R168) -/

/-- A trigger that comes waits for its edge. -/
theorem State.mem_trigs_traceTrigger (s : State) (site after : Nat) : after ∈ ((s.traceTrigger site after).probe site).trigs := by
  rw [State.traceTrigger, State.probe_setProbe_same]
  exact List.mem_concat_self

/-- NETWORK_TRIGGER where TEN_NET is set as the signal arrives (log entry 124): the taps read 1, and the trigger waits. -/
theorem exec_networkTrigger_of_enabled {s : State} {site : Fin 64} (second : Bool) (hen : s.bit (LDC_TRACE_CTL_TEN_NET site) = true) :
    ∃ w : State, w.regs = s.regs ∧ site.val ∈ w.fab.trigIn ∧
      exec (.networkTrigger site second) s = .next (w.traceTrigger site second.toNat) := by
  change ∃ w : State, _ ∧ _ ∧ execNetworkTrigger site second s = _
  unfold execNetworkTrigger
  by_cases hin : s.fab.trigIn.contains site.val
  · exact ⟨s, rfl, List.contains_iff_mem.1 hin, by simp only [if_pos hin, if_pos hen]⟩
  · refine ⟨{ s with fab := { s.fab with trigIn := s.fab.trigIn ++ [site.val] } }, rfl, List.mem_concat_self, ?_⟩
    simp only [if_neg hin]
    exact congrArg Host.Outcome.next (if_pos hen)

/-! ### An edge takes the triggers due (R166, R167) -/

/-- A trigger due at an armed trace not yet triggered is taken: TRIGGERED shows, TRIG_PTR names the entry written at this edge, and this entry
and POST more are still to write. -/
theorem State.traceTaken_of_due {s : State} {site : Nat} (hdue : 0 ∈ (s.probe site).trigs) (harm : s.bit (LDC_TRACE_CTL_ARM site) = true)
    (hfresh : s.bit (LDC_TRACE_STAT_TRIGGERED site) = false) (hdest : s.bit (LDC_PROBE_CTL_DEST site) = false) :
    (s.traceTaken site).bit (LDC_TRACE_STAT_TRIGGERED site) = true ∧
    (s.traceTaken site).fld (LDC_TRACE_STAT_TRIG_PTR site) = s.fld (LDC_TRACE_STAT_WPTR site) ∧
    ((s.traceTaken site).probe site).left = some (s.fld (LDC_TRACE_CTL_POST site) + 1) := by
  have htaken : ((s.probe site).trigs.contains 0 && s.bit (LDC_TRACE_CTL_ARM site) && !s.bit (LDC_TRACE_STAT_TRIGGERED site)) = true := by
    simp [hdue, harm, hfresh]
  have hwptr : s.fld (LDC_TRACE_STAT_WPTR site) < 2 ^ 10 := Nat.mod_lt _ (Nat.two_pow_pos _)
  unfold State.traceTaken
  extract_lets p s1 s2
  rw [if_pos htaken]
  refine ⟨?_, ?_, ?_⟩
  · rw [State.setProbe_bit, State.bit_setFld_apart _ _ rfl, State.bit_setFld_one _ rfl]
  · rw [State.setProbe_fld, State.fld_setFld_same _ _ _ (of_decide_eq_true rfl)]
    exact Nat.mod_eq_of_lt hwptr
  · rw [State.probe_setProbe_same, hdest]
    rfl

/-- A trace that is not armed, or triggered already, takes no trigger: no register changes. -/
theorem State.traceTaken_regs_of_ignored {s : State} {site : Nat}
    (h : s.bit (LDC_TRACE_CTL_ARM site) = false ∨ s.bit (LDC_TRACE_STAT_TRIGGERED site) = true) : (s.traceTaken site).regs = s.regs := by
  have hnot : ¬ ((s.probe site).trigs.contains 0 && s.bit (LDC_TRACE_CTL_ARM site) && !s.bit (LDC_TRACE_STAT_TRIGGERED site)) = true := by
    rcases h with h | h <;> simp [h]
  unfold State.traceTaken
  extract_lets p s1
  rw [if_neg hnot]
  rfl

/-! ### An entry stored (R165) -/

/-- Storing an entry changes no field of the status but WPTR and WRAPPED. -/
theorem State.traceStore_fld (s : State) {site : Nat} (v : DWord) (g : Fld) (hkey : g.key = LDC_TRACE_STAT site)
    (hwptr : (LDC_TRACE_STAT_WPTR site).apart g = true) (hwrapped : (LDC_TRACE_STAT_WRAPPED site).apart g = true) :
    (s.traceStore site v).fld g = s.fld g := by
  obtain ⟨hwptr, h32⟩ := Fld.apart_iff.1 hwptr
  obtain ⟨hwrapped, -⟩ := Fld.apart_iff.1 hwrapped
  unfold State.traceStore
  extract_lets i s1 s2 p
  have hlow : g.key ≠ LDC_TRACE_MEM site i := by
    simp only [hkey, LDC_TRACE_MEM, LDC_TRACE_STAT]
    omega
  have hhigh : g.key ≠ LDC_TRACE_MEM site i + 4 := by
    simp only [hkey, LDC_TRACE_MEM, LDC_TRACE_STAT]
    omega
  have h1 : s1.fld g = s.fld g := by
    simp only [s1]
    rw [State.fld_setFld_apart _ _ hwptr h32, State.setCsr64, State.fld_setCsr_ne _ _ hhigh, State.fld_setCsr_ne _ _ hlow]
  rw [State.setProbe_fld, ← h1]
  simp only [s2]
  split
  · exact s1.fld_setFld_apart _ hwrapped h32
  · rfl

/-- It counts off one of the entries still to write. -/
theorem State.traceStore_left (s : State) (site : Nat) (v : DWord) :
    ((s.traceStore site v).probe site).left = (s.probe site).left.map (· - 1) := by
  unfold State.traceStore
  extract_lets i s1 s2 p
  have hs2 : s2.fab = s.fab := by
    simp only [s2]
    split <;> rfl
  rw [State.probe_setProbe_same]
  simp only [p, State.probe, hs2]

/-! ### An edge of the probe clock (R165-R167) -/

/-- What an edge of the probe clock does once it has advanced the pipeline and taken the triggers due (`w`): it writes no register, or stores an
entry; it stores one if the trace is armed, with entries still to write, and does not go to the pins. -/
theorem State.probeEdge_cases (s : State) (site : Nat) (v : DWord) : ∃ (pipe : Vector DWord 7) (w : State),
    w = (s.setProbe site { s.probe site with pipe := pipe }).traceTaken site ∧
    ((s.probeEdge site v).regs = w.regs ∨ s.probeEdge site v = w.traceStore site (s.probe site).pipe[2]) ∧
    (s.bit (LDC_PROBE_CTL_DEST site) = false → s.bit (LDC_TRACE_CTL_ARM site) = true → (w.probe site).left ≠ some 0 →
      s.probeEdge site v = w.traceStore site (s.probe site).pipe[2]) := by
  unfold State.probeEdge
  extract_lets p pipe w
  refine ⟨pipe, w, rfl, ?_, fun hdest harm hleft => ?_⟩
  · split
    · refine .inl ?_
      split
      · split <;> rfl
      · rfl
    · split
      · exact .inr rfl
      · exact .inl rfl
  · rw [if_neg (by simp [hdest]), if_pos (by simp [harm, hleft])]

/-- TRIGGERED and TRIG_PTR after an edge of the probe clock are what the triggers taken at it make them. -/
theorem State.probeEdge_fld (s : State) (site : Nat) (v : DWord) : ∃ pipe : Vector DWord 7, ∀ g : Fld, g.key = LDC_TRACE_STAT site →
    (LDC_TRACE_STAT_WPTR site).apart g = true → (LDC_TRACE_STAT_WRAPPED site).apart g = true →
      (s.probeEdge site v).fld g = ((s.setProbe site { s.probe site with pipe := pipe }).traceTaken site).fld g := by
  obtain ⟨pipe, w, hw, hregs | hstore, -⟩ := s.probeEdge_cases site v
  · exact ⟨pipe, fun g _ _ _ => hw ▸ State.fld_of_regs hregs g⟩
  · exact ⟨pipe, fun g hkey hwptr hwrapped => by
      rw [hstore, ← hw]
      exact w.traceStore_fld _ g hkey hwptr hwrapped⟩

/-- At a trace not armed, or triggered already, an edge of the probe clock leaves TRIGGERED and TRIG_PTR. -/
theorem State.probeEdge_of_ignored {s : State} {site : Nat} (v : DWord)
    (h : s.bit (LDC_TRACE_CTL_ARM site) = false ∨ s.bit (LDC_TRACE_STAT_TRIGGERED site) = true) :
    (s.probeEdge site v).bit (LDC_TRACE_STAT_TRIGGERED site) = s.bit (LDC_TRACE_STAT_TRIGGERED site) ∧
    (s.probeEdge site v).fld (LDC_TRACE_STAT_TRIG_PTR site) = s.fld (LDC_TRACE_STAT_TRIG_PTR site) := by
  obtain ⟨pipe, hfld⟩ := s.probeEdge_fld site v
  have hregs := State.traceTaken_regs_of_ignored (s := s.setProbe site { s.probe site with pipe := pipe }) h
  refine ⟨?_, ?_⟩
  · rw [State.bit, hfld (LDC_TRACE_STAT_TRIGGERED site) rfl rfl rfl, State.fld_of_regs hregs, State.setProbe_fld, ← State.bit]
  · rw [hfld (LDC_TRACE_STAT_TRIG_PTR site) rfl rfl rfl, State.fld_of_regs hregs, State.setProbe_fld]

/-- At an armed trace not yet triggered an edge of the probe clock takes a trigger that is due, and stores the entry that TRIG_PTR names. -/
theorem State.probeEdge_of_due {s : State} {site : Nat} (v : DWord) (hdue : 0 ∈ (s.probe site).trigs)
    (harm : s.bit (LDC_TRACE_CTL_ARM site) = true) (hfresh : s.bit (LDC_TRACE_STAT_TRIGGERED site) = false)
    (hdest : s.bit (LDC_PROBE_CTL_DEST site) = false) :
    (s.probeEdge site v).bit (LDC_TRACE_STAT_TRIGGERED site) = true ∧
    (s.probeEdge site v).fld (LDC_TRACE_STAT_TRIG_PTR site) = s.fld (LDC_TRACE_STAT_WPTR site) ∧
    ((s.probeEdge site v).probe site).left = some (s.fld (LDC_TRACE_CTL_POST site)) := by
  obtain ⟨pipe, w, hw, -, hstores⟩ := s.probeEdge_cases site v
  obtain ⟨htriggered, hptr, hleft⟩ : w.bit (LDC_TRACE_STAT_TRIGGERED site) = true ∧
      w.fld (LDC_TRACE_STAT_TRIG_PTR site) = s.fld (LDC_TRACE_STAT_WPTR site) ∧
      (w.probe site).left = some (s.fld (LDC_TRACE_CTL_POST site) + 1) :=
    hw ▸ State.traceTaken_of_due (s := s.setProbe site { s.probe site with pipe := pipe })
      (by rwa [State.probe_setProbe_same]) harm hfresh hdest
  rw [hstores hdest harm (by simp [hleft])]
  refine ⟨?_, ?_, ?_⟩
  · rwa [State.bit, w.traceStore_fld _ (LDC_TRACE_STAT_TRIGGERED site) rfl rfl rfl]
  · rwa [w.traceStore_fld _ (LDC_TRACE_STAT_TRIG_PTR site) rfl rfl rfl]
  · rw [State.traceStore_left, hleft]
    rfl

/-- TRACE_ENTRY_WRITE where the probe clock runs is an edge of it, with the lanes as they stood before. -/
theorem exec_traceEntryWrite_of_runs {s : State} {site : Fin 64} (same : Bool) (hruns : s.clockRuns site (s.probeClock site) = true) :
    exec (.traceEntryWrite site same) s = .next ((s.edgeAt (placeKey site 0) (s.probeClock site) same).probeEdge site
      ((s.edgeAt (placeKey site 0) (s.probeClock site) same).before.lanes site)) :=
  congrArg Host.Outcome.next (if_pos hruns)

/-- Settles O15: a trigger waits where it comes, and the edge at which it is due takes it, with POST as it stands there, or ignores it. -/
theorem traceTriggersOnce : Obligations.TraceTriggersOnce := by
  intro site second same s t
  refine ⟨fun h => ?_, fun hen => ?_, fun hruns hedge hdue => ?_⟩
  · exact ⟨s.traceTrigger site 0, congrArg Host.Outcome.next (State.regWrite_of_reached h), rfl, s.mem_trigs_traceTrigger site 0⟩
  · obtain ⟨w, hregs, htaps, hexec⟩ := exec_networkTrigger_of_enabled second hen
    exact ⟨_, hexec, hregs, w.mem_trigs_traceTrigger site second.toNat, htaps⟩
  · subst hedge
    exact ⟨_, exec_traceEntryWrite_of_runs same hruns, State.probeEdge_of_due _ hdue, State.probeEdge_of_ignored _⟩

end Sys2Proof.Machine
end

section
/-! PROOFS. MAC tiles (spec/04, R221-R257): what a tile's operation, its control and its streams do, and what an operation leaves unchanged. -/

namespace Sys2Proof.Machine

open Sys2Proof

/-! ### What an operation of a tile changes -/

/-- `u` is `s` but for tile `t` of `site`, the data words of that tile, the error log and the free values taken. -/
structure OnlyTile (site t : Nat) (s u : State) : Prop where
  parts  : ∃ errs ctr tiles tmem, u = { s with errs := errs, freeCtr := ctr, fab := { s.fab with tiles := tiles, tmem := tmem } }
  tiles  : ∀ site' t', tileKey site' t' ≠ tileKey site t → u.tile site' t' = s.tile site' t'
  twords : ∀ key, key / 512 ≠ tileKey site t → u.tword key = s.tword key

theorem OnlyTile.refl (site t : Nat) (s : State) : OnlyTile site t s s := ⟨⟨_, _, _, _, rfl⟩, fun _ _ _ => rfl, fun _ _ => rfl⟩

theorem OnlyTile.trans {site t : Nat} {s u v : State} (h : OnlyTile site t s u) (g : OnlyTile site t u v) : OnlyTile site t s v := by
  obtain ⟨⟨_, _, _, _, rfl⟩, htiles, htwords⟩ := h
  obtain ⟨⟨_, _, _, _, rfl⟩, gtiles, gtwords⟩ := g
  exact ⟨⟨_, _, _, _, rfl⟩, fun i j hij => (gtiles i j hij).trans (htiles i j hij), fun k hk => (gtwords k hk).trans (htwords k hk)⟩

/-- The key of a tile's data word names the tile. -/
theorem tmemKey_tile {site t bank n : Nat} (hbank : bank < 2) (hn : n < 256) : tmemKey site t bank n / 512 = tileKey site t := by
  simp only [tmemKey]
  omega

/-- An address generator gives one of the 256 words of a bank. -/
theorem AddrGen.addr_lt (g : AddrGen) (open_ : Nat) : g.addr open_ < 256 := by
  unfold AddrGen.addr
  split
  · split <;> exact Nat.mod_lt _ (by decide)
  · exact Nat.mod_lt _ (by decide)

/-- DST names one of four places. -/
theorem tiDst_lt (w : DWord) : tiDst w < 4 := Nat.mod_lt _ (by decide)

section Operation

variable (s : State) (site t : Nat) (w : DWord)

theorem State.setTile_only (x : TileSt) : OnlyTile site t s (s.setTile site t x) :=
  ⟨⟨_, _, _, _, rfl⟩, fun _ _ h => mapGet_mapSet_ne _ _ _ _ h, fun _ _ => rfl⟩

theorem State.dropInjected_only (target key : Nat) : OnlyTile site t s (s.dropInjected target key) :=
  ⟨⟨_, _, _, _, rfl⟩, fun _ _ _ => rfl, fun _ _ => rfl⟩

theorem State.free_only : OnlyTile site t s s.free.2 := ⟨⟨_, _, _, _, rfl⟩, fun _ _ _ => rfl, fun _ _ => rfl⟩

theorem State.report_only (sp block unit code sev : Nat) (addr : DWord) (info : Word) (inj : Bool) :
    OnlyTile site t s (s.report sp block unit code sev addr info inj) := ⟨⟨_, _, _, _, rfl⟩, fun _ _ _ => rfl, fun _ _ => rfl⟩

theorem State.setTword_only {bank n : Nat} (hbank : bank < 2) (hn : n < 256) (v : BitVec 105) :
    OnlyTile site t s (s.setTword (tmemKey site t bank n) v) := by
  refine ⟨⟨_, _, _, _, rfl⟩, fun _ _ _ => rfl, fun key hkey => mapGet_mapSet_ne _ _ _ _ fun h => hkey ?_⟩
  rw [h, tmemKey_tile hbank hn]

theorem State.tileErr_only (b sev : Nat) (inj : Bool) : OnlyTile site t s (s.tileErr site t b sev inj) :=
  (s.setTile_only site t _).trans (State.report_only ..)

theorem State.tileCount_only (ce ue memory inj : Bool) : OnlyTile site t s (s.tileCount site t ce ue memory inj) := by
  unfold State.tileCount
  extract_lets x s1 y s2
  have h1 : OnlyTile site t s s1 := by
    simp only [s1]
    split
    · exact (s.setTile_only site t _).trans (State.tileErr_only ..)
    · exact .refl ..
  have h2 : OnlyTile site t s1 s2 := by
    simp only [s2]
    split
    · exact s1.setTile_only site t _
    · exact .refl ..
  refine (h1.trans h2).trans ?_
  split
  · exact s2.tileErr_only ..
  · exact .refl ..

theorem State.tileRead_only (bank n : Nat) : OnlyTile site t s (s.tileRead site t bank n).2.2 := by
  unfold State.tileRead
  extract_lets k v o s1
  have h1 : OnlyTile site t s s1 := s.tileCount_only ..
  dsimp only
  split
  · exact h1.trans (s1.dropInjected_only ..)
  · exact h1

theorem State.tileOperand_only (src ag open_ : Nat) : OnlyTile site t s (s.tileOperand site t src ag open_).2.2 := by
  unfold State.tileOperand
  extract_lets x head
  have hhead (q : List (BitVec 48 × Bool)) : OnlyTile site t s (head q).2.2 := by
    cases q <;> exact .refl ..
  split
  · exact hhead x.is0
  · exact hhead x.is1
  · exact s.tileRead_only ..

theorem State.tileOperands_only : OnlyTile site t s (s.tileOperands site t w).state := by
  have hfree : OnlyTile site t s (if (s.tile site t).openAddr w then (s.free.1.toNat, s.free.2) else (0, s)).2 := by
    split
    · exact s.free_only ..
    · exact .refl ..
  have hread (u : State) (reads : Bool) (src ag open_ : Nat) :
      OnlyTile site t u (if reads then u.tileOperand site t src ag open_ else (0, false, u)).2.2 := by
    split
    · exact u.tileOperand_only ..
    · exact .refl ..
  exact ((hfree.trans (hread _ (tiReadsX w) (tiXsrc w) (tiXag w) _)).trans (hread _ (tiReadsY w) (tiYsrc w) (tiYag w) _)).trans
    (State.setTile_only ..)

/-- DST is the result's place in the tile: nowhere, the stream OS, or a word of a bank. -/
theorem State.tileDst_only (open_ : Nat) (v : DWord) (poison : Bool) : OnlyTile site t s (s.tileDst site t w open_ v poison) := by
  have hdst := tiDst_lt w
  unfold State.tileDst
  extract_lets x
  split
  · exact .refl ..
  · exact s.setTile_only ..
  · exact s.setTword_only site t (by omega) (AddrGen.addr_lt ..) _

theorem State.tileOvf_only (ovf : Bool) : OnlyTile site t s (s.tileOvf site t ovf) := by
  unfold State.tileOvf
  split
  · exact s.tileErr_only ..
  · exact .refl ..

/-- One accumulator takes its value, or each takes its own. -/
theorem State.tileProduct_only (o : TileOps) (sign : Int) : OnlyTile site t s (s.tileProduct site t w o sign) := by
  unfold State.tileProduct
  extract_lets p half one
  have hone (u : State) (which : Bool) (v : Int) : OnlyTile site t u (one u which v) :=
    (u.setTile_only ..).trans (State.tileOvf_only ..)
  split
  · exact (hone ..).trans (hone ..)
  · exact hone ..

/-- Whatever its operation, an effect is a change of the tile's state, a result in DST, or both, and OVF. -/
theorem State.tileEffect_only (o : TileOps) : OnlyTile site t s (s.tileEffect site t w o) := by
  unfold State.tileEffect
  extract_lets x a
  split
  case h_1 | h_2 | h_3 => exact s.tileProduct_only .. -- MUL, MAC, MSU
  case h_5 => exact (s.setTile_only ..).trans (State.tileOvf_only ..) -- LDA
  case h_6 => exact (s.tileDst_only ..).trans (State.tileOvf_only ..) -- MOVA
  case h_7 => exact ((s.tileDst_only ..).trans (State.tileOvf_only ..)).trans (State.setTile_only ..) -- MOVAC
  case h_8 | h_13 => exact s.tileDst_only .. -- MOVX, MOVBE
  case h_10 => exact (s.setTile_only ..).trans (State.tileDst_only ..) -- EXP
  case h_15 => exact .refl .. -- NOP; REP and HALT act at issue
  all_goals exact s.setTile_only .. -- CLRA, NORM, BEXP, SETBE, SETAG

theorem State.tileHalt_only (b : Nat) (inj : Bool) : OnlyTile site t s (s.tileHalt site t b inj) :=
  (s.setTile_only ..).trans (State.tileErr_only ..)

theorem State.tileIssue_only : OnlyTile site t s (s.tileIssue site t w) := by
  unfold State.tileIssue
  extract_lets x o s1
  split
  · exact s.setTile_only ..
  · split
    · exact s.setTile_only ..
    · split
      · split
        · exact s.tileHalt_only ..
        · exact s.setTile_only ..
      · exact ((s.tileOperands_only site t w).trans (State.tileEffect_only ..)).trans (State.setTile_only ..)

theorem State.tileFetch_only : OnlyTile site t s (s.tileFetch site t) := by
  unfold State.tileFetch
  extract_lets x o s1
  have h1 : OnlyTile site t s s1 := by
    simp only [s1]
    split
    · exact s.tileCount_only ..
    · exact .refl ..
  refine h1.trans ?_
  split
  · exact s1.tileHalt_only ..
  · split
    · exact s1.tileHalt_only ..
    · exact s1.tileIssue_only ..

theorem State.tileOp_only (op : Nat) : OnlyTile site t s (s.tileOp site t op) := by
  unfold State.tileOp
  extract_lets o
  split
  · exact s.tileFetch_only ..
  · exact .refl ..

end Operation

/-- An operation's command runs the tile if its PC is at that operation. -/
theorem exec_tileCommand (n : Fin 17) (site : Fin 64) (tile : Fin 128) (s : State) :
    exec (tileCommand n site tile) s = .next (s.tileOp site tile n) := by
  fin_cases n <;> rfl

/-- Settles O20: an operation changes its own tile, that tile's data words, the error log and the free values taken. -/
theorem tileCommandFrame : Obligations.TileCommandFrame := by
  intro n site tile s t hexec
  rw [exec_tileCommand] at hexec
  obtain ⟨⟨errs, ctr, tiles, tmem, ht⟩, htiles, htwords⟩ := Host.Outcome.next.inj hexec ▸ s.tileOp_only site tile n
  refine ⟨htiles, htwords, ?_⟩
  rw [ht]
  exact ⟨rfl, rfl, rfl, rfl, rfl, rfl, rfl, rfl, rfl, rfl, rfl, rfl, rfl⟩

/-! ### A running tile at a legal operation (R229-R244) -/

/-- The operation at the PC, its word read without an uncorrectable error, is fetched and issued: the fetch is counted where the tile runs, not
again where it waited (log entry 135). -/
theorem State.tileOp_of_legal {s : State} {site t op : Nat} {o : SecWord} (hruns : s.tileRuns site t = true)
    (ho : secDecode8 (s.iword site t (s.tile site t).pc) = o) (hue : o.ue = false) (hop : tiOp o.data = op) (hlegal : tiIllegal o.data = false) :
    s.tileOp site t op =
      (if (s.tile site t).mode = .run then s.tileCount site t o.ce o.ue false false else s).tileIssue site t o.data := by
  subst ho
  simp only [State.tileOp, State.tileFetch, hruns, hop, hue, hlegal, decide_true, Bool.or_true, Bool.and_self, if_true,
    Bool.false_eq_true, if_false]

/-- With no stream to wait for and no loop rule broken the issued operation ends the program, opens a loop, or takes effect and moves on. -/
theorem State.tileIssue_of_ready {s : State} {site t : Nat} {w : DWord} (hready : (s.tile site t).waits w = 0)
    (hrep : tiOp w = 0x0E → repBad (s.tile site t) w = false) : s.tileIssue site t w =
      if tiOp w = 0x10 then s.setTile site t { s.tile site t with mode := .done, waitOn := 0 }
      else if tiOp w = 0x0E then s.setTile site t { s.tile site t with
        loops := ⟨(s.tile site t).pc + 1, tiEnd w, tiImm w % 4096 + 1⟩ :: (s.tile site t).loops, pc := ((s.tile site t).pc + 1) % 32,
        mode := .run, waitOn := 0 }
      else
        let o := s.tileOperands site t w
        let s1 := o.state.tileEffect site t w o
        s1.setTile site t (((s1.tile site t).advance w).next) := by
  unfold State.tileIssue
  extract_lets x o s1
  rw [if_neg (not_not.2 hready)]
  by_cases h : tiOp w = 0x0E
  · simp only [if_pos h, if_neg (Bool.eq_false_iff.1 (hrep h)), x]
  · simp only [if_neg h, x]

/-- Settles O18: the operation is fetched and issued. -/
theorem tileOperationRuns : Obligations.TileOperationRuns := by
  intro n site tile s s1 o w x hruns ho hue hw hop hlegal hs1 hx hready hrep
  subst hw hx
  have hcode (k : Fin 17) : tiOp o.data = k.val ↔ n = k := by rw [hop, Fin.ext_iff]
  rw [exec_tileCommand, State.tileOp_of_legal hruns ho hue hop hlegal, ← hs1,
    State.tileIssue_of_ready hready fun h => hrep ((hcode 14).1 h)]
  simp only [← hcode]
  rfl

/-! ### Control and streams (R243-R248) -/

/-- GO (R246) at a halted tile under release, by FGO or through the host port. -/
theorem State.tileGo_of_halted {s : State} {site t : Nat} (hclk : s.acreClocked (tilePlace site t) = true)
    (h : (s.tile site t).mode.halted = true) : s.tileGo site t = s.setTile site t { s.tile site t with
      loops := [], pc := bitsOf (s.tile site t).ctl 8 5, mode := .run, waitOn := 0, stopReq := false } :=
  if_pos (by rw [hclk, h]; rfl)

/-- STOP (R247) of a tile that is not halted. -/
theorem State.tileStop_of_running {s : State} {site t : Nat} (h : (s.tile site t).mode.halted = false) :
    s.tileStop site t = s.setTile site t { s.tile site t with stopReq := true } := if_neg (Bool.eq_false_iff.1 h)

/-- RESUME (R248) of a stopped tile. -/
theorem State.tileResume_of_stopped {s : State} {site t : Nat} (h : (s.tile site t).mode = .stopped) :
    s.tileResume site t = s.setTile site t { s.tile site t with mode := .run, stopReq := false } := if_pos h

/-- Settles O19, command by command. -/
theorem tileControlAndStreams : Obligations.TileControlAndStreams := by
  intro site tile s x data poison hx
  subst hx
  refine ⟨fun hclk hhalted => congrArg Host.Outcome.next (State.tileGo_of_halted hclk hhalted),
    fun hopen hrun => congrArg Host.Outcome.next ((if_pos hopen).trans (State.tileStop_of_running hrun)),
    fun hreq hrun => congrArg Host.Outcome.next (if_pos (by rw [hreq, hrun]; rfl)),
    fun hopen hstopped => congrArg Host.Outcome.next ((if_pos hopen).trans (State.tileResume_of_stopped hstopped)),
    fun hclk hruns => ?_⟩
  have hedge : (s.acreClocked (tilePlace site tile) && s.clockRuns site (bitsOf (s.tile site tile).ctl 13 3)) = true := by
    rw [hclk, hruns]
    rfl
  refine ⟨fun hroom => ?_, fun hroom => ?_, fun d p q hos => ?_⟩
  · exact congrArg Host.Outcome.next ((if_pos hedge).trans (if_pos hroom))
  · exact congrArg Host.Outcome.next ((if_pos hedge).trans (if_pos hroom))
  · refine congrArg Host.Outcome.next ((if_pos hedge).trans ?_)
    simp only [hos]

end Sys2Proof.Machine
end

section
/-! PROOFS. Bushels (spec/04, R192-R198, R208-R216): what their commands do at the edges of their clocks. -/

namespace Sys2Proof.Machine

open Sys2Proof

/-- A commanded edge of a bushel whose clocks run, of its command's kind, acts on it once the edges have come. -/
theorem State.bushelAt_of_clocked {s : State} {site b : Nat} {e : BshEdge} {p : State → Bool} (hclk : s.bshClocked site b e = true)
    (hp : p s = true) : s.bushelAt site b e p =
      (s.bshClocks site b e).bushelEdge site b ((s.bshClocks site b e).bshTaken site b e) :=
  if_neg (by rw [hclk, hp]; decide)

/-- At an idle cycle of a bushel's port B what waits for it acts. -/
theorem IdleB.idleB {s t : State} {site : Fin 64} {b : Nat} {same : Bool} (h : IdleB s site b same t) (f : State → State) :
    s.idleB site b same f = f t := by
  simp [State.idleB, h.logic, h.free, h.runs, h.now, h.rises]

/-- The row that waits takes the corrected code words and keeps its valid bit (R209). -/
theorem State.scrubWriteBack_of_back {s : State} {site b r : Nat} {v : BitVec 108} (h : (s.bsh site b).back = some (r, v)) :
    s.scrubWriteBack site b = (s.setBshRow site b r (s.bshRowAt site b r &&& BitVec.twoPow 109 108 ||| v.setWidth 109)).setBsh site b
      { s.bsh site b with back := none } := by
  simp only [State.scrubWriteBack, h]

/-- Settles O16, command by command. -/
theorem bushelCommandsAct : Obligations.BushelCommandsAct := by
  intro site bushel e same s t
  refine ⟨fun hclk ht => ?_, fun hidle => ⟨fun hen => ?_, fun r v w hs ht => ?_, fun hbusy hb => ?_⟩, fun hbusy => ?_⟩
  · subst ht
    exact ⟨fun hread => congrArg Host.Outcome.next (State.bushelAt_of_clocked hclk hread),
      fun hwrite => congrArg Host.Outcome.next (State.bushelAt_of_clocked hclk hwrite),
      fun hclear => congrArg Host.Outcome.next (State.bushelAt_of_clocked hclk hclear)⟩
  · exact congrArg Host.Outcome.next ((if_pos hen).trans (hidle.idleB _))
  · refine congrArg Host.Outcome.next ((if_pos (by rw [hs]; rfl)).trans ((hidle.idleB _).trans ?_))
    exact State.scrubWriteBack_of_back ht
  · refine congrArg Host.Outcome.next ((if_pos hbusy).trans ?_)
    rw [hb]
    exact hidle.idleB _
  · exact ⟨_, congrArg Host.Outcome.next (if_pos hbusy), rfl, rfl⟩

end Sys2Proof.Machine
end

section
/-! PROOFS. The ring network (spec/05, R275-R346): requests and their completions, flits at stops, rate windows, slot plans and gates, and how
a target serves a request. -/

namespace Sys2Proof.Machine

open Sys2Proof

/-! ### Requests and their transactions (R287, R303-R312) -/

/-- A request whose address resolves to no stop is delivered ERR_TARGET (R287). -/
theorem State.issue_of_unresolved {s : State} {r : IssueReq} (hfree : s.txn r.stop.toNat r.tag.toNat = none)
    (hdst : s.resolve r.addr.toNat = none) : s.issue r = s.deliver r.stop.toNat r.tag.toNat .errTarget := by
  simp only [State.issue, hfree, hdst]

/-- A request of another class than G with a path in service waits at its source, without a flow (R308). -/
theorem State.issue_of_path {s : State} {r : IssueReq} {dst : Nat} (hfree : s.txn r.stop.toNat r.tag.toNat = none)
    (hdst : s.resolve r.addr.toNat = some dst) (hcls : issueClass r.stop.toNat r.cls ≠ .g) (hpath : s.path r.stop.toNat dst 0 ≠ [])
    (hup : (s.path r.stop.toNat dst 0).any (fun l => s.bit (RNG_RATE_DOWN l.ring)) = false) :
    s.issue r = { s with ring := { s.ring with
      txns := s.ring.txns ++ [⟨issuePacket r dst (issueClass r.stop.toNat r.cls) none, false, false, none⟩] } } := by
  have hring : (s.path r.stop.toNat dst 0).isEmpty = false := List.isEmpty_eq_false_iff.2 hpath
  simp only [State.issue, hfree, hdst, hup, hring, hcls, false_and, Bool.false_eq_true, if_false]

/-- A whole completion of its stop reaches a transaction that was sent and that it answers, by its end-to-end CRC and SEQ (R302, R306): the
tag is free, and the requester has the status unless it had given up. -/
theorem State.complete_of_match {s u : State} {stop : Nat} {p : CplPkt} {t : Txn} (hway : s.lostOnWay p.src.toNat stop 1 = false)
    (hwhole : p.complete = true) (hdst : p.dst.toNat = stop) (hu : s.dropIncomplete stop p.src.toNat p.lane p.cls = u)
    (ht : u.txn stop p.tag.toNat = some t) (hsent : t.sent = true) (hcrc : cplCrc t.pkt.addr p = p.crc) (hseq : p.seq = t.pkt.seq) :
    s.complete stop p = (if t.gaveUp then (u.dropTxn stop p.tag.toNat).satInc RNG_LATE_CPL_CNT_CNT
      else (u.dropTxn stop p.tag.toNat).deliver stop p.tag.toNat p.status p.rsn
        (p.late || (u.dropTxn stop p.tag.toNat).lateHere p.src.toNat stop 1) p.peek p.imm p.data
        (if t.pkt.opc = 1 ∨ t.pkt.opc = 5 ∨ 2 ≤ statusCode p.status then [] else cplBytes p)).flowFree t.flow := by
  simp only [State.complete, hway, hwhole, hdst, hu, ht, hsent, hcrc, hseq, Bool.not_true, Bool.false_eq_true, ne_eq, not_true_eq_false,
    if_false]

/-- The timer of a transaction that was sent delivers ERR_TIMEOUT; the tag stays held (R311, R312). -/
theorem State.timedOut_of_sent {s : State} {stop tag : Nat} {t : Txn} (ht : s.txn stop tag = some t) (hgave : t.gaveUp = false)
    (hsent : t.sent = true) :
    s.timedOut stop tag = (s.mapTxn stop tag fun t => { t with gaveUp := true }).deliver stop tag .errTimeout := by
  simp only [State.timedOut, ht, hgave, hsent, Bool.false_eq_true, if_false, if_true]

theorem exec_requestIssue (r : IssueReq) (s : State) :
    exec (.requestIssue r) s = .next ((s.issue r).afterDeliver r.stop.toNat) := rfl

theorem exec_completion (stop : Fin 512) (p : CplPkt) (s : State) :
    exec (.completion stop p) s = .next ((s.complete stop p).afterDeliver stop) := rfl

theorem exec_transactionTimeout (stop : Fin 512) (tag : Fin 8192) (s : State) :
    exec (.transactionTimeout stop tag) s = .next ((s.timedOut stop tag).afterDeliver stop) := rfl

/-! ### Flits at stops and rate windows (R275-R277, R284-R294) -/

/-- A slot that arrives at a stop, and on no link that refuses it, is checked, emptied of what leaves there, filled and sent on. -/
theorem exec_flitAtStop_of_arrives {s : State} {p : SlotPass} {nd : RingNode} {stop : Nat} {c t f : State × RingSlot}
    (hnd : s.ringNode p.ring p.lane p.pos = some nd) (hstop : nd.stop = some stop) (harrives : s.slotArrives p = true)
    (haccepts : (s.crossing p.ring p.lane nd.col p.pos).any (fun l => !s.linkAccepts l.1 l.2) = false)
    (hc : c = s.checkSlot nd.space p.ring (s.slot p.ring p.lane p.slot) p.hdr p.pay) (ht : t = c.1.takeOff stop p.ring c.2)
    (hf : f = t.1.fillSlot stop p t.2) :
    exec (.flitAtStop p) s = .next (f.1.slotOut (some stop) p f.2 (s.crossing p.ring p.lane nd.col p.pos)) := by
  subst hc ht hf
  change execFlitAtStop p s = _
  simp only [execFlitAtStop, hnd, hstop, harrives, haccepts, Bool.not_true, Bool.or_self, Bool.false_eq_true, if_false]

/-- Writing a field leaves the ring: the ring's part may be set before it as after it. -/
theorem State.setFld_setRing (s : State) (f : Fld) (n : Nat) (x : RingState) :
    { s.setFld f n with ring := x } = State.setFld { s with ring := x } f n := rfl

/-- Fewer than 1,500 slot advances in a window, less than RATE can hold: the rate shows, and the ring is SLOW (R275, R276). -/
theorem exec_rateWindow_of_slow {s u : State} {ring : Fin 60} {n : Nat} (hn : n < 1500)
    (hu : u = { s with ring := { s.ring with slowWin := s.ring.slowWin.filter (· ≠ ring.val) ++ [ring.val] } }) :
    exec (.rateWindow ring n) s = .next (((u.setFld (RNG_RATE_RATE ring) n).setFld (RNG_RATE_MIN_RATE ring)
      (min n (s.fld (RNG_RATE_MIN_RATE ring)))).markSlow ring) := by
  have hrate : min n 4095 = n := by omega
  change execRateWindow ring n s = _
  simp only [execRateWindow, hrate, hn, decide_true, Bool.true_or, if_true, State.setFld_ring]
  rw [State.setFld_setRing, State.setFld_setRing, hu]

/-! ### Slot plans (R325, R326, R344-R346) -/

/-- A Level S master's write that reaches its register and succeeds has its effect and is answered OK. -/
theorem State.regWrite_of_levelS {s : State} {mid : BitVec 12} {key : Nat} {g : State → State × Status} (h : s.regReached key = true)
    (hs : s.levelS mid.toNat = true) (hok : (g s).2 = .ok) :
    (s.regWrite key fun s => if s.levelS mid.toNat then g s else (s, .errDenied)) = (g s).1.send (.wrote key .ok) :=
  State.regWrite_of_done h (by rw [if_pos hs, ← hok])

/-- Setting fields one after another writes registers alone. -/
theorem State.foldl_setFld_parts {α : Type} (fld : α → Fld) (val : State → α → Nat) (l : List α) (s : State) :
    ∃ regs, l.foldl (fun t a => t.setFld (fld a) (val t a)) s = { s with regs := regs } := by
  induction l generalizing s with
  | nil => exact ⟨_, rfl⟩
  | cons a l ih =>
    obtain ⟨regs, hregs⟩ := ih (s.setFld (fld a) (val s a))
    exact ⟨regs, hregs⟩

/-- The status of the flows stands in registers alone (R326). -/
theorem State.flowStatuses_parts (s : State) : ∃ regs, s.flowStatuses = { s with regs := regs } :=
  State.foldl_setFld_parts ..

@[simp] theorem State.flowStatuses_ring (s : State) : s.flowStatuses.ring = s.ring := by
  obtain ⟨regs, hregs⟩ := s.flowStatuses_parts
  rw [hregs]

@[simp] theorem State.flowStatuses_mem (s : State) : s.flowStatuses.mem = s.mem := by
  obtain ⟨regs, hregs⟩ := s.flowStatuses_parts
  rw [hregs]

/-- A copy that was waiting for slot 0 is over. -/
theorem exec_planActive_of_copy {s : State} {r : Nat} (h : s.ring.committing = some (r, .copy)) :
    exec .planActive s = .next (State.setFld { s with ring := { s.ring with committing := none } } RNG_PLAN_CMD_BUSY 0) := by
  change execPlanActive s = _
  simp only [execPlanActive, h, if_true]

/-- A committed plan becomes the active one (R325): before what waits for lost slots is demoted, nothing is committing and no memory has
changed. -/
theorem exec_planActive_of_commit {s : State} {r : Nat} (h : s.ring.committing = some (r, .commit)) :
    ∃ u : State, exec .planActive s = .next (u.flowsLost r) ∧ u.ring.active = planCopy r s.ring.shadow s.ring.active ∧
      u.ring.committing = none ∧ u.mem = s.mem := by
  change ∃ u : State, execPlanActive s = _ ∧ _
  simp only [execPlanActive, h, reduceCtorEq, if_false]
  exact ⟨_, rfl, by simp, by simp, by simp⟩

/-! ### Fabric gates (R332-R337) -/

/-- An OK answer of the fabric, in time, to a WRITE completes it OK and frees its HTAG for the next request held (R334, R336). -/
theorem exec_trsp_of_written {s : State} {ld : Fin 48} {gate : Fin 16} {m : TrspMsg} {q : TreqOut}
    (hq : s.ring.treq.find? (fun q => q.ld = ld.val ∧ q.gate = gate.val ∧ q.htag = m.htag.toNat) = some q)
    (hfence : s.gateFenced ld gate = false) (hen : s.gateEnabled ld gate = true) (hstatus : m.status = 0) (hwrite : q.pkt.opc = 1)
    (hdata : m.data = []) (hlate : q.late = false) :
    exec (.trsp ld gate m) s = .next ((State.reply { s with ring := { s.ring with treq := s.ring.treq.filter (fun x => x ≠ q) } }
      (gateStop ld gate) q.pkt .ok).gateNext ld gate) := by
  change execTrsp ld gate m s = _
  simp only [execTrsp, hq, hfence, hen, hstatus, hwrite, hdata, hlate, List.flatMap_nil, List.take_nil, List.zipIdx_nil, List.map_nil,
    List.any_nil, show ¬ 1 < BitVec.toNat (0 : BitVec 3) by decide, BitVec.reduceEq, Bool.not_true, Bool.or_self, decide_false,
    Bool.false_eq_true, ite_self, if_false]

/-- A request of the fabric that its gate takes, to an address that is no acre's, is issued and remembered by its HTAG (R334, R335). -/
theorem exec_ireq_of_open {s : State} {ld : Fin 48} {gate : Fin 16} {tag : BitVec 13} {m : IreqMsg} (hshut : s.gateShut ld gate = false)
    (hen : s.gateEnabled ld gate = true)
    (hbusy : s.ring.ireq.any (fun q => q.ld = ld.val ∧ q.gate = gate.val ∧ q.htag = m.htag.toNat) = false)
    (htag : bitsOf tag 11 2 = gate % 4) (hfree : s.txn (gateStop ld gate) tag.toNat = none) (hacre : s.acreOf m.addr.toNat = none) :
    exec (.ireq ld gate tag m) s = .next (State.issue
      { s with ring := { s.ring with ireq := s.ring.ireq ++ [IreqOut.mk ld gate m.htag.toNat tag.toNat] } } (ireqIssue ld gate tag m)) := by
  change execIreq ld gate tag m s = _
  simp only [execIreq, hshut, hen, hbusy, htag, hfree, hacre, Bool.not_true, Bool.or_self, ne_eq, not_true_eq_false, decide_false,
    Option.isSome_none, Bool.false_eq_true, if_false]

/-! ### The ring's commands -/

/-- Settles O41, command by command. -/
theorem ringCommandsAct : Obligations.RingCommandsAct := by
  intro s mid
  refine ⟨fun r hfree => ⟨fun hdst => ?_, fun dst hdst hcls hpath hup => ?_⟩, ?_, ?_, fun _ _ _ _ _ _ => exec_flitAtStop_of_arrives,
    fun _ _ _ _ => rfl, fun _ _ hn => ⟨_, rfl, exec_rateWindow_of_slow hn rfl⟩, fun hs => ?_,
    fun _ => ⟨exec_planActive_of_copy, exec_planActive_of_commit⟩, ?_, fun _ _ _ _ => exec_trsp_of_written, ?_,
    fun _ _ _ _ => exec_ireq_of_open⟩
  · rw [exec_requestIssue, State.issue_of_unresolved hfree hdst]
  · rw [exec_requestIssue, State.issue_of_path hfree hdst hcls hpath hup]
  · intro stop p u t hway hwhole hdst hu ht hsent hgave hcrc hseq hok hwrite
    rw [exec_completion, State.complete_of_match hway hwhole hdst hu ht hsent hcrc hseq, hgave, hok, hwrite, if_neg Bool.false_ne_true,
      if_pos (Or.inl rfl)]
  · intro stop tag t ht hgave hsent
    rw [exec_transactionTimeout, State.timedOut_of_sent ht hgave hsent]
  · exact ⟨fun ring h => congrArg Host.Outcome.next (levelSWrite_of_levelS h hs),
      fun entry h hok => congrArg Host.Outcome.next (State.regWrite_of_levelS h hs hok),
      fun ring h hok => congrArg Host.Outcome.next (State.regWrite_of_levelS h hs hok),
      fun ring h hok => congrArg Host.Outcome.next (State.regWrite_of_levelS h hs hok)⟩
  · intro stop tag t ht hgave
    refine ⟨_, rfl, ?_⟩
    change execTagRelease stop tag s = _
    simp only [execTagRelease, ht, hgave, if_true]
  · intro ld gate htag q hq
    change execGateTreqTimeout ld gate htag s = _
    simp only [execGateTreqTimeout, hq]

/-! ### Requests at their target (R296-R303) -/

/-- A packet of an operation that the arrival checks pass, at a stop that answers, is served. -/
theorem State.request_of_arrive {s t : State} {op stop : Nat} {p q : ReqPkt} (hop : p.opc.toNat = op) (hstop : s.stopAnswers stop = true)
    (harrive : s.arrive stop p = (some q, t)) : s.request op stop p = t.targetServe stop q := by
  simp only [State.request, hop, hstop, harrive, decide_true, Bool.true_or, Bool.not_true, Bool.or_self, Bool.false_eq_true, if_false]

/-- At the MAC tiles of a logical die a host access is a request of its own operation (R258). -/
theorem exec_mtHostAccess_of_tiles {s : State} {stop : Fin 512} {d : Nat} (p : ReqPkt) (hkind : stopKind stop = .logic d 5) :
    exec (.mtHostAccess stop p) s = .next (s.request p.opc.toNat stop p) := by
  change execMtHostAccess stop p s = _
  simp only [execMtHostAccess, hkind]

/-- At a hub stop other than the firewall's a message that passes its checks joins the stop's messages and is answered OK. -/
theorem State.targetServe_of_msg {t : State} {stop h j : Nat} {q : ReqPkt} (hkind : stopKind stop = .hub h j) (hj : j ≠ 14)
    (hmsg : q.opc = 5) (hok : t.msgCheck stop q = .ok) : t.targetServe stop q =
      State.reply { t with ring := { t.ring with msgs := t.ring.msgs ++ [(stop, q.src.toNat, reqBytes q)] } } stop q .ok := by
  have hserve : t.targetServe stop q = t.msgServe stop q := by
    unfold State.targetServe
    split
    next hfwl => cases hkind.symm.trans hfwl; exact absurd rfl hj
    next => rw [if_pos hmsg]
  rw [hserve, State.msgServe, hok]

/-- Settles O42, by what a request that arrives does. -/
theorem requestsAreServed : Obligations.RequestsAreServed := by
  intro s t stop p q hstop harrive
  have hserve {op : Nat} (hop : p.opc.toNat = op) : s.request op stop p = t.targetServe stop q :=
    State.request_of_arrive hop hstop harrive
  have hopc {n : BitVec 3} (h : p.opc = n) : s.request n.toNat stop p = t.targetServe stop q := hserve (congrArg BitVec.toNat h)
  exact ⟨fun h => congrArg Host.Outcome.next (hopc h), fun h => congrArg Host.Outcome.next (hopc h),
    fun h => congrArg Host.Outcome.next (hopc h), fun h => congrArg Host.Outcome.next (hopc h),
    fun h => congrArg Host.Outcome.next (hopc h), fun h => congrArg Host.Outcome.next (hopc h),
    fun d hkind => by rw [exec_mtHostAccess_of_tiles p hkind, hserve rfl],
    fun h j hkind hj hmsg hok => State.targetServe_of_msg hkind hj hmsg hok⟩

end Sys2Proof.Machine
end

section
/-! PROOFS. The die links (spec/06, R358-R385): groups and their replay, training, retraining and resets. -/

namespace Sys2Proof.Machine

open Sys2Proof

/-! ### Groups and their replay (R361-R368, R380) -/

/-- A data group whose LCRC agrees, that is the one expected and no replay drops, is taken and its flit handed on; the sixteenth not
acknowledged would be acknowledged at once (R363, R364). -/
theorem exec_dataGroup_of_expected {s : State} {link : Fin 131} {at1 : Bool} {x : LinkEnd} {group : BitVec 352}
    (hx : s.linkEnd link at1 = x) (hcarries : s.linkCarries link = true) (hdata : group.getLsbD 328 = false) (hwait : x.waiting = false)
    (hcrc : lcrc group = group.extractLsb' 336 16) (hnext : x.expect.getD (bitsOf group 329 7) = bitsOf group 329 7)
    (hdrop : x.toDrop = 0) (hfew : x.unacked < 15) :
    exec (.dataGroup link at1 group) s = .next (((s.setLinkEnd link at1 { x with
      expect := some ((bitsOf group 329 7 + 1) % 128), unacked := x.unacked + 1, toDrop := 0 }).send
        (.linkFlit link at1 (group.extractLsb' 0 328))).slotOff link (!at1) (bitsOf group 329 7) false) := by
  have hack : ¬ 16 ≤ x.unacked + 1 := by omega
  change execDataGroup link at1 group s = _
  simp only [execDataGroup, hx, hcarries, hdata, hwait, hcrc, hnext, hdrop, hack, Bool.not_true, Bool.or_self, Bool.false_eq_true, ne_eq,
    not_true_eq_false, Nat.lt_irrefl, decide_false, Bool.false_and, Nat.zero_sub, if_false]

/-- An ACK on a link that is up frees the groups up to the one it names and ends a row of NAKs (R362). -/
theorem exec_ack_of_up {s : State} {link : Fin 131} {at1 : Bool} (seq : Fin 128) (hup : s.linkUp link = true) :
    exec (.ack link at1 seq) s = .next (s.setLinkEnd link at1 { (s.linkEnd link at1).freed seq with naks := (0, 0) }) :=
  congrArg Host.Outcome.next (if_pos hup)

/-- The first NAK of a SEQ frees as an ACK does and has the groups left sent again (R362, R365). -/
theorem exec_nak_of_first {s : State} {link : Fin 131} {at1 : Bool} {seq : Fin 128} (hup : s.linkUp link = true)
    (hfirst : (s.linkEnd link at1).naks.1 ≠ seq.val) :
    exec (.nak link at1 seq) s =
      .next ((s.setLinkEnd link at1 { (s.linkEnd link at1).freed seq with naks := (seq.val, 1) }).linkReplay link at1) := by
  change execNak link at1 seq s = _
  simp only [execNak, hup, hfirst, show ¬ 4 ≤ 1 by decide, Bool.not_true, Bool.false_eq_true, if_false]

/-- A REPLAY without PEER_RESET on a link that is up ends the wait for it; nothing is dropped (R364, R380). -/
theorem exec_replay_of_up {s : State} {link : Fin 131} {at1 : Bool} (seq : Fin 128) (count : Fin 65) (hup : s.linkUp link = true) :
    exec (.replay link at1 seq count false) s =
      .next ((s.setLinkEnd link at1 { s.linkEnd link at1 with waiting := false, toDrop := 0 }).linkReplayed link) :=
  congrArg Host.Outcome.next (if_pos hup)

/-- The acknowledgement timer of an end that owes an ACK sends it (R363). -/
theorem exec_ackTimer_of_owed {s : State} {link : Fin 131} {at1 : Bool} (hup : s.linkUp link = true)
    (howed : 0 < (s.linkEnd link at1).unacked) : exec (.ackTimer link at1) s = .next (s.linkAck link at1) :=
  congrArg Host.Outcome.next (if_pos (by simp [hup, howed]))

/-- Groups that stay unacknowledged lead to CALIBRATE (R367). -/
theorem exec_ackTimeout_of_unacked {s : State} {link : Fin 131} {at1 : Bool} (hup : s.linkUp link = true)
    (hbuf : (s.linkEnd link at1).buf ≠ []) : exec (.ackTimeout link at1) s = .next (s.linkRetrain link 1) :=
  congrArg Host.Outcome.next (if_pos (by simp [hup, hbuf]))

/-- A link that is not DOWN and loses its strobes goes to DETECT (R368). -/
theorem exec_strobeLoss_of_notDown {s : State} {link : Fin 131} {at1 : Bool} (hlink : linkExists link = true)
    (hdown : s.fld (LNK_STAT_STATE link) ≠ 6) : exec (.strobeLoss link at1) s =
      .next ((s.setLinkEnd link at1 { s.linkEnd link at1 with naks := (0, 0) }).linkRetrain link 0) :=
  congrArg Host.Outcome.next (if_pos (by simp [hlink, hdown]))

/-! ### Training (R369-R375, R383-R385) -/

/-- Strobes seen in DETECT lead to CALIBRATE (R369). -/
theorem exec_strobesSeen_of_detect {s : State} {link : Fin 131} (hlink : linkExists link = true) (hstate : s.fld (LNK_STAT_STATE link) = 0) :
    exec (.strobesSeen link) s = .next (s.setFld (LNK_STAT_STATE link) 1) :=
  congrArg Host.Outcome.next (if_pos (by simp [hlink, hstate]))

/-- A peer of a link other than the X links that stays absent in DETECT takes it DOWN with reason 3 (R369). -/
theorem exec_peerAbsent_of_detect {s : State} {link : Fin 131} (hlink : linkExists link = true) (hstate : s.fld (LNK_STAT_STATE link) = 0)
    (hrow : link.val < 129) : exec (.peerAbsent link) s = .next (s.linkDown link 3) := by
  have h129 : link.val ≠ 129 := by omega
  have h130 : link.val ≠ 130 := by omega
  change execPeerAbsent link s = _
  simp only [execPeerAbsent, hlink, hstate, h129, h130, decide_false, decide_true, Bool.false_and, Bool.or_self, Bool.and_self,
    Bool.false_eq_true, if_false, if_true]

/-- What a link holds besides LNK_STAT reads as it was set. -/
@[simp] theorem State.linkMap_setLinkMap_same (s : State) (n : Nat) (m : LinkMap) : (s.setLinkMap n m).linkMap n = m :=
  mapGet_mapSet_same ..

/-- Writing a field leaves what a link holds besides LNK_STAT. -/
@[simp] theorem State.linkMap_setFld (s : State) (f : Fld) (v n : Nat) : (s.setFld f v).linkMap n = s.linkMap n := rfl

/-- MAP between ends that have a width, a rate and the major revision in common ends in CONFIRM with what they agreed on (R371, R383,
R384). -/
theorem exec_map_of_common {s : State} {link : Fin 131} {offer o : LinkOffer} (at0 at1 : LaneMarks)
    (hstate : s.fld (LNK_STAT_STATE link) = 2) (ho : offerOf link offer = o) (hwidth : topBit (o.widths &&& hubOffer.widths) ≠ 0)
    (hrate : topBit (o.rates &&& hubOffer.rates) ≠ 0) (hmajor : o.major = 2) :
    ∃ t : State, exec (.map link at0 at1 offer) s = .next t ∧ t.fld (LNK_STAT_STATE link) = 3 ∧
      (t.linkMap link).width = topBit (o.widths &&& hubOffer.widths) ∧ (t.linkMap link).repair = o.repair ∧
      (t.linkMap link).feats = o.feats &&& hubOffer.feats ∧ t.mem = s.mem ∧ t.out = s.out := by
  change ∃ t : State, execMap link at0 at1 offer s = _ ∧ _
  simp only [execMap, hstate, ho, hwidth, hrate, hmajor, ne_eq, not_true_eq_false, or_self, if_false]
  exact ⟨_, rfl, State.fld_setFld_same _ _ _ (show 0 + 3 ≤ 32 by decide), by simp, by simp, by simp, rfl, rfl⟩

/-- Where the two ends' hashes agree, the common lanes decide: 64 make the link ACTIVE at the width of MAP, 32 DEGRADED at W32 at most, and
fewer take it DOWN (R372, R373, R375). -/
theorem exec_confirm_of_agree {s : State} {link : Fin 131} {m : LinkMap} {h u : BitVec 68 × BitVec 68} {c : Nat}
    (hstate : s.fld (LNK_STAT_STATE link) = 3) (hm : s.linkMap link = m) (hh : usable m.end0 m.seen0 true = h)
    (hagree : laneHash h = laneHash (usable m.end1 m.seen1 false)) (hu : u = (if m.repair then h else noSpares h))
    (hc : c = min (laneCount u.1) (laneCount u.2)) :
    exec (.confirm link) s = .next (if c < 32 then (s.putLaneMap link h).linkDown link 4
      else if c < 64 then (s.putLaneMap link h).linkInService link 5 (min 2 m.width) 1
        (max (sparesUsed u.1 (widthLanes (min 2 m.width))) (sparesUsed u.2 (widthLanes (min 2 m.width))))
      else (s.putLaneMap link h).linkInService link 4 m.width 0
        (max (sparesUsed u.1 (widthLanes m.width)) (sparesUsed u.2 (widthLanes m.width)))) := by
  change execConfirm link s = _
  simp only [execConfirm, hstate, hm, hh, ← hagree, ← hu, ← hc, ne_eq, not_true_eq_false, if_false]

/-! ### Retraining (R376-R378) -/

/-- A scheduled attempt of a link in DEGRADED that has one left counts and leads to CALIBRATE (R376). -/
theorem exec_retrainAttempt_of_degraded {s : State} {link : Fin 131} (hstate : s.fld (LNK_STAT_STATE link) = 5)
    (hleft : s.fld (LNK_STAT_ATTEMPTS link) < 3) : exec (.retrainAttempt link) s =
      .next ((s.setFld (LNK_STAT_ATTEMPTS link) (s.fld (LNK_STAT_ATTEMPTS link) + 1)).linkRetrain link 1) :=
  congrArg Host.Outcome.next (if_pos (by simp [hstate, hleft]))

/-! ### The links' commands -/

/-- Settles O40, command by command. -/
theorem linkCommandsAct : Obligations.LinkCommandsAct := by
  rintro s link at1 x rfl
  refine ⟨fun _ => exec_dataGroup_of_expected rfl, exec_ack_of_up, fun _ => exec_nak_of_first, exec_replay_of_up, exec_ackTimer_of_owed,
    exec_ackTimeout_of_unacked, exec_strobeLoss_of_notDown, exec_strobesSeen_of_detect, fun _ _ _ h => congrArg Host.Outcome.next (if_pos h),
    fun at0 at1' _ _ => exec_map_of_common at0 at1', fun m h u c hstate hm hh hagree hu hc => ?_, exec_peerAbsent_of_detect,
    exec_retrainAttempt_of_degraded, fun _ hs h hok => congrArg Host.Outcome.next (State.regWrite_of_levelS h hs hok), fun _ => rfl⟩
  rw [exec_confirm_of_agree hstate hm hh hagree hu hc]
  refine ⟨fun hfull => ?_, fun hhalf hless => ?_, fun hfew => ?_⟩
  · rw [if_neg (by omega), if_neg (by omega)]
  · rw [if_neg (by omega), if_pos hless]
  · rw [if_pos hfew]

end Sys2Proof.Machine
end

section
/-! PROOFS. The hub firewall (spec/06, R388-R399; spec/05, R316): requests and completions both ways, and the rate tick. -/

namespace Sys2Proof.Machine

open Sys2Proof

/-! ### From the third-party die (R388-R394) -/

/-- A request with a tag not in use, on a link that is up, is admitted behind the requests held for its window (R389, R392). -/
theorem exec_fwlInboundRequest_of_free {s : State} {hub : Fin 2} {tag : BitVec 13} {x : XReq}
    (hfree : (s.fwall hub).ins.any (fun i => i.tag = tag.toNat && i.x.j = x.j) = false) (hup : s.xLinkUp hub = true) :
    exec (.fwlInboundRequest hub tag x) s =
      .next (s.fwlAdmit hub tag.toNat x (fun w => (s.fwall hub).ins.any fun i => i.held && s.fwlWindow hub i.x = some w)) :=
  congrArg Host.Outcome.next (if_neg (by simp only [hfree, hup]; decide))

/-- A completion with status OK that matches an outstanding request is its reply, and frees its tag for the next request held (R316, R388,
R394). -/
theorem exec_fwlInboundCompletion_of_ok {s : State} {hub : Fin 2} {x : XCpl} {o : FwlOut} (hfence : s.fwlFenced hub = false)
    (ho : (s.fwall hub).outs.find? (fun o => o.xtag = x.tag.toNat) = some o) (hok : x.status = 0) :
    exec (.fwlInboundCompletion hub x) s = .next (State.fwlNext ((s.setFwall hub
      { s.fwall hub with outs := (s.fwall hub).outs.filter (fun k => k ≠ o) }).reply (480 + 16 * hub.val + x.j.toNat)
        { o.pkt with late := o.pkt.late || x.late } .ok (rsnOf x.rsn.toNat) false
        (if o.pkt.opc = 1 ∨ o.pkt.opc = 5 then [] else x.bytes.take (reqLen o.pkt))) hub) := by
  have hcode : ¬ 2 ≤ statusCode .ok := by decide
  change execFwlInboundCompletion hub x s = _
  simp [execFwlInboundCompletion, hfence, ho, hok, hcode]

/-! ### The rate tick (R391) -/

/-- One pass over the keys below `n`, each changed by what it held, changes those and no other. -/
theorem mapGet_foldl_mapSet_range {α : Type} [DecidableEq α] (d : α) (g : Nat → α → α) (m : Map α) (n k : Nat) :
    mapGet ((List.range n).foldl (fun m w => mapSet m d w (g w (mapGet m d w))) m) d k =
      if k < n then g k (mapGet m d k) else mapGet m d k := by
  induction n with
  | zero => rfl
  | succ n ih =>
    rw [List.range_succ, List.foldl_append, List.foldl_cons, List.foldl_nil]
    by_cases hk : k = n
    · subst hk
      rw [mapGet_mapSet_same, ih, if_neg (Nat.lt_irrefl k), if_pos k.lt_succ_self]
    · rw [mapGet_mapSet_ne _ _ _ _ hk, ih]
      simp only [show k < n + 1 ↔ k < n by omega]

/-- What a tick leaves in the bucket of window `w` of a hub, where `old` was in it. -/
def State.refilledBucket (s : State) (hub w old : Nat) : Nat :=
  min (rateOf (s.csr (FWL_WIN_CFG hub w))) (old + rateOf (s.csr (FWL_WIN_CFG hub w)))

/-- A tick refills every window's bucket up to its rate and lets held requests leave. -/
theorem exec_fwlRateTick_refills (s : State) (hub : Fin 2) :
    ∃ b, exec (.fwlRateTick hub) s = .next ((s.setFwall hub { s.fwall hub with buckets := b }).fwlDrain hub
      ((s.fwall hub).ins.filter (fun i => i.held))) ∧
      ∀ w < 64, mapGet b 0 w = s.refilledBucket hub w (mapGet (s.fwall hub).buckets 0 w) :=
  ⟨_, rfl, fun w hw => (mapGet_foldl_mapSet_range 0 (s.refilledBucket hub) _ 64 w).trans (if_pos hw)⟩

/-! ### To the third-party die (R316, R387, R398) -/

/-- A request whose tag is in no use takes it. -/
theorem exec_fwlOutboundRequest_of_free {s t : State} {hub : Fin 2} {xtag : BitVec 13} {p q : ReqPkt}
    (harrive : s.arrive (hubStop hub 14) p = (some q, t)) (hfree : (s.fwall hub).outs.any (fun o => o.xtag = xtag.toNat) = false) :
    exec (.fwlOutboundRequest hub xtag p) s = .next (t.fwlOutbound hub xtag.toNat q) := by
  change execFwlOutboundRequest hub xtag p s = _
  simp only [execFwlOutboundRequest, harrive, hfree, State.fwlTake, Bool.false_eq_true, if_false]

/-- A request whose tag is in use takes the lowest free one. -/
theorem exec_fwlOutboundRequest_of_used {s t : State} {hub : Fin 2} {xtag : BitVec 13} {p q : ReqPkt} {n : Nat}
    (harrive : s.arrive (hubStop hub 14) p = (some q, t)) (hused : (s.fwall hub).outs.any (fun o => o.xtag = xtag.toNat) = true)
    (hn : s.freeXtag hub = some n) : exec (.fwlOutboundRequest hub xtag p) s = .next (t.fwlOutbound hub n q) := by
  change execFwlOutboundRequest hub xtag p s = _
  simp only [execFwlOutboundRequest, harrive, hused, hn, State.fwlTake, if_true]

/-! ### The firewall's commands -/

/-- Settles O31, command by command. -/
theorem firewallCommandsAct : Obligations.FirewallCommandsAct := by
  intro s hub mid value
  exact ⟨fun _ _ => exec_fwlInboundRequest_of_free, exec_fwlRateTick_refills s hub, fun _ _ => exec_fwlInboundCompletion_of_ok,
    fun _ _ _ _ harrive => ⟨exec_fwlOutboundRequest_of_free harrive, fun _ => exec_fwlOutboundRequest_of_used harrive⟩,
    fun hs h => congrArg Host.Outcome.next (levelSWrite_of_levelS h hs),
    fun _ hs h => congrArg Host.Outcome.next (levelSWrite_of_levelS h hs)⟩

end Sys2Proof.Machine
end

section
/-! PROOFS. The DDR5 controllers (spec/07, R433-R459): what a line access stores and what it leaves, the queues of a channel, refresh, idle
rows, CA retries and rank migration. -/

namespace Sys2Proof.Machine

open Sys2Proof

/-! ### Stored lines, the ring network and the fabric under the books of a controller

A controller keeps its books in registers, error reports, the lifetime store and the state of its channels. The proofs `(rfl)` stand in
parentheses so that `simp` rewrites by these laws; taken as definitional, they make the kernel evaluate the register store. -/

/-- What a request of a controller may not change: stacked SRAM, the lines of the CXL devices, the ring network and the fabric. -/
def State.besideDram (s : State) : Map (BitVec 640) × Map CxlLine × RingState × FabState := (s.mem.sram, s.mem.cxl, s.ring, s.fab)

/-- The lines of the DRAM, with what stands beside them. -/
def State.stored (s : State) : Map Burst × Map (BitVec 640) × Map CxlLine × RingState × FabState := (s.mem.dram, s.besideDram)

@[simp] theorem State.stored_setCsr (s : State) (key : Nat) (v : Word) : (s.setCsr key v).stored = s.stored := (rfl)
@[simp] theorem State.stored_setCsr64 (s : State) (key : Nat) (v : DWord) : (s.setCsr64 key v).stored = s.stored := (rfl)
@[simp] theorem State.stored_setFld (s : State) (f : Fld) (n : Nat) : (s.setFld f n).stored = s.stored := (rfl)
@[simp] theorem State.stored_satAdd (s : State) (f : Fld) (n : Nat) : (s.satAdd f n).stored = s.stored := (rfl)
@[simp] theorem State.stored_satInc (s : State) (f : Fld) : (s.satInc f).stored = s.stored := (rfl)
@[simp] theorem State.stored_send (s : State) (o : Out) : (s.send o).stored = s.stored := (rfl)
@[simp] theorem State.stored_free (s : State) : s.free.2.stored = s.stored := (rfl)
@[simp] theorem State.stored_raise (s : State) (f : Fld) (sp block unit regIdx sev : Nat) (addr : DWord) (info : Word) (inj : Bool) :
    (s.raise f sp block unit regIdx sev addr info inj).stored = s.stored := (rfl)
@[simp] theorem State.stored_dropInjected (s : State) (target key : Nat) : (s.dropInjected target key).stored = s.stored := (rfl)
@[simp] theorem State.stored_setDmc (s : State) (ch : Nat) (d : DmcSt) : (s.setDmc ch d).stored = s.stored := (rfl)
@[simp] theorem State.stored_saveMig (s : State) (ch : Nat) (w : Word) : (s.saveMig ch w).stored = s.stored := (rfl)
@[simp] theorem State.stored_setRank (s : State) (ch k st : Nat) : (s.setRank ch k st).stored = s.stored := (rfl)
@[simp] theorem State.stored_dmcErr (s : State) (ch : Nat) (f : Fld) (sev : Nat) (inj : Bool) : (s.dmcErr ch f sev inj).stored = s.stored := (rfl)
@[simp] theorem State.stored_ltsErr (s : State) (f : Fld) (copy phys : Nat) : (s.ltsErr f copy phys).stored = s.stored := (rfl)

@[simp] theorem State.stored_dmcLoc (s : State) (l : LineLoc) (k kind dev : Nat) : (s.dmcLoc l k kind dev).stored = s.stored := by
  simp only [State.dmcLoc]
  split
  · rfl
  · exact s.stored_setCsr64 _ _

/-- A write of a sector of the lifetime store. -/
@[simp] theorem State.stored_ltsPut (s : State) (c lsn : Nat) (gen : Word) (src : LtsData) : (s.ltsPut c lsn gen src).stored = s.stored := by
  unfold State.ltsPut
  split
  · rfl
  · dsimp only
    split
    · split
      · exact State.stored_ltsErr _ _ _ _
      · exact State.stored_ltsErr _ _ _ _
    · rfl

@[simp] theorem State.stored_ltsWrite (s : State) (lsn : Nat) : (s.ltsWrite lsn).stored = s.stored := by
  unfold State.ltsWrite
  split
  · rfl
  · split
    · rfl
    · simp

/-! A migration that begins, waits or ends copies no line. -/

@[simp] theorem State.stored_migBegin (s : State) (ch src tgt : Nat) : (s.migBegin ch src tgt).stored = s.stored := by
  simp [State.migBegin]

@[simp] theorem State.stored_migStart (s : State) (ch src : Nat) : (s.migStart ch src).stored = s.stored := by
  simp only [State.migStart]
  split <;> simp

@[simp] theorem State.stored_migTrigger (s : State) (ch k : Nat) : (s.migTrigger ch k).stored = s.stored := by
  unfold State.migTrigger
  split
  · rfl
  · split
    · dsimp only
      split
      · rfl
      · exact s.stored_setDmc _ _
    · exact s.stored_migStart _ _

@[simp] theorem State.stored_migNext (s : State) (ch : Nat) (ks : List Nat) : (s.migNext ch ks).stored = s.stored := by
  induction ks generalizing s with
  | nil => rfl
  | cons k ks ih =>
    unfold State.migNext
    split
    · exact s.stored_setDmc _ _
    · simp [ih]

@[simp] theorem State.stored_migEnd (s : State) (ch st : Nat) : (s.migEnd ch st).stored = s.stored := by
  simp [State.migEnd]

@[simp] theorem State.stored_migAbort (s : State) (ch : Nat) : (s.migAbort ch).stored = s.stored := by
  simp only [State.migAbort]
  cases (List.range 4).find? _ <;> simp

/-! Page policy, row sampling and CA parity. -/

@[simp] theorem State.stored_serviceRow (s : State) (ch sc k ba : Nat) : (s.serviceRow ch sc k ba).stored = s.stored := by
  simp only [State.serviceRow]
  split <;> simp

@[simp] theorem State.stored_activate (s : State) (k : Nat) (l : LineLoc) : (s.activate k l).stored = s.stored := by
  simp [State.activate]

@[simp] theorem State.stored_bankAccess (s : State) (k : Nat) (l : LineLoc) : (s.bankAccess k l).stored = s.stored := by
  simp only [State.bankAccess, State.stored_setDmc]
  split <;> simp

@[simp] theorem State.stored_caMeet (s : State) (k : Nat) (l : LineLoc) : (s.caMeet k l).2.stored = s.stored := by
  unfold State.caMeet
  split
  next => rfl
  next persist inj rest _ =>
    cases persist with
    | false => simp
    | true => simp

/-- The state in which a command has met the CA errors that waited for it. -/
theorem State.stored_of_caMeet {s s1 : State} {k : Nat} {l : LineLoc} {persisted : Bool} (h : s.caMeet k l = (persisted, s1)) :
    s1.stored = s.stored := by
  rw [← s.stored_caMeet k l, h]

/-! ### What an access of one line stores (R433-R435, R456) -/

/-- From `s` to `t`, no line of the DRAM has changed but the copies of one in the ranks of its channel, and nothing beside the DRAM. -/
def StoresOnly (l : LineLoc) (s t : State) : Prop :=
  t.besideDram = s.besideDram ∧ ∀ key, (∀ k < 4, key ≠ dramKey k l) → t.dramAt key = s.dramAt key

section

variable {s t u : State} {l : LineLoc} {k : Nat}

theorem StoresOnly.trans (h : StoresOnly l s t) (g : StoresOnly l t u) : StoresOnly l s u :=
  ⟨g.1.trans h.1, fun key hkey => (g.2 key hkey).trans (h.2 key hkey)⟩

/-- Where nothing is stored, all the more. -/
theorem StoresOnly.of_stored (h : t.stored = s.stored) : StoresOnly l s t := by
  obtain ⟨hdram, hbeside⟩ := Prod.mk.inj h
  exact ⟨hbeside, fun key _ => by rw [State.dramAt, hdram]; rfl⟩

theorem State.setDram_storesOnly (s : State) (hk : k < 4) (b : Burst) : StoresOnly l s (s.setDram (dramKey k l) b) :=
  ⟨rfl, fun _ hkey => s.dramAt_setDram_ne b (hkey k hk)⟩

/-- A rank that serves a logical rank is one of the four of its channel. -/
theorem State.physRank_lt {ch r : Nat} (h : s.physRank ch r = some k) : k < 4 :=
  List.mem_range.1 (List.mem_of_find?_eq_some h)

/-- So is the target of a migration. -/
theorem State.migTarget_lt {ch tgt : Nat} (h : s.migTarget ch k = some tgt) : tgt < 4 := by
  unfold State.migTarget at h
  split at h
  · rw [← Option.some.inj h]
    exact Nat.mod_lt _ (Nat.two_pow_pos _)
  · nomatch h

/-- Reading a rank stores at most the line as corrected, or its poison (R433). -/
theorem State.rankRead_storesOnly (s : State) (hk : k < 4) (code : LineCode) : StoresOnly l s (s.rankRead k l code).2.2 := by
  simp only [State.rankRead]
  split
  case h_1 => exact .of_stored rfl -- clean
  case h_2 => -- corrected: stored again where the policy says so
    split
    · exact .trans (.of_stored (by simp)) (State.setDram_storesOnly _ hk _)
    · exact .of_stored (by simp)
  case h_3 => exact .of_stored (by simp) -- poisoned
  case h_4 => -- uncorrectable
    exact .trans (.trans (.of_stored (by simp)) (State.setDram_storesOnly _ hk _)) (.of_stored (State.stored_migTrigger _ _ _))

/-- An access of the bank and a read of the rank. -/
theorem State.rankRead_bankAccess_storesOnly (s : State) (hk : k < 4) (code : LineCode) :
    StoresOnly l s ((s.bankAccess k l).rankRead k l code).2.2 :=
  .trans (.of_stored (s.stored_bankAccess k l)) (State.rankRead_storesOnly _ hk code)

theorem State.serveRead_storesOnly (s : State) (hk : k < 4) (code : LineCode) : StoresOnly l s (s.serveRead k l code).2.2 := by
  have hread := s.rankRead_bankAccess_storesOnly (l := l) hk code
  simp only [State.serveRead]
  split
  next tgt _ htgt => -- uncorrectable, with a migration running
    split
    · exact hread.trans (State.rankRead_bankAccess_storesOnly _ (State.migTarget_lt htgt) code)
    · exact hread
  · exact hread

theorem State.rankWrite_storesOnly (s : State) (hk : k < 4) (b : Burst) : StoresOnly l s (s.rankWrite k l b).2 := by
  unfold State.rankWrite
  split
  next s1 hca => exact .of_stored (State.stored_of_caMeet hca)
  next s1 hca =>
    exact .trans (.of_stored ((s1.stored_bankAccess k l).trans (State.stored_of_caMeet hca))) (State.setDram_storesOnly _ hk b)

/-- A line is stored in the rank in service and in the target of its migration. -/
theorem State.putLine_storesOnly (s : State) (hk : k < 4) (b : Burst) : StoresOnly l s (s.putLine k l b).2 := by
  have hput := s.rankWrite_storesOnly (l := l) hk b
  simp only [State.putLine]
  split
  · exact hput
  next tgt htgt =>
    have hcopy := hput.trans ((s.rankWrite k l b).2.rankWrite_storesOnly (State.migTarget_lt htgt) b)
    split
    next s2 hw =>
      rw [hw] at hcopy
      exact hcopy
    next s2 hw =>
      rw [hw] at hcopy
      exact hcopy.trans (.of_stored (s2.stored_migAbort _))

/-- A read of a line that exists, whether or not its channel serves it. -/
theorem State.readNow_storesOnly {h a : Nat} (code : LineCode) (hl : s.locate h a = some l) : StoresOnly l s (s.readNow h a code).2 := by
  simp only [State.readNow, hl]
  split
  · exact .of_stored rfl
  · split
    · exact .of_stored rfl
    next k hk =>
      split
      next s1 hca => exact .of_stored (s1.stored_free.trans (State.stored_of_caMeet hca))
      next s1 hca => exact .trans (.of_stored (State.stored_of_caMeet hca)) (s1.serveRead_storesOnly (State.physRank_lt hk) code)

/-- A write of a line that exists: a whole one stores, a partial one reads first (R434, R435). -/
theorem State.writeNow_storesOnly {h : Nat} {w : LineWrite} (hl : s.locate h w.addr.toNat = some l) :
    StoresOnly l s (s.writeNow h w).2 := by
  simp only [State.writeNow, hl]
  generalize (if w.light = true then LineCode.light else LineCode.strong) = code
  split
  · exact .of_stored rfl
  · split
    · exact .of_stored rfl
    next k hrank =>
      have hk := State.physRank_lt hrank
      split
      · exact s.putLine_storesOnly hk _
      · split
        next s1 hca => exact .of_stored (State.stored_of_caMeet hca)
        next s1 hca =>
          have hread := StoresOnly.trans (.of_stored (State.stored_of_caMeet hca)) (s1.serveRead_storesOnly (l := l) hk code)
          split
          · exact hread.trans (State.putLine_storesOnly _ hk _)
          · split
            · exact hread.trans (State.putLine_storesOnly _ hk _)
            · exact hread

/-- A read whose address names no line changes nothing. -/
theorem State.readNow_of_noLine {h a : Nat} (code : LineCode) (hl : s.locate h a = none) : (s.readNow h a code).2 = s := by
  simp only [State.readNow, hl]

/-- Nor does such a write. -/
theorem State.writeNow_of_noLine {h : Nat} {w : LineWrite} (hl : s.locate h w.addr.toNat = none) : (s.writeNow h w).2 = s := by
  simp only [State.writeNow, hl]

/-- What a served request leaves, where a write it carries is to the request's own address, as every command builds it: all that is stored
where the address names no line, else all but that line. -/
theorem State.serveReq_frame (s : State) (h : Nat) {r : DmcReq} (hown : ∀ w, r.write = some w → w.addr = r.addr) :
    (s.locate h r.addr.toNat = none → (s.serveReq h r).stored = s.stored) ∧
      ∀ l, s.locate h r.addr.toNat = some l → StoresOnly l s (s.serveReq h r) := by
  unfold State.serveReq
  cases hw : r.write with
  | none =>
    exact ⟨fun hl => (State.stored_send _ _).trans (congrArg State.stored (State.readNow_of_noLine _ hl)),
      fun l hl => (State.readNow_storesOnly _ hl).trans (.of_stored (State.stored_send _ _))⟩
  | some w =>
    rw [← hown w hw]
    exact ⟨fun hl => (State.stored_send _ _).trans (congrArg State.stored (State.writeNow_of_noLine hl)),
      fun l hl => (State.writeNow_storesOnly hl).trans (.of_stored (State.stored_send _ _))⟩

end

/-! ### A request that carries a write to another address than its own -/

/-- A device out of reset with 1 GiB of DRAM READY behind channel 0 of H0, in rank 0. -/
def oneRank : State :=
  ((State.reset.setFld (DMC_STAT_STATE 0 0) 2).setFld (DMC_STAT_CAP_GIB 0 0) 1).setFld (DMC_RANK_STATE 0 0 0) 1

/-- A request for an address that names no line there, with a write of line 0. -/
def strayWrite : DmcReq := ⟨0x7FFFFFFC0, some ⟨0, 0xFFFFFFFFFFFFFFFF, 5, 0, 0, false⟩, false, .p, 0⟩

/-- Refutes O51: the statement lets a request carry a write to another address than its own. The controller then stores what the write
addresses, although the request's address names no line. For the requests that the commands build, `State.serveReq_frame` says what holds. -/
theorem not_dramLineFrame : ¬ Obligations.DramLineFrame := by
  intro h
  have hframe := ((h oneRank 0).2 strayWrite _ rfl).1
  have hnone : oneRank.locate (0 : Fin 2) strayWrite.addr.toNat = none := by decide +kernel
  have hstored : (oneRank.serveReq (0 : Fin 2) strayWrite).mem.dram ≠ oneRank.mem.dram := by decide +kernel
  exact hstored (hframe hnone)

end Sys2Proof.Machine
end

section
/-! PROOFS. The commands of the DDR5 controllers (spec/07, R433-R459) and of the CXL ports (spec/07, R466-R486). -/

namespace Sys2Proof.Machine

open Sys2Proof

/-! ### Requests that reach a channel (R433-R439) -/

/-- A read of no place is answered at once. -/
theorem exec_dmcLineRead_of_noPlace {s u : State} {hub : Fin 2} {addr : BitVec 48} (light : Bool) {flips : BitVec 640} (cls : TClass)
    (now slots : Nat) (hu : u = s.flipDram hub addr.toNat flips) (hp : u.dmcPlace hub addr.toNat = none) :
    exec (.dmcLineRead hub addr light flips cls now slots) s =
      .next (answerLine hub addr.toNat (u.readNow hub addr.toNat (if light then .light else .strong))) := by
  subst hu
  change execDmcLineRead hub addr light flips cls now slots s = _
  simp only [execDmcLineRead, hp]

/-- A read that the write queue holds is answered before the command slots pass. -/
theorem exec_dmcLineRead_of_held {s u v : State} {hub : Fin 2} {addr : BitVec 48} (light : Bool) {flips : BitVec 640} (cls : TClass)
    {now : Nat} (slots : Nat) {l : LineLoc} {r : LineRes} (hu : u = s.flipDram hub addr.toNat flips) (hp : u.dmcPlace hub addr.toNat = some l)
    (hq : (u.dmcClock l.ch now).readQueued l (addr.toNat / 64) = (some r, v)) :
    exec (.dmcLineRead hub addr light flips cls now slots) s = .next ((answerLine hub addr.toNat (r, v)).dmcSlots l.ch l.sc slots) := by
  subst hu
  change execDmcLineRead hub addr light flips cls now slots s = _
  simp only [execDmcLineRead, hp, hq]

/-- Any other joins the queue. -/
theorem exec_dmcLineRead_of_notHeld {s u v : State} {hub : Fin 2} {addr : BitVec 48} (light : Bool) {flips : BitVec 640} (cls : TClass)
    {now : Nat} (slots : Nat) {l : LineLoc} (hu : u = s.flipDram hub addr.toNat flips) (hp : u.dmcPlace hub addr.toNat = some l)
    (hq : (u.dmcClock l.ch now).readQueued l (addr.toNat / 64) = (none, v)) :
    exec (.dmcLineRead hub addr light flips cls now slots) s = .next (v.dmcArrive l ⟨addr, none, light, cls, now⟩ slots) := by
  subst hu
  change execDmcLineRead hub addr light flips cls now slots s = _
  simp only [execDmcLineRead, hp, hq]

/-- The command of a write by its mask, DMC_LINE_WRITE for a whole line, stores it. -/
theorem exec_lineWrite (s : State) (hub : Fin 2) (w : LineWrite) (now slots : Nat) :
    exec (if w.mask = 0xFFFFFFFFFFFFFFFF#64 then .dmcLineWrite hub w now slots else .readModifyWrite hub w now slots) s =
      .next (s.dmcStore hub w now slots) := by
  split
  next hmask => exact congrArg Host.Outcome.next (if_pos hmask)
  next hmask => exact congrArg Host.Outcome.next (if_neg hmask)

/-- A write of no place is answered at once. -/
theorem State.dmcStore_of_noPlace {s : State} {h : Nat} {w : LineWrite} (now slots : Nat) (hp : s.dmcPlace h w.addr.toNat = none) :
    s.dmcStore h w now slots = answerStored h w.addr.toNat (s.writeNow h w) := by
  simp only [State.dmcStore, hp]

/-- Any other joins the queue of its sub-channel. -/
theorem State.dmcStore_of_place {s : State} {h : Nat} {w : LineWrite} (now slots : Nat) {l : LineLoc}
    (hp : s.dmcPlace h w.addr.toNat = some l) :
    s.dmcStore h w now slots = (s.dmcClock l.ch now).dmcArrive l ⟨w.addr, some w, w.light, .p, now⟩ slots := by
  simp only [State.dmcStore, hp]

/-! ### Refresh and idle rows (R444-R446) -/

/-- One pass over distinct keys, each changed by what it held, changes those and no other. -/
theorem mapGet_foldl_mapSet {α : Type} [DecidableEq α] (d : α) (g : α → α) {keys : List Nat} (hkeys : keys.Nodup) (m : Map α) (k : Nat) :
    mapGet (keys.foldl (fun m w => mapSet m d w (g (mapGet m d w))) m) d k = if k ∈ keys then g (mapGet m d k) else mapGet m d k := by
  induction keys generalizing m with
  | nil => rfl
  | cons w ws ih =>
    obtain ⟨hw, hws⟩ := List.nodup_cons.1 hkeys
    rw [List.foldl_cons, ih hws]
    by_cases hk : k = w
    · subst hk
      rw [if_neg hw, if_pos List.mem_cons_self, mapGet_mapSet_same]
    · simp only [mapGet_mapSet_ne _ _ _ _ hk, List.mem_cons, hk, false_or]

/-- In a channel that is READY, a passed tREFI makes the refresh of every bank index of a live rank due once more, and no register but the
one that shows urgency changes (R445). -/
theorem exec_refreshInterval_of_ready {s : State} {ch : Fin 4} (hready : s.dmcReady ch = true) :
    ∃ u : State, exec (.refreshInterval ch) s = .next (u.showUrgent ch) ∧ u.regs = s.regs ∧
      ∀ k < 32, k % 4 < 2 ^ s.baBits ch → s.rankLive ch (k / 4 % 4) = true → mapGet (u.dmc ch).due 0 k = mapGet (s.dmc ch).due 0 k + 1 := by
  refine ⟨_, congrArg Host.Outcome.next (if_pos hready), rfl, fun k hk hba hlive => ?_⟩
  have hmem : k ∈ (List.range 32).filter fun k => k % 4 < 2 ^ s.baBits ch && s.rankLive ch (k / 4 % 4) := by
    simp [hk, hba, hlive]
  rw [State.dmc_setDmc_same]
  exact (mapGet_foldl_mapSet 0 (· + 1) (List.nodup_range.filter _) _ k).trans (if_pos hmem)

/-- Issuing a refresh sends it, and stores no line. -/
theorem State.issueRefsb_sends (s : State) (ch sc rank ba : Nat) :
    ∃ u : State, s.issueRefsb ch sc rank ba = u.send (.refresh ch sc rank ba .refsb) ∧ u.mem.dram = s.mem.dram :=
  ⟨_, rfl, rfl⟩

/-- A refresh that is due, in a channel that is READY, whose bank index has neither an open row nor a queued request, is issued (R446). -/
theorem exec_refsb_of_quiet {s : State} {ch : Fin 4} {sc : Fin 2} {rank ba : Fin 4}
    (hdue : mapGet (s.dmc ch).due 0 (indexKey sc rank ba) ≠ 0) (hready : s.dmcReady ch = true) (hqueue : s.queuedAt ch sc rank ba = false)
    (hopen : ((s.dmc ch).banks.any fun kv => bankOfIndex sc rank ba kv.1 && kv.2.row.isSome) = false) :
    exec (.refsb ch sc rank ba) s = .next (s.issueRefsb ch sc rank ba) := by
  change execRefsb ch sc rank ba s = _
  simp only [execRefsb, hdue, hready, hqueue, hopen, decide_false, Bool.or_self, Bool.false_and, Bool.not_true, Bool.false_eq_true, if_false]

/-- MR4 of a channel that is READY shows the rate. -/
theorem exec_mr4Read_of_ready {s : State} {ch : Fin 4} (double : Bool) (hready : s.dmcReady ch = true) :
    exec (.mr4Read ch double) s = .next (s.setDmc ch { s.dmc ch with double := double }) :=
  congrArg Host.Outcome.next (if_pos hready)

/-- An open row that is idle closes. -/
theorem exec_rowIdleClose_of_open {s : State} {ch : Fin 4} {sc : Fin 2} {rank : Fin 4} {bank : Fin 32} {b : BankSt}
    (hb : mapGet (s.dmc ch).banks BankSt.init ((sc.val * 4 + rank.val) * 32 + bank.val) = b) (hopen : b.row ≠ none) :
    exec (.rowIdleClose ch sc rank bank) s = .next (s.setDmc ch { s.dmc ch with
      banks := mapSet (s.dmc ch).banks BankSt.init ((sc.val * 4 + rank.val) * 32 + bank.val) { b with row := none } }) := by
  subst hb
  exact congrArg Host.Outcome.next (if_neg hopen)

/-! ### CA retries (R450, R451) and migration (R452-R455) -/

/-- A CA error awaits the next command of its rank. -/
theorem exec_caRetry_next {s : State} {ch : Fin 4} (rank : Fin 4) (persist : Bool) (hready : s.dmcReady ch = true) :
    exec (.caRetry ch rank persist .next) s = .next (s.setDmc ch { s.dmc ch with ca := (rank.val, persist, false) :: (s.dmc ch).ca }) := by
  change execCaRetry ch rank persist .next s = _
  simp [execCaRetry, hready]

/-- A write to the rank that is named with the error is carried out with it. -/
theorem exec_caRetry_write {s : State} {ch rank : Fin 4} (persist : Bool) {w : LineWrite} {l : LineLoc} (hready : s.dmcReady ch = true)
    (hl : s.locate (ch.val / 2) w.addr.toNat = some l) (hch : l.ch = ch.val) (hrank : s.physRank ch l.rank = some rank.val) :
    exec (.caRetry ch rank persist (.write w)) s = .next (answerStored (ch.val / 2) w.addr.toNat
      (State.writeNow (s.setDmc ch { s.dmc ch with ca := (rank.val, persist, false) :: (s.dmc ch).ca }) (ch.val / 2) w)) := by
  change execCaRetry ch rank persist (.write w) s = _
  simp [execCaRetry, hready, hl, hch, hrank]

/-- A line of a running migration is copied. -/
theorem exec_migrationLineCopy_of_active {s : State} {ch : Fin 4} (flips : BitVec 640)
    (hactive : s.bit (DMC_STAT_MIG_ACTIVE (ch.val / 2) (ch.val % 2)) = true) (hready : s.dmcReady ch = true) :
    exec (.migrationLineCopy ch flips) s = .next (s.migCopy ch flips) :=
  congrArg Host.Outcome.next (if_pos (by rw [hactive, hready]; rfl))

/-- Settles O28, command by command. -/
theorem memoryControllerCommandsAct : Obligations.MemoryControllerCommandsAct := by
  intro s hub ch sc rank ba bank now slots
  refine ⟨fun addr light flips cls u hu => ⟨exec_dmcLineRead_of_noPlace light cls now slots hu,
      fun l v hp => ⟨fun r => exec_dmcLineRead_of_held light cls slots hu hp, exec_dmcLineRead_of_notHeld light cls slots hu hp⟩⟩,
    ?lineWrites, rfl, exec_refreshInterval_of_ready, ?refsb, fun double => exec_mr4Read_of_ready double, fun _ => exec_rowIdleClose_of_open,
    ?caRetry, fun _ _ hs h => congrArg Host.Outcome.next (levelSWrite_of_levelS h hs), fun flips => exec_migrationLineCopy_of_active flips⟩
  case lineWrites =>
    rintro w _ rfl
    rw [exec_lineWrite]
    exact ⟨fun hp => congrArg Host.Outcome.next (State.dmcStore_of_noPlace now slots hp),
      fun l hp => congrArg Host.Outcome.next (State.dmcStore_of_place now slots hp)⟩
  case refsb =>
    intro hdue hready hqueue hopen
    rw [exec_refsb_of_quiet hdue hready hqueue hopen]
    obtain ⟨u, hsend, hdram⟩ := s.issueRefsb_sends ch sc rank ba
    exact ⟨u, congrArg Host.Outcome.next hsend, hdram⟩
  case caRetry =>
    rintro persist _ hready rfl
    exact ⟨exec_caRetry_next rank persist hready, fun _ _ => exec_caRetry_write persist hready⟩

/-! ### CXL ports (R466-R474, R486) -/

/-- A read with a free tag on a port that carries its address is sent without data and is outstanding. -/
theorem exec_cxlRequest_read {s : State} {hub : Fin 2} {tag : BitVec 16} {w : LineWrite} {x : Nat × Nat} (hx : s.cxlRoute hub w.addr.toNat = x)
    (hfree : (s.cxlOuts x.1).any (fun o => o.tag = tag.toNat) = false) (hcarries : s.cxlCarries x = true) :
    exec (.cxlRequest hub tag true w) s =
      .next ((s.setCxlOuts x.1 (s.cxlOuts x.1 ++ [⟨tag.toNat, w.addr.toNat⟩])).send (.cxl x.1 tag.toNat true x.2 0 0 false)) := by
  subst hx
  change execCxlRequest hub tag true w s = _
  simp [execCxlRequest, hfree, hcarries]

/-- A write likewise, with its data and its poison. -/
theorem exec_cxlRequest_write {s : State} {hub : Fin 2} {tag : BitVec 16} {w : LineWrite} {x : Nat × Nat} (hx : s.cxlRoute hub w.addr.toNat = x)
    (hfree : (s.cxlOuts x.1).any (fun o => o.tag = tag.toNat) = false) (hcarries : s.cxlCarries x = true) :
    exec (.cxlRequest hub tag false w) s = .next ((s.setCxlOuts x.1 (s.cxlOuts x.1 ++ [⟨tag.toNat, w.addr.toNat⟩])).send
      (.cxl x.1 tag.toNat false x.2 w.mask w.data (decide (w.poison ≠ 0)))) := by
  subst hx
  change execCxlRequest hub tag false w s = _
  simp [execCxlRequest, hfree, hcarries]

/-- The response of an outstanding tag answers its line, with POISON and its count where it is poisoned (R469). -/
theorem exec_drs_of_outstanding {s : State} {port : Fin 4} {tag : BitVec 16} {o : CxlOut} (poison : Bool) (data : Line)
    (ho : (s.cxlOuts port).find? (fun o => o.tag = tag.toNat) = some o) :
    exec (.drs port tag poison data) s =
      .next ((if poison then (s.setCxlOuts port ((s.cxlOuts port).filter (· ≠ o))).cxlPoison port
        else s.setCxlOuts port ((s.cxlOuts port).filter (· ≠ o))).send
          (.line (port.val / 2) o.addr (if poison then .poison else .ok) (if poison then .memUe else .none) data 0)) := by
  change execDrs port tag poison data s = _
  simp only [execDrs, ho]

/-- A link in use that goes down is fenced, and the loss is reported (R473). -/
theorem exec_cxlLinkDown_lost {s : State} {port : Fin 4} (hup : s.cxlPhys port = 2) :
    exec (.cxlLinkDown port false) s = .next (((s.cxlFence port).setCxlPhys port 0).cxlErr port
      (CXL_ERR_LINK_DOWN (port.val / 2) (port.val % 2)) sevUncorrected) :=
  congrArg Host.Outcome.next (if_neg (not_not_intro hup))

/-- One whose IDE fails is fenced, and the failure is shown and reported. -/
theorem exec_cxlLinkDown_ide {s : State} {port : Fin 4} (hup : s.cxlPhys port = 2) :
    exec (.cxlLinkDown port true) s = .next (((s.cxlFence port).setFld (CXL_STAT_IDE (port.val / 2) (port.val % 2)) 2).cxlErr port
      (CXL_ERR_IDE_FAIL (port.val / 2) (port.val % 2)) sevUncorrected) :=
  congrArg Host.Outcome.next (if_neg (not_not_intro hup))

/-- CXL_EN with a value that Level S writes where the register answers: the write applies, then the end of the training (R486). -/
theorem exec_cxlEn_of_levelS {s : State} {mid : BitVec 12} {port : Fin 4} (value : Word) (t : CxlTrain) (hs : s.levelS mid.toNat = true)
    (h : s.regReached (CXL_CTL (port.val / 2) (port.val % 2)) = true) :
    exec (.cxlEn mid port (some value) t) s =
      .next (((s.cxlCtlWrite port value).send (.wrote (CXL_CTL (port.val / 2) (port.val % 2)) .ok)).cxlTrained port t) := by
  change execCxlEn mid port (some value) t s = _
  simp only [execCxlEn, levelSWrite_of_levelS h hs, hs, h, Bool.and_self, if_true]

/-- Settles O29, command by command. -/
theorem cxlCommandsAct : Obligations.CxlCommandsAct := by
  intro s hub port tag mid value t
  exact ⟨fun w x hx hfree hcarries => ⟨exec_cxlRequest_read hx hfree hcarries, exec_cxlRequest_write hx hfree hcarries⟩,
    fun o data ho => ⟨exec_drs_of_outstanding false data ho, exec_drs_of_outstanding true data ho⟩,
    fun hup => ⟨exec_cxlLinkDown_lost hup, exec_cxlLinkDown_ide hup⟩, rfl,
    fun hs h => ⟨exec_cxlEn_of_levelS value t hs h, congrArg Host.Outcome.next (levelSWrite_of_levelS h hs)⟩⟩

end Sys2Proof.Machine
end

section
/-! PROOFS. The commands of the memory protection engine (spec/08, R500-R559): its register writes, and the ends of what they begin. -/

namespace Sys2Proof.Machine

open Sys2Proof

/-! ### Writes of the engine's registers -/

/-- A command that is a Level S write of a register that answers has the write's effect and completes OK. -/
theorem next_levelSWrite_of_levelS {s : State} {mid : BitVec 12} {key : Nat} {f : State → State} (h : s.regReached key = true)
    (hs : s.levelS mid.toNat = true) :
    (Host.Outcome.next (levelSWrite s mid key f) : Host.Outcome State Fault Refusal) = .next ((f s).send (.wrote key .ok)) :=
  congrArg Host.Outcome.next (levelSWrite_of_levelS h hs)

/-! ### Enabling and disabling a region (R502, R504) -/

/-- The end of an initialisation: the region's root is 0, none of its nodes is cached and no line of DRAM has changed when MPE_RGN_STAT
clears, EN sets and INIT_BUSY clears. -/
theorem exec_initBusy_of_busy {s : State} {hub : Fin 2} {region : Fin 16} (hbusy : s.bit (MPE_RGN_CFG_INIT_BUSY hub region) = true) :
    ∃ u : State, exec (.initBusy hub region) s =
      .next (((u.setCsr (MPE_RGN_STAT hub region) 0).setFld (MPE_RGN_CFG_EN hub region) 1).setFld (MPE_RGN_CFG_INIT_BUSY hub region) 0) ∧
      u.mem.dram = s.mem.dram ∧ u.mpe hub = { s.mpe hub with
        roots := mapSet (s.mpe hub).roots 0 region 0, cache := (s.mpe hub).cache.filter fun e => e.region ≠ region.val } :=
  ⟨_, congrArg Host.Outcome.next (if_neg (by simp [hbusy])), rfl, mapGet_mapSet_same _ _ _ _⟩

/-- The end of a disabling: what is held of the region is written back and dropped, then EN and DISABLING clear. -/
theorem exec_regionDisabled_of_disabling {s : State} {hub : Fin 2} {region : Fin 16}
    (hdis : s.bit (MPE_RGN_CFG_DISABLING hub region) = true) :
    exec (.regionDisabled hub region) s =
      .next (((((s.wcbFlush hub fun e => e.region = region.val).flushCache hub fun e => e.region = region.val).cacheDrop hub
        fun e => e.region = region.val).setFld (MPE_RGN_CFG_EN hub region) 0).setFld (MPE_RGN_CFG_DISABLING hub region) 0) :=
  congrArg Host.Outcome.next (if_neg (by simp [hdis]))

/-! ### Reseal, rekey, write-combining hold and fence (R531, R543, R548, R559) -/

/-- The reseal in progress is taken off the engine and run. -/
theorem exec_resealDone_of_running {s : State} {hub : Fin 2} {r base log : Nat} (hrun : (s.mpe hub).reseal = some (r, base, log)) :
    exec (.resealDone hub) s = .next ((s.setMpe hub { s.mpe hub with reseal := none }).resealRun hub r base log) := by
  change execResealDone hub s = _
  simp only [execResealDone, hrun]

/-- A rekey that runs on an engine that is not quiesced works on its granule. -/
theorem exec_rekeyGranule_of_running {s : State} {hub : Fin 2} {upto : Fin 65} (hrun : s.fld (MPE_RKEY_STAT_STATE hub) = 1)
    (hawake : s.bit (MPE_STAT_QUIESCED hub) = false) : exec (.rekeyGranule hub upto) s = .next (s.rekeyGranule hub upto) :=
  congrArg Host.Outcome.next (if_pos (by simp [hrun, hawake]))

/-- The oldest entry of the write-combining buffer is written to memory. -/
theorem exec_wcbHoldExpiry_of_oldest {s : State} {hub : Fin 2} {e : WcbEnt} {rest : List WcbEnt} (hwcb : (s.mpe hub).wcb = e :: rest) :
    exec (.wcbHoldExpiry hub) s = .next ((s.wcbWrite hub e).trim hub (((s.wcbWrite hub e).mpe hub).cache.length + 8)) := by
  change execWcbHoldExpiry hub s = _
  simp only [execWcbHoldExpiry, hwcb]

/-- A fence that is not DONE and waits for no request any more becomes DONE. -/
theorem exec_mpeFenceDone_of_met {s : State} {hub : Fin 2} (hopen : s.bit (MPE_FENCE_DONE hub) = false) (hmet : s.fenceMet hub = true) :
    exec (.mpeFenceDone hub) s = .next ((s.setFld (MPE_FENCE_DONE hub) 1).setMpe hub { s.mpe hub with fence := [] }) :=
  congrArg Host.Outcome.next (if_pos (by simp [hopen, hmet]))

/-! ### The tree scrub (R523) -/

/-- The scrub takes the first node `x` after the one it last checked. A node that its parent does not call LOST and that reads as 0 has no
MAC to check: the scrub only reads it. -/
theorem exec_treeScrub_of_zero {s v t : State} {hub : Fin 2} {upsets : List Nat} {x : Nat} {p : Line} {y : LineRes × State}
    (hv : v = s.upsetCache hub upsets) (hon : v.bit (MPE_CTL_TSCRUB_EN hub) = true)
    (hpick : (v.scrubList hub).find? (fun x => (v.mpe hub).scrub < x) = some x)
    (hparent : (v.setMpe hub { v.mpe hub with scrub := x }).getNode hub (x / 2 ^ 24) (4 - x / 2 ^ 20 % 16) (x % 2 ^ 20 / 32) = (.node p, t))
    (hkept : nodeMinor p (x % 2 ^ 20 % 32) ≠ lostMark)
    (hread : t.sramRead hub (t.nodeLine hub (x / 2 ^ 24) (x / 2 ^ 20 % 16) (x % 2 ^ 20)) = y) (hok : y.1.status = .ok) (hzero : y.1.data = 0) :
    exec (.treeScrub hub upsets) s = .next y.2 := by
  subst hv
  change execTreeScrub hub upsets s = _
  simp only [execTreeScrub, hon, Bool.not_true, Bool.false_eq_true, if_false, hpick, hparent, NodeRes.elimNode, hkept, hread, hok, hzero,
    true_or, and_self, if_true]

/-- Settles O30, command by command. -/
theorem protectionEngineCommandsAct : Obligations.ProtectionEngineCommandsAct := by
  intro s hub region mid value
  refine ⟨fun hs => ?registerWrites, fun hbusy => ?initBusy, exec_regionDisabled_of_disabling,
    fun _ _ _ => exec_resealDone_of_running, fun _ => exec_rekeyGranule_of_running, fun _ _ => exec_wcbHoldExpiry_of_oldest,
    fun _ _ _ _ _ hv hon hpick hparent hkept => exec_treeScrub_of_zero hv hon hpick hparent hkept rfl, exec_mpeFenceDone_of_met⟩
  case registerWrites =>
    exact ⟨fun h => ⟨next_levelSWrite_of_levelS h hs, next_levelSWrite_of_levelS h hs⟩,
      fun h => ⟨next_levelSWrite_of_levelS h hs, next_levelSWrite_of_levelS h hs⟩, fun h => next_levelSWrite_of_levelS h hs,
      fun h => next_levelSWrite_of_levelS h hs, fun h => next_levelSWrite_of_levelS h hs⟩
  case initBusy =>
    obtain ⟨u, hexec, hdram, hmpe⟩ := exec_initBusy_of_busy hbusy
    refine ⟨u, hexec, hdram, ?_, ?_⟩
    · rw [hmpe, mapGet_mapSet_same]
    · simp [hmpe]

end Sys2Proof.Machine
end

section
/-! PROOFS. The time base (spec/09, R599-R608): ticks of the master and of its followers, sync pulses, and the writes that adjust it. -/

namespace Sys2Proof.Machine

open Sys2Proof

/-! ### Followers read back -/

@[simp] theorem State.follower_setFollower_same (s : State) (sp : Nat) (f : Follower) : (s.setFollower sp f).follower sp = f :=
  mapGet_mapSet_same _ _ _ _

theorem State.follower_setFollower_ne (s : State) {sp d : Nat} (f : Follower) (h : d ≠ sp) : (s.setFollower sp f).follower d = s.follower d :=
  mapGet_mapSet_ne _ _ _ _ h

/-! ### What the shared operations of the time base leave -/

/-- BUSY and SLEWING are registers: showing them leaves what the time base holds besides. -/
@[simp] theorem State.tbShow_tb (s : State) : s.tbShow.tb = s.tb := rfl

/-- Sending time over an X link sends at most one message. -/
theorem State.xSync_sends (s : State) (h : Nat) : s.xSync h = s ∨ s.xSync h = s.send (.xTime h s.tb.time) := by
  unfold State.xSync
  split
  · exact .inr rfl
  · exact .inl rfl

@[simp] theorem State.xSync_tb (s : State) (h : Nat) : (s.xSync h).tb = s.tb := by
  obtain e | e := s.xSync_sends h <;> rw [e]
  exact s.send_tb _

@[simp] theorem State.xSync_regs (s : State) (h : Nat) : (s.xSync h).regs = s.regs := by
  obtain e | e := s.xSync_sends h <;> rw [e]
  exact s.send_regs _

/-- Followers are part of what the time base holds. -/
theorem State.follower_of_tb {s t : State} (h : t.tb = s.tb) (sp : Nat) : t.follower sp = s.follower sp := by
  simp only [State.follower, h]

/-! ### Ticks (R599, R603, R606) -/

/-- From SP2 on a tick moves the master's time, uses up a pending step and takes its part of the slew. -/
theorem exec_tbTick_of_runs {s : State} (h : s.tbRuns = true) :
    exec .tbTick s = .next (State.tbShow { s with tb := { s.tb with
      time := s.tbAdd s.tb.time (s.tbDelta + s.tb.step.getD 0), step := none, slew := s.tb.slew - s.tbDelta } }) :=
  congrArg Host.Outcome.next (if_pos h)

/-- A follower's tick moves that follower's time. -/
theorem exec_followerTick (s : State) (die : Fin 72) :
    exec (.followerTick die) s = .next (s.setFollower die { s.follower die with time := s.tbAdd (s.follower die).time s.tbDelta }) := rfl

/-! ### Sync pulses (R606) -/

/-- The followers of the dies of a list of CSR spaces load the time of the master. -/
def State.loadFollowers (s : State) (sps : List Nat) : State := sps.foldl (fun t sp => t.setFollower sp ⟨t.tb.time, true, 0⟩) s

/-- A sync pulse that no die misses loads every follower; the X links then carry the time. -/
theorem exec_syncPulse_of_runs {s : State} (h : s.tbRuns = true) :
    exec (.syncPulse []) s = .next (((s.loadFollowers followerDies).xSync 0).xSync 1) :=
  congrArg Host.Outcome.next (if_pos h)

/-- Loading followers leaves the registers and the master's time. -/
theorem State.loadFollowers_frame (s : State) (sps : List Nat) :
    (s.loadFollowers sps).tb.time = s.tb.time ∧ (s.loadFollowers sps).regs = s.regs := by
  induction sps generalizing s with
  | nil => exact ⟨rfl, rfl⟩
  | cons sp sps ih => exact ih (s.setFollower sp ⟨s.tb.time, true, 0⟩)

/-- A follower that is not loaded is as before. -/
theorem State.follower_loadFollowers_of_not_mem {s : State} {sps : List Nat} {d : Nat} (h : d ∉ sps) :
    (s.loadFollowers sps).follower d = s.follower d := by
  induction sps generalizing s with
  | nil => rfl
  | cons sp sps ih =>
    exact (ih (List.not_mem_of_not_mem_cons h)).trans (s.follower_setFollower_ne _ (List.ne_of_not_mem_cons h))

/-- A follower that is loaded has the master's time and is valid. -/
theorem State.follower_loadFollowers_of_mem {s : State} {sps : List Nat} {d : Nat} (h : d ∈ sps) :
    (s.loadFollowers sps).follower d = ⟨s.tb.time, true, 0⟩ := by
  induction sps generalizing s with
  | nil => exact absurd h List.not_mem_nil
  | cons sp sps ih =>
    by_cases hrest : d ∈ sps
    · exact ih (s := s.setFollower sp ⟨s.tb.time, true, 0⟩) hrest
    · obtain rfl : d = sp := (List.mem_cons.1 h).resolve_right hrest
      exact (State.follower_loadFollowers_of_not_mem hrest).trans (s.follower_setFollower_same d _)

/-- Settles O37: the master's tick, a follower's tick, and the pulse that loads the followers one after the other. -/
theorem timeBaseTicks : Obligations.TimeBaseTicks := by
  intro s hruns
  refine ⟨⟨_, exec_tbTick_of_runs hruns, rfl, rfl, rfl, rfl⟩,
    fun die => ⟨_, exec_followerTick s die, rfl, rfl, rfl, ?follower, fun d hd => s.follower_setFollower_ne _ hd⟩,
    ⟨_, exec_syncPulse_of_runs hruns, ?pulse⟩⟩
  case follower =>
    rw [State.follower_setFollower_same]
    rfl
  case pulse =>
    obtain ⟨htime, hregs⟩ := s.loadFollowers_frame followerDies
    refine ⟨by simp [htime], by simp [hregs], fun sp hsp => ?_⟩
    rw [State.follower_of_tb (s := s.loadFollowers followerDies) (by simp), State.follower_loadFollowers_of_mem hsp]
    exact ⟨rfl, rfl⟩

/-! ### Writes by one who may (R601-R605, R611) -/

/-- TB_INCR takes the clamped value. -/
theorem exec_tbIncrWrite_of_writer {s : State} {mid : BitVec 12} (v : DWord) (hw : s.tbWriter mid.toNat = true) (h : s.regReached TB_INCR = true) :
    exec (.tbIncrWrite mid v) s = .next (((s.dropLatches mid.toNat [TB_INCR + 4]).tbIncrWrite v).send (.wrote TB_INCR .ok)) :=
  congrArg Host.Outcome.next (State.regWrite_of_done h (if_pos hw))

/-- STEP writes the adjustment with GO and MODE 0. -/
theorem exec_step_of_writer {s : State} {mid : BitVec 12} (v : Word) (hw : s.tbWriter mid.toNat = true) (h : s.regReached TB_ADJ_CTL = true) :
    exec (.step mid v) s = .next ((s.tbAdjWrite ((v &&& 0x1C#32) ||| 1#32)).send (.wrote TB_ADJ_CTL .ok)) :=
  congrArg Host.Outcome.next (State.regWrite_of_done h (if_pos hw))

/-- SLEW writes it with GO and MODE 1. -/
theorem exec_slew_of_writer {s : State} {mid : BitVec 12} (v : Word) (hw : s.tbWriter mid.toNat = true) (h : s.regReached TB_ADJ_CTL = true) :
    exec (.slew mid v) s = .next ((s.tbAdjWrite ((v &&& 0x1C#32) ||| 3#32)).send (.wrote TB_ADJ_CTL .ok)) :=
  congrArg Host.Outcome.next (State.regWrite_of_done h (if_pos hw))

/-- Settles O38, command by command. -/
theorem timeBaseWritesApply : Obligations.TimeBaseWritesApply := by
  intro s mid hw
  exact ⟨fun v h => exec_tbIncrWrite_of_writer v hw h, fun v h => ⟨exec_step_of_writer v hw h, exec_slew_of_writer v hw h⟩⟩

/-! ### The limits of TB_INCR (R601) -/

theorem State.tbIncrWrite_of_below {v : DWord} (s : State) (h : bitsOf v 0 40 < 0x9FD70A3D7) :
    s.tbIncrWrite v = (s.setCsr64 TB_INCR 0x9FD70A3D7#64).tbFlag TB_ERR_INCR_CLAMP := if_pos h

theorem State.tbIncrWrite_of_above {v : DWord} (s : State) (h : 0xA028F5C29 < bitsOf v 0 40) :
    s.tbIncrWrite v = (s.setCsr64 TB_INCR 0xA028F5C29#64).tbFlag TB_ERR_INCR_CLAMP :=
  (if_neg (by omega)).trans (if_pos h)

theorem State.tbIncrWrite_of_within {v : DWord} (s : State) (hlo : 0x9FD70A3D7 ≤ bitsOf v 0 40) (hhi : bitsOf v 0 40 ≤ 0xA028F5C29) :
    s.tbIncrWrite v = s.setCsr64 TB_INCR (BitVec.ofNat 64 (bitsOf v 0 40)) :=
  (if_neg (by omega)).trans (if_neg (by omega))

/-- Sending leaves the registers of 64 bits. -/
@[simp] theorem State.send_csr64 (s : State) (o : Out) (k : Nat) : (s.send o).csr64 k = s.csr64 k := rfl

/-- Raising INCR_CLAMP leaves TB_INCR, and the flag reads set. -/
theorem State.tbFlag_incrClamp (s : State) :
    (s.tbFlag TB_ERR_INCR_CLAMP).csr64 TB_INCR = s.csr64 TB_INCR ∧ (s.tbFlag TB_ERR_INCR_CLAMP).bit TB_ERR_INCR_CLAMP = true :=
  ⟨s.csr64_setFld_ne 1 (by decide) (by decide), s.bit_setFld_one rfl⟩

/-- TB_INCR with INCR_CLAMP raised reads as the limit it took. -/
theorem State.clamped_reads (s : State) (limit : DWord) :
    ((s.setCsr64 TB_INCR limit).tbFlag TB_ERR_INCR_CLAMP).csr64 TB_INCR = limit ∧
    ((s.setCsr64 TB_INCR limit).tbFlag TB_ERR_INCR_CLAMP).bit TB_ERR_INCR_CLAMP = true := by
  obtain ⟨hincr, hflag⟩ := (s.setCsr64 TB_INCR limit).tbFlag_incrClamp
  exact ⟨hincr.trans (s.csr64_setCsr64_same TB_INCR limit), hflag⟩

/-- Settles O39, by the three cases of the value. -/
theorem incrementIsClamped : Obligations.IncrementIsClamped := by
  intro s mid v hw hr
  refine ⟨_, exec_tbIncrWrite_of_writer v hw hr, fun hlo => ?below, fun hhi => ?above, fun hlo hhi => ?within⟩
  case below =>
    rw [State.tbIncrWrite_of_below _ hlo]
    obtain ⟨hincr, hflag⟩ := (s.dropLatches mid.toNat [TB_INCR + 4]).clamped_reads 0x9FD70A3D7#64
    exact ⟨congrArg BitVec.toNat hincr, hflag⟩
  case above =>
    rw [State.tbIncrWrite_of_above _ hhi]
    obtain ⟨hincr, hflag⟩ := (s.dropLatches mid.toNat [TB_INCR + 4]).clamped_reads 0xA028F5C29#64
    exact ⟨congrArg BitVec.toNat hincr, hflag⟩
  case within =>
    rw [State.tbIncrWrite_of_within _ hlo hhi, State.send_csr64, State.csr64_setCsr64_same, State.send_fld]
    refine ⟨by rw [BitVec.toNat_ofNat]; omega, ?_⟩
    rw [State.setCsr64, State.fld_setCsr_ne _ _ (by decide), State.fld_setCsr_ne _ _ (by decide)]
    rfl

end Sys2Proof.Machine
end

section
/-! PROOFS. The commands of the queue engines (spec/09, R570-R595): doorbells, queue control, fetches, transactions, records and events. -/

namespace Sys2Proof.Machine

open Sys2Proof

/-! ### Doorbells (R570, R572, R574) -/

/-- QE_Q_PI takes a producer index that posts no more than the ring holds and takes nothing posted back. -/
theorem State.qDoorbell_of_within {s : State} {mid h q : Nat} {value : Word} (howner : s.qOwner mid h q = true)
    (hsize : ((value.setWidth 16 : BitVec 16) - s.qCi h q).toNat ≤ 2 ^ s.qSize h q)
    (hahead : (s.qPi h q - s.qCi h q).toNat ≤ ((value.setWidth 16 : BitVec 16) - s.qCi h q).toNat) :
    s.qDoorbell mid h q value = (s.setFld (QE_Q_PI_PI h q) (value.setWidth 16 : BitVec 16).toNat, .ok) := by
  simp only [State.qDoorbell, howner, Bool.not_true, Bool.false_eq_true, if_false]
  exact if_neg (not_or.2 ⟨hsize.not_gt, hahead.not_gt⟩)

/-- QE_Q_CQH takes a consumer index that lies no further behind than the ring holds. -/
theorem State.qHeadWrite_of_within {s : State} {mid h q : Nat} {value : Word} (howner : s.qOwner mid h q = true)
    (hsize : (s.qCt h q - (value.setWidth 16 : BitVec 16)).toNat ≤ 2 ^ s.qSize h q) :
    s.qHeadWrite mid h q value = (s.setFld (QE_Q_CQH_CH h q) (value.setWidth 16 : BitVec 16).toNat, .ok) := by
  simp only [State.qHeadWrite, howner, Bool.not_true, Bool.false_eq_true, if_false]
  exact if_neg hsize.not_gt

/-! ### Queue control (R589, R592, R613) -/

/-- A write of QE_Q_CFG by Level S has its whole effect. -/
theorem State.qCfgCommand_of_levelS {s : State} {mid : BitVec 12} {h q : Nat} (v : Word) (hr : s.regReached (QE_Q_CFG h q) = true)
    (hs : s.levelS mid.toNat = true) : s.qCfgCommand mid h q v = (s.qCfgWrite h q v).send (.wrote (QE_Q_CFG h q) .ok) :=
  State.regWrite_of_done hr (if_pos hs)

/-- So has a command that is one. -/
theorem next_qCfgCommand_of_levelS {s : State} {mid : BitVec 12} {h q : Nat} {v : Word} (hr : s.regReached (QE_Q_CFG h q) = true)
    (hs : s.levelS mid.toNat = true) :
    (Host.Outcome.next (s.qCfgCommand mid h q v) : Host.Outcome State Fault Refusal) =
      .next ((s.qCfgWrite h q v).send (.wrote (QE_Q_CFG h q) .ok)) :=
  congrArg Host.Outcome.next (State.qCfgCommand_of_levelS v hr hs)

/-- Another master's write of it only signals, and is denied. -/
theorem State.qCfgCommand_of_other {s : State} {mid : BitVec 12} {h q : Nat} (v : Word) (hr : s.regReached (QE_Q_CFG h q) = true)
    (hs : s.levelS mid.toNat = false) : s.qCfgCommand mid h q v = (s.qSignals h q v).send (.wrote (QE_Q_CFG h q) .errDenied) :=
  State.regWrite_of_done hr (if_neg (by simp [hs]))

/-- RESUME sets a STOPPED queue running. -/
theorem State.qSignals_resume {s : State} {h q : Nat} {v : Word} (hst : s.qState h q = qStopped) (hv : v.getLsbD 18 = true) :
    s.qSignals h q v = (s.setQueue h q { s.queue h q with stopAfter := false }).qEnter h q qRunning :=
  if_pos ⟨hst, hv⟩

/-- RETRY lets a queue in ERROR write its record again. -/
theorem State.qSignals_retry {s : State} {h q : Nat} {v : Word} (hst : s.qState h q = qError) (hv : v.getLsbD 19 = true) :
    s.qSignals h q v = s.setQueue h q { s.queue h q with retry := true } :=
  (if_neg (by simp [hst, qError, qStopped])).trans (if_pos ⟨hst, hv⟩)

/-- QUEUE_RESUME by a master below Level S is denied, and sets a STOPPED queue running. -/
theorem exec_queueResume_of_other {s : State} {mid : BitVec 12} {hub : Fin 2} {q : Fin 4096} (value : Word)
    (hr : s.regReached (QE_Q_CFG hub q) = true) (hs : s.levelS mid.toNat = false) (hst : s.qState hub q = qStopped) :
    exec (.queueResume mid hub q value) s =
      .next (((s.setQueue hub q { s.queue hub q with stopAfter := false }).qEnter hub q qRunning).send (.wrote (QE_Q_CFG hub q) .errDenied)) := by
  change Host.Outcome.next (s.qCfgCommand mid hub q (value ||| 0x40001#32)) = _
  rw [State.qCfgCommand_of_other _ hr hs, State.qSignals_resume hst (by simp)]

/-- RETRY by a master below Level S is denied, and lets a queue in ERROR write its record again. -/
theorem exec_retry_of_other {s : State} {mid : BitVec 12} {hub : Fin 2} {q : Fin 4096} (value : Word)
    (hr : s.regReached (QE_Q_CFG hub q) = true) (hs : s.levelS mid.toNat = false) (hst : s.qState hub q = qError) :
    exec (.retry mid hub q value) s =
      .next ((s.setQueue hub q { s.queue hub q with retry := true }).send (.wrote (QE_Q_CFG hub q) .errDenied)) := by
  change Host.Outcome.next (s.qCfgCommand mid hub q (value ||| 0x80001#32)) = _
  rw [State.qCfgCommand_of_other _ hr hs, State.qSignals_retry hst (by simp)]

/-! ### Fetches and transactions (R573, R577, R579, R595) -/

/-- A posted descriptor that the queue may fetch is accepted under a free tag, and its fetch goes out. -/
theorem exec_descriptorFetch_of_mayFetch {s : State} {hub : Fin 2} {q : Fin 4096} {tag : Fin 8192} (hmay : s.qMayFetch hub q = true)
    (hfree : s.tagFree (qeStop hub) tag = true) : exec (.descriptorFetch hub q tag) s =
      .next (((s.setQueue hub q { s.queue hub q with active := (s.queue hub q).active ++ [QDesc.fetching (s.qCi hub q) tag] }).setFld
        (QE_Q_IDX_CI hub q) (s.qCi hub q + 1).toNat).qRequest hub q tag 0
          ((s.csr64 (QE_Q_DBASE hub q)).toNat + 32 * ((s.qCi hub q).toNat % 2 ^ s.qSize hub q)) 32 []) :=
  congrArg Host.Outcome.next (if_pos (by simp [hmay, hfree]))

/-- The queue whose turn it is issues the transaction picked, after the scheduler has counted the turn. -/
theorem exec_qeTransactionIssue_of_turn {s : State} {hub : Fin 2} {tag : Fin 8192} {pick q left pos : Nat} {k : QChunk} {c : QSched}
    {write : Bool} (hfree : s.tagFree (qeStop hub) tag = true) (hroom : s.qeOutstanding hub < 1024) (hturn : s.qTurn hub = some (q, left, c))
    (hpick : (s.qReady hub q)[pick % (s.qReady hub q).length]? = some (pos, write, k)) :
    exec (.qeTransactionIssue hub tag pick) s = .next (State.qIssue
      { s with qe := { s.qe with scheds := mapSet s.qe.scheds QSched.zero hub { c with turn := some (q, left - 1) } } } hub q tag pos write k) := by
  change execQeTransactionIssue hub tag pick s = _
  simp only [execQeTransactionIssue, hfree, hroom.not_ge, hturn, hpick, Bool.not_true, decide_false, Bool.or_self, Bool.false_eq_true, if_false]

/-- A completion that has arrived is applied to the queue that holds its tag. -/
theorem exec_qeTransactionDone_of_arrived {s : State} {hub : Fin 2} {tag : Fin 8192} {c : Delivered} {kv : Nat × QSt}
    (hin : s.inboxAt (qeStop hub) tag = some c)
    (hq : s.qe.queues.find? (fun kv => kv.1 / 4096 = hub.val && kv.2.active.any (·.hasTag tag)) = some kv) :
    exec (.qeTransactionDone hub tag) s = .next ((s.dropInbox (qeStop hub) tag).qApply hub (kv.1 % 4096) c) := by
  change execQeTransactionDone hub tag s = _
  simp only [execQeTransactionDone, hin, hq]

/-! ### Records (R585, R590) -/

/-- With no record write in flight the next due record goes out. -/
theorem exec_completionRecordWrite_of_idle {s : State} {hub : Fin 2} {q : Fin 4096} (tag : Fin 8192) (hidle : (s.queue hub q).writing = none) :
    exec (.completionRecordWrite hub q tag) s = .next (s.qWriteRecord hub q tag) := by
  change execCompletionRecordWrite hub q tag s = _
  simp only [execCompletionRecordWrite, hidle]

/-- A record write that has failed puts its queue in ERROR. -/
theorem exec_qeCqErr_of_failed {s : State} {hub : Fin 2} {q : Fin 4096} {t : Nat} {bits : BitVec 128} {c : Delivered}
    (hw : (s.queue hub q).writing = some (t, bits)) (hin : s.inboxAt (qeStop hub) t = some c) (hbad : c.status ≠ .ok) :
    ∃ u : State, exec (.qeCqErr hub q) s = .next (u.qEnter hub q qError) := by
  change ∃ u : State, execQeCqErr hub q s = _
  simp only [execQeCqErr, hw, hin, hbad, if_false]
  exact ⟨_, rfl⟩

/-! ### Events (R588) -/

/-- QE_EVT_FIFO reads as the oldest event, which leaves unless it is a debug read. -/
theorem exec_qeEvtFifoPop_of_reached {s : State} {hub : Fin 2} (dbg : Bool) (h : s.regReached (QE_EVT_FIFO hub) = true) :
    exec (.qeEvtFifoPop hub dbg) s =
      .next ((if dbg then s else s.qEvtPop hub).send (.readback (QE_EVT_FIFO hub) ((s.qEvtWord hub).setWidth 64) dbg)) :=
  congrArg Host.Outcome.next (State.regRead_of_reached h)

/-- Settles O36, command by command. -/
theorem queueCommandsAct : Obligations.QueueCommandsAct := by
  intro s hub q tag mid value
  exact ⟨fun howner hr hsize hahead => congrArg Host.Outcome.next (State.regWrite_of_done hr (State.qDoorbell_of_within howner hsize hahead)),
    fun howner hr hsize => congrArg Host.Outcome.next (State.regWrite_of_done hr (State.qHeadWrite_of_within howner hsize)),
    fun hr hs => ⟨next_qCfgCommand_of_levelS hr hs, next_qCfgCommand_of_levelS hr hs, next_qCfgCommand_of_levelS hr hs,
      next_qCfgCommand_of_levelS hr hs⟩,
    exec_descriptorFetch_of_mayFetch,
    fun _ _ _ _ _ _ _ hfree hroom hturn hpick => ⟨_, exec_qeTransactionIssue_of_turn hfree hroom hturn hpick, rfl, rfl⟩,
    fun hr hs => ⟨exec_queueResume_of_other value hr hs, exec_retry_of_other value hr hs⟩,
    fun _ _ => exec_qeTransactionDone_of_arrived, exec_completionRecordWrite_of_idle tag,
    fun _ _ _ => exec_qeCqErr_of_failed, exec_qeEvtFifoPop_of_reached⟩

end Sys2Proof.Machine
end

section
/-! PROOFS. The CRC units (spec/10, R673-R678): how a computation is started, fed and released. -/

namespace Sys2Proof.Machine

open Sys2Proof

/-! ### The computation of a unit -/

/-- A computation with bytes fed into it in their order and counted (R676). -/
def CrcSt.feed (c : CrcSt) (bs : List Byte) : CrcSt :=
  { c with reg := bs.foldl (crcFeed c.poly) c.reg, count := c.count + BitVec.ofNat 64 bs.length }

/-- A unit's computation reads as it was put. -/
@[simp] theorem State.crc_setCrc_same (s : State) (u : CrcUnit) (c : CrcSt) : (s.setCrc u c).crc u = c := mapGet_mapSet_same _ _ _ _

/-- START begins a computation of the polynomial at INIT XOR FOLD, with nothing counted (R673, R674). -/
@[simp] theorem State.crc_crcStart (s : State) (u : CrcUnit) (mid poly : Nat) :
    (s.crcStart u mid poly).crc u = ⟨poly, crcBegin poly (s.csr64 (crcFoldKey u)), 0, none⟩ :=
  State.crc_setCrc_same _ u _

/-! ### Writes of CRC_CTL (R674, R678) -/

/-- START on a free unit makes the writer its owner; RELEASE with it would free the unit again. -/
theorem State.crcCtlWrite_start_of_free {s : State} {u : CrcUnit} {mid : Nat} {v : Word} (hfree : s.bit (crcOwned u) = false)
    (hstart : v.getLsbD 2 = true) (hkeep : v.getLsbD 3 = false) :
    s.crcCtlWrite u mid v = (s.crcStart u mid (bitsOf v 0 2), .ok) := by
  simp only [State.crcCtlWrite, hfree, hstart, hkeep, Bool.not_false, Bool.true_or, Bool.false_eq_true, if_true, if_false]

/-- RELEASE by the owner, without START, frees the unit. -/
theorem State.crcCtlWrite_release_of_owner {s : State} {u : CrcUnit} {mid : Nat} {v : Word} (howns : s.crcOwns u mid = true)
    (hstart : v.getLsbD 2 = false) (hrelease : v.getLsbD 3 = true) : s.crcCtlWrite u mid v = (s.crcFree u, .ok) := by
  simp only [State.crcCtlWrite, howns, hstart, hrelease, Bool.true_or, Bool.false_eq_true, if_true, if_false]

/-- A unit made free is not owned. -/
theorem State.crcFree_not_owned (s : State) (u : CrcUnit) : (s.crcFree u).bit (crcOwned u) = false :=
  (State.bit_setFld_apart _ 0 rfl).trans (s.bit_setFld_zero rfl)

/-! ### Data (R675, R676) -/

/-- The owner's bytes, none of them poisoned, go into the register in their order and are counted. -/
theorem State.crcData_of_owner {s : State} {u : CrcUnit} {mid : Nat} (bs : List Byte) (rsn : PoisonRsn) (howns : s.crcOwns u mid = true) :
    s.crcData u mid (bs.map fun b => (b, false)) rsn = (s.setCrc u ((s.crc u).feed bs), .ok) := by
  have hbytes : (bs.map fun b => (b, false)).map Prod.fst = bs := by simp [Function.comp_def]
  have hclean : (bs.map fun b => (b, false)).any Prod.snd = false := by simp
  simp only [State.crcData, CrcSt.feed, howns, hbytes, hclean, List.length_map, Bool.not_true, Bool.false_eq_true, if_false]

/-- Another master's data is denied. -/
theorem State.crcData_of_other {s : State} {u : CrcUnit} {mid : Nat} (bs : List PByte) (rsn : PoisonRsn) (hother : s.crcOwns u mid = false) :
    s.crcData u mid bs rsn = (s, .errDenied) := by
  simp only [State.crcData, hother, Bool.not_false, if_true]

/-! ### The units' commands -/

/-- CRC_START of a free unit. -/
theorem exec_crcStart_of_free {s : State} {u : CrcUnit} (mid : BitVec 12) {value : Word} (hr : s.regReached (crcCtl u) = true)
    (hfree : s.bit (crcOwned u) = false) (hkeep : value.getLsbD 3 = false) :
    exec (.crcStart mid u value) s = .next ((s.crcStart u mid.toNat (bitsOf (value ||| 4#32) 0 2)).send (.wrote (crcCtl u) .ok)) :=
  congrArg Host.Outcome.next (State.regWrite_of_done hr (State.crcCtlWrite_start_of_free hfree (by simp) (by simpa using hkeep)))

/-- CRC_DATA_WRITE by the owner, without poison. -/
theorem exec_crcDataWrite_of_owner {s : State} {u : CrcUnit} {mid : BitVec 12} (bs : List Byte) (rsn : PoisonRsn)
    (hr : s.regReached (crcCtl u) = true) (howns : s.crcOwns u mid.toNat = true) :
    exec (.crcDataWrite mid u (bs.map fun b => (b, false)) rsn) s =
      .next ((s.setCrc u ((s.crc u).feed bs)).send (.wrote (crcCtl u) .ok)) :=
  congrArg Host.Outcome.next (State.regWrite_of_done hr (State.crcData_of_owner bs rsn howns))

/-- CRC_DATA_WRITE by another master. -/
theorem exec_crcDataWrite_of_other {s : State} {u : CrcUnit} {mid : BitVec 12} (data : List (Byte × Bool)) (rsn : PoisonRsn)
    (hr : s.regReached (crcCtl u) = true) (hother : s.crcOwns u mid.toNat = false) :
    exec (.crcDataWrite mid u data rsn) s = .next (s.send (.wrote (crcCtl u) .errDenied)) :=
  congrArg Host.Outcome.next (State.regWrite_of_done hr (State.crcData_of_other data rsn hother))

/-- RELEASE by the owner. -/
theorem exec_release_of_owner {s : State} {u : CrcUnit} {mid : BitVec 12} (value : Word) (hr : s.regReached (crcCtl u) = true)
    (howns : s.crcOwns u mid.toNat = true) : exec (.release mid u value) s = .next ((s.crcFree u).send (.wrote (crcCtl u) .ok)) :=
  congrArg Host.Outcome.next (State.regWrite_of_done hr (State.crcCtlWrite_release_of_owner howns (by simp) (by simp)))

/-- Settles O35, command by command: START, data of the owner and of another master, and RELEASE. -/
theorem crcUnitResults : Obligations.CrcUnitResults := by
  intro s u mid value bs hr
  refine ⟨fun hfree hkeep => ⟨_, exec_crcStart_of_free mid hr hfree hkeep, rfl, ?poly, ?count⟩,
    fun howns => ⟨_, exec_crcDataWrite_of_owner bs .source hr howns, ?reg, ?counted, rfl⟩,
    exec_crcDataWrite_of_other _ .source hr,
    fun howns => ⟨_, exec_release_of_owner value hr howns, s.crcFree_not_owned u⟩⟩
  case poly | count => rw [State.crc_crcStart]
  case reg | counted => rw [State.crc_setCrc_same, CrcSt.feed]

end Sys2Proof.Machine
end

section
/-! PROOFS. The CSI-2 ports (spec/10, R653-R672): frames, lines and timeouts at the intake units, words and packets at the transmit ports. -/

namespace Sys2Proof.Machine

open Sys2Proof

/-! ### Frames at an enabled interface (R653-R662) -/

section

variable {s u : State} {port : Fin 4} {k : Fin 8} {vc : Fin 16} {hdr : CsiHdr}

/-- A frame start on a channel that is on ends what was open or discarded there and begins the next frame. -/
theorem exec_fs_of_vcOn (num : Half) (hen : s.bit (PRT_INT_CTL_EN port k) = true) (hecc : hdr.ecc ≠ .uncorrectable)
    (hu : u = ((s.frameMissing port k vc).dropEnd port k vc).csiHeader port k vc hdr) (hon : u.vcOn port k vc = true) :
    exec (.fs port k vc hdr num) s = .next ((u.frameStart port k vc num.toNat (decide (hdr.ecc = .single))).intakeRun port) := by
  subst hu
  change execFs port k vc hdr num s = _
  simp only [execFs, hen, hecc, hon, Bool.not_true, Bool.false_eq_true, if_true, if_false]

/-- A whole line of an accepted type, with a good checksum, joins the frame open on its channel and raises nothing. -/
theorem exec_line_of_open {dt : BitVec 6} (data : List Byte) (hen : s.bit (PRT_INT_CTL_EN port k) = true) (hecc : hdr.ecc ≠ .uncorrectable)
    (hu : u = s.csiHeader port k vc hdr) (hkept : (mapGet u.port.dropping [] port).contains (k.val, vc.val) = false)
    (hopen : (u.frames port).any (Frame.isOpen k vc) = true) (hlo : u.fld (PRT_INT_VC_DT_LO port k vc) ≤ dt.toNat)
    (hhi : dt.toNat ≤ u.fld (PRT_INT_VC_DT_HI port k vc)) :
    exec (.line port k vc hdr dt data true data.length) s =
      .next ((u.onFrame port k vc fun f x => x.frameLine port f dt.toNat data true data.length).intakeRun port) := by
  subst hu
  change execLine port k vc hdr dt data true data.length s = _
  simp only [execLine, hen, hecc, hkept, hopen, hlo.not_gt, hhi.not_gt, Nat.lt_irrefl, decide_false, Bool.not_true, Bool.or_self,
    Bool.false_eq_true, or_self, if_true, if_false]

/-- A frame end completes the frame open on its channel, at the time the port then has. -/
theorem exec_fe_of_enabled (hen : s.bit (PRT_INT_CTL_EN port k) = true) (hecc : hdr.ecc ≠ .uncorrectable) (hu : u = s.csiHeader port k vc hdr) :
    exec (.fe port k vc hdr) s = .next (((u.dropEnd port k vc).onFrame port k vc fun f x =>
      x.frameEnd port f .complete (u.portTime port).1 (u.portTime port).2).intakeRun port) := by
  subst hu
  change execFe port k vc hdr s = _
  simp only [execFe, hen, hecc, Bool.not_true, Bool.false_eq_true, if_false]

end

/-! ### Transmit ports (R669-R672) -/

/-- What a transmit port makes of the word on its stream's wires as they were before the edge (R669). -/
def State.streamWord (s : State) (port t : Nat) : CtxSt × Option Nat :=
  (s.ctx port t).word (s.before.portWire port (256 + 128 * t + 65))
    ((List.range 64).foldl (fun v i => if s.before.portWire port (256 + 128 * t + i) then v ||| BitVec.twoPow 64 i else v) 0)

/-- At an edge of its wires' clock a word that is valid, at a port that is ready and finds no fault in it, joins the port. -/
theorem exec_ctxStreamWord_of_moves {s u : State} {port : Fin 4} {t : Fin 2} {same : Bool} {site n : Nat}
    (hsite : s.siteOf (12 * port) = some site) (hn : n = s.groupOf (placeKey site 2) (8 * t.val) % 8)
    (hclk : s.groupClocked (placeKey site 2) (8 * t.val) n = true) (hu : u = s.edgeAt (placeKey site 2) n same)
    (hvalid : u.before.portWire port (256 + 128 * t.val + 64) = true) (hready : u.before.ctxReady port t = true)
    (hgood : (u.streamWord port t).2 = none) :
    exec (.ctxStreamWord port t same) s = .next (u.setCtx port t (u.streamWord port t).1) := by
  subst hn hu
  change execCtxStreamWord port t same s = _
  rw [State.streamWord] at hgood ⊢
  simp only [execCtxStreamWord, hsite, hclk, hvalid, hready, hgood, Bool.not_true, Bool.or_self, Bool.false_eq_true, if_false]

/-- The port sends a skew calibration before this header's packet (R672). -/
def State.ctxSkew (s : State) (port t : Nat) (h : DWord) : Bool :=
  1500 < s.fld (PRT_CTX_CFG_RATE_MBPS port t) && (!(s.ctx port t).started || (h.getLsbD 26 && bitsOf h 0 6 = 0))

/-- The oldest whole packet goes out; a long one with its payload and the payload's checksum (R670). -/
theorem exec_ctxPacketSend_of_buffered {s : State} {port : Fin 4} {t : Fin 2} {h : DWord} {ws : List DWord} {rest : List (DWord × List DWord)}
    (hbuf : (s.ctx port t).buf = (h, ws) :: rest) :
    exec (.ctxPacketSend port t) s =
      .next ((s.setCtx port t { s.ctx port t with buf := rest, started := true }).send
        (.csiPacket port t (s.ctxSkew port t h) (bitsOf h 6 4) (bitsOf h 0 6) (ctxWc h) (Config.csiEcc (h.setWidth 26))
          (if h.getLsbD 26 then [] else (ws.flatMap fun w => bytesOf w 8).take (ctxWc h))
          (if h.getLsbD 26 then none else some (Config.csiCrc ((ws.flatMap fun w => bytesOf w 8).take (ctxWc h)))))) := by
  change execCtxPacketSend port t s = _
  simp only [execCtxPacketSend, hbuf]
  rfl

/-- Settles O33, command by command. -/
theorem intakeAndTransmitAct : Obligations.IntakeAndTransmitAct := by
  intro s port k vc hdr t
  refine ⟨fun hen hecc => ⟨fun num _ => exec_fs_of_vcOn num hen hecc, fun _ data _ => exec_line_of_open data hen hecc,
    fun _ => exec_fe_of_enabled hen hecc⟩, rfl, ?word, fun h ws rest hbuf => ?packet⟩
  case word =>
    rintro same site w n u o hsite rfl hn hclk hu rfl hvalid hready v rfl hgood
    exact exec_ctxStreamWord_of_moves hsite hn hclk hu hvalid hready hgood
  case packet =>
    refine ⟨_, _, _, exec_ctxPacketSend_of_buffered hbuf, fun hshort => ⟨if_pos hshort, if_pos hshort⟩, fun hlong => ?_⟩
    simp only [hlong, Bool.false_eq_true, if_false, and_self]

end Sys2Proof.Machine
end

section
/-! PROOFS. The PCIe ports (spec/10, R624-R632) and the command transports (spec/12, R753-R761, R775; spec/10, R633-R635). -/

namespace Sys2Proof.Machine

open Sys2Proof

/-! ### PCIe (R624-R632) -/

/-- A request of BAR0 reaches it where the port hosts. -/
theorem exec_pcieInbound_bar0 {s : State} {port : Fin 4} {r : PcieReq} (hhost : s.pcieHost port = true) (hbar : r.bar2 = false) :
    exec (.pcieInbound port r) s = .next (s.pcieBar0 port r) := by
  change execPcieInbound port r s = _
  simp only [execPcieInbound, hhost, hbar, Bool.not_true, Bool.not_false, Bool.false_eq_true, if_true, if_false]

/-- A request of BAR2 reaches it where the port hosts and the request ends within BAR2's size. -/
theorem exec_pcieInbound_bar2 {s : State} {port : Fin 4} {r : PcieReq} (hhost : s.pcieHost port = true) (hbar : r.bar2 = true)
    (hsize : r.off.toNat + r.lenm1.toNat < 2 ^ s.fld (PRT_PCIE_BAR_BAR2_LOG2 port)) :
    exec (.pcieInbound port r) s = .next (s.pcieBar2 port r) := by
  change execPcieInbound port r s = _
  simp only [execPcieInbound, hhost, hbar, hsize, Bool.not_true, Bool.false_eq_true, if_true, if_false]

/-- In the Retry Status period, before SP3 has ended, a configuration request is answered with Retry Status. -/
theorem exec_pcieConfigRetry_of_retry {s : State} {port : Fin 4} (hretry : mapGet s.port.retry false port = true)
    (hphase : s.fld RST_STAT_PHASE ≤ 3) : exec (.pcieConfigRetry port) s = .next (s.send (.configRetry port)) :=
  congrArg Host.Outcome.next (if_pos (by simp [hretry, hphase]))

/-- Link 0 coming up shows in PRT_PCIE_STAT, with its speed and the state of its LTSSM, and flags nothing. -/
theorem exec_pcieLinkDown_up (s : State) (port : Fin 4) (speed : Fin 8) (ltssm : BitVec 6) :
    exec (.pcieLinkDown port 0 true speed ltssm) s = .next (((s.setBit ⟨PRT_PCIE_STAT port, 8, 1⟩ true).setFld
      ⟨PRT_PCIE_STAT port, 12, 3⟩ speed).setFld (PRT_PCIE_STAT_LTSSM port) ltssm.toNat) :=
  congrArg Host.Outcome.next (if_neg (by simp))

/-! ### Mailboxes and the fabric command gate (R633-R635, R759-R761) -/

/-- The transports are the command state's own: what leaves that leaves them. -/
theorem State.tr_of_cmd {s t : State} (h : t.cmd = s.cmd) (k : Nat) : t.tr k = s.tr k := by
  simp only [State.tr, h]

/-- A transport reads as it was put. -/
@[simp] theorem State.tr_setTr_same (s : State) (k : Nat) (t : Transport) : (s.setTr k t).tr k = t := mapGet_mapSet_same _ _ _ _

/-- Writing a list of registers leaves the transports. -/
theorem State.foldl_setCsr_cmd {α : Type} (key : α → Nat) (val : α → Word) (l : List α) (s : State) :
    (l.foldl (fun u a => u.setCsr (key a) (val a)) s).cmd = s.cmd := by
  induction l generalizing s with
  | nil => rfl
  | cons a l ih => exact ih (s.setCsr (key a) (val a))

/-- A doorbell rung while the mailbox is not busy hands over the words it counts. -/
theorem State.mbxDoorbell_of_idle {s : State} {m : MbxKind} (value : Word) (hidle : s.bit (mbxBusy m) = false) :
    s.mbxDoorbell m value = (s.setFld (mbxBusy m) 1).deliverPacket (mbxIndex m)
      ((List.range (min 256 (bitsOf value 0 9))).map fun i => s.csr (mbxReq m i)) :=
  if_neg (by simp [hidle])

/-- The fabric command gate's doorbell, rung by the master it serves, is its mailbox's. -/
theorem exec_fabDoorbell_of_may {s : State} {mid : BitVec 12} (value : Word) (hr : s.regReached CMD_FAB_DB = true)
    (hmay : s.fabMay mid.toNat = true) : exec (.fabDoorbell mid value) s = .next ((s.mbxDoorbell .fabric value).send (.wrote CMD_FAB_DB .ok)) :=
  congrArg Host.Outcome.next (State.regWrite_of_done hr (if_pos hmay))

/-- While RDY is clear the oldest reply of a mailbox is shown in it and leaves its queue. -/
theorem exec_mbxReply_of_waiting {s : State} {mbx : MbxKind} {p : ReplyPkt} {rest : List ReplyPkt}
    (hreplies : (s.tr (mbxIndex mbx)).replies = p :: rest) (hrdy : s.bit (mbxRdy mbx) = false) :
    ∃ u : State, exec (.mbxReply mbx) s = .next (u.msixEdges s) ∧
      u.tr (mbxIndex mbx) = { s.tr (mbxIndex mbx) with replies := rest, shown := p.kind } := by
  change ∃ u : State, execMbxReply mbx s = _ ∧ _
  simp only [execMbxReply, hreplies, hrdy, Bool.false_eq_true, if_false]
  refine ⟨_, rfl, (State.tr_of_cmd ?_ _).trans (s.tr_setTr_same _ _)⟩
  split <;> simp only [State.setFld_cmd] <;> exact State.foldl_setCsr_cmd (fun w => mbxRsp mbx w.2) Prod.fst _ _

/-- Clearing RDY where it is set ends BUSY too after a final reply. -/
theorem State.mbxRdyClear_of_rdy {s : State} {m : MbxKind} (hrdy : s.bit (mbxRdy m) = true) :
    s.mbxRdyClear m = if (s.tr (mbxIndex m)).shown = .final then
      (s.setFld (mbxRdy m) 0).setFld (mbxBusy m) 0 else s.setFld (mbxRdy m) 0 :=
  if_neg (by simp [hrdy])

/-! ### CMD-SPI (R753-R757) -/

/-- A WRITE frame at a transport that listens and is not busy is one packet. -/
theorem exec_writeFrame_of_idle {s : State} {bytes : List Byte} {early : Bool} (hlisten : s.spiDeaf early = false)
    (hfirst : bytes.head? = some 0xC0#8) (hidle : (s.tr 0).busy = false) :
    exec (.writeFrame bytes early) s = .next ((s.setTr 0 { s.tr 0 with busy := true }).deliverPacket 0 (packWords32 bytes)) := by
  change execWriteFrame bytes early s = _
  simp only [execWriteFrame, hlisten, hfirst, hidle, ne_eq, not_true_eq_false, Bool.false_eq_true, if_false]

/-- A READ frame to its reply's last byte shows the oldest reply, which leaves, and clears OVERRUN. -/
theorem exec_readFrame_of_reply {s : State} {early : Bool} {p : ReplyPkt} {rest : List ReplyPkt} (hlisten : s.spiDeaf early = false)
    (hreplies : (s.tr 0).replies = p :: rest) :
    exec (.readFrame true early) s = .next ((s.setTr 0 { s.tr 0 with overrun := false, replies := rest }).send (.spi s.spiStatus p.words)) := by
  change execReadFrame true early s = _
  simp only [execReadFrame, hlisten, hreplies, Bool.false_eq_true, if_true, if_false, List.tail_cons, List.head?_cons, Option.map_some,
    Option.getD_some]

/-- A frame that is neither a READ nor a WRITE frame is counted. -/
theorem exec_frameErr_of_other {first : Byte} (s : State) (hwrite : first ≠ 0xC0) (hread : first ≠ 0x0F) :
    exec (.frameErr first) s = .next (s.satInc CMD_FRAME_ERR_FRAME_ERR) :=
  congrArg Host.Outcome.next (if_neg (not_or.2 ⟨hwrite, hread⟩))

/-! ### JTAG (R758) -/

/-- A word that is not its packet's last joins the command buffer. -/
theorem exec_cmdpktUpdateDr_more {s : State} (word : Word) (hawake : s.rst.parked = false) :
    exec (.cmdpktUpdateDr word false) s = .next (s.setTr 1 { s.tr 1 with inbuf := (s.tr 1).inbuf ++ [word] }) := by
  change execCmdpktUpdateDr word false s = _
  simp only [execCmdpktUpdateDr, hawake, Bool.false_eq_true, if_false]

/-- The last word of a packet hands the buffer's words over with it. -/
theorem exec_cmdpktUpdateDr_last {s : State} (word : Word) (hawake : s.rst.parked = false) :
    exec (.cmdpktUpdateDr word true) s = .next ((s.setTr 1 { s.tr 1 with inbuf := [] }).deliverPacket 1 ((s.tr 1).inbuf ++ [word])) := by
  change execCmdpktUpdateDr word true s = _
  simp only [execCmdpktUpdateDr, hawake, Bool.false_eq_true, if_true, if_false]

/-- A word of the oldest reply before its last is loaded, and the reply stays. -/
theorem exec_cmdpktCaptureDr_more {s : State} {p : ReplyPkt} {rest : List ReplyPkt} (hreplies : (s.tr 1).replies = p :: rest)
    (hmore : (s.tr 1).taken + 1 ≠ p.words.length) :
    exec .cmdpktCaptureDr s =
      .next ((s.setTr 1 { s.tr 1 with taken := (s.tr 1).taken + 1 }).send (.jtag true (p.words.getD (s.tr 1).taken 0))) := by
  change execCmdpktCaptureDr s = _
  simp only [execCmdpktCaptureDr, hreplies, hmore, if_false]

/-! ### Completions (R775, R776) -/

/-- While the MC runs, the completion of an ended operation is sent and the command leaves those outstanding. -/
theorem exec_commandCompletion_of_ended {s : State} {transport : Fin 7} {tag : BitVec 16} {a : Acc} {st : Nat} {res : List Word}
    (hacc : s.cmd.accs.find? (fun a => a.cmd.tr = transport.val && a.cmd.tag = tag.toNat) = some a) (hresult : a.result = some (st, res))
    (hmc : s.mcRuns = true) (hended : s.accEnded a = true) :
    exec (.commandCompletion transport tag) s =
      .next ((State.showAccs { s with cmd := { s.cmd with accs := s.cmd.accs.filter (· ≠ a) } }).pushReply transport
        ⟨mkReply transport a.cmd.seq a.cmd.ver 1 st (replyWord1 tag.toNat res) res, .completion⟩) := by
  change execCommandCompletion transport tag s = _
  simp only [execCommandCompletion, hacc, hresult, hmc, hended, Option.isNone_some, Bool.and_self, Bool.false_eq_true, if_true, if_false]

/-- Settles O43, command by command. -/
theorem hostCommandsAct : Obligations.HostCommandsAct := by
  intro s port mid value
  refine ⟨fun _ => exec_pcieInbound_bar0, fun _ => exec_pcieInbound_bar2, fun _ _ _ _ => rfl, exec_pcieConfigRetry_of_retry,
    exec_pcieLinkDown_up s port, ⟨_, rfl, mapGet_mapSet_same _ _ _ _, rfl, rfl⟩,
    fun hidle => congrArg Host.Outcome.next (State.mbxDoorbell_of_idle value hidle), exec_fabDoorbell_of_may value,
    fun mbx p rest hreplies hrdy => ?reply,
    fun _ hrdy => congrArg Host.Outcome.next (State.mbxRdyClear_of_rdy hrdy),
    fun _ => exec_writeFrame_of_idle, fun _ _ => exec_readFrame_of_reply, fun _ => exec_frameErr_of_other s,
    fun hawake => ⟨exec_cmdpktUpdateDr_more value hawake, exec_cmdpktUpdateDr_last value hawake⟩,
    fun _ _ => exec_cmdpktCaptureDr_more, fun _ _ _ _ _ => exec_commandCompletion_of_ended⟩
  case reply =>
    obtain ⟨u, hexec, htr⟩ := exec_mbxReply_of_waiting hreplies hrdy
    exact ⟨u, hexec, congrArg Transport.replies htr⟩

end Sys2Proof.Machine
end

section
/-! PROOFS. Configuration (spec/11): GO of the configuration operations (R719-R743), staging, loads, release, quiescence and the
configuration check of acres (R695-R721, R738). -/

namespace Sys2Proof.Machine

open Sys2Proof

/-! ### Registers and the configuration master beside fabric, ring and commands

What empties a place, answers the requests held at its gates or runs its tiles writes no register and leaves the configuration master. -/

/-- The registers and the state of the configuration master. -/
def State.control (s : State) : Map Word × CfgState := (s.regs, s.cfg)

theorem State.cfg_of_control {s t : State} (h : t.control = s.control) : t.cfg = s.cfg := congrArg Prod.snd h

/-- What every step of a fold keeps, the fold keeps. -/
theorem foldl_keeps_value {α β γ : Type} (g : β → γ) {f : β → α → β} (hf : ∀ b a, g (f b a) = g b) (l : List α) (b : β) :
    g (l.foldl f b) = g b := by
  induction l generalizing b with
  | nil => rfl
  | cons a l ih => exact (ih (f b a)).trans (hf b a)

theorem State.setTile_control (s : State) (site t : Nat) (x : TileSt) : (s.setTile site t x).control = s.control := (rfl)
theorem State.setPlace_control (s : State) (pl : Nat) (p : PlaceSt) : (s.setPlace pl p).control = s.control := (rfl)

theorem State.gsrAssert_control (s : State) (pl : Nat) : (s.gsrAssert pl).control = s.control := by
  unfold State.gsrAssert
  extract_lets _ s1 _ s2
  have hs2 : s2.control = s.control := s.setPlace_control pl { s.place pl with gsrOff := false }
  exact (foldl_keeps_value State.control (fun _ _ => State.setTile_control ..) _ s2).trans hs2

theorem State.zeroFrames_control (s : State) (pl : Nat) : (s.zeroFrames pl).control = s.control := by
  unfold State.zeroFrames
  extract_lets f s1 s2
  have hs1 : s1.control = s.control := rfl
  exact (s2.gsrAssert_control pl).trans ((foldl_keeps_value State.control (fun _ _ => State.setTile_control ..) _ s1).trans hs1)

theorem State.emptyPlace_control (s : State) (pl : Nat) : (s.emptyPlace pl).control = s.control := by
  unfold State.emptyPlace
  exact (State.setPlace_control ..).trans (State.zeroFrames_control ..)

theorem State.wait_control (s : State) (legs : List Leg) (leg dir : Nat) (ready fresh : Bool) (fs : List RingFlit) :
    (s.wait legs leg dir ready fresh fs).control = s.control := by
  unfold State.wait
  split <;> rfl

theorem State.reply_control (s : State) (stop : Nat) (p : ReqPkt) (st : Status) (rsn : PoisonRsn) (peek : Bool) (bs : List PByte) :
    (s.reply stop p st rsn peek bs).control = s.control := by
  unfold State.reply
  exact State.wait_control ..

theorem State.gateFlush_control (s : State) (la : Nat) : (s.gateFlush la).control = s.control := by
  unfold State.gateFlush
  extract_lets _ _ s1
  have hs1 : s1.control = s.control := rfl
  exact (foldl_keeps_value State.control (fun _ _ => State.reply_control ..) _ s1).trans hs1

/-! ### Acres that go away (R715, R716, R746, R747) -/

theorem State.dropSig_cfg (s : State) (la : Nat) : (s.dropSig la).cfg = s.cfg := by
  unfold State.dropSig
  exact foldl_keeps_value State.cfg (fun _ _ => State.setCsr_cfg ..) _ _

theorem State.dropSig_acreState (s : State) (la : Nat) : (s.dropSig la).acreState la = s.acreState la := by
  have hcompat (t : State) (k : Nat) : (t.setCsr (CFG_COMPAT la k) 0).acreState la = t.acreState la := t.fld_setCsr_ne _ (by
    simp only [CFG_ACRE_STATE, CFG_ACRE, CFG_COMPAT]
    omega)
  have hsig : (s.setCsr (CFG_SIG la) 0).acreState la = s.acreState la := s.fld_setCsr_ne _ (by
    simp only [CFG_ACRE_STATE, CFG_ACRE, CFG_SIG]
    omega)
  unfold State.dropSig
  exact (foldl_keeps_value (State.acreState · la) hcompat _ _).trans hsig

/-- The state of an acre reads as the one it takes. -/
theorem State.acreState_setAcre (s : State) (la : Nat) {st : Nat} (hst : st < 16) : (s.setAcre la st).acreState la = st :=
  (s.fld_setFld_same _ _ (show 0 + 4 ≤ 32 by decide)).trans (Nat.mod_eq_of_lt hst)

/-- An acre that goes away leaves its place and its gates, and takes the state `st` without an interface; one that becomes LOST is flagged. -/
theorem State.acreGone_parts (s : State) (la st : Nat) : ∃ (t : State) (reloc : Nat), t.control = s.control ∧
    (s.acreGone la st = ((t.setFld (CFG_ACRE_RELOC la) reloc).setAcre la st).dropSig la ∨
      s.acreGone la st = (((t.setFld (CFG_ACRE_RELOC la) reloc).setAcre la st).dropSig la).cfgFlag CFG_ERR_ACRE_LOST la) := by
  unfold State.acreGone
  extract_lets s1 s0 s2
  have hs1 : s1.control = s.control := by
    refine (State.gateFlush_control ..).trans ?_
    split
    · exact s.emptyPlace_control _
    · rfl
  refine ⟨s1, if st = acFailed then s1.fld (CFG_ACRE_RELOC la) else 0, hs1, ?_⟩
  split
  · exact .inr rfl
  · exact .inl rfl

theorem State.setAcre_cfg (s : State) (la st : Nat) : (s.setAcre la st).cfg = s.cfg := (rfl)
theorem State.setReason_cfg (s : State) (la reason : Nat) : (s.setReason la reason).cfg = s.cfg := (rfl)
theorem State.cfgFlag_cfg (s : State) (f : Fld) (la : Nat) : (s.cfgFlag f la).cfg = s.cfg := (rfl)

/-- A flag of CFG_ERR leaves the states of the acres. -/
theorem State.cfgFlag_acreState (s : State) (lo w la n : Nat) : (s.cfgFlag ⟨CFG_ERR, lo, w⟩ la).acreState n = s.acreState n := by
  rw [State.cfgFlag, State.acreState, State.raise_fld, State.fld_setFld_ne, ← State.acreState]
  simp only [CFG_ACRE_STATE, CFG_ACRE, CFG_ERR]
  omega

theorem State.cfgReason_cfg (s : State) (reason la faddr : Nat) : (s.cfgReason reason la faddr).cfg = s.cfg := by
  unfold State.cfgReason
  dsimp only
  split
  · rw [State.cfgFlag_cfg, State.setCsr_cfg]
  · rw [State.setCsr_cfg]

/-- The configuration master goes on as it was when an acre goes away. -/
theorem State.acreGone_cfg (s : State) (la st : Nat) : (s.acreGone la st).cfg = s.cfg := by
  obtain ⟨t, reloc, hcontrol, hgone⟩ := s.acreGone_parts la st
  have hcfg : (((t.setFld (CFG_ACRE_RELOC la) reloc).setAcre la st).dropSig la).cfg = s.cfg := by
    rw [State.dropSig_cfg, State.setAcre_cfg, State.setFld_cfg, State.cfg_of_control hcontrol]
  obtain hgone | hgone := hgone
  · rw [hgone, hcfg]
  · rw [hgone, State.cfgFlag_cfg, hcfg]

theorem State.acreGone_acreState (s : State) (la : Nat) {st : Nat} (hst : st < 16) : (s.acreGone la st).acreState la = st := by
  obtain ⟨t, reloc, -, hgone⟩ := s.acreGone_parts la st
  have hstate : (((t.setFld (CFG_ACRE_RELOC la) reloc).setAcre la st).dropSig la).acreState la = st := by
    rw [State.dropSig_acreState, State.acreState_setAcre _ _ hst]
  obtain hgone | hgone := hgone
  · rw [hgone, hstate]
  · rw [hgone, CFG_ERR_ACRE_LOST, State.cfgFlag_acreState, hstate]

theorem State.acreFail_cfg (s : State) (la reason faddr : Nat) : (s.acreFail la reason faddr).cfg = s.cfg := by
  rw [State.acreFail, State.cfgReason_cfg, State.setReason_cfg, State.acreGone_cfg]

/-! ### What follows an event while no operation runs -/

theorem State.opTurn_of_noOp {s : State} (h : s.cfg.op = none) : s.opTurn = s := by
  simp only [State.opTurn, h]

theorem State.cfgPump_of_noOp {s : State} (h : s.cfg.op = none) (n : Nat) : State.cfgPump n s = s := by
  cases n with
  | zero => rfl
  | succ n => simp only [State.cfgPump, h]

/-- An operation that waits for something else than a transfer, and is not loading acres, moves on no further. -/
theorem State.cfgPump_of_waiting {s : State} {o : OpSt} (hop : s.cfg.op = some o) (hphase : o.phase ≠ .loads) (hxfer : s.cfg.xfer = none)
    (n : Nat) : State.cfgPump n s = s := by
  cases n with
  | zero => rfl
  | succ n => simp only [State.cfgPump, hop, hxfer, hphase, decide_false, Bool.false_and, Bool.false_eq_true, if_false]

/-! ### GO (R737, R739, R743) -/

/-- A GO of one of the six operations starts it in a RUNNING device in which no operation runs. -/
theorem State.opStart_of_idle {s : State} {n : Nat} (hn : 1 ≤ n ∧ n ≤ 6) (hop : s.cfg.op = none) (hrun : s.fld RST_STAT_STATE = 1) :
    s.opStart n = s.opGo n := by
  have habort : s.retireAborts = false := by simp only [State.retireAborts, hop]
  have hnone : ¬ (n = 0 ∨ 6 < n) := by omega
  simp only [State.opStart, habort, hop, hrun, hnone, Option.isSome_none, Bool.false_eq_true, ne_eq, not_true_eq_false, and_false, decide_false,
    Bool.or_self, if_false]

/-- A Level S master's write of GO with an operation that is not refused starts the operation. -/
theorem State.cfgCmdWrite_of_go {s : State} {mid n : Nat} {v : Word} (hs : s.levelS mid = true) (hv : bitsOf v 0 4 = n)
    (hgo : v.getLsbD 4 = true) (hn : 1 ≤ n ∧ n ≤ 6) (hload : n = 4 → s.acreState (s.fld CFG_ARG_ACRE) ≠ acLoading)
    (hop : s.cfg.op = none) (hrun : s.fld RST_STAT_STATE = 1) :
    s.cfgCmdWrite mid v = ((s.setFld CFG_CMD_OP n).opGo n, .ok) := by
  have hfence : ¬ (n = 4 ∧ s.acreState (s.fld CFG_ARG_ACRE) = acLoading) := fun h => hload h.1 h.2
  have hrun' : (s.setFld CFG_CMD_OP n).fld RST_STAT_STATE = 1 := (s.fld_setFld_ne n (by decide)).trans hrun
  simp only [State.cfgCmdWrite, hs, hv, hgo, hfence, Bool.not_true, Bool.false_eq_true, if_false,
    State.opStart_of_idle (s := s.setFld CFG_CMD_OP n) hn hop hrun']

/-- GO is a step of the operation that it names. -/
theorem State.opStep_of_go {s : State} {mid : BitVec 12} {v : Word} {n : Nat} (hr : s.regReached CFG_CMD = true)
    (hs : s.levelS mid.toNat = true) (hv : bitsOf v 0 4 = n) (hgo : v.getLsbD 4 = true) (hn : 1 ≤ n ∧ n ≤ 6)
    (hload : n = 4 → s.acreState (s.fld CFG_ARG_ACRE) ≠ acLoading) (hop : s.cfg.op = none) (hrun : s.fld RST_STAT_STATE = 1) :
    s.opStep n (.go mid v) = ((s.setFld CFG_CMD_OP n).opGo n).send (.wrote CFG_CMD .ok) :=
  (if_pos ⟨hv, hgo⟩).trans (State.regWrite_of_done hr (State.cfgCmdWrite_of_go hs hv hgo hn hload hop hrun))

/-! ### UNLOAD (R715, R722) -/

/-- CFG_CMD is no register of an acre. -/
theorem cfgAcre_ne_cfgCmd (la : Nat) : CFG_ACRE la ≠ CFG_CMD := by
  simp only [CFG_ACRE, CFG_CMD]
  omega

/-- A field of CFG_CMD leaves the states of the acres. -/
theorem State.setFld_cfgCmd_acreState (s : State) (lo w n la : Nat) : (s.setFld ⟨CFG_CMD, lo, w⟩ n).acreState la = s.acreState la :=
  s.fld_setFld_ne n (cfgAcre_ne_cfgCmd la)

theorem State.setOp_acreState (s : State) (o : OpSt) (la : Nat) : (s.setOp o).acreState la = s.acreState la := (rfl)
theorem State.setOp_bit (s : State) (o : OpSt) (f : Fld) : (s.setOp o).bit f = s.bit f := (rfl)
theorem State.setOp_cfg (s : State) (o : OpSt) : (s.setOp o).cfg = { s.cfg with op := some o } := (rfl)
theorem State.opBegin_cfg (s : State) (op : Nat) : (s.opBegin op).1.cfg = { s.cfg with op := some (s.opBegin op).2 } := (rfl)

/-- An operation that begins changes no acre. -/
theorem State.opBegin_acreState (s : State) (op la : Nat) : (s.opBegin op).1.acreState la = s.acreState la := by
  simp only [State.opBegin, State.setOp_acreState, CFG_CMD_BUSY, CFG_CMD_REFUSED, State.setFld_cfgCmd_acreState]

/-- An operation that begins sets BUSY. -/
theorem State.opBegin_busy (s : State) (op : Nat) : (s.opBegin op).1.bit CFG_CMD_BUSY = true := by
  simp only [State.opBegin, State.setOp_bit]
  exact State.bit_setFld_one _ (by decide)

/-- UNLOAD of a RUNNING acre lets it quiesce. -/
theorem State.beginUnload_of_running {s : State} {la : Nat} (harg : s.fld CFG_ARG_ACRE = la) (hla : la ≤ 191)
    (hst : s.acreState la = acRunning) :
    s.beginUnload = ((s.opBegin 2).1.setOp { (s.opBegin 2).2 with phase := .quiesce }).setAcre la acQuiescing := by
  have hacre : (s.opBegin 2).2.acre = la := harg
  simp only [State.beginUnload, hacre, hla.not_gt, hst, State.quiesce, State.setOp_acreState, State.opBegin_acreState, if_false, if_true]

/-- UNLOAD of an EMPTY or FAILED acre ends at once. -/
theorem State.beginUnload_of_gone {s : State} {la : Nat} (harg : s.fld CFG_ARG_ACRE = la) (hla : la ≤ 191)
    (hst : s.acreState la = acEmpty ∨ s.acreState la = acFailed) :
    s.beginUnload = ((s.opBegin 2).1.acreGone la acEmpty).opEnd opOk := by
  have hacre : (s.opBegin 2).2.acre = la := harg
  have hrun : s.acreState la ≠ acRunning := by
    obtain hst | hst := hst <;> rw [hst] <;> decide
  simp only [State.beginUnload, hacre, hla.not_gt, hrun, hst, if_false, if_true]

/-- UNLOAD of a RUNNING acre waits for its quiescence. -/
theorem State.opGo_unload_of_running {s : State} {la : Nat} (harg : s.fld CFG_ARG_ACRE = la) (hla : la ≤ 191) (hxfer : s.cfg.xfer = none)
    (hst : s.acreState la = acRunning) : (s.opGo 2).acreState la = acQuiescing ∧ (s.opGo 2).bit CFG_CMD_BUSY = true := by
  have hgo : s.opGo 2 = State.cfgPump 200 s.beginUnload := rfl
  have hcfg : s.beginUnload.cfg = { s.cfg with op := some { (s.opBegin 2).2 with phase := .quiesce } } := by
    rw [State.beginUnload_of_running harg hla hst, State.setAcre_cfg, State.setOp_cfg, State.opBegin_cfg]
  rw [hgo, State.cfgPump_of_waiting (o := { (s.opBegin 2).2 with phase := .quiesce }) (by rw [hcfg]) nofun (by rw [hcfg, hxfer]),
    State.beginUnload_of_running harg hla hst]
  refine ⟨State.acreState_setAcre _ _ (by decide), ?_⟩
  rw [State.bit, State.setAcre, State.fld_setFld_ne _ _ (cfgAcre_ne_cfgCmd la).symm, ← State.bit, State.setOp_bit, State.opBegin_busy]

theorem State.accDone_cfg (s : State) (op status : Nat) (res : List Word) : (s.accDone op status res).cfg = s.cfg := (rfl)
theorem State.accDone_fld (s : State) (op status : Nat) (res : List Word) (f : Fld) : (s.accDone op status res).fld f = s.fld f := (rfl)
theorem State.accDone_bit (s : State) (op status : Nat) (res : List Word) (f : Fld) : (s.accDone op status res).bit f = s.bit f := (rfl)

/-- The end of an UNLOAD shows its status in CFG_CMD and completes the command that started it. -/
theorem State.opEnd_of_unload {s t : State} {o : OpSt} (hop : s.cfg.op = some o) (ho : o.op = 2) (status : Nat)
    (ht : t = (State.setFld { s with cfg := { s.cfg with op := none, xfer := none } } CFG_CMD_BUSY 0).setFld CFG_CMD_STATUS status) :
    s.opEnd status = t.accDone 0x0202 stOk [BitVec.ofNat 32 status, t.csr CFG_ERR_INFO] := by
  subst ht
  simp [State.opEnd, hop, ho]

/-- After the end of an UNLOAD no operation runs, BUSY is clear, STATUS shows, and the acres are as they were. -/
theorem State.opEnd_unload_reads {s : State} {o : OpSt} (hop : s.cfg.op = some o) (ho : o.op = 2) {status : Nat} (hstatus : status < 16) :
    (s.opEnd status).cfg.op = none ∧ (s.opEnd status).bit CFG_CMD_BUSY = false ∧ (s.opEnd status).fld CFG_CMD_STATUS = status ∧
      ∀ la, (s.opEnd status).acreState la = s.acreState la := by
  rw [State.opEnd_of_unload hop ho status rfl, State.accDone_cfg, State.accDone_bit, State.accDone_fld]
  refine ⟨rfl, ?busy, ?shows, fun la => ?acre⟩
  case busy => rw [State.bit_setFld_apart _ _ (by decide), State.bit_setFld_zero _ (by decide)]
  case shows => exact (State.fld_setFld_same _ _ _ (by decide)).trans (Nat.mod_eq_of_lt hstatus)
  case acre => exact (State.accDone_fld ..).trans ((State.setFld_cfgCmd_acreState ..).trans (State.setFld_cfgCmd_acreState ..))

/-- UNLOAD of an EMPTY or FAILED acre leaves it EMPTY and has ended with status OK. -/
theorem State.opGo_unload_of_gone {s : State} {la : Nat} (harg : s.fld CFG_ARG_ACRE = la) (hla : la ≤ 191)
    (hst : s.acreState la = acEmpty ∨ s.acreState la = acFailed) :
    (s.opGo 2).acreState la = acEmpty ∧ (s.opGo 2).bit CFG_CMD_BUSY = false ∧ (s.opGo 2).fld CFG_CMD_STATUS = opOk := by
  have hgo : s.opGo 2 = State.cfgPump 200 s.beginUnload := rfl
  have hop : ((s.opBegin 2).1.acreGone la acEmpty).cfg.op = some (s.opBegin 2).2 := by
    rw [State.acreGone_cfg, State.opBegin_cfg]
  obtain ⟨hnone, hbusy, hstatus, hacres⟩ := State.opEnd_unload_reads (status := opOk) hop rfl (by decide)
  rw [← State.beginUnload_of_gone harg hla hst] at hnone hbusy hstatus hacres
  rw [hgo, State.cfgPump_of_noOp hnone]
  exact ⟨(hacres la).trans (State.acreGone_acreState _ la (by decide)), hbusy, hstatus⟩

/-- Settles O21: GO of each operation, then UNLOAD of an acre that runs and of one that holds nothing. -/
theorem configurationOperationsStart : Obligations.ConfigurationOperationsStart := by
  intro mid v n s t hr hs hv hgo hload hop hrun ht
  subst ht
  have hstep (h1 : 1 ≤ n) (h6 : n ≤ 6) : s.opStep n (.go mid v) = ((s.setFld CFG_CMD_OP n).opGo n).send (.wrote CFG_CMD .ok) :=
    State.opStep_of_go hr hs hv hgo ⟨h1, h6⟩ hload hop hrun
  have harg : (s.setFld CFG_CMD_OP n).fld CFG_ARG_ACRE = s.fld CFG_ARG_ACRE := s.fld_setFld_ne n (by decide)
  have hstate (la : Nat) : (s.setFld CFG_CMD_OP n).acreState la = s.acreState la := s.setFld_cfgCmd_acreState ..
  refine ⟨?_, ?_, ?_, ?_, ?_, ?_, fun hn hla hxfer hst => ?running, fun hn hla hst => ?gone⟩
  case running =>
    subst hn
    exact State.opGo_unload_of_running harg hla hxfer ((hstate _).trans hst)
  case gone =>
    subst hn
    exact State.opGo_unload_of_gone harg hla (by rwa [hstate])
  all_goals
    rintro rfl
    exact congrArg Host.Outcome.next (hstep (by decide) (by decide))

/-! ### Staging and loads (R695-R698, R707-R710, R719) -/

/-- From the end of SP3, with no image judged yet, the header of a source that is ready is judged (R703-R707). -/
theorem exec_imageStaging_of_ready {s s1 : State} {sfdp : Option Bool} (data : Option (List Byte)) (hphase : s.inPhase 4 6 = true)
    (hrefusal : s.cfg.refusal = 0) (hsource : (firstSource s.cfgMode).isSome) (himage : s.cfg.image = none) (hready : s.sourceReady = true)
    (hs1 : s1 = s.startXspi sfdp) :
    exec (.imageStaging sfdp data) s = .next (s1.judgeImage (if s1.cfg.xspi.isNone then none else data)) := by
  have hmode : (firstSource s.cfgMode).isNone = false := by
    rw [← Option.not_isSome, hsource]
    rfl
  subst hs1
  change execImageStaging sfdp data s = _
  simp only [execImageStaging, hphase, hrefusal, hmode, himage, hready, Bool.not_true, Bool.or_self, ne_eq, not_true_eq_false, decide_false,
    Bool.false_eq_true, if_false, if_true]

/-- The early acre of the start-up image loads at once (R710). -/
theorem exec_earlyAcreLoad_of_empty {s : State} {im : Image} (himage : s.cfg.image = some im) (hphase : s.inPhase 5 6 = true)
    (hempty : s.acreState im.early = acEmpty) (hseg : im.segs.any (fun g => g.acre = im.early) = true) :
    exec .earlyAcreLoad s = .next ((s.loadStaged im.early).loadEnded im.early) := by
  change execEarlyAcreLoad s = _
  simp only [execEarlyAcreLoad, himage, hphase, hempty, hseg, decide_true, Bool.and_self, if_true]

/-- An acre on the list of a LOAD leaves the list and loads, once no lower acre of its die waits or loads (R709, R719). -/
theorem exec_acreLoadBegin_of_loads {acre : Fin 192} {s : State} {o : OpSt} (hsafe : s.safe = false) (hstaged : (s.stagedOf acre).isSome)
    (hphase : s.inPhase 6 6 = false) (hop : s.cfg.op = some o) (ho : o.op = 1) (hloads : o.phase = .loads) (hmem : acre.val ∈ o.acres)
    (hfree : s.ldcFree acre o.acres = true)
    (hst : s.acreState acre = acEmpty ∨ s.acreState acre = acIsolated ∨ s.acreState acre = acFailed) :
    exec (.acreLoadBegin acre) s =
      .next (((s.setOp { o with acres := o.acres.filter (· ≠ acre.val) }).loadStaged acre).loadEnded acre) := by
  have hnone : (s.stagedOf acre).isNone = false := by
    rw [← Option.not_isSome, hstaged]
    rfl
  have hmay : (s.acreState acre = acEmpty || s.acreState acre = acIsolated || s.acreState acre = acFailed) = true := by
    simpa [or_assoc] using hst
  change execAcreLoadBegin acre s = _
  simp only [execAcreLoadBegin, hnone, hphase, hop, ho, hloads, List.contains_iff_mem.2 hmem, hfree, hsafe, hmay, decide_true, Bool.not_false,
    Bool.and_self, Bool.false_eq_true, if_false, if_true]

/-- The next frame record of a load is taken; what follows the end of the load follows at once (R695-R698). -/
theorem exec_frameRecord_of_load {acre : Fin 192} {s : State} {l : LoadSt} (hsafe : s.safe = false) (hload : s.loadOf acre = some l) :
    exec (.frameRecord acre) s = .next
      (if ((s.frameRecord l).loadOf acre).isNone then (s.frameRecord l).loadEnded acre else s.frameRecord l) := by
  change execFrameRecord acre s = _
  simp only [execFrameRecord, hload, hsafe, Bool.false_eq_true, if_false]

/-! ### Release (R717, R718) -/

/-- Stage 1 comes to an acre that is due for it while its RCLK runs, and SAFE_N is then released (R717, R958). -/
theorem exec_stage1_of_due {acre : Fin 192} {s : State} {pl : Nat} (hsafe : s.safe = false) (hdue : acre.val ∈ s.cfg.due)
    (hclk : s.rclkRuns acre = true) (hpl : s.acrePlace (acre / 4) (acre % 4) = some pl) :
    exec (.stage1 acre) s = .next { ((s.dropDue acre).setAcre acre acReleasing).stage1 acre pl with
      rst := { (((s.dropDue acre).setAcre acre acReleasing).stage1 acre pl).rst with safeLow := false } } := by
  change execStage1 acre s = _
  simp only [execStage1, hsafe, List.contains_iff_mem.2 hdue, hclk, hpl, Bool.not_true, Bool.or_self, Bool.false_eq_true, if_false]

/-- Stage 2 follows stage 1 (R717). -/
theorem exec_stage2_of_ready {acre : Fin 192} {s : State} {pl : Nat} (hready : s.stageReady acre 1 = some pl) :
    exec (.stage2 acre) s = .next (s.setPlace pl { s.place pl with stage := 2 }) := by
  change execStage2 acre s = _
  simp only [execStage2, hready, State.stage2]

/-- A place reads as it was put. -/
theorem State.place_setPlace_same (s : State) (pl : Nat) (p : PlaceSt) : (s.setPlace pl p).place pl = p := mapGet_mapSet_same _ _ _ _

/-- A tile's GO changes neither registers nor the configuration master. -/
theorem State.tileGo_control (s : State) (site t : Nat) : (s.tileGo site t).control = s.control := by
  unfold State.tileGo
  dsimp only
  split <;> rfl

/-- A tile's GO leaves the places. -/
theorem State.tileGo_place (s : State) (site t pl : Nat) : (s.tileGo site t).place pl = s.place pl := by
  unfold State.tileGo
  dsimp only
  split <;> rfl

/-- The last stage starts the tiles with FGO: the place has stage 3, and neither registers nor the configuration master change. -/
theorem State.stage3_control_stage (s : State) (pl : Nat) : (s.stage3 pl).control = s.control ∧ ((s.stage3 pl).place pl).stage = 3 := by
  unfold State.stage3
  generalize hq : s.setPlace pl _ = q
  have hcontrol : q.control = s.control := by rw [← hq, State.setPlace_control]
  have hstage : (q.place pl).stage = 3 := by rw [← hq, State.place_setPlace_same]
  refine ⟨Eq.trans (foldl_keeps_value State.control (fun u t => ?_) _ q) hcontrol,
    (congrArg PlaceSt.stage (foldl_keeps_value (State.place · pl) (fun u t => ?_) _ q)).trans hstage⟩
  · dsimp only
    split
    · exact u.tileGo_control ..
    · rfl
  · dsimp only
    split
    · exact u.tileGo_place ..
    · rfl

/-- So it is for an acre whose state has been restored, where no tile starts (R725 step 8). -/
theorem State.stageLast_control_stage (s : State) (pl : Nat) :
    (s.stageLast pl).control = s.control ∧ ((s.stageLast pl).place pl).stage = 3 := by
  unfold State.stageLast
  split
  · exact ⟨s.setPlace_control .., by rw [State.place_setPlace_same]⟩
  · exact s.stage3_control_stage pl

/-- The reset of an acre has ended (R941). -/
def State.acreResetEnds (s : State) (la : Nat) : State :=
  { s with rst := { s.rst with running := s.rst.running.filter fun r => r ≠ ResetRun.acre la } }

theorem State.acreResetEnds_regs (s : State) (la : Nat) : (s.acreResetEnds la).regs = s.regs := (rfl)
theorem State.acreResetEnds_cfg (s : State) (la : Nat) : (s.acreResetEnds la).cfg = s.cfg := (rfl)

theorem State.acreResetEnds_not_running (s : State) (la : Nat) : ResetRun.acre la ∉ (s.acreResetEnds la).rst.running := by
  simp [State.acreResetEnds]

/-- With no operation running, the last stage makes the acre RUNNING and ends its reset. -/
theorem exec_stage3_of_ready {acre : Fin 192} {s : State} {pl : Nat} (hready : s.stageReady acre 2 = some pl) (hop : s.cfg.op = none) :
    exec (.stage3 acre) s = .next (((s.stageLast pl).setAcre acre acRunning).acreResetEnds acre) := by
  have hnone : (((s.stageLast pl).setAcre acre acRunning).acreResetEnds acre).cfg.op = none := by
    rw [State.acreResetEnds_cfg, State.setAcre_cfg, State.cfg_of_control (s.stageLast_control_stage pl).1, hop]
  rw [State.acreResetEnds] at hnone ⊢
  change execStage3 acre s = _
  simp only [execStage3, hready]
  rw [State.opTurn_of_noOp hnone, State.cfgPump_of_noOp hnone]

/-- With no operation running, an acre without RCLK fails with reason 14, and its reset ends (R718, R747). -/
theorem exec_noClock_of_stopped {acre : Fin 192} {s : State} (hsafe : s.safe = false) (hclk : s.rclkRuns acre = false)
    (hrelease : acre.val ∈ s.cfg.due ∨ s.acreState acre = acReleasing) (hop : s.cfg.op = none) :
    exec (.noClock acre) s = .next (((s.dropDue acre).acreFail acre 14 (acre * 16384)).acreResetEnds acre) := by
  have hwaits : (s.cfg.due.contains acre.val || s.acreState acre = acReleasing) = true := by
    simpa using hrelease
  have hnone : (((s.dropDue acre).acreFail acre 14 (acre * 16384)).acreResetEnds acre).cfg.op = none := by
    rw [State.acreResetEnds_cfg, State.acreFail_cfg]
    exact hop
  rw [State.acreResetEnds] at hnone ⊢
  change execNoClock acre s = _
  simp only [execNoClock, hsafe, hclk, hwaits, Bool.not_true, Bool.or_self, Bool.false_eq_true, if_false]
  rw [State.opTurn_of_noOp hnone, State.cfgPump_of_noOp hnone]

theorem State.dropDue_not_due (s : State) (la : Nat) : la ∉ (s.dropDue la).cfg.due := by
  simp [State.dropDue]

/-! ### Quiescence and the configuration check (R720, R721, R738) -/

/-- A quiescing acre with no transaction outstanding at its gates has quiesced (R720). -/
theorem exec_quiescenceEnd_of_quiet {acre : Fin 192} {s : State} (hsafe : s.safe = false) (hst : s.acreState acre = acQuiescing)
    (hquiet : s.gatesQuiet acre = true) : exec (.quiescenceEnd acre) s = .next (s.quiesced acre) := by
  change execQuiescenceEnd acre s = _
  simp only [execQuiescenceEnd, hsafe, hst, hquiet, decide_true, Bool.not_false, Bool.and_self, if_true]

/-- An acre that neither an operation nor a reset asked to quiesce is isolated. -/
theorem State.quiesced_of_noOp {s : State} {la : Nat} (hop : s.cfg.op = none) (hreset : ResetRun.acre la ∉ s.rst.running) :
    s.quiesced la = s.isolateAcre la := by
  have hcontains : s.rst.running.contains (.acre la) = false := by simpa using hreset
  simp only [State.quiesced, hop, hcontains, Bool.false_eq_true, if_false]

/-- A RUNNING acre whose frames no longer have the CRC of its segment is marked upset and flagged (R738, R746). -/
theorem exec_cfgCheck_of_upset {acre : Fin 192} {s : State} {pl : Nat} {r : Retained} (hpl : s.acrePlace (acre / 4) (acre % 4) = some pl)
    (hseg : s.retainedSeg acre = some r) (hen : s.bit CFG_CHECK_EN = true) (hst : s.acreState acre = acRunning)
    (hcrc : s.checkCrc pl ≠ r.seg.crc) :
    exec (.cfgCheck acre) s = .next ((s.setFld (CFG_ACRE_UPSET acre) 1).cfgFlag CFG_ERR_CFG_UPSET acre) := by
  change execCfgCheck acre s = _
  simp only [execCfgCheck, hpl, hseg, hen, hst, hcrc, ne_eq, not_false_eq_true, decide_true, Bool.and_self, if_true]

/-- Settles O22, command by command. -/
theorem acreCommandsAct : Obligations.AcreCommandsAct := by
  intro acre s sfdp data hsafe
  refine ⟨fun _ => exec_imageStaging_of_ready data, fun _ => exec_earlyAcreLoad_of_empty, fun _ => exec_acreLoadBegin_of_loads hsafe,
    fun _ => exec_frameRecord_of_load hsafe, fun _ => exec_stage1_of_due hsafe, fun _ => exec_stage2_of_ready,
    fun pl hready hop => ⟨_, exec_stage3_of_ready hready hop, ?running, ?stage, State.acreResetEnds_not_running _ _⟩,
    fun hclk hrelease hop => ⟨_, exec_noClock_of_stopped hsafe hclk hrelease hop, State.acreResetEnds_regs .., ?due⟩,
    fun hst hquiet => ⟨exec_quiescenceEnd_of_quiet hsafe hst hquiet, State.quiesced_of_noOp⟩, fun _ _ => exec_cfgCheck_of_upset⟩
  case running => exact State.acreState_setAcre _ _ (by decide)
  case stage => exact (s.stageLast_control_stage pl).2
  case due =>
    rw [State.acreResetEnds_cfg, State.acreFail_cfg]
    exact s.dropDue_not_due acre

end Sys2Proof.Machine
end

section
/-! PROOFS. Steps (the model's queue): which command a step runs, and that no command adds to the queue, takes from it, or leaves the register
store in another than its canonical form. -/

namespace Sys2Proof.Machine

open Sys2Proof

/-- A step takes the front command off the queue and keeps the register store canonical. -/
theorem step_pending_regsOk {s t : State} (h : step s = .next t) : t.pending = s.pending.tail ∧ (s.regsOk = true → t.regsOk = true) := by
  cases hq : s.pending with
  | nil =>
    obtain rfl := Host.Outcome.next.inj ((step_nil hq).symm.trans h)
    exact ⟨hq, id⟩
  | cons c rest =>
    obtain ⟨hqueue, hregs⟩ := exec_keeps ((step_cons hq).symm.trans h)
    exact ⟨hqueue, hregs⟩

/-- Settles O4: the queue left is the tail of the one before, and a tail of well-formed commands is well-formed. -/
theorem everyStepTakesOneCommand : Obligations.EveryStepTakesOneCommand := by
  intro s t h
  have hqueue : t.pending = s.pending.tail := (step_pending_regsOk h).1
  refine ⟨hqueue, fun hs => ?_⟩
  rw [State.queueOk, List.all_eq_true] at hs ⊢
  rw [hqueue]
  exact fun c hc => hs c (List.mem_of_mem_tail hc)

/-- Settles O5: an idle step changes nothing, and every command keeps the canonical form. -/
theorem registerStoreStaysCanonical : Obligations.RegisterStoreStaysCanonical := fun _ _ hs h => (step_pending_regsOk h).2 hs

/-- Settles O1: `step` matches on the queue. -/
theorem stepRunsFrontCommand : Obligations.StepRunsFrontCommand := fun _ _ _ => step_cons rfl

/-- Settles O2. -/
theorem idleStepChangesNothing : Obligations.IdleStepChangesNothing := fun _ => step_nil

end Sys2Proof.Machine
end

section
/-! PROOFS. The commands of the management controller (spec/12, R774-R791): each, when it stands first and the MC runs, leaves the queue, does
what its row of R788 says, and is answered. -/

namespace Sys2Proof.Machine

open Sys2Proof

/-! ### The front command (R774, R775) -/

/-- A front command whose meaning ends with a final reply leaves the queue and is answered with it. -/
theorem next_cmdRun_of_final {s u : State} {op st : Nat} {w : Waiting} {res : List Word} {f : Waiting → State → CmdEnd × State}
    (h : s.front op = some w) (hf : f w s.popWaiting = (.final st res, u)) :
    (.next (s.cmdRun op f) : Host.Outcome State Fault Refusal) = .next (u.answerTo w st res) := by
  rw [State.cmdRun_of_front h, hf]

/-- A front command that only starts leaves the queue, is answered ACCEPTED, and runs. -/
theorem next_cmdAccept {s u : State} {op : Nat} {w : Waiting} {g : Waiting → State → State} (h : s.front op = some w)
    (hg : g w (s.acceptFront w) = u) : (.next (s.cmdAccept op g) : Host.Outcome State Fault Refusal) = .next u := by
  rw [State.cmdAccept_of_front h, hg]

/-! ### Queries (R788) -/

/-- With no reading valid PWR_STATUS shows 125 degrees. -/
theorem exec_pwrStatus_of_noTemps {s t : State} {w : Waiting} (ht : t = s.popWaiting) (h : s.front 0x0501 = some w) (htemps : t.validTemps = []) :
    exec .pwrStatus s = .next (t.answerTo w 0
      [wordOf (t.fld PWR_MODE_MODE), t.csr PWR_REFUSE_CNT, t.csr PWR_REFUSER, t.csr PWR_PKG, 1250]) := by
  subst ht
  exact next_cmdRun_of_final h (by rw [htemps]; rfl)

/-- Settles O54: each query ends with a final reply on an unchanged state. -/
theorem queryCommandsReply : Obligations.QueryCommandsReply := by
  intro s t w ht
  refine ⟨?_, ?_, ?_, ?_, ?_, exec_pwrStatus_of_noTemps ht, ?_, ?_, ?_, ?_⟩
  all_goals
    subst ht
    exact fun h => next_cmdRun_of_final h rfl

/-! ### Configuration (R706, R719-R741) -/

/-- A chunk of a pushed image that is not complete joins the chunks before it (R706). -/
theorem exec_cfgData_of_front {s : State} {w : Waiting} (h : s.front 0x0201 = some w) (hend : s.cfg.pushEnd = false) :
    exec .cfgData s = .next (State.answerTo { s.popWaiting with cfg := { s.cfg with
      pushed := (argBytes w.args 1 252).zipIdx.foldl (fun m b => mapSet m 0 (argAt w.args 0 % 2 ^ 28 + b.2) b.1) s.cfg.pushed,
      pushEnd := argAt w.args 0 / 2 ^ 31 = 1 } } w 0 []) := by
  have hold : (if s.popWaiting.cfg.pushEnd then [] else s.popWaiting.cfg.pushed) = s.cfg.pushed :=
    if_neg (Bool.eq_false_iff.1 hend)
  refine next_cmdRun_of_final h ?_
  rw [hold]
  rfl

/-- CFG_READBACK of an acre that is not loading starts (R737). -/
theorem exec_cfgReadback_of_front {s t : State} {w : Waiting} (h : s.front 0x0204 = some w)
    (ht : t = ((s.acceptFront w).setCsr CFG_ARG (wordOf (argAt w.args 0))).setCsr64 CFG_BUF (BitVec.ofNat 64 (argPair w.args 1)))
    (hload : t.acreState (argAt w.args 0) ≠ acLoading) : exec .cfgReadback s = .next (t.cfgGo 4 0x0204) := by
  subst ht
  exact next_cmdAccept h (if_neg hload)

/-- RETIRE_DIE retires the die's site before its operation runs (R735). -/
theorem exec_retireDie_of_front {s t : State} {w : Waiting} {site : Nat} (h : s.front 0x0206 = some w)
    (ht : t = (s.acceptFront w).setCsr CFG_ARG (wordOf (argAt w.args 0))) (hsite : t.siteOf (argAt w.args 0) = some site) :
    exec .retireDie s = .next ((t.retireSite site).cfgGo 6 0x0206) := by
  subst ht
  exact next_cmdAccept h (by simp only [hsite])

/-- Settles O55: the parameters are stored and the configuration master takes the operation. -/
theorem configCommandsStart : Obligations.ConfigCommandsStart := by
  intro s w
  exact ⟨fun h => next_cmdAccept h rfl, exec_cfgData_of_front, fun h => next_cmdAccept h rfl, fun h => next_cmdAccept h rfl,
    fun h => exec_cfgReadback_of_front h rfl, fun h => next_cmdAccept h rfl, fun _ h => exec_retireDie_of_front h rfl⟩

/-! ### Memory (R772, R777) -/

/-- A command of memory begins a transfer at stop 12 of H0. -/
theorem State.memStart_of_front {s : State} {op : Nat} {w : Waiting} (h : s.front op = some w) :
    s.memStart op = State.memPump { s.popWaiting with cmd := { s.popWaiting.cmd with
      xfer := some (w, Xfer.start (hubStop 0 12) (0x100 + tidOf w.tr) (op = 0x0301) w.dbg (argPair w.args 0) (argAt w.args 2)
        (if op = 0x0301 then (argBytes w.args 3 253).take (argAt w.args 2) else [])) } } := by
  simp only [State.memStart, h, decide_eq_true_eq]

/-- A reseal that the engine takes goes on after the ACCEPTED reply (R530). -/
theorem exec_resealRange_of_taken {s t : State} {w : Waiting} {h : Nat} (hfront : s.front 0x0303 = some w) (hh : argAt w.args 0 % 2 = h)
    (ht : t = ((s.acceptFront w).setCsr64 (MPE_RESEAL_BASE h) (BitVec.ofNat 64 (argPair w.args 1))).resealWrite h
      (wordOf (argAt w.args 0 / 2 % 16 + argAt w.args 0 / 32 % 64 * 16 + 0x400)))
    (hfree : (s.acceptFront w).bit (MPE_RESEAL_CTL_BUSY h) = false) (hbusy : t.bit (MPE_RESEAL_CTL_BUSY h) = true) :
    exec .resealRange s = .next t := by
  subst hh ht
  exact next_cmdAccept hfront (by simp only [hfree, hbusy, Bool.not_false, Bool.and_self, if_true])

/-- Settles O56, command by command. -/
theorem memoryAndRankCommandsRun : Obligations.MemoryAndRankCommandsRun := by
  intro s w
  refine ⟨fun h => congrArg Host.Outcome.next (State.memStart_of_front h), fun h => congrArg Host.Outcome.next (State.memStart_of_front h),
    fun v h hv => ?rank, fun _ _ => exec_resealRange_of_taken⟩
  case rank =>
    subst hv
    exact next_cmdRun_of_final h rfl

/-! ### Keys, rights and windows (R400, R505-R509, R555-R559) -/

/-- KEY_LOAD into a slot that no region uses succeeds if the blob unwraps. -/
theorem exec_keyLoad_of_free {s : State} {w : Waiting} {h slot : Nat} (hh : argAt w.args 0 % 2 = h) (hslot : argAt w.args 0 / 2 % 32 = slot)
    (hfront : s.front 0x0400 = some w) (hfree : s.popWaiting.slotBusy h slot = false) :
    exec .keyLoad s = .next (((s.popWaiting.keyLoad h slot (argBytes w.args 1 18)).2.keyCmdDone h slot 1).answerTo w
      (if (s.popWaiting.keyLoad h slot (argBytes w.args 1 18)).1 then 0 else stDenied) []) := by
  subst hh hslot
  exact next_cmdRun_of_final hfront (by simp only [hfree, Bool.false_eq_true, if_false, stOk])

/-- KEY_ERASE of a slot that no region uses empties it. -/
theorem exec_keyErase_of_free {s : State} {w : Waiting} {h slot : Nat} (hh : argAt w.args 0 % 2 = h) (hslot : argAt w.args 0 / 2 % 32 = slot)
    (hfront : s.front 0x0401 = some w) (hfree : s.popWaiting.slotBusy h slot = false) :
    exec .keyErase s = .next ((s.popWaiting.setKey h slot none).answerTo w 0 []) := by
  subst hh hslot
  exact next_cmdRun_of_final hfront (if_neg (Bool.eq_false_iff.1 hfree))

/-- KEY_GENERATE puts the drawn pair into a slot that no region uses and returns it wrapped. -/
theorem exec_keyGenerate_of_free {s : State} {w : Waiting} {h slot : Nat} (random : BitVec 512) (hh : argAt w.args 0 % 2 = h)
    (hslot : argAt w.args 0 / 2 % 32 = slot) (hfront : s.front 0x0402 = some w) (hfree : s.popWaiting.slotBusy h slot = false) :
    exec (.keyGenerate random) s = .next ((s.popWaiting.setKey h slot (some random)).answerTo w 0
      (packWords32 (kwWrap (s.popWaiting.kek (1 + h)) (bytesOf random 64)))) := by
  subst hh hslot
  exact next_cmdRun_of_final hfront (if_neg (Bool.eq_false_iff.1 hfree))

/-- FWL_WINDOW of a window whose enable is granted is answered OK (R399). -/
theorem exec_fwlWindow_of_granted {s t : State} {w : Waiting} {h : Nat} (hh : argAt w.args 0 % 2 = h) (hfront : s.front 0x0404 = some w)
    (ht : t = (s.popWaiting.setCsr64 (FWL_WIN_BASE h (argAt w.args 0 / 2)) (BitVec.ofNat 64 (argPair w.args 1) &&& 0xFFFFFFFFF000#64)).fwlWinWrite h
      (argAt w.args 0 / 2) (wordOf (argAt w.args 3)))
    (hgranted : (t.csr (FWL_WIN_CFG h (argAt w.args 0 / 2))).getLsbD 11 = true) : exec .fwlWindow s = .next (t.answerTo w 0 []) := by
  subst hh ht
  exact next_cmdRun_of_final hfront (by simp only [hgranted, Bool.not_true, Bool.and_false, Bool.false_eq_true, if_false, stOk])

/-- KEK_SET stores the key of a blob that unwraps, and denies another (R507). -/
theorem exec_kekSet_of_front {s : State} {w : Waiting} (hfront : s.front 0x040B = some w) :
    exec .kekSet s = .next (match kwUnwrap (bytesOf Config.deviceKey 32) (argBytes w.args 1 10) with
      | some k => State.answerTo { s.popWaiting with mem := { s.mem with
          keks := mapSet s.mem.keks 0 (argAt w.args 0) (BitVec.ofNat 256 (leNat k)) } } w 0 []
      | none => s.popWaiting.answerTo w stDenied []) := by
  cases hk : kwUnwrap (bytesOf Config.deviceKey 32) (argBytes w.args 1 10) with
  | none => exact next_cmdRun_of_final hfront (by rw [hk])
  | some k => exact next_cmdRun_of_final hfront (by rw [hk]; rfl)

/-- Settles O57, command by command. -/
theorem keyCommandsRun : Obligations.KeyCommandsRun := by
  intro s w random h slot hh hslot
  refine ⟨fun hfront hfree => ⟨_, _, rfl, exec_keyLoad_of_free hh hslot hfront hfree⟩, exec_keyErase_of_free hh hslot,
    exec_keyGenerate_of_free random hh hslot, fun hfront => next_cmdRun_of_final hfront rfl, fun _ => exec_fwlWindow_of_granted hh,
    fun t hfront ht => ?fence, exec_kekSet_of_front⟩
  case fence =>
    subst ht
    exact next_cmdAccept hfront rfl

/-! ### Debug authorization and image keys (R690, R792, R814-R817) -/

/-- DBG_CHALLENGE below 8 failures keeps the challenge and returns the nonce (R786, R816). -/
theorem exec_dbgChallenge_of_trusted {s : State} {w : Waiting} (nonce : BitVec 384) (hfront : s.front 0x0406 = some w) (hfails : s.cmd.fails < 8) :
    exec (.dbgChallenge nonce) s = .next ((s.popWaiting.setTr w.tr { s.popWaiting.tr w.tr with chal := some ⟨argAt w.args 0, nonce⟩ }).answerTo w 0
      (packWords32 (bytesOf nonce 48) ++ twoWords (s.popWaiting.csr64 (HUB_SERIAL 0)))) :=
  next_cmdRun_of_final hfront (if_neg hfails.not_ge)

/-- DBG_RESPONSE in time, signed with a key that is not revoked, sets the level (R792, R814-R816). -/
theorem exec_dbgResponse_of_signed {s : State} {w : Waiting} {key : DebugKey} {c : Challenge} {held : Nat} (hfront : s.front 0x0407 = some w)
    (hkey : key = mapGet s.cmd.keys DebugKey.blank (argAt w.args 0 / 256 % 16)) (hidx : argAt w.args 0 / 256 % 16 ≤ 3) (hpub : key.pub ≠ 0)
    (hvalid : key.revoked = false) (hchal : (s.popWaiting.tr w.tr).chal = some c)
    (hsigned : Config.ecdsaP384 (bytesOf key.pub 96) (s.popWaiting.challengeDigest c.nonce (argAt w.args 0 % 4) w.tr) (argBytes w.args 1 24) = true)
    (hheld : held = max (s.popWaiting.fld (CMD_AUTH_LEVEL w.tr)) (min 2 (min (argAt w.args 0 % 4) key.level))) :
    exec (.dbgResponse false) s = .next (((s.popWaiting.setTr w.tr { s.popWaiting.tr w.tr with chal := none }).setLevel w.tr held).answerTo w 0
      [wordOf held]) := by
  have hkeys : mapGet s.popWaiting.cmd.keys DebugKey.blank (argAt w.args 0 / 256 % 16) = key := hkey.symm
  refine next_cmdRun_of_final hfront ?_
  simp only [hkeys, hidx.not_gt, hpub, hvalid, hchal, hsigned, decide_false, Bool.or_self, Bool.false_eq_true, if_false, if_true, stOk, ← hheld]

/-- IMGKEY_PROGRAM stores a key that is blank (R690). -/
theorem exec_imgkeyProgram_of_blank {s : State} {w : Waiting} (hfront : s.front 0x0409 = some w)
    (hblank : mapGet s.cfg.imgKeys 0 (argAt w.args 0 % 4) = 0) :
    exec .imgkeyProgram s = .next (State.answerTo { s.popWaiting with cfg := { s.cfg with
      imgKeys := mapSet s.cfg.imgKeys 0 (argAt w.args 0 % 4) (BitVec.ofNat 384 (leNat (argBytes w.args 1 12))) } } w 0 []) :=
  next_cmdRun_of_final hfront (if_neg (not_not_intro hblank))

/-- IMGKEY_REVOKE revokes a key beside which another usable one stays (R690). -/
theorem exec_imgkeyRevoke_of_other {s : State} {w : Waiting} {j : Nat} (hj : j < 4) (hfront : s.front 0x040A = some w)
    (hother : j ≠ argAt w.args 0 % 4) (hkey : mapGet s.cfg.imgKeys 0 j ≠ 0) (hvalid : s.cfg.revoked.getLsbD j = false) :
    exec .imgkeyRevoke s = .next (State.answerTo { s.popWaiting with cfg := { s.cfg with
      revoked := s.cfg.revoked ||| BitVec.twoPow 4 (argAt w.args 0 % 4) } } w 0 []) := by
  have husable : (List.range 4).any (fun j => j ≠ argAt w.args 0 % 4 && mapGet s.cfg.imgKeys 0 j ≠ 0 && !s.cfg.revoked.getLsbD j) = true :=
    List.any_eq_true.2 ⟨j, List.mem_range.2 hj, by
      simp only [hother, hkey, hvalid, ne_eq, not_false_eq_true, decide_true, Bool.not_false, Bool.and_self]⟩
  exact next_cmdRun_of_final hfront (if_pos husable)

/-- Settles O58, command by command. -/
theorem debugAndImageKeyCommandsRun : Obligations.DebugAndImageKeyCommandsRun := by
  intro s w nonce
  exact ⟨exec_dbgChallenge_of_trusted nonce, fun _ _ _ => exec_dbgResponse_of_signed, fun hfront => next_cmdRun_of_final hfront rfl,
    exec_imgkeyProgram_of_blank, fun _ => exec_imgkeyRevoke_of_other⟩

/-! ### The log, power, history and the calendar (R788, R891-R902, R928-R930, R976, R995-R1001) -/

/-- GET_ERRLOG of a held record returns the count and its words (R976). -/
theorem exec_getErrlog_of_held {s : State} {w : Waiting} {e : ErrRec} (hfront : s.front 0x0101 = some w) (he : s.errs.log[argAt w.args 0]? = some e) :
    exec .getErrlog s = .next (s.popWaiting.answerTo w 0 (wordOf s.errs.log.length :: e.words)) := by
  have hrec : s.popWaiting.errs.log[argAt w.args 0]? = some e := he
  exact next_cmdRun_of_final hfront (by simp only [hrec]; rfl)

/-- PWR_MODE of a low-power mode writes MODE; the entry begins with the WFI that follows (R898, R901). -/
theorem exec_pwrMode_of_lowPower {s : State} {w : Waiting} (hfront : s.front 0x0500 = some w) (hmode : argAt w.args 0 % 4 ≠ 0) :
    exec .pwrMode s = .next ((s.acceptFront w).setFld PWR_MODE_MODE (argAt w.args 0 % 4)) :=
  next_cmdAccept hfront (if_neg hmode)

/-- RESET that is not refused is answered OK (R928, R930). -/
theorem exec_reset_of_granted {s : State} {w : Waiting} (hfront : s.front 0x0503 = some w)
    (hgranted : (s.popWaiting.resetAsk (argAt w.args 0) (argAt w.args 1)).2 = false) :
    exec .reset s = .next ((s.popWaiting.resetAsk (argAt w.args 0) (argAt w.args 1)).1.answerTo w 0 []) :=
  next_cmdRun_of_final hfront (by simp only [hgranted, Bool.false_eq_true, if_false, stOk])

/-- LT_READ of a record returns its words (R999). -/
theorem exec_ltRead_of_held {s : State} {w : Waiting} {r : List Word} (hfront : s.front 0x0600 = some w)
    (hr : s.popWaiting.ltRead (argAt w.args 0 % 256) (argAt w.args 0 / 256) = some r) : exec .ltRead s = .next (s.popWaiting.answerTo w 0 r) :=
  next_cmdRun_of_final hfront (by simp only [hr, stOk])

/-- REPAIR_CLEAR clears the bit of the field mask and writes the store (R34, R995). -/
theorem exec_repairClear_of_writable {s : State} {w : Waiting} (hfront : s.front 0x0602 = some w) (hro : s.lts.readOnly = false) :
    exec .repairClear s = .next (((s.popWaiting.setFieldMask (argAt w.args 0 % 8)
      (s.popWaiting.fieldMask (argAt w.args 0 % 8) &&& ~~~BitVec.twoPow 7 (argAt w.args 0 / 16 % 8))).ltsWrite 1).answerTo w 0 []) :=
  next_cmdRun_of_final hfront (if_neg (Bool.eq_false_iff.1 hro))

/-- Settles O59, command by command. -/
theorem logPowerAndCalendarCommandsRun : Obligations.LogPowerAndCalendarCommandsRun := by
  intro s w
  exact ⟨fun _ => exec_getErrlog_of_held, fun hfront => next_cmdRun_of_final hfront rfl, exec_pwrMode_of_lowPower,
    fun hfront => next_cmdRun_of_final hfront rfl, exec_reset_of_granted, fun _ => exec_ltRead_of_held, exec_repairClear_of_writable,
    fun hfront => next_cmdRun_of_final hfront rfl⟩

/-! ### Firmware, epochs and tests (R33, R983-R985, R995, R1003-R1015) -/

/-- FW_WRITE within the slot of a unit that is not PROVISIONAL stages the bytes (R1003, R1006). -/
theorem exec_fwWrite_of_within {s : State} {w : Waiting} (hfront : s.front 0x0700 = some w) (hunit : argAt w.args 0 < 10)
    (hstate : (s.popWaiting.fwUnit (argAt w.args 0)).state ≠ .provisional)
    (hlen : argAt w.args 1 + (argBytes w.args 2 251).length ≤ 0x200000) :
    exec .fwWrite s = .next (((s.popWaiting.slotPut (argAt w.args 0) (1 - (s.popWaiting.fwUnit (argAt w.args 0)).active) (argAt w.args 1)
      (argBytes w.args 2 251)).setFwUnit (argAt w.args 0) { s.popWaiting.fwUnit (argAt w.args 0) with state := .staged }).answerTo w 0 []) := by
  have hlow : ¬ 10 < argAt w.args 0 := by omega
  have hboard : ¬ argAt w.args 0 = 10 := by omega
  refine next_cmdRun_of_final hfront ?_
  simp only [hlow, hboard, hstate, hlen.not_gt, decide_false, Bool.or_self, Bool.false_eq_true, false_and, if_false, stOk]

/-- FW_ACTIVATE that is not refused makes the other slot active and provisional; a firmware unit restarts on it (R1007). -/
theorem exec_fwActivate_of_granted {s t : State} {w : Waiting} {u : Nat} (hfront : s.front 0x0701 = some w) (hu : argAt w.args 0 = u)
    (hro : (s.acceptFront w).lts.readOnly = false) (hgranted : (s.acceptFront w).activateRefused u = false)
    (ht : t = (((s.acceptFront w).setFwUnit u { (s.acceptFront w).fwUnit u with
      state := .provisional, active := 1 - ((s.acceptFront w).fwUnit u).active }).ltsWrite 2).setV2 true) :
    exec .fwActivate s = .next (if u = 10 then t.accDone 0x0701 stOk [] else t.fwRestart u) := by
  subst hu ht
  exact next_cmdAccept hfront (by simp only [hro, hgranted, Bool.false_eq_true, if_false])

/-- EPOCH_COMMIT with no unit failed or of an older epoch commits the provisional units (R1013). -/
theorem State.epochRun_commit_of_ready {t : State} (hhubs : t.rst.hubs = 0) (hro : t.lts.readOnly = false)
    (hunits : ∀ u < 10, (t.fwUnit u).state ≠ .failed ∧ ¬ t.slotEpoch u (t.fwUnit u).active < t.epochN) :
    t.epochRun true = (((State.mapUnits { t with lts := { t.lts with live := { t.lts.live with epoch := t.epochN } } }
      fun x => if x.state = .provisional then { x with state := .committed, committed := x.active } else x).ltsWrite 2).setV2 false).accDone
        0x0702 stOk [] := by
  have hready : ((List.range 10).any fun u => (t.fwUnit u).state = .failed || t.slotEpoch u (t.fwUnit u).active < t.epochN) = false :=
    List.any_eq_false.2 fun u hu => by
      obtain ⟨hstate, hepoch⟩ := hunits u (List.mem_range.1 hu)
      simp only [hstate, hepoch, decide_false, Bool.or_self, Bool.false_eq_true, not_false_eq_true]
  simp only [State.epochRun, State.epochCommit, hhubs, hro, hready, ne_eq, not_true_eq_false, Bool.false_eq_true, if_false, if_true]

/-- EPOCH_ROLLBACK while version 2 is accepted returns the provisional units to their committed slots (R1014). -/
theorem State.epochRun_rollback_of_v2 {t : State} (hhubs : t.rst.hubs = 0) (hro : t.lts.readOnly = false) (hv2 : t.cmd.v2 = true) :
    t.epochRun false = (((t.mapUnits fun x => if x.state = .provisional then
      { x with state := .committed, active := x.committed } else x).ltsWrite 2).setV2 false).accDone 0x0703 stOk [] := by
  simp only [State.epochRun, State.epochRollback, hhubs, hro, hv2, ne_eq, not_true_eq_false, Bool.not_true, Bool.false_eq_true, if_false]

/-- MIN_EPOCH_SET between the present values stores the epoch (R788). -/
theorem exec_minEpochSet_of_between {s : State} {w : Waiting} (hfront : s.front 0x0704 = some w)
    (hlo : s.popWaiting.fld CFG_EPOCH_MIN_EPOCH ≤ argAt w.args 0) (hhi : argAt w.args 0 ≤ s.popWaiting.fld CFG_EPOCH_IMG_EPOCH) :
    exec .minEpochSet s = .next ((s.popWaiting.setFld CFG_EPOCH_MIN_EPOCH (argAt w.args 0)).answerTo w 0 []) :=
  next_cmdRun_of_final hfront (by simp only [hlo.not_gt, hhi.not_gt, decide_false, Bool.or_self, Bool.false_eq_true, if_false, stOk])

/-- INJECT that is possible is answered OK (R983-R985). -/
theorem exec_inject_of_done {s u : State} {w : Waiting} (hfront : s.front 0x0800 = some w)
    (hdone : s.popWaiting.inject (argAt w.args 0) (argPair w.args 1) (argAt w.args 3 % 256) (argAt w.args 3 / 256) = .done u) :
    exec .inject s = .next (u.answerTo w 0 []) :=
  next_cmdRun_of_final hfront (by simp only [hdone, stOk])

/-- SELFTEST of a spare completes; a die that fails is retired (R33). -/
theorem exec_selftest_of_spare {s : State} {w : Waiting} (result : Word) (hfront : s.front 0x0801 = some w)
    (hspare : (s.acceptFront w).isSpare (argAt w.args 0) = true) :
    exec (.selftest result) s = .next (if result = 0 then (s.acceptFront w).accDone 0x0801 stOk []
      else ((s.acceptFront w).retireSite (argAt w.args 0)).accDone 0x0801 stHwFault [result]) :=
  next_cmdAccept hfront (by simp only [hspare, Bool.not_true, Bool.false_eq_true, if_false])

/-- Settles O60, command by command. -/
theorem firmwareAndTestCommandsRun : Obligations.FirmwareAndTestCommandsRun := by
  intro s w result _
  refine ⟨exec_fwWrite_of_within, fun _ _ => exec_fwActivate_of_granted, fun t hfront ht hhubs hro hunits => ?commit,
    fun t hfront ht hhubs hro hv2 => ?rollback, exec_minEpochSet_of_between, fun _ => exec_inject_of_done, exec_selftest_of_spare result⟩
  case commit => exact next_cmdAccept hfront (ht ▸ State.epochRun_commit_of_ready hhubs hro hunits)
  case rollback => exact next_cmdAccept hfront (ht ▸ State.epochRun_rollback_of_v2 hhubs hro hv2)

end Sys2Proof.Machine
end

section
/-! PROOFS. Semaphores and the error log (spec/13, R831-R835; spec/17, R969-R973): who acquires and releases a semaphore, and what a report does
to a full log. -/

namespace Sys2Proof.Machine

open Sys2Proof

/-! ### Semaphores (R831-R835) -/

theorem State.sem_setSem_same (s : State) (h n : Nat) (o : Option (BitVec 12)) : (s.setSem h n o).sem h n = o := mapGet_mapSet_same _ _ _ _

/-- A semaphore of the hub other than the one given is as before. -/
theorem State.sem_setSem_ne (s : State) {h n m : Nat} (o : Option (BitVec 12)) (hm : m ≠ n) : (s.setSem h n o).sem h m = s.sem h m :=
  mapGet_mapSet_ne _ _ _ _ (by omega)

theorem State.sem_of_cpu {s t : State} (hcpu : t.cpu = s.cpu) (h n : Nat) : t.sem h n = s.sem h n := by
  simp only [State.sem, hcpu]


/-- What a semaphore that is held reads as: GOT in bit 0, OWNER in bits 16 and up (R831). -/
theorem State.semWord_of_held {s : State} {h n : Nat} {o : BitVec 12} (mid : Nat) (ho : s.sem h n = some o) :
    ((s.semWord mid h n).setWidth 64).toNat % 2 = (decide (o.toNat = mid)).toNat ∧ ((s.semWord mid h n).setWidth 64).toNat / 65536 = o.toNat := by
  have hgot := Bool.toNat_le (decide (o.toNat = mid))
  have hhalted := Bool.toNat_le (s.midHalted o.toNat)
  have howner := o.isLt
  have hword : ((s.semWord mid h n).setWidth 64).toNat =
      (decide (o.toNat = mid)).toNat + 2 + 4 * (s.midHalted o.toNat).toNat + o.toNat * 65536 := by
    simp only [State.semWord, ho, BitVec.toNat_setWidth, BitVec.toNat_ofNat]
    omega
  omega

/-- A read of a semaphore that reaches it sends what it reads as, after the acquisition if there is one. -/
theorem exec_hubSemRead_of_reached {s : State} (mid : BitVec 12) {hub : Fin 2} {sem : Fin 64} (dbg : Bool) (hr : s.regReached (HUB_SEM hub sem) = true) :
    exec (.hubSemRead mid hub sem dbg) s = .next ((s.semRead mid.toNat hub sem dbg).2.send
      (.readback (HUB_SEM hub sem) ((s.semRead mid.toNat hub sem dbg).1.setWidth 64) dbg)) :=
  congrArg Host.Outcome.next (State.regRead_of_reached hr)

/-- A read by a functional master acquires a free semaphore (R831). -/
theorem State.semRead_of_free {s : State} (mid : BitVec 12) {h n : Nat} (hfree : s.sem h n = none) :
    s.semRead mid.toNat h n false = ((s.setSem h n (some mid)).semWord mid.toNat h n, s.setSem h n (some mid)) := by
  simp only [State.semRead, hfree, Option.isNone_none, Bool.not_false, Bool.and_self, if_true, BitVec.ofNat_toNat, BitVec.setWidth_eq]

/-- A read of a semaphore that is held changes nothing. -/
theorem State.semRead_of_held {s : State} (mid : Nat) {h n : Nat} {o : BitVec 12} (ho : s.sem h n = some o) (dbg : Bool) :
    s.semRead mid h n dbg = (s.semWord mid h n, s) := by
  simp only [State.semRead, ho, Option.isNone_some, Bool.false_and, Bool.false_eq_true, if_false]

/-- Settles O46, by whether the semaphore is free, one's own or another's. -/
theorem semaphoreReadAcquires : Obligations.SemaphoreReadAcquires := by
  intro s mid o hub sem hr
  have hread := exec_hubSemRead_of_reached mid false hr
  refine ⟨fun hfree => ?free, fun hown => ?own, fun ho hne => ?other⟩
  case free =>
    rw [State.semRead_of_free mid hfree] at hread
    refine ⟨_, _, hread, State.sem_setSem_same .., fun n _ hn => State.sem_setSem_ne _ _ hn, rfl, rfl, ?_⟩
    rw [(State.semWord_of_held mid.toNat (State.sem_setSem_same ..)).1, decide_eq_true rfl, Bool.toNat_true]
  case own =>
    rw [State.semRead_of_held mid.toNat hown] at hread
    refine ⟨_, _, hread, rfl, rfl, rfl, ?_⟩
    rw [(State.semWord_of_held mid.toNat hown).1, decide_eq_true rfl, Bool.toNat_true]
  case other =>
    rw [State.semRead_of_held mid.toNat ho] at hread
    obtain ⟨hgot, howner⟩ := State.semWord_of_held mid.toNat ho
    refine ⟨_, _, hread, rfl, rfl, rfl, ?_, howner⟩
    rw [hgot, decide_eq_false (mt BitVec.eq_of_toNat_eq hne), Bool.toNat_false]

/-- A write of a semaphore that reaches it is answered with its status. -/
theorem exec_hubSemWrite_of_reached {s : State} (mid : BitVec 12) {hub : Fin 2} {sem : Fin 64} (hr : s.regReached (HUB_SEM hub sem) = true) :
    exec (.hubSemWrite mid hub sem) s =
      .next ((s.semWrite mid.toNat hub sem).1.send (.wrote (HUB_SEM hub sem) (s.semWrite mid.toNat hub sem).2)) :=
  congrArg Host.Outcome.next (State.regWrite_of_reached hr)

theorem State.semForce_sem (s : State) (h n : Nat) (o : BitVec 12) : (s.semForce h n o false).sem h n = none := by
  unfold State.semForce
  exact (State.sem_of_cpu (State.setCsr_cpu ..) h n).trans (s.sem_setSem_same h n none)

theorem State.semForce_out (s : State) (h n : Nat) (o : BitVec 12) : (s.semForce h n o false).out = s.out := by
  unfold State.semForce
  exact State.setCsr_out ..

/-- A semaphore released without its owner's lease having run out is logged by its number and owner (R833). -/
theorem State.semForce_log (s : State) (h n : Nat) (o : BitVec 12) :
    (s.semForce h n o false).csr (HUB_SEM_LOG h) = BitVec.ofNat 32 (n + o.toNat * 65536 + 0x80000000) :=
  State.csr_setCsr_same _ _ _

/-- The owner releases its semaphore (R833). -/
theorem State.semWrite_of_owner {s : State} {mid : BitVec 12} {h n : Nat} (hown : s.sem h n = some mid) :
    s.semWrite mid.toNat h n = (s.setSem h n none, .ok) := by
  simp only [State.semWrite, hown, if_true]

/-- Level S releases another's semaphore, and logs it (R833). -/
theorem State.semWrite_of_levelS {s : State} {mid o : BitVec 12} {h n : Nat} (ho : s.sem h n = some o) (hne : o ≠ mid)
    (hs : s.levelS mid.toNat = true) : s.semWrite mid.toNat h n = (s.semForce h n o false, .ok) := by
  simp only [State.semWrite, ho, mt BitVec.eq_of_toNat_eq hne, hs, if_false, if_true]

/-- Another master releases nothing (R833). -/
theorem State.semWrite_of_other {s : State} {mid : BitVec 12} {h n : Nat} (hne : s.sem h n ≠ some mid) (hs : s.levelS mid.toNat = false) :
    s.semWrite mid.toNat h n = (s.setFld (HUB_CPU_ERR_SEM_BAD_REL h) 1, .errDenied) := by
  cases ho : s.sem h n with
  | none => simp only [State.semWrite, ho, hs, Bool.false_eq_true, if_false]
  | some o =>
    have homid : o.toNat ≠ mid.toNat := fun he => hne (ho.trans (congrArg some (BitVec.eq_of_toNat_eq he)))
    simp only [State.semWrite, ho, homid, hs, Bool.false_eq_true, if_false]

/-- Settles O47, by who writes. -/
theorem semaphoreWriteReleases : Obligations.SemaphoreWriteReleases := by
  intro s mid o hub sem hr
  have hwrite := exec_hubSemWrite_of_reached mid hr
  refine ⟨fun hown => ?owner, fun ho hne hs => ?levelS, fun hne hs => ?other⟩
  case owner =>
    rw [State.semWrite_of_owner hown] at hwrite
    exact ⟨_, hwrite, State.sem_setSem_same .., rfl, rfl⟩
  case levelS =>
    rw [State.semWrite_of_levelS ho hne hs] at hwrite
    exact ⟨_, hwrite, (State.sem_of_cpu (State.send_cpu ..) hub sem).trans (s.semForce_sem hub sem o), (State.send_csr ..).trans (s.semForce_log hub sem o),
      (State.send_out ..).trans (congrArg (· ++ _) (s.semForce_out hub sem o))⟩
  case other =>
    rw [State.semWrite_of_other hne hs] at hwrite
    exact ⟨_, hwrite, rfl, State.bit_setFld_one _ rfl, rfl⟩

/-! ### A full error log (R971) -/

/-- The first record of a lower severity is the one taken out. -/
theorem dropBelow_of_first {sev : Nat} {before after : List ErrRec} {x : ErrRec} (hbefore : ∀ y ∈ before, sev ≤ y.sev) (hx : x.sev < sev) :
    dropBelow sev (before ++ x :: after) = some (before ++ after) := by
  induction before with
  | nil => exact if_pos hx
  | cons y ys ih =>
    obtain ⟨hy, hys⟩ := List.forall_mem_cons.1 hbefore
    simp only [List.cons_append, dropBelow, hy.not_gt, if_false, ih hys, Option.map_some]

theorem dropBelow_of_none_below {sev : Nat} {log : List ErrRec} (h : ∀ y ∈ log, sev ≤ y.sev) : dropBelow sev log = none := by
  induction log with
  | nil => rfl
  | cons y ys ih =>
    obtain ⟨hy, hys⟩ := List.forall_mem_cons.1 h
    simp only [dropBelow, hy.not_gt, if_false, ih hys, Option.map_none]

/-- A report that is neither masked nor joined to the newest record of a full log takes the place of a less severe one, or is lost. -/
theorem State.collect_of_full {s : State} {e n : ErrRec} (hfull : s.errs.log.length = 512) (hlast : s.errs.log.getLast? = some n)
    (hmask : ¬ (e.sev = sevCorrected ∧ (s.csr64 HUB_ERR_CMASK).getLsbD e.block = true))
    (hnew : ¬ (n.block = e.block ∧ n.unit = e.unit ∧ n.code = e.code ∧ n.addr = e.addr)) :
    (∀ log, dropBelow e.sev s.errs.log = some log → s.collect e = s.putRecord e log) ∧
      (dropBelow e.sev s.errs.log = none → s.collect e = (s.satInc HUB_ERR_STAT_LOST_CNT).setFld HUB_ERR_PEND_LOST 1) := by
  have hjoin : ¬ (n.block = e.block ∧ n.unit = e.unit ∧ n.code = e.code ∧ n.addr = e.addr ∧
      s.errs.lastAppend.any (fun l => decide (s.now < l + 1000000)) = true) :=
    fun ⟨hblock, hunit, hcode, haddr, _⟩ => hnew ⟨hblock, hunit, hcode, haddr⟩
  have hroom : ¬ s.errs.log.length < 512 := hfull.not_lt
  constructor
  · intro log hdrop
    simp only [State.collect, hmask, hlast, hjoin, hroom, hdrop, if_false]
  · intro hdrop
    simp only [State.collect, hmask, hlast, hjoin, hroom, hdrop, if_false]

/-- A new record stands last in the log. -/
theorem State.putRecord_log (s : State) (e : ErrRec) (log : List ErrRec) :
    (s.putRecord e log).errs.log = log ++ [{ e with seq := (s.csr HUB_ERR_NEXT_SEQ).toNat }] := (rfl)

/-- Settles O52, by whether a record of a lower severity is held. -/
theorem fullErrorLogReplaces : Obligations.FullErrorLogReplaces := by
  intro s e n hfull hlast hmask hnew
  obtain ⟨hput, hlose⟩ := State.collect_of_full hfull hlast hmask hnew
  refine ⟨fun before x after hlog hbefore hx => ?replaced, fun hbelow => ?lost⟩
  case replaced =>
    rw [hput _ (hlog ▸ dropBelow_of_first hbefore hx), State.putRecord_log]
    refine ⟨_, rfl, ?_⟩
    rw [hlog, List.length_append, List.length_cons] at hfull
    simp only [List.length_append, List.length_cons, List.length_nil]
    omega
  case lost =>
    rw [hlose (dropBelow_of_none_below hbelow)]
    refine ⟨rfl, State.bit_setFld_one _ rfl, ?_⟩
    rw [State.fld_setFld_ne _ _ (by decide), State.fld_satInc_same _ (by decide)]

end Sys2Proof.Machine
end

section
/-! PROOFS. Start-up (spec/16, R942-R951): how the phases SP0 to SP7 end when their work succeeds, and what the end of SP7 leaves. -/

namespace Sys2Proof.Machine

open Sys2Proof

/-! ### Sources and self-tests (SP0-SP2: R853-R855, R889, R947-R949) -/

/-- SP0 ends with both RC oscillators ready. -/
theorem exec_sp0_of_phase {s : State} (us : BitVec 24) (hphase : s.startPhase 0 = true) :
    exec (.sp0 us) s = .next (((s.setFld (CLK_STAT_RC_READY 0) 1).setFld (CLK_STAT_RC_READY 1) 1).phaseEnd 0 us) := by
  change execSp0 us s = _
  simp only [execSp0, hphase, if_true]

/-- SP1 ends with every source and rail good; without AO_XTAL the AO domain runs on its RC oscillator. -/
theorem exec_sp1_of_good {s : State} {f : Sp1Find} (us : BitVec 24) (hphase : s.startPhase 1 = true) (href : f.refReady = 3) (hiosc : f.iosc = 3)
    (hplls : f.plls = true) (hrails : f.rails = true) : exec (.sp1 f us) s = .next
      (if f.xtal then (s.showSources f).phaseEnd 1 us else ((s.showSources f).phaseEnd 1 us).aoOnRc) := by
  change execSp1 f us s = _
  simp only [execSp1, hphase, href, hiosc, hplls, hrails, Bool.not_true, Bool.false_eq_true, and_self, if_false, if_true]

/-- SP2 ends with good self-tests, a repair map, firmware for both MCs and a board configuration record. -/
theorem exec_sp2_of_good {s s0 s3 s5 s6 : State} {f : Sp2Find} (us : BitVec 24) (hphase : s.startPhase 2 = true) (hmbist : f.mbist = 0)
    (hlbist : f.lbist = 0) (hsram : f.sram = 0) (hs0 : s0 = (s.setCsr64 RST_BIST_SITES 0).setFld CFG_STAT_CFG_MODE f.mode.toNat)
    (hmap : s0.mapLost f.sectors = false) (hs3 : s3 = ((s0.readStore f.sectors).bootUnits f.slots).bistHubs 0) (hfw0 : 0 ∉ s3.rst.noFw)
    (hfw1 : 1 ∉ s3.rst.noFw) (hbcr : s3.bcrOk 0 = true) (hs5 : s5 = s3.chooseBcr)
    (hs6 : s6 = (if s5.rst.powerOn then s5.setBit WDT_SAFE_CTL_EN (s5.bit WDT_SAFE_CTL_EN || s5.rst.wdtFuse) else s5).watchWake) :
    exec (.sp2 f us) s = .next
      (((State.phaseEnd { s6 with cfg := { s6.cfg with tried := (firstSource s6.cfgMode).getD 0 } } 2 us).storeReady).flushFatals.mcServe) := by
  have hnone0 : s3.rst.noFw.contains 0 = false := by simpa using hfw0
  have hnone1 : s3.rst.noFw.contains 1 = false := by simpa using hfw1
  have hgood : f.mbist ||| (if s.rst.powerOn then f.lbist else 0) = 0 := by
    rw [hmbist, hlbist, ite_self]
    rfl
  have hsramOk : ¬ (s.rst.powerOn = true ∧ f.sram ≠ 0) := fun h => h.2 hsram
  change execSp2 f us s = _
  simp only [execSp2, hphase, ← hs0, hmap, hgood, ← hs3, hnone0, hnone1, hsramOk, hbcr, ← hs5, ← hs6, Bool.not_true, Bool.false_and,
    Bool.or_self, Bool.false_eq_true, ne_eq, not_true_eq_false, if_false]

/-! ### Sites and rings (SP3, SP4: R20-R37, R948-R951) -/

/-- SP3 with matching sites closes the rings, and ends or, where a ring or the spine link is cut, stops in SAFE with reason 16. -/
theorem exec_sp3_of_matching {s : State} {f : Sp3Find} (us : BitVec 24) (hphase : s.startPhase 3 = true) (hmatch : s.siteMismatch f = false)
    (hports : s.portsBad f = 0) (hislands : f.islands = 0) (hcut : f.cut = 0) (hrows : ∀ row < 4, adjacentFailed row s.tiFailed = false) :
    exec (.sp3 f us) s = .next
      (if s.closeRings.fld (LNK_STAT_STATE 128) = 6 ∨ ((List.range 4).any fun row => s.closeRings.pathCut row s.closeRings.tiFailed) = true then
        s.closeRings.enterSafe 16 else ((s.closeRings.applyMap f).formCaps.takeBcr).phaseEnd 3 us) := by
  have hnone : ((List.range 4).any fun row => adjacentFailed row s.tiFailed) = false :=
    List.any_eq_false.2 fun row hrow => Bool.eq_false_iff.1 (hrows row (List.mem_range.1 hrow))
  change execSp3 f us s = _
  simp only [execSp3, hphase, hmatch, hports, hislands, hcut, hnone, Bool.not_true, Bool.false_eq_true, ne_eq, not_true_eq_false, decide_false,
    Bool.or_false, Bool.or_eq_true, decide_eq_true_eq, if_false, if_true]

/-- SP4 ends when no logic site fails. -/
theorem exec_sp4_of_good {s : State} {fails : DWord} (us : BitVec 24) (hphase : s.startPhase 4 = true) (hgood : s.logicBad fails = []) :
    exec (.sp4 fails us) s = .next (s.phaseEnd 4 us) := by
  change execSp4 fails us s = _
  simp only [execSp4, hphase, hgood, List.isEmpty_nil, Bool.not_true, Bool.false_eq_true, if_false, if_true]

/-! ### Memory and the image (SP5-SP7: R703-R712, R944, R945) -/

/-- SP5 ends with the memory of both hubs trained, and start-up goes on where an image has a source. -/
theorem exec_sp5_of_trained {s : State} {chans : Vector ChanTrain 4} {ports : Vector CxlTrain 4} {r0 r1 : State × Bool} (us : BitVec 24)
    (hphase : s.startPhase 5 = true)
    (hr0 : r0 = (if s.rst.powerOn then s.zeroMpe else s).trainHub 0 #v[chans[0], chans[1]] #v[ports[0], ports[1]]) (hgood0 : r0.2 = false)
    (hr1 : r1 = r0.1.trainHub 1 #v[chans[2], chans[3]] #v[ports[2], ports[3]]) (hgood1 : r1.2 = false)
    (hsource : (firstSource (r1.1.phaseEnd 5 us).cfgMode).isSome = true) : exec (.sp5 chans ports us) s = .next (r1.1.phaseEnd 5 us) := by
  change execSp5 chans ports us s = _
  simp only [execSp5, hphase, ← hr0, ← hr1, hgood0, hgood1, hsource, Bool.not_true, Bool.or_self, Bool.false_eq_true, if_false, if_true]

/-- SP6 ends when every segment of an image that is not strict is loaded. -/
theorem exec_sp6_of_loaded {s : State} {im : Image} (us : BitVec 24) (hphase : s.startPhase 6 = true) (hrefusal : s.cfg.refusal = 0)
    (himage : s.cfg.image = some im) (hloaded : s.imageLoaded im = true) (hlax : im.strict = false) :
    exec (.sp6 us) s = .next (s.phaseEnd 6 us) := by
  change execSp6 us s = _
  simp only [execSp6, hphase, hrefusal, himage, hloaded, hlax, Bool.not_true, Bool.false_and, Bool.false_eq_true, ne_eq, not_true_eq_false, if_false]

/-- What SP7 forgets of the image it has released. -/
def State.dropStaged (s : State) : State := { s with cfg := { s.cfg with staged := [], stagedLines := [] } }

theorem State.dropStaged_regs (s : State) : s.dropStaged.regs = s.regs := (rfl)

/-- SP7 ends start-up when every acre is released (R712). -/
theorem exec_sp7_of_released {s : State} (us : BitVec 24) (hphase : s.startPhase 7 = true)
    (hreleased : ∀ la < 192, s.acreState la ≠ acLoaded ∧ s.acreState la ≠ acReleasing) :
    exec (.sp7 us) s = .next (s.phaseEnd 7 us).dropStaged.startDone := by
  have hloaded : (List.range 192).filter (fun la => s.acreState la = acLoaded) = [] :=
    List.filter_eq_nil_iff.2 fun la hla => by simpa using (hreleased la (List.mem_range.1 hla)).1
  have hreleasing : ((List.range 192).any fun la => s.acreState la = acReleasing) = false :=
    List.any_eq_false.2 fun la hla => by simpa using (hreleased la (List.mem_range.1 hla)).2
  change execSp7 us s = _
  simp only [execSp7, hphase, hloaded, hreleasing, List.isEmpty_nil, Bool.not_true, Bool.false_eq_true, if_false]
  rfl

/-- Settles O23, phase by phase. -/
theorem startupPhasesEnd : Obligations.StartupPhasesEnd := by
  intro s us
  exact ⟨exec_sp0_of_phase us, fun _ => exec_sp1_of_good us, fun _ _ _ _ _ => exec_sp2_of_good us, fun _ => exec_sp3_of_matching us,
    fun _ => exec_sp4_of_good us, fun _ _ _ _ hphase hr0 hgood0 hr1 hgood1 => exec_sp5_of_trained us hphase hr0 hgood0 hr1 hgood1,
    fun _ => exec_sp6_of_loaded us,
    fun hphase hreleased => ⟨_, exec_sp7_of_released us hphase hreleased, State.dropStaged_regs _⟩⟩

/-! ### The running device (R942) -/

/-- Start-up is over in STATE 1 and PHASE 8. -/
theorem State.startDone_reads (s : State) : s.startDone.fld RST_STAT_STATE = 1 ∧ s.startDone.fld RST_STAT_PHASE = 8 := by
  unfold State.startDone
  constructor
  · rw [State.fld_setFld_apart _ _ (by decide) (by decide), State.fld_setFld_same _ _ _ (by decide)]
    rfl
  · rw [State.fld_setFld_same _ _ _ (by decide)]
    rfl

/-- It writes RST_STAT alone. -/
theorem State.startDone_fld_ne (s : State) {g : Fld} (hg : g.key ≠ RST_STAT) : s.startDone.fld g = s.fld g :=
  ((s.setFld RST_STAT_STATE 1).fld_setFld_ne 8 hg).trans (s.fld_setFld_ne 1 hg)

/-- The end of a phase shows its time. -/
theorem State.phaseEnd_ptime (s : State) {n : Nat} (us : BitVec 24) (hn : RST_PTIME n ≠ RST_STAT) :
    (s.phaseEnd n us).fld (RST_PTIME_US n) = us.toNat := by
  unfold State.phaseEnd
  rw [State.fld_setFld_ne _ _ hn, State.fld_setFld_same _ _ _ (show 0 + 24 ≤ 32 by decide)]
  exact Nat.mod_eq_of_lt us.isLt

/-- No register of an acre is one of start-up's. -/
theorem cfgAcre_lt_rstStat {la : Nat} (hla : la < 192) : CFG_ACRE la < RST_STAT := by
  simp only [CFG_ACRE, RST_STAT]
  omega

/-- The end of a phase changes no acre. -/
theorem State.phaseEnd_acreState (s : State) {n la : Nat} (us : BitVec 24) (hla : la < 192) : (s.phaseEnd n us).acreState la = s.acreState la := by
  have hlt := cfgAcre_lt_rstStat hla
  have htime : CFG_ACRE la ≠ RST_PTIME n := by
    simp only [CFG_ACRE, RST_PTIME]
    omega
  exact ((s.setFld (RST_PTIME_US n) us.toNat).fld_setFld_ne _ hlt.ne).trans (s.fld_setFld_ne _ htime)

/-- Settles O24: the end of SP7 writes the two fields of RST_STAT and the time of the phase. -/
theorem startDoneMeansRunning : Obligations.StartDoneMeansRunning := by
  intro s us hphase hreleased
  obtain ⟨hstate, hdone⟩ := (s.phaseEnd 7 us).dropStaged.startDone_reads
  have hstaged (g : Fld) : (s.phaseEnd 7 us).dropStaged.fld g = (s.phaseEnd 7 us).fld g := State.fld_of_regs (State.dropStaged_regs _) g
  refine ⟨_, exec_sp7_of_released us hphase hreleased, hstate, hdone, ?time, fun la hla => ?acre, ?safe⟩
  case time => rw [State.startDone_fld_ne _ (by decide), hstaged, State.phaseEnd_ptime _ _ (by decide)]
  case acre =>
    rw [State.acreState, State.startDone_fld_ne _ (cfgAcre_lt_rstStat hla).ne, hstaged, ← State.acreState, State.phaseEnd_acreState _ _ hla]
  case safe => rw [State.safe, hstate]; rfl

end Sys2Proof.Machine
end

section
/-! PROOFS. Reports, the lifetime store, the calendar and firmware units (spec/17, R967-R971; spec/18, R989-R1021): what their commands do. -/

namespace Sys2Proof.Machine

open Sys2Proof

/-! ### Reports in flight (R967-R971) -/

/-- A report that the collector takes is no longer held by its block and joins the log. -/
theorem exec_errorReport_of_taken {s : State} {block : Byte} {unit : BitVec 12} {code : Half} {r : Report}
    (hr : s.errs.reports.find? (fun r => r.isOf block.toNat unit.toNat code.toNat && r.inFlight) = some r) (hruns : s.collectorRuns = true) :
    exec (.errorReport block unit code true) s = .next (State.collectCounted { s with errs := { s.errs with
      reports := s.errs.reports.filter fun x => !(x.isOf block.toNat unit.toNat code.toNat && x.inFlight) } } r.entry) := by
  change execErrorReport block unit code true s = _
  simp only [execErrorReport, hr, hruns, Bool.and_self, if_true]

/-- A report of the event after it is sent again: it is in flight. -/
def Report.resent (block unit code : Nat) (x : Report) : Report := if x.isOf block unit code then { x with inFlight := true } else x

theorem Report.resent_inFlight {block unit code : Nat} {x : Report} (h : (x.resent block unit code).isOf block unit code = true) :
    (x.resent block unit code).inFlight = true := by
  unfold Report.resent at h ⊢
  split
  · rfl
  · rename_i hother
    rw [if_neg hother] at h
    exact absurd h hother

/-- A report that waits is sent again (R968). -/
theorem exec_errorReportResend_eq (s : State) (block : Byte) (unit : BitVec 12) (code : Half) :
    exec (.errorReportResend block unit code) s = .next { s with errs := { s.errs with
      reports := s.errs.reports.map (Report.resent block.toNat unit.toNat code.toNat) } } := (rfl)

/-! ### Recorded history (R989, R996-R998) -/

/-- A minute of operation counts, with the temperatures of the powered dies, outside PARK. -/
theorem exec_operatingMinute_of_awake {s : State} (hawake : s.rst.parked = false) : ∃ h : Map Word, exec .operatingMinute s = .next { s with
    rst := { s.rst with minutes := s.rst.minutes + 1 }
    lts := { s.lts with live := { s.lts.live with minutes := bumpWord s.lts.live.minutes, hist := h } } } :=
  ⟨_, congrArg Host.Outcome.next (if_neg (Bool.eq_false_iff.1 hawake))⟩

/-- Every 60 minutes the counts of volatile memory are written (R989). -/
theorem exec_ltsPeriodicWrite_of_due {s : State} (hdue : 60 ≤ s.rst.minutes) (hmc : s.mcRuns = true) : exec .ltsPeriodicWrite s =
    .next { countSectors.foldl (fun u lsn => u.ltsWrite lsn) s with
      rst := { (countSectors.foldl (fun u lsn => u.ltsWrite lsn) s).rst with minutes := 0 } } := by
  change execLtsPeriodicWrite s = _
  simp only [execLtsPeriodicWrite, hdue.not_gt, hmc, decide_false, Bool.not_true, Bool.or_self, Bool.false_eq_true, if_false]

/-- A powered die's aging reading is stored until the site has 120 of them (R998). -/
theorem exec_agingReading_of_room {s : State} {site : Fin 64} {die : Nat} (ratio temp : Half) (hdie : siteDie site = some die)
    (hawake : s.rst.parked = false) (hpower : s.diePowered die = true) (hroom : mapGet s.lts.live.agingN 0 site < 120) :
    exec (.agingReading site ratio temp) s = .next (State.ltsWrite { s with lts := { s.lts with live := { s.lts.live with
      aging := mapSet s.lts.live.aging 0 (128 * site + mapGet s.lts.live.agingN 0 site) (temp ++ ratio)
      agingN := mapSet s.lts.live.agingN 0 site (mapGet s.lts.live.agingN 0 site + 1) } } } (0xB + site / 8)) := by
  change execAgingReading site ratio temp s = _
  simp only [execAgingReading, hdie, hawake, hpower, hroom.not_ge, decide_false, Bool.not_true, Bool.or_self, Bool.false_eq_true, if_false]

/-! ### The calendar (R1000-R1002) -/

/-- The calendar as one number, in units of 2^-32 s. -/
def State.calTime (s : State) : Nat := s.rst.calSec.toNat * 2 ^ 32 + s.rst.calFrac.toNat

/-- A tick of AO_XTAL with no load waiting advances the calendar by 2^-15 s. -/
theorem exec_calTick_of_xtal {s : State} (hload : s.rst.calLoad = none) (hxtal : s.rst.onRc = false) : exec .calTick s =
    .next { s with rst := { s.rst with
      calSec := BitVec.ofNat 64 ((s.calTime + 131072) / 2 ^ 32), calFrac := BitVec.ofNat 32 (s.calTime + 131072) } } := by
  change execCalTick s = _
  simp only [execCalTick, hload, hxtal, Bool.false_eq_true, if_false, State.calTime]

/-- Seconds and fraction hold a number modulo 2^96. -/
theorem calendar_toNat (n : Nat) : (BitVec.ofNat 64 (n / 2 ^ 32)).toNat * 2 ^ 32 + (BitVec.ofNat 32 n).toNat = n % 2 ^ 96 := by
  rw [BitVec.toNat_ofNat, BitVec.toNat_ofNat]
  omega

/-! ### Firmware units and signature errors (R1009, R1021) -/

/-- A firmware unit that does not start returns to its committed slot, and FW_ACTIVATE ends with HW_FAULT (R1009). -/
theorem exec_noStart_of_restart {s : State} {u : Fin 10} (hu : s.rst.restart = some u.val) :
    exec (.noStart u) s = .next ((((s.setFwUnit u { s.fwUnit u with
      state := .failed, active := (s.fwUnit u).committed }).ltsWrite 2).accDone 0x0701 stHwFault [3]).fwStarted) :=
  congrArg Host.Outcome.next (if_pos hu)

/-- A write of LDC_SIG_ERR of a die that has power clears its flags (R1021). -/
theorem exec_ldcSigErrClear_of_powered {s : State} (mid : BitVec 12) {site : Fin 64} (value : Word) (hr : s.regReached (LDC_SIG_ERR site) = true)
    (hpower : s.siteGated site = false) :
    exec (.ldcSigErrClear mid site value) s = .next ((s.sigErrWrite site value).send (.wrote (LDC_SIG_ERR site) .ok)) :=
  congrArg Host.Outcome.next (State.regWrite_of_done hr (if_neg (Bool.eq_false_iff.1 hpower)))

/-- Settles O44, command by command. -/
theorem lifetimeAndReportCommandsAct : Obligations.LifetimeAndReportCommandsAct := by
  intro s block unit code mid value
  refine ⟨fun r hr hruns => ⟨_, exec_errorReport_of_taken hr hruns, rfl, rfl⟩,
    ⟨_, exec_errorReportResend_eq s block unit code, rfl, rfl, fun x hx hof => ?resent⟩, fun hawake => ?minute,
    fun hdue hmc => ⟨_, exec_ltsPeriodicWrite_of_due hdue hmc, rfl, rfl⟩,
    fun _ _ ratio temp hdie hawake hpower hroom => ⟨_, exec_agingReading_of_room ratio temp hdie hawake hpower hroom, rfl⟩,
    fun hload hxtal => ⟨_, exec_calTick_of_xtal hload hxtal, rfl, calendar_toNat _⟩,
    fun hs hr => congrArg Host.Outcome.next (levelSWrite_of_levelS hr hs), fun _ => exec_noStart_of_restart,
    fun _ => exec_ldcSigErrClear_of_powered mid value⟩
  case resent =>
    obtain ⟨y, _, rfl⟩ := List.mem_map.1 hx
    exact Report.resent_inFlight hof
  case minute =>
    obtain ⟨_, hexec⟩ := exec_operatingMinute_of_awake hawake
    exact ⟨_, hexec, rfl, rfl, rfl, rfl⟩

end Sys2Proof.Machine
end

section
/-! PROOFS. Clocks (spec/14, R851-R877): what the events of the clock monitors and the writes of the clock registers do. -/

namespace Sys2Proof.Machine

open Sys2Proof

/-! ### Bits of a mask by hub -/

/-- A bit that is cleared reads 0. -/
theorem getLsbD_and_not_twoPow {w : Nat} (m : BitVec w) (i : Nat) : (m &&& ~~~(BitVec.twoPow w i)).getLsbD i = false := by
  rw [BitVec.getLsbD_and, BitVec.getLsbD_not, BitVec.getLsbD_twoPow]
  by_cases hi : i < w <;> simp [hi]

/-- A bit that is set reads 1. -/
theorem getLsbD_or_twoPow {w : Nat} (m : BitVec w) {i : Nat} (hi : i < w) : (m ||| BitVec.twoPow w i).getLsbD i = true := by
  rw [BitVec.getLsbD_or, BitVec.getLsbD_twoPow]
  simp [hi]

/-! ### REFCLK and IOSC (R851, R865-R876) -/

/-- The second good window in a row, once SP1 has begun to end, makes REFCLK READY (R851). -/
theorem exec_refFreq_of_good {s : State} {hub : Fin 2} {edges : BitVec 16} (hiosc : s.bit (CLK_STAT_IOSC_READY hub) = true)
    (hawake : s.rst.parked = false) (hlo : s.fld (CLK_MON_LO hub) ≤ edges.toNat) (hhi : edges.toNat ≤ s.fld (CLK_MON_HI hub))
    (hphase : 2 ≤ s.fld RST_STAT_PHASE) (hbefore : 1 ≤ mapGet s.rst.windows 0 hub) : exec (.refFreq hub edges) s =
      .next (State.setFld { s with rst := { s.rst with windows := mapSet s.rst.windows 0 hub 2 } } (CLK_STAT_REF_READY hub) 1) := by
  have htwo : min (mapGet s.rst.windows 0 hub + 1) 2 = 2 := by omega
  change execRefFreq hub edges s = _
  simp only [execRefFreq, hiosc, hawake, hlo, hhi, htwo, hphase, Bool.not_true, Bool.or_self, Bool.false_eq_true, and_self, if_false, if_true]

/-- A window whose count is out of range is a REFCLK fault (R866). -/
theorem exec_refFreq_of_bad {s : State} {hub : Fin 2} {edges : BitVec 16} (hiosc : s.bit (CLK_STAT_IOSC_READY hub) = true)
    (hawake : s.rst.parked = false) (hbad : edges.toNat < s.fld (CLK_MON_LO hub) ∨ s.fld (CLK_MON_HI hub) < edges.toNat) :
    exec (.refFreq hub edges) s =
      .next (State.refFault { s with rst := { s.rst with windows := mapSet s.rst.windows 0 hub 0 } } hub (CLK_ERR_REF_FREQ hub) 4) := by
  have hrange : ¬ (s.fld (CLK_MON_LO hub) ≤ edges.toNat ∧ edges.toNat ≤ s.fld (CLK_MON_HI hub)) := by omega
  change execRefFreq hub edges s = _
  simp only [execRefFreq, hiosc, hawake, hrange, Bool.not_true, Bool.or_self, Bool.false_eq_true, if_false]

/-- IOSC is READY outside PARK, and a hub that waits for it moves to it (R868). -/
theorem exec_ioscReady_of_awake {s : State} (hub : Fin 2) (hawake : s.rst.parked = false) :
    exec (.ioscReady hub) s = .next ((s.setFld (CLK_STAT_IOSC_READY hub) 1).ioscSwitch hub) :=
  congrArg Host.Outcome.next (if_neg (Bool.eq_false_iff.1 hawake))

/-- A hub whose DDR5 was without refresh for too long shows it once (R871). -/
theorem exec_refreshLost_of_waiting {s : State} {hub : Fin 2} (hwait : s.rst.noRefresh.getLsbD hub = true) : exec (.refreshLost hub) s =
    .next (State.clkErr { s with rst := { s.rst with noRefresh := s.rst.noRefresh &&& ~~~(BitVec.twoPow 2 hub) } } hub (CLK_ERR_REFRESH_LOST hub)) :=
  congrArg Host.Outcome.next (if_pos hwait)

/-- In SAFE for a REFCLK fault, a hub that still waits for IOSC changes the reason to NO_CLOCK (R874). -/
theorem exec_noClockTimeout_of_waiting {s : State} {hub : Fin 2} (hsafe : s.safe = true) (hfault : s.rst.faulted.getLsbD hub = true)
    (hiosc : s.bit (CLK_STAT_IOSC_READY hub) = false) (hreason : s.reason = 3 ∨ s.reason = 4) :
    exec (.noClockTimeout hub) s = .next (((s.setFld RST_STAT_REASON 5).setFld RST_LAST_SAFE_REASON 5).fatal 5) := by
  have hdue : (s.reason = 3 || s.reason = 4) = true := by simpa using hreason
  change execNoClockTimeout hub s = _
  simp only [execNoClockTimeout, hsafe, hfault, hiosc, hdue, Bool.not_false, Bool.and_self, if_true]

/-- IOSC is no longer READY when its count is 8 % away (R876). -/
theorem exec_ioscCheck_of_off {s : State} {hub : Fin 2} {count : BitVec 32} (hclk : s.hubClocked 0 = true)
    (hiosc : s.bit (CLK_STAT_IOSC_READY hub) = true) (hoff : 97656 * 108 < count.toNat * 100 ∨ count.toNat * 100 < 97656 * 92) :
    exec (.ioscCheck hub count) s = .next ((s.setFld (CLK_STAT_IOSC_READY hub) 0).clkErr hub (CLK_ERR_IOSC_FAULT hub)) := by
  have hfar : (count.toNat * 100 < 97656 * 92 || 97656 * 108 < count.toNat * 100) = true := by simpa [or_comm] using hoff
  change execIoscCheck hub count s = _
  simp only [execIoscCheck, hclk, hiosc, hfar, Bool.and_self, if_true]

/-! ### AO_XTAL and CPLL (R851, R862, R877) -/

/-- AO_XTAL measures well again from the end of SP1 on, and in PARK. -/
theorem exec_xtalReady_of_monitored {s : State} (h : s.rst.parked = true ∨ 2 ≤ s.fld RST_STAT_PHASE) : exec .xtalReady s = .next (s.setXtal true) := by
  have hmon : (decide (2 ≤ s.fld RST_STAT_PHASE) || s.rst.parked) = true := by simpa [or_comm] using h
  exact congrArg Host.Outcome.next (if_pos hmon)

/-- The AO domain returns to AO_XTAL when that is READY. -/
theorem exec_xtalReturn_of_ready {s : State} (hready : s.bit (CLK_STAT_XTAL_READY 0) = true) (hrc : s.rst.onRc = true) :
    exec .xtalReturn s = .next (State.setFld { s with rst := { s.rst with onRc := false } } (CLK_STAT_AO_ON_RC 0) 0) := by
  change execXtalReturn s = _
  simp only [execXtalReturn, hready, hrc, Bool.and_self, if_true]

/-- A CPLL that locks again while REFCLK is READY shows its lock. -/
theorem exec_cpllLock_of_relock {s : State} {hub : Fin 2} (hrelock : s.rst.relock.getLsbD hub = true) (hready : s.bit (CLK_STAT_REF_READY hub) = true) :
    exec (.cpllLock hub) s =
      .next (State.setFld { s with rst := { s.rst with relock := s.rst.relock &&& ~~~(BitVec.twoPow 2 hub) } } (CLK_STAT_CPLL_LOCK hub) 1) := by
  change execCpllLock hub s = _
  simp only [execCpllLock, hrelock, hready, Bool.and_self, if_true]

/-- Settles O26, event by event. -/
theorem clockEventsAct : Obligations.ClockEventsAct := by
  intro hub s mid value count edges
  exact ⟨rfl, fun hiosc hawake hlo hhi hphase hbefore => ⟨_, exec_refFreq_of_good hiosc hawake hlo hhi hphase hbefore, rfl⟩, exec_refFreq_of_bad,
    exec_ioscReady_of_awake hub, fun hwait => ⟨_, exec_refreshLost_of_waiting hwait, rfl, getLsbD_and_not_twoPow _ _⟩,
    exec_noClockTimeout_of_waiting, exec_ioscCheck_of_off, fun hready => congrArg Host.Outcome.next (if_pos hready),
    exec_xtalReady_of_monitored, exec_xtalReturn_of_ready,
    fun hrelock hready => ⟨_, exec_cpllLock_of_relock hrelock hready, rfl, getLsbD_and_not_twoPow _ _⟩,
    fun hs hr => congrArg Host.Outcome.next (levelSWrite_of_levelS hr hs),
    fun hs hr => ⟨congrArg Host.Outcome.next (levelSWrite_of_levelS hr hs), congrArg Host.Outcome.next (levelSWrite_of_levelS hr hs)⟩⟩

end Sys2Proof.Machine
end

section
/-! PROOFS. Processors, debug and watchdogs (spec/13, R797-R844): ring requests of the cores, run control, the debug modules, halts, leases and
watchdogs. -/

namespace Sys2Proof.Machine

open Sys2Proof

/-! ### Ring requests of the cores (R800-R804) -/

/-- The completion of a core's request is taken while its hub answers. -/
theorem exec_coreRingAccess_finish {s : State} {core : Fin 8} (tag : BitVec 13) (hhub : s.hubAnswers (core.val / 4) = true) :
    exec (.coreRingAccess core (.finish tag)) s = .next (s.coreFinish core tag.toNat) := by
  change execCoreRingAccess core (.finish tag) s = _
  simp only [execCoreRingAccess, hhub, Bool.not_true, Bool.false_eq_true, if_false]

/-- A load, store or fetch of a running core goes out. -/
theorem exec_coreRingAccess_plain {s : State} {core : Fin 8} {op : CoreOp} (machine : Bool) (tag : BitVec 13) (addr : BitVec 48)
    (lenm1 : BitVec 8) (imm : DWord) (poison : Bool) (data : List DataFlit) (hhub : s.hubAnswers (core.val / 4) = true)
    (hruns : s.hartRuns core = true) (hop : op = .load ∨ op = .store ∨ op = .fetch) :
    exec (.coreRingAccess core (.issue op machine tag addr lenm1 imm poison data)) s =
      .next (s.coreIssue core (s.coreMid core machine) (coreOpc op (s.cacheable (core.val / 4) addr.toNat)) tag addr lenm1 imm poison data) := by
  have hkind : op ≠ .amo ∧ op ≠ .lr ∧ op ≠ .sc := by
    obtain rfl | rfl | rfl := hop <;> decide
  obtain ⟨hamo, hlr, hsc⟩ := hkind
  change execCoreRingAccess core (.issue op machine tag addr lenm1 imm poison data) s = _
  simp only [execCoreRingAccess, hhub, hruns, hamo, hlr, hsc, decide_false, Bool.or_self, Bool.false_and, Bool.not_true, Bool.false_eq_true, if_false]

/-- An AMO, LR or SC on an address that is not cacheable is an access fault (R803). -/
theorem exec_coreRingAccess_atomic {s : State} {core : Fin 8} {op : CoreOp} (machine : Bool) (tag : BitVec 13) {addr : BitVec 48}
    (lenm1 : BitVec 8) (imm : DWord) (poison : Bool) (data : List DataFlit) (hhub : s.hubAnswers (core.val / 4) = true)
    (hruns : s.hartRuns core = true) (hop : op = .amo ∨ op = .lr ∨ op = .sc) (hcache : s.cacheable (core.val / 4) addr.toNat = false) :
    exec (.coreRingAccess core (.issue op machine tag addr lenm1 imm poison data)) s = .next (s.send (.coreFault core)) := by
  have hatomic : (op = .amo || op = .lr || op = .sc) = true := by simpa [or_assoc] using hop
  change execCoreRingAccess core (.issue op machine tag addr lenm1 imm poison data) s = _
  simp only [execCoreRingAccess, hhub, hruns, hatomic, hcache, Bool.not_true, Bool.not_false, Bool.and_self, Bool.false_eq_true, if_false, if_true]

/-! ### Debug (R810-R828, R836) -/

/-- A permitted write reaches the debug module of a hub that answers (R812, R813). -/
theorem exec_dmiAccess_write {s : State} {hub : Fin 2} {addr : BitVec 12} {data : Word}
    (hmay : dmiPermitted s.jtagLevel true (addr.toNat % 0x400) data = true) (haddr : addr.toNat / 0x400 = hub.val) (hhub : s.hubAnswers hub = true) :
    exec (.dmiAccess true addr data) s = .next ((s.dmWrite hub (addr.toNat % 0x400) data).send (.dmi 0 0)) := by
  change execDmiAccess true addr data s = _
  simp only [execDmiAccess, hmay, haddr, hhub, hub.isLt.not_ge, decide_false, Bool.not_true, Bool.or_self, Bool.false_eq_true, if_false, if_true]

/-- The completion of a system bus access is taken (R836, R837). -/
theorem exec_sbaAccess_of_completed {s : State} {hub : Fin 2} {tag : Nat} {c : Delivered} {write : Bool} (hhub : s.hubAnswers hub = true)
    (htag : (s.dm hub).sbtag = some (tag, write)) (hc : s.inboxAt (hubStop hub 10) tag = some c) :
    exec (.sbaAccess hub) s = .next (s.sbaTake hub write c) := by
  change execSbaAccess hub s = _
  simp only [execSbaAccess, hhub, htag, hc, Bool.not_true, Bool.false_eq_true, if_false]

/-- An event of a trigger of type 3, 4 or 5 takes the trigger's action in a running hart (R818). -/
theorem exec_triggerFire_of_event {s : State} {core k : Fin 8} {t1 : DWord} (hruns : s.hartRuns core = true) (hgoes : (s.hart core).halted = false)
    (ht : ((s.hart core).trig k).1 = t1) (hlo : 3 ≤ bitsOf t1 60 4) (hhi : bitsOf t1 60 4 ≤ 5) :
    exec (.triggerFire core (.event k)) s = .next (s.trigAction core t1 (bitsOf t1 0 6)) := by
  change execTriggerFire core (.event k) s = _
  simp only [execTriggerFire, hruns, hgoes, ht, hlo, hhi, Bool.not_true, Bool.or_self, Bool.false_eq_true, and_self, if_false, if_true]

/-- A halted hart that is asked to resume resumes, with its group (R824, R830). -/
theorem exec_hartResume_of_asked {s : State} {hart : Fin 8} (hhalted : (s.hart hart).halted = true) (hasked : (s.hart hart).resumereq = true) :
    exec (.hartResume hart) s =
      .next ((s.setHart hart { s.hart hart with resumereq := false, resumeack := true }).resumeWithGroup hart) := by
  change execHartResume hart s = _
  simp only [execHartResume, hhalted, hasked, Bool.and_self, if_true]

/-! ### Semaphore leases and watchdogs (R834, R838-R844) -/

/-- A lease that runs out frees the semaphore of a halted owner and is flagged (R834). -/
theorem exec_semLease_of_halted {s : State} {hub : Fin 2} {sem : Fin 64} {o : BitVec 12} (ho : s.sem hub sem = some o)
    (hhub : s.hubAnswers hub = true) (hlease : s.fld (HUB_SEM_LEASE_LEASE_US hub) ≠ 0) (hhalted : s.midHalted o.toNat = true) :
    exec (.semLease hub sem) s = .next ((s.semForce hub sem o true).raise (HUB_CPU_ERR_SEM_LEASE hub) hub 0x01 (hubUnit hub) 0 sevUncorrected
      (s.csr64 (HUB_CPU_BERR_ADDR hub)) 0) := by
  change execSemLease hub sem s = _
  simp only [execSemLease, ho, hhub, hlease, hhalted, ne_eq, not_false_eq_true, decide_true, Bool.and_self, if_true]

/-- A core watchdog that counts and is not held expires at 0 (R839-R841). -/
theorem exec_coreWdtExpired_of_counting {s : State} {core : Fin 8} (hhub : s.hubAnswers (core.val / 4) = true) (hcounts : s.coreCounts core = true)
    (hheld : (s.hart core).wdtHeld = false) : exec (.coreWdtExpired core) s = .next (s.coreExpired core) := by
  change execCoreWdtExpired core s = _
  simp only [execCoreWdtExpired, hhub, hcounts, hheld, Bool.not_false, Bool.and_self, if_true]

/-- The safety watchdog stops the device outside PARK (R844, R909). -/
theorem exec_safeWdt_of_enabled {s : State} (hen : s.bit WDT_SAFE_CTL_EN = true) (hawake : s.rst.parked = false) :
    exec .safeWdt s = .next s.safeWdt := by
  change execSafeWdt s = _
  simp only [execSafeWdt, hen, hawake, Bool.not_false, Bool.and_self, if_true]

/-- Settles O32, command by command. -/
theorem processorCommandsAct : Obligations.ProcessorCommandsAct := by
  intro s hub core mid value
  refine ⟨fun tag => exec_coreRingAccess_finish tag,
    fun op machine tag addr lenm1 imm poison data hhub hruns => ⟨exec_coreRingAccess_plain machine tag addr lenm1 imm poison data hhub hruns,
      exec_coreRingAccess_atomic machine tag lenm1 imm poison data hhub hruns⟩,
    fun hs hr => ⟨congrArg Host.Outcome.next (levelSWrite_of_levelS hr hs), congrArg Host.Outcome.next (levelSWrite_of_levelS hr hs)⟩,
    fun _ _ => exec_dmiAccess_write, fun _ _ _ => exec_sbaAccess_of_completed, fun _ _ => exec_triggerFire_of_event,
    fun hlevel => congrArg Host.Outcome.next (if_pos hlevel), exec_hartResume_of_asked, fun _ _ => exec_semLease_of_halted,
    fun _ hr ht => congrArg Host.Outcome.next (State.regWrite_of_done hr ht), exec_coreWdtExpired_of_counting,
    fun _ _ hs hr => congrArg Host.Outcome.next (levelSWrite_of_levelS hr hs), exec_safeWdt_of_enabled,
    ⟨_, rfl, rfl, getLsbD_or_twoPow _ hub.isLt⟩⟩

end Sys2Proof.Machine
end

section
/-! PROOFS. Power states (spec/15, R897-R903): an entry into STANDBY whose commit point has passed, without the fence that the commit raises. -/

namespace Sys2Proof.Machine

open Sys2Proof

/-- A state that no run reaches: an entry into STANDBY is past its commit point, and yet the gates are not fenced. -/
def unfencedStandbyEntry : State := { State.reset with rst := { RstState.init with entry := some ⟨2, true⟩ } }

/-- The commit point is passed only once, so nothing fences the gates when that entry reaches its state. -/
theorem exec_powerStateReached_unfenced : ∃ t : State, exec .powerStateReached unfencedStandbyEntry = .next t ∧ t.fenced = false :=
  ⟨_, rfl, by decide +kernel⟩

/-- Refutes O27: it asks that whatever entry into STANDBY reaches its state leaves the gates fenced. The commit point raises the fence
(R903), and an entry that is committed already passes it no more; the statement bounds the state by the entry alone, so it also speaks of
`unfencedStandbyEntry`. -/
theorem not_powerEventsAct : ¬ Obligations.PowerEventsAct := by
  intro h
  obtain ⟨-, -, -, -, -, -, hreached, -⟩ := h unfencedStandbyEntry
  obtain ⟨u, hexec, -, -, -, hfenced⟩ := hreached ⟨2, true⟩ rfl (.inr rfl)
  obtain ⟨t, ht, hunfenced⟩ := exec_powerStateReached_unfenced
  obtain rfl : t = u := Host.Outcome.next.inj (ht.symm.trans hexec)
  exact Bool.false_ne_true (hunfenced.symm.trans (hfenced rfl))

end Sys2Proof.Machine
end

section
/-! PROOFS. Resets (spec/16, R928-R962; spec/15, R914): what a device reset leaves, and the resets of hubs, dies, port dies and acres. -/

namespace Sys2Proof.Machine

open Sys2Proof

/-! ### What a device reset leaves (R928, R932) -/

/-- A state without what its DRAM holds and without injections on it: what the loss of a hub's DRAM does not touch (R464). -/
def State.besidesDram (s : State) : State := { s with mem := { s.mem with dram := [] }, errs := { s.errs with injected := [] } }

theorem State.dropDram_besidesDram (s : State) (h : Nat) : (s.dropDram h).besidesDram = s.besidesDram := (rfl)

/-- The hubs that lost their DRAM forget it. -/
def State.dropLost (s : State) (lost : BitVec 2) : State := (List.range 2).foldl (fun t h => if lost.getLsbD h then t.dropDram h else t) s

theorem State.dropLost_besidesDram (s : State) (lost : BitVec 2) : (s.dropLost lost).besidesDram = s.besidesDram :=
  foldl_keeps_value State.besidesDram (fun t h => by
    split
    · exact t.dropDram_besidesDram h
    · rfl) _ s

theorem State.dropLost_dram_nil {s : State} (lost : BitVec 2) (h : s.mem.dram = []) : (s.dropLost lost).mem.dram = [] :=
  List.foldlRecOn (motive := fun t : State => t.mem.dram = []) _ _ h fun t ht hub _ => by
    split
    · rw [State.dropDram, ht]
      rfl
    · exact ht

/-- What a device reset sets besides registers, `kept` being the state whose registers are already reset and whose commands are cut. -/
def State.blocksReset (kept : State) (ao powerOn : Bool) (lost : BitVec 2) : State :=
  { kept with
    latches := []
    errs := kept.errs.afterReset ao powerOn
    tb := TbState.init
    ring := RingState.init
    fab := FabState.init
    links := LinkState.init
    fwl := []
    fenced := false
    mem := kept.mem.afterReset powerOn
    qe := if powerOn then QeState.init else kept.qe
    port := PortState.init
    cmd := kept.cmd.afterReset ao powerOn
    cfg := kept.cfg.afterReset
    cpu := CpuState.init
    rst := kept.rst.afterReset ao powerOn lost }

/-- A device reset resets the registers, then the blocks, and forgets the DRAM that was lost. -/
theorem State.deviceClear_eq (s : State) (ao powerOn : Bool) : s.deviceClear ao powerOn =
    ((((s.opAbort fun _ => true).levelsNone.cutCommands).resetAllRegs ao powerOn).blocksReset ao powerOn s.refreshLost).dropLost s.refreshLost := (rfl)

/-- Everything but registers, DRAM and injections is as the reset of the blocks leaves it. -/
theorem State.deviceClear_blocks (s : State) (ao powerOn : Bool) : ∃ kept : State,
    (s.deviceClear ao powerOn).besidesDram = (kept.blocksReset ao powerOn s.refreshLost).besidesDram ∧
      (powerOn = true → (s.deviceClear ao powerOn).mem.dram = []) := by
  rw [State.deviceClear_eq]
  exact ⟨_, State.dropLost_besidesDram .., fun hpower => State.dropLost_dram_nil _ (if_pos hpower)⟩

/-- A register that no reset of the device keeps, and that none rewrites, reads its reset value. -/
theorem State.resetAllRegs_csr (s : State) (ao powerOn : Bool) {k : Nat} (halways : keptAlways k = false) (hao : keptAo k = false)
    (hwarm : keptWarm k = false) (hrepair : ∀ h < 2, ∀ i < 8, k ≠ HUB_REPAIR h i) (hclk : ∀ h < 2, k ≠ CLK_STAT h) :
    (s.resetAllRegs ao powerOn).csr k = csrDefault k := by
  unfold State.resetAllRegs
  extract_lets st s1 s2
  have hs1 : s1.csr k = csrDefault k := by
    rw [State.csr_resetRegs, halways, hao, hwarm]
    simp only [Bool.and_false, Bool.or_self, Bool.not_false, if_true]
  have hs2 : s2.csr k = csrDefault k :=
    List.foldlRecOn (motive := fun t : State => t.csr k = csrDefault k) _ _ hs1 fun t ht h hh =>
      List.foldlRecOn (motive := fun u : State => u.csr k = csrDefault k) _ _ ht fun u hu i hi =>
        (u.csr_setCsr_ne _ (hrepair h (List.mem_range.1 hh) i (List.mem_range.1 hi))).trans hu
  split
  · exact hs2
  · rw [State.csr_setCsr_ne _ _ (hclk 1 (by decide)), State.csr_setCsr_ne _ _ (hclk 0 (by decide)), hs2]

/-- A device reset leaves RST_STAT at its reset value. -/
theorem State.deviceClear_rstStat (s : State) (ao powerOn : Bool) : (s.deviceClear ao powerOn).csr RST_STAT = 0 := by
  have hregs (t : State) (lost : BitVec 2) : ((t.blocksReset ao powerOn lost).dropLost lost).regs = t.regs :=
    (congrArg State.regs (State.dropLost_besidesDram (t.blocksReset ao powerOn lost) lost) :)
  have hdefault : csrDefault RST_STAT = 0 := by decide
  rw [State.deviceClear_eq, State.csr, hregs, ← State.csr, State.resetAllRegs_csr _ _ _ (by decide) (by decide) (by decide) (by decide) (by decide),
    hdefault]

/-- The registers a device reset writes after it has cleared the others. -/
theorem State.deviceReset_eq (s : State) (ao powerOn : Bool) (cause phase : Nat) : ∃ t : State,
    t = ((s.deviceClear ao powerOn).setFld RST_STAT_PHASE phase).setCsr RST_CAUSE (BitVec.ofNat 32 (cause + 16 * s.safe.toNat)) ∧
      (s.deviceReset ao powerOn cause phase = t ∨ s.deviceReset ao powerOn cause phase = t.satInc PWR_REFUSE_CNT_ABORTED) := by
  refine ⟨_, rfl, ?_⟩
  unfold State.deviceReset
  dsimp only
  split
  · exact .inr rfl
  · exact .inl rfl

/-- A device reset records its cause, and STATE and PHASE of the start-up that follows. -/
theorem State.deviceReset_reads (s : State) (ao powerOn : Bool) (cause : Nat) {phase : Nat} (hphase : phase < 16) :
    (s.deviceReset ao powerOn cause phase).csr RST_CAUSE = BitVec.ofNat 32 (cause + 16 * s.safe.toNat) ∧
      (s.deviceReset ao powerOn cause phase).fld RST_STAT_PHASE = phase ∧ (s.deviceReset ao powerOn cause phase).safe = false := by
  obtain ⟨t, ht, hreset⟩ := s.deviceReset_eq ao powerOn cause phase
  have hcause : t.csr RST_CAUSE = BitVec.ofNat 32 (cause + 16 * s.safe.toNat) := by rw [ht, State.csr_setCsr_same]
  have hshown : t.fld RST_STAT_PHASE = phase := by
    rw [ht, State.fld_setCsr_ne _ _ (by decide), State.fld_setFld_same _ _ _ (by decide)]
    exact Nat.mod_eq_of_lt hphase
  have hstate : t.fld RST_STAT_STATE = 0 := by
    rw [ht, State.fld_setCsr_ne _ _ (by decide), State.fld_setFld_apart _ _ (by decide) (by decide), State.fld]
    simp only [RST_STAT_STATE, State.deviceClear_rstStat, BitVec.toNat_zero, BitVec.ofNat_eq_ofNat, Nat.zero_div, Nat.zero_mod]
  have hcount (g : Fld) (hg : g.key ≠ PWR_REFUSE_CNT) : (t.satInc PWR_REFUSE_CNT_ABORTED).fld g = t.fld g := t.fld_setFld_ne _ hg
  have hsafe {u : State} (hu : u.fld RST_STAT_STATE = 0) : u.safe = false := by rw [State.safe, hu]; rfl
  obtain hreset | hreset := hreset
  · rw [hreset]
    exact ⟨hcause, hshown, hsafe hstate⟩
  · rw [hreset]
    exact ⟨(t.csr_setFld_ne _ (by decide)).trans hcause, (hcount _ (by decide)).trans hshown, hsafe ((hcount _ (by decide)).trans hstate)⟩

/-- Beside registers a device reset leaves what the clearing of the device leaves. -/
theorem State.deviceReset_butRegs (s : State) (ao powerOn : Bool) (cause phase : Nat) :
    ∃ regs, s.deviceReset ao powerOn cause phase = { s.deviceClear ao powerOn with regs := regs } := by
  obtain ⟨t, ht, hreset | hreset⟩ := s.deviceReset_eq ao powerOn cause phase
  · exact ⟨t.regs, by rw [hreset, ht]; rfl⟩
  · exact ⟨(t.satInc PWR_REFUSE_CNT_ABORTED).regs, by rw [hreset, ht]; rfl⟩

/-- A device reset leaves no command waiting, no operation, and the fabric, rings and links as at reset; a power-on reset empties DRAM,
stacked SRAM, the queues and the error log. -/
theorem State.deviceReset_blocks (s : State) (ao powerOn : Bool) (cause phase : Nat) {u : State} (hu : u = s.deviceReset ao powerOn cause phase) :
    u.cmd.waiting = [] ∧ u.cfg.op = none ∧ u.fab = FabState.init ∧ u.links = LinkState.init ∧ u.ring = RingState.init ∧ u.rst.powerOn = powerOn ∧
      (powerOn = true → u.mem.dram = [] ∧ u.mem.sram = [] ∧ u.qe = QeState.init ∧ u.errs.log = []) := by
  obtain ⟨regs, hregs⟩ := s.deviceReset_butRegs ao powerOn cause phase
  obtain ⟨kept, hblocks, hdram⟩ := s.deviceClear_blocks ao powerOn
  rw [hregs] at hu
  subst hu
  refine ⟨congrArg (fun t : State => t.cmd.waiting) hblocks, congrArg (fun t : State => t.cfg.op) hblocks, congrArg State.fab hblocks,
    congrArg State.links hblocks, congrArg State.ring hblocks, congrArg (fun t : State => t.rst.powerOn) hblocks, fun hpower => ?_⟩
  exact ⟨hdram hpower, (congrArg (fun t : State => t.mem.sram) hblocks).trans (if_pos hpower),
    (congrArg State.qe hblocks).trans (if_pos hpower), (congrArg (fun t : State => t.errs.log) hblocks).trans (if_pos hpower)⟩

/-! ### The warm device reset (R928, R933, R962) -/

/-- A wake from PARK resets the device (R907). -/
theorem exec_porst_of_wake {s : State} (hparked : s.rst.parked = true) (hwakes : s.rst.wakes ≠ 0) :
    exec (.porst true) s = .next (s.deviceReset false true 3 1) := by
  change execPorst true s = _
  simp only [execPorst, hparked, hwakes, ne_eq, not_false_eq_true, decide_true, Bool.and_self, if_true]

/-- WRST from the end of SP2 on, or in SAFE, begins a warm device reset (R928, R958). -/
theorem exec_wrst_of_started {s : State} (hawake : s.rst.parked = false) (h : 3 ≤ s.fld RST_STAT_PHASE ∨ s.safe = true) :
    exec .wrst s = .next (s.warmStart true) := by
  have htaken : (s.rst.parked || s.fld RST_STAT_PHASE < 3 && !s.safe) = false := by
    obtain hphase | hsafe := h
    · simp only [hawake, hphase.not_gt, decide_false, Bool.false_and, Bool.or_self]
    · simp only [hawake, hsafe, Bool.not_true, Bool.and_false, Bool.or_self]
  exact congrArg Host.Outcome.next (if_neg (Bool.eq_false_iff.1 htaken))

/-- A hub ends its steps of a warm device reset once. -/
theorem exec_warmDeviceReset_hub {s : State} {h : Fin 2} (hwarm : s.rst.warm = true) (hdone : s.rst.warmDone.getLsbD h = false) :
    exec (.warmDeviceReset (some h)) s = .next
      { s.quiesceHub h with rst := { (s.quiesceHub h).rst with warmDone := (s.quiesceHub h).rst.warmDone ||| BitVec.twoPow 2 h } } := by
  change execWarmDeviceReset (some h) s = _
  simp only [execWarmDeviceReset, hwarm, hdone, Bool.not_true, Bool.false_eq_true, if_false]

/-- The warm device reset applies once both hubs have ended their steps. -/
theorem exec_warmDeviceReset_apply {s : State} (hwarm : s.rst.warm = true) (hdone : s.rst.warmDone = 3) :
    exec (.warmDeviceReset none) s = .next (s.deviceReset false false (if s.rst.warmPin then 4 else 5) 1) := by
  change execWarmDeviceReset none s = _
  simp only [execWarmDeviceReset, hwarm, hdone, Bool.not_true, Bool.false_eq_true, if_false, if_true]

/-- GO of RST_CTL by Level S asks for the reset and completes OK (R962). -/
theorem exec_rstCtlGo_of_levelS {s : State} {mid : BitVec 12} {v : Word} (hr : s.regReached RST_CTL = true) (hs : s.levelS mid.toNat = true)
    (hgo : v.getLsbD 31 = true) : exec (.rstCtlGo mid v) s = .next
      (((((s.setFld RST_CTL_SCOPE (bitsOf v 0 3)).setFld RST_CTL_TARGET (bitsOf v 4 9)).resetAsk (bitsOf v 0 3) (bitsOf v 4 9)).1).send
        (.wrote RST_CTL .ok)) := by
  refine congrArg Host.Outcome.next (State.regWrite_of_done hr ?_)
  simp only [State.rstCtlWrite, hs, hgo, Bool.not_true, Bool.false_eq_true, if_false, if_true]

/-! ### Resets of hubs, dies, port dies and acres (R936-R941) -/

/-- A reset that was asked for is carried out while neither a warm reset nor SAFE keeps it from it (R931). -/
theorem State.reset_proceeds {s : State} {r : ResetRun} (hruns : r ∈ s.rst.running) (hwarm : s.rst.warm = false) (hsafe : s.safe = false) :
    (!s.rst.running.contains r || s.rst.warm || s.safe) = false := by
  simp only [List.contains_iff_mem.2 hruns, hwarm, hsafe, Bool.not_true, Bool.or_self]

/-- A hub reset leaves the hub in reset until it has booted (R936). -/
theorem exec_hubReset_of_asked {s : State} {h : Fin 2} (hruns : ResetRun.hub h ∈ s.rst.running) (hwarm : s.rst.warm = false)
    (hsafe : s.safe = false) : ∃ u : State, exec (.hubReset h) s = .next (u.resetEnds (.hub h)) ∧ u.rst.hubs.getLsbD h = true := by
  have hgoes := State.reset_proceeds hruns hwarm hsafe
  change ∃ u : State, execHubReset h s = _ ∧ _
  refine ⟨_, congrArg Host.Outcome.next (if_neg (Bool.eq_false_iff.1 hgoes)), ?_⟩
  dsimp only
  split
  · exact getLsbD_or_twoPow _ h.isLt
  · exact getLsbD_or_twoPow _ h.isLt

/-- A hub that has booted and trained its memory is out of reset, and what waited for it goes on (R938, R991). -/
theorem exec_hubResetDone_of_trained {s u : State} {h : Fin 2} {chans : Vector ChanTrain 2} {ports : Vector CxlTrain 2}
    (hhub : s.rst.hubs.getLsbD h = true) (hsafe : s.safe = false) (htrained : ((s.penFromBcr h).trainHub h chans ports).2 = false)
    (hu : u = { ((s.penFromBcr h).trainHub h chans ports).1 with
      rst := { ((s.penFromBcr h).trainHub h chans ports).1.rst with
        hubs := ((s.penFromBcr h).trainHub h chans ports).1.rst.hubs &&& ~~~(BitVec.twoPow 2 h) } }) :
    exec (.hubResetDone h true chans ports) s = .next (State.cfgPump 200 u.storeReady.storeTurn).flushFatals.mcServe ∧
      u.rst.hubs.getLsbD h = false := by
  subst hu
  refine ⟨?_, getLsbD_and_not_twoPow _ _⟩
  change execHubResetDone h true chans ports s = _
  simp only [execHubResetDone, hhub, hsafe, htrained, Bool.not_true, Bool.or_self, Bool.false_eq_true, if_false]

/-- A die none of whose acres runs or quiesces is reset, and its BIST runs (R939). -/
theorem exec_dieReset_of_quiet {s : State} {die : Fin 48} {site : Nat} (hruns : ResetRun.die die ∈ s.rst.running) (hwarm : s.rst.warm = false)
    (hsafe : s.safe = false) (hsite : s.siteOf die = some site)
    (hquiet : ∀ la ∈ s.dieAcres die, s.acreState la ≠ acRunning ∧ s.acreState la ≠ acQuiescing) :
    ∃ u : State, exec (.dieReset die) s = .next { (u.resetLogicDie site).resetEnds (.die die) with
      rst := { ((u.resetLogicDie site).resetEnds (.die die)).rst with
        running := ((u.resetLogicDie site).resetEnds (.die die)).rst.running ++ [.bist die] } } := by
  have hgoes := State.reset_proceeds hruns hwarm hsafe
  have hrunning : ((s.dieAcres die).any fun la => s.acreState la = acRunning) = false :=
    List.any_eq_false.2 fun la hla => by simpa using (hquiet la hla).1
  have hquiescing : ((s.dieAcres die).any fun la => s.acreState la = acQuiescing) = false :=
    List.any_eq_false.2 fun la hla => by simpa using (hquiet la hla).2
  refine ⟨(s.dieAcres die).foldl (fun t la => ((t.putLoad la none).dropDue la).acreGone la acEmpty) (s.opAbort fun la => (s.dieAcres die).contains la), ?_⟩
  change execDieReset die s = _
  simp only [execDieReset, hgoes, hsite, hrunning, hquiescing, Bool.false_eq_true, if_false]

/-- A die whose BIST passes loads its clocks again (R939). -/
theorem exec_dieReady_of_pass {s : State} {die : Fin 48} {site : Nat} (hruns : ResetRun.bist die ∈ s.rst.running) (hsite : s.siteOf die = some site) :
    exec (.dieReady die true) s = .next ((s.resetEnds (.bist die)).loadClocks site) := by
  change execDieReady die true s = _
  simp only [execDieReady, List.contains_iff_mem.2 hruns, hsite, Bool.not_true, Bool.false_eq_true, if_false, if_true]

/-- A port die whose BIST passes takes up its configuration again (R940). -/
theorem exec_portDieReset_of_pass {s : State} {port : Fin 4} (hruns : ResetRun.port port ∈ s.rst.running) (hwarm : s.rst.warm = false)
    (hsafe : s.safe = false) : exec (.portDieReset port true) s = .next
      ((((s.resetPort port).resetEnds (.port port)).setSite (fun h => HUB_SITE_STAT_STATE h (16 * port)) 1).portFromBcr port) := by
  have hgoes := State.reset_proceeds hruns hwarm hsafe
  change execPortDieReset port true s = _
  simp only [execPortDieReset, hgoes, Bool.false_eq_true, if_false, if_true]

/-- The reset of an acre lets it quiesce first (R941). -/
theorem exec_acreReset_of_asked {s : State} {acre : Fin 192} (hruns : ResetRun.acre acre ∈ s.rst.running) (hwarm : s.rst.warm = false)
    (hsafe : s.safe = false) : exec (.acreReset acre) s = .next (s.quiesce acre) := by
  change execAcreReset acre s = _
  simp only [execAcreReset, List.contains_iff_mem.2 hruns, hwarm, hsafe, Bool.not_false, Bool.and_self, if_true]

/-- Settles O25, reset by reset. -/
theorem resetCommandsAct : Obligations.ResetCommandsAct := by
  intro s
  refine ⟨rfl, exec_porst_of_wake, fun _ => rfl, fun _ => rfl, fun ao powerOn cause phase u hu _ hphase => ?device, exec_wrst_of_started,
    fun _ => exec_warmDeviceReset_hub, exec_warmDeviceReset_apply, fun _ _ => exec_rstCtlGo_of_levelS, fun _ => exec_hubReset_of_asked,
    fun _ _ _ _ => exec_hubResetDone_of_trained, fun _ _ => exec_dieReset_of_quiet, fun _ _ => exec_dieReady_of_pass,
    fun _ => exec_portDieReset_of_pass, fun _ => exec_acreReset_of_asked⟩
  case device =>
    obtain ⟨hcause, hshown, hsafe⟩ := s.deviceReset_reads ao powerOn cause hphase
    rw [← hu] at hcause hshown hsafe
    exact ⟨hcause, hshown, hsafe, s.deviceReset_blocks ao powerOn cause phase hu⟩

end Sys2Proof.Machine
end
